-- ==== Sys2Proof/Word.lean ====
section
/-! DEFINITION. Word types of the KP-1: lane values, lane masks, addresses (R13, R17, R31, R37). -/

namespace Sys2Proof

/-- One byte of any store. -/
abbrev Byte := BitVec 8

/-- A 32-bit lane value, scalar register or control register (R17, R29). -/
abbrev Word := BitVec 32

/-- A 64-bit value, held in an even-odd pair (R18). -/
abbrev Dword := BitVec 64

/-- One bit per lane of a warp, lane 0 in bit 0 (R12). -/
abbrev LaneMask := BitVec 32

/-- The 32 lane values of one register (R17). -/
abbrev Lanes := Vector Word 32

/-- A 57-bit virtual byte address (R31, R406). -/
abbrev VAddr := BitVec 57

/-- A buffer record (R31). -/
abbrev Record := BitVec 256

/-- The lane values that `f` gives, lane by lane. -/
def Lanes.of (f : Fin 32 → Word) : Lanes := Vector.ofFn f

/-- The mask of the lanes at which `p` holds. -/
def LaneMask.of (p : Fin 32 → Bool) : LaneMask :=
  BitVec.ofBoolListLE ((List.finRange 32).map p)

/-- All 32 lanes. -/
def LaneMask.all : LaneMask := BitVec.allOnes 32

/-- The lanes of a mask, ascending. -/
def LaneMask.lanes (m : LaneMask) : List (Fin 32) :=
  (List.finRange 32).filter fun l => m.getLsbD l.val

/-- The number of lanes in a mask. -/
def LaneMask.count (m : LaneMask) : Nat := (LaneMask.lanes m).length

/-- The lowest lane of a mask, 0 when the mask is empty. -/
def LaneMask.lowest (m : LaneMask) : Fin 32 := (LaneMask.lanes m).head?.getD 0

/-- The mask holding one lane. -/
def LaneMask.one (l : Fin 32) : LaneMask := LaneMask.of fun k => k == l

end Sys2Proof
end

