-- ==== Sys2Proof/Config.lean ====
section
/-! DEFINITION. What the manual leaves open: values without a body, which no proof can evaluate. -/

namespace Sys2Proof.Config

/-- Cycles that pass beside the beats of the n-th step: the manual gives minima only (R182, R358); log entry 3. -/
opaque stall : Nat → Nat

/-- What FRCP, FRSQ, FEX2, FLG2, FSIN, FCOS and FTANH deliver before the bound of R148 is imposed: a fixed function
of the operation and the operand bits (R149); log entry 4. -/
opaque special : Nat → Word → Word

/-- Is this ML-DSA-65 signature of the message right under the public key? (R437); log entry 5. -/
opaque mlDsaVerify : List Byte → List Byte → List Byte → Bool

/-- The device's own ML-DSA-65 signature over a message (R438); log entry 5. -/
opaque deviceSign : List Byte → List Byte

/-- The device public key, 1,952 bytes (R438); log entry 5. -/
opaque deviceKey : Nat → Byte

/-- The vendor's signature over the device key, kept in flash at manufacture (R438); log entry 5. -/
opaque vendorSignature : Nat → Byte

/-- The first 32 bytes of SHAKE256 of vendor public key slot k, as fused (R437); log entry 5. -/
opaque vendorDigest : Nat → Nat → Byte

/-- The owner-key digest as fused (R437); log entry 5. -/
opaque ownerDigest : Nat → Byte

/-- The bytes of firmware state that a fatal dump holds for a section of TYPE 1 or 2 of a unit (R440); log entry 6. -/
opaque firmwareState : Nat → Nat → List Byte

/-- The bytes of an image that no table of the manual lays out: operand log, wait and engine records (R400); log entry 6. -/
opaque imageByte : Nat → Byte

/-- The bytes of a flash bank as manufactured (R437, R441); log entry 5. -/
opaque flashByte : Nat → Nat → Byte

/-- The bytes of the signed configuration record (R437); log entry 5. -/
opaque configRecord : Nat → Byte

/-- The outcome of the self-test and training of the TEST stage: rows remapped (R441); log entry 6. -/
opaque testRemaps : Nat → Nat

/-- The byte of a flit's payload that carries a byte of a message: kind, address, operand bytes, position; the manual lays
out no message (R422); log entry 10. -/
opaque flitByte : Nat → Nat → List Byte → Nat → Byte

/-- CRC-64 of the first 248 bytes of a flit: the manual gives no polynomial (R422); log entry 10. -/
opaque crc64 : List Byte → BitVec 64

/-- Does a walk whose cached table entry was changed use the old entry, before an invalidation has completed? By the count of
free values, context and entry address (R410); log entry 20. -/
opaque oldEntry : Nat → Nat → Nat → Bool

/-- Does a fetched word that its own launch has written hold its old value? By the count of free values and word (R43);
log entry 21. -/
opaque oldWord : Nat → Nat → Bool

/-- Does the host refuse a posted write? By the count of free values and address (R414); log entry 90. -/
opaque hostRefuses : Nat → Nat → Bool

/-- Does a register write that an event stands for come from function 0, and not from the context's own function? By the count
of free values and context: the event's row does not say (R413, R416); log entry 97. -/
opaque byPhysical : Nat → Nat → Bool

/-- How many primitives a block's output holds beyond the 32 of one warp, before EMITP waits (R238); log entry 80. -/
opaque primRoom : Nat

/-- A value that the manual leaves without a stated result, by a code for the case and two operand words; log entry 7. -/
opaque unstated : Nat → Word → Word → Word

end Sys2Proof.Config
end

