-- ==== Sys2Proof/Machine/Map.lean ====
section
/-! DEFINITION. Finite maps and memories as lists in one canonical form: keys strictly rising; in a memory no entry
equal to what an unlisted address reads as. -/

namespace Sys2Proof.Machine

/-- The value listed at a key. -/
def Map.find {α : Type} : List (Nat × α) → Nat → Option α
  | [], _ => none
  | p :: m, k => if p.1 = k then some p.2 else Map.find m k

/-- The list without a key. -/
def Map.erase {α : Type} (m : List (Nat × α)) (k : Nat) : List (Nat × α) :=
  m.filter fun p => p.1 != k

/-- Puts an entry before the first greater key. -/
def Map.ins {α : Type} : List (Nat × α) → Nat → α → List (Nat × α)
  | [], k, v => [(k, v)]
  | p :: m, k, v => if k < p.1 then (k, v) :: p :: m else p :: Map.ins m k v

/-- The map with `v` at key `k`. -/
def Map.set {α : Type} (m : List (Nat × α)) (k : Nat) (v : α) : List (Nat × α) :=
  Map.ins (Map.erase m k) k v

/-- The value at a key, or the default. -/
def Map.getD {α : Type} (m : List (Nat × α)) (k : Nat) (d : α) : α := (Map.find m k).getD d

/-- The map with `v` at key `k`, where `d` is what an absent key reads as. -/
def Map.put {α : Type} [DecidableEq α] (m : List (Nat × α)) (k : Nat) (v d : α) : List (Nat × α) :=
  if v = d then Map.erase m k else Map.set m k v

/-- The keys rise strictly. -/
def Map.sorted {α : Type} : List (Nat × α) → Bool
  | [] => true
  | [_] => true
  | p :: q :: m => decide (p.1 < q.1) && Map.sorted (q :: m)

/-- A byte store: device memory, host memory, a core SRAM allocation, a weight buffer. -/
abbrev Mem := List Host.Cell

/-- What an address that is not listed reads as: zero (R297 for core SRAM; for DRAM at power-on log entry 2). -/
def Mem.unlisted : Byte := 0

/-- One byte of a store. -/
def Mem.byte (m : Mem) (a : Nat) : Byte := Map.getD m a Mem.unlisted

/-- A store with one byte written. -/
def Mem.setByte (m : Mem) (a : Nat) (b : Byte) : Mem := Map.put m a b Mem.unlisted

/-- The canonical form of a store. -/
def Mem.wf (m : Mem) : Bool := Map.sorted m && m.all fun p => p.2 != Mem.unlisted

/-- `n` bytes from `a`, as a little-endian number (R4). -/
def Mem.read (m : Mem) (a : Nat) : Nat → Nat
  | 0 => 0
  | n + 1 => (Mem.byte m a).toNat + 256 * Mem.read m (a + 1) n

/-- `n` bytes of the number `v` written little-endian at `a` (R4). -/
def Mem.write (m : Mem) (a : Nat) : Nat → Nat → Mem
  | 0, _ => m
  | n + 1, v => Mem.write (Mem.setByte m a (BitVec.ofNat 8 v)) (a + 1) n (v / 256)

/-- The bytes of `n` addresses from `a`. -/
def Mem.bytes (m : Mem) (a : Nat) : Nat → List Byte
  | 0 => []
  | n + 1 => Mem.byte m a :: Mem.bytes m (a + 1) n

/-- A list of bytes written from `a` on. -/
def Mem.putBytes (m : Mem) (a : Nat) : List Byte → Mem
  | [] => m
  | b :: bs => Mem.putBytes (Mem.setByte m a b) (a + 1) bs

/-- `n` zero bytes written from `a` on: every listed entry of the range goes. -/
def Mem.zero (m : Mem) (a n : Nat) : Mem := m.filter fun p => !(decide (a ≤ p.1) && decide (p.1 < a + n))

/-- The low `n` bytes of a number, little-endian. -/
def leBytes : Nat → Nat → List Byte
  | 0, _ => []
  | n + 1, v => BitVec.ofNat 8 v :: leBytes n (v / 256)

/-- The number that bytes hold, little-endian. -/
def leNat : List Byte → Nat
  | [] => 0
  | b :: bs => b.toNat + 256 * leNat bs

/-- Bits [hi:lo] of a number (R9). -/
def bitsOf (v hi lo : Nat) : Nat := v / 2 ^ lo % 2 ^ (hi + 1 - lo)

/-- Bit [n] of a number. -/
def bitOf (v n : Nat) : Bool := v / 2 ^ n % 2 == 1

end Sys2Proof.Machine
end

