-- ==== Sys2Proof/Syntax.lean ====
section
/-! DEFINITION. The syntax of the KP-1: operand forms, modifiers, and the one inductive `Instr`, one constructor for
each row of the opcode table: SIMT instructions, field-bytecode operations, and the machine's events. -/

namespace Sys2Proof

/-- A 16-bit immediate (R51). -/
abbrev Imm16 := BitVec 16

/-- The predicate of an instruction: register and negation (R44). -/
structure Guard where
  q : Nat
  neg : Bool
  deriving DecidableEq, Repr

/-- A source of the vector class with its LR and TE flags (R24, R27, R46). -/
structure VSrc where
  n : Nat
  lr : Bool
  te : Bool
  deriving DecidableEq, Repr

/-- A source of the value class: a vector register, a scalar register, or the zero source (R45, R46). -/
inductive Src where
  | v (n : Nat) (lr te : Bool)
  | s (n : Nat)
  | zs
  deriving DecidableEq, Repr

/-- A source of the scalar class (R29, R45). -/
inductive SSrc where
  | s (n : Nat)
  | zs
  deriving DecidableEq, Repr

/-- Rounding modes (R47). -/
inductive Rm where
  | rn | rz | rd | ru
  deriving DecidableEq, Repr

/-- Memory scopes (R48). -/
inductive Scope where
  | blk | core | chip | dom | sys
  deriving DecidableEq, Repr

/-- Integer conditions (R110). -/
inductive ICond where
  | eq | ne | lt | le | gt | ge
  deriving DecidableEq, Repr

/-- Floating conditions (R145). -/
inductive FCond where
  | eq | ne | lt | le | gt | ge | ord | uno
  deriving DecidableEq, Repr

/-- Floating formats of FCLASS and the conversions (R146, R153). -/
inductive Fmt where
  | f32 | f64 | f16 | bf16
  deriving DecidableEq, Repr

/-- Integer formats of CVTFI and CVTIF (R154). -/
inductive IntFmt where
  | s32 | u32 | s64 | u64
  deriving DecidableEq, Repr

/-- Integer types of CVTII (R156). -/
inductive IntType where
  | s8 | u8 | s16 | u16 | s32 | u32 | s64 | u64
  deriving DecidableEq, Repr

/-- How the two element results of HCMP2 combine (R152). -/
inductive Comb where
  | lo | hi | and | or
  deriving DecidableEq, Repr

/-- The operations of PLOP (R118). -/
inductive PlopOp where
  | and | or | xor | andn | nand | nor | xnor | mov | not
  deriving DecidableEq, Repr

/-- The modes of SHFL (R165). -/
inductive ShflMode where
  | abs | rot | xor | rev
  deriving DecidableEq, Repr

/-- The modes of VOTE (R167). -/
inductive VoteMode where
  | cnt | mask | some | each | same | odd
  deriving DecidableEq, Repr

/-- The operations of REDUX, SCAN, SEGRED and COLL (R168). -/
inductive RedOp where
  | add | min | max | umin | umax | and | or | xor | fadd | fmin | fmax
  deriving DecidableEq, Repr

/-- What SLIDE fills vacated positions with (R172). -/
inductive Fill where
  | fb | fc | fz | fe
  deriving DecidableEq, Repr

/-- Access widths and extensions (R184). -/
inductive Width where
  | b8 | s8 | b16 | s16 | b32 | b64 | b128
  deriving DecidableEq, Repr

/-- LLC hints (R184). -/
inductive Hint where
  | none | last | keep
  deriving DecidableEq, Repr

/-- The operations of ATOM, ATOMS and RED (R195). -/
inductive AtomOp where
  | add | min | max | umin | umax | and | or | xor | exch | cas | fadd
  deriving DecidableEq, Repr

/-- The modes of ACQ (R197). -/
inductive AcqMode where
  | plain | ge | eq
  deriving DecidableEq, Repr

/-- The modes of REL (R198). -/
inductive RelMode where
  | st | add
  deriving DecidableEq, Repr

/-- What FENCE orders (R199). -/
inductive FenceKind where
  | rw | w | r
  deriving DecidableEq, Repr

/-- The depth tests of MARCH (R232). -/
inductive DepthTest where
  | none | lt | le
  deriving DecidableEq, Repr

/-- The operations of COLL (R233). -/
inductive CollOp where
  | allred | redsc | allgat | bcast | bar
  deriving DecidableEq, Repr

/-- The operations of TBLEND (R239). -/
inductive BlendOp where
  | rep | over | add | min | max
  deriving DecidableEq, Repr

/-- The operations of BREC (R183). -/
inductive BrecOp where
  | copy | base | ext | str | fmt | guard | sub | lds | sts
  deriving DecidableEq, Repr

/-- The field operations that have a PRUNE form (R249, R264). -/
inductive PruneOp where
  | add | sub | mul | div | min | max | smin | smax | addc | rsubc | mulc | minc | maxc | clamp | neg | abs | sqrt | sqr | sin | cos | floor | fract | len2 | len3 | mix
  deriving DecidableEq, Repr

/-- How a SEG instruction names its segment: a 64-bit hash, or a register pair (R206). -/
inductive SegName where
  | imm (h : Dword)
  | reg (a : VSrc)
  deriving DecidableEq, Repr

/-- The rows of the opcode table: one constructor each. Register operands are numbers; `d`, `q` and `bd` are
destinations. Events carry what they act on and what the scheduling of R330, R337 and the host leave open. -/
inductive Instr where
  -- SIMT instructions (R57)
  /-- IADD: Adds two 32-bit values per thread, wrapping. (R104) -/
  | iadd (g : Guard) (d : Nat) (a : Src) (b : Src)
  /-- ISUB: Subtracts B from A per thread, wrapping. (R104) -/
  | isub (g : Guard) (d : Nat) (a : Src) (b : Src)
  /-- IMUL: Writes the low 32 bits of the product of A and B. (R104) -/
  | imul (g : Guard) (d : Nat) (a : Src) (b : Src)
  /-- IMULH: Writes the high 32 bits of the signed product. (R104) -/
  | imulh (g : Guard) (d : Nat) (a : Src) (b : Src)
  /-- UMULH: Writes the high 32 bits of the unsigned product. (R104) -/
  | umulh (g : Guard) (d : Nat) (a : Src) (b : Src)
  /-- IMIN: Writes the signed minimum of A and B. (R104) -/
  | imin (g : Guard) (d : Nat) (a : Src) (b : Src)
  /-- IMAX: Writes the signed maximum of A and B. (R104) -/
  | imax (g : Guard) (d : Nat) (a : Src) (b : Src)
  /-- UMIN: Writes the unsigned minimum of A and B. (R104) -/
  | umin (g : Guard) (d : Nat) (a : Src) (b : Src)
  /-- UMAX: Writes the unsigned maximum of A and B. (R104) -/
  | umax (g : Guard) (d : Nat) (a : Src) (b : Src)
  /-- IABS: Writes the signed absolute value of A. (R104) -/
  | iabs (g : Guard) (d : Nat) (a : Src)
  /-- INEG: Writes 0 minus A. (R104) -/
  | ineg (g : Guard) (d : Nat) (a : Src)
  /-- ICMP: Compares signed values and writes a predicate. (R110) -/
  | icmp (g : Guard) (q : Nat) (cc : ICond) (a : Src) (b : Src)
  /-- UCMP: Compares unsigned values and writes a predicate. (R110) -/
  | ucmp (g : Guard) (q : Nat) (cc : ICond) (a : Src) (b : Src)
  /-- IADD64: Adds 64-bit register pairs, wrapping. (R106) -/
  | iadd64 (g : Guard) (d : Nat) (a : VSrc) (b : VSrc)
  /-- ISUB64: Subtracts 64-bit register pairs, wrapping. (R106) -/
  | isub64 (g : Guard) (d : Nat) (a : VSrc) (b : VSrc)
  /-- IMUL64: Writes the low 64 bits of a 64-bit product. (R106) -/
  | imul64 (g : Guard) (d : Nat) (a : VSrc) (b : VSrc)
  /-- LEA: Computes A plus B shifted left by the MOD shift. (R107) -/
  | lea (g : Guard) (d : Nat) (sh : Nat) (a : Src) (b : Src)
  /-- IDIV: Divides signed values, truncating, with defined results for zero divisors. (R105) -/
  | idiv (g : Guard) (d : Nat) (a : Src) (b : Src)
  /-- UDIV: Divides unsigned values with defined results for zero divisors. (R105) -/
  | udiv (g : Guard) (d : Nat) (a : Src) (b : Src)
  /-- IREM: Writes the signed remainder. (R105) -/
  | irem (g : Guard) (d : Nat) (a : Src) (b : Src)
  /-- UREM: Writes the unsigned remainder. (R105) -/
  | urem (g : Guard) (d : Nat) (a : Src) (b : Src)
  /-- IADDI: Adds a sign-extended 16-bit immediate. (R109) -/
  | iaddi (g : Guard) (d : Nat) (a : Src) (imm : Imm16)
  /-- IMULI: Multiplies by a sign-extended 16-bit immediate. (R109) -/
  | imuli (g : Guard) (d : Nat) (a : Src) (imm : Imm16)
  /-- ICMPI: Compares signed against an immediate and writes a predicate. (R110) -/
  | icmpi (g : Guard) (q : Nat) (cc : ICond) (a : Src) (imm : Imm16)
  /-- UCMPI: Compares unsigned against a zero-extended immediate. (R110) -/
  | ucmpi (g : Guard) (q : Nat) (cc : ICond) (a : Src) (imm : Imm16)
  /-- MOVI: Writes a sign-extended 16-bit immediate as U. (R109) -/
  | movi (g : Guard) (d : Nat) (imm : Imm16)
  /-- LEAI: Computes A shifted left plus a sign-extended immediate. (R107) -/
  | leai (g : Guard) (d : Nat) (sh : Nat) (a : Src) (imm : Imm16)
  /-- ANDI: ANDs with a zero-extended immediate. (R109) -/
  | andi (g : Guard) (d : Nat) (a : Src) (imm : Imm16)
  /-- ORI: ORs with a zero-extended immediate. (R109) -/
  | ori (g : Guard) (d : Nat) (a : Src) (imm : Imm16)
  /-- XORI: XORs with a zero-extended immediate. (R109) -/
  | xori (g : Guard) (d : Nat) (a : Src) (imm : Imm16)
  /-- SHLI: Shifts left by an immediate amount. (R109) -/
  | shli (g : Guard) (d : Nat) (a : Src) (imm : Imm16)
  /-- SHRI: Shifts right logically by an immediate amount. (R109) -/
  | shri (g : Guard) (d : Nat) (a : Src) (imm : Imm16)
  /-- SARI: Shifts right arithmetically by an immediate amount. (R109) -/
  | sari (g : Guard) (d : Nat) (a : Src) (imm : Imm16)
  /-- BFE: Extracts a bit field, zero- or sign-extended. (R114) -/
  | bfe (g : Guard) (d : Nat) (sgn : Bool) (a : Src) (pos : Nat) (len : Nat)
  /-- SADDI: Adds an immediate to a scalar register. (R123) -/
  | saddi (g : Guard) (d : Nat) (a : SSrc) (imm : Imm16)
  /-- SMOVI: Writes a sign-extended immediate to a scalar register. (R123) -/
  | smovi (g : Guard) (d : Nat) (imm : Imm16)
  /-- CSRR: Reads a control register into a vector register as U. (R241) -/
  | csrr (g : Guard) (d : Nat) (num : Nat) (hi : Bool)
  /-- CSRW: Writes the RW fields of a control register from the lowest thread of W. (R241) -/
  | csrw (g : Guard) (num : Nat) (hi : Bool) (a : Src)
  /-- SYSV: Reads a system value into a vector register with recovered shape. (R28) -/
  | sysv (g : Guard) (d : Nat) (num : Nat)
  /-- SLEEP: Stops the warp from issuing for an immediate number of cycles. (R136) -/
  | sleep (g : Guard) (imm : Imm16)
  /-- BKPT: Raises BRKPT with the immediate as DETAIL. (R137) -/
  | bkpt (g : Guard) (imm : Imm16)
  /-- TRAP: Raises USER with the immediate as DETAIL. (R137) -/
  | trap (g : Guard) (imm : Imm16)
  /-- DETPT: Appends or checks a replay-log entry in proof mode. (R245) -/
  | detpt (g : Guard) (a : Src) (tag : Imm16)
  /-- AND: Bitwise AND. (R111) -/
  | and (g : Guard) (d : Nat) (a : Src) (b : Src)
  /-- OR: Bitwise OR. (R111) -/
  | or (g : Guard) (d : Nat) (a : Src) (b : Src)
  /-- XOR: Bitwise XOR. (R111) -/
  | xor (g : Guard) (d : Nat) (a : Src) (b : Src)
  /-- ANDN: Computes A AND NOT B. (R111) -/
  | andn (g : Guard) (d : Nat) (a : Src) (b : Src)
  /-- NOT: Bitwise complement of A. (R111) -/
  | not (g : Guard) (d : Nat) (a : Src)
  /-- SHL: Shifts left by the 32-bit amount in B. (R113) -/
  | shl (g : Guard) (d : Nat) (a : Src) (b : Src)
  /-- SHR: Shifts right logically by the amount in B. (R113) -/
  | shr (g : Guard) (d : Nat) (a : Src) (b : Src)
  /-- SAR: Shifts right arithmetically by the amount in B. (R113) -/
  | sar (g : Guard) (d : Nat) (a : Src) (b : Src)
  /-- ROL: Rotates A left by B[4:0]. (R111) -/
  | rol (g : Guard) (d : Nat) (a : Src) (b : Src)
  /-- ROR: Rotates A right by B[4:0]. (R111) -/
  | ror (g : Guard) (d : Nat) (a : Src) (b : Src)
  /-- POPC: Counts one bits of A. (R111) -/
  | popc (g : Guard) (d : Nat) (a : Src)
  /-- CLZ: Counts leading zero bits of A. (R111) -/
  | clz (g : Guard) (d : Nat) (a : Src)
  /-- CTZ: Counts trailing zero bits of A. (R111) -/
  | ctz (g : Guard) (d : Nat) (a : Src)
  /-- BREV: Reverses the bits of A. (R111) -/
  | brev (g : Guard) (d : Nat) (a : Src)
  /-- MOV: Copies A, keeping its shape. (R116) -/
  | mov (g : Guard) (d : Nat) (a : Src)
  /-- SEL: Selects A or B per thread by a predicate. (R117) -/
  | sel (g : Guard) (d : Nat) (a : Src) (b : Src) (q : Nat) (neg : Bool)
  /-- PLOP: Combines two predicates through a 4-bit table. (R118) -/
  | plop (g : Guard) (q : Nat) (op : PlopOp) (qa : Nat) (qb : Nat)
  /-- P2V: Converts a predicate to a vector value. (R119) -/
  | p2v (g : Guard) (d : Nat) (m : Bool) (qa : Nat)
  /-- V2P: Writes a predicate true where A is nonzero. (R119) -/
  | v2p (g : Guard) (q : Nat) (a : Src)
  /-- SHAPE: Reads a register's tag or pending mask. (R120) -/
  | shape (g : Guard) (d : Nat) (pend : Bool) (a : VSrc)
  /-- EXPAND: Stores a register's values as G without recovery. (R121) -/
  | expand (g : Guard) (d : Nat) (a : VSrc)
  /-- MKAFF: Builds A plus lane times B per lane. (R122) -/
  | mkaff (g : Guard) (d : Nat) (a : Src) (b : Src)
  /-- SHRR: Rounding arithmetic right shift with optional 16-bit clamp. (R162) -/
  | shrr (g : Guard) (d : Nat) (he : Bool) (s16 : Bool) (a : Src) (b : Src)
  /-- SMOV: Copies a scalar register. (R123) -/
  | smov (g : Guard) (d : Nat) (a : SSrc)
  /-- SADD: Adds two scalar registers. (R123) -/
  | sadd (g : Guard) (d : Nat) (a : SSrc) (b : SSrc)
  /-- SSUB: Subtracts two scalar registers. (R123) -/
  | ssub (g : Guard) (d : Nat) (a : SSrc) (b : SSrc)
  /-- SMUL: Multiplies two scalar registers, low 32 bits. (R123) -/
  | smul (g : Guard) (d : Nat) (a : SSrc) (b : SSrc)
  /-- SAND: Scalar bitwise AND. (R123) -/
  | sand (g : Guard) (d : Nat) (a : SSrc) (b : SSrc)
  /-- SOR: Scalar bitwise OR. (R123) -/
  | sor (g : Guard) (d : Nat) (a : SSrc) (b : SSrc)
  /-- SXOR: Scalar bitwise XOR. (R123) -/
  | sxor (g : Guard) (d : Nat) (a : SSrc) (b : SSrc)
  /-- SSHL: Scalar shift left. (R123) -/
  | sshl (g : Guard) (d : Nat) (a : SSrc) (b : SSrc)
  /-- SSHR: Scalar logical shift right. (R123) -/
  | sshr (g : Guard) (d : Nat) (a : SSrc) (b : SSrc)
  /-- SSAR: Scalar arithmetic shift right. (R123) -/
  | ssar (g : Guard) (d : Nat) (a : SSrc) (b : SSrc)
  /-- SMIN: Scalar signed or unsigned minimum. (R123) -/
  | smin (g : Guard) (d : Nat) (u : Bool) (a : SSrc) (b : SSrc)
  /-- SMAX: Scalar signed or unsigned maximum. (R123) -/
  | smax (g : Guard) (d : Nat) (u : Bool) (a : SSrc) (b : SSrc)
  /-- SCMP: Compares scalar registers and writes a U predicate. (R124) -/
  | scmp (g : Guard) (q : Nat) (cc : ICond) (u : Bool) (a : SSrc) (b : SSrc)
  /-- V2S: Copies the lowest live lane of a vector register to a scalar register. (R125) -/
  | v2s (g : Guard) (d : Nat) (a : VSrc)
  /-- BRX: Branches each thread by a PC-relative register offset. (R129) -/
  | brx (g : Guard) (uni : Bool) (a : Src)
  /-- CALLI: Calls by a register offset, pushing the return link. (R129) -/
  | calli (g : Guard) (uni : Bool) (a : Src)
  /-- RET: Pops return links; threads at depth 0 raise RETEMPTY. (R132) -/
  | ret (g : Guard)
  /-- EXIT: Sets the threads of W to EXITED, possibly ending the warp and block. (R133) -/
  | exit (g : Guard)
  /-- NOP: Advances the PC with no other effect. (R134) -/
  | nop (g : Guard)
  /-- RTE: Ends a trap handler and resumes the trapping run at KEPC. (R246) -/
  | rte (g : Guard)
  /-- GETCLK: Reads the cycle counter, or the retired count in proof mode. (R242) -/
  | getclk (g : Guard) (d : Nat)
  /-- GETRET: Reads the top return link or the return depth. (R243) -/
  | getret (g : Guard) (d : Nat) (depth : Bool)
  /-- BRA: Branches the threads of W to a PC-relative target. (R127) -/
  | bra (g : Guard) (off : Word)
  /-- BRA_U: Branches the whole run, raising UNIFORM if the predicate differs. (R128) -/
  | braU (g : Guard) (off : Word)
  /-- CALL: Pushes the return link and branches to a PC-relative target. (R131) -/
  | call (g : Guard) (off : Word)
  /-- YIELD: Parks at a pending pre-emption or sets the warp aside. (R135) -/
  | yield (g : Guard) (off : Word)
  /-- PHINT: Parks at a pending pre-emption, otherwise does nothing. (R135) -/
  | phint (g : Guard) (off : Word)
  /-- MOVI32: Writes a 32-bit immediate. (R109) -/
  | movi32 (g : Guard) (d : Nat) (imm : Word)
  /-- IADDI32: Adds a 32-bit immediate. (R109) -/
  | iaddi32 (g : Guard) (d : Nat) (a : Src) (imm : Word)
  /-- IMULI32: Multiplies by a 32-bit immediate. (R109) -/
  | imuli32 (g : Guard) (d : Nat) (a : Src) (imm : Word)
  /-- ANDI32: ANDs with a 32-bit immediate. (R109) -/
  | andi32 (g : Guard) (d : Nat) (a : Src) (imm : Word)
  /-- ORI32: ORs with a 32-bit immediate. (R109) -/
  | ori32 (g : Guard) (d : Nat) (a : Src) (imm : Word)
  /-- XORI32: XORs with a 32-bit immediate. (R109) -/
  | xori32 (g : Guard) (d : Nat) (a : Src) (imm : Word)
  /-- FADDI32: Adds an FP32 immediate with rounding. (R141) -/
  | faddi32 (g : Guard) (d : Nat) (rm : Rm) (a : Src) (imm : Word)
  /-- FMULI32: Multiplies by an FP32 immediate with rounding. (R141) -/
  | fmuli32 (g : Guard) (d : Nat) (rm : Rm) (a : Src) (imm : Word)
  /-- SMOVI32: Writes a 32-bit immediate to a scalar register. (R123) -/
  | smovi32 (g : Guard) (d : Nat) (imm : Word)
  /-- NOPW: A 96-bit no-operation. (R134) -/
  | nopw (g : Guard)
  /-- FADD: FP32 addition, rounded in RM. (R141) -/
  | fadd (g : Guard) (d : Nat) (rm : Rm) (a : Src) (b : Src)
  /-- FSUB: FP32 subtraction, rounded in RM. (R141) -/
  | fsub (g : Guard) (d : Nat) (rm : Rm) (a : Src) (b : Src)
  /-- FMUL: FP32 multiplication, rounded in RM. (R141) -/
  | fmul (g : Guard) (d : Nat) (rm : Rm) (a : Src) (b : Src)
  /-- FDIV: Correctly rounded FP32 division as a special-function operation. (R141) -/
  | fdiv (g : Guard) (d : Nat) (rm : Rm) (a : Src) (b : Src)
  /-- FMIN: FP32 minimumNumber. (R143) -/
  | fmin (g : Guard) (d : Nat) (a : Src) (b : Src)
  /-- FMAX: FP32 maximumNumber. (R143) -/
  | fmax (g : Guard) (d : Nat) (a : Src) (b : Src)
  /-- FABS: Clears the FP32 sign bit. (R144) -/
  | fabs (g : Guard) (d : Nat) (a : Src)
  /-- FNEG: Inverts the FP32 sign bit. (R144) -/
  | fneg (g : Guard) (d : Nat) (a : Src)
  /-- FCMP: Compares FP32 values and writes a predicate. (R145) -/
  | fcmp (g : Guard) (q : Nat) (cc : FCond) (a : Src) (b : Src)
  /-- FCLASS: Writes a one-hot class of a floating value. (R146) -/
  | fclass (g : Guard) (d : Nat) (fmt : Fmt) (h1 : Bool) (a : Src)
  /-- FSQRT: Correctly rounded FP32 square root. (R149) -/
  | fsqrt (g : Guard) (d : Nat) (rm : Rm) (a : Src)
  /-- FRCP: Approximate FP32 reciprocal. (R148) -/
  | frcp (g : Guard) (d : Nat) (a : Src)
  /-- FRSQ: Approximate FP32 reciprocal square root. (R148) -/
  | frsq (g : Guard) (d : Nat) (a : Src)
  /-- FEX2: Approximate FP32 power of two. (R148) -/
  | fex2 (g : Guard) (d : Nat) (a : Src)
  /-- FLG2: Approximate FP32 base-2 logarithm. (R148) -/
  | flg2 (g : Guard) (d : Nat) (a : Src)
  /-- FSIN: Approximate FP32 sine. (R148) -/
  | fsin (g : Guard) (d : Nat) (a : Src)
  /-- FCOS: Approximate FP32 cosine. (R148) -/
  | fcos (g : Guard) (d : Nat) (a : Src)
  /-- FTANH: Approximate FP32 hyperbolic tangent. (R148) -/
  | ftanh (g : Guard) (d : Nat) (a : Src)
  /-- FRINT: Rounds an FP32 value to an integral value. (R147) -/
  | frint (g : Guard) (d : Nat) (rm : Rm) (x : Bool) (a : Src)
  /-- DADD: FP64 addition. (R150) -/
  | dadd (g : Guard) (d : Nat) (rm : Rm) (a : VSrc) (b : VSrc)
  /-- DSUB: FP64 subtraction. (R150) -/
  | dsub (g : Guard) (d : Nat) (rm : Rm) (a : VSrc) (b : VSrc)
  /-- DMUL: FP64 multiplication. (R150) -/
  | dmul (g : Guard) (d : Nat) (rm : Rm) (a : VSrc) (b : VSrc)
  /-- DDIV: Correctly rounded FP64 division. (R150) -/
  | ddiv (g : Guard) (d : Nat) (rm : Rm) (a : VSrc) (b : VSrc)
  /-- DMIN: FP64 minimumNumber. (R150) -/
  | dmin (g : Guard) (d : Nat) (a : VSrc) (b : VSrc)
  /-- DMAX: FP64 maximumNumber. (R150) -/
  | dmax (g : Guard) (d : Nat) (a : VSrc) (b : VSrc)
  /-- DABS: Clears the FP64 sign bit. (R150) -/
  | dabs (g : Guard) (d : Nat) (a : VSrc)
  /-- DNEG: Inverts the FP64 sign bit. (R150) -/
  | dneg (g : Guard) (d : Nat) (a : VSrc)
  /-- DCMP: Compares FP64 values and writes a predicate. (R150) -/
  | dcmp (g : Guard) (q : Nat) (cc : FCond) (a : VSrc) (b : VSrc)
  /-- DSQRT: Correctly rounded FP64 square root. (R150) -/
  | dsqrt (g : Guard) (d : Nat) (rm : Rm) (a : VSrc)
  /-- DRINT: Rounds an FP64 value to an integral value. (R150) -/
  | drint (g : Guard) (d : Nat) (rm : Rm) (x : Bool) (a : VSrc)
  /-- HADD2: Packed FP16 addition. (R151) -/
  | hadd2 (g : Guard) (d : Nat) (rm : Rm) (a : Src) (b : Src)
  /-- HMUL2: Packed FP16 multiplication. (R151) -/
  | hmul2 (g : Guard) (d : Nat) (rm : Rm) (a : Src) (b : Src)
  /-- HMIN2: Packed FP16 minimum. (R151) -/
  | hmin2 (g : Guard) (d : Nat) (a : Src) (b : Src)
  /-- HMAX2: Packed FP16 maximum. (R151) -/
  | hmax2 (g : Guard) (d : Nat) (a : Src) (b : Src)
  /-- HCMP2: Packed FP16 comparison combined into a predicate. (R152) -/
  | hcmp2 (g : Guard) (q : Nat) (cc : FCond) (comb : Comb) (a : Src) (b : Src)
  /-- BADD2: Packed BF16 addition. (R151) -/
  | badd2 (g : Guard) (d : Nat) (rm : Rm) (a : Src) (b : Src)
  /-- BMUL2: Packed BF16 multiplication. (R151) -/
  | bmul2 (g : Guard) (d : Nat) (rm : Rm) (a : Src) (b : Src)
  /-- BMIN2: Packed BF16 minimum. (R151) -/
  | bmin2 (g : Guard) (d : Nat) (a : Src) (b : Src)
  /-- BMAX2: Packed BF16 maximum. (R151) -/
  | bmax2 (g : Guard) (d : Nat) (a : Src) (b : Src)
  /-- BCMP2: Packed BF16 comparison combined into a predicate. (R152) -/
  | bcmp2 (g : Guard) (q : Nat) (cc : FCond) (comb : Comb) (a : Src) (b : Src)
  /-- IADD2: Packed INT16 addition, wrapping or saturating. (R159) -/
  | iadd2 (g : Guard) (d : Nat) (sat : Bool) (u : Bool) (a : Src) (b : Src)
  /-- ISUB2: Packed INT16 subtraction. (R159) -/
  | isub2 (g : Guard) (d : Nat) (sat : Bool) (u : Bool) (a : Src) (b : Src)
  /-- IMUL2: Packed INT16 multiplication. (R159) -/
  | imul2 (g : Guard) (d : Nat) (sat : Bool) (u : Bool) (a : Src) (b : Src)
  /-- IMIN2: Packed INT16 minimum. (R159) -/
  | imin2 (g : Guard) (d : Nat) (u : Bool) (a : Src) (b : Src)
  /-- IMAX2: Packed INT16 maximum. (R159) -/
  | imax2 (g : Guard) (d : Nat) (u : Bool) (a : Src) (b : Src)
  /-- IABS2: Packed INT16 absolute value. (R159) -/
  | iabs2 (g : Guard) (d : Nat) (sat : Bool) (a : Src)
  /-- IPACK2: Clamps two INT32 values into packed INT16. (R160) -/
  | ipack2 (g : Guard) (d : Nat) (u : Bool) (a : Src) (b : Src)
  /-- SHRR2: Packed INT16 rounding right shift. (R163) -/
  | shrr2 (g : Guard) (d : Nat) (he : Bool) (u : Bool) (a : Src) (b : Src)
  /-- CVTFF: Converts between floating formats. (R153) -/
  | cvtff (g : Guard) (d : Nat) (rm : Rm) (src : Fmt) (dst : Fmt) (h1 : Bool) (a : Src) (b : Src)
  /-- CVTFI: Converts a float to an integer. (R154) -/
  | cvtfi (g : Guard) (d : Nat) (rm : Rm) (src : Fmt) (dst : IntFmt) (h1 : Bool) (a : Src)
  /-- CVTIF: Converts an integer to a float. (R155) -/
  | cvtif (g : Guard) (d : Nat) (rm : Rm) (dst : Fmt) (src : IntFmt) (a : Src) (b : Src)
  /-- CVTII: Converts between integer types, optionally saturating. (R156) -/
  | cvtii (g : Guard) (d : Nat) (src : IntType) (dst : IntType) (idx : Nat) (sat : Bool) (a : Src)
  /-- CVT8: Packs FP32 to FP8 or unpacks FP8 to FP32. (R157) -/
  | cvt8 (g : Guard) (d : Nat) (rm : Rm) (up : Bool) (e5 : Bool) (nosat : Bool) (idx : Nat) (sc : Bool) (a : Src) (b : Src)
  /-- CVT4: Packs FP32 to E2M1 or unpacks E2M1 to FP32. (R158) -/
  | cvt4 (g : Guard) (d : Nat) (rm : Rm) (up : Bool) (idx : Nat) (sc : Bool) (a : Src) (b : Src)
  /-- SHFL: Reads A from another lane within the group. (R165) -/
  | shfl (g : Guard) (d : Nat) (mode : ShflMode) (logw : Nat) (a : Src) (b : Src)
  /-- BCAST: Broadcasts one lane's A to the threads of W. (R166) -/
  | bcast (g : Guard) (d : Nat) (low : Bool) (a : Src) (b : Src)
  /-- VOTE: Counts or tests a predicate over W. (R167) -/
  | vote (g : Guard) (d : Nat) (mode : VoteMode) (p : Bool) (qa : Nat)
  /-- REDUX: Reduces A within lane groups by a fixed tree. (R168) -/
  | redux (g : Guard) (d : Nat) (rm : Rm) (op : RedOp) (logw : Nat) (a : Src)
  /-- SCAN: Computes an inclusive or exclusive scan over W. (R169) -/
  | scan (g : Guard) (d : Nat) (rm : Rm) (op : RedOp) (excl : Bool) (a : Src)
  /-- SEGRED: Reduces A over predicate-delimited segments. (R170) -/
  | segred (g : Guard) (d : Nat) (rm : Rm) (op : RedOp) (a : Src) (qb : Nat)
  /-- MATCH: Groups threads by equal values and reports leader, rank and count. (R171) -/
  | match (g : Guard) (d : Nat) (a : Src)
  /-- INTERSECT: Finds equal-value pairs of two lane lists and their advances. (R173) -/
  | intersect (g : Guard) (d : Nat) (a : Src) (b : Src)
  /-- IMAD: Integer multiply-add, low 32 bits. (R108) -/
  | imad (g : Guard) (d : Nat) (a : Src) (b : Src) (c : Src)
  /-- BFI: Inserts a bit field of B into A. (R114) -/
  | bfi (g : Guard) (d : Nat) (a : Src) (b : Src) (pos : Nat) (len : Nat)
  /-- BITFN: Applies an arbitrary three-input bitwise function. (R112) -/
  | bitfn (g : Guard) (d : Nat) (t1 : Nat) (t0 : Nat) (a : Src) (b : Src) (c : Src)
  /-- BYTEX: Selects and sign-extends bytes of A and B. (R115) -/
  | bytex (g : Guard) (d : Nat) (codes : Imm16) (a : Src) (b : Src)
  /-- FFMA: FP32 fused multiply-add. (R142) -/
  | ffma (g : Guard) (d : Nat) (rm : Rm) (a : Src) (b : Src) (c : Src)
  /-- DFMA: FP64 fused multiply-add. (R150) -/
  | dfma (g : Guard) (d : Nat) (rm : Rm) (a : VSrc) (b : VSrc) (c : VSrc)
  /-- HFMA2: Packed FP16 fused multiply-add. (R151) -/
  | hfma2 (g : Guard) (d : Nat) (rm : Rm) (a : Src) (b : Src) (c : Src)
  /-- BFMA2: Packed BF16 fused multiply-add. (R151) -/
  | bfma2 (g : Guard) (d : Nat) (rm : Rm) (a : Src) (b : Src) (c : Src)
  /-- IDP2: Two-element INT16 dot product accumulated with saturation. (R161) -/
  | idp2 (g : Guard) (d : Nat) (ua : Bool) (ub : Bool) (a : Src) (b : Src) (c : Src)
  /-- SLIDE: Moves lane or element contents by n positions with a fill. (R172) -/
  | slide (g : Guard) (d : Nat) (up : Bool) (half : Bool) (fill : Fill) (n : Nat) (a : Src) (b : Src) (c : Src)
  /-- PRUNE: Evaluates a field operation on interval pairs or gives a winner code. (R264) -/
  | prune (g : Guard) (d : Nat) (w : Bool) (op : PruneOp) (a : Src) (b : Src) (c : Src)
  /-- BREC: Builds, modifies, loads or stores a buffer record. (R183) -/
  | brec (g : Guard) (bd : Nat) (op : BrecOp) (bb : Nat) (a : Src) (s : Src) (off : Word)
  /-- LD: Loads through a buffer record. (R185) -/
  | ld (g : Guard) (d : Nat) (wid : Width) (hint : Hint) (acq : Bool) (sc : Scope) (br : Nat) (a : Src) (off : Word)
  /-- ST: Stores through a buffer record. (R186) -/
  | st (g : Guard) (wid : Width) (hint : Hint) (rel : Bool) (sc : Scope) (br : Nat) (a : Src) (off : Word) (v : Src)
  /-- LDS: Loads from core SRAM. (R185) -/
  | lds (g : Guard) (d : Nat) (wid : Width) (a : Src) (off : Word)
  /-- STS: Stores to core SRAM. (R186) -/
  | sts (g : Guard) (wid : Width) (a : Src) (off : Word) (v : Src)
  /-- GATHER: Loads through the core's request collector. (R187) -/
  | gather (g : Guard) (d : Nat) (wid : Width) (hint : Hint) (br : Nat) (a : Src) (off : Word)
  /-- SCATTER: Stores through the core's request collector. (R187) -/
  | scatter (g : Guard) (wid : Width) (hint : Hint) (br : Nat) (a : Src) (off : Word) (v : Src)
  /-- PREF: Brings lines into the LLC with no visible effect. (R189) -/
  | pref (g : Guard) (keep : Bool) (br : Nat) (a : Src) (off : Word)
  /-- DISCARD: Marks wholly covered pages discarded. (R190) -/
  | discard (g : Guard) (br : Nat) (a : Src) (off : Word)
  /-- BRKS: Samples a brick by trilinear interpolation. (R192) -/
  | brks (g : Guard) (d : Nat) (br : Nat) (a : Src) (off : Word) (p : VSrc)
  /-- BRKG: Samples a brick and its gradient. (R192) -/
  | brkg (g : Guard) (d : Nat) (br : Nat) (a : Src) (off : Word) (p : VSrc)
  /-- ATOM: Performs an atomic read-modify-write and returns the old value. (R194) -/
  | atom (g : Guard) (d : Nat) (op : AtomOp) (w64 : Bool) (lam : Bool) (acq : Bool) (rel : Bool) (sc : Scope) (br : Nat) (a : Src) (off : Word) (v : Src)
  /-- ATOMS: Performs an atomic operation on core SRAM. (R194) -/
  | atoms (g : Guard) (d : Nat) (op : AtomOp) (w64 : Bool) (acq : Bool) (rel : Bool) (sc : Scope) (a : Src) (off : Word) (v : Src)
  /-- RED: Performs an atomic operation returning nothing. (R194) -/
  | red (g : Guard) (op : AtomOp) (w64 : Bool) (lam : Bool) (acq : Bool) (rel : Bool) (sc : Scope) (br : Nat) (a : Src) (off : Word) (v : Src)
  /-- ACQ: Acquires a guard word, optionally waiting for a value. (R197) -/
  | acq (g : Guard) (d : Nat) (mode : AcqMode) (sc : Scope) (br : Nat) (v : Src)
  /-- REL: Releases by storing or adding to a guard word. (R198) -/
  | rel (g : Guard) (mode : RelMode) (sc : Scope) (br : Nat) (v : Src)
  /-- FENCE: Orders earlier accesses before later ones at a scope. (R199) -/
  | fence (g : Guard) (k : FenceKind) (sc : Scope)
  /-- BAR: Arrives and parks at the block barrier, completing it when all have arrived. (R200) -/
  | bar (g : Guard)
  /-- ARRIVE: Indivisibly lowers a phase word's REMAIN, flipping its phase. (R203) -/
  | arrive (g : Guard) (d : Nat) (nr : Bool) (rel : Bool) (sc : Scope) (a : Src) (off : Word) (n : Nat)
  /-- WAITPH: Waits for or polls a phase word. (R204) -/
  | waitph (g : Guard) (d : Nat) (poll : Bool) (acq : Bool) (sc : Scope) (a : Src) (off : Word) (p : Bool)
  /-- SEG_NEW: Creates a standing segment from a descriptor. (R207) -/
  | segNew (g : Guard) (d : Nat) (a : Src) (off : Word)
  /-- SEG_ATTACH: Attaches a standing segment at a block window. (R208) -/
  | segAttach (g : Guard) (d : Nat) (win : Nat) (load : Bool) (name : SegName)
  /-- SEG_DETACH: Releases and detaches a window's segment. (R209) -/
  | segDetach (g : Guard) (d : Nat) (win : Nat)
  /-- SEG_FREE: Frees a segment, optionally writing it back. (R210) -/
  | segFree (g : Guard) (d : Nat) (wb : Bool) (name : SegName)
  /-- SEG_QUERY: Reports a segment's state. (R211) -/
  | segQuery (g : Guard) (d : Nat) (name : SegName)
  /-- MMAQ: Queues a matrix operation on the cluster's matrix unit. (R224) -/
  | mmaq (g : Guard) (a : Src) (off : Word)
  /-- WBLOAD: Queues a load of B into a weight-buffer slot. (R228) -/
  | wbload (g : Guard) (acq : Bool) (rel : Bool) (sc : Scope) (a : Src) (off : Word) (br : Nat)
  /-- CPQ: Queues a row copy on the copy engine. (R231) -/
  | cpq (g : Guard) (acq : Bool) (rel : Bool) (sc : Scope) (a : Src) (off : Word) (br : Nat)
  /-- MARCH: Queues a ray batch on the marcher. (R232) -/
  | march (g : Guard) (dt : DepthTest) (acq : Bool) (rel : Bool) (sc : Scope) (a : Src) (off : Word)
  /-- COLL: Issues a collective operation on a process group. (R233) -/
  | coll (g : Guard) (d : Nat) (r : Bool) (op : CollOp) (rop : RedOp) (b64 : Bool) (acq : Bool) (rel : Bool) (sc : Scope) (a : Src) (off : Word) (br : Nat) (grp : Word)
  /-- ENQ: Offers an entry to a device queue. (R235) -/
  | enq (g : Guard) (d : Nat) (rel : Bool) (sc : Scope) (a : Src) (off : Word) (h : Word)
  /-- CALLS: Shader call that holds threads in the collator in a regrouping launch. (R236) -/
  | calls (g : Guard) (a : Src) (b : Src) (rec : Word)
  /-- EMITP: Emits primitive records to the classifier. (R238) -/
  | emitp (g : Guard) (a : Src) (off : Word)
  /-- TBLEND: Blends a colour into tile memory. (R239) -/
  | tblend (g : Guard) (op : BlendOp) (a : Src) (b : VSrc)
  /-- MOMACC: Accumulates or reconstructs transmittance moments. (R240) -/
  | momacc (g : Guard) (d : Nat) (rec : Bool) (a : Src) (b : Src)
  -- field-bytecode operations (R249): first those with immediates or an argument
  /-- CONST: Pushes a constant point. (R256) -/
  | fbcConst (c : Word)
  /-- POS: Pushes the current frame's entry for an axis. (R256) -/
  | fbcPos (i : Nat)
  /-- XFORM: Pushes the frame and makes an affine-transformed frame. (R261) -/
  | fbcXform (m : Vector Word 12)
  /-- FBC_SMIN: Encloses the smooth minimum with parameter k. (R256) -/
  | fbcSmin (k : Word)
  /-- FBC_SMAX: Encloses the smooth maximum with parameter k. (R256) -/
  | fbcSmax (k : Word)
  /-- ADDC: Adds an immediate to an entry. (R255) -/
  | fbcAddc (k : Word)
  /-- RSUBC: Subtracts an entry from an immediate. (R255) -/
  | fbcRsubc (k : Word)
  /-- MULC: Multiplies an entry by an immediate. (R255) -/
  | fbcMulc (k : Word)
  /-- MINC: Minimum of an entry and an immediate. (R256) -/
  | fbcMinc (k : Word)
  /-- MAXC: Maximum of an entry and an immediate. (R256) -/
  | fbcMaxc (k : Word)
  /-- CLAMP: Clamps an entry between two immediates. (R256) -/
  | fbcClamp (l : Word) (h : Word)
  /-- PICK: Pushes a copy of the entry n places below the top. (R249) -/
  | fbcPick (n : Nat)
  /-- BRICK: Reads a brick and pushes its enclosure. (R262) -/
  | fbcBrick (i : Word)
  /-- CALLOUT: Pops entries and hands the ray to a callable. (R263) -/
  | fbcCallout (n : Nat) (k : Word)
  -- events
  /-- LONG_LATENCY_WRITEBACK: A long-latency producer writes a thread's result and clears its pending bit. (R23) -/
  | longLatencyWriteback (w : Nat) (r : Nat) (l : Nat)
  /-- COLLECTOR_WINDOW_CLOSE: The request collector's window closes after 64 cycles and merges requests by line. (R187) -/
  | collectorWindowClose (core : Nat)
  /-- YIELD_RELEASE: A warp set aside by YIELD returns to issue selection after 32 cycles. (R135) -/
  | yieldRelease (w : Nat)
  /-- SLEEP_END: A sleeping warp's count expires and it may issue again. (R136) -/
  | sleepEnd (w : Nat)
  /-- DEADLINE_EXPIRY: KDEADLINE reaches 0 and a forced save begins. (R396) -/
  | deadlineExpiry (b : Nat)
  /-- COOPERATIVE_SAVE: A cooperative save begins once every warp is at its save point. (R395) -/
  | cooperativeSave (b : Nat)
  /-- SAVE_COMPLETE: The save image is written and the block's resources are released. (R399) -/
  | saveComplete (b : Nat)
  /-- SAVE_WATCHDOG: A save not complete after 2^24 cycles kills the block with WATCHDOG. (R398) -/
  | saveWatchdog (b : Nat)
  /-- HANDLER_BUDGET_EXPIRY: KHBUDGET reaches 0 and the block is killed with HANDLEROVER. (R386) -/
  | handlerBudgetExpiry (w : Nat)
  /-- LAUNCH_MESSAGE: The GSC offers blocks of a launch to a leaf controller. (R330) -/
  | launchMessage (launch : Nat) (cl : Nat)
  /-- BLOCK_COMPLETION: A leaf controller reports a block's completion to the GSC. (R319) -/
  | blockCompletion (b : Nat)
  /-- BLOCK_START: A block starts once its input tiles are resident and attachments complete. (R307) -/
  | blockStart (b : Nat)
  /-- MATRIX_TILE: At a tile boundary the unit runs the next ready tile in cyclic order. (R354) -/
  | matrixTile (cl : Nat)
  /-- COPY_COMMAND_START: The copy engine starts the next command of a block queue. (R462) -/
  | copyCommandStart (b : Nat)
  /-- CPQ_COMPLETION: A copy completes and flips its phase word. (R231) -/
  | cpqCompletion (b : Nat)
  /-- COLLATOR_WINDOW_TIMEOUT: A collator window closes 256 cycles after its first thread joined. (R338) -/
  | collatorWindowTimeout (b : Nat) (target : Nat)
  /-- COLLATOR_WARP_FORM: The collator forms a new warp from a closed window once values and a slot are ready. (R237) -/
  | collatorWarpForm (b : Nat)
  /-- PHASE_WAIT_SATISFIED: A pending WAITPH sees its parity and fills its destination. (R204) -/
  | phaseWaitSatisfied (w : Nat) (i : Nat) (l : Nat)
  /-- GUARD_WAIT_SATISFIED: A waiting ACQ sees its condition and acquires. (R197) -/
  | guardWaitSatisfied (w : Nat) (i : Nat) (l : Nat)
  /-- XPOP: Restores the most recently pushed frame. (R261) -/
  | fbcXpop
  /-- FBC_NOP: Field-bytecode no-operation. (R249) -/
  | fbcNop
  /-- ADD: Encloses the sum of two entries. (R255) -/
  | fbcAdd
  /-- SUB: Encloses the difference of two entries. (R255) -/
  | fbcSub
  /-- MUL: Encloses the product of two entries. (R255) -/
  | fbcMul
  /-- DIV: Encloses the quotient of two entries. (R256) -/
  | fbcDiv
  /-- MIN: Encloses the minimum of two entries. (R256) -/
  | fbcMin
  /-- MAX: Encloses the maximum of two entries. (R256) -/
  | fbcMax
  /-- NEG: Negates an entry. (R255) -/
  | fbcNeg
  /-- ABS: Encloses the absolute value of an entry. (R255) -/
  | fbcAbs
  /-- SQRT: Encloses the square root of an entry. (R256) -/
  | fbcSqrt
  /-- SQR: Encloses the square of an entry. (R255) -/
  | fbcSqr
  /-- SIN: Encloses the sine of an entry. (R256) -/
  | fbcSin
  /-- COS: Encloses the cosine of an entry. (R256) -/
  | fbcCos
  /-- FLOOR: Encloses the floor of an entry. (R255) -/
  | fbcFloor
  /-- FRACT: Encloses the fractional part of an entry. (R256) -/
  | fbcFract
  /-- LEN2: Encloses the length of a 2-vector. (R255) -/
  | fbcLen2
  /-- LEN3: Encloses the length of a 3-vector. (R255) -/
  | fbcLen3
  /-- MIX: Encloses a linear interpolation. (R255) -/
  | fbcMix
  /-- DUP: Copies the top stack entry. (R249) -/
  | fbcDup
  /-- DROP: Removes the top stack entry. (R249) -/
  | fbcDrop
  /-- SWAP: Exchanges the top two entries. (R249) -/
  | fbcSwap
  /-- OVER: Pushes a copy of the entry below the top. (R249) -/
  | fbcOver
  /-- ROT: Rotates the top three entries. (R249) -/
  | fbcRot
  /-- END: Ends the evaluation with one result entry. (R250) -/
  | fbcEnd
  /-- OPERAND_LOG_REPLAY: A logged instruction's faulted lanes are replayed after the fault is resolved. (R213) -/
  | operandLogReplay (w : Nat)
  /-- FAULT_RING_WRITE: The GSC writes a fault entry to the context's fault ring when room exists. (R411) -/
  | faultRingWrite (ctx : Nat)
  /-- FRESP_RETRY: Answering a fault with RETRY makes its waiting accesses walk again. (R412) -/
  | frespRetry (ctx : Nat) (id : Nat)
  /-- FRESP_FAIL: Answering a fault with FAIL kills the waiting block or halts the queue. (R412) -/
  | frespFail (ctx : Nat) (id : Nat)
  /-- PREEMPTION_REQUEST: A pre-emption request reaches a block and starts KDEADLINE. (R394) -/
  | preemptionRequest (b : Nat)
  /-- KILL_MESSAGE: The GSC orders a leaf controller to kill blocks. (R389) -/
  | killMessage (b : Nat) (code : Nat) (detail : Nat)
  /-- RESTORE_MESSAGE: The GSC orders a leaf controller to restore a saved block. (R319) -/
  | restoreMessage (sv : Nat) (core : Nat)
  /-- CONTEXT_SWITCH_MESSAGE: The GSC requests pre-emption of every block of a context. (R394) -/
  | contextSwitchMessage (ctx : Nat) (cl : Nat)
  /-- FAULT_REPORT: A leaf controller reports a translation fault to the GSC. (R387) -/
  | faultReport (i : Nat)
  /-- ADMISSION_REFUSAL: A leaf controller reports that it refused admission. (R319) -/
  | admissionRefusal (launch : Nat) (n : Nat)
  /-- BLOCK_ADMISSION: The leaf controller admits a waiting block, taking all its resources in one step. (R307) -/
  | blockAdmission (launch : Nat) (n : Nat) (core : Nat) (p0 : Nat)
  /-- BLOCK_RESTORE: A saved block is restored onto a core once room exists. (R402) -/
  | blockRestore (sv : Nat) (core : Nat) (p0 : Nat)
  /-- ADMISSION_WAIT_LIMIT: A block that has waited 2 ms blocks later admissions to cores it could use. (R312) -/
  | admissionWaitLimit (launch : Nat) (n : Nat)
  /-- PRIORITY_PREEMPTION: After 50 µs of waiting the GSC requests pre-emption of lower-priority blocks. (R333) -/
  | priorityPreemption (launch : Nat) (n : Nat) (core : Nat)
  /-- SKIP: A SKIP packet is accepted and completes at acceptance. (R326) -/
  | skip (q : Nat)
  /-- LAUNCH: A LAUNCH packet is checked and accepted. (R328) -/
  | launch (q : Nat)
  /-- SIGNAL: A SIGNAL packet is accepted; at start it stores or adds a value. (R327) -/
  | signal (q : Nat)
  /-- WAIT: A WAIT packet is accepted; at start it polls a word. (R327) -/
  | wait (q : Nat)
  /-- SETQ: A SETQ packet is accepted and sets the queue's AREA at start. (R326) -/
  | setq (q : Nat)
  /-- DQNEW: A DQNEW packet creates a device queue and writes its handle. (R340) -/
  | dqnew (q : Nat)
  /-- DQFREE: A DQFREE packet retires a device queue. (R340) -/
  | dqfree (q : Nat)
  /-- PACKET_START: An accepted packet starts when its ordering class allows and performs its start acquire. (R293) -/
  | packetStart (q : Nat) (seq : Nat)
  /-- WAIT_CONDITION_MET: A WAIT packet's word meets its condition and the WAIT completes. (R327) -/
  | waitConditionMet (q : Nat) (seq : Nat)
  /-- PACKET_COMPLETION: A packet completes, performs its release and writes its completion record. (R294) -/
  | packetCompletion (q : Nat) (seq : Nat)
  /-- QUEUE_ENABLE: Writing EN from 0 to 1 clears the halt and starts reading the ring. (R321) -/
  | queueEnable (q : Nat)
  /-- QUEUE_DISABLE: Writing EN from 1 to 0 stops acceptance. (R321) -/
  | queueDisable (q : Nat)
  /-- RESUME: Writing RESUME clears the halt and re-reads the packet. (R320) -/
  | resume (q : Nat)
  /-- DEVICE_QUEUE_ENTRY_TAKE: The GSC takes the next device-queue entry as a child launch. (R342) -/
  | deviceQueueEntryTake (ctx : Nat) (dq : Nat)
  /-- CHILD_LAUNCH_START: A SERIAL child launch starts after earlier children complete. (R342) -/
  | childLaunchStart (launch : Nat)
  /-- MATRIX_COMMAND_START: The matrix unit starts a queued MMAQ or WBLOAD once its predecessor completes. (R351) -/
  | matrixCommandStart (b : Nat)
  /-- OUTPUT_BLOCK_WRITEBACK: An output block's accumulator set drains and is written back to core SRAM. (R358) -/
  | outputBlockWriteback (b : Nat)
  /-- MMAQ_COMPLETION: An MMAQ writes its status word and flips its phase word. (R217) -/
  | mmaqCompletion (b : Nat)
  /-- WBLOAD_COMPLETION: A WBLOAD completes, validating its slot and flipping its phase word. (R230) -/
  | wbloadCompletion (b : Nat)
  /-- MARCH_COMMAND_START: The marcher starts a command and checks the program header. (R247) -/
  | marchCommandStart (b : Nat)
  /-- MARCH_RAY_DONE: A ray ends, writing its hit record and depth-tested visibility entry. (R367) -/
  | marchRayDone (b : Nat) (ray : Nat)
  /-- MARCH_COMPLETION: A MARCH command's rays are all done and its phase word flips. (R232) -/
  | marchCompletion (b : Nat)
  /-- COLL_COMPLETION: A collective completes and delivers its result and status. (R234) -/
  | collCompletion (i : Nat)
  /-- COLLECTIVE_CONTRIBUTION: A collective contribution arrives over the fabric. (R429) -/
  | collectiveContribution (dev : Nat) (launch : Nat) (grp : Nat) (n : Nat) (rank : Nat) (data : List Byte)
  /-- SEGMENT_WRITEBACK_END: A segment write-back ends and the segment becomes COLD. (R310) -/
  | segmentWritebackEnd (seg : Nat)
  /-- SEGMENT_RELOAD_END: A segment reload ends and the segment becomes RESIDENT. (R310) -/
  | segmentReloadEnd (seg : Nat)
  /-- SCRUB_PASS: The scrubber reads and corrects each row within 100 ms. (R314) -/
  | scrubPass (errs : List (Nat × Nat))
  /-- CORE_REJOIN_PLACEMENT: After draining, KCAPS falls and the core rejoins placement. (R316) -/
  | coreRejoinPlacement (core : Nat)
  /-- CORE_HOT: A core's temperature reaches TMIG and it is marked hot. (R436) -/
  | coreHot (core : Nat) (temp : Nat)
  /-- CORE_COOL: A core's temperature falls 5 °C below TMIG and it is marked cool. (R436) -/
  | coreCool (core : Nat) (temp : Nat)
  /-- POWER_LIMIT_EXCEEDED: Power above PLIM for 1 ms halves the issue rate. (R436) -/
  | powerLimitExceeded
  /-- POWER_LIMIT_CLEARED: Power below PLIM for 1 ms restores the issue rate. (R436) -/
  | powerLimitCleared
  /-- TCRIT_REACHED: A core reaches TCRIT and a fatal dump follows. (R436) -/
  | tcritReached (core : Nat) (temp : Nat)
  /-- HOST_READ: A host function reads device memory through BAR2. (R418) -/
  | hostRead (fn : Nat) (addr : Nat) (n : Nat)
  /-- HOST_WRITE: A host function writes device memory through BAR2. (R418) -/
  | hostWrite (fn : Nat) (addr : Nat) (data : List Byte)
  /-- HOST_ATOMICOP: A host function performs an AtomicOp on BAR2. (R418) -/
  | hostAtomicop (fn : Nat) (addr : Nat) (op : Nat) (w : Nat) (v : Nat) (cmp : Nat)
  /-- ATS_INVALIDATION_REQUEST: The host invalidates ATS translations held by the device. (R414) -/
  | atsInvalidationRequest (ctx : Nat) (va : Nat) (n : Nat)
  /-- PAGE_REQUEST_RESPONSE: A page request response repeats the translation or kills the block. (R414) -/
  | pageRequestResponse (i : Nat) (ok : Bool)
  /-- TERM: Writing TERM terminates a context. (R413) -/
  | term (ctx : Nat)
  /-- INVALIDATION: Writing IVA and NPAGE starts an invalidation of a page range. (R413) -/
  | invalidation (ctx : Nat) (iva : Nat) (n : Nat)
  /-- INVALIDATION_COMPLETE: An invalidation completes and INVBUSY clears. (R413) -/
  | invalidationComplete (ctx : Nat)
  /-- MIGGO: Writing MIGGO starts a page migration. (R419) -/
  | miggo (ctx : Nat)
  /-- MIGRATION_COMPLETE: A migration installs its new translation and waiting accesses walk again. (R291) -/
  | migrationComplete (ctx : Nat)
  /-- GO: Writing GO with a token unfreezes that master. (R434) -/
  | go (token : Nat)
  /-- PREQ_ACTIVE: A PREQ of 0 returns the device to ACTIVE. (R442) -/
  | preqActive
  /-- PREQ_QUIESCE: A PREQ of 1 enters QUIESCE. (R442) -/
  | preqQuiesce
  /-- PREQ_STANDBY: A PREQ of 2 pre-empts every resident block toward STANDBY. (R442) -/
  | preqStandby
  /-- STANDBY_POWER_DOWN: With no block resident, cores power down and GDDR7 self-refreshes. (R442) -/
  | standbyPowerDown
  /-- STAGE: The STAGE command verifies and stages a firmware image. (R439) -/
  | stage
  /-- ACTIVATE: The ACTIVATE command pauses scheduling to install the staged image. (R439) -/
  | activate
  /-- ABORT: The ABORT command clears STAGED. (R439) -/
  | abort
  /-- ACTIVATE_TAKEOVER: Once saves and restores drain, the new firmware takes over and self-checks. (R439) -/
  | activateTakeover (ok : Bool)
  /-- FIRMWARE_COMMAND_END: A firmware command ends, setting RES and logging KIND 11. (R439) -/
  | firmwareCommandEnd
  /-- ATTGO: Writing ATTGO starts an attestation report. (R438) -/
  | attgo
  /-- ATTESTATION_REPORT_WRITTEN: The attestation report is written and ATTBUSY clears. (R438) -/
  | attestationReportWritten
  /-- COMMAND_LINK_LOSS: Loss of a command link is fatal. (R404) -/
  | commandLinkLoss (cl : Nat)
  /-- MSS_WATCHDOG: The MSS's watchdog on the GSC expires, a fatal error. (R440) -/
  | mssWatchdog
  /-- RESET: A power-on, fundamental or hot reset restarts bring-up. (R441) -/
  | reset (kind : Nat)
  /-- BRINGUP_ROM: The ROM stage verifies the flash image or enters RECOVERY. (R441) -/
  | bringupRom
  /-- BRINGUP_TEST: The TEST stage runs SRAM self-test and GDDR7 training. (R441) -/
  | bringupTest
  /-- BRINGUP_CONFIG: The CONFIG stage checks the configuration record and sets DOMCFG. (R441) -/
  | bringupConfig
  /-- BRINGUP_FABRIC: The FABRIC stage enables ports and the device becomes READY. (R441) -/
  | bringupFabric
  /-- SIGNAL_DETECTED: Signal on a lane moves a DOWN port to TRAIN. (R423) -/
  | signalDetected (p : Nat)
  /-- TRAINING_SUCCESS: Training succeeds and the port enters UP. (R423) -/
  | trainingSuccess (p : Nat)
  /-- TRAIN_TIMEOUT: TRAIN fails for 100 ms and the port returns to DOWN. (R423) -/
  | trainTimeout (p : Nat)
  /-- RETRAIN_TRIGGER: Excess replays or lane loss move an UP port to RETRAIN. (R423) -/
  | retrainTrigger (p : Nat)
  /-- RETRAIN_TIMEOUT: RETRAIN lasts 50 ms and the port enters DEAD. (R423) -/
  | retrainTimeout (p : Nat)
  /-- PORT_DISABLE: Setting DIS disables a port. (R423) -/
  | portDisable (p : Nat)
  /-- PORT_ENABLE: Clearing DIS moves a port to DOWN. (R423) -/
  | portEnable (p : Nat)
  /-- FLIT_RECEIVE: A port receives a flit, checks it and delivers or discards it. (R422) -/
  | flitReceive (p : Nat) (flit : List Byte)
  /-- ACK_TIMEOUT: No acknowledgement within 2 µs makes the sender replay. (R422) -/
  | ackTimeout (p : Nat)
  /-- REMOTE_ACCESS: A remote access is performed at its home device. (R425) -/
  | remoteAccess (dev : Nat) (kind : Nat) (addr : Nat) (data : List Byte)
  /-- REMOTE_RESPONSE: A remote reply or acknowledgement returns to the issuing device. (R426) -/
  | remoteResponse (i : Nat) (ok : Bool) (data : List Byte)
  /-- PRIMITIVE_FORWARD: A primitive arrives at its region owner. (R380) -/
  | primitiveForward (dev : Nat) (prim : List Byte)
  /-- BLOCK_END_MARK: A block-end mark arrives at an owner. (R380) -/
  | blockEndMark (dev : Nat) (blk : Nat) (n : Nat)
  /-- RASTERISE_PRIMITIVE: An owner rasterises the next primitive in sequence into the visibility buffer. (R374) -/
  | rasterisePrimitive (q : Nat)
  /-- LINK_DOWN_LIMIT: A link down beyond 50 ms ends geometry packets with DEVLOST. (R381) -/
  | linkDownLimit (p : Nat)
  /-- REGISTER_WRITE: A write to a register without behaviour of its own updates its RW and W1C fields. (R7) -/
  | registerWrite (fn : Nat) (bar : Nat) (off : Nat) (size : Nat) (v : Nat)
  /-- POWER_LOSS: The module loses power; if this happens before the new flash bank is marked current, the old image stays current. (R439) -/
  | powerLoss
  /-- GSC_UNCORRECTABLE_ERROR: An uncorrectable error in the state of the GSC or of a leaf controller is fatal: every context is terminated and the dump is written. (R404) -/
  | gscUncorrectableError
  /-- PCIE_READ_COMPLETION: A completion arrives from the host for a device read of host memory; Unsupported Request or Completer Abort kills the block with PAGE. (R414) -/
  | pcieReadCompletion (i : Nat) (ok : Bool) (data : List Byte)
  /-- MIGRATION_ELIGIBILITY: A block on a hot core reaches 2 ms since its admission or last restore, becomes eligible, and is pre-empted for migration. (R347) -/
  | migrationEligibility (b : Nat)
  deriving DecidableEq, Repr

end Sys2Proof
end

