-- ==== Sys2Proof/Machine/Num.lean ====
section
/-! DEFINITION. The floating formats of R74, exact values, and the rounding of R80 to R86. Every operation computes
the exact rational result and rounds it once. -/

namespace Sys2Proof.Machine

/-- How the highest exponent of a format is used (R74). -/
inductive FloatKind where
  | ieee
  | e4m3
  | e2m1
  deriving DecidableEq, Repr

/-- A floating format: exponent bits, fraction bits, use of the highest exponent (R74). -/
structure FloatFormat where
  ebits : Nat
  mbits : Nat
  kind : FloatKind
  deriving DecidableEq, Repr

def fp64 : FloatFormat := ⟨11, 52, .ieee⟩
def fp32 : FloatFormat := ⟨8, 23, .ieee⟩
def fp16 : FloatFormat := ⟨5, 10, .ieee⟩
def bf16 : FloatFormat := ⟨8, 7, .ieee⟩
def e5m2 : FloatFormat := ⟨5, 2, .ieee⟩
def e4m3 : FloatFormat := ⟨4, 3, .e4m3⟩
def e2m1 : FloatFormat := ⟨2, 1, .e2m1⟩

/-- The bias (R74). -/
def FloatFormat.bias (f : FloatFormat) : Int := 2 ^ (f.ebits - 1) - 1

/-- The exponent of the smallest normal number. -/
def FloatFormat.emin (f : FloatFormat) : Int := 1 - f.bias

/-- Bits in a value of the format. -/
def FloatFormat.width (f : FloatFormat) : Nat := 1 + f.ebits + f.mbits

/-- The sign bit as a number. -/
def FloatFormat.signBit (f : FloatFormat) (neg : Bool) : Nat := if neg then 2 ^ (f.ebits + f.mbits) else 0

/-- The canonical NaN (R76); E2M1 has none and gives +0 (R85). -/
def FloatFormat.nan (f : FloatFormat) : Nat :=
  match f.kind with
  | .ieee => (2 ^ f.ebits - 1) * 2 ^ f.mbits + 2 ^ (f.mbits - 1)
  | .e4m3 => 0x7F
  | .e2m1 => 0

/-- The infinity pattern without sign. -/
def FloatFormat.infBits (f : FloatFormat) : Nat := (2 ^ f.ebits - 1) * 2 ^ f.mbits

/-- The pattern of the largest finite magnitude (R74). -/
def FloatFormat.maxBits (f : FloatFormat) : Nat :=
  match f.kind with
  | .ieee => f.infBits - 1
  | .e4m3 => 0x7E
  | .e2m1 => 0x7

/-- 2 to an integer power. -/
def pow2 (e : Int) : Rat := if 0 ≤ e then ((2 ^ e.toNat : Nat) : Rat) else mkRat 1 (2 ^ (-e).toNat)

/-- The value of a magnitude pattern (R74). -/
def FloatFormat.magnitude (f : FloatFormat) (bits : Nat) : Rat :=
  if bits / 2 ^ f.mbits = 0 then ((bits % 2 ^ f.mbits : Nat) : Rat) * pow2 (f.emin - f.mbits)
  else ((2 ^ f.mbits + bits % 2 ^ f.mbits : Nat) : Rat) * pow2 ((bits / 2 ^ f.mbits : Nat) - f.bias - f.mbits)

/-- The largest finite magnitude. -/
def FloatFormat.maxFinite (f : FloatFormat) : Rat := f.magnitude f.maxBits

/-- The smallest normal magnitude. -/
def FloatFormat.minNormal (f : FloatFormat) : Rat := pow2 f.emin

/-- What a floating pattern denotes: a NaN (signalling or quiet), an infinity, a zero, or a nonzero number. -/
inductive Val where
  | nan (signalling : Bool)
  | inf (neg : Bool)
  | zero (neg : Bool)
  | num (q : Rat)
  deriving DecidableEq, Repr

/-- The value of a pattern (R74, R76). -/
def FloatFormat.decode (f : FloatFormat) (bits : Nat) : Val :=
  let neg := bits / 2 ^ (f.ebits + f.mbits) % 2 == 1
  let mag := bits % 2 ^ (f.ebits + f.mbits)
  let finite := if mag = 0 then Val.zero neg else .num (if neg then -f.magnitude mag else f.magnitude mag)
  match f.kind with
  | .ieee =>
    if mag < f.infBits then finite
    else if mag = f.infBits then .inf neg
    else .nan (mag % 2 ^ f.mbits / 2 ^ (f.mbits - 1) == 0)
  | .e4m3 => if mag = 0x7F then .nan false else finite
  | .e2m1 => finite

/-- The flags an operation signals, in the bit order of KFLAGS[6:0] (R33). -/
abbrev Flags := BitVec 7

def flagNX : Flags := 1
def flagUF : Flags := 2
def flagOF : Flags := 4
def flagDZ : Flags := 8
def flagNV : Flags := 16
def flagSAT : Flags := 32
def flagNFSKIP : Flags := 64

/-- A flag where a condition holds. -/
def flagIf (b : Bool) (f : Flags) : Flags := if b then f else 0

/-- A rounded result: its pattern and the flags it signals. -/
structure Rounded where
  bits : Nat
  flags : Flags
  deriving DecidableEq, Repr

/-- ⌊log₂ q⌋ of a positive rational. -/
def ilog2 (q : Rat) : Int :=
  let n : Int := (Nat.log2 q.num.toNat : Int) - Nat.log2 q.den
  if pow2 n ≤ q then n else n - 1

/-- A magnitude rounded to an integer in a mode, `neg` the sign of the value (R47). -/
def roundInt (rm : Rm) (neg : Bool) (q : Rat) : Nat :=
  let f := q.floor.toNat
  let r := q - f
  match rm with
  | .rn => if r < 1 / 2 then f else if 1 / 2 < r then f + 1 else f + f % 2
  | .rz => f
  | .rd => if neg && r != 0 then f + 1 else f
  | .ru => if !neg && r != 0 then f + 1 else f

/-- A magnitude rounded to a multiple of 2 to the `e` (R80). -/
def roundGrid (rm : Rm) (neg : Bool) (e : Int) (q : Rat) : Rat := (roundInt rm neg (q / pow2 e) : Rat) * pow2 e

/-- The pattern of a magnitude that the format holds exactly. -/
def FloatFormat.encodeMag (f : FloatFormat) (r : Rat) : Nat :=
  if r = 0 then 0
  else if r < f.minNormal then (r / pow2 (f.emin - f.mbits)).floor.toNat
  else
    let e := ilog2 r
    ((e + f.bias).toNat - 1) * 2 ^ f.mbits + (r / pow2 (e - f.mbits)).floor.toNat

/-- The overflow results of R80 and R85. -/
def FloatFormat.overflow (f : FloatFormat) (rm : Rm) (sat neg : Bool) : Rounded :=
  match f.kind with
  | .ieee =>
    let toMax := match rm with
      | .rn => false
      | .rz => true
      | .rd => !neg
      | .ru => neg
    ⟨f.signBit neg + (if toMax then f.maxBits else f.infBits), flagOF ||| flagNX⟩
  | .e4m3 => if sat then ⟨f.signBit neg + f.maxBits, flagSAT ||| flagNX⟩ else ⟨0x7F, flagOF ||| flagNX⟩
  | .e2m1 => ⟨f.signBit neg + f.maxBits, flagSAT ||| flagNX⟩

/-- An exact nonzero result rounded and placed (R80, R82, R84): `flush` is FLUSH16 where it applies. -/
def FloatFormat.place (f : FloatFormat) (rm : Rm) (sat flush neg : Bool) (q : Rat) : Rounded :=
  let e := ilog2 q
  let r := roundGrid rm neg (e - f.mbits) q
  if f.maxFinite < r then f.overflow rm sat neg
  else if q < f.minNormal then
    let s := roundGrid rm neg (f.emin - f.mbits) q
    if flush && s != 0 && decide (s < f.minNormal) then ⟨f.signBit neg, flagUF ||| flagNX⟩
    else
      ⟨f.signBit neg + f.encodeMag s,
        flagIf (s != q) flagNX ||| flagIf (s != q && decide (r < f.minNormal)) flagUF⟩
  else ⟨f.signBit neg + f.encodeMag r, flagIf (r != q) flagNX⟩

/-- A value converted to a format (R80, R85). -/
def FloatFormat.round (f : FloatFormat) (rm : Rm) (sat flush : Bool) : Val → Rounded
  | .nan s => ⟨f.nan, flagIf (s || f.kind == .e2m1) flagNV⟩
  | .inf neg =>
    match f.kind with
    | .ieee => ⟨f.signBit neg + f.infBits, 0⟩
    | .e4m3 => if sat then ⟨f.signBit neg + f.maxBits, flagSAT ||| flagNX⟩ else ⟨0x7F, flagNV⟩
    | .e2m1 => ⟨f.signBit neg + f.maxBits, flagSAT ||| flagNX⟩
  | .zero neg => ⟨f.signBit neg, 0⟩
  | .num q => if q < 0 then f.place rm sat flush true (-q) else f.place rm sat flush false q

/-- Is a value a signalling NaN? -/
def Val.isSnan : Val → Bool
  | .nan s => s
  | _ => false

/-- Is a value a NaN? -/
def Val.isNan : Val → Bool
  | .nan _ => true
  | _ => false

/-- Is a value finite? -/
def Val.isFinite : Val → Bool
  | .nan _ => false
  | .inf _ => false
  | .zero _ => true
  | .num _ => true

/-- The sign of a value; false for a NaN. -/
def Val.neg : Val → Bool
  | .nan _ => false
  | .inf n => n
  | .zero n => n
  | .num q => decide (q < 0)

/-- The rational of a finite value, 0 for the rest. -/
def Val.toRat : Val → Rat
  | .num q => q
  | _ => 0

/-- An exact value: a rational, or a zero of the sign given. -/
def Val.ofRat (zneg : Bool) (q : Rat) : Val := if q = 0 then .zero zneg else .num q

/-- The value with its sign inverted; a NaN unchanged. -/
def Val.negate : Val → Val
  | .nan s => .nan s
  | .inf n => .inf !n
  | .zero n => .zero !n
  | .num q => .num (-q)

/-- The subnormal inputs that FLUSH16 reads as zero (R84). -/
def FloatFormat.flushIn (f : FloatFormat) (flush : Bool) : Val → Val
  | .num q => if flush && decide (-f.minNormal < q) && decide (q < f.minNormal) then .zero (decide (q < 0)) else .num q
  | v => v

/-- An exact result with the flags found before rounding. -/
structure Exact where
  val : Val
  flags : Flags
  deriving DecidableEq, Repr

/-- The invalid result: a NaN with NV. -/
def Exact.invalid : Exact := ⟨.nan false, flagNV⟩

/-- The NaN of an operation that read one: NV when one was signalling (R76). -/
def Exact.ofNan (sig : Bool) : Exact := ⟨.nan false, flagIf sig flagNV⟩

/-- Rounds an exact result, adding its flags. -/
def Exact.round (x : Exact) (f : FloatFormat) (rm : Rm) (flush : Bool) : Rounded :=
  let r := f.round rm true flush x.val
  ⟨r.bits, r.flags ||| x.flags⟩

/-- The exact sum (R81, R141). -/
def Val.add (rm : Rm) (a b : Val) : Exact :=
  if a.isNan || b.isNan then .ofNan (a.isSnan || b.isSnan)
  else
    match a, b with
    | .inf x, .inf y => if x == y then ⟨.inf x, 0⟩ else .invalid
    | .inf x, _ => ⟨.inf x, 0⟩
    | _, .inf y => ⟨.inf y, 0⟩
    | .zero x, .zero y => ⟨.zero (if x == y then x else rm == .rd), 0⟩
    | a, b => ⟨.ofRat (rm == .rd) (a.toRat + b.toRat), 0⟩

/-- The exact product (R141). -/
def Val.mul (a b : Val) : Exact :=
  if a.isNan || b.isNan then .ofNan (a.isSnan || b.isSnan)
  else
    match a, b with
    | .inf _, .zero _ => .invalid
    | .zero _, .inf _ => .invalid
    | .inf x, b => ⟨.inf (x != b.neg), 0⟩
    | a, .inf y => ⟨.inf (a.neg != y), 0⟩
    | a, b => ⟨.ofRat (a.neg != b.neg) (a.toRat * b.toRat), 0⟩

/-- The exact quotient (R141): DZ for a finite nonzero dividend over zero. -/
def Val.div (a b : Val) : Exact :=
  if a.isNan || b.isNan then .ofNan (a.isSnan || b.isSnan)
  else
    match a, b with
    | .inf _, .inf _ => .invalid
    | .zero _, .zero _ => .invalid
    | .inf x, b => ⟨.inf (x != b.neg), 0⟩
    | a, .inf y => ⟨.zero (a.neg != y), 0⟩
    | a, .zero y => ⟨.inf (a.neg != y), flagDZ⟩
    | a, b => ⟨.ofRat (a.neg != b.neg) (a.toRat / b.toRat), 0⟩

/-- The exact A × B + C (R81, R142): zero times infinity is invalid even beside a quiet NaN. -/
def Val.fma (rm : Rm) (a b c : Val) : Exact :=
  let p := Val.mul a b
  let s := Val.add rm p.val c
  let f := p.flags ||| flagIf c.isSnan flagNV
  if a.isNan || b.isNan || c.isNan then ⟨.nan false, f⟩ else ⟨s.val, s.flags ||| f⟩

/-- The value order of two values that are no NaN: −1, 0 or 1; zeros are equal. -/
def Val.compare (a b : Val) : Int :=
  let key : Val → Int × Rat := fun v =>
    match v with
    | .inf n => (if n then -1 else 1, 0)
    | v => (0, v.toRat)
  let x := key a
  let y := key b
  if x.1 < y.1 then -1 else if y.1 < x.1 then 1 else if x.2 < y.2 then -1 else if y.2 < x.2 then 1 else 0

/-- Does `a` order below `b` for minimum and maximum, −0 below +0? (R143) -/
def Val.below (a b : Val) : Bool :=
  decide (a.compare b < 0) || (a.compare b == 0 && a.neg && !b.neg)

/-- Minimum, or maximum when `mx` (R143): the pattern is taken from an operand, NaNs give way. -/
def FloatFormat.minmax (f : FloatFormat) (flush mx : Bool) (x y : Nat) : Rounded :=
  let a := f.flushIn flush (f.decode x)
  let b := f.flushIn flush (f.decode y)
  let fl := flagIf (a.isSnan || b.isSnan) flagNV
  let v := if a.isNan && b.isNan then Val.nan false
    else if a.isNan then b
    else if b.isNan then a
    else if mx then (if a.below b then b else a) else (if b.below a then b else a)
  ⟨(f.round .rn true false v).bits, fl⟩

/-- A floating condition and the NV it signals (R145). -/
def fcondHolds (cc : FCond) (a b : Val) : Bool × Flags :=
  let nan := a.isNan || b.isNan
  let sig := flagIf (a.isSnan || b.isSnan) flagNV
  let ord := flagIf nan flagNV
  let c := a.compare b
  match cc with
  | .eq => (!nan && c == 0, sig)
  | .ne => (nan || c != 0, sig)
  | .lt => (!nan && decide (c < 0), ord)
  | .le => (!nan && decide (c ≤ 0), ord)
  | .gt => (!nan && decide (0 < c), ord)
  | .ge => (!nan && decide (0 ≤ c), ord)
  | .ord => (!nan, sig)
  | .uno => (nan, sig)

/-- FRINT (R147): rounded to an integral value; `exactFlag` is the modifier `.x`. -/
def FloatFormat.rint (f : FloatFormat) (rm : Rm) (exactFlag : Bool) (bits : Nat) : Rounded :=
  match f.decode bits with
  | .nan s => ⟨f.nan, flagIf s flagNV⟩
  | .num q =>
    let m := if q < 0 then -q else q
    let r : Rat := roundInt rm (decide (q < 0)) m
    ⟨f.signBit (decide (q < 0)) + f.encodeMag r, flagIf (exactFlag && r != m) flagNX⟩
  | _ => ⟨bits, 0⟩

/-- The bits of an integer, wrapped to `n` bits (R73). -/
def wrapInt (n : Nat) (x : Int) : Nat := (x % (2 ^ n : Int)).toNat

/-- The clamp of an integer to a range, and whether it changed it (R73). -/
def clampInt (lo hi x : Int) : Int × Bool := if x < lo then (lo, true) else if hi < x then (hi, true) else (x, false)

/-- The least value of an integer type. -/
def intMin (signed : Bool) (n : Nat) : Int := if signed then -(2 ^ (n - 1)) else 0

/-- The greatest value of an integer type. -/
def intMax (signed : Bool) (n : Nat) : Int := if signed then 2 ^ (n - 1) - 1 else 2 ^ n - 1

/-- A value converted to an integer of `n` bits (R86). -/
def Val.toInteger (rm : Rm) (signed : Bool) (n : Nat) : Val → Rounded
  | .nan _ => ⟨0, flagNV⟩
  | .inf neg => ⟨wrapInt n (if neg then intMin signed n else intMax signed n), flagSAT⟩
  | .zero _ => ⟨0, 0⟩
  | .num q =>
    let m := if q < 0 then -q else q
    let r := roundInt rm (decide (q < 0)) m
    let x : Int := if q < 0 then -r else r
    let c := clampInt (intMin signed n) (intMax signed n) x
    ⟨wrapInt n c.1, if c.2 then flagSAT else flagIf ((r : Rat) != m) flagNX⟩

/-- The integer a pattern of `n` bits denotes (R72). -/
def intOf (signed : Bool) (n : Nat) (x : Nat) : Int :=
  if signed && decide (2 ^ (n - 1) ≤ x % 2 ^ n) then (x % 2 ^ n : Nat) - 2 ^ n else (x % 2 ^ n : Nat)

/-- The exact value of an integer. -/
def Val.ofInt (x : Int) : Val := .ofRat false x

/-- The floor of the square root, by Newton's steps with enough fuel for a number of `n` bits. -/
def isqrtAux (x : Nat) : Nat → Nat → Nat
  | 0, r => r
  | k + 1, r => if (r + 2 ^ k) * (r + 2 ^ k) ≤ x then isqrtAux x k (r + 2 ^ k) else isqrtAux x k r

/-- ⌊√x⌋, bit by bit. -/
def isqrt (x : Nat) : Nat := isqrtAux x (Nat.log2 x / 2 + 1) 0

/-- A rational that rounds like √q to any format of at most 60 fraction bits: exact when √q has few bits, else strictly
inside a gap between neighbouring candidates. -/
def sqrtSticky (q : Rat) : Rat :=
  let e := ilog2 q
  let k : Int := 70 - e / 2
  let x := q * pow2 (2 * k)
  let n := x.floor.toNat
  let r := isqrt n
  if (r * r : Nat) = x then (r : Rat) * pow2 (-k) else ((2 * r + 1 : Nat) : Rat) * pow2 (-k - 1)

/-- The exact square root, as a rational that rounds like it (R149). -/
def Val.sqrt : Val → Exact
  | .nan s => .ofNan s
  | .inf neg => if neg then .invalid else ⟨.inf false, 0⟩
  | .zero neg => ⟨.zero neg, 0⟩
  | .num q => if q < 0 then .invalid else ⟨.num (sqrtSticky q), 0⟩

/-- The class bit of FCLASS (R146). -/
def FloatFormat.classOf (f : FloatFormat) (bits : Nat) : Nat :=
  match f.decode bits with
  | .inf true => 0
  | .inf false => 7
  | .zero true => 3
  | .zero false => 4
  | .nan s => if s then 8 else 9
  | .num q =>
    if q < 0 then (if -q < f.minNormal then 2 else 1) else (if q < f.minNormal then 5 else 6)

/-- The largest FP32 pattern not above an exact value (R10). -/
def encloseDown (v : Val) : Nat := (fp32.round .rd true false v).bits

/-- The smallest FP32 pattern not below an exact value (R10). -/
def encloseUp (v : Val) : Nat := (fp32.round .ru true false v).bits

/-- The FP32 pattern nearest to an exact rational, ties to even. -/
def rneBits (q : Rat) : Nat := (fp32.round .rn true false (.ofRat false q)).bits

end Sys2Proof.Machine
end

