-- ==== Sys2Proof/Machine/Warp.lean ====
section
/-! DEFINITION. The state of threads and warps: frontier table, vector registers with their shapes and pending masks,
scalar, predicate, record and control registers (R12 to R35). -/

namespace Sys2Proof.Machine

/-- The storage of a vector register by its shape tag (R17): N, U, A, G. -/
inductive Storage where
  | n
  | u (x : Word)
  | a (base stride : Word)
  | g (v : Lanes)
  deriving DecidableEq, Repr

/-- A vector register: its storage and its pending mask (R17, R23). -/
structure VReg where
  st : Storage
  pend : LaneMask
  deriving DecidableEq, Repr

/-- A predicate register: one bit per lane, and its tag, U or G (R30). -/
structure PReg where
  bits : LaneMask
  uniform : Bool
  deriving DecidableEq, Repr

/-- STATE of a frontier entry (R13). -/
inductive LaneState where
  | none
  | live
  | exited
  | held
  deriving DecidableEq, Repr

/-- A return-stack entry: link bits [54:0] and the call mark (R13). -/
structure Link where
  pc : BitVec 55
  mark : Bool
  deriving DecidableEq, Repr

/-- One lane of a warp: its frontier entry (R13), the age of its run (R100), parking and barrier waits (R135, R200),
the liveness record it parked at or was called with (R135, R236), and the identity of its thread (R12, R237). The
return stack is listed top first. -/
structure Lane where
  pc : BitVec 55
  st : LaneState
  stack : List Link
  age : Nat
  parked : Bool
  atBar : Bool
  lrec : VAddr
  tx : Nat
  ty : Nat
  tz : Nat
  deriving DecidableEq, Repr

/-- ROLE of a warp (R34). -/
inductive Role where
  | any
  | feed
  | matrix
  | vector
  deriving DecidableEq, Repr

/-- A destination of a long-latency producer whose results have not all been written (R23): the lanes still due, those
of them that wait for an answer from outside or for a replay, the storage to write, the write set and whether it was
every live thread at issue, and the flags set at writeback (R89). -/
structure Inflight where
  reg : Nat
  due : LaneMask
  held : LaneMask
  value : Storage
  w : LaneMask
  whole : Bool
  flags : Flags
  deriving DecidableEq, Repr

/-- A pending WAITPH or waiting ACQ (R197, R204, R205). -/
structure Wait where
  guard : Bool
  /-- the GUARD of its record, all 64 bits, by which later accesses are matched (R278) -/
  key : Nat
  reg : Nat
  equal : Bool
  acquire : Bool
  scope : Scope
  addrs : List (Nat × Nat)
  wanted : Lanes
  got : Lanes
  due : LaneMask
  w : LaneMask
  whole : Bool
  /-- the instruction's address and run, which a kill reports (R383) -/
  pc : VAddr
  run : LaneMask
  deriving DecidableEq, Repr

/-- The kinds of access through the memory unit. -/
inductive AccOp where
  | load (signed : Bool)
  | store
  | atom (op : AtomOp)
  | guardLoad (mode : AcqMode)
  | guardStore (add : Bool)
  | brick (grad : Bool)
  | move (seg : Nat)
  deriving DecidableEq, Repr

/-- A global access of a warp: bytes a lane, acquire, release and `.sc`, destinations, lanes with addresses, the words
of S, and whether its result is one element for all (R185). -/
structure Acc where
  op : AccOp
  bytes : Nat
  acq : Bool
  rel : Bool
  lam : Bool
  sc : Scope
  dests : List Nat
  lanes : List (Nat × Nat)
  data : List Lanes
  unif : Bool
  deriving DecidableEq, Repr

/-- A logged memory instruction (R212, R213): its faulted lanes with their addresses and source values, its address, its
write set, and the run that issued it, which a kill reports (R383). -/
structure LogEntry where
  acc : Acc
  pc : VAddr
  w : LaneMask
  whole : Bool
  run : LaneMask
  deriving DecidableEq, Repr

/-- What a callable warp answers for: the block's MARCH queue and the ray of each lane (R370). -/
structure RayWarp where
  rays : List (Nat × Nat)
  deriving DecidableEq, Repr

/-- A warp (R12 to R35): control registers, registers, frontier table, and the state of issue, waits and traps. -/
structure Warp where
  /-- key of its block -/
  blk : Nat
  /-- warp index in its block (R28) -/
  index : Nat
  role : Role
  lanes : Vector Lane 32
  /-- v0 to v511; a register not listed is N and full -/
  vregs : List (Nat × VReg)
  /-- s0 to s23 -/
  sregs : Vector Word 24
  /-- q0 to q6 -/
  pregs : Vector PReg 7
  /-- b0 to b15 -/
  bregs : Vector Record 16
  kflags : Word
  kcause : Word
  kepc : VAddr
  /-- the lane mask of the trap record (R383) -/
  trapMask : LaneMask
  hndl : Bool
  tmask : Bool
  khbudget : Nat
  /-- sequence number (R337) -/
  seqno : Nat
  /-- wait count (R337) -/
  waitCount : Nat
  /-- cycles of sleep left (R136) -/
  sleep : Nat
  /-- cycles that a YIELD still sets the warp aside (R135) -/
  aside : Nat
  /-- the other warps of the partition that have not issued since the YIELD (R135) -/
  asidePeers : List Nat
  inflight : List Inflight
  log : Option LogEntry
  waits : List Wait
  /-- pending reads of its threads, one thread each, that began in warps which the threads have left, with the warp's slot
  and in `w` the old lane: their values are lost with the old lanes, where the reads are performed, but the reads are the
  threads' own and come before what the threads do later (R237, R277, R280) -/
  carried : List (Nat × Wait)
  /-- a trap taken before the first instruction: code and detail (R237, R309) -/
  firstTrap : Option (Nat × Nat)
  callable : Option RayWarp
  /-- the instruction fetch that faulted: the run waits at its PC (R387) -/
  fetchFault : Bool
  /-- registers whose late write found no general slot: the warp issues nothing until they are written (R20) -/
  stuck : List Nat
  deriving DecidableEq, Repr

end Sys2Proof.Machine
end

