-- ==== Sys2Proof/Machine/Block.lean ====
section
/-! DEFINITION. The state of blocks, of the engines that serve them, and of launches, packets and queues
(R16, R214 to R240, R247 to R262, R320 to R370). -/

namespace Sys2Proof.Machine

/-- An affine form (R79). -/
structure Form where
  c : Word
  a : Word
  e : Word
  deriving DecidableEq, Repr

/-- An entry of the evaluator: a pair, and in affine mode a form (R254). -/
structure Entry where
  lo : Word
  hi : Word
  form : Option Form
  deriving DecidableEq, Repr

/-- The modes of an evaluation (R250). -/
inductive EvalMode where
  | point
  | interval
  | affine
  deriving DecidableEq, Repr

/-- A frame: the position, one entry per axis (R250). -/
structure Frame where
  x : Entry
  y : Entry
  z : Entry
  deriving DecidableEq, Repr

/-- One evaluation of a field program (R250); the operand stack is listed top first. -/
structure Eval where
  mode : EvalMode
  pc : Nat
  stack : List Entry
  frames : List Frame
  frame : Frame
  /-- a CALLOUT handed over and not yet returned (R263) -/
  called : Bool
  deriving DecidableEq, Repr

/-- The states of a ray (R367). -/
inductive RayState where
  | seg
  | test
  | refine
  | done
  deriving DecidableEq, Repr

/-- A ray of a MARCH command (R365, R367): record, D, state, bounds and counts, its evaluation, and its result. The
width w is exact: a number of units of 2⁻¹⁴⁹, or nothing when it is infinite. -/
structure Ray where
  vals : Vector Word 8
  d : Word
  st : RayState
  tf : Word
  w : Option Nat
  t0 : Word
  t1 : Word
  t : Word
  n : Nat
  iter : Nat
  status : Nat
  eval : Option Eval
  written : Bool
  deriving DecidableEq, Repr

/-- The kinds of queued engine commands (R221). -/
inductive CmdKind where
  | mmaq
  | wbload
  | cpq
  | march (dt : DepthTest)
  deriving DecidableEq, Repr

/-- An accumulator set (R353): its output block, its values, and whether it drains. -/
structure AccSet where
  block : Nat
  vals : List (Nat × Word)
  draining : Bool
  deriving DecidableEq, Repr

/-- An engine command: the copies made at issue (R216), the issuer, its ordering flags, and its progress. -/
structure Cmd where
  kind : CmdKind
  desc : List Byte
  brec : Record
  shape : List Byte
  warp : Nat
  lane : Nat
  acq : Bool
  rel : Bool
  scope : Scope
  started : Bool
  /-- a status that a check gave, to be written at completion (R218) -/
  refused : Option Nat
  /-- the next tile of an MMAQ, rows moved of a CPQ, 1 once a WBLOAD has its bytes (R230, R352, R360, R462) -/
  progress : Nat
  sets : List AccSet
  /-- drained sets that have moved to writeback buffers of the unit, oldest first (R358) -/
  buffers : List AccSet
  /-- sets that a save recorded and that have not been reloaded (R360) -/
  parked : List AccSet
  rays : List (Nat × Ray)
  flags : Flags
  /-- it passed its checks at issue and waits in its queue for the engine (R218, R351) -/
  accepted : Bool
  /-- the channel was refused for permission: frozen (R403) -/
  frozen : Bool
  deriving DecidableEq, Repr

/-- A thread that waits in a collator window (R236): old warp slot, lane, target, key, liveness record. -/
structure HeldThread where
  slot : Nat
  lane : Nat
  target : VAddr
  key : Word
  lrec : VAddr
  deriving DecidableEq, Repr

/-- A ray that waits in a collator window of callables (R370): ray index, target, key, argument entries, callable. -/
structure HeldRay where
  ray : Nat
  target : VAddr
  key : Word
  args : List Entry
  callable : Nat
  deriving DecidableEq, Repr

/-- An open collator window, or a group cut from a closed one that waits to form (R338, R339). -/
structure Window where
  target : VAddr
  rays : List HeldRay
  threads : List HeldThread
  age : Nat
  closed : Bool
  deriving DecidableEq, Repr

/-- What a block does. -/
inductive BlockPhase where
  /-- admitted; tiles and attachments are being made (R307) -/
  | starting
  | running
  /-- a save has begun: forced or cooperative (R395, R396) -/
  | saving (forced : Bool)
  /-- restored; its attachments are being made again (R402) -/
  | restoring
  /-- every warp ended; its completion has not been reported (R319) -/
  | ended
  deriving DecidableEq, Repr

/-- A block in its slot (R16). -/
structure Block where
  launch : Nat
  /-- linear block index (R330) -/
  n : Nat
  attempt : Nat
  p0 : Nat
  phase : BlockPhase
  /-- the block area (R37 space 0) -/
  area : Mem
  /-- attached segments, entry w for window w (R16) -/
  windows : Vector (Option Nat) 4
  /-- arrival counter of the block barrier (R16) -/
  arrivals : Nat
  /-- the bytes of the version by location (R290, R303) -/
  version : List (Nat × Byte)
  /-- the virtual address of each line of the version: it commits through the translation then in force (R419) -/
  verLines : List (Nat × Nat)
  /-- the words that releases wrote to the version: their tags are stored at the commit (R282, R290) -/
  verTags : List Nat
  /-- a pre-emption request is pending (R394) -/
  pending : Bool
  /-- where it came from (R394): 0 the GSC, 1 the leaf controller, 2 a context switch, 3 the management subsystem -/
  source : Nat
  kdeadline : Nat
  /-- a handler of it ran in the cycle before, which stops the countdown for one cycle more (R394) -/
  held : Bool
  /-- the deadline expired (R396) -/
  expired : Bool
  /-- cycles since a save began (R398) -/
  saveAge : Nat
  /-- tile memory: 32 × 32 pixels of 8 bytes (R377) -/
  tile : Mem
  /-- the tile of an ended block has been written to COLOR (R377) -/
  flushed : Bool
  /-- the fragment list: origin pixel, mask of samples, side of a coarse pixel (R376) -/
  frags : List (Nat × Nat × Nat)
  /-- primitives emitted so far (R238) -/
  emitted : Nat
  collator : List Window
  matrixQ : List Cmd
  copyQ : List Cmd
  marchQ : List Cmd
  /-- detaches that wait for MARCH commands (R252): warp slot, destination, window, write set -/
  detaches : List (Nat × Nat × Nat × LaneMask)
  /-- cycles since admission or last restore (R333, R347) -/
  ran : Nat
  /-- the clock at its first admission, which is its arrival when it waits for a restore (R333) -/
  admitted : Nat
  /-- the clock when it ended: commits take place in that order (R290) -/
  endedAt : Nat
  deriving DecidableEq, Repr

/-- A loaded process group: its members' domain ids in rank order; nothing when the entry is absent (R348, R349). -/
structure Group where
  members : Option (List Nat)
  deriving DecidableEq, Repr

/-- Where a launch stands. -/
inductive LaunchPhase where
  | accepted
  | running
  | complete
  deriving DecidableEq, Repr

/-- A launch: its parameter block (R328), where it came from, and its progress (R330, R332, R342, R343, R345). -/
structure Launch where
  queue : Nat
  ctx : Nat
  /-- SEQ of the packet, or the entry number of a child (R332) -/
  seq : Nat
  prio : Nat
  /-- the device queue of a child launch (R342) -/
  child : Option Nat
  /-- the child's order among those of its device queue, and SERIAL (R341) -/
  serial : Bool
  order : Nat
  fscope : Nat
  phase : LaunchPhase
  /-- the 256 bytes of the LPB (R328) -/
  lpb : List Byte
  /-- the input table, 128 bytes (R331) -/
  inputs : List Byte
  /-- bytes for the start of every block area of a child (R341) -/
  args : List Byte
  /-- the target descriptor, 64 bytes, when there is one (R363) -/
  target : Option (List Byte)
  /-- the region owner map: a rank for each region, row by row (R379) -/
  ownerMap : List Nat
  /-- KCLASSAREA taken at start (R326) -/
  classArea : Nat
  groups : List Group
  /-- first and end index of the blocks this device runs (R350) -/
  first : Nat
  last : Nat
  /-- the next block never offered yet (R330) -/
  nextBlock : Nat
  /-- killed blocks to offer again: index and attempt (R390) -/
  relaunch : List (Nat × Nat)
  /-- blocks offered and waiting for admission: index, attempt, cycles waited (R312) -/
  waiting : List (Nat × Nat × Nat)
  /-- blocks that have ended or failed -/
  done : Nat
  failed : Nat
  cancelled : Bool
  devlost : Bool
  /-- proof mode: the core, steps retired, the position in the rotation at which the next step looks first, log bytes
  used, ended by a kill (R343 to R345, R392) -/
  core : Option Nat
  retired : Nat
  rotate : Nat
  logPos : Nat
  ended : Bool
  /-- COLL commands issued so far on each group (R234) -/
  collCount : List (Nat × Nat)
  /-- primitives: next block and index to rasterise (R380) -/
  rasterNext : Nat × Nat
  deriving DecidableEq, Repr

/-- A packet type that was accepted (R326). -/
inductive PacketKind where
  | launch (id : Nat)
  | signal (addr value op : Nat)
  | wait (addr value cond : Nat)
  | setq (area : Nat)
  | dqnew (bytes : List Byte)
  | dqfree (handle : Nat)
  deriving DecidableEq, Repr

/-- An accepted packet that has not completed (R293, R326). -/
structure Packet where
  /-- its number among all that its queue ever accepted: the model's own, since SEQ starts anew at an enable (R321) -/
  seq : Nat
  /-- the queue's context at acceptance -/
  ctx : Nat
  kind : PacketKind
  cls : Nat
  fscope : Nat
  started : Bool
  deriving DecidableEq, Repr

/-- A hardware queue: its register block (R320), target register (R362), fault record (R393), accepted packets, and
whether it is frozen (R403). -/
structure Queue where
  base : Nat
  en : Bool
  ctx : Nat
  prio : Nat
  logsz : Nat
  halt : Bool
  code : Nat
  detail : Nat
  lap : Bool
  slot : Nat
  seq : Nat
  /-- the model's own: packets ever accepted, which number them -/
  total : Nat
  area : Nat
  tdesc : Nat
  fseq : Nat
  fblock : Nat
  fcause : Word
  fepc : VAddr
  flmask : LaneMask
  fstat : Word
  packets : List Packet
  frozen : Bool
  /-- addresses of the accesses that were refused since it was frozen: they are made again when it is unfrozen (R403) -/
  refused : List Nat
  /-- lines of accesses that were abandoned when their fault was answered with FAIL, until RESUME (R412) -/
  abandoned : List Nat
  deriving DecidableEq, Repr

/-- A device queue (R340): generation, capacity, priority, template LPB, entry storage, the hardware queue that made it,
entries waiting, entries accepted so far, and whether DQFREE started. -/
structure DevQueue where
  gen : Nat
  inUse : Bool
  freed : Bool
  logcap : Nat
  prio : Nat
  template : List Byte
  store : Nat
  queue : Nat
  fscope : Nat
  entries : List (Nat × List Byte)
  accepted : Nat
  deriving DecidableEq, Repr

end Sys2Proof.Machine
end

