-- ==== Sys2Proof/Machine/Chip.lean ====
section
/-! DEFINITION. The state of the chip around the blocks: cores, clusters, segments, contexts, the endpoint, the fabric
and the management subsystem (R38, R295 to R316, R351 to R355, R406 to R442). -/

namespace Sys2Proof.Machine

/-- A translated address: its location, its leaf entry and where that stands, the page's first location and size, and the
virtual address. -/
structure Xlat where
  loc : Nat
  leaf : Nat
  entry : Nat
  page : Nat
  size : Nat
  va : Nat
  deriving DecidableEq, Repr

/-- A request in the request collector of a core (R187): the warp, the instruction, the lanes' places and data, and for a
GATHER its destination register. -/
structure CollectReq where
  slot : Nat
  dest : Option Nat
  bytes : Nat
  signed : Bool
  addrs : List (Nat × Xlat)
  data : List (Nat × Nat)
  w : LaneMask
  whole : Bool
  uniform : Bool
  deriving DecidableEq, Repr

/-- A core (R16, R36, R187, R296, R306, R316, R347, R431). -/
structure Core where
  /-- KCAPS.BANKS -/
  banks : Nat
  /-- KCAPS.GSLOTS of each partition -/
  gslots : Vector Nat 32
  inService : Bool
  /-- bank retirements that wait for the core to drain (R316): 0 for core SRAM or the file's partition + 1, and the bank -/
  draining : List (Nat × Nat)
  hot : Bool
  /-- temperature in 1/16 °C, 16 bits -/
  temp : BitVec 16
  /-- galley areas by launch (R37 space 3) -/
  galleys : List (Nat × Mem)
  /-- bricks held: context, address, bytes (R306) -/
  bricks : List (Nat × Nat × List Byte)
  /-- capacity of the brick cache in bricks -/
  brickCap : Nat
  collector : List CollectReq
  /-- cycles since the first request of the open collector window -/
  collectorAge : Nat
  /-- the Lamport clock (R281) -/
  lamport : Nat
  /-- physical frames pinned in this core's SRAM (R300) -/
  pins : List Nat
  /-- next sequence number of each partition (R337) -/
  seqNext : Vector Nat 32
  /-- the partition's last issuer, for turns among equal numbers (R337) -/
  lastIssued : Vector Nat 32
  /-- the block slot whose copy moved a row last, and whose MARCH started last (R462) -/
  lastCopy : Nat
  lastMarch : Nat
  deriving DecidableEq, Repr

/-- A weight-buffer slot (R355). -/
structure WSlot where
  valid : Bool
  wboff : Nat
  n : Nat
  k : Nat
  bfmt : Nat
  form : Nat
  sc : Bool
  bytes : Nat
  /-- the context whose block loaded it (R230) -/
  ctx : Nat
  deriving DecidableEq, Repr

/-- A cluster: weight buffer, slots, and the turn of its matrix unit (R230, R351 to R355), and its command link (R319). -/
structure Cluster where
  wb : Mem
  /-- the end of the weight buffer (R316) -/
  wbEnd : Nat
  slots : Vector WSlot 16
  /-- the block whose queue was chosen last (R354) -/
  lastQueue : Nat
  /-- blocks in the order in which their waiting commands were accepted (R351) -/
  order : List Nat
  /-- contexts that are being switched away from the cluster (R230) -/
  leaving : List Nat
  linkUp : Bool
  deriving DecidableEq, Repr

/-- STATE of a segment entry (R38); a free entry is not listed. -/
inductive SegState where
  | resident
  | cold
  | moving
  deriving DecidableEq, Repr

/-- What a move of a segment does when it ends (R208, R310): evict for an admission, evict for the ATTACH that brings another
segment, free, or reload on a core for an attach. A COLD or RESIDENT segment whose goal is a reload waits for room. -/
inductive SegGoal where
  | evict
  | evictFor (seg : Nat)
  | free
  | reload (core : Nat)
  deriving DecidableEq, Repr

/-- A SEG instruction that waits for a move: warp slot, block, destination, window, write set and its coverage, address and
the run that issued it. -/
structure SegWaiter where
  slot : Nat
  blk : Nat
  reg : Nat
  win : Nat
  w : LaneMask
  whole : Bool
  pc : VAddr
  run : LaneMask
  deriving DecidableEq, Repr

/-- A standing segment (R38) with its bytes while RESIDENT or MOVING. -/
structure Segment where
  name : Nat
  ctx : Nat
  size : Nat
  home : Nat
  backing : Nat
  st : SegState
  loc : Nat
  attach : Nat
  bytes : Mem
  /-- the clock when ATTACH last fell to 0 (R310) -/
  idleSince : Nat
  goal : Option SegGoal
  /-- the hardware queue on whose behalf it moves (R411); 0 for a repair (log entry 103) -/
  queue : Nat
  /-- a reload is under way, else a write-back -/
  loading : Bool
  waiter : Option SegWaiter
  /-- its write-back met a fault that was not resolved: another victim is chosen (R310) -/
  faulted : Bool
  deriving DecidableEq, Repr

/-- Who waits on a translation fault (R387). -/
inductive FaultWho where
  | warp (slot : Nat)
  | fetch (slot : Nat)
  | engine (blk kind : Nat)
  | seg (seg : Nat)
  | input (blk : Nat)
  | queue (q : Nat)
  deriving DecidableEq, Repr

/-- A translation fault that waits (R411): page, line, kind bits, reason, core, queue, ID once reported, and who. -/
structure PendingFault where
  line : Nat
  kind : Nat
  reason : Nat
  core : Nat
  queue : Nat
  id : Option Nat
  /-- a page request of a privileged channel (R414) -/
  request : Bool
  /-- the GSC knows of it: reported by the leaf controller, or its own (R387) -/
  sent : Bool
  who : FaultWho
  /-- of an access or fetch by a thread: the lowest lane that met the fault, and the address and run of its instruction, which
  a kill reports (R382, R383) -/
  lane : Nat
  pc : VAddr
  run : LaneMask
  deriving DecidableEq, Repr

/-- A table entry that the device has cached (R410): where it stands, its value when it was read, and the ranges of addresses
that walks through it showed it to map, as first address and bytes. -/
structure CachedEntry where
  addr : Nat
  value : Nat
  spans : List (Nat × Nat)
  deriving DecidableEq, Repr

/-- A context's register block (R413), its faults, and its device queues (R340). -/
structure Context where
  root : Nat
  privch : Bool
  en : Bool
  fn : Nat
  pasid : Nat
  savebase : Nat
  savemib : Nat
  frbase : Nat
  frlog : Nat
  frhead : Nat
  frtail : Nat
  termd : Bool
  migerr : Nat
  migbusy : Bool
  invbusy : Bool
  /-- invalidations held until INVBUSY is 0 (R413): the function that wrote it, first page, pages less one -/
  invHeld : List (Nat × Nat × Nat)
  /-- the invalidation under way -/
  inv : Nat × Nat
  migva : Nat
  migpte : Nat
  /-- MIGVA and MIGPTE as the migration under way took them (R419) -/
  migFrom : Nat
  migTo : Nat
  /-- the frames that it marks as being copied (R418) -/
  migFrames : List Nat
  nextId : Nat
  faults : List PendingFault
  devQueues : List (Nat × DevQueue)
  /-- ATS results that the device holds: 64 KiB page of the host's space, and its permissions, bit 0 read, bit 1 write
  (R414) -/
  ats : List (Nat × Nat)
  /-- cached table entries (R410) -/
  tlb : List CachedEntry
  deriving DecidableEq, Repr

/-- A frame-table entry (R418): where its page is pinned, slice t as 512 + t and core t as 768 + t (R300); the leaf entry
of a discarded page; being copied. -/
structure FrameInfo where
  pin : Option Nat
  discarded : Option Nat
  copying : Bool
  /-- the leaf entry that pins the page -/
  leaf : Nat
  deriving DecidableEq, Repr

/-- STATE of a Myond port (R423, R424). -/
inductive PortState where
  | disabled
  | down
  | train
  | up
  | retrain
  | dead
  deriving DecidableEq, Repr

/-- A Myond port (R422 to R424). -/
structure Port where
  st : PortState
  peer : Nat
  retrains : Nat
  lanes : Nat
  replays : Nat
  dis : Bool
  /-- next sequence number expected and next to send -/
  rxSeq : Nat
  txSeq : Nat
  /-- flits sent, or about to be, and not acknowledged, the first 2,048 in the replay buffer: sequence number and bytes -/
  replay : List (Nat × List Byte)
  /-- payloads delivered -/
  inbox : List (List Byte)
  /-- the link failed for good: geometry packets that wait end (R381) -/
  lost : Bool
  /-- the clock when it entered TRAIN (R423), and when it last left UP (R381, R423) -/
  since : Nat
  down : Nat
  /-- replays within the last millisecond: the clock and the flits resent of each (R423) -/
  resent : List (Nat × Nat)
  /-- the clock when the oldest unacknowledged flit became that or was resent last (R422) -/
  timer : Nat
  deriving DecidableEq, Repr

/-- Where bytes of an answer go: a lane of a register in flight, from a byte offset (R23). -/
structure ExtPart where
  slot : Nat
  reg : Nat
  lane : Nat
  off : Nat
  bytes : Nat
  signed : Bool
  deriving DecidableEq, Repr

/-- A request to another device or to the host that waits for its answer (R414, R425, R426): the device, none for the
host; the kind of access with its operand bytes; who waits; where the answer goes, or the answer kept for a retry; and the
address, run and lane of a thread's instruction, which a kill reports (R383, R427). -/
structure ExtReq where
  id : Nat
  dev : Option Nat
  kind : Nat
  addr : Nat
  operand : List Byte
  bytes : Nat
  who : FaultWho
  ctx : Nat
  parts : List ExtPart
  data : Option (List Byte)
  pc : VAddr
  run : LaneMask
  lane : Nat
  deriving DecidableEq, Repr

/-- A contribution to a collective: its signature (op, rop, width, count, root), its bytes, and its level: it covers 2^level
ranks from its own on, combined in transit where there are several (R234, R429). -/
structure CollPart where
  sig : List Nat
  data : List Byte
  level : Nat
  deriving DecidableEq, Repr

/-- Where a collective delivers on this device: registers of a warp, or memory through a record (R233). -/
inductive CollDest where
  | regs (slot d : Nat) (w : LaneMask) (b64 : Bool)
  | mem (brec : Record)
  | none
  deriving DecidableEq, Repr

/-- A collective operation in the collective engine (R233, R234, R429): the launch, its group, its number on the group,
this device's rank and the group's size; the block that issued it here, if one has, with its signature, descriptor and
flags; the contributions so far by rank; in ring phases the pieces of the reduce-scatter pass for this member by rank, and
those of the all-gather pass; a status that ends it early; and whether its channel was refused. -/
structure Collective where
  launch : Nat
  grp : Nat
  n : Nat
  rank : Nat
  size : Nat
  issued : Bool
  blk : Nat
  sig : List Nat
  desc : List Byte
  rel : Bool
  scope : Scope
  dest : CollDest
  parts : List (Nat × CollPart)
  pieces : List (Nat × CollPart)
  gathered : List (Nat × List Byte)
  refused : Option Nat
  frozen : Bool
  /-- the result has been written to memory; the flip waits for acknowledgements (R426) -/
  wrote : Bool
  deriving DecidableEq, Repr

/-- A classified primitive (R373, R380): launch, sending device, block, emission index, snapped corners in 1/256 pixel,
clip-space w of each corner, PRIMID, ATTR, and whether the fixed rasteriser takes it. -/
structure Prim where
  launch : Nat
  dev : Nat
  block : Nat
  index : Nat
  xs : Vector Int 3
  ys : Vector Int 3
  ws : Vector Word 3
  primid : Word
  attr : Word
  fixedPath : Bool
  deriving DecidableEq, Repr

/-- A message of another device's geometry: a primitive, or the end of a block with the number of its primitives (R379,
R380). -/
inductive Geo where
  | prim (dev : Nat) (bs : List Byte)
  | mark (dev blk n : Nat)
  deriving DecidableEq, Repr

/-- A frozen master (R403, R434). -/
inductive Master where
  | queue (q : Nat)
  /-- a launch's engine channel on a cluster, with the launch's queue and context -/
  | channel (launch cluster queue ctx : Nat)
  | function (fn : Nat)
  deriving DecidableEq, Repr

/-- The contents of a flash bank: as manufactured, or written by an activation (R439). -/
inductive FlashBank where
  | made
  | written (bytes : List Byte)
  deriving DecidableEq, Repr

/-- A firmware command in progress (R439). -/
inductive FwCmd where
  | stage
  | activate
  | abort
  deriving DecidableEq, Repr

/-- A fatal dump that is being written (R440): its cause, the GETCLK count at the error, the number of its next section, and
the bytes written. -/
structure Dump where
  cause : Nat
  clk : Nat
  next : Nat
  size : Nat
  deriving DecidableEq, Repr

/-- The management subsystem (R431 to R442). -/
structure Mss where
  fwrev : Nat
  laylo : Nat
  layhi : Nat
  dumpv : Bool
  pstate : Nat
  stage : Nat
  preq : Nat
  /-- log₂ of the size of BAR2, 30 to 38 (R415) -/
  bar2 : Nat
  /-- the power state that an accepted request leads to (R442) -/
  goal : Nat
  wbase : Nat
  plim : Nat
  tcrit : Nat
  tmig : Nat
  lbase : Nat
  llog : Nat
  lost : Nat
  head : Nat
  tail : Nat
  logId : Nat
  /-- the last entries written, at most 256 (R440) -/
  recent : List (List Byte)
  frozen : List (Nat × Master)
  /-- a power request written during a firmware command (R439) -/
  preqWaits : Option Nat
  actaddr : Nat
  staged : Option (List Byte)
  busy : Option FwCmd
  /-- the result that the command in progress will give -/
  pendingRes : Nat
  res : Nat
  attaddr : Nat
  attbusy : Bool
  nonce : List Byte
  dbase : Nat
  dmib : Nat
  /-- the fatal dump under way -/
  dump : Option Dump
  /-- fuses: minimum revision and revocation bits (R437) -/
  svn : Nat
  revoked : Nat
  flash : FlashBank × FlashBank
  /-- the bank marked current -/
  current : Nat
  /-- BODYHASH of the running image -/
  bodyHash : List Byte
  /-- the configuration record was accepted; SERIAL last accepted -/
  configured : Bool
  serial : Nat
  /-- power above PLIM: partitions issue every other cycle (R436) -/
  throttled : Bool
  /-- scheduling paused by ACTIVATE (R439) -/
  paused : Bool
  /-- cores powered down (R442) -/
  asleep : Bool
  /-- saved blocks stay saved until PREQ 0 (R442) -/
  held : Bool
  /-- DOMCFG and EXPORT (R424) -/
  domValid : Bool
  topo : Nat
  ndev : Nat
  domid : Nat
  explim : Nat
  deriving DecidableEq, Repr

/-- A saved block (R395 to R401): what restore needs, and where its image lies. -/
structure Saved where
  blk : Block
  /-- its warps: old slot and state -/
  warps : List (Nat × Warp)
  galley : Option Mem
  /-- weight-buffer slots that recorded MMAQ commands name: slot, state, bytes (R360) -/
  wslots : List (Nat × WSlot × List Byte)
  /-- WINDOWS of the image: the name attached to each window (R399) -/
  segNames : Vector (Option Nat) 4
  forced : Bool
  /-- the image in the save region: address, SIZE and LAYOUT (R399, R439) -/
  image : Nat
  size : Nat
  layout : Nat
  ctx : Nat
  /-- cycles waited for restore -/
  waited : Nat
  /-- core and block slot it came from -/
  core : Nat
  slot : Nat
  /-- the core to which the GSC has ordered its restore (R319) -/
  order : Option Nat
  deriving DecidableEq, Repr

end Sys2Proof.Machine
end

