-- ==== Sys2Proof/Machine/State.lean ====
section
/-! DEFINITION. The state of the KP-1, what stops it, and the state after reset. -/

namespace Sys2Proof.Machine

/-- What stops the machine. -/
inductive Fault where
  /-- Raised by a step whose agenda names a warp or a ray that has nothing to run: no party of the machine could move so.
  Safe: the manual gives no effect there. -/
  | noRun
  deriving DecidableEq, Repr

/-- Why a step has no meaning. -/
inductive Refusal where
  /-- Raised by the dispatch of an instruction that has no meaning yet. Safe: nothing can be proved of it. -/
  | notModelled (mnemonic : String)
  deriving DecidableEq, Repr

/-- Who moves next: a warp issues one instruction, a ray runs one operation, or an event takes place. The model's own
record of what the manual leaves to arbitration and to the outside world (log entry 1). -/
inductive Turn where
  | issue (slot : Nat)
  | ray (blk ray : Nat)
  | event (i : Instr)
  deriving DecidableEq, Repr

/-- The instruction being executed: warp slot, run, address and size (R98). -/
structure Cur where
  slot : Nat
  run : LaneMask
  pc : VAddr
  size : Nat
  deriving DecidableEq, Repr

/-- The code that a running launch sees (R43): the launch, device memory as it stood when the launch began, its page tables
among it, and the ranges that the launch itself has written since, as location and length. -/
structure CodeImage where
  launch : Nat
  mem : Mem
  own : List (Nat × Nat)
  deriving DecidableEq, Repr

/-- The machine. Warps are keyed by 256 × core + 8 × partition + slot, blocks by 32 × core + block slot. -/
structure State where
  /-- cycles since stage 1 began (R242, R441) -/
  clk : Nat
  /-- the model's own: counts the free values used (log entry 3) -/
  draws : Nat
  /-- the model's own: who moves next (log entry 1) -/
  agenda : List Turn
  /-- the model's own: the instruction being executed -/
  cur : Cur
  /-- the model's own: the ray being evaluated, block and ray -/
  ray : Nat × Nat
  /-- device memory by physical address -/
  mem : Mem
  /-- host memory as far as the device has reached it (R414) -/
  hostMem : Mem
  warps : List (Nat × Warp)
  blocks : List (Nat × Block)
  saved : List (Nat × Saved)
  cores : List (Nat × Core)
  clusters : List (Nat × Cluster)
  /-- KiB that each LLC slice has lost (R316) -/
  sliceLoss : List (Nat × Nat)
  /-- the name table: entries in use (R38) -/
  segs : List (Nat × Segment)
  launches : List (Nat × Launch)
  queues : List (Nat × Queue)
  ctxs : List (Nat × Context)
  /-- frames with something to record (R418) -/
  frames : List (Nat × FrameInfo)
  /-- Lamport tags of lines (R281, R282) -/
  tags : List (Nat × Nat)
  /-- corrected errors of rows, by store and row (R314) -/
  rowErrors : List (Nat × Nat)
  /-- spare rows used, by store and bank (R315) -/
  spares : List (Nat × Nat)
  ports : List (Nat × Port)
  ext : List ExtReq
  extNext : Nat
  /-- messages sent on the fabric: device, kind, address, bytes (R425, R429) -/
  sent : List (Nat × Nat × Nat × List Byte)
  collectives : List Collective
  prims : List Prim
  /-- block-end marks: launch, device, block, primitives (R380) -/
  marks : List (Nat × Nat × Nat × Nat)
  /-- geometry of other devices that came before the packet here to which it belongs (R380) -/
  early : List Geo
  /-- MSI-X signals raised: function and vector (R415) -/
  msix : List (Nat × Nat)
  /-- completions sent to host functions: the bytes read, or nothing for Completer Abort (R403, R418) -/
  completions : List (Nat × Option (List Byte))
  mss : Mss
  launchNext : Nat
  savedNext : Nat
  /-- what running launches see of memory as code (R43) -/
  oldCode : List CodeImage
  /-- messages that wait for a path: device, kind, address, bytes (R422, R426) -/
  outbox : List (Nat × Nat × Nat × List Byte)
  /-- the port that the messages to a device take (R426) -/
  paths : List (Nat × Nat)
  deriving DecidableEq, Repr

/-- A core after reset (R36). -/
def Core.reset : Core where
  banks := 48
  gslots := Vector.replicate 32 384
  inService := true
  draining := []
  hot := false
  temp := 0
  galleys := []
  bricks := []
  brickCap := 256
  collector := []
  collectorAge := 0
  lamport := 0
  pins := []
  seqNext := Vector.replicate 32 0
  lastIssued := Vector.replicate 32 0
  lastCopy := 0
  lastMarch := 0

/-- A weight-buffer slot after reset: not valid. -/
def WSlot.reset : WSlot := ⟨false, 0, 0, 0, 0, 0, false, 0, 0⟩

/-- A cluster after reset. -/
def Cluster.reset : Cluster where
  wb := []
  wbEnd := 2 ^ 21
  slots := Vector.replicate 16 WSlot.reset
  lastQueue := 0
  order := []
  leaving := []
  linkUp := true

/-- A hardware queue after reset (R320, R362, R393). -/
def Queue.reset : Queue where
  base := 0
  en := false
  ctx := 0
  prio := 0
  logsz := 0
  halt := false
  code := 0
  detail := 0
  lap := false
  slot := 0
  seq := 0
  total := 0
  area := 0x400
  tdesc := 0
  fseq := 0
  fblock := 0
  fcause := 0
  fepc := 0
  flmask := 0
  fstat := 0
  packets := []
  frozen := false
  refused := []
  abandoned := []

/-- A context after reset (R413). -/
def Context.reset : Context where
  root := 0
  privch := false
  en := false
  fn := 0
  pasid := 0
  savebase := 0
  savemib := 0
  frbase := 0
  frlog := 4
  frhead := 0
  frtail := 0
  termd := false
  migerr := 0
  migbusy := false
  invbusy := false
  invHeld := []
  inv := (0, 0)
  migva := 0
  migpte := 0
  migFrom := 0
  migTo := 0
  migFrames := []
  nextId := 1
  faults := []
  devQueues := []
  ats := []
  tlb := []

/-- A frame after reset. -/
def FrameInfo.reset : FrameInfo := ⟨none, none, false, 0⟩

/-- A port after reset: PSTAT.STATE is 1, DOWN (R424). -/
def Port.reset : Port where
  st := .down
  peer := 0
  retrains := 0
  lanes := 0
  replays := 0
  dis := false
  rxSeq := 0
  txSeq := 0
  replay := []
  inbox := []
  lost := false
  since := 0
  down := 0
  resent := []
  timer := 0

/-- The management subsystem after reset (R431); revisions, fuses and flash by log entry 8. -/
def Mss.reset : Mss where
  fwrev := 0
  laylo := 1
  layhi := 1
  dumpv := false
  pstate := 0
  stage := 0
  preq := 0
  bar2 := 38
  goal := 0
  wbase := 0
  plim := 2200
  tcrit := 105
  tmig := 95
  lbase := 0
  llog := 8
  lost := 0
  head := 0
  tail := 0
  logId := 1
  recent := []
  frozen := []
  preqWaits := none
  actaddr := 0
  staged := none
  busy := none
  pendingRes := 0
  res := 0
  attaddr := 0
  attbusy := false
  nonce := List.replicate 32 0
  dbase := 0
  dmib := 0
  dump := none
  svn := 0
  revoked := 0
  flash := (.made, .made)
  current := 0
  bodyHash := List.replicate 32 0
  configured := false
  serial := 0
  throttled := false
  paused := false
  asleep := false
  held := false
  domValid := false
  topo := 0
  ndev := 0
  domid := 0
  explim := 0

/-- The machine right after reset: stage RESET, no context, queue, launch or block, every store empty (R441). -/
def State.reset : State where
  clk := 0
  draws := 0
  agenda := []
  cur := ⟨0, 0, 0, 0⟩
  ray := (0, 0)
  mem := []
  hostMem := []
  warps := []
  blocks := []
  saved := []
  cores := []
  clusters := []
  sliceLoss := []
  segs := []
  launches := []
  queues := []
  ctxs := []
  frames := []
  tags := []
  rowErrors := []
  spares := []
  ports := []
  ext := []
  extNext := 0
  sent := []
  collectives := []
  prims := []
  marks := []
  early := []
  msix := []
  completions := []
  mss := Mss.reset
  launchNext := 0
  savedNext := 0
  oldCode := []
  outbox := []
  paths := []

end Sys2Proof.Machine
end

