-- ==== Sys2Proof/Machine/Access.lean ====
section
/-! DEFINITION. Readers and writers of the parts of the state, the numbering of cores and slots, and the fields of a
launch parameter block. -/

namespace Sys2Proof.Machine

/-- What one step answers. -/
abbrev Res := Host.Outcome State Fault Refusal

/-- A change of the next state. -/
def andThen (r : Res) (f : State → State) : Res :=
  match r with
  | .next t => .next (f t)
  | r => r

/-- A lane that holds no thread (R13). -/
def Lane.none : Lane := ⟨0, .none, [], 0, false, false, 0, 0, 0, 0⟩

/-- A warp slot without a warp. -/
def Warp.blank : Warp where
  blk := 0
  index := 0
  role := .any
  lanes := Vector.replicate 32 Lane.none
  vregs := []
  sregs := Vector.replicate 24 0
  pregs := Vector.replicate 7 ⟨0, true⟩
  bregs := Vector.replicate 16 0
  kflags := 0
  kcause := 0
  kepc := 0
  trapMask := 0
  hndl := false
  tmask := false
  khbudget := 65536
  seqno := 0
  waitCount := 0
  sleep := 0
  aside := 0
  asidePeers := []
  inflight := []
  log := none
  waits := []
  carried := []
  firstTrap := none
  callable := none
  fetchFault := false
  stuck := []

/-- A block slot without a block. -/
def Block.blank : Block where
  launch := 0
  n := 0
  attempt := 1
  p0 := 0
  phase := .ended
  area := []
  windows := Vector.replicate 4 none
  arrivals := 0
  version := []
  verLines := []
  verTags := []
  pending := false
  source := 0
  kdeadline := 0
  held := false
  expired := false
  saveAge := 0
  tile := []
  flushed := false
  frags := []
  emitted := 0
  collator := []
  matrixQ := []
  copyQ := []
  marchQ := []
  detaches := []
  ran := 0
  admitted := 0
  endedAt := 0

/-- A launch that does not exist. -/
def Launch.blank : Launch where
  queue := 0
  ctx := 0
  seq := 0
  prio := 0
  child := none
  serial := false
  order := 0
  fscope := 0
  phase := .complete
  lpb := []
  inputs := []
  args := []
  target := none
  ownerMap := []
  classArea := 0x400
  groups := []
  first := 0
  last := 0
  nextBlock := 0
  relaunch := []
  waiting := []
  done := 0
  failed := 0
  cancelled := false
  devlost := false
  core := none
  retired := 0
  rotate := 0
  logPos := 0
  ended := false
  collCount := []
  rasterNext := (0, 0)

/-- The warp in a slot. -/
def State.warp (s : State) (k : Nat) : Warp := Map.getD s.warps k Warp.blank

/-- The state with a warp put into a slot. -/
def State.setWarp (s : State) (k : Nat) (w : Warp) : State := { s with warps := Map.set s.warps k w }

/-- The block in a slot. -/
def State.block (s : State) (k : Nat) : Block := Map.getD s.blocks k Block.blank

/-- The state with a block put into a slot. -/
def State.setBlock (s : State) (k : Nat) (b : Block) : State := { s with blocks := Map.set s.blocks k b }

/-- A core. -/
def State.core (s : State) (c : Nat) : Core := Map.getD s.cores c Core.reset

/-- The state with a core changed. -/
def State.setCore (s : State) (c : Nat) (x : Core) : State := { s with cores := Map.put s.cores c x Core.reset }

/-- A cluster. -/
def State.cluster (s : State) (c : Nat) : Cluster := Map.getD s.clusters c Cluster.reset

/-- The state with a cluster changed. -/
def State.setCluster (s : State) (c : Nat) (x : Cluster) : State :=
  { s with clusters := Map.put s.clusters c x Cluster.reset }

/-- A launch. -/
def State.launch (s : State) (k : Nat) : Launch := Map.getD s.launches k Launch.blank

/-- The state with a launch changed. -/
def State.setLaunch (s : State) (k : Nat) (x : Launch) : State := { s with launches := Map.set s.launches k x }

/-- A hardware queue. -/
def State.queue (s : State) (q : Nat) : Queue := Map.getD s.queues q Queue.reset

/-- The state with a queue changed. -/
def State.setQueue (s : State) (q : Nat) (x : Queue) : State := { s with queues := Map.put s.queues q x Queue.reset }

/-- A context. -/
def State.ctx (s : State) (c : Nat) : Context := Map.getD s.ctxs c Context.reset

/-- The state with a context changed. -/
def State.setCtx (s : State) (c : Nat) (x : Context) : State := { s with ctxs := Map.put s.ctxs c x Context.reset }

/-- A port. -/
def State.port (s : State) (p : Nat) : Port := Map.getD s.ports p Port.reset

/-- The state with a port changed. -/
def State.setPort (s : State) (p : Nat) (x : Port) : State := { s with ports := Map.put s.ports p x Port.reset }

/-- A frame-table entry. -/
def State.frame (s : State) (f : Nat) : FrameInfo := Map.getD s.frames f FrameInfo.reset

/-- The state with a frame-table entry changed. -/
def State.setFrame (s : State) (f : Nat) (x : FrameInfo) : State :=
  { s with frames := Map.put s.frames f x FrameInfo.reset }

/-- The state with a segment changed. -/
def State.setSeg (s : State) (k : Nat) (x : Segment) : State := { s with segs := Map.set s.segs k x }

/-- The core of a warp slot. -/
def slotCore (slot : Nat) : Nat := slot / 256

/-- The partition of a warp slot. -/
def slotPart (slot : Nat) : Nat := slot % 256 / 8

/-- The core of a block slot. -/
def blockCore (bk : Nat) : Nat := bk / 32

/-- The cluster of a core (R461). -/
def clusterOf (core : Nat) : Nat := core % 16 / 2 + 8 * (core / 16 / 2)

/-- The position of a core in its cluster's square (R351, R461). -/
def clusterPos (core : Nat) : Nat := core % 2 + 2 * (core / 16 % 2)

/-- The cores of a cluster, row by row. -/
def clusterCores (k : Nat) : List Nat :=
  let b := 2 * (k % 8) + 32 * (k / 8)
  [b, b + 1, b + 16, b + 17]

/-- The mesh distance of two cores (R461). -/
def meshDistance (a b : Nat) : Nat :=
  let d (x y : Nat) := if x < y then y - x else x - y
  d (a % 16) (b % 16) + d (a / 16) (b / 16)

/-- The number of a block's queue at its cluster's matrix unit (R351). -/
def matrixQueue (bk : Nat) : Nat := 32 * clusterPos (blockCore bk) + bk % 32

/-- `n` bytes at offset `o` of a table, little-endian. -/
def field (bs : List Byte) (o n : Nat) : Nat := leNat ((bs.drop o).take n)

/-- LPB fields (R328). -/
def Launch.entry (l : Launch) : Nat := field l.lpb 0x00 8
def Launch.tvec (l : Launch) : Nat := field l.lpb 0x08 8
def Launch.gx (l : Launch) : Nat := field l.lpb 0x10 4
def Launch.gy (l : Launch) : Nat := field l.lpb 0x14 4
def Launch.gz (l : Launch) : Nat := field l.lpb 0x18 4
def Launch.dimx (l : Launch) : Nat := field l.lpb 0x1C 2
def Launch.dimy (l : Launch) : Nat := field l.lpb 0x1E 2
def Launch.dimz (l : Launch) : Nat := field l.lpb 0x20 2
def Launch.regs (l : Launch) : Nat := field l.lpb 0x22 2
def Launch.roles (l : Launch) : Nat := field l.lpb 0x24 8
def Launch.lflags (l : Launch) : Nat := field l.lpb 0x2C 4
def Launch.areaBytes (l : Launch) : Nat := field l.lpb 0x30 4
def Launch.galleyBytes (l : Launch) : Nat := field l.lpb 0x34 4
def Launch.nin (l : Launch) : Nat := field l.lpb 0x38 1
def Launch.smask (l : Launch) : Nat := field l.lpb 0x39 1
def Launch.vbud (l : Launch) : Nat := field l.lpb 0x3A 1
def Launch.retry (l : Launch) : Nat := field l.lpb 0x3B 1 % 16
def Launch.nbw (l : Launch) : Nat := field l.lpb 0x3C 1
def Launch.nbh (l : Launch) : Nat := field l.lpb 0x3D 1
def Launch.colln (l : Launch) : Nat := field l.lpb 0x3E 1
def Launch.pg (l : Launch) : Nat := field l.lpb 0x3F 1
def Launch.inputSpec (l : Launch) (j : Nat) : Nat × Nat := (field l.lpb (0x40 + 8 * j) 4, field l.lpb (0x44 + 8 * j) 4)
def Launch.standing (l : Launch) (w : Nat) : Nat := field l.lpb (0x80 + 8 * w) 8
def Launch.intab (l : Launch) : Nat := field l.lpb 0xA0 8
def Launch.calltab (l : Launch) : Nat := field l.lpb 0xA8 8
def Launch.ncall (l : Launch) : Nat := field l.lpb 0xB0 4
def Launch.deadline (l : Launch) : Nat := field l.lpb 0xB4 4
def Launch.pgtab (l : Launch) : Nat := field l.lpb 0xB8 8
def Launch.npg (l : Launch) : Nat := field l.lpb 0xC0 2
def Launch.doneAddr (l : Launch) : Nat := field l.lpb 0xC8 8
def Launch.logAddr (l : Launch) : Nat := field l.lpb 0xD0 8
def Launch.logSize (l : Launch) : Nat := field l.lpb 0xD8 8
def Launch.ltype (l : Launch) : Nat := bitsOf l.lflags 17 16
def Launch.multi (l : Launch) : Bool := bitOf l.lflags 8
def Launch.nbhd (l : Launch) : Bool := bitOf l.lflags 7
def Launch.replay (l : Launch) : Bool := bitOf l.lflags 6
def Launch.recording (l : Launch) : Bool := bitOf l.lflags 5
def Launch.proof (l : Launch) : Bool := bitOf l.lflags 4
def Launch.flush16 (l : Launch) : Bool := bitOf l.lflags 3
def Launch.idem (l : Launch) : Bool := bitOf l.lflags 2
def Launch.vers (l : Launch) : Bool := bitOf l.lflags 1
def Launch.regrp (l : Launch) : Bool := bitOf l.lflags 0

/-- Threads of a block. -/
def Launch.threads (l : Launch) : Nat := l.dimx * l.dimy * l.dimz

/-- Warps of a block (R12). -/
def Launch.warps (l : Launch) : Nat := (l.threads + 31) / 32

/-- Blocks of a launch (R330). -/
def Launch.blocks (l : Launch) : Nat := l.gx * l.gy * l.gz

/-- The index of block n (R330). -/
def Launch.bid (l : Launch) (n : Nat) : Nat × Nat × Nat :=
  (n % l.gx, n / l.gx % l.gy, n / (l.gx * l.gy))

/-- The granules that bytes take (R296). -/
def granules (bytes : Nat) : Nat := (bytes + 4095) / 4096

/-- The rank of this device in the launch's process group, 0 when there is none (R28, R349). -/
def State.rank (s : State) (l : Launch) : Nat :=
  if l.multi then
    match (l.groups[l.pg]?).bind Group.members with
    | some m => m.idxOf s.mss.domid
    | none => 0
  else 0

/-- The warp that executes. -/
def State.me (s : State) : Warp := s.warp s.cur.slot

/-- The state with the executing warp changed. -/
def State.setMe (s : State) (w : Warp) : State := s.setWarp s.cur.slot w

/-- The block of the executing warp. -/
def State.myBlock (s : State) : Block := s.block s.me.blk

/-- The launch of the executing warp. -/
def State.myLaunch (s : State) : Launch := s.launch s.myBlock.launch

/-- The core of the executing warp. -/
def State.myCore (s : State) : Nat := slotCore s.cur.slot

/-- The context of the executing warp. -/
def State.myCtx (s : State) : Nat := s.myLaunch.ctx

/-- The LIVE threads of a warp (R14). -/
def Warp.live (w : Warp) : LaneMask := LaneMask.of fun l => w.lanes[l].st == .live

/-- The LIVE threads that belong to a run: not parked, not waiting at a barrier (R98). -/
def Warp.runnable (w : Warp) : LaneMask :=
  LaneMask.of fun l => w.lanes[l].st == .live && !w.lanes[l].parked && !w.lanes[l].atBar

/-- Do all live threads of the warp share one PC, and is there one? (R14) -/
def Warp.converged (w : Warp) : Bool :=
  match LaneMask.lanes w.live with
  | [] => false
  | l :: ls => ls.all fun k => w.lanes[k].pc == w.lanes[l].pc

/-- Has the warp ended? (R14) -/
def Warp.ended (w : Warp) : Bool :=
  (List.finRange 32).all fun l => w.lanes[l].st == .none || w.lanes[l].st == .exited

/-- The 57-bit address of a PC (R13). -/
def pcAddr (pc : BitVec 55) : VAddr := pc.zeroExtend 57 <<< 2

/-- The PC of an address: bits [56:2]. -/
def addrPc (a : VAddr) : BitVec 55 := (a >>> 2).truncate 55

/-- Bits of a predicate register: q7 is true (R30). -/
def Warp.pred (w : Warp) (q : Nat) : LaneMask := if h : q < 7 then w.pregs[q].bits else LaneMask.all

/-- Is a predicate register tagged U? (R30) -/
def Warp.predUniform (w : Warp) (q : Nat) : Bool := if h : q < 7 then w.pregs[q].uniform else true

/-- The lanes in which a guard holds (R44). -/
def Warp.guard (w : Warp) (g : Guard) : LaneMask := if g.neg then ~~~w.pred g.q else w.pred g.q

/-- The write set W of the executing instruction (R20). -/
def State.wset (s : State) (g : Guard) : LaneMask := s.cur.run &&& s.me.guard g

/-- A scalar register; 0 for a number that names none. -/
def Warp.sreg (w : Warp) (n : Nat) : Word := if h : n < 24 then w.sregs[n] else 0

/-- A record register; a zero record for a number that names none. -/
def Warp.breg (w : Warp) (n : Nat) : Record := if h : n < 16 then w.bregs[n] else 0

/-- A vector register. -/
def Warp.vreg (w : Warp) (n : Nat) : VReg := Map.getD w.vregs n ⟨.n, 0⟩

/-- The warp with a vector register changed. -/
def Warp.setVreg (w : Warp) (n : Nat) (r : VReg) : Warp := { w with vregs := Map.put w.vregs n r ⟨.n, 0⟩ }

/-- The warps of a block: slot and warp. -/
def State.blockWarps (s : State) (bk : Nat) : List (Nat × Warp) := s.warps.filter fun p => p.2.blk == bk

/-- The blocks resident on a core. -/
def State.coreBlocks (s : State) (c : Nat) : List (Nat × Block) := s.blocks.filter fun p => blockCore p.1 == c

/-- The resident blocks of a launch. -/
def State.launchBlocks (s : State) (l : Nat) : List (Nat × Block) := s.blocks.filter fun p => p.2.launch == l

/-- Signals an MSI-X vector of a function (R415). -/
def State.signal (s : State) (fn vector : Nat) : State := { s with msix := s.msix ++ [(fn, vector)] }

/-- A Boolean as a list of at most one element. -/
def listIf {α : Type} (b : Bool) (x : α) : List α := if b then [x] else []

end Sys2Proof.Machine
end

