-- ==== Sys2Proof/WellFormed.lean ====
section
/-! DEFINITION. Which instructions are well formed: the register, modifier and immediate limits of step 7 of R58 and of
R248. An instruction that is not well formed has no encoding. -/

namespace Sys2Proof

/-- A predicate other than never (R44). -/
def Guard.ok (g : Guard) : Bool := decide (g.q < 8) && !(g.q == 7 && g.neg)

/-- A vector register number (R45). -/
def vregOk (n : Nat) : Bool := decide (n < 512)

/-- The number of an aligned group of `k` vector registers (R45, R184). -/
def vgroupOk (k n : Nat) : Bool := decide (n < 512) && n % k == 0

/-- A scalar register as a destination (R45). -/
def sregOk (n : Nat) : Bool := decide (n < 24)

/-- A predicate register number (R45). -/
def pregOk (n : Nat) : Bool := decide (n < 8)

/-- A record register number (R45). -/
def bregOk (n : Nat) : Bool := decide (n < 16)

/-- The field value zero of an unused source (R49). -/
def Src.none : Src := .v 0 false false

/-- A value source (R45, R46). -/
def Src.ok : Src → Bool
  | .v n _ _ => vregOk n
  | .s n => sregOk n
  | .zs => true

/-- A vector source, as a value source must be where it names a group of `k` registers (R46, R139). -/
def Src.groupOk (k : Nat) : Src → Bool
  | .v n _ _ => vgroupOk k n
  | .s _ => false
  | .zs => false

/-- Does a value source name a vector register? -/
def Src.isVec : Src → Bool
  | .v _ _ _ => true
  | .s _ => false
  | .zs => false

/-- A source of the vector class (R45). -/
def VSrc.ok (a : VSrc) : Bool := vregOk a.n

/-- An even pair (R18, R45). -/
def VSrc.pairOk (a : VSrc) : Bool := vgroupOk 2 a.n

/-- A source of the scalar class (R45). -/
def SSrc.ok : SSrc → Bool
  | .s n => sregOk n
  | .zs => true

/-- The bits of a shift immediate (R109). -/
def shiftImmOk (imm : Imm16) : Bool := decide (imm.toNat < 32)

/-- A bit field of BFE and BFI (R114). -/
def bitFieldOk (pos len : Nat) : Bool := decide (pos < 32) && decide (1 ≤ len) && decide (pos + len ≤ 32)

/-- A code offset (R56). -/
def offsetOk (off : Word) : Bool := off.toNat % 4 == 0

/-- The codes of BYTEX (R115). -/
def bytexOk (sel : Imm16) : Bool := [0, 4, 8, 12].all fun i => decide (sel.toNat / 2 ^ i % 16 < 11)

/-- The control registers of R32. -/
def csrOk (num : Nat) : Bool := [0x000, 0x001, 0x002, 0x003, 0x004, 0x005, 0x006, 0x010, 0x020].contains num

/-- `.hi` is legal with KEPC and KTVEC only (R241). -/
def csrHiOk (num : Nat) (hi : Bool) : Bool := csrOk num && (!hi || num == 0x003 || num == 0x004)

/-- Is a floating format 16 bits wide? -/
def Fmt.half : Fmt → Bool
  | .f32 => false
  | .f64 => false
  | .f16 => true
  | .bf16 => true

/-- Bits of a floating format (R72). -/
def Fmt.bits : Fmt → Nat
  | .f32 => 32
  | .f64 => 64
  | .f16 => 16
  | .bf16 => 16

/-- Bits of an integer format of CVTFI and CVTIF. -/
def IntFmt.bits : IntFmt → Nat
  | .s32 => 32
  | .u32 => 32
  | .s64 => 64
  | .u64 => 64

/-- Bits of an integer type of CVTII. -/
def IntType.bits : IntType → Nat
  | .s8 => 8
  | .u8 => 8
  | .s16 => 16
  | .u16 => 16
  | .s32 => 32
  | .u32 => 32
  | .s64 => 64
  | .u64 => 64

/-- A source of `bits` bits: a value, or an even pair for 64 (R139). -/
def Src.bitsOk (bits : Nat) (a : Src) : Bool := if bits == 64 then a.groupOk 2 else a.ok

/-- A destination of `bits` bits. -/
def vdstOk (bits n : Nat) : Bool := if bits == 64 then vgroupOk 2 n else vregOk n

/-- The combinations of CVTFF (R153). -/
def cvtffOk (rm : Rm) (src dst : Fmt) (h1 : Bool) (a b : Src) : Bool :=
  src != dst && (!h1 || (src.half && !dst.half)) &&
  (!(decide (src.bits < dst.bits)) || rm == .rn) &&
  a.bitsOk src.bits &&
  (if !src.half && dst.half then b.bitsOk src.bits else b == Src.none)

/-- The combinations of CVT8 (R157). -/
def cvt8Ok (d : Nat) (rm : Rm) (up e5 nosat : Bool) (idx : Nat) (sc : Bool) (a b : Src) : Bool :=
  vregOk d && decide (idx < 4) &&
  (if up then !nosat && a.ok && (if sc then b.ok else rm == .rn && b == Src.none)
   else !(nosat && e5) && idx == 0 && !sc && a.groupOk 4 && b == Src.none)

/-- The combinations of CVT4 (R158). -/
def cvt4Ok (d : Nat) (rm : Rm) (up : Bool) (idx : Nat) (sc : Bool) (a b : Src) : Bool :=
  vregOk d && decide (idx < 8) &&
  (if up then a.ok && (if sc then b.ok else rm == .rn && b == Src.none)
   else idx == 0 && !sc && a.groupOk 8 && b == Src.none)

/-- log₂ of a group width, 1 to 5 (R165). -/
def logwOk (w : Nat) : Bool := decide (1 ≤ w) && decide (w ≤ 5)

/-- Only a floating addition takes a rounding mode (R168). -/
def redRmOk (op : RedOp) (rm : Rm) : Bool := op == .fadd || rm == .rn

/-- The operands of SLIDE (R172). -/
def slideOk (half : Bool) (fill : Fill) (n : Nat) (b c : Src) : Bool :=
  decide (n ≤ if half then 64 else 32) &&
  (if fill == .fb then b.ok else b == Src.none) && (if fill == .fc then c.ok else c == Src.none)

/-- The operand list of a PRUNE operation: pair operands, then value operands (R249). -/
def PruneOp.shape : PruneOp → Nat × Nat
  | .add | .sub | .mul | .div | .min | .max | .len2 => (2, 0)
  | .smin | .smax => (2, 1)
  | .addc | .rsubc | .mulc | .minc | .maxc => (1, 1)
  | .clamp => (1, 2)
  | .neg | .abs | .sqrt | .sqr | .sin | .cos | .floor | .fract => (1, 0)
  | .len3 | .mix => (3, 0)

/-- The source in position `i` of a PRUNE (R264, R265). -/
def pruneSrcOk (op : PruneOp) (i : Nat) (a : Src) : Bool :=
  if i < op.shape.1 then a.groupOk 2 else if i < op.shape.1 + op.shape.2 then a.ok else a == Src.none

/-- The operations that have a winner code (R264). -/
def PruneOp.decides (op : PruneOp) : Bool := op == .min || op == .max || op == .smin || op == .smax

/-- The operands of BREC (R183). -/
def brecOk (bd : Nat) (op : BrecOp) (bb : Nat) (a s : Src) (off : Word) : Bool :=
  bregOk bd && bregOk bb &&
  match op with
  | .copy => a == Src.none && s == Src.none && off == 0
  | .base => a.groupOk 2 && s == Src.none && off == 0
  | .ext => a.ok && s == Src.none && off == 0
  | .str => a.ok && s == Src.none && off == 0
  | .fmt => a == Src.none && s == Src.none && off &&& 0xFFE0FE00 == 0
  | .guard => a.groupOk 2 && s == Src.none && off == 0
  | .sub => a.ok && s.ok && off == 0
  | .lds => a.ok && s == Src.none && bb == 0
  | .sts => a.ok && s == Src.none && bd == 0

/-- Registers an access of this width spans (R184). -/
def Width.regs : Width → Nat
  | .b8 | .s8 | .b16 | .s16 | .b32 => 1
  | .b64 => 2
  | .b128 => 4

/-- A load destination (R184). -/
def loadDstOk (wid : Width) (d : Nat) : Bool := vgroupOk wid.regs d

/-- Store data (R184): no sign-extending width, a scalar up to 32 bits. -/
def storeSrcOk (wid : Width) (v : Src) : Bool :=
  wid != .s8 && wid != .s16 && (if wid.regs == 1 then v.ok else v.groupOk wid.regs)

/-- The data operand of an atomic operation (R193, R194). -/
def atomSrcOk (op : AtomOp) (w64 : Bool) : Src → Bool
  | .v n _ _ => vgroupOk (if w64 then (if op == .cas then 4 else 2) else 1) n && (op != .cas || decide (n < 511))
  | .s n => sregOk n && !w64 && op != .cas
  | .zs => !w64 && op != .cas

/-- `.sc` needs CHIP scope or wider (R193). -/
def lamOk (lam : Bool) (sc : Scope) : Bool := !lam || (sc != .blk && sc != .core)

/-- A SEG name operand (R206). -/
def SegName.ok : SegName → Bool
  | .imm _ => true
  | .reg a => a.pairOk

/-- The forms of COLL (R233). -/
def collOk (d : Nat) (r : Bool) (op : CollOp) (rop : RedOp) (b64 : Bool) (a : Src) (off : Word) (br : Nat) : Bool :=
  (op == .allred || op == .redsc || rop == .add) &&
  (if r then
    (op == .allred || op == .bcast || op == .bar) && br == 0 && (op == .bcast || off == 0) &&
    (if b64 then vgroupOk 4 d && a.groupOk 2 else vgroupOk 2 d && a.ok)
   else d == 0 && bregOk br && a.ok)

/-- Is an FP32 immediate finite? (R248) -/
def finite32 (k : Word) : Bool := k.toNat / 2 ^ 23 % 256 != 255

/-- Is a finite FP32 immediate above zero? -/
def positive32 (k : Word) : Bool := finite32 k && k.toNat < 2 ^ 31 && k.toNat != 0

/-- The order of finite FP32 values: a sign-magnitude pattern as an integer. -/
def order32 (k : Word) : Int := if k.toNat < 2 ^ 31 then (k.toNat : Int) else (2 : Int) ^ 31 - k.toNat

/-- Well-formed instructions: everything that step 7 of R58 and R248 check. -/
def WellFormed : Instr → Bool
  | .iadd g d a b => g.ok && vregOk d && a.ok && b.ok
  | .isub g d a b => g.ok && vregOk d && a.ok && b.ok
  | .imul g d a b => g.ok && vregOk d && a.ok && b.ok
  | .imulh g d a b => g.ok && vregOk d && a.ok && b.ok
  | .umulh g d a b => g.ok && vregOk d && a.ok && b.ok
  | .imin g d a b => g.ok && vregOk d && a.ok && b.ok
  | .imax g d a b => g.ok && vregOk d && a.ok && b.ok
  | .umin g d a b => g.ok && vregOk d && a.ok && b.ok
  | .umax g d a b => g.ok && vregOk d && a.ok && b.ok
  | .iabs g d a => g.ok && vregOk d && a.ok
  | .ineg g d a => g.ok && vregOk d && a.ok
  | .icmp g q _ a b => g.ok && pregOk q && a.ok && b.ok
  | .ucmp g q _ a b => g.ok && pregOk q && a.ok && b.ok
  | .iadd64 g d a b => g.ok && vgroupOk 2 d && a.pairOk && b.pairOk
  | .isub64 g d a b => g.ok && vgroupOk 2 d && a.pairOk && b.pairOk
  | .imul64 g d a b => g.ok && vgroupOk 2 d && a.pairOk && b.pairOk
  | .lea g d sh a b => g.ok && vregOk d && decide (sh < 32) && a.ok && b.ok
  | .idiv g d a b => g.ok && vregOk d && a.ok && b.ok
  | .udiv g d a b => g.ok && vregOk d && a.ok && b.ok
  | .irem g d a b => g.ok && vregOk d && a.ok && b.ok
  | .urem g d a b => g.ok && vregOk d && a.ok && b.ok
  | .iaddi g d a _ => g.ok && vregOk d && a.ok
  | .imuli g d a _ => g.ok && vregOk d && a.ok
  | .icmpi g q _ a _ => g.ok && pregOk q && a.ok
  | .ucmpi g q _ a _ => g.ok && pregOk q && a.ok
  | .movi g d _ => g.ok && vregOk d
  | .leai g d sh a _ => g.ok && vregOk d && decide (sh < 32) && a.ok
  | .andi g d a _ => g.ok && vregOk d && a.ok
  | .ori g d a _ => g.ok && vregOk d && a.ok
  | .xori g d a _ => g.ok && vregOk d && a.ok
  | .shli g d a imm => g.ok && vregOk d && a.ok && shiftImmOk imm
  | .shri g d a imm => g.ok && vregOk d && a.ok && shiftImmOk imm
  | .sari g d a imm => g.ok && vregOk d && a.ok && shiftImmOk imm
  | .bfe g d _ a pos len => g.ok && vregOk d && a.ok && bitFieldOk pos len
  | .saddi g d a _ => g.ok && sregOk d && a.ok
  | .smovi g d _ => g.ok && sregOk d
  | .csrr g d num hi => g.ok && vregOk d && csrHiOk num hi
  | .csrw g num hi a => g.ok && a.ok && csrHiOk num hi
  | .sysv g d num => g.ok && vregOk d && decide (num < 12)
  | .sleep g _ => g.ok
  | .bkpt g _ => g.ok
  | .trap g _ => g.ok
  | .detpt g a _ => g.ok && a.ok
  | .and g d a b => g.ok && vregOk d && a.ok && b.ok
  | .or g d a b => g.ok && vregOk d && a.ok && b.ok
  | .xor g d a b => g.ok && vregOk d && a.ok && b.ok
  | .andn g d a b => g.ok && vregOk d && a.ok && b.ok
  | .not g d a => g.ok && vregOk d && a.ok
  | .shl g d a b => g.ok && vregOk d && a.ok && b.ok
  | .shr g d a b => g.ok && vregOk d && a.ok && b.ok
  | .sar g d a b => g.ok && vregOk d && a.ok && b.ok
  | .rol g d a b => g.ok && vregOk d && a.ok && b.ok
  | .ror g d a b => g.ok && vregOk d && a.ok && b.ok
  | .popc g d a => g.ok && vregOk d && a.ok
  | .clz g d a => g.ok && vregOk d && a.ok
  | .ctz g d a => g.ok && vregOk d && a.ok
  | .brev g d a => g.ok && vregOk d && a.ok
  | .mov g d a => g.ok && vregOk d && a.ok
  | .sel g d a b q _ => g.ok && vregOk d && a.ok && b.ok && pregOk q
  | .plop g q op qa qb => g.ok && pregOk q && pregOk qa && pregOk qb && (!(op == .mov || op == .not) || qb == 7)
  | .p2v g d _ qa => g.ok && vregOk d && pregOk qa
  | .v2p g q a => g.ok && pregOk q && a.ok
  | .shape g d pend a => g.ok && vregOk d && a.ok && (!pend || (!a.lr && !a.te))
  | .expand g d a => g.ok && vregOk d && a.ok
  | .mkaff g d a b => g.ok && vregOk d && a.ok && b.ok
  | .shrr g d _ _ a b => g.ok && vregOk d && a.ok && b.ok
  | .smov g d a => g.ok && sregOk d && a.ok
  | .sadd g d a b => g.ok && sregOk d && a.ok && b.ok
  | .ssub g d a b => g.ok && sregOk d && a.ok && b.ok
  | .smul g d a b => g.ok && sregOk d && a.ok && b.ok
  | .sand g d a b => g.ok && sregOk d && a.ok && b.ok
  | .sor g d a b => g.ok && sregOk d && a.ok && b.ok
  | .sxor g d a b => g.ok && sregOk d && a.ok && b.ok
  | .sshl g d a b => g.ok && sregOk d && a.ok && b.ok
  | .sshr g d a b => g.ok && sregOk d && a.ok && b.ok
  | .ssar g d a b => g.ok && sregOk d && a.ok && b.ok
  | .smin g d _ a b => g.ok && sregOk d && a.ok && b.ok
  | .smax g d _ a b => g.ok && sregOk d && a.ok && b.ok
  | .scmp g q _ _ a b => g.ok && pregOk q && a.ok && b.ok
  | .v2s g d a => g.ok && sregOk d && a.ok
  | .brx g _ a => g.ok && a.ok
  | .calli g _ a => g.ok && a.ok
  | .ret g => g.ok
  | .exit g => g.ok
  | .nop g => g.ok
  | .rte g => g.ok
  | .getclk g d => g.ok && vgroupOk 2 d
  | .getret g d depth => g.ok && (if depth then vregOk d else vgroupOk 2 d)
  | .bra g off => g.ok && offsetOk off
  | .braU g off => g.ok && offsetOk off
  | .call g off => g.ok && offsetOk off
  | .yield g off => g.ok && offsetOk off
  | .phint g off => g.ok && offsetOk off
  | .movi32 g d _ => g.ok && vregOk d
  | .iaddi32 g d a _ => g.ok && vregOk d && a.ok
  | .imuli32 g d a _ => g.ok && vregOk d && a.ok
  | .andi32 g d a _ => g.ok && vregOk d && a.ok
  | .ori32 g d a _ => g.ok && vregOk d && a.ok
  | .xori32 g d a _ => g.ok && vregOk d && a.ok
  | .faddi32 g d _ a _ => g.ok && vregOk d && a.ok
  | .fmuli32 g d _ a _ => g.ok && vregOk d && a.ok
  | .smovi32 g d _ => g.ok && sregOk d
  | .nopw g => g.ok
  | .fadd g d _ a b => g.ok && vregOk d && a.ok && b.ok
  | .fsub g d _ a b => g.ok && vregOk d && a.ok && b.ok
  | .fmul g d _ a b => g.ok && vregOk d && a.ok && b.ok
  | .fdiv g d _ a b => g.ok && vregOk d && a.ok && b.ok
  | .fmin g d a b => g.ok && vregOk d && a.ok && b.ok
  | .fmax g d a b => g.ok && vregOk d && a.ok && b.ok
  | .fabs g d a => g.ok && vregOk d && a.ok
  | .fneg g d a => g.ok && vregOk d && a.ok
  | .fcmp g q _ a b => g.ok && pregOk q && a.ok && b.ok
  | .fclass g d fmt h1 a => g.ok && vregOk d && (!h1 || fmt.half) && a.bitsOk fmt.bits
  | .fsqrt g d _ a => g.ok && vregOk d && a.ok
  | .frcp g d a => g.ok && vregOk d && a.ok
  | .frsq g d a => g.ok && vregOk d && a.ok
  | .fex2 g d a => g.ok && vregOk d && a.ok
  | .flg2 g d a => g.ok && vregOk d && a.ok
  | .fsin g d a => g.ok && vregOk d && a.ok
  | .fcos g d a => g.ok && vregOk d && a.ok
  | .ftanh g d a => g.ok && vregOk d && a.ok
  | .frint g d _ _ a => g.ok && vregOk d && a.ok
  | .dadd g d _ a b => g.ok && vgroupOk 2 d && a.pairOk && b.pairOk
  | .dsub g d _ a b => g.ok && vgroupOk 2 d && a.pairOk && b.pairOk
  | .dmul g d _ a b => g.ok && vgroupOk 2 d && a.pairOk && b.pairOk
  | .ddiv g d _ a b => g.ok && vgroupOk 2 d && a.pairOk && b.pairOk
  | .dmin g d a b => g.ok && vgroupOk 2 d && a.pairOk && b.pairOk
  | .dmax g d a b => g.ok && vgroupOk 2 d && a.pairOk && b.pairOk
  | .dabs g d a => g.ok && vgroupOk 2 d && a.pairOk
  | .dneg g d a => g.ok && vgroupOk 2 d && a.pairOk
  | .dcmp g q _ a b => g.ok && pregOk q && a.pairOk && b.pairOk
  | .dsqrt g d _ a => g.ok && vgroupOk 2 d && a.pairOk
  | .drint g d _ _ a => g.ok && vgroupOk 2 d && a.pairOk
  | .hadd2 g d _ a b => g.ok && vregOk d && a.ok && b.ok
  | .hmul2 g d _ a b => g.ok && vregOk d && a.ok && b.ok
  | .hmin2 g d a b => g.ok && vregOk d && a.ok && b.ok
  | .hmax2 g d a b => g.ok && vregOk d && a.ok && b.ok
  | .hcmp2 g q _ _ a b => g.ok && pregOk q && a.ok && b.ok
  | .badd2 g d _ a b => g.ok && vregOk d && a.ok && b.ok
  | .bmul2 g d _ a b => g.ok && vregOk d && a.ok && b.ok
  | .bmin2 g d a b => g.ok && vregOk d && a.ok && b.ok
  | .bmax2 g d a b => g.ok && vregOk d && a.ok && b.ok
  | .bcmp2 g q _ _ a b => g.ok && pregOk q && a.ok && b.ok
  | .iadd2 g d _ _ a b => g.ok && vregOk d && a.ok && b.ok
  | .isub2 g d _ _ a b => g.ok && vregOk d && a.ok && b.ok
  | .imul2 g d _ _ a b => g.ok && vregOk d && a.ok && b.ok
  | .imin2 g d _ a b => g.ok && vregOk d && a.ok && b.ok
  | .imax2 g d _ a b => g.ok && vregOk d && a.ok && b.ok
  | .iabs2 g d _ a => g.ok && vregOk d && a.ok
  | .ipack2 g d _ a b => g.ok && vregOk d && a.ok && b.ok
  | .shrr2 g d _ _ a b => g.ok && vregOk d && a.ok && b.ok
  | .cvtff g d rm src dst h1 a b => g.ok && vdstOk dst.bits d && cvtffOk rm src dst h1 a b
  | .cvtfi g d _ src dst h1 a => g.ok && vdstOk dst.bits d && (!h1 || src.half) && a.bitsOk src.bits
  | .cvtif g d _ dst src a b => g.ok && vdstOk dst.bits d && a.bitsOk src.bits && (if dst.half then b.bitsOk src.bits else b == Src.none)
  | .cvtii g d src dst idx _ a => g.ok && vdstOk dst.bits d && a.bitsOk src.bits && decide (idx < if src.bits == 8 then 4 else if src.bits == 16 then 2 else 1)
  | .cvt8 g d rm up e5 nosat idx sc a b => g.ok && cvt8Ok d rm up e5 nosat idx sc a b
  | .cvt4 g d rm up idx sc a b => g.ok && cvt4Ok d rm up idx sc a b
  | .shfl g d mode logw a b => g.ok && vregOk d && logwOk logw && a.ok && (if mode == .rev then b == Src.none else b.ok)
  | .bcast g d low a b => g.ok && vregOk d && a.ok && (if low then b == Src.none else b.ok)
  | .vote g d mode p qa => g.ok && pregOk qa && (if p then pregOk d && mode != .cnt && mode != .mask else vregOk d)
  | .redux g d rm op logw a => g.ok && vregOk d && logwOk logw && a.ok && redRmOk op rm
  | .scan g d rm op _ a => g.ok && vregOk d && a.ok && redRmOk op rm
  | .segred g d rm op a qb => g.ok && vregOk d && a.ok && pregOk qb && redRmOk op rm
  | .match g d a => g.ok && vregOk d && a.ok
  | .intersect g d a b => g.ok && vgroupOk 2 d && a.ok && b.ok
  | .imad g d a b c => g.ok && vregOk d && a.ok && b.ok && c.ok
  | .bfi g d a b pos len => g.ok && vregOk d && a.ok && b.ok && bitFieldOk pos len
  | .bitfn g d t1 t0 a b c => g.ok && vregOk d && a.ok && b.ok && c.ok && decide (t1 < 16) && decide (t0 < 16)
  | .bytex g d codes a b => g.ok && vregOk d && a.ok && b.ok && bytexOk codes
  | .ffma g d _ a b c => g.ok && vregOk d && a.ok && b.ok && c.ok
  | .dfma g d _ a b c => g.ok && vgroupOk 2 d && a.pairOk && b.pairOk && c.pairOk
  | .hfma2 g d _ a b c => g.ok && vregOk d && a.ok && b.ok && c.ok
  | .bfma2 g d _ a b c => g.ok && vregOk d && a.ok && b.ok && c.ok
  | .idp2 g d _ _ a b c => g.ok && vregOk d && a.ok && b.ok && c.ok
  | .slide g d _ half fill n a b c => g.ok && vregOk d && a.ok && slideOk half fill n b c
  | .prune g d w op a b c => g.ok && (if w then vregOk d && op.decides else vgroupOk 2 d) && pruneSrcOk op 0 a && pruneSrcOk op 1 b && pruneSrcOk op 2 c
  | .brec g bd op bb a s off => g.ok && brecOk bd op bb a s off
  | .ld g d wid _ _ _ br a _ => g.ok && loadDstOk wid d && bregOk br && a.ok
  | .st g wid _ _ _ br a _ v => g.ok && bregOk br && a.ok && storeSrcOk wid v
  | .lds g d wid a _ => g.ok && loadDstOk wid d && a.ok
  | .sts g wid a _ v => g.ok && a.ok && storeSrcOk wid v
  | .gather g d wid _ br a _ => g.ok && loadDstOk wid d && bregOk br && a.ok && wid != .b128
  | .scatter g wid _ br a _ v => g.ok && bregOk br && a.ok && storeSrcOk wid v && wid != .b128
  | .pref g _ br a _ => g.ok && bregOk br && a.ok
  | .discard g br a _ => g.ok && bregOk br && a.ok
  | .brks g d br a _ p => g.ok && vregOk d && bregOk br && a.ok && decide (p.n ≤ 509)
  | .brkg g d br a _ p => g.ok && vgroupOk 4 d && bregOk br && a.ok && decide (p.n ≤ 509)
  | .atom g d op w64 lam _ _ sc br a _ v => g.ok && vdstOk (if w64 then 64 else 32) d && bregOk br && a.ok && atomSrcOk op w64 v && !(op == .fadd && w64) && lamOk lam sc
  | .atoms g d op w64 _ _ _ a _ v => g.ok && vdstOk (if w64 then 64 else 32) d && a.ok && atomSrcOk op w64 v && !(op == .fadd && w64)
  | .red g op w64 lam _ _ sc br a _ v => g.ok && bregOk br && a.ok && atomSrcOk op w64 v && !(op == .fadd && w64) && lamOk lam sc && op != .exch && op != .cas
  | .acq g d mode _ br v => g.ok && vregOk d && bregOk br && (if mode == .plain then v == Src.none else v.ok)
  | .rel g _ _ br v => g.ok && bregOk br && v.ok
  | .fence g _ _ => g.ok
  | .bar g => g.ok
  | .arrive g d nr _ _ a _ n => g.ok && (if nr then d == 0 else vregOk d) && a.ok && decide (1 ≤ n) && decide (n < 2 ^ 14)
  | .waitph g d poll _ _ a _ p => g.ok && vregOk d && a.ok && (!poll || !p)
  | .segNew g d a _ => g.ok && vregOk d && a.ok
  | .segAttach g d win _ name => g.ok && vregOk d && decide (win < 4) && name.ok
  | .segDetach g d win => g.ok && vregOk d && decide (win < 4)
  | .segFree g d _ name => g.ok && vregOk d && name.ok
  | .segQuery g d name => g.ok && vgroupOk 2 d && name.ok
  | .mmaq g a _ => g.ok && a.ok
  | .wbload g _ _ _ a _ br => g.ok && a.ok && bregOk br
  | .cpq g _ _ _ a _ br => g.ok && a.ok && bregOk br
  | .march g _ _ _ _ a _ => g.ok && a.ok
  | .coll g d r op rop b64 _ _ _ a off br _ => g.ok && collOk d r op rop b64 a off br
  | .enq g d _ _ a _ _ => g.ok && vregOk d && a.ok
  | .calls g a b rec => g.ok && a.ok && b.ok && offsetOk rec
  | .emitp g a _ => g.ok && a.ok
  | .tblend g _ a b => g.ok && a.ok && b.pairOk
  | .momacc g d rec a b => g.ok && a.ok && (if rec then vregOk d && b.ok else d == 0 && b.groupOk 2)
  | .fbcConst c => finite32 c
  | .fbcPos i => decide (i < 3)
  | .fbcXform m => m.toList.all finite32
  | .fbcXpop => true
  | .fbcNop => true
  | .fbcAdd => true
  | .fbcSub => true
  | .fbcMul => true
  | .fbcDiv => true
  | .fbcMin => true
  | .fbcMax => true
  | .fbcSmin k => positive32 k
  | .fbcSmax k => positive32 k
  | .fbcAddc k => finite32 k
  | .fbcRsubc k => finite32 k
  | .fbcMulc k => finite32 k
  | .fbcMinc k => finite32 k
  | .fbcMaxc k => finite32 k
  | .fbcClamp l h => finite32 l && finite32 h && decide (order32 l ≤ order32 h)
  | .fbcNeg => true
  | .fbcAbs => true
  | .fbcSqrt => true
  | .fbcSqr => true
  | .fbcSin => true
  | .fbcCos => true
  | .fbcFloor => true
  | .fbcFract => true
  | .fbcLen2 => true
  | .fbcLen3 => true
  | .fbcMix => true
  | .fbcDup => true
  | .fbcDrop => true
  | .fbcSwap => true
  | .fbcOver => true
  | .fbcRot => true
  | .fbcPick n => decide (n < 32)
  | .fbcBrick _ => true
  | .fbcCallout n _ => decide (n < 9)
  | .fbcEnd => true
  | .longLatencyWriteback _ _ _ => true
  | .collectorWindowClose _ => true
  | .operandLogReplay _ => true
  | .faultRingWrite _ => true
  | .frespRetry _ _ => true
  | .frespFail _ _ => true
  | .yieldRelease _ => true
  | .sleepEnd _ => true
  | .preemptionRequest _ => true
  | .deadlineExpiry _ => true
  | .cooperativeSave _ => true
  | .saveComplete _ => true
  | .saveWatchdog _ => true
  | .handlerBudgetExpiry _ => true
  | .launchMessage _ _ => true
  | .killMessage _ _ _ => true
  | .restoreMessage _ _ => true
  | .contextSwitchMessage _ _ => true
  | .blockCompletion _ => true
  | .faultReport _ => true
  | .admissionRefusal _ _ => true
  | .blockAdmission _ _ _ _ => true
  | .blockStart _ => true
  | .blockRestore _ _ _ => true
  | .admissionWaitLimit _ _ => true
  | .priorityPreemption _ _ _ => true
  | .skip _ => true
  | .launch _ => true
  | .signal _ => true
  | .wait _ => true
  | .setq _ => true
  | .dqnew _ => true
  | .dqfree _ => true
  | .packetStart _ _ => true
  | .waitConditionMet _ _ => true
  | .packetCompletion _ _ => true
  | .queueEnable _ => true
  | .queueDisable _ => true
  | .resume _ => true
  | .deviceQueueEntryTake _ _ => true
  | .childLaunchStart _ => true
  | .matrixCommandStart _ => true
  | .matrixTile _ => true
  | .outputBlockWriteback _ => true
  | .mmaqCompletion _ => true
  | .wbloadCompletion _ => true
  | .copyCommandStart _ => true
  | .cpqCompletion _ => true
  | .marchCommandStart _ => true
  | .marchRayDone _ _ => true
  | .marchCompletion _ => true
  | .collCompletion _ => true
  | .collectiveContribution _ _ _ _ _ _ => true
  | .collatorWindowTimeout _ _ => true
  | .collatorWarpForm _ => true
  | .phaseWaitSatisfied _ _ _ => true
  | .guardWaitSatisfied _ _ _ => true
  | .segmentWritebackEnd _ => true
  | .segmentReloadEnd _ => true
  | .scrubPass _ => true
  | .coreRejoinPlacement _ => true
  | .coreHot _ _ => true
  | .coreCool _ _ => true
  | .powerLimitExceeded => true
  | .powerLimitCleared => true
  | .tcritReached _ _ => true
  | .hostRead _ _ _ => true
  | .hostWrite _ _ _ => true
  | .hostAtomicop _ _ _ _ _ _ => true
  | .atsInvalidationRequest _ _ _ => true
  | .pageRequestResponse _ _ => true
  | .term _ => true
  | .invalidation _ _ _ => true
  | .invalidationComplete _ => true
  | .miggo _ => true
  | .migrationComplete _ => true
  | .go _ => true
  | .preqActive => true
  | .preqQuiesce => true
  | .preqStandby => true
  | .standbyPowerDown => true
  | .stage => true
  | .activate => true
  | .abort => true
  | .activateTakeover _ => true
  | .firmwareCommandEnd => true
  | .attgo => true
  | .attestationReportWritten => true
  | .commandLinkLoss _ => true
  | .mssWatchdog => true
  | .reset _ => true
  | .bringupRom => true
  | .bringupTest => true
  | .bringupConfig => true
  | .bringupFabric => true
  | .signalDetected _ => true
  | .trainingSuccess _ => true
  | .trainTimeout _ => true
  | .retrainTrigger _ => true
  | .retrainTimeout _ => true
  | .portDisable _ => true
  | .portEnable _ => true
  | .flitReceive _ _ => true
  | .ackTimeout _ => true
  | .remoteAccess _ _ _ _ => true
  | .remoteResponse _ _ _ => true
  | .primitiveForward _ _ => true
  | .blockEndMark _ _ _ => true
  | .rasterisePrimitive _ => true
  | .linkDownLimit _ => true
  | .registerWrite _ _ _ _ _ => true
  | .powerLoss => true
  | .gscUncorrectableError => true
  | .pcieReadCompletion _ _ _ => true
  | .migrationEligibility _ => true

/-- Is this a SIMT instruction, one with an encoding of R50 to R55? -/
def Instr.isSimt : Instr → Bool
  | .iadd .. => true
  | .isub .. => true
  | .imul .. => true
  | .imulh .. => true
  | .umulh .. => true
  | .imin .. => true
  | .imax .. => true
  | .umin .. => true
  | .umax .. => true
  | .iabs .. => true
  | .ineg .. => true
  | .icmp .. => true
  | .ucmp .. => true
  | .iadd64 .. => true
  | .isub64 .. => true
  | .imul64 .. => true
  | .lea .. => true
  | .idiv .. => true
  | .udiv .. => true
  | .irem .. => true
  | .urem .. => true
  | .iaddi .. => true
  | .imuli .. => true
  | .icmpi .. => true
  | .ucmpi .. => true
  | .movi .. => true
  | .leai .. => true
  | .andi .. => true
  | .ori .. => true
  | .xori .. => true
  | .shli .. => true
  | .shri .. => true
  | .sari .. => true
  | .bfe .. => true
  | .saddi .. => true
  | .smovi .. => true
  | .csrr .. => true
  | .csrw .. => true
  | .sysv .. => true
  | .sleep .. => true
  | .bkpt .. => true
  | .trap .. => true
  | .detpt .. => true
  | .and .. => true
  | .or .. => true
  | .xor .. => true
  | .andn .. => true
  | .not .. => true
  | .shl .. => true
  | .shr .. => true
  | .sar .. => true
  | .rol .. => true
  | .ror .. => true
  | .popc .. => true
  | .clz .. => true
  | .ctz .. => true
  | .brev .. => true
  | .mov .. => true
  | .sel .. => true
  | .plop .. => true
  | .p2v .. => true
  | .v2p .. => true
  | .shape .. => true
  | .expand .. => true
  | .mkaff .. => true
  | .shrr .. => true
  | .smov .. => true
  | .sadd .. => true
  | .ssub .. => true
  | .smul .. => true
  | .sand .. => true
  | .sor .. => true
  | .sxor .. => true
  | .sshl .. => true
  | .sshr .. => true
  | .ssar .. => true
  | .smin .. => true
  | .smax .. => true
  | .scmp .. => true
  | .v2s .. => true
  | .brx .. => true
  | .calli .. => true
  | .ret .. => true
  | .exit .. => true
  | .nop .. => true
  | .rte .. => true
  | .getclk .. => true
  | .getret .. => true
  | .bra .. => true
  | .braU .. => true
  | .call .. => true
  | .yield .. => true
  | .phint .. => true
  | .movi32 .. => true
  | .iaddi32 .. => true
  | .imuli32 .. => true
  | .andi32 .. => true
  | .ori32 .. => true
  | .xori32 .. => true
  | .faddi32 .. => true
  | .fmuli32 .. => true
  | .smovi32 .. => true
  | .nopw .. => true
  | .fadd .. => true
  | .fsub .. => true
  | .fmul .. => true
  | .fdiv .. => true
  | .fmin .. => true
  | .fmax .. => true
  | .fabs .. => true
  | .fneg .. => true
  | .fcmp .. => true
  | .fclass .. => true
  | .fsqrt .. => true
  | .frcp .. => true
  | .frsq .. => true
  | .fex2 .. => true
  | .flg2 .. => true
  | .fsin .. => true
  | .fcos .. => true
  | .ftanh .. => true
  | .frint .. => true
  | .dadd .. => true
  | .dsub .. => true
  | .dmul .. => true
  | .ddiv .. => true
  | .dmin .. => true
  | .dmax .. => true
  | .dabs .. => true
  | .dneg .. => true
  | .dcmp .. => true
  | .dsqrt .. => true
  | .drint .. => true
  | .hadd2 .. => true
  | .hmul2 .. => true
  | .hmin2 .. => true
  | .hmax2 .. => true
  | .hcmp2 .. => true
  | .badd2 .. => true
  | .bmul2 .. => true
  | .bmin2 .. => true
  | .bmax2 .. => true
  | .bcmp2 .. => true
  | .iadd2 .. => true
  | .isub2 .. => true
  | .imul2 .. => true
  | .imin2 .. => true
  | .imax2 .. => true
  | .iabs2 .. => true
  | .ipack2 .. => true
  | .shrr2 .. => true
  | .cvtff .. => true
  | .cvtfi .. => true
  | .cvtif .. => true
  | .cvtii .. => true
  | .cvt8 .. => true
  | .cvt4 .. => true
  | .shfl .. => true
  | .bcast .. => true
  | .vote .. => true
  | .redux .. => true
  | .scan .. => true
  | .segred .. => true
  | .match .. => true
  | .intersect .. => true
  | .imad .. => true
  | .bfi .. => true
  | .bitfn .. => true
  | .bytex .. => true
  | .ffma .. => true
  | .dfma .. => true
  | .hfma2 .. => true
  | .bfma2 .. => true
  | .idp2 .. => true
  | .slide .. => true
  | .prune .. => true
  | .brec .. => true
  | .ld .. => true
  | .st .. => true
  | .lds .. => true
  | .sts .. => true
  | .gather .. => true
  | .scatter .. => true
  | .pref .. => true
  | .discard .. => true
  | .brks .. => true
  | .brkg .. => true
  | .atom .. => true
  | .atoms .. => true
  | .red .. => true
  | .acq .. => true
  | .rel .. => true
  | .fence .. => true
  | .bar .. => true
  | .arrive .. => true
  | .waitph .. => true
  | .segNew .. => true
  | .segAttach .. => true
  | .segDetach .. => true
  | .segFree .. => true
  | .segQuery .. => true
  | .mmaq .. => true
  | .wbload .. => true
  | .cpq .. => true
  | .march .. => true
  | .coll .. => true
  | .enq .. => true
  | .calls .. => true
  | .emitp .. => true
  | .tblend .. => true
  | .momacc .. => true
  | .fbcConst .. => false
  | .fbcPos .. => false
  | .fbcXform .. => false
  | .fbcXpop => false
  | .fbcNop => false
  | .fbcAdd => false
  | .fbcSub => false
  | .fbcMul => false
  | .fbcDiv => false
  | .fbcMin => false
  | .fbcMax => false
  | .fbcSmin .. => false
  | .fbcSmax .. => false
  | .fbcAddc .. => false
  | .fbcRsubc .. => false
  | .fbcMulc .. => false
  | .fbcMinc .. => false
  | .fbcMaxc .. => false
  | .fbcClamp .. => false
  | .fbcNeg => false
  | .fbcAbs => false
  | .fbcSqrt => false
  | .fbcSqr => false
  | .fbcSin => false
  | .fbcCos => false
  | .fbcFloor => false
  | .fbcFract => false
  | .fbcLen2 => false
  | .fbcLen3 => false
  | .fbcMix => false
  | .fbcDup => false
  | .fbcDrop => false
  | .fbcSwap => false
  | .fbcOver => false
  | .fbcRot => false
  | .fbcPick .. => false
  | .fbcBrick .. => false
  | .fbcCallout .. => false
  | .fbcEnd => false
  | .longLatencyWriteback .. => false
  | .collectorWindowClose .. => false
  | .operandLogReplay .. => false
  | .faultRingWrite .. => false
  | .frespRetry .. => false
  | .frespFail .. => false
  | .yieldRelease .. => false
  | .sleepEnd .. => false
  | .preemptionRequest .. => false
  | .deadlineExpiry .. => false
  | .cooperativeSave .. => false
  | .saveComplete .. => false
  | .saveWatchdog .. => false
  | .handlerBudgetExpiry .. => false
  | .launchMessage .. => false
  | .killMessage .. => false
  | .restoreMessage .. => false
  | .contextSwitchMessage .. => false
  | .blockCompletion .. => false
  | .faultReport .. => false
  | .admissionRefusal .. => false
  | .blockAdmission .. => false
  | .blockStart .. => false
  | .blockRestore .. => false
  | .admissionWaitLimit .. => false
  | .priorityPreemption .. => false
  | .skip .. => false
  | .launch .. => false
  | .signal .. => false
  | .wait .. => false
  | .setq .. => false
  | .dqnew .. => false
  | .dqfree .. => false
  | .packetStart .. => false
  | .waitConditionMet .. => false
  | .packetCompletion .. => false
  | .queueEnable .. => false
  | .queueDisable .. => false
  | .resume .. => false
  | .deviceQueueEntryTake .. => false
  | .childLaunchStart .. => false
  | .matrixCommandStart .. => false
  | .matrixTile .. => false
  | .outputBlockWriteback .. => false
  | .mmaqCompletion .. => false
  | .wbloadCompletion .. => false
  | .copyCommandStart .. => false
  | .cpqCompletion .. => false
  | .marchCommandStart .. => false
  | .marchRayDone .. => false
  | .marchCompletion .. => false
  | .collCompletion .. => false
  | .collectiveContribution .. => false
  | .collatorWindowTimeout .. => false
  | .collatorWarpForm .. => false
  | .phaseWaitSatisfied .. => false
  | .guardWaitSatisfied .. => false
  | .segmentWritebackEnd .. => false
  | .segmentReloadEnd .. => false
  | .scrubPass .. => false
  | .coreRejoinPlacement .. => false
  | .coreHot .. => false
  | .coreCool .. => false
  | .powerLimitExceeded => false
  | .powerLimitCleared => false
  | .tcritReached .. => false
  | .hostRead .. => false
  | .hostWrite .. => false
  | .hostAtomicop .. => false
  | .atsInvalidationRequest .. => false
  | .pageRequestResponse .. => false
  | .term .. => false
  | .invalidation .. => false
  | .invalidationComplete .. => false
  | .miggo .. => false
  | .migrationComplete .. => false
  | .go .. => false
  | .preqActive => false
  | .preqQuiesce => false
  | .preqStandby => false
  | .standbyPowerDown => false
  | .stage => false
  | .activate => false
  | .abort => false
  | .activateTakeover .. => false
  | .firmwareCommandEnd => false
  | .attgo => false
  | .attestationReportWritten => false
  | .commandLinkLoss .. => false
  | .mssWatchdog => false
  | .reset .. => false
  | .bringupRom => false
  | .bringupTest => false
  | .bringupConfig => false
  | .bringupFabric => false
  | .signalDetected .. => false
  | .trainingSuccess .. => false
  | .trainTimeout .. => false
  | .retrainTrigger .. => false
  | .retrainTimeout .. => false
  | .portDisable .. => false
  | .portEnable .. => false
  | .flitReceive .. => false
  | .ackTimeout .. => false
  | .remoteAccess .. => false
  | .remoteResponse .. => false
  | .primitiveForward .. => false
  | .blockEndMark .. => false
  | .rasterisePrimitive .. => false
  | .linkDownLimit .. => false
  | .registerWrite .. => false
  | .powerLoss => false
  | .gscUncorrectableError => false
  | .pcieReadCompletion .. => false
  | .migrationEligibility .. => false

/-- Is this an operation of the field bytecode (R249)? -/
def Instr.isField : Instr → Bool
  | .fbcConst .. => true
  | .fbcPos .. => true
  | .fbcXform .. => true
  | .fbcXpop => true
  | .fbcNop => true
  | .fbcAdd => true
  | .fbcSub => true
  | .fbcMul => true
  | .fbcDiv => true
  | .fbcMin => true
  | .fbcMax => true
  | .fbcSmin .. => true
  | .fbcSmax .. => true
  | .fbcAddc .. => true
  | .fbcRsubc .. => true
  | .fbcMulc .. => true
  | .fbcMinc .. => true
  | .fbcMaxc .. => true
  | .fbcClamp .. => true
  | .fbcNeg => true
  | .fbcAbs => true
  | .fbcSqrt => true
  | .fbcSqr => true
  | .fbcSin => true
  | .fbcCos => true
  | .fbcFloor => true
  | .fbcFract => true
  | .fbcLen2 => true
  | .fbcLen3 => true
  | .fbcMix => true
  | .fbcDup => true
  | .fbcDrop => true
  | .fbcSwap => true
  | .fbcOver => true
  | .fbcRot => true
  | .fbcPick .. => true
  | .fbcBrick .. => true
  | .fbcCallout .. => true
  | .fbcEnd => true
  | _ => false

end Sys2Proof
end

