-- ==== Sys2Proof/Machine/Operands.lean ====
section
/-! DEFINITION. The operand forms: what a source reads, the shapes of results (R17 to R21, R91, R92), and the register
uses of an instruction (R24, R27, R45). -/

namespace Sys2Proof

/-- One vector register that an instruction reads, with the flags of its source (R24, R27). -/
structure Use where
  n : Nat
  lr : Bool
  te : Bool
  deriving DecidableEq, Repr

/-- The registers of a vector source: a group of `k` (R18, R45). -/
def VSrc.uses (a : VSrc) (k : Nat) : List Use := (List.range k).map fun i => ⟨a.n + i, a.lr, a.te⟩

/-- The vector registers of a value source that names a group of `k`. -/
def Src.uses (a : Src) (k : Nat) : List Use :=
  match a with
  | .v n lr te => (List.range k).map fun i => ⟨n + i, lr, te⟩
  | .s _ => []
  | .zs => []

/-- Does a source read a scalar register? zs is none (R29). -/
def Src.scalar (a : Src) : Bool :=
  match a with
  | .v _ _ _ => false
  | .s _ => true
  | .zs => false

/-- Does a scalar-class source read a scalar register? -/
def SSrc.scalar (a : SSrc) : Bool :=
  match a with
  | .s _ => true
  | .zs => false

end Sys2Proof

namespace Sys2Proof.Machine

/-- The value of a lane (R17). -/
def Storage.lane (st : Storage) (l : Fin 32) : Word :=
  match st with
  | .n => 0
  | .u x => x
  | .a b t => b + BitVec.ofNat 32 l.val * t
  | .g v => v[l]

/-- All lane values. -/
def Storage.lanes (st : Storage) : Lanes := Lanes.of st.lane

/-- The tag code (R17). -/
def Storage.tag (st : Storage) : Nat :=
  match st with
  | .n => 0
  | .u _ => 1
  | .a _ _ => 2
  | .g _ => 3

/-- Does the shape count as U in the propagation table? (R91) -/
def Storage.isU (st : Storage) : Bool :=
  match st with
  | .n => true
  | .u _ => true
  | .a _ _ => false
  | .g _ => false

/-- Is the register allocated? -/
def Storage.allocated (st : Storage) : Bool := st.tag != 0

/-- Does the register hold a general slot? -/
def Storage.isG (st : Storage) : Bool := st.tag == 3

/-- Does the register hold a compact-file entry? -/
def Storage.isCompact (st : Storage) : Bool := st.tag == 1 || st.tag == 2

/-- Base and stride of a shape that is not G (R92). -/
def Storage.affine (st : Storage) : Option (Word × Word) :=
  match st with
  | .n => some (0, 0)
  | .u x => some (x, 0)
  | .a b t => some (b, t)
  | .g _ => none

/-- An affine result, stored as U when its stride is 0 (R92). -/
def Storage.ofAffine (b t : Word) : Storage := if t = 0 then .u b else .a b t

/-- Recovery (R21). -/
def recover (v : Lanes) : Storage :=
  let d := v[1] - v[0]
  if (List.finRange 31).all fun l => v[l.val + 1] - v[l.val] == d then Storage.ofAffine v[0] d else .g v

/-- The scalar storage that a source of the value class reads (R29, R45). -/
def Warp.src (w : Warp) (a : Src) : Storage :=
  match a with
  | .v n _ _ => (w.vreg n).st
  | .s n => .u (w.sreg n)
  | .zs => .u 0

/-- The upper register of the group that a source names, `k` above its first. -/
def Warp.srcAt (w : Warp) (a : Src) (k : Nat) : Storage :=
  match a with
  | .v n _ _ => (w.vreg (n + k)).st
  | .s n => .u (w.sreg n)
  | .zs => .u 0

/-- What a source of the scalar class reads: zs reads 0 (R29). -/
def Warp.ssrc (w : Warp) (a : SSrc) : Word :=
  match a with
  | .s n => w.sreg n
  | .zs => 0

/-- A 64-bit lane value of a pair (R18). -/
def pairLane (lo hi : Storage) (l : Fin 32) : Dword := hi.lane l ++ lo.lane l

/-- A result of the class "other computation" of one operand (R91). -/
def Storage.map1 (f : Word → Word) (a : Storage) : Storage :=
  if a.isU then .u (f (a.lane 0)) else .g (Lanes.of fun l => f (a.lane l))

/-- The same of two operands. -/
def Storage.map2 (f : Word → Word → Word) (a b : Storage) : Storage :=
  if a.isU && b.isU then .u (f (a.lane 0) (b.lane 0)) else .g (Lanes.of fun l => f (a.lane l) (b.lane l))

/-- The same of three operands. -/
def Storage.map3 (f : Word → Word → Word → Word) (a b c : Storage) : Storage :=
  if a.isU && b.isU && c.isU then .u (f (a.lane 0) (b.lane 0) (c.lane 0))
  else .g (Lanes.of fun l => f (a.lane l) (b.lane l) (c.lane l))

/-- A sum or difference by the add row (R91, R92). -/
def Storage.sum (f : Word → Word → Word) (a b : Storage) : Storage :=
  match a.affine, b.affine with
  | some x, some y => Storage.ofAffine (f x.1 y.1) (f x.2 y.2)
  | _, _ => .g (Lanes.of fun l => f (a.lane l) (b.lane l))

/-- A negation (R91, R92). -/
def Storage.negate (a : Storage) : Storage :=
  match a.affine with
  | some x => Storage.ofAffine (-x.1) (-x.2)
  | none => .g (Lanes.of fun l => -a.lane l)

/-- A low product (R91, R92). -/
def Storage.product (a b : Storage) : Storage :=
  match a.affine, b.affine with
  | some x, some y =>
    if b.isU then Storage.ofAffine (x.1 * y.1) (x.2 * y.1)
    else if a.isU then Storage.ofAffine (x.1 * y.1) (x.1 * y.2)
    else .g (Lanes.of fun l => a.lane l * b.lane l)
  | _, _ => .g (Lanes.of fun l => a.lane l * b.lane l)

/-- The left shift of R113: 0 from 32 on. -/
def shiftLeft (x n : Word) : Word := if n.toNat < 32 then x <<< n.toNat else 0

/-- The logical right shift of R113. -/
def shiftRight (x n : Word) : Word := if n.toNat < 32 then x >>> n.toNat else 0

/-- The arithmetic right shift of R113. -/
def shiftArith (x n : Word) : Word := x.sshiftRight (if n.toNat < 32 then n.toNat else 31)

/-- A left shift (R91, R92, R113). -/
def Storage.shift (a b : Storage) : Storage :=
  match a.affine, b.isU with
  | some x, true => Storage.ofAffine (shiftLeft x.1 (b.lane 0)) (shiftLeft x.2 (b.lane 0))
  | _, _ => .g (Lanes.of fun l => shiftLeft (a.lane l) (b.lane l))

/-- A predicate result of one source or two: U when every operand counts as U (R91). -/
structure PResult where
  bits : LaneMask
  uniform : Bool
  deriving DecidableEq, Repr

/-- A predicate result of two sources. -/
def predOf2 (f : Word → Word → Bool) (a b : Storage) : PResult :=
  ⟨LaneMask.of fun l => f (a.lane l) (b.lane l), a.isU && b.isU⟩

/-- What a predicate register becomes (R20, R30). -/
def PReg.write (old : PReg) (w live : LaneMask) (r : PResult) : PReg :=
  if w = 0 then old
  else if w = live then ⟨r.bits, r.uniform || (w == LaneMask.all && (r.bits == 0 || r.bits == LaneMask.all))⟩
  else ⟨(old.bits &&& ~~~w) ||| (r.bits &&& w), false⟩

/-- The storage that R20 leaves in a register: `whole` whether W is every live thread, `expand` EXPAND's exception
(R121), `compact` whether a compact-file entry is free. -/
def Storage.write (old new : Storage) (w : LaneMask) (whole expand compact : Bool) : Storage :=
  if w = 0 then old
  else if whole then
    let s := if w = LaneMask.all && !expand then
        match new with
        | .g v => recover v
        | _ => new
      else new
    if s.isCompact && !compact then .g s.lanes else s
  else .g (Lanes.of fun l => if w.getLsbD l.val then new.lane l else old.lane l)

end Sys2Proof.Machine
end

