-- ==== Sys2Proof/Machine/Flags.lean ====
section
/-! DEFINITION. The flags of KFLAGS: which a result signals, which trap, and how they are set (R33, R87 to R89). -/

namespace Sys2Proof.Machine

/-- The flags that each lane of a result signals. -/
abbrev LaneFlags := Vector Flags 32

/-- No flag in any lane. -/
def LaneFlags.zero : LaneFlags := Vector.replicate 32 0

/-- One computation's flags, which count for every active thread (R19). -/
def LaneFlags.uniform (f : Flags) : LaneFlags := Vector.replicate 32 f

/-- Two results' flags together, lane by lane. -/
def LaneFlags.or (a b : LaneFlags) : LaneFlags := Vector.ofFn fun l => a[l] ||| b[l]

/-- The OR of the flags of the lanes of W (R87). -/
def LaneFlags.of (f : LaneFlags) (w : LaneMask) : Flags :=
  (LaneMask.lanes w).foldl (fun acc l => acc ||| f[l]) 0

/-- The enabled conditions of KFLAGS[12:8], in the bit order of KFLAGS[4:0] (R33). -/
def Warp.enables (w : Warp) : Flags := (w.kflags >>> 8).truncate 7 &&& 0x1F

/-- The lanes of W that signal an enabled condition (R88). -/
def LaneFlags.trapping (f : LaneFlags) (en : Flags) (w : LaneMask) : LaneMask :=
  w &&& LaneMask.of fun l => f[l] &&& en != 0

/-- KFLAGS with flags set (R33). -/
def setFlags (k : Word) (f : Flags) : Word := k ||| f.zeroExtend 32

/-- A result lane by lane with its flags: value word and flags. -/
structure FOut where
  bits : Word
  flags : Flags
  deriving DecidableEq, Repr

/-- The word of a rounded result. -/
def Rounded.out (r : Rounded) : FOut := ⟨BitVec.ofNat 32 r.bits, r.flags⟩

/-- A result of the class "other computation" with flags: one computation for operands that all count as U (R19). -/
def fmap (uniform : Bool) (f : Fin 32 → FOut) : Storage × LaneFlags :=
  if uniform then
    let r := f 0
    (.u r.bits, LaneFlags.uniform r.flags)
  else
    let v := Vector.ofFn f
    (.g (v.map FOut.bits), v.map FOut.flags)

/-- A 64-bit result with flags. -/
structure DOut where
  bits : Dword
  flags : Flags
  deriving DecidableEq, Repr

/-- The pair of a rounded FP64 result. -/
def Rounded.out64 (r : Rounded) : DOut := ⟨BitVec.ofNat 64 r.bits, r.flags⟩

/-- The two halves of a 64-bit result of the class "other computation" (R18). -/
def dmap (uniform : Bool) (f : Fin 32 → DOut) : Storage × Storage × LaneFlags :=
  if uniform then
    let r := f 0
    (.u (r.bits.truncate 32), .u ((r.bits >>> 32).truncate 32), LaneFlags.uniform r.flags)
  else
    let v := Vector.ofFn f
    (.g (v.map fun r : DOut => r.bits.truncate 32), .g (v.map fun r : DOut => (r.bits >>> 32).truncate 32), v.map DOut.flags)

/-- A predicate result with flags. -/
def pmap (uniform : Bool) (f : Fin 32 → Bool × Flags) : PResult × LaneFlags :=
  if uniform then
    let r := f 0
    (⟨if r.1 then LaneMask.all else 0, true⟩, LaneFlags.uniform r.2)
  else
    let v := Vector.ofFn f
    (⟨LaneMask.of fun l => v[l].1, false⟩, v.map Prod.snd)

end Sys2Proof.Machine
end

