-- ==== Sys2Proof/Machine/Translate.lean ====
section
/-! DEFINITION. Address translation (R406 to R409, R414, R425), locations, and bytes at a location: device memory, host
memory, the memory of other devices, discarded pages (R420) and the version of a block (R290, R303, R305). -/

namespace Sys2Proof.Machine

/-- What an access needs of a page (R409). -/
inductive Need where
  | read
  | write
  | both
  | exec
  deriving DecidableEq, Repr

/-- What a walk decides (R409). -/
inductive Walk where
  | ok (x : Xlat)
  | fault (reason : Nat)
  | denied
  | moving
  deriving DecidableEq, Repr

/-- Locations from here on name host memory; below it, bits [51:38] name a device (R425). -/
def hostBase : Nat := 2 ^ 52

/-- Device memory ends here (R406). -/
def deviceEnd : Nat := 2 ^ 38

/-- Is a location outside this device? -/
def isExternal (loc : Nat) : Bool := decide (deviceEnd ≤ loc)

/-- Does an entry grant what is needed? (R409 step 3) -/
def entryAllows (need : Need) (e : Nat) : Bool :=
  match need with
  | .read => bitOf e 3
  | .write => bitOf e 4
  | .both => bitOf e 3 && bitOf e 4
  | .exec => bitOf e 5

/-- The HOME code of a leaf entry (R300). -/
def entryHome (e : Nat) : Nat := bitsOf e 7 6

/-- Is a leaf entry malformed? (R409 step 2, R425) -/
def leafBad (large : Bool) (e : Nat) : Bool :=
  bitsOf e 55 52 != 0 || bitsOf e 15 12 != 0 || bitOf e 1 ||
  (large && (bitsOf e 20 16 != 0 || entryHome e == 3)) ||
  (decide (entryHome e < 2) && bitsOf e 63 56 != 0) || decide (191 < bitsOf e 63 56) ||
  (bitOf e 11 && decide (2 ≤ entryHome e)) ||
  (!bitOf e 11 && bitsOf e 51 38 != 0 && decide (2 ≤ entryHome e))

/-- A write to a discarded page reinstates it, which needs both permissions (R409, R420). -/
def needOf (need : Need) (e : Nat) : Need := if need == .write && bitOf e 8 then .both else need

/-- The permissions that an ATS result has to hold for an access: bit 0 read, bit 1 write (R414). -/
def needBits (need : Need) : Nat :=
  match need with
  | .read => 1
  | .write => 2
  | .both => 3
  | .exec => 1

/-- Does an access of a discarded page leave it discarded? Such a read returns zeros and reaches no memory (R420). -/
def zeroRead (need : Need) (e : Nat) : Bool := bitOf e 8 && (need == .read || need == .exec)

/-- The outcome at a valid leaf entry (R409 steps 2 to 7); `bad` says whether an entry above is malformed, and `held`
whether an ATS result is at hand for a 64 KiB page of the host and the permissions needed. -/
def leafWalk (bad : Bool) (held : Nat → Nat → Bool) (need : Need) (va leaf e : Nat) (large : Bool) : Walk :=
  let size := if large then 2 ^ 21 else 2 ^ 16
  let base := bitsOf e 51 16 * 2 ^ 16
  if bad || leafBad large e then .denied
  else if !entryAllows (needOf need e) e || (need == .exec && !bitOf e 11 && bitsOf e 51 38 != 0) then .denied
  else if bitOf e 9 then .moving
  else if bitOf e 10 then .fault 1
  else if bitOf e 11 && !zeroRead need e && !held ((base + va % size) / 2 ^ 16) (needBits (needOf need e)) then .fault 0
  else
    let page := if bitOf e 11 then hostBase + base else base
    .ok ⟨page + va % size, leaf, e, page, size, va⟩

/-- Is an entry that names a table malformed? (R408, R409 step 2) -/
def tableBad (l e : Nat) : Bool := bitsOf e 63 52 != 0 || bitsOf e 7 1 != 0 || (l != 0 && bitsOf e 11 8 != 0)

/-- Where the entry of an address stands in a table: level 0 has 32 entries, the others 512 (R407). -/
def entryAddr (l table va : Nat) : Nat :=
  match l with
  | 0 => table + 8 * (va / 2 ^ 16 % 32)
  | k + 1 => table + 8 * (va / 2 ^ (21 + 9 * k) % 512)

/-- The walk from a table at a level (R407, R409), `rd` giving the entry at an address: an entry with V = 0 at any level
decides before one that is malformed. A table outside device memory cannot be read, and is malformed at once. -/
def walkFrom (rd : Nat → Nat) (held : Nat → Nat → Bool) (need : Need) (va : Nat) (bad : Bool) : Nat → Nat → Walk
  | 0, table =>
    let leaf := entryAddr 0 table va
    let e := rd leaf
    if !bitOf e 0 then .fault 0
    else if !bitOf e 2 then .denied
    else leafWalk bad held need va leaf e false
  | l + 1, table =>
    let leaf := entryAddr (l + 1) table va
    let e := rd leaf
    if !bitOf e 0 then .fault 0
    else if bitOf e 2 then (if l = 0 then leafWalk bad held need va leaf e true else .denied)
    else if deviceEnd ≤ bitsOf e 51 8 * 256 then .denied
    else walkFrom rd held need va (bad || tableBad l e) l (bitsOf e 51 8 * 256)

/-- A table entry as a walk of a context sees it: where the entry that the device has cached was changed since, the old one
or the new one (R410). An old entry of a discarded page serves no access that writes: DISC is cleared in memory (R420). -/
def State.entryAt (s : State) (ctx : Nat) (need : Need) (a : Nat) : Nat :=
  let m := s.mem.read a 8
  match (s.ctx ctx).tlb.find? fun e => e.addr == a with
  | none => m
  | some e =>
    if e.value = m then m
    else if bitOf e.value 2 && bitOf e.value 8 && need != .read && need != .exec then m
    else if Config.oldEntry s.draws ctx a then e.value else m

/-- Is an ATS result at hand for a page of the host, with the permissions needed? (R414) -/
def Context.translates (c : Context) (page bits : Nat) : Bool :=
  !c.privch || c.ats.any fun a => a.1 == page && a.2 &&& bits == bits

/-- Translates an address of a context (R406, R407, R410, R413, R414). A ROOT outside device memory, to which the manual gives
no meaning, names a table of zeros (log entry 101). -/
def State.walk (s : State) (ctx : Nat) (need : Need) (va : Nat) : Walk :=
  let c := s.ctx ctx
  walkFrom (s.entryAt ctx need) c.translates need va false 4 c.root

/-- The walk of an access that was sent before its page began to move: it goes on as it was translated (R291). -/
def State.walkSent (s : State) (ctx : Nat) (need : Need) (va : Nat) : Walk :=
  let c := s.ctx ctx
  let rd (a : Nat) : Nat :=
    let e := s.entryAt ctx need a
    if bitOf e 2 && bitOf e 9 then e - 2 ^ 9 else e
  walkFrom rd c.translates need va false 4 c.root

/-- The entries on the path of an address from a table at a level, with the first address and the bytes that each maps: what
the device caches of a walk that succeeded (R410). -/
def walkPath (rd : Nat → Nat) (va : Nat) : Nat → Nat → List CachedEntry
  | 0, table => [⟨entryAddr 0 table va, rd (entryAddr 0 table va), [(va / 2 ^ 16 * 2 ^ 16, 2 ^ 16)]⟩]
  | l + 1, table =>
    let a := entryAddr (l + 1) table va
    let e := rd a
    let size := 2 ^ (21 + 9 * l)
    let here : CachedEntry := ⟨a, e, [(va / size * size, size)]⟩
    if bitOf e 2 then [here] else here :: walkPath rd va l (bitsOf e 51 8 * 256)

/-- An entry read by a walk cached: one that is cached already keeps its value, and maps the walk's range as well (R410). -/
def cacheEntry (t : List CachedEntry) (e : CachedEntry) : List CachedEntry :=
  if t.any fun f => f.addr == e.addr then
    t.map fun (f : CachedEntry) => if f.addr = e.addr then { f with spans := (f.spans ++ e.spans).dedup } else f
  else t ++ [e]

/-- The entries of translated addresses cached by the device (R410). -/
def State.cacheWalks (s : State) (ctx : Nat) (need : Need) (vas : List Nat) : State :=
  let c := s.ctx ctx
  let new := vas.foldl (fun (t : List CachedEntry) va =>
    match s.walk ctx need va with
    | .ok _ => (walkPath (s.entryAt ctx need) va 4 c.root).foldl cacheEntry t
    | _ => t) c.tlb
  if new = c.tlb then s else s.setCtx ctx { c with tlb := new }

/-- The cached copies of an entry that the device itself changes, dropped in every context (R410, R420). -/
def State.dropEntry (s : State) (a : Nat) : State :=
  if s.ctxs.any fun p => p.2.tlb.any fun e => e.addr == a then
    { s with ctxs := s.ctxs.map fun (p : Nat × Context) =>
        (p.1, { p.2 with tlb := p.2.tlb.filter fun e => e.addr != a }) }
  else s

/-- Does the page of a translation hold DISC = 1? (R420) -/
def Xlat.disc (x : Xlat) : Bool := bitOf x.entry 8

/-- Is the page of a translation still discarded, and not reinstated since its walk? (R420) -/
def State.discarded (s : State) (x : Xlat) : Bool := x.disc && s.mem.read x.leaf 8 != x.entry - 2 ^ 8

/-- A byte at a location of this device, as a block sees it through its version (R305). -/
def State.locByte (s : State) (ver : List (Nat × Byte)) (zero : Bool) (loc : Nat) : Byte :=
  match Map.find ver loc with
  | some b => b
  | none => if zero then 0 else s.mem.byte loc

/-- `n` bytes at a translated address, little-endian; a discarded page reads zeros (R191, R420). -/
def State.readAt (s : State) (ver : List (Nat × Byte)) (x : Xlat) (n : Nat) : Nat :=
  leNat ((List.range n).map fun i => s.locByte ver (s.discarded x) (x.loc + i))

/-- A flit (R422): header, payload, CRC. -/
def flitOf (seq ack kind : Nat) (payload : List Byte) : List Byte :=
  let b := leBytes 4 (seq % 4096 + ack % 4096 * 2 ^ 12 + kind * 2 ^ 24) ++ payload
  b ++ leBytes 8 (Config.crc64 b).toNat

/-- The payloads that carry a message: the manual lays out no message, so their number is the model's own (log entry 10). -/
def messagePayloads (kind a : Nat) (bs : List Byte) : List (List Byte) :=
  (List.range ((16 + bs.length + 243) / 244)).map fun j =>
    (List.range 244).map fun i => Config.flitByte kind a bs (244 * j + i)

/-- Is a port a path to a device: its peer, or in a switched domain any port? -/
def State.leads (s : State) (p d : Nat) : Bool := s.mss.topo != 1 || (s.port p).peer == d

/-- Is a port a path to a device: UP or in RETRAIN, and one that leads to it? -/
def State.carries (s : State) (p d : Nat) : Bool :=
  ((s.port p).st == .up || (s.port p).st == .retrain) && s.leads p d

/-- The port that a message to a device takes: the one that its messages took before, as long as that is a path, so that
they keep to one path (R426); else the first that is. -/
def State.route (s : State) (d : Nat) : Option Nat :=
  ((Map.find s.paths d).filter fun p => s.carries p d) <|> (s.ports.find? fun p => s.carries p.1 d).map Prod.fst

/-- A port with a payload in its next flit. -/
def Port.put (now : Nat) (p : Port) (payload : List Byte) : Port :=
  { p with
    txSeq := (p.txSeq + 1) % 4096
    timer := if p.replay.isEmpty then now else p.timer
    replay := p.replay ++ [(p.txSeq, flitOf p.txSeq (p.rxSeq + 4095) 1 payload)] }

/-- A message put into the flits of the path to its device, or kept until there is one (R422). -/
def State.post (s : State) (m : Nat × Nat × Nat × List Byte) : State :=
  match s.route m.1 with
  | some k =>
    { s with paths := Map.set s.paths m.1 k }.setPort k
      ((messagePayloads m.2.1 m.2.2.1 m.2.2.2).foldl (Port.put s.clk) (s.port k))
  | none => { s with outbox := s.outbox ++ [m] }

/-- The messages that wait for a path posted again, in order. -/
def State.postAll (s : State) : State := s.outbox.foldl State.post { s with outbox := [] }

/-- A message sent to another device (R422, R425). -/
def State.send (s : State) (d kind a : Nat) (bs : List Byte) : State :=
  State.post { s with sent := s.sent ++ [(d, kind, a, bs)] } (d, kind, a, bs)

/-- The operand bytes of a request's message: a read names its length. -/
def ExtReq.payload (r : ExtReq) : List Byte := (if r.kind % 256 = 0 then leBytes 4 r.bytes else []) ++ r.operand

/-- A request sent to the host or to another device (R414, R425); it keeps the address and run of the instruction that is
executed, which a kill of its warp reports. -/
def State.request (s : State) (r : ExtReq) : State :=
  let t := { s with
    ext := s.ext ++ [{ r with id := s.extNext, pc := s.cur.pc, run := s.cur.run }]
    extNext := s.extNext + 1 }
  match r.dev with
  | some d => t.send d r.kind r.addr r.payload
  | none => t

/-- The device and address that a location names (R425); none for the host. -/
def State.place (s : State) (loc : Nat) : Option Nat × Nat :=
  if hostBase ≤ loc then (none, loc - hostBase) else (some (s.mss.domid ^^^ (loc / deviceEnd)), loc % deviceEnd)

/-- Bytes put at a location: device memory, a posted write to the host, which is lost where the host refuses it (R414), or a
write sent to another device. -/
def State.putLoc (s : State) (ctx : Nat) (who : FaultWho) (loc : Nat) (bs : List Byte) : State :=
  if loc < deviceEnd then { s with mem := Mem.putBytes s.mem loc bs }
  else
    match s.place loc with
    | (none, a) =>
      if !(s.ctx ctx).privch && Config.hostRefuses s.draws a then s else { s with hostMem := Mem.putBytes s.hostMem a bs }
    | (some d, a) => s.request ⟨0, some d, 1, a, bs, bs.length, who, ctx, [], none, 0, 0, 0⟩

/-- A page outside this device filled with zeros. -/
def State.zeroAway (s : State) (ctx : Nat) (who : FaultWho) (x : Xlat) : State :=
  match s.place x.page with
  | (none, a) => { s with hostMem := Mem.zero s.hostMem a x.size }
  | (some _, _) => s.putLoc ctx who x.page (List.replicate x.size 0)

/-- A discarded page reinstated: zero-filled at its placement, DISC cleared in one update of the entry, which still holds it
(R191, R420). -/
def State.reinstate (s : State) (ctx : Nat) (who : FaultWho) (x : Xlat) : State :=
  if x.disc && s.mem.read x.leaf 8 == x.entry then
    let t := if isExternal x.page then s.zeroAway ctx who x else { s with mem := Mem.zero s.mem x.page x.size }
    State.dropEntry (a := x.leaf) { t with
      mem := Mem.write t.mem x.leaf 8 (x.entry - 2 ^ 8)
      frames := (List.range (x.size / 2 ^ 16)).foldl (fun f i =>
        Map.put f (x.page / 2 ^ 16 + i) { Map.getD f (x.page / 2 ^ 16 + i) FrameInfo.reset with discarded := none }
          FrameInfo.reset) t.frames }
  else s

/-- Does the block keep a version now? (R303) -/
def State.versioned (s : State) (bk : Nat) : Bool :=
  (Map.find s.blocks bk).any fun b => (s.launch b.launch).vers && b.phase != .ended

/-- The version through which a block reads, empty when it keeps none. -/
def State.version (s : State) (bk : Nat) : List (Nat × Byte) := if s.versioned bk then (s.block bk).version else []

/-- A version with bytes written (R303). -/
def putVersion (ver : List (Nat × Byte)) (loc : Nat) : List Byte → List (Nat × Byte)
  | [] => ver
  | b :: bs => putVersion (Map.set ver loc b) (loc + 1) bs

/-- The words that `n` bytes at a location touch. -/
def wordsOf (loc n : Nat) : List Nat := (List.range ((loc + n + 3) / 4 - loc / 4)).map fun i => loc / 4 + i

/-- The Lamport tag of `n` bytes at a location, the largest of its words' (R282). -/
def State.tag (s : State) (loc n : Nat) : Nat := (wordsOf loc n).foldl (fun t w => max t (Map.getD s.tags w 0)) 0

/-- A tag stored with each word of `n` bytes at a location (R282). -/
def State.setTag (s : State) (loc n ts : Nat) : State :=
  { s with tags := (wordsOf loc n).foldl (fun t w => Map.put t w ts 0) s.tags }

/-- A range that a launch writes noted in what it sees as code: a word of it that is fetched afterwards is the old one or the
new one (R43). -/
def CodeImage.write (c : CodeImage) (loc n : Nat) : CodeImage :=
  if c.own.any fun r => decide (r.1 ≤ loc) && decide (loc + n ≤ r.1 + r.2) then c else { c with own := (loc, n) :: c.own }

/-- A block's launch writes `n` bytes at a location (R43). -/
def State.ownWrite (s : State) (bk loc n : Nat) : State :=
  match Map.find s.blocks bk with
  | none => s
  | some b => { s with oldCode := s.oldCode.map fun c => if c.launch = b.launch then c.write loc n else c }

/-- Bytes put at the place of a translated address, outside any version. -/
def State.putAt (s : State) (ctx bk : Nat) (who : FaultWho) (x : Xlat) (bs : List Byte) : State :=
  ((s.reinstate ctx who x).putLoc ctx who x.loc bs).ownWrite bk x.loc bs.length

/-- Bytes written at a translated address by a block, to its version when it keeps one (R196, R290). A discarded page is
reinstated by the write, in a versioned launch by its commit. -/
def State.writeAt (s : State) (ctx bk : Nat) (who : FaultWho) (x : Xlat) (bs : List Byte) : State :=
  if s.versioned bk then
    let b := s.block bk
    s.setBlock bk { b with
      version := putVersion b.version x.loc bs
      verLines := (List.range ((x.loc + bs.length + 127) / 128 - x.loc / 128)).foldl (fun t i =>
        if (Map.find t (x.loc / 128 + i)).isSome then t
        else Map.set t (x.loc / 128 + i) (x.va / 128 * 128 + 128 * i)) b.verLines }
  else s.putAt ctx bk who x bs

/-- The lines that a version holds, ascending (R303). -/
def versionLines : List (Nat × Byte) → List Nat
  | [] => []
  | p :: ps =>
    match versionLines ps with
    | [] => [p.1 / 128]
    | l :: ls => if p.1 / 128 = l then l :: ls else p.1 / 128 :: l :: ls

/-- The lines that requests waiting in the collector will write for a block (R187). -/
def State.collectedLines (s : State) (bk : Nat) : List Nat :=
  (s.core (blockCore bk)).collector.flatMap fun r =>
    if (s.warp r.slot).blk == bk && r.dest.isNone then r.addrs.map fun p => p.2.loc / 128 else []

/-- Lines of addresses whose pages do not translate, and which the version has not: counted by their addresses. -/
def Block.addressLines (b : Block) (vas : List Nat) : List Nat :=
  (vas.map fun va => va / 128).filterMap fun l =>
    if b.verLines.any fun p => p.2 == 128 * l then none else some (2 ^ 60 + l)

/-- Does an access write? -/
def AccOp.writes (o : AccOp) : Bool :=
  match o with
  | .store => true
  | .atom _ => true
  | .guardStore _ => true
  | _ => false

/-- The lines that logged instructions of a block's warps will write when they are replayed (R212, R304). -/
def State.loggedLines (s : State) (bk : Nat) : List Nat :=
  (s.blockWarps bk).flatMap fun p =>
    match p.2.log with
    | some e => if e.acc.op.writes then (s.block bk).addressLines (e.acc.lanes.map Prod.snd) else []
    | none => []

/-- Would writing lines, beside those that the collector and replays will write, pass the version budget of the block?
(R303, R304) -/
def State.versionFull (s : State) (bk : Nat) (lines : List Nat) : Bool :=
  s.versioned bk &&
    decide ((s.launch (s.block bk).launch).vbud * 512 <
      ((versionLines (s.block bk).version ++ s.collectedLines bk ++ s.loggedLines bk ++ lines).dedup).length)

/-- The bytes of a version as runs within lines (R303). -/
def versionRuns : List (Nat × Byte) → List (Nat × List Byte)
  | [] => []
  | p :: ps =>
    match versionRuns ps with
    | [] => [(p.1, [p.2])]
    | (a, bs) :: rs => if a = p.1 + 1 && a % 128 != 0 then (p.1, p.2 :: bs) :: rs else (p.1, [p.2]) :: (a, bs) :: rs

/-- The translation in force at the commit for a byte of a version (R419). -/
def State.commitWalk (s : State) (ctx : Nat) (lines : List (Nat × Nat)) (loc : Nat) : Option Xlat :=
  match (Map.find lines (loc / 128)).map fun va => s.walk ctx .write (va + loc % 128) with
  | some (.ok x) => some x
  | _ => none

/-- A run of a version written through the translation in force at the commit (R419); where the page does not translate
then, at the place that the block's write found (log entry 91). -/
def State.commitRun (s : State) (ctx bk : Nat) (who : FaultWho) (lines : List (Nat × Nat)) (r : Nat × List Byte) : State :=
  match s.commitWalk ctx lines r.1 with
  | some x => s.putAt ctx bk who x r.2
  | none => (s.putLoc ctx who r.1 r.2).ownWrite bk r.1 r.2.length

/-- Does a byte of a version lie on another device at the commit? -/
def State.commitAway (s : State) (ctx : Nat) (lines : List (Nat × Nat)) (loc : Nat) : Bool :=
  let at' := ((s.commitWalk ctx lines loc).map Xlat.loc).getD loc
  isExternal at' && decide (at' < hostBase)

/-- A word that a release wrote to another device's memory, sent with the release's tag (R282, R426). -/
def State.sendRelease (s : State) (ctx core : Nat) (who : FaultWho) (loc : Nat) (bs : List Byte) : State :=
  match s.place loc with
  | (some d, a) =>
    s.request ⟨0, some d, msgRelease, a, bs ++ leBytes 8 (s.core core).lamport, bs.length, who, ctx, [], none, 0, 0, 0⟩
  | _ => s
where
  /-- A write message with the flag of a release (Acc.message). -/
  msgRelease : Nat := 1 + 512

/-- The bytes of a block's version that its commit has still to perform. -/
def State.setVersion (s : State) (bk : Nat) (v : List (Nat × Byte)) : State :=
  s.setBlock bk { s.block bk with version := v }

/-- The commit of a block's version (R290, R420): bytes on other devices that no release wrote go first; when they are
acknowledged, every byte of this device and of the host is performed in one step, with the tags of the releases among them;
then each word that a release wrote on another device, in order, once all before it is acknowledged (R426). Without bytes
on other devices that is one step. An older block's commit comes first. -/
def State.commitVersion (s : State) (ctx bk core : Nat) (who : FaultWho) : State :=
  let b := s.block bk
  let guard (loc : Nat) : Bool := b.verTags.contains (loc / 4)
  let away := b.version.filter fun p => s.commitAway ctx b.verLines p.1
  let plain := away.filter fun p => !guard p.1
  let near := b.version.filter fun p => !s.commitAway ctx b.verLines p.1
  let put (t : State) (v : List (Nat × Byte)) : State :=
    (versionRuns v).foldl (fun t r => t.commitRun ctx bk who b.verLines r) t
  if s.blocks.any fun p => p.1 != bk && p.2.phase == .ended && !p.2.version.isEmpty && decide (p.2.endedAt < b.endedAt) then s
  else if !plain.isEmpty then (put s plain).setVersion bk (b.version.filter fun p => !plain.contains p)
  else if s.ext.any fun r => r.who == who && r.data.isNone then s
  else if !near.isEmpty then
    let t := (put s near).setVersion bk away
    let ts := (t.core core).lamport
    if ts = 0 then t
    else { t with tags := (b.verTags.filter fun w => near.any fun p => p.1 / 4 == w).foldl (fun m w => Map.put m w ts 0) t.tags }
  else
    match b.verTags.find? fun w => away.any fun p => p.1 / 4 == w with
    | none => s
    | some w =>
      let word := away.filter fun p => p.1 / 4 == w
      ((versionRuns word).foldl (fun t r =>
        t.sendRelease ctx core who (((t.commitWalk ctx b.verLines r.1).map Xlat.loc).getD r.1) r.2) s).setVersion bk
          (away.filter fun p => p.1 / 4 != w)

/-- Records a translation fault that waits (R387, R411, R414). -/
def State.addFault (s : State) (ctx : Nat) (f : PendingFault) : State :=
  let c := s.ctx ctx
  s.setCtx ctx { c with faults := c.faults ++ [{ f with request := c.privch, sent := f.core == 0xFFFF }] }

end Sys2Proof.Machine
end

