-- ==== Sys2Proof/Machine/Ops.lean ====
section
/-! DEFINITION. The shared operations of every meaning: moving the threads of a run, the end and the kill of a block,
taking a trap and returning from one, the checks on registers, and the write of results. -/

namespace Sys2Proof.Machine

/-! ### Runs (R98, R100) -/

/-- Merged runs keep the larger of their ages (R100). -/
def Warp.mergeAges (w : Warp) : Warp :=
  let r := w.runnable
  { w with lanes := Vector.ofFn fun l =>
      if r.getLsbD l.val then
        { w.lanes[l] with age := (List.finRange 32).foldl (fun a k =>
            if r.getLsbD k.val && w.lanes[k].pc == w.lanes[l].pc then max a w.lanes[k].age else a) 0 }
      else w.lanes[l] }

/-- The warp after an issue: the threads of the run at new PCs with age 0, every other run one issue slot older. -/
def Warp.issued (w : Warp) (run : LaneMask) (pc : Fin 32 → BitVec 55) : Warp :=
  Warp.mergeAges { w with
    waitCount := 0
    lanes := Vector.ofFn fun l =>
      if run.getLsbD l.val then { w.lanes[l] with pc := pc l, age := 0 }
      else { w.lanes[l] with age := w.lanes[l].age + 1 } }

/-- The address of the instruction after the executing one, as a PC. -/
def Cur.next (c : Cur) : BitVec 55 := addrPc (c.pc + BitVec.ofNat 57 c.size)

/-- One step of a proof-mode launch retired (R343, R344). -/
def State.retire (s : State) (lk : Nat) : State :=
  let l := s.launch lk
  if l.proof then s.setLaunch lk { l with retired := l.retired + 1 } else s

/-- The executing run moves thread by thread, and its instruction is retired. -/
def State.moveRun (s : State) (pc : Fin 32 → BitVec 55) : State :=
  (s.setMe (s.me.issued s.cur.run pc)).retire s.myBlock.launch

/-- The executing run moves to the next instruction (R98). -/
def State.advance (s : State) : State := s.moveRun fun _ => s.cur.next

/-! ### Blocks that leave a core -/

/-- The size and home of segments attached by a block, each once. -/
def Block.attached (b : Block) : List Nat := (b.windows.toList.filterMap id).dedup

/-- A segment detached by a block (R209): ATTACH falls, and R310 counts idle time from now on when it reaches 0. -/
def State.detach (s : State) (k : Nat) : State :=
  match Map.find s.segs k with
  | none => s
  | some g =>
    s.setSeg k { g with attach := g.attach - 1, idleSince := if g.attach ≤ 1 then s.clk else g.idleSince }

/-- Every attachment of a block detached (R209). -/
def State.detachAll (s : State) (bk : Nat) : State :=
  let b := s.block bk
  (b.attached.foldl (fun s k => s.detach k) s).setBlock bk { b with windows := Vector.replicate 4 none }

/-- The galley area of a launch on a core goes when no other block of the launch is there (R296). -/
def State.dropGalley (s : State) (core lk : Nat) : State :=
  if (s.coreBlocks core).any fun p => p.2.launch == lk && p.2.phase != .ended then s
  else
    let c := s.core core
    s.setCore core { c with galleys := Map.erase c.galleys lk }

/-- Does a waiting party belong to a block? -/
def State.partyOf (s : State) (bk : Nat) (who : FaultWho) : Bool :=
  match who with
  | .warp k => (Map.find s.warps k).any fun w => w.blk == bk
  | .fetch k => (Map.find s.warps k).any fun w => w.blk == bk
  | .engine b _ => b == bk
  | .seg _ => false
  | .input b => b == bk
  | .queue _ => false

/-- Has an ended block nothing left to perform: its version committed, its tile written, and all of it acknowledged? -/
def State.blockOver (s : State) (bk : Nat) (b : Block) : Bool :=
  b.phase == .ended && b.flushed && b.version.isEmpty &&
    !s.ext.any fun r => r.data.isNone && (match r.who with
      | .engine k _ => k == bk
      | _ => false)

/-- The blocks of a context in a cluster. -/
def State.contextBlocks (s : State) (ctx cl : Nat) : List Nat :=
  (s.blocks.filter fun p => clusterOf (blockCore p.1) == cl && (s.launch p.2.launch).ctx == ctx).map Prod.fst

/-- The context switches of a cluster that have taken place: once no block of the context is left there, its weight-buffer
slots become invalid (R230). -/
def State.switched (s : State) (cl : Nat) : State :=
  let u := s.cluster cl
  let gone (ctx : Nat) : Bool := u.leaving.contains ctx && (s.contextBlocks ctx cl).isEmpty
  s.setCluster cl { u with
    leaving := u.leaving.filter fun c => !gone c
    slots := u.slots.map fun k => if gone k.ctx then { k with valid := false } else k }

/-- A block leaves its core: its warps, collector requests, waiting accesses and attachments go (R389, R395). -/
def State.removeBlock (s : State) (bk : Nat) : State :=
  let s := s.detachAll bk
  let b := s.block bk
  let core := blockCore bk
  let mine (w : FaultWho) : Bool := s.partyOf bk w
  let cl := clusterOf core
  let co := s.core core
  let s1 := s.setCore core { co with collector := co.collector.filter fun r => !mine (.warp r.slot) }
  let u := s1.cluster cl
  let s2 := s1.setCluster cl { u with order := u.order.filter fun k => k != bk }
  let s3 := { s2 with
    ext := s2.ext.filter fun r => !mine r.who
    ctxs := s2.ctxs.map fun (p : Nat × Context) =>
      (p.1, { p.2 with faults := p.2.faults.filter fun f => !mine f.who })
    segs := s2.segs.map fun (p : Nat × Segment) =>
      (p.1, { p.2 with waiter := p.2.waiter.filter fun w => w.blk != bk })
    collectives := s2.collectives.map fun (c : Collective) =>
      if c.blk == bk && c.launch == b.launch then { c with dest := .none } else c
    warps := s2.warps.filter fun p => p.2.blk != bk
    blocks := Map.erase s2.blocks bk }
  (s3.dropGalley core b.launch).switched cl

/-- The trap that ends an attempt of a block: what its fault record tells (R391, R393). -/
structure Killing where
  code : Nat
  detail : Nat
  lane : Nat
  epc : VAddr
  lmask : LaneMask
  nested : Bool
  warp : Nat
  deriving DecidableEq, Repr

/-- A kill with no trapping run: the manual gives its LANE, EPC, LMASK and WARP no value (log entry 7). -/
def Killing.bare (code detail : Nat) : Killing :=
  let x (k : Nat) : Word := Config.unstated k (BitVec.ofNat 32 code) (BitVec.ofNat 32 detail)
  ⟨code, detail, (x 1).toNat % 32, x 2 ++ (x 3).truncate 25, x 4, false, (x 5).toNat % 32⟩

/-- KCAUSE of a trap (R35). -/
def causeWord (code detail lane : Nat) : Word := BitVec.ofNat 32 (detail % 2 ^ 16 * 2 ^ 16 + lane % 32 * 2 ^ 8 + code % 256)

/-- The fault record of a failed block (R393); its becoming VALID is signalled (R415). -/
def State.faultRecord (s : State) (l : Launch) (bk : Nat) (b : Block) (k : Killing) : State :=
  let q := s.queue l.queue
  let stat := 2 ^ 31 + (if k.nested then 2 ^ 30 else 0) + (if l.child.isSome then 2 ^ 29 else 0) +
    blockCore bk * 2 ^ 16 + min (b.attempt - 1) 15 * 2 ^ 12 + k.warp % 32
  let t := if q.fstat.getLsbD 31 then s else s.signal (s.ctx l.ctx).fn 1
  t.setQueue l.queue { q with
    fseq := l.seq
    fblock := b.n
    fcause := causeWord k.code k.detail k.lane
    fepc := k.epc
    flmask := k.lmask
    fstat := BitVec.ofNat 32 stat }

/-- May a killed block run again? (R390, R392) -/
def mayRelaunch (l : Launch) (b : Block) (k : Killing) : Bool :=
  !l.proof && (l.idem || l.vers) && k.code != 0x16 && k.code != 0 && decide (b.attempt < l.retry + 1)

/-- The member ids of a launch's process group, in rank order (R348, R349). -/
def Launch.members (l : Launch) (g : Nat) : List Nat := ((l.groups[g]?).bind Group.members).getD []

/-- Kinds of messages between devices: a read, a write, primitives, block-end marks, contributions (R379, R425, R429);
atomic operations are numbered from 64. -/
def msgRead : Nat := 0
def msgWrite : Nat := 1
def msgPrim : Nat := 2
def msgMark : Nat := 3
def msgColl : Nat := 4

/-- The owner map of a geometry launch's target, nothing for a single device (R363). -/
def Launch.owners (l : Launch) : Nat := field (l.target.getD []) 0x30 8

/-- The block-end mark of a block of a geometry launch, to every owner (R380). -/
def State.sendMarksOf (s : State) (b : Block) : State :=
  let l := s.launch b.launch
  if l.ltype != 1 then s
  else
    let s := { s with marks := s.marks ++ [(b.launch, s.mss.domid, b.n, b.emitted)] }
    if l.owners = 0 then s
    else
      let others := (l.members (field (l.target.getD []) 0x3A 1)).filter fun d => d != s.mss.domid
      others.foldl (fun s d => s.send d msgMark b.n (leBytes 4 b.emitted)) s

/-- The block-end mark of a block on a core. -/
def State.sendMarks (s : State) (bk : Nat) : State := s.sendMarksOf (s.block bk)

/-- A block that is killed: it leaves its core and is offered again, or fails, its geometry ending there (R389, R390, R391,
R393). A kill that ends a launch in proof mode drops the blocks that wait for admission (R392). -/
def State.killNow (s : State) (bk : Nat) (k : Killing) : State :=
  match Map.find s.blocks bk with
  | none => s
  | some b =>
    let again := mayRelaunch (s.launch b.launch) b k
    let s := (if again then s else s.sendMarks bk).removeBlock bk
    let l := s.launch b.launch
    if again then
      s.setLaunch b.launch { l with relaunch := l.relaunch ++ [(b.n, b.attempt + 1)] }
    else
      let s := if l.failed = 0 then s.faultRecord l bk b k else s
      s.setLaunch b.launch { l with
        failed := l.failed + 1
        done := l.done + 1
        ended := l.ended || l.proof
        waiting := if l.proof then [] else l.waiting }

/-- One block killed, unless it has ended with all its effects. -/
def State.killOne (s : State) (bk : Nat) (k : Killing) : State :=
  if (Map.find s.blocks bk).any (s.blockOver bk) then s else s.killNow bk k

/-- The blocks that a kill takes with a block: its neighbourhood group, or in proof mode the launch's resident blocks
(R334, R392). -/
def State.killSet (s : State) (bk : Nat) : List Nat :=
  let b := s.block bk
  let l := s.launch b.launch
  let a := l.nbw * l.nbh
  (s.launchBlocks b.launch).filterMap fun p =>
    if p.1 != bk && ((l.nbhd && p.2.n / a == b.n / a) || l.proof) then some p.1 else none

/-- A kill (R389 to R393). -/
def State.kill (s : State) (bk : Nat) (k : Killing) : State :=
  (s.killSet bk).foldl (fun s b => s.killOne b k) (s.killOne bk k)

/-- The kill of a block one of whose own accesses has failed, which may have ended before (R427). -/
def State.killFailed (s : State) (bk : Nat) (k : Killing) : State :=
  (s.killSet bk).foldl (fun s b => s.killOne b k) (s.killNow bk k)

/-! ### Traps (R382 to R386) -/

/-- A trap of delivery H (R384): the handler is entered, or without one, and within one, the block is killed. `moved`
holds the threads of the issue and `pc` where those outside the trapping run go. -/
def State.trapEnter (s : State) (slot : Nat) (run moved : LaneMask) (pc : Fin 32 → BitVec 55) (lane : Nat)
    (epc : VAddr) (code detail : Nat) : State :=
  let w := s.warp slot
  let lk := (s.block w.blk).launch
  let tvec := (s.launch lk).tvec
  if tvec = 0 || w.hndl then
    s.kill w.blk ⟨code, detail, lane, epc, run, w.hndl, w.index⟩
  else
    s.setWarp slot (Warp.issued { w with
      kcause := causeWord code detail lane
      kepc := epc
      trapMask := run
      hndl := true
      tmask := true
      khbudget := 65536
      firstTrap := none } moved fun l => if run.getLsbD l.val then addrPc (BitVec.ofNat 57 tvec) else pc l)

/-- A trap of a whole run (R384). -/
def State.trapAt (s : State) (slot : Nat) (run : LaneMask) (lane : Nat) (epc : VAddr) (code detail : Nat) : State :=
  s.trapEnter slot run run (fun _ => 0) lane epc code detail

/-- The executing instruction raises a trap of delivery H (R382, R383). -/
def State.trap (s : State) (code detail : Nat) : Res :=
  .next (s.trapAt s.cur.slot s.cur.run s.cur.run.lowest.val s.cur.pc code detail)

/-- The executing instruction raises a trap of delivery K: the block is killed (R382, R391). -/
def State.trapKill (s : State) (code detail : Nat) : Res :=
  .next (s.kill s.me.blk ⟨code, detail, s.cur.run.lowest.val, s.cur.pc, s.cur.run, s.me.hndl, s.me.index⟩)

/-- A handler ends: HNDL and TMASK fall and KHBUDGET returns to 65,536 (R246, R386). -/
def Warp.endHandler (w : Warp) : Warp := { w with hndl := false, tmask := false, khbudget := 65536 }

/-- RTE (R246, R386): every LIVE thread of the trap record's mask resumes at KEPC. -/
def Warp.returnFromTrap (w : Warp) : Warp :=
  let w := w.endHandler
  Warp.mergeAges { w with
    lanes := Vector.ofFn fun l =>
    if w.trapMask.getLsbD l.val && w.lanes[l].st == .live then { w.lanes[l] with pc := addrPc w.kepc, age := 0 }
    else w.lanes[l] }

/-- A handler whose threads have all exited or become HELD ends (R386). -/
def Warp.checkHandler (w : Warp) : Warp :=
  if w.hndl && w.trapMask &&& w.live == 0 then w.endHandler else w

/-! ### The ends of warps and blocks -/

/-- The pending WAITPH and ACQ reads of a warp's threads, those that they brought from warps they have left among them
(R237, R280). -/
def Warp.pendings (w : Warp) : List Wait := w.waits ++ w.carried.map Prod.snd

/-- Reads of the threads of W that are not performed: a waiting ACQ or WAITPH counts as a read performed when its condition
is met (R280). -/
def Warp.waitsDue (w : Warp) (W : LaneMask) : Bool := w.pendings.any fun x => x.due &&& W != 0

/-- Accesses outside the device of the warp in a slot that are not performed yet. -/
def State.unanswered (s : State) (slot : Nat) : Bool := s.ext.any fun r => r.who == .warp slot && r.data.isNone

/-- The threads of a warp that wait at the barrier. -/
def Warp.atBarrier (w : Warp) : LaneMask := LaneMask.of fun l => w.lanes[l].atBar

/-- Are the earlier accesses of the threads at a block's barrier performed: their pending reads, what the collector holds for
their warps, and their accesses outside the device? The barrier is a release and an acquire of them (R200, R277). -/
def State.arrivalsDone (s : State) (bk : Nat) : Bool :=
  (s.blockWarps bk).all fun p => p.2.atBarrier == 0 ||
    (!p.2.waitsDue p.2.atBarrier && !s.unanswered p.1 && !(s.core (blockCore bk)).collector.any fun r => r.slot == p.1)

/-- The barrier of a block completes when every LIVE or HELD thread has arrived and what they accessed before is performed
(R200). -/
def State.barrierDone (s : State) (bk : Nat) : Bool :=
  let ls := (s.blockWarps bk).flatMap fun p => p.2.lanes.toList
  (ls.any fun l => l.st == .live && l.atBar) &&
    (ls.all fun l => (l.st != .live || l.atBar) && l.st != .held) && s.arrivalsDone bk

/-- A warp whose threads at the barrier resume as runs just formed (R100, R200). -/
def Warp.leaveBarrier (w : Warp) : Warp :=
  Warp.mergeAges { w with lanes := w.lanes.map fun l => if l.atBar then { l with atBar := false, age := 0 } else l }

/-- The barrier of a block completes if every thread has arrived: its threads resume, its counter returns to 0 (R200). -/
def State.checkBarrier (s : State) (bk : Nat) : State :=
  if s.barrierDone bk then
    let b := s.block bk
    let t := s.setBlock bk { b with arrivals := 0 }
    { t with warps := t.warps.map fun (p : Nat × Warp) => if p.2.blk == bk then (p.1, p.2.leaveBarrier) else p }
  else s

/-- The pixels of a tile that are in the target: row and column within the tile (R375). -/
def tilePixels (l : Launch) (n : Nat) : List (Nat × Nat) :=
  let t := l.target.getD []
  let b := l.bid n
  (List.product (List.range 32) (List.range 32)).filter fun p =>
    decide (32 * b.1 + p.2 < field t 0x20 2) && decide (32 * b.2.1 + p.1 < field t 0x22 2)

/-- The address in COLOR of a pixel of a block's tile (R363, R377). -/
def colorAddr (l : Launch) (n r c : Nat) : Nat :=
  let t := l.target.getD []
  let b := l.bid n
  (field t 0x08 8 + (32 * b.2.1 + r) * field t 0x28 4 + 8 * (32 * b.1 + c)) % 2 ^ 57

/-- Does a block have a tile to load and to write back? (R377) -/
def Launch.hasColor (l : Launch) : Bool := l.ltype == 2 && l.target.any fun t => field t 0x08 8 != 0

/-- The tile of an ended block written to COLOR (R377): every pixel, or nothing while a page does not translate; a refusal
for permission freezes the block's channel at its completion (BLOCK_COMPLETION). -/
def State.flushTile (s : State) (bk : Nat) : State :=
  let b := s.block bk
  let l := s.launch b.launch
  if b.flushed then s
  else if !l.hasColor then s.setBlock bk { b with flushed := true }
  else if (s.ctx l.ctx).faults.any fun f => f.who == .engine bk 3 then s
  else
    let ps := tilePixels l b.n
    let ws := ps.map fun p => (p, s.walk l.ctx .write (colorAddr l b.n p.1 p.2))
    let bad := ws.find? fun w =>
      match w.2 with
      | .ok _ => false
      | _ => true
    match bad with
    | some (p, .fault r) =>
      s.addFault l.ctx ⟨colorAddr l b.n p.1 p.2 / 128 * 128, 5, r, blockCore bk, l.queue, none, false, false, .engine bk 3,
        0, 0, 0⟩
    | some _ => s
    | none =>
      let s := s.setBlock bk { b with flushed := true }
      ws.foldl (fun s w =>
        match w.2 with
        | .ok x => s.putAt l.ctx bk (.engine bk 3) x (b.tile.bytes (8 * (32 * w.1.1 + w.1.2)) 8)
        | _ => s) s

/-- A block ends: attachments detached, version committed, galley released, tile written, marks sent (R209, R277, R290,
R296, R377, R380). -/
def State.endBlock (s : State) (bk : Nat) : State :=
  let b := s.block bk
  let l := s.launch b.launch
  let s := s.detachAll bk
  let s := s.setBlock bk { s.block bk with
    phase := .ended
    endedAt := s.clk
    pending := false
    kdeadline := 0 }
  let s := s.commitVersion l.ctx bk (blockCore bk) (.engine bk 4)
  ((s.dropGalley (blockCore bk) b.launch).flushTile bk).sendMarks bk

/-- Has a block no engine command left? -/
def State.enginesDone (s : State) (bk : Nat) : Bool :=
  let b := s.block bk
  b.matrixQ.isEmpty && b.copyQ.isEmpty && b.marchQ.isEmpty &&
    !s.collectives.any fun c => c.issued && c.blk == bk && c.launch == b.launch && c.dest != .none

/-- A block whose warps have all ended ends once no engine command of it is left: its commands still write its areas, its
version and its windows, and the callables of a MARCH still run (R222, R252, R263; log entry 94). -/
def State.closeBlock (s : State) (bk : Nat) : State :=
  match Map.find s.blocks bk with
  | some b => if b.phase == .running && (s.blockWarps bk).isEmpty && s.enginesDone bk then s.endBlock bk else s
  | none => s

/-- Are there threads of a block LIVE? -/
def State.anyLive (s : State) (bk : Nat) : Bool := (s.blockWarps bk).any fun p => p.2.live != 0

/-- A command whose warp has ended: its flags go nowhere (R90, R222). -/
def noWarp : Nat := 2 ^ 20

/-- The commands of a block no longer tied to a warp that ended. -/
def Block.orphan (b : Block) (slot : Nat) : Block :=
  let f (cs : List Cmd) : List Cmd := cs.map fun (c : Cmd) => if c.warp = slot then { c with warp := noWarp } else c
  { b with matrixQ := f b.matrixQ, copyQ := f b.copyQ, marchQ := f b.marchQ }

/-- A warp leaves its slot: its waiting faults go, and so does what is kept for it of accesses outside the device (R14). -/
def State.endWarp (s : State) (slot : Nat) : State :=
  let bk := (s.warp slot).blk
  let mine (w : FaultWho) : Bool := w == .warp slot || w == .fetch slot
  { s with
    warps := Map.erase s.warps slot
    ext := s.ext.filter fun r => !mine r.who
    collectives := s.collectives.map fun (c : Collective) =>
      match c.dest with
      | .regs k _ _ _ => if k == slot && c.blk == bk then { c with dest := .none } else c
      | _ => c
    ctxs := s.ctxs.map fun (p : Nat × Context) =>
      (p.1, { p.2 with faults := p.2.faults.filter fun f => !mine f.who }) }.setBlock bk ((s.block bk).orphan slot)

/-- Has a warp ended, with every pending read of its threads performed? Until then it keeps its slot (R14, R277; log
entry 102). -/
def Warp.over (w : Warp) : Bool := w.ended && w.pendings.isEmpty

/-- What follows when threads of a warp have exited or become HELD: its handler may end, the warp may end and with it
the block, the block's barrier may complete, and its collator windows close when no thread is LIVE (R14, R200, R338,
R386). -/
def State.afterExit (s : State) (slot : Nat) : State :=
  let w := (s.warp slot).checkHandler
  let bk := w.blk
  let s := if w.over then s.endWarp slot else s.setWarp slot w
  let s := if s.anyLive bk then s else
    let b := s.block bk
    s.setBlock bk { b with collator := b.collator.map fun c => { c with closed := true } }
  if (s.blockWarps bk).isEmpty then s.closeBlock bk else s.checkBarrier bk

/-! ### Registers: waits, traps and room (R24 to R27, R29) -/

/-- What an instruction may do: run, wait, or raise a trap. -/
inductive Gate where
  | go
  | wait
  | trap (code detail : Nat)
  deriving DecidableEq, Repr

/-- The first gate that does not let the instruction through. -/
def Gate.and (a b : Gate) : Gate :=
  match a with
  | .go => b
  | a => a

/-- A trap where a condition holds. -/
def Gate.trapIf (b : Bool) (code detail : Nat) : Gate := if b then .trap code detail else .go

/-- Is a vector register full? (R23) -/
def Warp.full (w : Warp) (n : Nat) : Bool := (w.vreg n).pend == 0

/-- An empty source raises EMPTYREAD under TE and otherwise makes the instruction wait; the first empty source decides
(R24, R382). -/
def Warp.sourceGate (w : Warp) : List Use → Gate
  | [] => .go
  | u :: us => if w.full u.n then w.sourceGate us else if u.te then .trap 0x05 u.n else .wait

/-- Allocated vector registers (R26). -/
def Warp.allocatedRegs (w : Warp) : List Nat := (w.vregs.filter fun p => p.2.st.allocated).map Prod.fst

/-- Destinations of long-latency producers that are still N: they count as allocated (R26). -/
def Warp.promised (w : Warp) : List Nat :=
  (((w.inflight.filter fun f => f.w != 0).map Inflight.reg) ++ ((w.waits.filter fun f => f.w != 0).map Wait.reg)).dedup.filter
    fun r => !(w.vreg r).st.allocated

/-- The HELD threads of a warp (R13). -/
def Warp.heldThreads (w : Warp) : LaneMask := LaneMask.of fun l => w.lanes[l].st == .held

/-- The registers that LR frees (R27): those of a run that holds every live thread, no destination among them; none while
threads of the warp are HELD, whose values they bring to the warps that they form (R237, R448; log entry 86). -/
def State.frees (s : State) (us : List Use) (dests : List Nat) : List Nat :=
  if s.cur.run = s.me.live ∧ s.me.heldThreads = 0 then ((us.filter fun u => u.lr && !dests.contains u.n).map Use.n).dedup
  else []

/-- The warp with registers freed (R27). -/
def Warp.free (w : Warp) (rs : List Nat) : Warp := rs.foldl (fun w r => w.setVreg r ⟨.n, 0⟩) w

/-- Does a destination that is N take the warp past its declared peak? The first such register raises REGWAIT (R26). -/
def Warp.peakGate (w : Warp) (peak : Nat) (W : LaneMask) (dests : List Nat) : Gate :=
  if W = 0 then .go
  else
    let new := (dests.dedup.filter fun d => !(w.vreg d).st.allocated && !w.promised.contains d)
    let room := peak - w.allocatedRegs.length - w.promised.length
    match new.drop room with
    | [] => .go
    | d :: _ => .trap 0x0B d

/-- The warps of a partition. -/
def State.partWarps (s : State) (slot : Nat) : List (Nat × Warp) := s.warps.filter fun p => p.1 / 8 == slot / 8

/-- General slots that a warp holds. -/
def Warp.gHeld (w : Warp) : Nat := (w.vregs.filter fun p => p.2.st.isG).length

/-- Compact-file entries that a warp holds. -/
def Warp.compactHeld (w : Warp) : Nat := (w.vregs.filter fun p => p.2.st.isCompact).length

/-- General slots of a partition that are usable (R36). -/
def State.usableSlots (s : State) (slot : Nat) : Nat :=
  (s.core (slotCore slot)).gslots[slotPart slot % 32]'(Nat.mod_lt _ (by decide))

/-- May a warp take `k` more general slots? (R25) -/
def State.slotsFor (s : State) (slot : Nat) (w : Warp) (k : Nat) : Bool :=
  let ws := (s.partWarps slot).map fun p => if p.1 = slot then (slot, w) else p
  let free := s.usableSlots slot - ws.foldl (fun n p => n + p.2.gHeld) 0
  let reserve := ws.foldl (fun n p => max n (s.launch (s.block p.2.blk).launch).regs) 0
  let oldest := ws.foldl (fun (o : Nat × Warp) p => if p.2.seqno < o.2.seqno then p else o) (slot, w)
  k == 0 || (decide (k ≤ free) && (oldest.1 == slot || decide (reserve - oldest.2.gHeld ≤ free - k)))

/-- Is a compact-file entry free for a warp? (R20: 1,024 entries a partition) -/
def State.compactFree (s : State) (slot : Nat) (w : Warp) : Bool :=
  decide (((s.partWarps slot).foldl (fun n p => n + if p.1 = slot then w.compactHeld else p.2.compactHeld) 0) < 1024)

/-! ### Results -/

/-- What an instruction writes: vector registers in order, a predicate, a scalar register, a record register, and the
flags it signals lane by lane. -/
structure Effect where
  regs : List (Nat × Storage)
  expand : Bool
  pred : Option (Nat × PResult)
  sreg : Option (Nat × Word)
  breg : Option (Nat × Record)
  flags : LaneFlags

/-- No effect. -/
def Effect.nothing : Effect := ⟨[], false, none, none, none, LaneFlags.zero⟩

/-- One vector result. -/
def Effect.vec (d : Nat) (st : Storage) : Effect := { Effect.nothing with regs := [(d, st)] }

/-- A 64-bit result: the even register the low half (R18). -/
def Effect.pair (d : Nat) (lo hi : Storage) : Effect := { Effect.nothing with regs := [(d, lo), (d + 1, hi)] }

/-- A predicate result. -/
def Effect.predicate (q : Nat) (r : PResult) : Effect := { Effect.nothing with pred := some (q, r) }

/-- A scalar result. -/
def Effect.scalar (d : Nat) (x : Word) : Effect := { Effect.nothing with sreg := some (d, x) }

/-- The effect with flags. -/
def Effect.withFlags (e : Effect) (f : LaneFlags) : Effect := { e with flags := f }

/-- One vector register of a warp written (R20). -/
def State.storeReg (s : State) (slot : Nat) (w : Warp) (W : LaneMask) (whole expand : Bool) (d : Nat) (st : Storage) :
    Warp :=
  let old := w.vreg d
  let bare := w.setVreg d ⟨.n, old.pend⟩
  w.setVreg d ⟨old.st.write st W whole expand (s.compactFree slot bare), old.pend⟩

/-- The vector registers of an effect written in order. -/
def State.storeRegs (s : State) (w : Warp) (W live : LaneMask) (e : Effect) : Warp :=
  e.regs.foldl (fun w r => s.storeReg s.cur.slot w W (W == live) e.expand r.1 r.2) w

/-- A predicate register written; q7 ignores writes (R30). -/
def Warp.setPred (w : Warp) (q : Nat) (p : PReg) : Warp := if h : q < 7 then { w with pregs := w.pregs.set q p } else w

/-- A predicate register. -/
def Warp.preg (w : Warp) (q : Nat) : PReg := if h : q < 7 then w.pregs[q] else ⟨LaneMask.all, true⟩

/-- A scalar register written. -/
def Warp.setSreg (w : Warp) (n : Nat) (x : Word) : Warp := if h : n < 24 then { w with sregs := w.sregs.set n x } else w

/-- A record register written. -/
def Warp.setBreg (w : Warp) (n : Nat) (x : Record) : Warp := if h : n < 16 then { w with bregs := w.bregs.set n x } else w

/-- The predicate, scalar and record results written. -/
def Warp.writeOthers (w : Warp) (W live : LaneMask) (e : Effect) : Warp :=
  let w := match e.pred with
    | some (q, r) => w.setPred q ((w.preg q).write W live r)
    | none => w
  if W = 0 then w
  else
    let w := match e.sreg with
      | some (d, x) => w.setSreg d x
      | none => w
    match e.breg with
    | some (d, x) => w.setBreg d x
    | none => w

/-- The warp after an instruction's results: LR frees its sources, then R20 writes its destinations and R87 its flags. -/
def State.result (s : State) (W : LaneMask) (frees : List Nat) (e : Effect) : Warp :=
  let w := s.me
  let w := s.storeRegs (w.free frees) W s.me.live e
  let w := w.writeOthers W s.me.live e
  { w with kflags := setFlags w.kflags (e.flags.of W) }

/-- Do the sources let an instruction go on: SCALARDIV, then EMPTYREAD or a wait (R24, R29)? -/
def State.readGate (s : State) (scalar : Bool) (us : List Use) : Gate :=
  (Gate.trapIf (scalar && !s.me.converged) 0x04 0).and (s.me.sourceGate us)

/-- Do the destinations let it go on: a wait for an empty one, then the declared peak after LR (R24, R26, R27)? -/
def State.destGate (s : State) (W : LaneMask) (us : List Use) (dests : List Nat) : Gate :=
  if dests.all s.me.full then (s.me.free (s.frees us dests)).peakGate s.myLaunch.regs W dests else .wait

/-- Is there room for the general slots that the results need? (R20, R25) -/
def State.roomFor (s : State) (w' : Warp) (frees : List Nat) : Bool :=
  s.slotsFor s.cur.slot (s.me.free frees) (w'.gHeld - (s.me.free frees).gHeld)

/-- An ordinary instruction: `scalar` whether it reads scalar registers, `us` the vector registers it reads, `check`
its own traps, `dests` the vector registers it writes, `W` its write set, `e` its results, `f` its effect outside the
warp. It waits, traps, or takes effect whole and moves its run on (R20, R24 to R29, R87, R88, R98, R102). -/
def State.operateThen (s : State) (W : LaneMask) (scalar : Bool) (us : List Use) (check : Gate) (dests : List Nat)
    (e : Effect) (f : State → State) : Res :=
  match ((s.readGate scalar us).and check).and (s.destGate W us dests) with
  | .wait => .next s
  | .trap code detail => s.trap code detail
  | .go =>
    let fs := s.frees us dests
    let bad := e.flags.trapping s.me.enables W
    if bad ≠ 0 ∧ s.me.hndl = false then
      .next (s.trapAt s.cur.slot s.cur.run bad.lowest.val s.cur.pc 0x0D ((e.flags.of W &&& 0x1F).toNat))
    else
      let w := s.result W fs e
      if s.roomFor w fs then .next ((f s).setMe w).advance else .next s

/-- An ordinary instruction with no effect outside its warp. -/
def State.operate (s : State) (W : LaneMask) (scalar : Bool) (us : List Use) (check : Gate) (dests : List Nat)
    (e : Effect) : Res := s.operateThen W scalar us check dests e id

/-- The common case: no check of its own. -/
def State.compute (s : State) (g : Guard) (scalar : Bool) (us : List Use) (e : Effect) : Res :=
  s.operate (s.wset g) scalar us .go (e.regs.map Prod.fst) e

/-! ### Long-latency producers (R23, R89) -/

/-- One destination of a long-latency producer: pending in W, its result in flight. -/
def Warp.launchReg (w : Warp) (W held : LaneMask) (whole : Bool) (flags : Flags) (d : Nat) (st : Storage) : Warp :=
  let v := w.setVreg d { w.vreg d with pend := (w.vreg d).pend ||| W }
  { v with inflight := v.inflight ++ [⟨d, W, held, st, W, whole, flags⟩] }

/-- The warp after a long-latency producer issued; `held` are the lanes that wait for an answer or a replay, and the
flags go with the first destination. -/
def Warp.launchRegs (w : Warp) (W held : LaneMask) (whole : Bool) (flags : Flags) (rs : List (Nat × Storage)) : Warp :=
  match rs with
  | [] => w
  | r :: rs => rs.foldl (fun w r => w.launchReg W held whole 0 r.1 r.2) (w.launchReg W held whole flags r.1 r.2)

/-- The results of a long-latency producer that has passed its gates: `t` is the state with its other effects. They are
written later, lane by lane; in proof mode the step performs them at once (R23, R343). -/
def State.deliverRegs (s t : State) (W held : LaneMask) (us : List Use) (regs : List (Nat × Storage)) (flags : LaneFlags) :
    Res :=
  let fs := s.frees us (regs.map Prod.fst)
  if s.myLaunch.proof then
    let w := t.result W fs { Effect.nothing with regs := regs, flags := flags }
    if t.roomFor w fs then .next (t.setMe w).advance else .next s
  else
    let w := t.me.free fs
    let w := if W = 0 then w else w.launchRegs W held (W == s.me.live) (flags.of W) regs
    .next (t.setMe w).advance

/-- A long-latency producer: it frees and checks as every instruction does; `f` is its effect outside the warp
(R23, R26). -/
def State.produceThen (s : State) (W : LaneMask) (scalar : Bool) (us : List Use) (check : Gate)
    (regs : List (Nat × Storage)) (f : State → State) : Res :=
  match ((s.readGate scalar us).and check).and (s.destGate W us (regs.map Prod.fst)) with
  | .wait => .next s
  | .trap code detail => s.trap code detail
  | .go => s.deliverRegs (f s) W 0 us regs LaneFlags.zero

/-- A long-latency producer with no effect outside its warp; in proof mode its enabled flags trap as those of every
instruction (R23, R89). -/
def State.produce (s : State) (W : LaneMask) (scalar : Bool) (us : List Use) (check : Gate) (regs : List (Nat × Storage))
    (flags : LaneFlags) : Res :=
  let dests := regs.map Prod.fst
  if s.myLaunch.proof then s.operate W scalar us check dests { Effect.nothing with regs := regs, flags := flags }
  else
    match ((s.readGate scalar us).and check).and (s.destGate W us dests) with
    | .wait => .next s
    | .trap code detail => s.trap code detail
    | .go => s.deliverRegs s W 0 us regs flags

/-- A special-function operation: long-latency while no enable bit is set, else its warp is held until it is written
(R89). -/
def State.special (s : State) (W : LaneMask) (scalar : Bool) (us : List Use) (regs : List (Nat × Storage))
    (flags : LaneFlags) : Res :=
  if s.me.enables = 0 then s.produce W scalar us .go regs flags
  else s.operate W scalar us .go (regs.map Prod.fst) { Effect.nothing with regs := regs, flags := flags }

end Sys2Proof.Machine
end

