-- ==== Sys2Proof/Machine/IntArith.lean ====
section
/-! DEFINITION. Integer arithmetic, comparisons and their immediate forms (R104 to R110, R122). -/

namespace Sys2Proof.Machine

/-- An instruction of one value source and one vector destination (R103). -/
def State.alu1 (s : State) (g : Guard) (d : Nat) (a : Src) (f : Storage → Storage) : Res :=
  s.compute g a.scalar (a.uses 1) (Effect.vec d (f (s.me.src a)))

/-- An instruction of two value sources and one vector destination (R103). -/
def State.alu2 (s : State) (g : Guard) (d : Nat) (a b : Src) (f : Storage → Storage → Storage) : Res :=
  s.compute g (a.scalar || b.scalar) (a.uses 1 ++ b.uses 1) (Effect.vec d (f (s.me.src a) (s.me.src b)))

/-- An instruction of three value sources and one vector destination (R103). -/
def State.alu3 (s : State) (g : Guard) (d : Nat) (a b c : Src) (f : Storage → Storage → Storage → Storage) : Res :=
  s.compute g (a.scalar || b.scalar || c.scalar) (a.uses 1 ++ b.uses 1 ++ c.uses 1)
    (Effect.vec d (f (s.me.src a) (s.me.src b) (s.me.src c)))

/-- A comparison of two value sources into a predicate (R110). -/
def State.cmp2 (s : State) (g : Guard) (q : Nat) (a b : Src) (f : Word → Word → Bool) : Res :=
  s.compute g (a.scalar || b.scalar) (a.uses 1 ++ b.uses 1) (Effect.predicate q (predOf2 f (s.me.src a) (s.me.src b)))

/-- A comparison of a value source with a word (R110). -/
def State.cmpImm (s : State) (g : Guard) (q : Nat) (a : Src) (x : Word) (f : Word → Word → Bool) : Res :=
  s.compute g a.scalar (a.uses 1) (Effect.predicate q (predOf2 f (s.me.src a) (.u x)))

/-- A 64-bit instruction of two pairs (R18, R106). -/
def State.alu64 (s : State) (g : Guard) (d : Nat) (a b : VSrc) (f : Dword → Dword → Dword) : Res :=
  let w := s.me
  let lo (v : VSrc) := (w.vreg v.n).st
  let hi (v : VSrc) := (w.vreg (v.n + 1)).st
  let u := (lo a).isU && (hi a).isU && (lo b).isU && (hi b).isU
  let r := dmap u fun l => ⟨f (pairLane (lo a) (hi a) l) (pairLane (lo b) (hi b) l), 0⟩
  s.compute g false (a.uses 2 ++ b.uses 2) (Effect.pair d r.1 r.2.1)

/-- A sign-extended 16-bit immediate (R56). -/
def sext16 (i : Imm16) : Word := i.signExtend 32

/-- A zero-extended 16-bit immediate (R109). -/
def zext16 (i : Imm16) : Word := i.zeroExtend 32

/-- The high half of a signed product (R104). -/
def mulHigh (a b : Word) : Word := ((a.signExtend 64 * b.signExtend 64) >>> 32).truncate 32

/-- The high half of an unsigned product (R104). -/
def umulHigh (a b : Word) : Word := ((a.zeroExtend 64 * b.zeroExtend 64) >>> 32).truncate 32

/-- The signed minimum. -/
def smin32 (a b : Word) : Word := if a.slt b then a else b

/-- The signed maximum. -/
def smax32 (a b : Word) : Word := if a.slt b then b else a

/-- The unsigned minimum. -/
def umin32 (a b : Word) : Word := if a.ult b then a else b

/-- The unsigned maximum. -/
def umax32 (a b : Word) : Word := if a.ult b then b else a

/-- The absolute value; the least value is its own (R104). -/
def abs32 (a : Word) : Word := if a.slt 0 then -a else a

/-- The signed quotient (R105). -/
def quot (a b : Word) : Word := if b = 0 then BitVec.allOnes 32 else a.sdiv b

/-- The unsigned quotient (R105). -/
def uquot (a b : Word) : Word := if b = 0 then BitVec.allOnes 32 else a / b

/-- The signed remainder, with the sign of the dividend (R105). -/
def srem32 (a b : Word) : Word := if b = 0 then a else a.srem b

/-- The unsigned remainder (R105). -/
def urem32 (a b : Word) : Word := if b = 0 then a else a % b

/-- A condition on signed values (R110). -/
def icond (cc : ICond) (a b : Word) : Bool :=
  match cc with
  | .eq => a == b
  | .ne => a != b
  | .lt => a.slt b
  | .le => a.sle b
  | .gt => b.slt a
  | .ge => b.sle a

/-- A condition on unsigned values (R110). -/
def ucond (cc : ICond) (a b : Word) : Bool :=
  match cc with
  | .eq => a == b
  | .ne => a != b
  | .lt => a.ult b
  | .le => a.ule b
  | .gt => b.ult a
  | .ge => b.ule a

/-- A copied storage: a register tagged N is read as uniform zero (R17, R116). -/
def Storage.moved (st : Storage) : Storage :=
  match st with
  | .n => .u 0
  | st => st

/-- A base with a stride by lane (R122). -/
def Storage.mkAffine (a b : Storage) : Storage :=
  if a.isU && b.isU then Storage.ofAffine (a.lane 0) (b.lane 0)
  else .g (Lanes.of fun l => a.lane l + BitVec.ofNat 32 l.val * b.lane l)

/-- IADD (R104). -/
def execIadd (g : Guard) (d : Nat) (a b : Src) (s : State) : Res := s.alu2 g d a b (Storage.sum (· + ·))
/-- ISUB (R104). -/
def execIsub (g : Guard) (d : Nat) (a b : Src) (s : State) : Res := s.alu2 g d a b (Storage.sum (· - ·))
/-- IMUL (R104). -/
def execImul (g : Guard) (d : Nat) (a b : Src) (s : State) : Res := s.alu2 g d a b Storage.product
/-- IMULH (R104). -/
def execImulh (g : Guard) (d : Nat) (a b : Src) (s : State) : Res := s.alu2 g d a b (Storage.map2 mulHigh)
/-- UMULH (R104). -/
def execUmulh (g : Guard) (d : Nat) (a b : Src) (s : State) : Res := s.alu2 g d a b (Storage.map2 umulHigh)
/-- IMIN (R104). -/
def execImin (g : Guard) (d : Nat) (a b : Src) (s : State) : Res := s.alu2 g d a b (Storage.map2 smin32)
/-- IMAX (R104). -/
def execImax (g : Guard) (d : Nat) (a b : Src) (s : State) : Res := s.alu2 g d a b (Storage.map2 smax32)
/-- UMIN (R104). -/
def execUmin (g : Guard) (d : Nat) (a b : Src) (s : State) : Res := s.alu2 g d a b (Storage.map2 umin32)
/-- UMAX (R104). -/
def execUmax (g : Guard) (d : Nat) (a b : Src) (s : State) : Res := s.alu2 g d a b (Storage.map2 umax32)
/-- IABS (R104). -/
def execIabs (g : Guard) (d : Nat) (a : Src) (s : State) : Res := s.alu1 g d a (Storage.map1 abs32)
/-- INEG (R104). -/
def execIneg (g : Guard) (d : Nat) (a : Src) (s : State) : Res := s.alu1 g d a Storage.negate
/-- ICMP (R110). -/
def execIcmp (g : Guard) (q : Nat) (cc : ICond) (a b : Src) (s : State) : Res := s.cmp2 g q a b (icond cc)
/-- UCMP (R110). -/
def execUcmp (g : Guard) (q : Nat) (cc : ICond) (a b : Src) (s : State) : Res := s.cmp2 g q a b (ucond cc)
/-- IADD64 (R106). -/
def execIadd64 (g : Guard) (d : Nat) (a b : VSrc) (s : State) : Res := s.alu64 g d a b (· + ·)
/-- ISUB64 (R106). -/
def execIsub64 (g : Guard) (d : Nat) (a b : VSrc) (s : State) : Res := s.alu64 g d a b (· - ·)
/-- IMUL64 (R106). -/
def execImul64 (g : Guard) (d : Nat) (a b : VSrc) (s : State) : Res := s.alu64 g d a b (· * ·)
/-- LEA (R107). -/
def execLea (g : Guard) (d sh : Nat) (a b : Src) (s : State) : Res :=
  s.alu2 g d a b fun x y => Storage.sum (· + ·) x (y.shift (.u (BitVec.ofNat 32 sh)))
/-- IDIV (R105). -/
def execIdiv (g : Guard) (d : Nat) (a b : Src) (s : State) : Res := s.alu2 g d a b (Storage.map2 quot)
/-- UDIV (R105). -/
def execUdiv (g : Guard) (d : Nat) (a b : Src) (s : State) : Res := s.alu2 g d a b (Storage.map2 uquot)
/-- IREM (R105). -/
def execIrem (g : Guard) (d : Nat) (a b : Src) (s : State) : Res := s.alu2 g d a b (Storage.map2 srem32)
/-- UREM (R105). -/
def execUrem (g : Guard) (d : Nat) (a b : Src) (s : State) : Res := s.alu2 g d a b (Storage.map2 urem32)
/-- IADDI (R109). -/
def execIaddi (g : Guard) (d : Nat) (a : Src) (imm : Imm16) (s : State) : Res :=
  s.alu1 g d a fun x => Storage.sum (· + ·) x (.u (sext16 imm))
/-- IMULI (R109). -/
def execImuli (g : Guard) (d : Nat) (a : Src) (imm : Imm16) (s : State) : Res :=
  s.alu1 g d a fun x => x.product (.u (sext16 imm))
/-- ICMPI (R110). -/
def execIcmpi (g : Guard) (q : Nat) (cc : ICond) (a : Src) (imm : Imm16) (s : State) : Res :=
  s.cmpImm g q a (sext16 imm) (icond cc)
/-- UCMPI (R110). -/
def execUcmpi (g : Guard) (q : Nat) (cc : ICond) (a : Src) (imm : Imm16) (s : State) : Res :=
  s.cmpImm g q a (zext16 imm) (ucond cc)
/-- MOVI (R109). -/
def execMovi (g : Guard) (d : Nat) (imm : Imm16) (s : State) : Res :=
  s.compute g false [] (Effect.vec d (.u (sext16 imm)))
/-- LEAI (R107). -/
def execLeai (g : Guard) (d sh : Nat) (a : Src) (imm : Imm16) (s : State) : Res :=
  s.alu1 g d a fun x => Storage.sum (· + ·) (x.shift (.u (BitVec.ofNat 32 sh))) (.u (sext16 imm))
/-- MOVI32 (R109). -/
def execMovi32 (g : Guard) (d : Nat) (imm : Word) (s : State) : Res := s.compute g false [] (Effect.vec d (.u imm))
/-- IADDI32 (R109). -/
def execIaddi32 (g : Guard) (d : Nat) (a : Src) (imm : Word) (s : State) : Res :=
  s.alu1 g d a fun x => Storage.sum (· + ·) x (.u imm)
/-- IMULI32 (R109). -/
def execImuli32 (g : Guard) (d : Nat) (a : Src) (imm : Word) (s : State) : Res :=
  s.alu1 g d a fun x => x.product (.u imm)
/-- MKAFF (R122). -/
def execMkaff (g : Guard) (d : Nat) (a b : Src) (s : State) : Res := s.alu2 g d a b Storage.mkAffine
/-- IMAD (R108). -/
def execImad (g : Guard) (d : Nat) (a b c : Src) (s : State) : Res :=
  s.alu3 g d a b c fun x y z => Storage.sum (· + ·) (x.product y) z

end Sys2Proof.Machine
end

