-- ==== Sys2Proof/Machine/Logic.lean ====
section
/-! DEFINITION. Logic, shifts, bit fields, moves, predicates and shape instructions (R111 to R121). -/

namespace Sys2Proof.Machine

/-- Rotation to the left by B[4:0] (R111). -/
def rol32 (a b : Word) : Word := a.rotateLeft (b.toNat % 32)

/-- Rotation to the right by B[4:0] (R111). -/
def ror32 (a b : Word) : Word := a.rotateRight (b.toNat % 32)

/-- One bits of a word (R111). -/
def popc32 (a : Word) : Word := BitVec.ofNat 32 ((List.range 32).filter fun i => a.getLsbD i).length

/-- Leading zero bits (R111). -/
def clz32 (a : Word) : Word := BitVec.ofNat 32 ((List.range 32).takeWhile fun i => !a.getLsbD (31 - i)).length

/-- Trailing zero bits (R111). -/
def ctz32 (a : Word) : Word := BitVec.ofNat 32 ((List.range 32).takeWhile fun i => !a.getLsbD i).length

/-- Bits in reverse order (R111). -/
def brev32 (a : Word) : Word := BitVec.ofBoolListLE ((List.range 32).map fun i => a.getLsbD (31 - i))

/-- The mask of `len` ones from `pos` (R114). -/
def fieldMask (pos len : Nat) : Word := BitVec.ofNat 32 ((2 ^ len - 1) * 2 ^ pos)

/-- BFE's extract (R114). -/
def extractField (sgn : Bool) (pos len : Nat) (a : Word) : Word :=
  let x := a.toNat / 2 ^ pos % 2 ^ len
  BitVec.ofInt 32 (intOf sgn len x)

/-- BFI's insert (R114). -/
def insertField (pos len : Nat) (a b : Word) : Word :=
  let m := fieldMask pos len
  (a &&& ~~~m) ||| ((b <<< pos) &&& m)

/-- BITFN's function of three operands (R112). -/
def bitFunction (t1 t0 : Nat) (a b c : Word) : Word :=
  BitVec.ofBoolListLE ((List.range 32).map fun i =>
    bitOf (if c.getLsbD i then t1 else t0) (2 * (a.getLsbD i).toNat + (b.getLsbD i).toNat))

/-- One byte of BYTEX (R115): the code, the eight source bytes as a number, and the byte below. -/
def bytexByte (code y prev : Nat) : Nat :=
  if code < 8 then y / 2 ^ (8 * code) % 256
  else if code = 9 then 255
  else if code = 10 then (if 128 ≤ prev then 255 else 0)
  else 0

/-- BYTEX (R115). -/
def byteExchange (sel : Imm16) (a b : Word) : Word :=
  let y := a.toNat + b.toNat * 2 ^ 32
  let c (i : Nat) := sel.toNat / 2 ^ (4 * i) % 16
  let r0 := bytexByte (c 0) y 0
  let r1 := bytexByte (c 1) y r0
  let r2 := bytexByte (c 2) y r1
  let r3 := bytexByte (c 3) y r2
  BitVec.ofNat 32 (r0 + 2 ^ 8 * r1 + 2 ^ 16 * r2 + 2 ^ 24 * r3)

/-- PLOP's table (R118). -/
def plopTable (op : PlopOp) : Nat :=
  match op with
  | .and => 0x8
  | .or => 0xE
  | .xor => 0x6
  | .andn => 0x4
  | .nand => 0x7
  | .nor => 0x1
  | .xnor => 0x9
  | .mov => 0xC
  | .not => 0x3

/-- AND (R111). -/
def execAnd (g : Guard) (d : Nat) (a b : Src) (s : State) : Res := s.alu2 g d a b (Storage.map2 (· &&& ·))
/-- OR (R111). -/
def execOr (g : Guard) (d : Nat) (a b : Src) (s : State) : Res := s.alu2 g d a b (Storage.map2 (· ||| ·))
/-- XOR (R111). -/
def execXor (g : Guard) (d : Nat) (a b : Src) (s : State) : Res := s.alu2 g d a b (Storage.map2 (· ^^^ ·))
/-- ANDN (R111). -/
def execAndn (g : Guard) (d : Nat) (a b : Src) (s : State) : Res := s.alu2 g d a b (Storage.map2 fun x y => x &&& ~~~y)
/-- NOT (R111). -/
def execNot (g : Guard) (d : Nat) (a : Src) (s : State) : Res := s.alu1 g d a (Storage.map1 (~~~ ·))
/-- SHL (R113). -/
def execShl (g : Guard) (d : Nat) (a b : Src) (s : State) : Res := s.alu2 g d a b Storage.shift
/-- SHR (R113). -/
def execShr (g : Guard) (d : Nat) (a b : Src) (s : State) : Res := s.alu2 g d a b (Storage.map2 shiftRight)
/-- SAR (R113). -/
def execSar (g : Guard) (d : Nat) (a b : Src) (s : State) : Res := s.alu2 g d a b (Storage.map2 shiftArith)
/-- ROL (R111). -/
def execRol (g : Guard) (d : Nat) (a b : Src) (s : State) : Res := s.alu2 g d a b (Storage.map2 rol32)
/-- ROR (R111). -/
def execRor (g : Guard) (d : Nat) (a b : Src) (s : State) : Res := s.alu2 g d a b (Storage.map2 ror32)
/-- POPC (R111). -/
def execPopc (g : Guard) (d : Nat) (a : Src) (s : State) : Res := s.alu1 g d a (Storage.map1 popc32)
/-- CLZ (R111). -/
def execClz (g : Guard) (d : Nat) (a : Src) (s : State) : Res := s.alu1 g d a (Storage.map1 clz32)
/-- CTZ (R111). -/
def execCtz (g : Guard) (d : Nat) (a : Src) (s : State) : Res := s.alu1 g d a (Storage.map1 ctz32)
/-- BREV (R111). -/
def execBrev (g : Guard) (d : Nat) (a : Src) (s : State) : Res := s.alu1 g d a (Storage.map1 brev32)
/-- ANDI (R109). -/
def execAndi (g : Guard) (d : Nat) (a : Src) (imm : Imm16) (s : State) : Res :=
  s.alu1 g d a (Storage.map1 (· &&& zext16 imm))
/-- ORI (R109). -/
def execOri (g : Guard) (d : Nat) (a : Src) (imm : Imm16) (s : State) : Res :=
  s.alu1 g d a (Storage.map1 (· ||| zext16 imm))
/-- XORI (R109). -/
def execXori (g : Guard) (d : Nat) (a : Src) (imm : Imm16) (s : State) : Res :=
  s.alu1 g d a (Storage.map1 (· ^^^ zext16 imm))
/-- SHLI (R109). -/
def execShli (g : Guard) (d : Nat) (a : Src) (imm : Imm16) (s : State) : Res :=
  s.alu1 g d a fun x => x.shift (.u (zext16 imm))
/-- SHRI (R109). -/
def execShri (g : Guard) (d : Nat) (a : Src) (imm : Imm16) (s : State) : Res :=
  s.alu1 g d a (Storage.map1 fun x => shiftRight x (zext16 imm))
/-- SARI (R109). -/
def execSari (g : Guard) (d : Nat) (a : Src) (imm : Imm16) (s : State) : Res :=
  s.alu1 g d a (Storage.map1 fun x => shiftArith x (zext16 imm))
/-- BFE (R114). -/
def execBfe (g : Guard) (d : Nat) (sgn : Bool) (a : Src) (pos len : Nat) (s : State) : Res :=
  s.alu1 g d a (Storage.map1 (extractField sgn pos len))
/-- BFI (R114). -/
def execBfi (g : Guard) (d : Nat) (a b : Src) (pos len : Nat) (s : State) : Res :=
  s.alu2 g d a b (Storage.map2 (insertField pos len))
/-- BITFN (R112). -/
def execBitfn (g : Guard) (d t1 t0 : Nat) (a b c : Src) (s : State) : Res :=
  s.alu3 g d a b c (Storage.map3 (bitFunction t1 t0))
/-- BYTEX (R115). -/
def execBytex (g : Guard) (d : Nat) (codes : Imm16) (a b : Src) (s : State) : Res :=
  s.alu2 g d a b (Storage.map2 (byteExchange codes))
/-- ANDI32 (R109). -/
def execAndi32 (g : Guard) (d : Nat) (a : Src) (imm : Word) (s : State) : Res :=
  s.alu1 g d a (Storage.map1 (· &&& imm))
/-- ORI32 (R109). -/
def execOri32 (g : Guard) (d : Nat) (a : Src) (imm : Word) (s : State) : Res :=
  s.alu1 g d a (Storage.map1 (· ||| imm))
/-- XORI32 (R109). -/
def execXori32 (g : Guard) (d : Nat) (a : Src) (imm : Word) (s : State) : Res :=
  s.alu1 g d a (Storage.map1 (· ^^^ imm))
/-- MOV (R116). -/
def execMov (g : Guard) (d : Nat) (a : Src) (s : State) : Res := s.alu1 g d a Storage.moved

/-- SEL's result by the select row of R91. -/
def Storage.select (uniform : Bool) (p : LaneMask) (a b : Storage) : Storage :=
  if uniform then (if p.getLsbD 0 then a.moved else b.moved)
  else .g (Lanes.of fun l => if p.getLsbD l.val then a.lane l else b.lane l)

/-- SEL (R117). -/
def execSel (g : Guard) (d : Nat) (a b : Src) (q : Nat) (neg : Bool) (s : State) : Res :=
  s.alu2 g d a b (Storage.select (s.me.predUniform q) (s.me.guard ⟨q, neg⟩))

/-- PLOP (R118). -/
def execPlop (g : Guard) (q : Nat) (op : PlopOp) (qa qb : Nat) (s : State) : Res :=
  let a := s.me.pred qa
  let b := s.me.pred qb
  s.compute g false [] (Effect.predicate q
    ⟨LaneMask.of fun l => bitOf (plopTable op) (2 * (a.getLsbD l.val).toNat + (b.getLsbD l.val).toNat),
      s.me.predUniform qa && s.me.predUniform qb⟩)

/-- P2V (R119). -/
def execP2v (g : Guard) (d : Nat) (m : Bool) (qa : Nat) (s : State) : Res :=
  let one : Word := if m then BitVec.allOnes 32 else 1
  let p := s.me.pred qa
  s.compute g false [] (Effect.vec d
    (if s.me.predUniform qa then .u (if p.getLsbD 0 then one else 0)
     else .g (Lanes.of fun l => if p.getLsbD l.val then one else 0)))

/-- V2P (R119). -/
def execV2p (g : Guard) (q : Nat) (a : Src) (s : State) : Res := s.cmpImm g q a 0 (· != ·)

/-- A result written at once, whether or not its destination is empty: `SHAPE.pend` never waits on a register (R120). The
declared peak holds (R26), and a general slot that is not there is waited for as R20 has it (log entry 89). -/
def State.computeNow (s : State) (W : LaneMask) (e : Effect) : Res :=
  match s.me.peakGate s.myLaunch.regs W (e.regs.map Prod.fst) with
  | .wait => .next s
  | .trap code detail => s.trap code detail
  | .go =>
    let w := s.result W [] e
    if s.roomFor w [] then .next (s.setMe w).advance else .next s

/-- SHAPE (R120): the tag, or the pending mask without a wait. -/
def execShape (g : Guard) (d : Nat) (pend : Bool) (a : VSrc) (s : State) : Res :=
  let r := s.me.vreg a.n
  if pend then s.computeNow (s.wset g) (Effect.vec d (.u r.pend))
  else s.compute g false (a.uses 1) (Effect.vec d (.u (BitVec.ofNat 32 r.st.tag)))

/-- EXPAND (R121). -/
def execExpand (g : Guard) (d : Nat) (a : VSrc) (s : State) : Res :=
  s.compute g false (a.uses 1) { Effect.vec d (.g (s.me.vreg a.n).st.lanes) with expand := true }

end Sys2Proof.Machine
end

