-- ==== Sys2Proof/Machine/Real.lean ====
section
/-! DEFINITION. Enclosures of real functions by rationals: sine, cosine, exponential, logarithm, square root. Fixed
point with 220 fraction bits; every bound lies within 2 to the −200 of the exact value, and small arguments keep their
relative precision. The approximate special functions of R148 are bounded by them. -/

namespace Sys2Proof.Machine

/-- A closed interval of rationals. -/
structure Enc where
  lo : Rat
  hi : Rat
  deriving DecidableEq, Repr

/-- Fraction bits of the fixed-point evaluation. -/
def fixBits : Nat := 220

/-- ⌊π × 2⁵¹²⌋. -/
def piFix : Nat :=
  42121870893450636219446821484559388105255997313489254605594685088103805782276098919793885372247726346443771296916333485327292916625599161542353774203832599

/-- ⌊ln 2 × 2²⁵⁶⌋. -/
def ln2Fix : Nat :=
  80260960185991308862233904206310070533990667611589946606122867505419956976171

/-- π from below, within 2 to the −512. -/
def piLo : Rat := mkRat piFix (2 ^ 512)

/-- ln 2 from below, within 2 to the −256. -/
def ln2Lo : Rat := mkRat ln2Fix (2 ^ 256)

/-- The fixed-point number nearest below a rational. -/
def toFix (q : Rat) : Int := (q * pow2 fixBits).floor

/-- The interval of a fixed-point result known to within 256 units of the last place. -/
def Enc.ofFix (x : Int) : Enc := ⟨((x - 256 : Int) : Rat) / pow2 fixBits, ((x + 256 : Int) : Rat) / pow2 fixBits⟩

/-- Product of fixed-point numbers. -/
def mulFix (x y : Int) : Int := x * y / 2 ^ fixBits

/-- The sum of the series whose next term is `t · x² / ((2j + c)(2j + c + 1))` with alternating sign. -/
def trigSeries (x2 : Int) (c : Int) : Nat → Int → Int → Int
  | 0, _, _ => 0
  | n + 1, j, t => t - trigSeries x2 c n (j + 1) (mulFix t x2 / ((2 * j + c) * (2 * j + c + 1)))

/-- sin of a fixed-point argument of magnitude below 2. -/
def sinFix (x : Int) : Int := trigSeries (mulFix x x) 2 40 0 x

/-- cos of a fixed-point argument of magnitude below 2. -/
def cosFix (x : Int) : Int := trigSeries (mulFix x x) 1 40 0 (2 ^ fixBits)

/-- The sum of t + t·x/k + t·x²/(k(k+1)) + … -/
def expSeries (x : Int) : Nat → Int → Int → Int
  | 0, _, _ => 0
  | n + 1, k, t => t + expSeries x n (k + 1) (mulFix t x / k)

/-- The sum of t/k + t·z²/(k+2) + … -/
def atanhSeries (z2 : Int) : Nat → Int → Int → Int
  | 0, _, _ => 0
  | n + 1, k, t => t / k + atanhSeries z2 n (k + 2) (mulFix t z2)

/-- The quarter turns nearest to `x`, and the fixed-point rest. -/
def reduceTurns (x : Rat) : Int × Int :=
  let k := (x * 2 / piLo + 1 / 2).floor
  (k, toFix (x - (k : Rat) * piLo / 2))

/-- An enclosure of sin x; an exact series for a small argument. -/
def sinEnc (x : Rat) : Enc :=
  if -pow2 (-20) < x && x < pow2 (-20) then
    let a := x - x * x * x / 6
    let b := a + x * x * x * x * x / 120
    if a ≤ b then ⟨a, b⟩ else ⟨b, a⟩
  else
    let r := reduceTurns x
    match (r.1 % 4).toNat with
    | 0 => .ofFix (sinFix r.2)
    | 1 => .ofFix (cosFix r.2)
    | 2 => .ofFix (-sinFix r.2)
    | _ => .ofFix (-cosFix r.2)

/-- An enclosure of cos x. -/
def cosEnc (x : Rat) : Enc :=
  if -pow2 (-20) < x && x < pow2 (-20) then ⟨1 - x * x / 2, 1 - x * x / 2 + x * x * x * x / 24⟩
  else
    let r := reduceTurns x
    match (r.1 % 4).toNat with
    | 0 => .ofFix (cosFix r.2)
    | 1 => .ofFix (-sinFix r.2)
    | 2 => .ofFix (-cosFix r.2)
    | _ => .ofFix (sinFix r.2)

/-- An enclosure of e to the x, relative to its magnitude; x at most 2¹⁶ in magnitude. -/
def expEnc (x : Rat) : Enc :=
  let n := (x / ln2Lo).floor
  let e := Enc.ofFix (expSeries (toFix (x - (n : Rat) * ln2Lo)) 70 1 (2 ^ fixBits))
  ⟨e.lo * pow2 n, e.hi * pow2 n⟩

/-- An enclosure of 2 to the x. -/
def exp2Enc (x : Rat) : Enc :=
  let n := x.floor
  let e := Enc.ofFix (expSeries (toFix ((x - n) * ln2Lo)) 70 1 (2 ^ fixBits))
  ⟨e.lo * pow2 n, e.hi * pow2 n⟩

/-- An enclosure of ln x for x > 0. -/
def lnEnc (x : Rat) : Enc :=
  let n := ilog2 x
  let m := x / pow2 n
  let z := toFix ((m - 1) / (m + 1))
  .ofFix (2 * atanhSeries (mulFix z z) 75 1 z + toFix ((n : Rat) * ln2Lo))

/-- An enclosure of −ln (1 − x) for 0 < x < 1; an exact series for a small argument. -/
def absorbanceEnc (x : Rat) : Enc :=
  if x < pow2 (-20) then
    let s := x + x * x / 2 + x * x * x / 3 + x * x * x * x / 4 + x * x * x * x * x / 5
    ⟨s, s + x * x * x * x * x * x⟩
  else
    let e := lnEnc (1 - x)
    ⟨-e.hi, -e.lo⟩

/-- The rational √q to 200 significant bits, q ≥ 0. -/
def sqrtRat (q : Rat) : Rat :=
  if q ≤ 0 then 0
  else
    let k : Int := 200 - ilog2 q / 2
    (isqrt (q * pow2 (2 * k)).floor.toNat : Rat) * pow2 (-k)

/-- log₂ x as an enclosure. -/
def log2Enc (x : Rat) : Enc :=
  let e := lnEnc x
  let a := e.lo / ln2Lo
  let b := e.hi / ln2Lo
  ⟨(if a ≤ b then a else b) - pow2 (-200), (if a ≤ b then b else a) + pow2 (-200)⟩

/-- tanh x as an enclosure, |x| at most 64. -/
def tanhEnc (x : Rat) : Enc :=
  let e := expEnc (2 * x)
  ⟨1 - 2 / (e.lo + 1), 1 - 2 / (e.hi + 1)⟩

/-- Is a finite value within `bound` of every point of an enclosure, so of the exact result? -/
def Enc.near (e : Enc) (bound d : Rat) : Bool := decide (e.hi - bound ≤ d) && decide (d ≤ e.lo + bound)

/-- k ulp of a result enclosed by `e` (R148). -/
def ulpBound (k : Rat) (e : Enc) : Rat :=
  let m := if 0 < e.lo then e.hi else if e.hi < 0 then -e.lo else 0
  let x : Int := if m = 0 then -126 else max (ilog2 m) (-126)
  k * pow2 (x - 23)

/-- Is a rational below the smallest normal number of FP32 in magnitude? -/
def tiny32 (q : Rat) : Bool := decide (-fp32.minNormal < q) && decide (q < fp32.minNormal)

/-- The flags of an inexact delivered value of a nonzero result enclosed by `e`: NX; UF where the value is nonzero and below
the smallest normal number (R148), and where it is zero although the exact result is nonzero and that small (R82). -/
def inexactFlags (e : Enc) (v : Val) : Flags :=
  match v with
  | .num q => flagNX ||| flagIf (tiny32 q) flagUF
  | .zero _ => flagNX ||| flagIf (tiny32 e.lo && tiny32 e.hi) flagUF
  | _ => flagOF ||| flagNX

/-- The delivered value of an approximate function with code `f` on operand `a`: the implementation's own value where it
keeps the bound `k` ulp or `ab` (R148, R149), else the nearest one. -/
def approx (f : Nat) (a : Word) (e : Enc) (k ab : Rat) (limit : Bool) : Rounded :=
  let u := ulpBound k e
  let bound := if u < ab then ab else u
  let c := (Config.special f a).toNat
  let v := fp32.decode c
  let ok := v.isFinite && e.near bound v.toRat && (!limit || (decide (-1 ≤ v.toRat) && decide (v.toRat ≤ 1)))
  if ok then ⟨c, inexactFlags e v⟩
  else
    let r := fp32.round .rn true false (.ofRat false ((e.lo + e.hi) / 2))
    ⟨r.bits, inexactFlags e (fp32.decode r.bits)⟩

/-- An exact FP32 result. -/
def exact32 (v : Val) (fl : Flags) : Rounded := ⟨(fp32.round .rn true false v).bits, fl⟩

/-- An exact nonzero FP32 result: UF alone where it lies below the smallest normal number (R148). -/
def exactNum32 (q : Rat) : Rounded := exact32 (.num q) (flagIf (tiny32 q) flagUF)

/-- Is a positive rational a power of two? -/
def isPow2 (q : Rat) : Bool := q == pow2 (ilog2 q)

/-- Is a rational a value of FP32? -/
def representable32 (q : Rat) : Bool := (fp32.round .rn true false (.ofRat false q)).flags == 0

/-- FRCP (R148). -/
def frcp (a : Word) : Rounded :=
  match fp32.decode a.toNat with
  | .nan s => ⟨fp32.nan, flagIf s flagNV⟩
  | .inf n => exact32 (.zero n) 0
  | .zero n => exact32 (.inf n) flagDZ
  | .num q =>
    let r := 1 / q
    let m := if q < 0 then -r else r
    if isPow2 m && representable32 r then exactNum32 r
    else if (fp32.round .rn true false (.num r)).flags &&& flagOF != 0 then exact32 (.inf (decide (q < 0))) (flagOF ||| flagNX)
    else approx 0 a ⟨r, r⟩ 1 0 false

/-- FRSQ (R148). -/
def frsq (a : Word) : Rounded :=
  match fp32.decode a.toNat with
  | .nan s => ⟨fp32.nan, flagIf s flagNV⟩
  | .inf n => if n then ⟨fp32.nan, flagNV⟩ else exact32 (.zero false) 0
  | .zero n => exact32 (.inf n) flagDZ
  | .num q =>
    if q < 0 then ⟨fp32.nan, flagNV⟩
    else if isPow2 q && ilog2 q % 2 == 0 then exact32 (.num (pow2 (-(ilog2 q / 2)))) 0
    else
      let r := sqrtRat (1 / q)
      approx 1 a ⟨r, r + r * pow2 (-190)⟩ 1 0 false

/-- FEX2 (R148). -/
def fex2 (a : Word) : Rounded :=
  match fp32.decode a.toNat with
  | .nan s => ⟨fp32.nan, flagIf s flagNV⟩
  | .inf n => if n then exact32 (.zero false) 0 else exact32 (.inf false) 0
  | .zero _ => exact32 (.num 1) 0
  | .num q =>
    if 128 ≤ q then exact32 (.inf false) (flagOF ||| flagNX)
    else if q < -400 then approx 2 a ⟨0, pow2 (-400)⟩ 2 0 false
    else if q.den == 1 && representable32 (pow2 q.floor) then exactNum32 (pow2 q.floor)
    else approx 2 a (exp2Enc q) 2 0 false

/-- FLG2 (R148). -/
def flg2 (a : Word) : Rounded :=
  match fp32.decode a.toNat with
  | .nan s => ⟨fp32.nan, flagIf s flagNV⟩
  | .inf n => if n then ⟨fp32.nan, flagNV⟩ else exact32 (.inf false) 0
  | .zero _ => exact32 (.inf true) flagDZ
  | .num q =>
    if q < 0 then ⟨fp32.nan, flagNV⟩
    else if isPow2 q then exact32 (.ofRat false (ilog2 q : Rat)) 0
    else approx 3 a (log2Enc q) 2 (pow2 (-22)) false

/-- FSIN, or FCOS (R148): the absolute bound holds up to 2¹⁶, beyond it the result lies in [−1, 1]. -/
def ftrig (f : Nat) (cosine : Bool) (a : Word) : Rounded :=
  match fp32.decode a.toNat with
  | .nan s => ⟨fp32.nan, flagIf s flagNV⟩
  | .inf _ => ⟨fp32.nan, flagNV⟩
  | .zero n => if cosine then exact32 (.num 1) 0 else exact32 (.zero n) 0
  | .num q =>
    if decide (-65536 ≤ q) && decide (q ≤ 65536) then
      approx f a (if cosine then cosEnc q else sinEnc q) 0 (pow2 (-21)) false
    else approx f a ⟨-1, 1⟩ 0 2 true

/-- FTANH (R148). -/
def ftanh (a : Word) : Rounded :=
  match fp32.decode a.toNat with
  | .nan s => ⟨fp32.nan, flagIf s flagNV⟩
  | .inf n => exact32 (.num (if n then -1 else 1)) 0
  | .zero n => exact32 (.zero n) 0
  | .num q =>
    let c : Rat := if q < -64 then -64 else if 64 < q then 64 else q
    approx 6 a (tanhEnc c) 2 (pow2 (-22)) true

end Sys2Proof.Machine
end

