-- ==== Sys2Proof/Machine/Float.lean ====
section
/-! DEFINITION. FP32 and FP64 arithmetic and the special functions (R139 to R150). -/

namespace Sys2Proof.Machine

/-- The value of an FP32 word. -/
def valF (x : Word) : Val := fp32.decode x.toNat

/-- The value of an FP64 pair. -/
def valD (x : Dword) : Val := fp64.decode x.toNat

/-- An exact result rounded once to FP32. -/
def outF (rm : Rm) (e : Exact) : FOut := (e.round fp32 rm false).out

/-- An exact result rounded once to FP64. -/
def outD (rm : Rm) (e : Exact) : DOut := (e.round fp64 rm false).out64

/-- An FP32 result of one source with flags. -/
def State.float1 (s : State) (g : Guard) (d : Nat) (a : Src) (f : Word → FOut) : Res :=
  let x := s.me.src a
  let r := fmap x.isU fun l => f (x.lane l)
  s.compute g a.scalar (a.uses 1) ((Effect.vec d r.1).withFlags r.2)

/-- An FP32 result of two sources with flags. -/
def State.float2 (s : State) (g : Guard) (d : Nat) (a b : Src) (f : Word → Word → FOut) : Res :=
  let x := s.me.src a
  let y := s.me.src b
  let r := fmap (x.isU && y.isU) fun l => f (x.lane l) (y.lane l)
  s.compute g (a.scalar || b.scalar) (a.uses 1 ++ b.uses 1) ((Effect.vec d r.1).withFlags r.2)

/-- An FP32 result of three sources with flags. -/
def State.float3 (s : State) (g : Guard) (d : Nat) (a b c : Src) (f : Word → Word → Word → FOut) : Res :=
  let x := s.me.src a
  let y := s.me.src b
  let z := s.me.src c
  let r := fmap (x.isU && y.isU && z.isU) fun l => f (x.lane l) (y.lane l) (z.lane l)
  s.compute g (a.scalar || b.scalar || c.scalar) (a.uses 1 ++ b.uses 1 ++ c.uses 1) ((Effect.vec d r.1).withFlags r.2)

/-- A predicate result of two sources with flags. -/
def State.fcmp2 (s : State) (g : Guard) (q : Nat) (a b : Src) (f : Word → Word → Bool × Flags) : Res :=
  let x := s.me.src a
  let y := s.me.src b
  let r := pmap (x.isU && y.isU) fun l => f (x.lane l) (y.lane l)
  s.compute g (a.scalar || b.scalar) (a.uses 1 ++ b.uses 1) ((Effect.predicate q r.1).withFlags r.2)

/-- A lane of the pair that a vector source names. -/
def Warp.pair (w : Warp) (a : VSrc) (l : Fin 32) : Dword := pairLane (w.vreg a.n).st (w.vreg (a.n + 1)).st l

/-- Do both halves of a pair count as U? -/
def Warp.pairU (w : Warp) (a : VSrc) : Bool := (w.vreg a.n).st.isU && (w.vreg (a.n + 1)).st.isU

/-- An FP64 result of one pair with flags. -/
def State.double1 (s : State) (g : Guard) (d : Nat) (a : VSrc) (f : Dword → DOut) : Res :=
  let w := s.me
  let r := dmap (w.pairU a) fun l => f (w.pair a l)
  s.compute g false (a.uses 2) ((Effect.pair d r.1 r.2.1).withFlags r.2.2)

/-- An FP64 result of two pairs with flags. -/
def State.double2 (s : State) (g : Guard) (d : Nat) (a b : VSrc) (f : Dword → Dword → DOut) : Res :=
  let w := s.me
  let r := dmap (w.pairU a && w.pairU b) fun l => f (w.pair a l) (w.pair b l)
  s.compute g false (a.uses 2 ++ b.uses 2) ((Effect.pair d r.1 r.2.1).withFlags r.2.2)

/-- A special-function operation on FP32 (R89, R140). -/
def State.sfu1 (s : State) (g : Guard) (d : Nat) (a : Src) (f : Word → FOut) : Res :=
  let x := s.me.src a
  let r := fmap x.isU fun l => f (x.lane l)
  s.special (s.wset g) a.scalar (a.uses 1) [(d, r.1)] r.2

/-- FADD (R141). -/
def execFadd (g : Guard) (d : Nat) (rm : Rm) (a b : Src) (s : State) : Res :=
  s.float2 g d a b fun x y => outF rm (Val.add rm (valF x) (valF y))
/-- FSUB (R141). -/
def execFsub (g : Guard) (d : Nat) (rm : Rm) (a b : Src) (s : State) : Res :=
  s.float2 g d a b fun x y => outF rm (Val.add rm (valF x) (valF y).negate)
/-- FMUL (R141). -/
def execFmul (g : Guard) (d : Nat) (rm : Rm) (a b : Src) (s : State) : Res :=
  s.float2 g d a b fun x y => outF rm (Val.mul (valF x) (valF y))
/-- FDIV (R141): a special-function operation. -/
def execFdiv (g : Guard) (d : Nat) (rm : Rm) (a b : Src) (s : State) : Res :=
  let x := s.me.src a
  let y := s.me.src b
  let r := fmap (x.isU && y.isU) fun l => outF rm (Val.div (valF (x.lane l)) (valF (y.lane l)))
  s.special (s.wset g) (a.scalar || b.scalar) (a.uses 1 ++ b.uses 1) [(d, r.1)] r.2
/-- FADDI32 (R141). -/
def execFaddi32 (g : Guard) (d : Nat) (rm : Rm) (a : Src) (imm : Word) (s : State) : Res :=
  s.float1 g d a fun x => outF rm (Val.add rm (valF x) (valF imm))
/-- FMULI32 (R141). -/
def execFmuli32 (g : Guard) (d : Nat) (rm : Rm) (a : Src) (imm : Word) (s : State) : Res :=
  s.float1 g d a fun x => outF rm (Val.mul (valF x) (valF imm))
/-- FFMA (R142). -/
def execFfma (g : Guard) (d : Nat) (rm : Rm) (a b c : Src) (s : State) : Res :=
  s.float3 g d a b c fun x y z => outF rm (Val.fma rm (valF x) (valF y) (valF z))
/-- FMIN (R143). -/
def execFmin (g : Guard) (d : Nat) (a b : Src) (s : State) : Res :=
  s.float2 g d a b fun x y => (fp32.minmax false false x.toNat y.toNat).out
/-- FMAX (R143). -/
def execFmax (g : Guard) (d : Nat) (a b : Src) (s : State) : Res :=
  s.float2 g d a b fun x y => (fp32.minmax false true x.toNat y.toNat).out
/-- FABS (R144). -/
def execFabs (g : Guard) (d : Nat) (a : Src) (s : State) : Res :=
  s.compute g a.scalar (a.uses 1) (Effect.vec d ((s.me.src a).map1 (· &&& 0x7FFFFFFF)))
/-- FNEG (R144). -/
def execFneg (g : Guard) (d : Nat) (a : Src) (s : State) : Res :=
  s.compute g a.scalar (a.uses 1) (Effect.vec d ((s.me.src a).map1 (· ^^^ 0x80000000)))
/-- FCMP (R145). -/
def execFcmp (g : Guard) (q : Nat) (cc : FCond) (a b : Src) (s : State) : Res :=
  s.fcmp2 g q a b fun x y => fcondHolds cc (valF x) (valF y)

/-- The format that a code of FCLASS and the conversions names (R146, R153). -/
def fmtOf (f : Fmt) : FloatFormat :=
  match f with
  | .f32 => fp32
  | .f64 => fp64
  | .f16 => fp16
  | .bf16 => bf16

/-- One element of a lane: element 0 or 1 of a 16-bit format, else the whole value. -/
def Warp.element (w : Warp) (f : Fmt) (h1 : Bool) (a : Src) (l : Fin 32) : Nat :=
  if f.half then ((w.src a).lane l).toNat / (if h1 then 2 ^ 16 else 1) % 2 ^ 16
  else if f.bits = 64 then (pairLane (w.srcAt a 0) (w.srcAt a 1) l).toNat
  else ((w.src a).lane l).toNat

/-- The vector registers that a source of so many bits names. -/
def usesBits (bits : Nat) (a : Src) : List Use := a.uses (if bits = 64 then 2 else 1)

/-- Does a source of so many bits count as U? -/
def Warp.uniformBits (w : Warp) (bits : Nat) (a : Src) : Bool :=
  (w.srcAt a 0).isU && (bits != 64 || (w.srcAt a 1).isU)

/-- FCLASS (R146). -/
def execFclass (g : Guard) (d : Nat) (fmt : Fmt) (h1 : Bool) (a : Src) (s : State) : Res :=
  let w := s.me
  let r := fmap (w.uniformBits fmt.bits a) fun l =>
    ⟨BitVec.ofNat 32 (2 ^ (fmtOf fmt).classOf (w.element fmt h1 a l)), 0⟩
  s.compute g a.scalar (usesBits fmt.bits a) (Effect.vec d r.1)

/-- FSQRT (R149). -/
def execFsqrt (g : Guard) (d : Nat) (rm : Rm) (a : Src) (s : State) : Res :=
  s.sfu1 g d a fun x => outF rm (Val.sqrt (valF x))
/-- FRCP (R148). -/
def execFrcp (g : Guard) (d : Nat) (a : Src) (s : State) : Res := s.sfu1 g d a fun x => (frcp x).out
/-- FRSQ (R148). -/
def execFrsq (g : Guard) (d : Nat) (a : Src) (s : State) : Res := s.sfu1 g d a fun x => (frsq x).out
/-- FEX2 (R148). -/
def execFex2 (g : Guard) (d : Nat) (a : Src) (s : State) : Res := s.sfu1 g d a fun x => (fex2 x).out
/-- FLG2 (R148). -/
def execFlg2 (g : Guard) (d : Nat) (a : Src) (s : State) : Res := s.sfu1 g d a fun x => (flg2 x).out
/-- FSIN (R148). -/
def execFsin (g : Guard) (d : Nat) (a : Src) (s : State) : Res := s.sfu1 g d a fun x => (ftrig 4 false x).out
/-- FCOS (R148). -/
def execFcos (g : Guard) (d : Nat) (a : Src) (s : State) : Res := s.sfu1 g d a fun x => (ftrig 5 true x).out
/-- FTANH (R148). -/
def execFtanh (g : Guard) (d : Nat) (a : Src) (s : State) : Res := s.sfu1 g d a fun x => (ftanh x).out
/-- FRINT (R147). -/
def execFrint (g : Guard) (d : Nat) (rm : Rm) (x : Bool) (a : Src) (s : State) : Res :=
  s.float1 g d a fun y => (fp32.rint rm x y.toNat).out

/-- DADD (R150). -/
def execDadd (g : Guard) (d : Nat) (rm : Rm) (a b : VSrc) (s : State) : Res :=
  s.double2 g d a b fun x y => outD rm (Val.add rm (valD x) (valD y))
/-- DSUB (R150). -/
def execDsub (g : Guard) (d : Nat) (rm : Rm) (a b : VSrc) (s : State) : Res :=
  s.double2 g d a b fun x y => outD rm (Val.add rm (valD x) (valD y).negate)
/-- DMUL (R150). -/
def execDmul (g : Guard) (d : Nat) (rm : Rm) (a b : VSrc) (s : State) : Res :=
  s.double2 g d a b fun x y => outD rm (Val.mul (valD x) (valD y))
/-- DDIV (R150): a special-function operation. -/
def execDdiv (g : Guard) (d : Nat) (rm : Rm) (a b : VSrc) (s : State) : Res :=
  let w := s.me
  let r := dmap (w.pairU a && w.pairU b) fun l => outD rm (Val.div (valD (w.pair a l)) (valD (w.pair b l)))
  s.special (s.wset g) false (a.uses 2 ++ b.uses 2) [(d, r.1), (d + 1, r.2.1)] r.2.2
/-- DMIN (R150). -/
def execDmin (g : Guard) (d : Nat) (a b : VSrc) (s : State) : Res :=
  s.double2 g d a b fun x y => (fp64.minmax false false x.toNat y.toNat).out64
/-- DMAX (R150). -/
def execDmax (g : Guard) (d : Nat) (a b : VSrc) (s : State) : Res :=
  s.double2 g d a b fun x y => (fp64.minmax false true x.toNat y.toNat).out64
/-- DABS (R150). -/
def execDabs (g : Guard) (d : Nat) (a : VSrc) (s : State) : Res :=
  s.double1 g d a fun x => ⟨x &&& 0x7FFFFFFFFFFFFFFF, 0⟩
/-- DNEG (R150). -/
def execDneg (g : Guard) (d : Nat) (a : VSrc) (s : State) : Res :=
  s.double1 g d a fun x => ⟨x ^^^ 0x8000000000000000, 0⟩
/-- DCMP (R150). -/
def execDcmp (g : Guard) (q : Nat) (cc : FCond) (a b : VSrc) (s : State) : Res :=
  let w := s.me
  let r := pmap (w.pairU a && w.pairU b) fun l => fcondHolds cc (valD (w.pair a l)) (valD (w.pair b l))
  s.compute g false (a.uses 2 ++ b.uses 2) ((Effect.predicate q r.1).withFlags r.2)
/-- DSQRT (R150): a special-function operation. -/
def execDsqrt (g : Guard) (d : Nat) (rm : Rm) (a : VSrc) (s : State) : Res :=
  let w := s.me
  let r := dmap (w.pairU a) fun l => outD rm (Val.sqrt (valD (w.pair a l)))
  s.special (s.wset g) false (a.uses 2) [(d, r.1), (d + 1, r.2.1)] r.2.2
/-- DRINT (R147, R150). -/
def execDrint (g : Guard) (d : Nat) (rm : Rm) (x : Bool) (a : VSrc) (s : State) : Res :=
  s.double1 g d a fun y => (fp64.rint rm x y.toNat).out64
/-- DFMA (R150). -/
def execDfma (g : Guard) (d : Nat) (rm : Rm) (a b c : VSrc) (s : State) : Res :=
  let w := s.me
  let r := dmap (w.pairU a && w.pairU b && w.pairU c) fun l =>
    outD rm (Val.fma rm (valD (w.pair a l)) (valD (w.pair b l)) (valD (w.pair c l)))
  s.compute g false (a.uses 2 ++ b.uses 2 ++ c.uses 2) ((Effect.pair d r.1 r.2.1).withFlags r.2.2)

end Sys2Proof.Machine
end

