-- ==== Sys2Proof/Machine/CrossLane.lean ====
section
/-! DEFINITION. Cross-lane instructions (R164 to R174). -/

namespace Sys2Proof.Machine

/-- A vector source as a cross-lane instruction reads it: a lane without a LIVE thread reads 0 (R164). -/
def Warp.liveLane (w : Warp) (a : Src) (l : Fin 32) : Word :=
  if a.isVec && !w.live.getLsbD l.val then 0 else (w.src a).lane l

/-- The operation of REDUX, SCAN and SEGRED on two values (R168). -/
def redOp (rm : Rm) (op : RedOp) (x y : Word) : FOut :=
  match op with
  | .add => ⟨x + y, 0⟩
  | .min => ⟨if x.slt y then x else y, 0⟩
  | .max => ⟨if x.slt y then y else x, 0⟩
  | .umin => ⟨if x.ult y then x else y, 0⟩
  | .umax => ⟨if x.ult y then y else x, 0⟩
  | .and => ⟨x &&& y, 0⟩
  | .or => ⟨x ||| y, 0⟩
  | .xor => ⟨x ^^^ y, 0⟩
  | .fadd => outF rm (Val.add rm (valF x) (valF y))
  | .fmin => (fp32.minmax false false x.toNat y.toNat).out
  | .fmax => (fp32.minmax false true x.toNat y.toNat).out

/-- The identity of an operation (R168). -/
def redIdentity (op : RedOp) : Word :=
  match op with
  | .add => 0
  | .min => 0x7FFFFFFF
  | .max => 0x80000000
  | .umin => 0xFFFFFFFF
  | .umax => 0
  | .and => 0xFFFFFFFF
  | .or => 0
  | .xor => 0
  | .fadd => 0x80000000
  | .fmin => 0x7F800000
  | .fmax => 0xFF800000

/-- The lane that a thread reads under SHFL (R165). -/
def shflLane (mode : ShflMode) (logw : Nat) (l : Nat) (k : Word) : Nat :=
  let w := 2 ^ logw
  let b := l - l % w
  match mode with
  | .abs => b + k.toNat % w
  | .rot => b + (((l % w : Nat) : Int) + k.toInt).emod w |>.toNat
  | .xor => b + ((l % w) ^^^ (k.toNat % w))
  | .rev => b + (w - 1 - l % w)

/-- SHFL (R165). -/
def execShfl (g : Guard) (d : Nat) (mode : ShflMode) (logw : Nat) (a b : Src) (s : State) : Res :=
  let w := s.me
  let us := if mode == .rev then a.uses 1 else a.uses 1 ++ b.uses 1
  s.compute g (a.scalar || (mode != .rev && b.scalar)) us (Effect.vec d (.g (Lanes.of fun l =>
    w.liveLane a (Fin.ofNat 32 (shflLane mode logw l.val (w.liveLane b l))))))

/-- BCAST (R166). -/
def execBcast (g : Guard) (d : Nat) (low : Bool) (a b : Src) (s : State) : Res :=
  let w := s.me
  let t := (s.wset g).lowest
  let j : Fin 32 := if low then t else Fin.ofNat 32 (w.liveLane b t).toNat
  let us := if low then a.uses 1 else a.uses 1 ++ b.uses 1
  s.compute g (a.scalar || (!low && b.scalar)) us (Effect.vec d (.u (w.liveLane a j)))

/-- The result of VOTE over the threads of W (R167). -/
def voteValue (mode : VoteMode) (W p : LaneMask) : Word :=
  let c := LaneMask.count (W &&& p)
  let n := LaneMask.count W
  let bit (b : Bool) : Word := if b then 1 else 0
  match mode with
  | .cnt => BitVec.ofNat 32 c
  | .mask => W &&& p
  | .some => bit (decide (1 ≤ c))
  | .each => bit (c == n)
  | .same => bit (c == 0 || c == n)
  | .odd => bit (c % 2 == 1)

/-- VOTE (R167). -/
def execVote (g : Guard) (d : Nat) (mode : VoteMode) (p : Bool) (qa : Nat) (s : State) : Res :=
  let v := voteValue mode (s.wset g) (s.me.pred qa)
  if p then s.compute g false [] (Effect.predicate d ⟨if v = 0 then 0 else LaneMask.all, true⟩)
  else s.compute g false [] (Effect.vec d (.u v))

/-- A node of a reduction tree: its value, and the lowest lane of W that entered it. -/
structure RedNode where
  x : Word
  low : Option Nat
  deriving DecidableEq, Repr

/-- One level of the tree: neighbours combined, with the flags of each step and the lane that signals them (R88, R168). -/
def redLevel (rm : Rm) (op : RedOp) : List RedNode → List RedNode × List (Nat × Flags)
  | p :: q :: ns =>
    let r := redOp rm op p.x q.x
    let low := p.low.or q.low
    let t := redLevel rm op ns
    (⟨r.bits, low⟩ :: t.1, (match low with
      | some l => [(l, r.flags)]
      | none => []) ++ t.2)
  | _ => ([], [])

/-- The levels of a tree (R168). -/
def redTree (rm : Rm) (op : RedOp) : Nat → List RedNode → List RedNode × List (Nat × Flags)
  | 0, ns => (ns, [])
  | k + 1, ns =>
    let t := redLevel rm op ns
    let u := redTree rm op k t.1
    (u.1, t.2 ++ u.2)

/-- Flags lane by lane from a list of signals. -/
def signalsOf (fs : List (Nat × Flags)) : LaneFlags :=
  Vector.ofFn fun l => fs.foldl (fun a p => if p.1 = l.val then a ||| p.2 else a) 0

/-- REDUX (R168). -/
def execRedux (g : Guard) (d : Nat) (rm : Rm) (op : RedOp) (logw : Nat) (a : Src) (s : State) : Res :=
  let W := s.wset g
  let w := s.me
  let leaf (l : Fin 32) : RedNode :=
    if W.getLsbD l.val then ⟨w.liveLane a l, some l.val⟩ else ⟨redIdentity op, none⟩
  let t := redTree rm op logw ((List.finRange 32).map leaf)
  let at' (l : Fin 32) : Word := ((t.1[l.val / 2 ^ logw]?).map RedNode.x).getD 0
  let st : Storage := if logw = 5 then .u (at' 0) else .g (Lanes.of at')
  s.compute g a.scalar (a.uses 1) ((Effect.vec d st).withFlags (signalsOf t.2))

/-- One thread at a time: the value delivered to each thread of W, before or after its own (R169). -/
def scanLanes (rm : Rm) (op : RedOp) (excl : Bool) (x : Fin 32 → Word) : Word → List (Fin 32) → List (Nat × Word × Flags)
  | _, [] => []
  | acc, l :: ls =>
    let r := redOp rm op acc (x l)
    (l.val, if excl then acc else r.bits, r.flags) :: scanLanes rm op excl x r.bits ls

/-- Lane values from a list, 0 elsewhere. -/
def lanesOf (vs : List (Nat × Word × Flags)) : Lanes :=
  Lanes.of fun l => ((vs.find? fun p => p.1 == l.val).map fun p => p.2.1).getD 0

/-- SCAN (R169). -/
def execScan (g : Guard) (d : Nat) (rm : Rm) (op : RedOp) (excl : Bool) (a : Src) (s : State) : Res :=
  let vs := scanLanes rm op excl (s.me.liveLane a) (redIdentity op) (LaneMask.lanes (s.wset g))
  s.compute g a.scalar (a.uses 1)
    ((Effect.vec d (.g (lanesOf vs))).withFlags (signalsOf (vs.map fun p => (p.1, p.2.2))))

/-- The segments of W: a new one at each head (R170). -/
def segmentsOf (p : LaneMask) : List (Fin 32) → List (List (Fin 32))
  | [] => []
  | l :: ls =>
    match segmentsOf p ls with
    | [] => [[l]]
    | t :: ts => if (t.head?.map fun k => p.getLsbD k.val).getD false then [l] :: t :: ts else (l :: t) :: ts

/-- SEGRED (R170). -/
def execSegred (g : Guard) (d : Nat) (rm : Rm) (op : RedOp) (a : Src) (qb : Nat) (s : State) : Res :=
  let segs := segmentsOf (s.me.pred qb) (LaneMask.lanes (s.wset g))
  let vs := segs.flatMap fun t =>
    let rs := scanLanes rm op false (s.me.liveLane a) (redIdentity op) t
    let x := (rs.getLast?.map fun p => p.2.1).getD 0
    rs.map fun p => (p.1, x, p.2.2)
  s.compute g a.scalar (a.uses 1)
    ((Effect.vec d (.g (lanesOf vs))).withFlags (signalsOf (vs.map fun p => (p.1, p.2.2))))

/-- MATCH (R171). -/
def execMatch (g : Guard) (d : Nat) (a : Src) (s : State) : Res :=
  let w := s.me
  let ls := LaneMask.lanes (s.wset g)
  let one (l : Fin 32) : Word :=
    let same := ls.filter fun k => w.liveLane a k == w.liveLane a l
    BitVec.ofNat 32 (same.length * 2 ^ 16 + (same.filter fun k => decide (k < l)).length * 2 ^ 8 +
      (same.head?.getD 0).val)
  s.compute g a.scalar (a.uses 1) (Effect.vec d (.g (Lanes.of one)))

/-- The value at a position of SLIDE: a lane, or an element of a lane (R172). -/
def slideAt (half : Bool) (x : Fin 32 → Word) (p : Nat) : Nat :=
  if half then (x (Fin.ofNat 32 (p / 2))).toNat / 2 ^ (16 * (p % 2)) % 2 ^ 16 else (x (Fin.ofNat 32 p)).toNat

/-- What SLIDE delivers at a position (R172). -/
def slideValue (up half : Bool) (fill : Fill) (n : Nat) (a b c : Fin 32 → Word) (p : Nat) : Nat :=
  let P := if half then 64 else 32
  let lane : Fin 32 := Fin.ofNat 32 (if half then p / 2 else p)
  let inside := if up then decide (n ≤ p) else decide (p + n < P)
  if inside then slideAt half a (if up then p - n else p + n)
  else
    match fill with
    | .fb => slideAt half b (if up then p + P - n else p + n - P)
    | .fc => if half then (c lane).toNat % 2 ^ 16 else (c lane).toNat
    | .fz => 0
    | .fe => slideAt half a (if up then 0 else P - 1)

/-- SLIDE (R172). -/
def execSlide (g : Guard) (d : Nat) (up half : Bool) (fill : Fill) (n : Nat) (a b c : Src) (s : State) : Res :=
  let w := s.me
  let v (p : Nat) := slideValue up half fill n (w.liveLane a) (w.liveLane b) (w.liveLane c) p
  let us := a.uses 1 ++ (if fill == .fb then b.uses 1 else []) ++ (if fill == .fc then c.uses 1 else [])
  s.compute g (a.scalar || (fill == .fb && b.scalar) || (fill == .fc && c.scalar)) us
    (Effect.vec d (.g (Lanes.of fun l =>
      if half then BitVec.ofNat 32 (v (2 * l.val) + 2 ^ 16 * v (2 * l.val + 1)) else BitVec.ofNat 32 (v l.val))))

/-- The entries of a list of INTERSECT: lane and value (R173). -/
def entriesOf (W : LaneMask) (x : Fin 32 → Word) : List (Nat × Nat) :=
  ((LaneMask.lanes W).map fun l => (l.val, (x l).toNat)).filter fun p => p.2 != 0xFFFFFFFF

/-- INTERSECT (R173, R174). -/
def execIntersect (g : Guard) (d : Nat) (a b : Src) (s : State) : Res :=
  let w := s.me
  let W := s.wset g
  let ls := LaneMask.lanes W
  let X := entriesOf W (w.liveLane a)
  let Y := entriesOf W (w.liveLane b)
  let last (v : List (Nat × Nat)) : Nat := (v.getLast?.map Prod.snd).getD 0
  let lim := min (last X) (last Y)
  let empty := X.isEmpty || Y.isEmpty
  let adv (v : List (Nat × Nat)) : Nat := if empty then 0 else (v.filter fun p => decide (p.2 ≤ lim)).length
  let P := (X.flatMap fun x => (Y.filter fun y => y.2 == x.2).map fun y => (x.1, y.1)).take ls.length
  let one (l : Fin 32) : Word :=
    match P[ls.idxOf l]? with
    | some p => BitVec.ofNat 32 (p.1 + p.2 * 2 ^ 8)
    | none => 0xFFFFFFFF
  s.compute g (a.scalar || b.scalar) (a.uses 1 ++ b.uses 1)
    (Effect.pair d (.g (Lanes.of one)) (.u (BitVec.ofNat 32 (P.length * 2 ^ 16 + adv Y * 2 ^ 8 + adv X))))

end Sys2Proof.Machine
end

