-- ==== Sys2Proof/Machine/Brick.lean ====
section
/-! DEFINITION. Samples of a brick (R192). -/

namespace Sys2Proof.Machine

/-- A position on an axis moved by an exact amount and clamped to 0 to 7; a NaN reads as 0 (R192). -/
def brickCoord (p : Word) (move : Rat) : Rat :=
  match valF p with
  | .nan _ => 0
  | .inf neg => if neg then 0 else 7
  | .zero _ => max 0 (min 7 move)
  | .num q => max 0 (min 7 (q + move))

/-- The sample at a grid point (R192). -/
def brickAt (bs : List Byte) (x y z : Nat) : Val := fp16.decode (field bs (2 * (x + 8 * y + 64 * z)) 2)

/-- The trilinear value at a position; nothing when one of its samples is not finite (R192). -/
def brickValue (bs : List Byte) (px py pz : Rat) : Option Rat :=
  let base (c : Rat) : Nat := min c.floor.toNat 6
  let cx := base px
  let cy := base py
  let cz := base pz
  let fx := px - cx
  let fy := py - cy
  let fz := pz - cz
  let corners := [0, 1].flatMap fun k => [0, 1].flatMap fun j => [0, 1].map fun i => (i, j, k)
  let term (c : Nat × Nat × Nat) : Option Rat :=
    let v := brickAt bs (cx + c.1) (cy + c.2.1) (cz + c.2.2)
    let side (b : Nat) (f : Rat) : Rat := if b = 1 then f else 1 - f
    if v.isFinite then some (side c.1 fx * side c.2.1 fy * side c.2.2 fz * v.toRat) else none
  corners.foldl (fun acc c => match acc, term c with
    | some a, some t => some (a + t)
    | _, _ => none) (some 0)

/-- An exact value or a difference of two as FP32; the canonical NaN when a sample is not finite. -/
def brickWord (v : Option Rat) : Word :=
  match v with
  | some q => BitVec.ofNat 32 (rneBits q)
  | none => BitVec.ofNat 32 fp32.nan

/-- BRKS, and with `grad` BRKG: the words delivered for a position (R192). -/
def brickWords (bs : List Byte) (grad : Bool) (px py pz : Word) : List Word :=
  let at' (dx dy dz : Rat) : Option Rat := brickValue bs (brickCoord px dx) (brickCoord py dy) (brickCoord pz dz)
  let slope (a b : Option Rat) : Word :=
    match a, b with
    | some x, some y => brickWord (some (x - y))
    | _, _ => brickWord none
  let h : Rat := 1 / 2
  brickWord (at' 0 0 0) ::
    (if grad then [slope (at' h 0 0) (at' (-h) 0 0), slope (at' 0 h 0) (at' 0 (-h) 0), slope (at' 0 0 h) (at' 0 0 (-h))]
     else [])

end Sys2Proof.Machine
end

