-- ==== Sys2Proof/Machine/Scalar.lean ====
section
/-! DEFINITION. The scalar pipe (R123 to R125). -/

namespace Sys2Proof.Machine

/-- The write set of a scalar-pipe instruction: every live thread when the predicate holds in the lowest live lane, else
none (R123). -/
def State.scalarSet (s : State) (g : Guard) : LaneMask :=
  if (s.me.guard g).getLsbD s.me.live.lowest.val then s.me.live else 0

/-- A scalar-pipe instruction with a scalar destination (R123). -/
def State.scalarOp (s : State) (g : Guard) (us : List Use) (e : Effect) : Res :=
  s.operate (s.scalarSet g) true us .go [] e

/-- A scalar-pipe instruction of two scalar sources (R123). -/
def State.scalar2 (s : State) (g : Guard) (d : Nat) (a b : SSrc) (f : Word → Word → Word) : Res :=
  s.scalarOp g [] (Effect.scalar d (f (s.me.ssrc a) (s.me.ssrc b)))

/-- SMOV (R123). -/
def execSmov (g : Guard) (d : Nat) (a : SSrc) (s : State) : Res := s.scalarOp g [] (Effect.scalar d (s.me.ssrc a))
/-- SADD (R123). -/
def execSadd (g : Guard) (d : Nat) (a b : SSrc) (s : State) : Res := s.scalar2 g d a b (· + ·)
/-- SSUB (R123). -/
def execSsub (g : Guard) (d : Nat) (a b : SSrc) (s : State) : Res := s.scalar2 g d a b (· - ·)
/-- SMUL (R123). -/
def execSmul (g : Guard) (d : Nat) (a b : SSrc) (s : State) : Res := s.scalar2 g d a b (· * ·)
/-- SAND (R123). -/
def execSand (g : Guard) (d : Nat) (a b : SSrc) (s : State) : Res := s.scalar2 g d a b (· &&& ·)
/-- SOR (R123). -/
def execSor (g : Guard) (d : Nat) (a b : SSrc) (s : State) : Res := s.scalar2 g d a b (· ||| ·)
/-- SXOR (R123). -/
def execSxor (g : Guard) (d : Nat) (a b : SSrc) (s : State) : Res := s.scalar2 g d a b (· ^^^ ·)
/-- SSHL (R113, R123). -/
def execSshl (g : Guard) (d : Nat) (a b : SSrc) (s : State) : Res := s.scalar2 g d a b shiftLeft
/-- SSHR (R113, R123). -/
def execSshr (g : Guard) (d : Nat) (a b : SSrc) (s : State) : Res := s.scalar2 g d a b shiftRight
/-- SSAR (R113, R123). -/
def execSsar (g : Guard) (d : Nat) (a b : SSrc) (s : State) : Res := s.scalar2 g d a b shiftArith
/-- SMIN (R123). -/
def execSmin (g : Guard) (d : Nat) (u : Bool) (a b : SSrc) (s : State) : Res :=
  s.scalar2 g d a b (if u then umin32 else smin32)
/-- SMAX (R123). -/
def execSmax (g : Guard) (d : Nat) (u : Bool) (a b : SSrc) (s : State) : Res :=
  s.scalar2 g d a b (if u then umax32 else smax32)
/-- SCMP (R124): the write covers every live thread, and qD is stored as U. -/
def execScmp (g : Guard) (q : Nat) (cc : ICond) (u : Bool) (a b : SSrc) (s : State) : Res :=
  let r := (if u then ucond cc else icond cc) (s.me.ssrc a) (s.me.ssrc b)
  s.scalarOp g [] (Effect.predicate q ⟨if r then LaneMask.all else 0, true⟩)
/-- SADDI (R123). -/
def execSaddi (g : Guard) (d : Nat) (a : SSrc) (imm : Imm16) (s : State) : Res :=
  s.scalarOp g [] (Effect.scalar d (s.me.ssrc a + sext16 imm))
/-- SMOVI (R123). -/
def execSmovi (g : Guard) (d : Nat) (imm : Imm16) (s : State) : Res := s.scalarOp g [] (Effect.scalar d (sext16 imm))
/-- SMOVI32 (R123). -/
def execSmovi32 (g : Guard) (d : Nat) (imm : Word) (s : State) : Res := s.scalarOp g [] (Effect.scalar d imm)
/-- V2S (R125): the value of the lowest live lane. Where the predicate is false there it has no effect: it reads nothing, so it
neither waits nor traps for its source, and frees nothing (R123). -/
def execV2s (g : Guard) (d : Nat) (a : VSrc) (s : State) : Res :=
  s.scalarOp g (if s.scalarSet g = 0 then [] else a.uses 1) (Effect.scalar d ((s.me.vreg a.n).st.lane s.me.live.lowest))

end Sys2Proof.Machine
end

