-- ==== Sys2Proof/Machine/Control.lean ====
section
/-! DEFINITION. Control flow (R126 to R137), the end of a handler (R246), and the identity instructions GETRET. -/

namespace Sys2Proof.Machine

/-- The target of a PC-relative offset, modulo 2⁵⁷ (R56). -/
def relTarget (pc : VAddr) (off : Word) : VAddr := pc + off.signExtend 57

/-- The guard differs among the threads of the run, unless its predicate register is tagged U (R128). -/
def State.guardDiffers (s : State) (g : Guard) : Bool :=
  !s.me.predUniform g.q && s.wset g != 0 && s.wset g != s.cur.run

/-- Threads of W go to their targets, the rest of the run to the next instruction (R98, R126). -/
def State.jump (s : State) (W : LaneMask) (t : Fin 32 → VAddr) : State :=
  s.moveRun fun l => if W.getLsbD l.val then addrPc (t l) else s.cur.next

/-- A branch to one target (R127). -/
def State.branch (s : State) (g : Guard) (off : Word) : Res :=
  .next (s.jump (s.wset g) fun _ => relTarget s.cur.pc off)

/-- BRA (R127). -/
def execBra (g : Guard) (off : Word) (s : State) : Res := s.branch g off

/-- BRA.U (R128). -/
def execBraU (g : Guard) (off : Word) (s : State) : Res :=
  if s.guardDiffers g then s.trap 0x03 1 else s.branch g off

/-- The target that a register offset gives a lane (R129). -/
def State.regTarget (s : State) (a : Src) (l : Fin 32) : VAddr := relTarget s.cur.pc ((s.me.src a).lane l)

/-- The checks of a jump to register offsets: UNIFORM under `.uni`, then ALIGN (R129, R130). -/
def State.jumpGate (s : State) (g : Guard) (uni : Bool) (a : Src) : Gate :=
  let W := s.wset g
  let ls := LaneMask.lanes W
  let differ := ls.any fun l => (s.me.src a).lane l != (s.me.src a).lane W.lowest
  ((Gate.trapIf (uni && s.guardDiffers g) 0x03 1).and
    (Gate.trapIf (uni && !(s.me.src a).isU && differ) 0x03 2)).and
    (Gate.trapIf (ls.any fun l => (s.regTarget a l).toNat % 4 != 0) 0x0E 0)

/-- Threads of W whose return stack is full (R15, R131). -/
def State.fullStacks (s : State) (W : LaneMask) : Nat :=
  ((LaneMask.lanes W).filter fun l => decide (16 ≤ s.me.lanes[l].stack.length)).length

/-- RETFULL where a return stack of W is full (R15, R131). -/
def State.callGate (s : State) (W : LaneMask) : Gate := Gate.trapIf (s.fullStacks W != 0) 0x15 (s.fullStacks W)

/-- The warp with a return link pushed for the threads of W (R13, R131). -/
def Warp.push (w : Warp) (W : LaneMask) (k : Link) : Warp :=
  { w with lanes := Vector.ofFn fun l =>
      if W.getLsbD l.val then { w.lanes[l] with stack := k :: w.lanes[l].stack } else w.lanes[l] }

/-- A call that passed its checks: links pushed, threads moved (R131). -/
def State.call (s : State) (W : LaneMask) (t : Fin 32 → VAddr) : State :=
  (s.setMe (s.me.push W ⟨s.cur.next, false⟩)).jump W t

/-- An instruction that writes no register: gates on its sources and its own checks, LR, then its effect. -/
def State.perform (s : State) (scalar : Bool) (us : List Use) (check : Gate) (f : State → Res) : Res :=
  match (s.readGate scalar us).and check with
  | .wait => .next s
  | .trap code detail => s.trap code detail
  | .go => f (s.setMe (s.me.free (s.frees us [])))

/-- The checks that read no operand value come before every read (R58): SCALARDIV, then `fixed`. -/
def State.stageOne (s : State) (scalar : Bool) (fixed : Gate) (f : Res) : Res :=
  match (Gate.trapIf (scalar && !s.me.converged) 0x04 0).and fixed with
  | .trap code detail => s.trap code detail
  | _ => f

/-- BRX (R129, R130). -/
def execBrx (g : Guard) (uni : Bool) (a : Src) (s : State) : Res :=
  s.perform a.scalar (a.uses 1) (s.jumpGate g uni a) fun t => .next (t.jump (s.wset g) (s.regTarget a))

/-- CALLI (R129 to R131). -/
def execCalli (g : Guard) (uni : Bool) (a : Src) (s : State) : Res :=
  s.perform a.scalar (a.uses 1) ((s.jumpGate g uni a).and (s.callGate (s.wset g))) fun t =>
    .next (t.call (s.wset g) (s.regTarget a))

/-- CALL (R131). -/
def execCall (g : Guard) (off : Word) (s : State) : Res :=
  s.perform false [] (s.callGate (s.wset g)) fun t => .next (t.call (s.wset g) fun _ => relTarget s.cur.pc off)

/-- The threads of W with an empty return stack (R132). -/
def State.emptyStacks (s : State) (W : LaneMask) : LaneMask :=
  W &&& LaneMask.of fun l => s.me.lanes[l].stack.isEmpty

/-- The warp with the top link popped for the threads of W (R132). -/
def Warp.pop (w : Warp) (W : LaneMask) : Warp :=
  { w with lanes := Vector.ofFn fun l =>
      if W.getLsbD l.val then { w.lanes[l] with stack := w.lanes[l].stack.tail } else w.lanes[l] }

/-- RET (R132): threads of W with a link return; those without keep their PC and raise RETEMPTY. -/
def execRet (g : Guard) (s : State) : Res :=
  let W := s.wset g
  let E := s.emptyStacks W
  let w := s.me
  let dest (l : Fin 32) : BitVec 55 :=
    if W.getLsbD l.val then ((w.lanes[l].stack.head?).map Link.pc).getD 0 else s.cur.next
  let t := s.setMe (w.pop (W &&& ~~~E))
  if E = 0 then .next (t.moveRun dest)
  else .next (t.trapEnter s.cur.slot E s.cur.run dest E.lowest.val s.cur.pc 0x0A (LaneMask.count E))

/-- The warp with the threads of W exited, their return stacks discarded (R133). -/
def Warp.exit (w : Warp) (W : LaneMask) : Warp :=
  { w with lanes := Vector.ofFn fun l =>
      if W.getLsbD l.val then { w.lanes[l] with st := .exited, stack := [] } else w.lanes[l] }

/-- EXIT (R133). -/
def State.exitThreads (s : State) (W : LaneMask) : State :=
  let t := s.moveRun fun _ => s.cur.next
  (t.setMe (t.me.exit W)).afterExit s.cur.slot

/-- NOP (R134). -/
def execNop (_g : Guard) (s : State) : Res := .next s.advance
/-- NOPW (R134). -/
def execNopw (_g : Guard) (s : State) : Res := .next s.advance

/-- The address of a liveness record, with bit 0 set when the offset makes it malformed (R135). -/
def recordAddr (pc : VAddr) (off : Word) : VAddr :=
  let a := relTarget pc off
  if off.toNat % 8 = 0 then a else a ||| 1

/-- The warp with the threads of W parked at the next instruction under a liveness record (R135). -/
def Warp.park (w : Warp) (W : LaneMask) (r : VAddr) : Warp :=
  { w with lanes := Vector.ofFn fun l =>
      if W.getLsbD l.val then { w.lanes[l] with parked := true, lrec := r } else w.lanes[l] }

/-- Do YIELD and PHINT park? A request is pending, no handler runs, and the launch and warp are of a kind that parks
(R135, R344, R370, R385). -/
def State.parks (s : State) : Bool :=
  s.myBlock.pending && !s.me.hndl && !s.myLaunch.proof && s.me.callable.isNone

/-- The other warps of the partition: those that a YIELD waits for, as far as they are ready (R135; State.easeAside). -/
def State.asidePeers (s : State) : List Nat :=
  ((s.partWarps s.cur.slot).filter fun p => p.1 != s.cur.slot).map Prod.fst

/-- YIELD (R135): parks, or sets its warp aside for 32 cycles, whatever W (log entry 31); the count ends at 1
(YIELD_RELEASE). -/
def execYield (g : Guard) (off : Word) (s : State) : Res :=
  let t := s.advance
  if s.parks then .next (t.setMe (t.me.park (s.wset g) (recordAddr s.cur.pc off)))
  else if s.myLaunch.proof then .next t
  else .next (t.setMe { t.me with aside := 33, asidePeers := s.asidePeers })

/-- PHINT (R135). -/
def execPhint (g : Guard) (off : Word) (s : State) : Res :=
  let W := s.wset g
  let t := s.advance
  if s.parks then .next (t.setMe (t.me.park W (recordAddr s.cur.pc off))) else .next t

/-- SLEEP (R136): the count ends at 1 (SLEEP_END), IMM16 cycles after the cycle of issue. -/
def execSleep (g : Guard) (imm : Imm16) (s : State) : Res :=
  let t := s.advance
  if s.wset g = 0 ∨ imm = 0 ∨ s.myLaunch.proof = true then .next t
  else .next (t.setMe { t.me with sleep := imm.toNat + 1 })

/-- BKPT (R137). -/
def execBkpt (g : Guard) (imm : Imm16) (s : State) : Res :=
  if s.wset g = 0 then .next s.advance else s.trap 0x12 imm.toNat

/-- TRAP (R137). -/
def execTrap (g : Guard) (imm : Imm16) (s : State) : Res :=
  if s.wset g = 0 then .next s.advance else s.trap 0x13 imm.toNat

/-- RTE (R246): outside a handler it raises PROT with reason 6. It returns with an empty W too (log entry 95). -/
def execRte (_g : Guard) (s : State) : Res :=
  if !s.me.hndl then s.trap 0x08 6
  else
    let t := s.advance
    .next (t.setMe t.me.returnFromTrap)

/-- GETRET (R243): the top return link of each thread in a pair, or its depth. -/
def execGetret (g : Guard) (d : Nat) (depth : Bool) (s : State) : Res :=
  let top (l : Fin 32) : Dword := match s.me.lanes[l].stack.head? with
    | some k => (pcAddr k.pc).zeroExtend 64
    | none => BitVec.allOnes 64
  if depth then
    s.compute g false [] (Effect.vec d (.g (Lanes.of fun l => BitVec.ofNat 32 s.me.lanes[l].stack.length)))
  else
    s.compute g false [] (Effect.pair d (.g (Lanes.of fun l => (top l).truncate 32))
      (.g (Lanes.of fun l => ((top l) >>> 32).truncate 32)))

end Sys2Proof.Machine
end

