-- ==== Sys2Proof/Machine/Range.lean ====
section
/-! DEFINITION. Byte ranges: translation of every page that a range touches, answers from outside the device, reads and
writes by threads and engines, and core SRAM addresses (R37, R176, R181, R223, R334, R387, R409, R414, R425). -/

namespace Sys2Proof.Machine

/-! ### Ranges of translated memory -/

/-- Who makes an access: context, block, who waits on it, core, hardware queue, and the base of its fault kind (R411). -/
structure Party where
  ctx : Nat
  bk : Nat
  who : FaultWho
  core : Nat
  queue : Nat
  kind : Nat
  deriving DecidableEq, Repr

/-- The pages that a range touches: first address and length in each. -/
def pagesOf (va n : Nat) : List (Nat × Nat) :=
  if n = 0 then []
  else
    (List.range ((va + n - 1) / 2 ^ 16 - va / 2 ^ 16 + 1)).map fun i =>
      let p := va / 2 ^ 16 + i
      let a := max va (p * 2 ^ 16)
      (a % 2 ^ 57, min (va + n) ((p + 1) * 2 ^ 16) - a)

/-- What the walks of a range decide: the pieces, or the first page that does not translate. -/
inductive RWalk where
  | ok (ps : List (Xlat × Nat))
  | fault (va reason : Nat)
  | denied
  | moving
  deriving DecidableEq, Repr

/-- Walks joined in order; a permission failure decides before a wait. -/
def RWalk.join (a : Walk) (va n : Nat) (b : RWalk) : RWalk :=
  match a, b with
  | .denied, _ => .denied
  | _, .denied => .denied
  | .moving, _ => .moving
  | .fault r, _ => .fault va r
  | .ok _, .fault va r => .fault va r
  | .ok _, .moving => .moving
  | .ok x, .ok ps => .ok ((x, n) :: ps)

/-- The translation of a range. -/
def State.rangeWalk (s : State) (ctx : Nat) (need : Need) (va n : Nat) : RWalk :=
  (pagesOf va n).foldr (fun p r => RWalk.join (s.walk ctx need p.1) p.1 p.2 r) (.ok [])

/-- Does a range lie wholly on this device? -/
def localRange (ps : List (Xlat × Nat)) : Bool := ps.all fun p => !isExternal p.1.loc

/-- A fault of a lane recorded once for each party and line, with the address and run of the instruction that is executed. -/
def State.faultLane (s : State) (p : Party) (write : Bool) (va reason lane : Nat) : State :=
  let line := va / 128 * 128
  if (s.ctx p.ctx).faults.any fun f => f.who == p.who && f.line == line then s
  else s.addFault p.ctx ⟨line, p.kind + (if write then 1 else 0), reason, p.core, p.queue, none, false, false, p.who,
    lane, s.cur.pc, s.cur.run⟩

/-- A fault of a party that is no thread. -/
def State.faultOnce (s : State) (p : Party) (write : Bool) (va reason : Nat) : State := s.faultLane p write va reason 0

/-- Does a party wait for the answer to a fault on a page of a range? (R387, R412) -/
def State.waitsOn (s : State) (ctx : Nat) (who : FaultWho) (va n : Nat) : Bool :=
  (s.ctx ctx).faults.any fun f => f.who == who && decide (f.line / 2 ^ 16 ≤ (va + n - 1) / 2 ^ 16) &&
    decide (va / 2 ^ 16 ≤ f.line / 2 ^ 16)

/-- The faults of a party forgotten once its access has been made. -/
def State.settle (s : State) (ctx : Nat) (who : FaultWho) : State :=
  let c := s.ctx ctx
  if c.faults.any fun f => f.who == who then
    s.setCtx ctx { c with faults := c.faults.filter fun f => f.who != who }
  else s

/-- The register number that marks an answer kept for a retry of the access, instead of patched into a register. -/
def keptReg : Nat := 1024

/-- The mark of an answer kept for a lane. -/
def keptPart (lane : Nat) : ExtPart := ⟨0, keptReg, lane, 0, 0, false⟩

/-- The request of a party for a lane and place, if one was sent. -/
def State.sentFor (s : State) (who : FaultWho) (kind loc n lane : Nat) : Option ExtReq :=
  let at' := s.place loc
  s.ext.find? fun r => r.who == who && r.kind == kind && r.dev == at'.1 && r.addr == at'.2 && r.bytes == n &&
    r.parts == [keptPart lane]

/-- The answers kept for a party dropped once its access has been made. -/
def State.dropKept (s : State) (who : FaultWho) : State :=
  { s with ext := s.ext.filter fun r => !(r.who == who && r.parts.any fun p => p.reg == keptReg) }

/-- A request whose answer is kept, sent once. -/
def State.askKept (s : State) (p : Party) (kind loc n lane : Nat) (operand : List Byte) : State :=
  match s.sentFor p.who kind loc n lane with
  | some _ => s
  | none =>
    let at' := s.place loc
    s.request ⟨0, at'.1, kind, at'.2, operand, n, p.who, p.ctx, [keptPart lane], none, 0, 0, lane⟩

/-- Bytes of a location as a block sees them: those of its version over the others (R305). -/
def overVersion (ver : List (Nat × Byte)) (loc : Nat) (bs : List Byte) : List Byte :=
  bs.mapIdx fun i b => (Map.find ver (loc + i)).getD b

/-- The bytes of one piece: from this device, or an answer that has come. -/
def State.pieceBytes (s : State) (p : Party) (ver : List (Nat × Byte)) (x : Xlat) (n : Nat) : Option (List Byte) :=
  if isExternal x.loc && !x.disc then ((s.sentFor p.who msgRead x.loc n 0).bind ExtReq.data).map (overVersion ver x.loc)
  else some (leBytes n (s.readAt ver x n))

/-- What an engine, the GSC or a move gets of a range: its bytes, a wait with what it set in motion, or a refusal. -/
inductive Got where
  | ok (bs : List Byte)
  | wait (s : State)
  | denied

/-- The bytes of a range, read by a party that waits until it has them all. -/
def State.fetch (s : State) (p : Party) (va n : Nat) : Got :=
  match s.rangeWalk p.ctx .read va n with
  | .denied => .denied
  | .moving => .wait s
  | .fault a r => .wait (s.faultOnce p false a r)
  | .ok ps =>
    if s.waitsOn p.ctx p.who va n then .wait s
    else
    let got := ps.map fun q => s.pieceBytes p (s.version p.bk) q.1 q.2
    if got.all Option.isSome then .ok (got.flatMap fun b => b.getD [])
    else .wait (ps.foldl (fun s q =>
      if isExternal q.1.loc && !q.1.disc then s.askKept p msgRead q.1.loc q.2 0 [] else s) s)

/-- Bytes put over translated pieces. -/
def State.putPieces (s : State) (p : Party) : List (Xlat × Nat) → List Byte → State
  | [], _ => s
  | q :: ps, bs => (s.writeAt p.ctx p.bk p.who q.1 (bs.take q.2)).putPieces p ps (bs.drop q.2)

/-- What a write of a range came to. -/
inductive Put where
  | ok (s : State)
  | wait (s : State)
  | denied

/-- A range written by a party that waits while a page does not translate. -/
def State.deliver (s : State) (p : Party) (need : Need) (va : Nat) (bs : List Byte) : Put :=
  match s.rangeWalk p.ctx need va bs.length with
  | .denied => .denied
  | .moving => .wait s
  | .fault a r => .wait (s.faultOnce p true a r)
  | .ok ps => if s.waitsOn p.ctx p.who va bs.length then .wait s else .ok (s.putPieces p ps bs)

/-- The lines of locations that pieces cover. -/
def pieceLines (ps : List (Xlat × Nat)) : List Nat :=
  ps.flatMap fun q =>
    if q.2 = 0 then []
    else (List.range ((q.1.loc + q.2 - 1) / 128 - q.1.loc / 128 + 1)).map fun i => q.1.loc / 128 + i

/-- The access party of a thread's instruction. -/
def State.me' (s : State) : Party :=
  ⟨s.myCtx, s.me.blk, .warp s.cur.slot, s.myCore, s.myLaunch.queue, 0⟩

/-- The access party of a block's engine: 0 matrix, 1 copy, 2 marcher, 3 tile, 5 save. -/
def State.engine (s : State) (bk k : Nat) : Party :=
  let l := s.launch (s.block bk).launch
  ⟨l.ctx, bk, .engine bk k, blockCore bk, l.queue, 4⟩

/-! ### Core SRAM (R37, R181) -/

/-- Where a core SRAM address lies: a block area, a standing segment, a galley area. -/
inductive Bank where
  | area (bk : Nat)
  | seg (k : Nat)
  | galley (core lk : Nat)
  deriving DecidableEq, Repr

/-- The outcome of R37 for an address: space 4 to 15, beyond the limit, or a place. -/
inductive Sram where
  | prot
  | out
  | ok (b : Bank) (off : Nat)
  deriving DecidableEq, Repr

/-- Member m of the neighbourhood group of a block, when the launch has it (R334). A member whose block has completed has
no entry any more, and its window then has limit 0 (log entry 95). -/
def State.member (s : State) (bk m : Nat) : Option Nat :=
  let b := s.block bk
  let l := s.launch b.launch
  let a := l.nbw * l.nbh
  if l.nbhd && decide (m < a) && decide (b.n / a * a + m < l.last) then
    ((s.launchBlocks b.launch).find? fun p => p.2.n == b.n / a * a + m).map Prod.fst
  else none

/-- Checks the range of an access of n bytes against a limit. -/
def within (b : Bank) (off n limit : Nat) : Sram := if off + n ≤ limit then .ok b off else .out

/-- An access of n bytes at a core SRAM address by a block (R37). -/
def State.sram (s : State) (bk addr n : Nat) : Sram :=
  let b := s.block bk
  let l := s.launch b.launch
  let off := addr % 2 ^ 28
  match addr / 2 ^ 28 with
  | 0 => within (.area bk) off n l.areaBytes
  | 1 =>
    if bitsOf addr 27 22 != 0 then .out
    else
      match b.windows[bitsOf addr 21 20]?.join with
      | some k => within (.seg k) (bitsOf addr 19 0) n (((Map.find s.segs k).map Segment.size).getD 0 * 4096)
      | none => .out
  | 2 =>
    if bitsOf addr 27 26 != 0 then .out
    else
      match s.member bk (bitsOf addr 25 21) with
      | some m => within (.area m) (bitsOf addr 20 0) n l.areaBytes
      | none => .out
  | 3 => within (.galley (blockCore bk) b.launch) off n l.galleyBytes
  | _ => .prot

/-- The bytes of a store of core SRAM. -/
def State.bank (s : State) (b : Bank) : Mem :=
  match b with
  | .area bk => (s.block bk).area
  | .seg k => ((Map.find s.segs k).map Segment.bytes).getD []
  | .galley core lk => Map.getD (s.core core).galleys lk []

/-- A store of core SRAM changed. -/
def State.setBank (s : State) (b : Bank) (m : Mem) : State :=
  match b with
  | .area bk =>
    match Map.find s.blocks bk with
    | some x => s.setBlock bk { x with area := m }
    | none => s
  | .seg k =>
    match Map.find s.segs k with
    | some g => s.setSeg k { g with bytes := m }
    | none => s
  | .galley core lk =>
    let c := s.core core
    s.setCore core { c with galleys := Map.set c.galleys lk m }

/-- `n` bytes of core SRAM, little-endian. -/
def State.sramRead (s : State) (b : Bank) (off n : Nat) : Nat := (s.bank b).read off n

/-- `n` bytes of a number written to core SRAM. -/
def State.sramWrite (s : State) (b : Bank) (off n v : Nat) : State := s.setBank b ((s.bank b).write off n v)

/-- The tag key of a core SRAM word: above every location of memory (R282). -/
def Bank.key (b : Bank) (off : Nat) : Nat :=
  let k := match b with
    | .area bk => 3 * bk
    | .seg k => 3 * k + 1
    | .galley core lk => 3 * (lk * 256 + core) + 2
  2 ^ 56 + k * 2 ^ 30 + off

/-- The address of a lane (R181). -/
def sramAddr (a off : Word) : Nat := (a + off).toNat

/-- Do two ranges of core SRAM share a byte? -/
def Sram.meets (x : Sram) (n : Nat) (y : Sram) (m : Nat) : Bool :=
  match x, y with
  | .ok b o, .ok c p => b == c && decide (o < p + m) && decide (p < o + n)
  | _, _ => false

/-- Has a thread of W a pending WAITPH whose word its access of n bytes meets? Its accesses to one byte take effect in
program order (R180). -/
def State.phaseMeets (s : State) (bk : Nat) (W : LaneMask) (addr : Fin 32 → Nat) (n : Nat) : Bool :=
  s.me.pendings.any fun x => !x.guard && x.addrs.any fun p =>
    (x.due &&& W).getLsbD p.1 && (s.sram bk (addr (Fin.ofNat 32 p.1)) n).meets n (s.sram bk p.2 4) 4

/-- Does an access of n bytes that is to be aligned to `al` lie at or beyond the limit of its space: does it begin there, or
does an aligned one pass the limit? A misaligned one that begins below the limit is judged by its alignment (R37, R176). -/
def State.sramOut (s : State) (bk addr n al : Nat) : Bool :=
  s.sram bk addr 1 == .out || (addr % al == 0 && s.sram bk addr n == .out)

/-- The checks of R37 for the lanes of W: PROT, then BOUNDS, then ALIGN to `al` (R176 steps 3 to 5); then a wait for the
threads' own pending reads of the words accessed (R180). -/
def State.sramGate (s : State) (bk : Nat) (W : LaneMask) (addr : Fin 32 → Nat) (n al : Nat) : Gate :=
  let ls := LaneMask.lanes W
  let first (p : Fin 32 → Bool) : Option (Fin 32) := ls.find? p
  match first fun l => s.sram bk (addr l) n == .prot with
  | some _ => .trap 0x08 3
  | none =>
    match first fun l => s.sramOut bk (addr l) n al with
    | some l => .trap 0x06 l.val
    | none =>
      match first fun l => addr l % al != 0 with
      | some l => .trap 0x0E l.val
      | none => if s.phaseMeets bk W addr n then .wait else .go

/-- An arrival at a phase word: its new value (R203). -/
def arriveWord (w n : Nat) : Nat :=
  let remain := w % 2 ^ 14
  if remain ≤ n then (w ^^^ 2 ^ 31) / 2 ^ 14 * 2 ^ 14 + max (bitsOf w 27 14) 1 else w - n

end Sys2Proof.Machine
end

