-- ==== Sys2Proof/Machine/Shake.lean ====
section
/-! DEFINITION. SHAKE256 (R245, R437, R438): the manual names it; its definition is that of FIPS 202 (log entry 9). -/

namespace Sys2Proof.Machine

/-- The state of Keccak: 25 words, word x + 5y. -/
abbrev Keccak := Vector (BitVec 64) 25

/-- The word at a column and a row, each modulo 5. -/
def Keccak.at' (k : Keccak) (x y : Nat) : BitVec 64 := k[x % 5 + 5 * (y % 5)]'(by omega)

/-- A state from its words by column and row. -/
def Keccak.of (f : Nat → Nat → BitVec 64) : Keccak := Vector.ofFn fun i => f (i.val % 5) (i.val / 5)

/-- The parity of a column. -/
def Keccak.parity (k : Keccak) (x : Nat) : BitVec 64 :=
  k.at' x 0 ^^^ k.at' x 1 ^^^ k.at' x 2 ^^^ k.at' x 3 ^^^ k.at' x 4

/-- The step θ. -/
def Keccak.theta (k : Keccak) : Keccak :=
  let c : Vector (BitVec 64) 5 := Vector.ofFn fun i => k.parity i.val
  let d (x : Nat) : BitVec 64 := c.get (Fin.ofNat 5 (x + 4)) ^^^
    (c.get (Fin.ofNat 5 (x + 1))).rotateLeft 1
  Keccak.of fun x y => k.at' x y ^^^ d x

/-- The rotation amounts of ρ, by word. -/
def rhoOffsets : List Nat :=
  [0, 1, 62, 28, 27, 36, 44, 6, 55, 20, 3, 10, 43, 25, 39, 41, 45, 15, 21, 8, 18, 2, 61, 56, 14]

/-- The steps ρ and π: the word at column y, row 2x + 3y comes from column x, row y. -/
def Keccak.rhoPi (k : Keccak) : Keccak :=
  Keccak.of fun x y =>
    let x' := (x + 3 * y) % 5
    (k.at' x' x).rotateLeft ((rhoOffsets[x' + 5 * x]?).getD 0)

/-- The step χ. -/
def Keccak.chi (k : Keccak) : Keccak :=
  Keccak.of fun x y => k.at' x y ^^^ (~~~k.at' (x + 1) y &&& k.at' (x + 2) y)

/-- The round constants of ι. -/
def roundConstants : List (BitVec 64) :=
  [0x0000000000000001, 0x0000000000008082, 0x800000000000808A, 0x8000000080008000, 0x000000000000808B,
   0x0000000080000001, 0x8000000080008081, 0x8000000000008009, 0x000000000000008A, 0x0000000000000088,
   0x0000000080008009, 0x000000008000000A] ++
  [0x000000008000808B, 0x800000000000008B, 0x8000000000008089, 0x8000000000008003, 0x8000000000008002,
   0x8000000000000080, 0x000000000000800A, 0x800000008000000A, 0x8000000080008081, 0x8000000000008080,
   0x0000000080000001, 0x8000000080008008]

/-- One round. -/
def Keccak.round (k : Keccak) (rc : BitVec 64) : Keccak :=
  let c := k.theta.rhoPi.chi
  c.set 0 (c.at' 0 0 ^^^ rc)

/-- The permutation. -/
def Keccak.permute (k : Keccak) : Keccak := roundConstants.foldl Keccak.round k

/-- A block of 136 bytes absorbed. -/
def Keccak.absorb (k : Keccak) (bs : List Byte) : Keccak :=
  Keccak.permute (Vector.ofFn fun i =>
    k[i] ^^^ (if i.val < 17 then BitVec.ofNat 64 (leNat ((bs.drop (8 * i.val)).take 8)) else 0))

/-- The last block: the suffix and the padding bits. -/
def padBlock (bs : List Byte) : List Byte :=
  let n := bs.length
  if n = 135 then bs ++ [0x9F]
  else bs ++ [0x1F] ++ List.replicate (134 - n) 0 ++ [0x80]

/-- The blocks of a message absorbed in order. -/
def Keccak.absorbAll (k : Keccak) : Nat → List Byte → Keccak
  | 0, bs => k.absorb (padBlock bs)
  | n + 1, bs => (k.absorb (bs.take 136)).absorbAll n (bs.drop 136)

/-- The first `n` bytes of SHAKE256, at most 136. -/
def shake256 (bs : List Byte) (n : Nat) : List Byte :=
  let k := Keccak.absorbAll (Vector.replicate 25 0) (bs.length / 136) bs
  (k.toList.flatMap fun w => leBytes 8 w.toNat).take n

end Sys2Proof.Machine
end

