-- ==== Sys2Proof/Machine/System.lean ====
section
/-! DEFINITION. Control registers, system values, the cycle counter and the replay log (R28, R32 to R36, R241 to R245,
R345). -/

namespace Sys2Proof.Machine

/-! ### Control registers (R32 to R36, R241) -/

/-- ROLE as KSTAT reports it (R34). -/
def Role.code (r : Role) : Nat :=
  match r with
  | .any => 0
  | .feed => 1
  | .matrix => 2
  | .vector => 3

/-- A bit of a register word. -/
def flagBit (b : Bool) (n : Nat) : Nat := if b then 2 ^ n else 0

/-- KSTAT (R34). -/
def State.kstat (s : State) : Word :=
  let l := s.myLaunch
  BitVec.ofNat 32 (LaneMask.count s.me.live * 2 ^ 16 + flagBit l.vers 9 + flagBit l.flush16 8 + flagBit l.regrp 7 +
    flagBit l.proof 6 + flagBit s.me.tmask 5 + flagBit s.me.hndl 4 + flagBit s.me.converged 3 + s.me.role.code)

/-- KCAPS (R36). -/
def State.kcaps (s : State) : Word :=
  BitVec.ofNat 32 (0x01 * 2 ^ 24 + (s.core s.myCore).banks % 64 * 2 ^ 16 + s.usableSlots s.cur.slot % 512)

/-- What CSRR reads (R32, R241). -/
def State.csr (s : State) (num : Nat) (hi : Bool) : Word :=
  let part (a : Nat) : Word := BitVec.ofNat 32 (if hi then a / 2 ^ 32 else a)
  match num with
  | 0x000 => s.kstat
  | 0x001 => s.me.kflags
  | 0x002 => s.me.kcause
  | 0x003 => part s.me.kepc.toNat
  | 0x004 => part (s.myLaunch.tvec % 2 ^ 57)
  | 0x005 => BitVec.ofNat 32 s.myBlock.kdeadline
  | 0x006 => BitVec.ofNat 32 s.me.khbudget
  | 0x010 => BitVec.ofNat 32 (s.myLaunch.classArea % 2 ^ 24)
  | _ => s.kcaps

/-- CSRR (R241). -/
def execCsrr (g : Guard) (d num : Nat) (hi : Bool) (s : State) : Res :=
  s.compute g false [] (Effect.vec d (.u (s.csr num hi)))

/-- May the program write a control register now? (R32, R241) -/
def Warp.csrWritable (w : Warp) (num : Nat) : Bool :=
  num == 0x001 || ((num == 0x002 || num == 0x003) && w.hndl)

/-- The RW bits of KFLAGS and of KCAUSE (R33, R35). -/
def kflagsMask : Word := 0x1F7F
def kcauseMask : Word := 0xFFFF1FFF

/-- A control register written: its RW fields (R5, R33, R35, R241). -/
def Warp.setCsr (w : Warp) (num : Nat) (hi : Bool) (x : Word) : Warp :=
  match num with
  | 0x001 => { w with kflags := x &&& kflagsMask }
  | 0x002 => { w with kcause := x &&& kcauseMask }
  | 0x003 =>
    let e := w.kepc.toNat
    { w with kepc := BitVec.ofNat 57 (if hi then x.toNat % 2 ^ 25 * 2 ^ 32 + e % 2 ^ 32 else e / 2 ^ 32 * 2 ^ 32 + x.toNat) }
  | _ => w

/-- Does a source hold different values in the threads of W? A shape that counts as U never does (R183, R241). -/
def Warp.differs (w : Warp) (a : Src) (W : LaneMask) : Bool :=
  !(w.src a).isU && (LaneMask.lanes W).any fun l => (w.src a).lane l != (w.src a).lane W.lowest

/-- CSRW (R241). -/
def execCsrw (g : Guard) (num : Nat) (hi : Bool) (a : Src) (s : State) : Res :=
  let W := s.wset g
  let x := (s.me.src a).lane W.lowest
  s.stageOne a.scalar (Gate.trapIf (!s.me.csrWritable num) 0x08 5) <|
    s.perform a.scalar (a.uses 1) (Gate.trapIf (s.me.differs a W) 0x03 3) fun t =>
    .next (if W = 0 then t.advance else (t.setMe (t.me.setCsr num hi x)).advance)

/-! ### System values (R28, R63) -/

/-- A system value in a lane (R28, R63). -/
def State.systemValue (s : State) (num : Nat) (l : Fin 32) : Nat :=
  let w := s.me
  let b := s.myBlock
  let p := s.myLaunch.bid b.n
  match num with
  | 0 => w.lanes[l].tx
  | 1 => w.lanes[l].ty
  | 2 => w.lanes[l].tz
  | 3 => p.1
  | 4 => p.2.1
  | 5 => p.2.2
  | 6 => l.val
  | 7 => w.index
  | 8 => b.n
  | 9 => s.myCore
  | 10 => clusterOf s.myCore
  | _ => s.rank s.myLaunch

/-- SYSV (R28, R244): the shape is recovered from all 32 lanes. -/
def execSysv (g : Guard) (d num : Nat) (s : State) : Res :=
  s.compute g false [] (Effect.vec d (recover (Lanes.of fun l => BitVec.ofNat 32 (s.systemValue num l))))

/-- What GETCLK reads (R242). -/
def State.clock (s : State) : Nat := if s.myLaunch.proof then s.myLaunch.retired else s.clk

/-- GETCLK (R242). -/
def execGetclk (g : Guard) (d : Nat) (s : State) : Res :=
  s.compute g false [] (Effect.pair d (.u (BitVec.ofNat 32 s.clock)) (.u (BitVec.ofNat 32 (s.clock / 2 ^ 32))))

/-! ### The replay log (R245, R345) -/

/-- What came of a log entry: done with the entry's payload, a wait, or the end of the launch with a DETAIL. -/
inductive LogAct where
  | ok (s : State) (payload : List Byte)
  | wait (s : State)
  | kill (detail : Nat)

/-- Who reads and writes the log for the executing instruction: it bypasses the block's version. -/
def State.logger (s : State) : Party := { s.me' with bk := 2 ^ 40, kind := 4 }

/-- The header of a log entry (R345). -/
def State.logHeader (s : State) (kind words : Nat) (W : LaneMask) : List Byte :=
  leBytes 8 s.myLaunch.retired ++ leBytes 2 (s.me.blk % 32 * 32 + s.me.index) ++ leBytes 1 kind ++ leBytes 1 words ++
    leBytes 4 W.toNat

/-- Bytes padded with zeros to a multiple of 16. -/
def pad16 (bs : List Byte) : List Byte := bs ++ List.replicate ((16 - bs.length % 16) % 16) 0

/-- The log of the executing launch moved past an entry. -/
def State.logMoved (s : State) (n : Nat) : State :=
  let lk := s.myBlock.launch
  let l := s.launch lk
  s.setLaunch lk { l with logPos := l.logPos + n }

/-- An entry appended under RECORD (R345). -/
def State.logAppend (s : State) (kind words : Nat) (W : LaneMask) (payload : List Byte) : LogAct :=
  let l := s.myLaunch
  let e := pad16 (s.logHeader kind words W ++ payload)
  if l.logSize < l.logPos + e.length then .kill 0xFFFE
  else
    match s.deliver s.logger .write (l.logAddr + l.logPos) e with
    | .ok t => .ok (t.logMoved e.length) payload
    | .wait t => .wait t
    | .denied => .kill 0xFFFE

/-- An entry header without its words byte, which the comparison of R345 does not name. -/
def compared (h : List Byte) : List Byte := h.take 11 ++ h.drop 12

/-- The next entry read under REPLAY, `n` payload bytes expected; its count, warp, kind and mask are compared (R345). -/
def State.logNext (s : State) (kind words : Nat) (W : LaneMask) (n : Nat) : LogAct :=
  let l := s.myLaunch
  let size := (16 + n + 15) / 16 * 16
  if l.logSize < l.logPos + size then .kill 0xFFFE
  else
    match s.fetch s.logger (l.logAddr + l.logPos) size with
    | .ok bs =>
      if compared (bs.take 16) = compared (s.logHeader kind words W) then .ok (s.logMoved size) ((bs.drop 16).take n)
      else .kill 0xFFFF
    | .wait t => .wait t
    | .denied => .kill 0xFFFE

/-- The tag and digest of a DETPT entry (R245). -/
def detDigest (tag : Imm16) (W : LaneMask) (st : Storage) : List Byte :=
  leBytes 4 tag.toNat ++ shake256 ((List.finRange 32).flatMap fun l =>
    leBytes 4 (if W.getLsbD l.val then (st.lane l).toNat else 0)) 8

/-- The words-per-lane byte of a DETPT entry: the manual gives it only the range 1 to 4 (log entry 7). -/
def detWords : Nat := 1 + (Config.unstated 6 0 0).toNat % 4

/-- DETPT (R245, R345). In replay a difference in count, warp, kind or mask raises REPLAY with 0xFFFF, as for every entry, and
one in the tag or the digest raises it with the tag. With an empty W there is no entry (log entry 95). -/
def execDetpt (g : Guard) (a : Src) (tag : Imm16) (s : State) : Res :=
  let W := s.wset g
  let p := detDigest tag W (s.me.src a)
  s.perform a.scalar (a.uses 1) .go fun t =>
    if !s.myLaunch.proof || W == 0 then .next t.advance
    else if s.myLaunch.recording then
      match t.logAppend 2 detWords W p with
      | .ok u _ => .next u.advance
      | .wait u => .next (u.setMe s.me)
      | .kill d => s.trapKill 0x16 d
    else if s.myLaunch.replay then
      match t.logNext 2 detWords W p.length with
      | .ok u q => if q = p then .next u.advance else s.trapKill 0x16 tag.toNat
      | .wait u => .next (u.setMe s.me)
      | .kill d => s.trapKill 0x16 d
    else .next t.advance

end Sys2Proof.Machine
end

