-- ==== Sys2Proof/Machine/Memory.lean ====
section
/-! DEFINITION. Accesses through buffer records: records and places (R31, R177, R178), the checks of R176, waits and the
operand log (R180, R212), the effect of an access on each lane (R185, R186, R192, R194, R197, R198, R282), registers
in flight and their answers (R23), and its issue with translation, answers from outside and the replay log (R213, R345, R425,
R426). -/

namespace Sys2Proof.Machine

/-! ### Buffer records (R31, R177, R178) -/

/-- BASE of a buffer record (R31). -/
def recBase (r : Record) : Nat := bitsOf r.toNat 56 0
/-- EXTENT. -/
def recExtent (r : Record) : Nat := bitsOf r.toNat 95 64
/-- STRIDE. -/
def recStride (r : Record) : Nat := bitsOf r.toNat 127 96
/-- ESIZE. -/
def recEsize (r : Record) : Nat := bitsOf r.toNat 131 128
/-- SWZ. -/
def recSwz (r : Record) : Nat := bitsOf r.toNat 135 132
/-- OOBT. -/
def recOobt (r : Record) : Bool := bitOf r.toNat 136
/-- SWLOG. -/
def recSwlog (r : Record) : Nat := bitsOf r.toNat 164 160
/-- GUARD. -/
def recGuard (r : Record) : Nat := bitsOf r.toNat 255 192

/-- Bits [hi:lo] of a record replaced. -/
def recSet (r : Record) (hi lo v : Nat) : Record :=
  let x := r.toNat
  BitVec.ofNat 256 (x - bitsOf x hi lo * 2 ^ lo + v % 2 ^ (hi + 1 - lo) * 2 ^ lo)

/-- A record as a register takes it: writes of its reserved bits, which are RO and 0, are ignored (R7, R31). -/
def recClear (r : Record) : Record := recSet (recSet (recSet r 191 165 0) 159 137 0) 63 57 0

/-- Does a record hold a reserved field value? (R31) -/
def recReserved (r : Record) : Bool := decide (16 < recSwlog r) || decide (3 < recSwz r) || decide (4 < recEsize r)

/-- Does a record hold a reserved value, or SWLOG above 10 with 3D Morton? (R31, R176 step 2) -/
def recBad (r : Record) : Bool := recReserved r || (recSwz r == 2 && decide (10 < recSwlog r))

/-- Bytes per element (R177). -/
def recStep (r : Record) : Nat := if recStride r = 0 then 2 ^ recEsize r else recStride r

/-- The lowest bits of numbers, as a number, the first lowest. -/
def lowBits : List Nat → Nat
  | [] => 0
  | x :: xs => x % 2 + 2 * lowBits xs

/-- The bits of numbers interleaved, the first number's lowest (R178). -/
def interleave (xs : List Nat) : Nat → Nat
  | 0 => 0
  | n + 1 => lowBits xs + 2 ^ xs.length * interleave (xs.map (· / 2)) n

/-- The place of an element (R178). -/
def recPlace (r : Record) (i : Nat) : Nat :=
  let k := recSwlog r
  let e := 2 ^ k
  match recSwz r with
  | 1 => i / e ^ 2 * e ^ 2 + interleave [i % e, i % e ^ 2 / e] k
  | 2 => i / e ^ 3 * e ^ 3 + interleave [i % e, i / e % e, i % e ^ 3 / e ^ 2] k
  | 3 => i / e * e + ((i % e) ^^^ (i / e % e))
  | _ => i

/-- The element index of a lane (R177). -/
def recIndex (a off : Word) : Int := (a.toNat : Int) + off.toInt

/-- Is an index in bounds? (R177) -/
def recInside (r : Record) (i : Int) : Bool := decide (0 ≤ i) && decide (i < recExtent r)

/-- The address of an element (R177). -/
def recAddr (r : Record) (i : Int) : Nat := (recBase r + recPlace r i.toNat * recStep r) % 2 ^ 57

/-- The in-bounds lanes of W with their addresses. -/
def recLanes (r : Record) (W : LaneMask) (idx : Fin 32 → Int) : List (Nat × Nat) :=
  ((LaneMask.lanes W).filter fun l => recInside r (idx l)).map fun l => (l.val, recAddr r (idx l))

/-- R176 steps 2, 4 and 5 for a record access of `bytes` bytes a lane; `own` says whether the instruction's own record
limits fail. -/
def recGate (r : Record) (W : LaneMask) (idx : Fin 32 → Int) (bytes : Nat) (own : Bool) : Gate :=
  if W = 0 then .go
  else if recBad r || own then .trap 0x08 2
  else
    match (LaneMask.lanes W).find? fun l => recOobt r && !recInside r (idx l) with
    | some l => .trap 0x06 l.val
    | none =>
      match (recLanes r W idx).find? fun p => p.2 % bytes != 0 with
      | some p => .trap 0x0E p.1
      | none => .go

/-! ### Registers in flight -/

/-- A storage in flight with one lane's value in; a U result has one value for all. -/
def Storage.patch (st : Storage) (l : Fin 32) (x : Word) : Storage :=
  match st with
  | .u _ => .u x
  | st => .g (st.lanes.set l.val x)

/-- A destination in flight whose lane has its answer (R23). -/
def Inflight.patch (f : Inflight) (l : Fin 32) (x : Word) : Inflight :=
  let held := match f.value with
    | .u _ => 0
    | _ => f.held &&& ~~~LaneMask.one l
  { f with value := f.value.patch l x, held := held }

/-- The warp with an answer for a lane of a register in flight. -/
def Warp.patch (w : Warp) (r : Nat) (l : Fin 32) (x : Word) : Warp :=
  { w with inflight := w.inflight.map fun f =>
      if f.reg == r && f.held.getLsbD l.val then f.patch l x else f }

/-- An answer for a warp that may have ended meanwhile. -/
def State.patchWarp (s : State) (slot r : Nat) (l : Fin 32) (x : Word) : State :=
  match Map.find s.warps slot with
  | some w => s.setWarp slot (w.patch r l x)
  | none => s

/-- The register of a producer written whole: its result by R20, its mask clear, its flags set (R20, R23, R89). -/
def State.landed (s : State) (slot : Nat) (w : Warp) (f : Inflight) : Warp :=
  let w := s.storeReg slot w f.w f.whole false f.reg f.value
  { w.setVreg f.reg { w.vreg f.reg with pend := (w.vreg f.reg).pend &&& ~~~f.w } with
    inflight := w.inflight.erase f
    stuck := w.stuck.filter fun r => r != f.reg
    kflags := setFlags w.kflags f.flags }

/-- Is there a general slot for what a register in flight becomes? (R25) -/
def State.landRoom (s : State) (slot : Nat) (w : Warp) (f : Inflight) : Bool :=
  s.slotsFor slot w ((s.landed slot w f).gHeld - w.gHeld)

/-- A late write that finds no general slot waits, and its warp issues nothing until it can proceed (R20). -/
def Warp.stick (w : Warp) (r : Nat) : Warp := if w.stuck.contains r then w else { w with stuck := w.stuck ++ [r] }

/-- A register in flight with nothing held, written at once where there is room. -/
def State.land (s : State) (slot r : Nat) : State :=
  let w := s.warp slot
  match w.inflight.find? fun f => f.reg == r && f.held == 0 with
  | some f => s.setWarp slot (if s.landRoom slot w f then s.landed slot w f else w.stick r)
  | none => s

/-! ### Waits before a memory instruction (R180, R187, R204, R212, R278) -/

/-- Has the warp requests in its core's collector? -/
def State.collecting (s : State) : Bool := (s.core s.myCore).collector.any fun r => r.slot == s.cur.slot

/-- A memory instruction or engine command waits for a logged instruction, for acquires of its threads that are under
way, and for the warp's collector requests unless it joins them itself. -/
def State.memGate (s : State) (W : LaneMask) (guard : Nat) (joins : Bool) : Gate :=
  let blocked := s.me.pendings.any fun w => w.due &&& W != 0 &&
    (if w.guard then guard != 0 && w.key == guard else w.acquire)
  if s.me.log.isSome || blocked || (!joins && s.collecting) then .wait else .go

/-- Accesses of the executing warp outside the device that are not performed yet. -/
def State.outstanding (s : State) : Bool := s.unanswered s.cur.slot

/-- A release by the threads of W waits until their earlier accesses are performed, whatever its scope: pending ACQ and
WAITPH reads, and accesses outside the device (R277, R426). Releases being cumulative, every write that happens before one
of them has then been performed too, since the release that ordered it has waited alike (log entry 92). -/
def State.releaseGate (s : State) (W : LaneMask) (rel : Bool) : Gate :=
  if rel && (s.outstanding || s.me.waitsDue W) then .wait else .go

/-- A warp's threads end only when its logged instruction, its collector requests and its accesses outside the device are
performed (R213, R277, R287, R294); its pending WAITPH and ACQ reads keep the warp that they leave (Warp.over). -/
def State.exitGate (s : State) : Gate :=
  if s.me.log.isSome || s.collecting || s.outstanding then .wait else .go

/-- Do two accesses of a context share a byte, by their virtual addresses or by the locations behind them? -/
def State.sameByte (s : State) (ctx va n vb m : Nat) : Bool :=
  let meet (a b : Nat) : Bool := decide (a < b + m) && decide (b < a + n)
  meet va vb || (match s.walk ctx .read va, s.walk ctx .read vb with
    | .ok x, .ok y => meet x.loc y.loc
    | _, _ => false)

/-- Has a thread a pending ACQ whose guard word an access of n bytes meets? Its accesses to one byte take effect in program
order (R180, R276). -/
def State.guardMeets (s : State) (l va n : Nat) : Bool :=
  s.me.pendings.any fun x => x.guard && x.addrs.any fun p =>
    p.1 == l && x.due.getLsbD p.1 && s.sameByte s.myCtx va n p.2 4

/-- An access waits for the pending ACQs of its threads on bytes that it meets. -/
def State.byteGate (s : State) (lanes : List (Nat × Nat)) (n : Nat) : Gate :=
  if lanes.any fun p => s.guardMeets p.1 p.2 n then .wait else .go

/-- Is a scope CHIP or wider? -/
def wideScope (sc : Scope) : Bool := sc == .chip || sc == .dom || sc == .sys

/-! ### One lane's access -/

/-- The new value of an atomic operation on `bits` bits: old value, operand and compare value (R194, R195). -/
def atomNew (op : AtomOp) (bits old x y : Nat) : Nat :=
  let m : Nat := 2 ^ bits
  let int (v : Nat) : Int := if v < 2 ^ (bits - 1) then v else (v : Int) - m
  match op with
  | .add => (old + x) % m
  | .min => if int x < int old then x else old
  | .max => if int old < int x then x else old
  | .umin => min old x
  | .umax => max old x
  | .and => old &&& x
  | .or => old ||| x
  | .xor => old ^^^ x
  | .exch => x
  | .cas => if old = y then x else old
  | .fadd => (outF .rn (Val.add .rn (valF (BitVec.ofNat 32 old)) (valF (BitVec.ofNat 32 x)))).bits.toNat

/-- The number that the words of a lane hold, lowest first. -/
def wordsAt (vs : List Lanes) (l : Nat) : Nat :=
  match vs with
  | [] => 0
  | v :: vs => (v[Fin.ofNat 32 l]).toNat + 2 ^ 32 * wordsAt vs l

/-- What an access needs of its pages (R409). -/
def Acc.need (a : Acc) : Need :=
  match a.op with
  | .load _ => .read
  | .store => .write
  | .atom _ => .both
  | .guardLoad _ => .read
  | .guardStore _ => .both
  | .brick _ => .read
  | .move _ => .read

/-- Does an access write? -/
def Acc.writes (a : Acc) : Bool := a.need != .read

/-- What a lane writes over an old value; nothing when it only reads. -/
def Acc.new (a : Acc) (l old : Nat) : Option Nat :=
  let n := a.bytes / 4
  match a.op with
  | .store => some (wordsAt a.data l % 2 ^ (8 * a.bytes))
  | .atom op => some (atomNew op (8 * a.bytes) old (wordsAt (a.data.take n) l) (wordsAt (a.data.drop n) l))
  | .guardStore add => some ((wordsAt a.data l + if add then old else 0) % 2 ^ 32)
  | _ => none

/-- The clock of a core and the tag of a location after an access with ordering flags (R282): `.sc` takes a new time and
stores it; an acquire raises the clock to the tag; a release stores the clock. -/
def State.order (s : State) (core : Nat) (acq rel lam : Bool) (sc : Scope) (key n : Nat) (writes : Bool) : State :=
  let c := s.core core
  if lam then
    let ts := max c.lamport (s.tag key n) + 1
    let t := s.setCore core { c with lamport := ts }
    if writes then t.setTag key n ts else t
  else
    let t := if acq && wideScope sc then s.setCore core { c with lamport := max c.lamport (s.tag key n) } else s
    if rel && wideScope sc then t.setTag key n (t.core core).lamport else t

/-- An acquire of an engine command by a core: it synchronises with the releases that the issuing thread has read, so the
clock rises to the greatest tag on the device, which is at least theirs (R219, R282, R286). -/
def State.acquireAll (s : State) (core : Nat) (acq : Bool) (sc : Scope) : State :=
  if acq && wideScope sc then
    let c := s.core core
    s.setCore core { c with lamport := s.tags.foldl (fun m p => max m p.2) c.lamport }
  else s

/-- Has an access ordering flags whose tags travel with it? -/
def Acc.tagged (a : Acc) : Bool := a.lam || ((a.acq || a.rel) && wideScope a.sc)

/-- The number of an atomic operation in a message. -/
def atomCode (op : AtomOp) : Nat :=
  match op with
  | .add => 0
  | .min => 1
  | .max => 2
  | .umin => 3
  | .umax => 4
  | .and => 5
  | .or => 6
  | .xor => 7
  | .exch => 8
  | .cas => 9
  | .fadd => 10

/-- The kind of message that an access sends to another device: atomic operations from 64, 16 more for 64 bits, and
flags for acquire, release and `.sc` with their tags (R425, R426; the codes are the model's own). -/
def Acc.message (a : Acc) : Nat :=
  let k := match a.op with
    | .atom op => 64 + 16 * (a.bytes / 8) + atomCode op
    | .guardStore add => if add then 64 else msgWrite
    | .store => msgWrite
    | _ => msgRead
  k + (if a.acq && wideScope a.sc then 256 else 0) + (if a.rel && wideScope a.sc then 512 else 0) +
    (if a.lam then 1024 else 0)

/-- The operand bytes of the message for a lane, with the clock of a core where a tag travels. -/
def State.operand (s : State) (core : Nat) (a : Acc) (l : Nat) : List Byte :=
  (match a.op with
    | .store => leBytes a.bytes (wordsAt a.data l)
    | _ => leBytes (4 * a.data.length) (wordsAt a.data l)) ++
  (if a.tagged then leBytes 8 (s.core core).lamport else [])

/-- How one lane's access goes. -/
inductive Way where
  /-- performed on this device, or in the block's version -/
  | here (x : Xlat)
  /-- sent outside; the answer comes later or, for a write, an acknowledgement -/
  | away (x : Xlat)
  /-- must have its answer first, which is not there yet -/
  | ask (x : Xlat)
  /-- the answer that has come -/
  | answered (x : Xlat) (data : List Byte)
  /-- the bytes of a brick -/
  | brick (bs : List Byte) (missed : Bool)
  /-- the bytes of a brick that are still on the way -/
  | brickAsk
  | fault (va reason : Nat)
  | denied
  | moving
  deriving DecidableEq, Repr

/-- Who makes an access: its warp slot with the party that goes with it, and whether the launch is in proof mode. -/
structure Issuer where
  slot : Nat
  core : Nat
  party : Party
  proof : Bool
  deriving DecidableEq, Repr

/-- The warp in a slot as an issuer. -/
def State.issuer (s : State) (slot : Nat) : Issuer :=
  let bk := (s.warp slot).blk
  let l := s.launch (s.block bk).launch
  ⟨slot, slotCore slot, ⟨l.ctx, bk, .warp slot, slotCore slot, l.queue, 0⟩, l.proof⟩

/-- Must an access outside the device have its answer before the instruction takes effect? An acquire must, an atomic
operation of a versioned block must, and in proof mode so must every access, whose step ends when it is performed (R343). -/
def State.keeps (s : State) (u : Issuer) (a : Acc) : Bool :=
  match a.op with
  | .store => u.proof && !s.versioned u.party.bk
  | .guardStore add => if s.versioned u.party.bk then add else u.proof
  | .guardLoad _ => true
  | .load _ => a.acq || u.proof || s.versioned u.party.bk
  | .atom _ => a.acq || u.proof || s.versioned u.party.bk
  | _ => true

/-- The kind under which a kept answer was asked: a versioned block reads, and writes to its version (R303). -/
def State.askKind (s : State) (u : Issuer) (a : Acc) : Nat := if s.versioned u.party.bk then msgRead else a.message

/-- Does a range reach memory of another device? The issuing device caches nothing of it (R425). -/
def remoteRange (ps : List (Xlat × Nat)) : Bool := ps.any fun p => isExternal p.1.loc && decide (p.1.loc < hostBase)

/-- The way of a lane of a brick access (R192, R306). -/
def State.brickWay (s : State) (u : Issuer) (va : Nat) : Way :=
  match (s.core u.core).bricks.find? fun b => b.1 == u.party.ctx && b.2.1 == va with
  | some b => .brick b.2.2 false
  | none =>
    match s.rangeWalk u.party.ctx .read va 1024 with
    | .denied => .denied
    | .moving => .moving
    | .fault a r => .fault a r
    | .ok ps =>
      if s.waitsOn u.party.ctx u.party.who va 1024 then .fault va 0
      else
      match s.fetch u.party va 1024 with
      | .ok bs => .brick bs (!remoteRange ps)
      | _ => .brickAsk

/-- The answer kept for a lane at a place. -/
def State.laneAnswer (s : State) (u : Issuer) (a : Acc) (l loc : Nat) : Option (List Byte) :=
  (s.sentFor u.party.who (s.askKind u a) loc a.bytes l).bind ExtReq.data

/-- The way of a lane whose page is moving: it waits, unless its access was performed before the move began (R291). -/
def State.wayMoving (s : State) (u : Issuer) (a : Acc) (l va : Nat) : Way :=
  match s.walkSent u.party.ctx a.need va with
  | .ok x =>
    match s.laneAnswer u a l x.loc with
    | some bs => if s.keeps u a then .answered x bs else .moving
    | none => .moving
  | _ => .moving

/-- The way of one lane. -/
def State.way (s : State) (u : Issuer) (a : Acc) (l va : Nat) : Way :=
  match a.op with
  | .brick _ => s.brickWay u va
  | _ =>
    match s.walk u.party.ctx a.need va with
    | .denied => .denied
    | .moving => s.wayMoving u a l va
    | .fault r => .fault va r
    | .ok x =>
      if s.waitsOn u.party.ctx u.party.who va a.bytes then .fault va 0
      else if !isExternal x.loc || x.disc then .here x
      else if s.keeps u a && !(a.op == .store && decide (hostBase ≤ x.loc)) then
        match s.laneAnswer u a l x.loc with
        | some bs => .answered x bs
        | none => .ask x
      else if s.versioned u.party.bk then .here x
      else .away x

/-- The ways of every lane of an access. -/
def State.ways (s : State) (u : Issuer) (a : Acc) : List (Nat × Nat × Way) :=
  a.lanes.map fun p => (p.1, p.2, s.way u a p.1 p.2)

/-- The requests that an access still has to make before it takes effect. -/
def State.askAll (s : State) (u : Issuer) (a : Acc) (ws : List (Nat × Nat × Way)) : State :=
  ws.foldl (fun s w =>
    match w.2.2 with
    | .ask x => s.askKept u.party (s.askKind u a) x.loc a.bytes w.1 (s.operand u.core a w.1)
    | .brickAsk =>
      match s.fetch u.party w.2.1 1024 with
      | .wait t => t
      | _ => s
    | _ => s) s

/-- Gates of translation: a permission failure, then a wait for a migration (R176 step 6, R409). -/
def wayGate (ws : List (Nat × Nat × Way)) : Gate :=
  if ws.any fun w => w.2.2 == .denied then .trap 0x08 4
  else if ws.any fun w => w.2.2 == .moving then .wait
  else .go

/-- The translation of a lane, where it has one. -/
def Way.xlat (w : Way) : Option Xlat :=
  match w with
  | .here x => some x
  | .away x => some x
  | .ask x => some x
  | .answered x _ => some x
  | _ => none

/-- The lines that an access would write into the block's version. -/
def Acc.newLines (a : Acc) (ws : List (Nat × Nat × Way)) : List Nat :=
  if a.writes then ws.filterMap fun w => w.2.2.xlat.map fun x => x.loc / 128 else []

/-- The addresses of the lanes whose pages do not translate. -/
def faultedAt (ws : List (Nat × Nat × Way)) : List Nat :=
  ws.filterMap fun w =>
    match w.2.2 with
    | .fault _ _ => some w.2.1
    | _ => none

/-- Could the lanes that met a fault take the block's version past its budget? Then the instruction performs nothing before
every lane translates: VERSIONFULL is raised before any of its writes, or not at all (R304). -/
def State.versionShort (s : State) (u : Issuer) (a : Acc) (ws : List (Nat × Nat × Way)) : Bool :=
  a.writes && s.versionFull u.party.bk (a.newLines ws ++ (s.block u.party.bk).addressLines (faultedAt ws))

/-- VERSIONFULL with the budget (R304). -/
def State.versionGate (s : State) (u : Issuer) (a : Acc) (ws : List (Nat × Nat × Way)) : Gate :=
  Gate.trapIf (a.writes && s.versionFull u.party.bk (a.newLines ws)) 0x0F
    (s.launch (s.block u.party.bk).launch).vbud

/-- An answer as the block sees it: bytes of its version over the answer's (R305). -/
def State.seen (s : State) (u : Issuer) (loc n : Nat) (data : List Byte) : Nat :=
  let ver := s.version u.party.bk
  leNat ((List.range n).map fun i => (Map.find ver (loc + i)).getD ((data[i]?).getD 0))

/-- A brick kept in the brick cache, the oldest out when it is full (R306). -/
def State.keepBrick (s : State) (core ctx va : Nat) (bs : List Byte) : State :=
  let c := s.core core
  if c.bricks.any fun b => b.1 == ctx && b.2.1 == va then s
  else
    let room := c.bricks.drop (c.bricks.length + 1 - c.brickCap)
    s.setCore core { c with bricks := (room ++ [(ctx, va, bs)]).take c.brickCap }

/-- Where the bytes of an answer go, register by register (R185, R194). -/
def Acc.parts (a : Acc) (slot l : Nat) : List ExtPart :=
  let signed := match a.op with
    | .load b => b
    | _ => false
  a.dests.mapIdx fun k d => ⟨slot, d, l, 4 * k, min 4 (a.bytes - 4 * k), signed⟩

/-- What an access has come to, lane by lane: the state, the value that each lane read, the lanes that wait for an
answer, and the lanes that faulted. -/
structure Done where
  state : State
  vals : List (Nat × List Word)
  held : List Nat
  faults : List (Nat × Nat)

/-- A value read as the words of its destinations (R185). -/
def Acc.split (a : Acc) (v : Nat) : List Word :=
  let signed := match a.op with
    | .load b => b
    | _ => false
  a.dests.mapIdx fun k _ =>
    let x := v / 2 ^ (32 * k)
    if signed && decide (a.bytes < 4) then (BitVec.ofNat (8 * a.bytes) x).signExtend 32 else BitVec.ofNat 32 x

/-- The words that a release wrote to the version of a block noted, for their tags at the commit (R290). -/
def State.noteTags (s : State) (bk loc n : Nat) : State :=
  let b := s.block bk
  s.setBlock bk { b with verTags := (b.verTags ++ wordsOf loc n).dedup }

/-- The write of a lane performed where its location lies, with its tags; those of a release in a version are stored at its
commit. -/
def State.writeLane (s : State) (u : Issuer) (a : Acc) (x : Xlat) (v : Nat) : State :=
  let t := s.writeAt u.party.ctx u.party.bk u.party.who x (leBytes a.bytes v)
  if s.versioned u.party.bk then
    let t := t.order u.core a.acq false false a.sc x.loc a.bytes true
    if a.rel && wideScope a.sc then t.noteTags u.party.bk x.loc a.bytes else t
  else t.order u.core a.acq a.rel a.lam a.sc x.loc a.bytes true

/-- One lane performed on this device with the old value it acts on (R185, R186, R194). -/
def State.actLane (s : State) (u : Issuer) (a : Acc) (l : Nat) (x : Xlat) (old : Nat) : State :=
  match a.new l old with
  | none => s.order u.core a.acq a.rel a.lam a.sc x.loc a.bytes false
  | some v => s.writeLane u a x v

/-- One lane of an access. -/
def State.oneLane (s : State) (u : Issuer) (a : Acc) (l : Nat) (w : Way) : State × Option (List Word) × Bool :=
  match w with
  | .here x =>
    let old := s.readAt (s.version u.party.bk) x a.bytes
    (s.actLane u a l x old, some (a.split old), false)
  | .answered x data =>
    let old := s.seen u x.loc a.bytes data
    if s.versioned u.party.bk && a.writes then (s.actLane u a l x old, some (a.split old), false)
    else if hostBase ≤ x.loc then
      (s.order u.core a.acq a.rel a.lam a.sc x.loc a.bytes a.writes, some (a.split old), false)
    else
      let c := s.core u.core
      let t := if a.tagged then
          s.setCore u.core { c with lamport := max c.lamport (leNat ((data.drop (answerBytes a)).take 8)) }
        else s
      (t, some (a.split old), false)
  | .away x =>
    match a.op with
    | .store =>
      if hostBase ≤ x.loc then
        ((s.putLoc u.party.ctx u.party.who x.loc (leBytes a.bytes (wordsAt a.data l))).order u.core a.acq a.rel a.lam a.sc
          x.loc a.bytes true, none, false)
      else
        let p := s.place x.loc
        (s.request ⟨0, p.1, a.message, p.2, s.operand u.core a l, a.bytes, u.party.who, u.party.ctx, [], none, 0, 0,
          l⟩, none,
          false)
    | _ =>
      let p := s.place x.loc
      let t := s.request ⟨0, p.1, a.message, p.2, s.operand u.core a l, a.bytes, u.party.who, u.party.ctx, a.parts u.slot l,
        none, 0, 0, l⟩
      (if hostBase ≤ x.loc then t.order u.core a.acq a.rel a.lam a.sc x.loc a.bytes a.writes else t, none,
        !a.dests.isEmpty)
  | .brick bs missed =>
    let grad := match a.op with
      | .brick g => g
      | _ => false
    let p (k : Nat) : Word := ((a.data[k]?).map fun v => v[Fin.ofNat 32 l]).getD 0
    let t := if missed then s.keepBrick u.core u.party.ctx leftVa bs else s
    (t, some (brickWords bs grad (p 0) (p 1) (p 2)), false)
  | _ => (s, none, false)
where
  /-- The address of the lane's brick. -/
  leftVa : Nat := ((a.lanes.find? fun p => p.1 == l).map Prod.snd).getD 0
  /-- The bytes of an answer before its tag: a plain write has none. -/
  answerBytes (a : Acc) : Nat := if a.message % 256 = msgWrite then 0 else a.bytes

/-- Every lane of an access, ascending (R194). -/
def State.allLanes (s : State) (u : Issuer) (a : Acc) (ws : List (Nat × Nat × Way)) : Done :=
  ws.foldl (fun d w =>
    match w.2.2 with
    | .fault va _ => { d with faults := d.faults ++ [(w.1, va)] }
    | _ =>
      let r := d.state.oneLane u a w.1 w.2.2
      { d with
        state := r.1
        vals := d.vals ++ (match r.2.1 with
          | some x => [(w.1, x)]
          | none => [])
        held := d.held ++ listIf r.2.2 w.1 }) ⟨s, [], [], []⟩

/-- The faults of an access recorded, one for each line (R411). -/
def State.recordFaults (s : State) (u : Issuer) (a : Acc) (ws : List (Nat × Nat × Way)) : State :=
  ws.foldl (fun s w =>
    match w.2.2 with
    | .fault va r => s.faultLane u.party a.writes va r w.1
    | _ => s) s

/-- The lanes of an access with what it delivers in each destination: one value for all, or lane values with 0 where
nothing was delivered. -/
def Acc.storages (a : Acc) (vals : List (Nat × List Word)) : List (Nat × Storage) :=
  a.dests.mapIdx fun k d =>
    let at' (l : Nat) : Word := ((vals.find? fun p => p.1 == l).bind fun p => p.2[k]?).getD 0
    if a.unif then (d, .u (((vals.head?).bind fun p => p.2[k]?).getD 0))
    else (d, .g (Lanes.of fun l => at' l.val))

/-- The mask of lane numbers. -/
def maskOf (ls : List Nat) : LaneMask := LaneMask.of fun l => ls.contains l.val

/-! ### The issue of an access -/

/-- The logged words of a replayed entry, lane by lane (R345). -/
def loggedVals (n : Nat) : List (Fin 32) → List Byte → List (Nat × List Word)
  | [], _ => []
  | l :: ls, bs =>
    (l.val, (List.range n).map fun k => BitVec.ofNat 32 (field bs (4 * k) 4)) :: loggedVals n ls (bs.drop (4 * n))

/-- The payload of a log entry: the delivered words of the lanes of W, ascending (R345). -/
def logPayload (W : LaneMask) (rs : List (Nat × Storage)) : List Byte :=
  (LaneMask.lanes W).flatMap fun l => rs.flatMap fun r => leBytes 4 (r.2.lane l).toNat

/-- The value of a lane from logged words. -/
def wordsNat : List Word → Nat
  | [] => 0
  | w :: ws => w.toNat + 2 ^ 32 * wordsNat ws

/-- Does an access deliver values read from global memory? (R345) -/
def Acc.delivers (a : Acc) : Bool := !a.dests.isEmpty

/-- The end of an access that passed every check: registers, or the move of its run. -/
def State.endAccess (s t : State) (W held : LaneMask) (us : List Use) (a : Acc) (rs : List (Nat × Storage)) : Res :=
  if a.dests.isEmpty then .next (t.setMe (t.me.free (s.frees us []))).advance
  else s.deliverRegs t W held us rs LaneFlags.zero

/-- Does a lane of a replayed access write to another device, whose acknowledgement ends the step? -/
def Way.remote (w : Way) : Option Xlat := w.xlat.filter fun x => isExternal x.loc && decide (x.loc < hostBase) && !x.disc

/-- An access under REPLAY: it acts on the logged values, and only writes reach memory, the result of the operation on the
logged old value; at another device as a plain write that is awaited (R343, R345). -/
def State.replayAccess (s : State) (W : LaneMask) (us : List Use) (a : Acc) (ws : List (Nat × Nat × Way)) : Res :=
  let n := a.dests.length
  match s.logNext 1 n W (4 * n * LaneMask.count W) with
  | .wait t => .next t
  | .kill d => s.trapKill 0x16 d
  | .ok t bs =>
    let vals := loggedVals n (LaneMask.lanes W) bs
    let u := s.issuer s.cur.slot
    let p := u.party
    let old (l : Nat) : Nat := wordsNat (((vals.find? fun q => q.1 == l).map Prod.snd).getD [])
    let far := if a.writes && !s.versioned p.bk then
        ws.filterMap fun w => w.2.2.remote.bind fun x => (a.new w.1 (old w.1)).map fun v => (w.1, x.loc, v)
      else []
    let due := far.filter fun q => !((s.sentFor p.who msgWrite q.2.1 a.bytes q.1).bind ExtReq.data).isSome
    if !due.isEmpty then
      .next (due.foldl (fun s q => s.askKept p msgWrite q.2.1 a.bytes q.1 (leBytes a.bytes q.2.2)) s)
    else
      let t := if a.writes then
          ws.foldl (fun t w =>
            match w.2.2.xlat with
            | some x => if far.any fun q => q.1 == w.1 then t else t.actLane u a w.1 x (old w.1)
            | none => t) t
        else t
      s.endAccess (t.dropKept p.who) W 0 us a (a.storages vals)

/-- The effect of an access whose lanes are all settled or may wait: performed, logged where a lane faulted, its
destinations set in flight (R185, R212, R213). -/
def State.doAccess (s : State) (W : LaneMask) (us : List Use) (a : Acc) (ws : List (Nat × Nat × Way)) : Res :=
  let u := s.issuer s.cur.slot
  let d := (s.cacheWalks u.party.ctx a.need (a.lanes.map Prod.snd)).allLanes u a ws
  let t := d.state.dropKept u.party.who
  let t := if d.faults.isEmpty then t.settle u.party.ctx u.party.who
    else (t.recordFaults u a ws).setMe { t.me with
      log := some ⟨{ a with lanes := d.faults }, s.cur.pc, W, W == s.me.live, s.cur.run⟩ }
  let waiting := maskOf (d.held ++ d.faults.map Prod.fst)
  let held := if a.unif && waiting != 0 then W else waiting
  s.endAccess t W held us a (a.storages d.vals)

/-- An access in a recording run: its values are appended to the log (R345). -/
def State.recordAccess (s : State) (W : LaneMask) (us : List Use) (a : Acc) (ws : List (Nat × Nat × Way)) : Res :=
  let u := s.issuer s.cur.slot
  let d := s.allLanes u a ws
  let rs := a.storages d.vals
  match s.logAppend 1 a.dests.length W (logPayload W rs) with
  | .wait t => .next t
  | .kill k => s.trapKill 0x16 k
  | .ok _ _ =>
    match (d.state.dropKept u.party.who).logAppend 1 a.dests.length W (logPayload W rs) with
    | .ok t _ => s.endAccess (t.settle u.party.ctx u.party.who) W 0 us a rs
    | _ => .next s

/-- The issue of a global access: W, whether a scalar register is read, its vector sources, the checks of R176 before
translation, the guard that its requests carry, and the access. -/
def State.access (s : State) (W : LaneMask) (scalar : Bool) (us : List Use) (check : Gate) (guard : Nat) (a : Acc) : Res :=
  let u := s.issuer s.cur.slot
  let a := if a.unif then { a with lanes := a.lanes.take 1 } else a
  let replayed := s.myLaunch.proof && s.myLaunch.replay && a.delivers && W != 0
  let ws := if replayed && !a.writes then [] else s.ways u a
  let gate := ((((((s.readGate scalar us).and (s.memGate W guard false)).and check).and
    (s.byteGate a.lanes a.bytes)).and (wayGate ws)).and
    (s.versionGate u a ws)).and ((s.releaseGate W a.rel).and (s.destGate W us a.dests))
  match gate with
  | .wait => .next s
  | .trap code detail => s.trap code detail
  | .go =>
    let faulted := ws.any fun w => (match w.2.2 with
      | .fault _ _ => true
      | _ => false)
    if replayed && !faulted then s.replayAccess W us a ws
    else if ws.any fun w => (match w.2.2 with
        | .ask _ => true
        | .brickAsk => true
        | _ => false) then .next (s.askAll u a ws)
    else if faulted && (s.myLaunch.proof || s.versionShort u a ws) then .next (s.recordFaults u a ws)
    else if s.myLaunch.proof && s.myLaunch.recording && a.delivers && W != 0 then s.recordAccess W us a ws
    else s.doAccess W us a ws

end Sys2Proof.Machine
end

