-- ==== Sys2Proof/Machine/MemOps.lean ====
section
/-! DEFINITION. The memory and synchronisation instructions (R183 to R205). -/

namespace Sys2Proof.Machine

/-! ### Operands -/

/-- Bytes of an access (R184). -/
def widthBytes (w : Width) : Nat :=
  match w with
  | .b8 => 1
  | .s8 => 1
  | .b16 => 2
  | .s16 => 2
  | .b32 => 4
  | .b64 => 8
  | .b128 => 16

/-- Does a load extend the sign? (R184) -/
def widthSigned (w : Width) : Bool := w == .s8 || w == .s16

/-- The registers of a group. -/
def regGroup (d k : Nat) : List Nat := (List.range k).map fun i => d + i

/-- The lanes of the words of a source. -/
def Warp.words (w : Warp) (v : Src) (k : Nat) : List Lanes := (List.range k).map fun i => (w.srcAt v i).lanes

/-- The element index of each lane (R177). -/
def Warp.index' (w : Warp) (a : Src) (off : Word) (l : Fin 32) : Int := recIndex ((w.src a).lane l) off

/-- The core SRAM address of each lane (R181). -/
def Warp.sramAt (w : Warp) (a : Src) (off : Word) (l : Fin 32) : Nat := sramAddr ((w.src a).lane l) off

/-- The number at a core SRAM address, 0 where R37 gives no place. -/
def State.sramNat (s : State) (bk addr n : Nat) : Nat :=
  match s.sram bk addr n with
  | .ok b off => s.sramRead b off n
  | _ => 0

/-- A number put at a core SRAM address. -/
def State.sramPut (s : State) (bk addr n v : Nat) : State :=
  match s.sram bk addr n with
  | .ok b off => s.sramWrite b off n v
  | _ => s

/-- The tag key of a core SRAM address. -/
def State.sramKey (s : State) (bk addr n : Nat) : Nat :=
  match s.sram bk addr n with
  | .ok b off => b.key off
  | _ => 0

/-- A read, combine and write of each lane of W in turn at core SRAM addresses, with ordering flags; the old values
(R194, R203). -/
def State.sramModify (s : State) (W : LaneMask) (addr : Fin 32 → Nat) (n : Nat) (acq rel : Bool) (sc : Scope)
    (f : Fin 32 → Nat → Nat) : State × List (Nat × Nat) :=
  let bk := s.me.blk
  (LaneMask.lanes W).foldl (fun p l =>
    let old := p.1.sramNat bk (addr l) n
    ((p.1.sramPut bk (addr l) n (f l old)).order s.myCore acq rel false sc (p.1.sramKey bk (addr l) n) n true,
      p.2 ++ [(l.val, old)])) (s, [])

/-- Lane values from old values: word k of each. -/
def oldLanes (vs : List (Nat × Nat)) (k : Nat) : Storage :=
  .g (Lanes.of fun l => BitVec.ofNat 32 (((vs.find? fun p => p.1 == l.val).map Prod.snd).getD 0 / 2 ^ (32 * k)))

/-! ### Loads and stores (R184 to R186) -/

/-- LD (R185). -/
def execLd (g : Guard) (d : Nat) (wid : Width) (_hint : Hint) (acq : Bool) (sc : Scope) (br : Nat) (a : Src) (off : Word)
    (s : State) : Res :=
  let W := s.wset g
  let r := s.me.breg br
  let n := widthBytes wid
  s.access W a.scalar (a.uses 1) (recGate r W (s.me.index' a off) n (decide (2 ^ recEsize r < n))) (recGuard r)
    ⟨.load (widthSigned wid), n, acq, false, false, sc, regGroup d wid.regs, recLanes r W (s.me.index' a off), [],
      (s.me.src a).isU⟩

/-- ST (R186). -/
def execSt (g : Guard) (wid : Width) (_hint : Hint) (rel : Bool) (sc : Scope) (br : Nat) (a : Src) (off : Word) (v : Src)
    (s : State) : Res :=
  let W := s.wset g
  let r := s.me.breg br
  let n := widthBytes wid
  s.access W (a.scalar || v.scalar) (a.uses 1 ++ v.uses wid.regs)
    (recGate r W (s.me.index' a off) n (decide (2 ^ recEsize r < n))) (recGuard r)
    ⟨.store, n, false, rel, false, sc, [], recLanes r W (s.me.index' a off), s.me.words v wid.regs, false⟩

/-- One word of a core SRAM load, extended (R185). -/
def loadWord (wid : Width) (v k : Nat) : Word :=
  let n := widthBytes wid
  if widthSigned wid then (BitVec.ofNat (8 * n) v).signExtend 32 else BitVec.ofNat 32 (v / 2 ^ (32 * k))

/-- LDS (R185). -/
def execLds (g : Guard) (d : Nat) (wid : Width) (a : Src) (off : Word) (s : State) : Res :=
  let W := s.wset g
  let n := widthBytes wid
  let word (l : Fin 32) (k : Nat) : Word :=
    if W.getLsbD l.val then loadWord wid (s.sramNat s.me.blk (s.me.sramAt a off l) n) k else 0
  let st (k : Nat) : Storage :=
    if (s.me.src a).isU then .u (word W.lowest k) else .g (Lanes.of fun l => word l k)
  s.produceThen W a.scalar (a.uses 1)
    ((s.memGate W 0 false).and (s.sramGate s.me.blk W (s.me.sramAt a off) n n))
    ((List.range wid.regs).map fun k => (d + k, st k)) id

/-- STS (R186): lanes ascend, so that the highest lane's value remains (R180). -/
def execSts (g : Guard) (wid : Width) (a : Src) (off : Word) (v : Src) (s : State) : Res :=
  let W := s.wset g
  let n := widthBytes wid
  let vs := s.me.words v wid.regs
  s.perform (a.scalar || v.scalar) (a.uses 1 ++ v.uses wid.regs)
    ((s.memGate W 0 false).and (s.sramGate s.me.blk W (s.me.sramAt a off) n n)) fun t =>
    .next ((LaneMask.lanes W).foldl (fun t l => t.sramPut s.me.blk (s.me.sramAt a off l) n (wordsAt vs l.val)) t).advance

/-! ### The request collector (R187, R188) -/

/-- ROLE where a launch with roles forbids GATHER and SCATTER to the warp (R188). -/
def State.roleGate (s : State) (W : LaneMask) (op : Nat) (allowed : Role → Bool) : Gate :=
  Gate.trapIf (W != 0 && !allowed s.me.role) 0x0C (op + 2 ^ 10 * s.me.role.code)

/-- The roles that may gather (R188). -/
def gatherRole (r : Role) : Bool := r == .any || r == .feed

/-- The lane requests that a core's collector holds. -/
def Core.requests (c : Core) : Nat := c.collector.foldl (fun n r => n + r.addrs.length) 0

/-- Requests put into the core's collector; the window's age starts with its first request. What would pass the 256 requests
of the window stands apart, for the next one (R187). -/
def State.collectOne (s : State) (r : CollectReq) : State :=
  let c := s.core s.myCore
  let room := 256 - c.requests
  s.setCore s.myCore { c with
    collector := c.collector ++ { r with addrs := r.addrs.take room } ::
      listIf (decide (room < r.addrs.length)) { r with addrs := r.addrs.drop room }
    collectorAge := if c.collector.isEmpty then 0 else c.collectorAge }

/-- The translation that a request took, with the entry as it stands when its page was discarded meanwhile (R420). -/
def State.renewed (s : State) (x : Xlat) : Xlat :=
  if !x.disc && s.mem.read x.leaf 8 == x.entry + 2 ^ 8 then { x with entry := x.entry + 2 ^ 8 } else x

/-- The words that a gathered number gives its destination registers (R185). -/
def CollectReq.words (r : CollectReq) (v : Nat) : List Word :=
  if r.bytes < 4 then
    [if r.signed then (BitVec.ofNat (8 * r.bytes) v).signExtend 32 else BitVec.ofNat 32 v]
  else (List.range (r.bytes / 4)).map fun k => BitVec.ofNat 32 (v / 2 ^ (32 * k))

/-- One request of a closed window performed: a GATHER's lanes read and patched, a SCATTER's written, ascending. -/
def State.collected (s : State) (r : CollectReq) : State :=
  let bk := (s.warp r.slot).blk
  let ctx := (s.launch (s.block bk).launch).ctx
  match r.dest with
  | some d =>
    r.addrs.foldl (fun s p =>
      (r.words (s.readAt (s.version bk) (s.renewed p.2) r.bytes)).zipIdx.foldl (fun s q =>
        s.patchWarp r.slot (d + q.2) (Fin.ofNat 32 p.1) q.1) s) s
  | none =>
    r.addrs.foldl (fun s p =>
      s.writeAt ctx bk (.warp r.slot) (s.renewed p.2) (leBytes r.bytes ((Map.find r.data p.1).getD 0))) s

/-- The requests of the open window, of at most n lane requests, and those that stand apart for the next. -/
def splitWindow : Nat → List CollectReq → List CollectReq × List CollectReq
  | _, [] => ([], [])
  | 0, rs => ([], rs)
  | n + 1, r :: rs =>
    let p := splitWindow (n + 1 - r.addrs.length) rs
    (r :: p.1, p.2)

/-- The open window of a core's collector closed: its requests performed in order (R187). -/
def State.closeWindow (s : State) (core : Nat) : State :=
  let c := s.core core
  let p := splitWindow 256 c.collector
  p.1.foldl State.collected (s.setCore core { c with collector := p.2, collectorAge := 0 })

/-- A window that holds 256 requests closes (R187). -/
def State.closeFullWindow (s : State) (core : Nat) : State := if 256 ≤ (s.core core).requests then s.closeWindow core else s

/-- The place of a lane that the collector takes: its access is made on this device or in the version. A write that reinstates
a discarded page is performed at once, with the translation that found it (R420). -/
def wayCollected (writes : Bool) (w : Way) : Option Xlat :=
  match w with
  | .here x => if writes && x.disc then none else some x
  | _ => none

/-- Do all lanes that translate go to the collector? One that does not waits for the warp's requests there (R180). -/
def waysJoin (writes : Bool) (ws : List (Nat × Nat × Way)) : Bool :=
  ws.all fun w => (wayCollected writes w.2.2).isSome || w.2.2.xlat.isNone

/-- The issue of a GATHER or SCATTER: as an access, but its lanes wait in the collector (R187). -/
def State.collect (s : State) (W : LaneMask) (scalar : Bool) (us : List Use) (check : Gate) (guard : Nat) (a : Acc) : Res :=
  if s.myLaunch.proof then s.access W scalar us check guard a
  else
    let u := s.issuer s.cur.slot
    let a := if a.unif then { a with lanes := a.lanes.take 1 } else a
    let ws := s.ways u a
    match ((((((s.readGate scalar us).and (s.memGate W guard (waysJoin a.writes ws))).and check).and
      (s.byteGate a.lanes a.bytes)).and (wayGate ws)).and (s.versionGate u a ws)).and (s.destGate W us a.dests) with
    | .wait => .next s
    | .trap code detail => s.trap code detail
    | .go =>
      if ws.any fun w => (match w.2.2 with
          | .ask _ => true
          | _ => false) then .next (s.askAll u a ws)
      else if !(faultedAt ws).isEmpty && s.versionShort u a ws then .next (s.recordFaults u a ws)
      else
        let taken := ws.filterMap fun w => (wayCollected a.writes w.2.2).map fun x => (w.1, x)
        let d := s.allLanes u a (ws.filter fun w => (wayCollected a.writes w.2.2).isNone)
        let t := d.state.dropKept u.party.who
        let t := if d.faults.isEmpty then t.settle u.party.ctx u.party.who
          else (t.recordFaults u a ws).setMe { t.me with
            log := some ⟨{ a with lanes := d.faults }, s.cur.pc, W, W == s.me.live, s.cur.run⟩ }
        let t := if taken.isEmpty then t
          else t.collectOne ⟨s.cur.slot, a.dests.head?, a.bytes, a.op == .load true,
            taken, taken.map fun w => (w.1, wordsAt a.data w.1), W, W == s.me.live,
            a.unif⟩
        let waiting := maskOf (d.held ++ d.faults.map Prod.fst ++ taken.map Prod.fst)
        andThen (s.endAccess t W (if a.unif && waiting != 0 then W else waiting) us a (a.storages d.vals)) fun t =>
          t.closeFullWindow u.core

/-- GATHER (R187). -/
def execGather (g : Guard) (d : Nat) (wid : Width) (_hint : Hint) (br : Nat) (a : Src) (off : Word) (s : State) : Res :=
  let W := s.wset g
  let r := s.me.breg br
  let n := widthBytes wid
  s.collect W a.scalar (a.uses 1)
    ((s.roleGate W 0x185 gatherRole).and (recGate r W (s.me.index' a off) n (decide (2 ^ recEsize r < n)))) (recGuard r)
    ⟨.load (widthSigned wid), n, false, false, false, .blk, regGroup d wid.regs, recLanes r W (s.me.index' a off), [],
      (s.me.src a).isU⟩

/-- SCATTER (R187). -/
def execScatter (g : Guard) (wid : Width) (_hint : Hint) (br : Nat) (a : Src) (off : Word) (v : Src) (s : State) : Res :=
  let W := s.wset g
  let r := s.me.breg br
  let n := widthBytes wid
  s.collect W (a.scalar || v.scalar) (a.uses 1 ++ v.uses wid.regs)
    ((s.roleGate W 0x186 gatherRole).and (recGate r W (s.me.index' a off) n (decide (2 ^ recEsize r < n)))) (recGuard r)
    ⟨.store, n, false, false, false, .blk, [], recLanes r W (s.me.index' a off), s.me.words v wid.regs, false⟩

/-! ### Prefetch and discard (R189, R190) -/

/-- PREF (R189): no value changes. -/
def execPref (g : Guard) (_keep : Bool) (br : Nat) (a : Src) (_off : Word) (s : State) : Res :=
  let W := s.wset g
  let r := s.me.breg br
  s.perform a.scalar (a.uses 1)
    ((s.memGate W (recGuard r) false).and (Gate.trapIf (W != 0 && recBad r) 0x08 2)) fun t => .next t.advance

/-- Does a page lie within the bytes of a record? (R190) -/
def pageInside (r : Record) (va size : Nat) : Bool :=
  let p := va / size * size
  decide (recBase r ≤ p) && decide (p + size ≤ recBase r + recExtent r * recStep r)

/-- The pages that DISCARD marks: those of in-bounds lanes that are mapped, writable and wholly covered, each once. -/
def State.discardPages (s : State) (r : Record) (ls : List (Nat × Nat)) : List Xlat :=
  ((ls.filterMap fun p =>
    match s.walk s.myCtx .write p.2 with
    | .ok x => if pageInside r p.2 x.size then some { x with loc := x.page, va := p.2 / x.size * x.size } else none
    | _ => none)).dedup

/-- One page marked discarded by a block (R420): DISC in the leaf entry as it stands in memory, which a walk may have seen in
an older form, and in the frame table. An entry that maps no page any more is left. -/
def State.discardPage (s : State) (bk : Nat) (x : Xlat) : State :=
  let e := s.mem.read x.leaf 8
  if !bitOf e 0 || !bitOf e 2 || bitOf e 8 then s
  else
    let page := bitsOf e 51 16 * 2 ^ 16
    let t := State.dropEntry (a := x.leaf) { s with
      mem := Mem.write s.mem x.leaf 8 (e + 2 ^ 8)
      frames := if bitOf e 11 || isExternal page then s.frames else
        (List.range (x.size / 2 ^ 16)).foldl (fun f i =>
          Map.put f (page / 2 ^ 16 + i) { Map.getD f (page / 2 ^ 16 + i) FrameInfo.reset with discarded := some x.leaf }
            FrameInfo.reset) s.frames }
    t.ownWrite bk page x.size

/-- The lines of a page. -/
def pageLinesOf (x : Xlat) : List Nat := (List.range (x.size / 128)).map fun i => x.page / 128 + i

/-- Do the lanes meet a page that is being migrated? -/
def State.discardMoving (s : State) (ls : List (Nat × Nat)) : Bool :=
  ls.any fun p => s.walk s.myCtx .write p.2 == .moving

/-- DISCARD (R190, R196): in a versioned launch zeros go to the version. -/
def execDiscard (g : Guard) (br : Nat) (a : Src) (off : Word) (s : State) : Res :=
  let W := s.wset g
  let r := s.me.breg br
  let bk := s.me.blk
  let ls := recLanes r W (s.me.index' a off)
  let ps := s.discardPages r ls
  s.perform a.scalar (a.uses 1)
    ((((s.memGate W (recGuard r) false).and (Gate.trapIf (W != 0 && recBad r) 0x08 2)).and
      (if s.discardMoving ls || ps.any (fun x => s.me.pendings.any fun w => w.guard && w.addrs.any fun p =>
          w.due.getLsbD p.1 && W.getLsbD p.1 && s.sameByte s.myCtx x.va x.size p.2 4)
        then .wait else .go)).and
      (Gate.trapIf (s.versionFull bk (ps.flatMap pageLinesOf)) 0x0F s.myLaunch.vbud)) fun t =>
    .next (ps.foldl (fun t x =>
      if t.versioned bk then t.writeAt s.myCtx bk (.warp s.cur.slot) x (List.replicate x.size 0) else t.discardPage bk x)
      t).advance

/-! ### Bricks (R192) -/

/-- BRKS and BRKG (R192). A BASE that is no multiple of 1,024 is not checked: the brick begins at the address that the lane
fetches (log entry 95). -/
def State.sampleBrick (s : State) (g : Guard) (d n : Nat) (br : Nat) (a : Src) (off : Word) (p : VSrc) : Res :=
  let W := s.wset g
  let r := s.me.breg br
  s.access W a.scalar (a.uses 1 ++ p.uses 3)
    (recGate r W (s.me.index' a off) 1 (recStride r == 0 || recStride r % 1024 != 0 || recSwz r != 0)) (recGuard r)
    ⟨.brick (n == 4), 1024, false, false, false, .blk, regGroup d n, recLanes r W (s.me.index' a off),
      s.me.words (.v p.n p.lr p.te) 3, false⟩

/-- BRKS (R192). -/
def execBrks (g : Guard) (d br : Nat) (a : Src) (off : Word) (p : VSrc) (s : State) : Res := s.sampleBrick g d 1 br a off p

/-- BRKG (R192). -/
def execBrkg (g : Guard) (d br : Nat) (a : Src) (off : Word) (p : VSrc) (s : State) : Res := s.sampleBrick g d 4 br a off p

/-! ### Atomic operations (R193 to R196) -/

/-- The registers that S spans (R193, R194). -/
def atomWords (op : AtomOp) (w64 : Bool) : Nat := (if w64 then 2 else 1) * (if op == .cas then 2 else 1)

/-- ATOM and RED: `dests` is empty for RED. -/
def State.atomic (s : State) (g : Guard) (dests : List Nat) (op : AtomOp) (w64 lam acq rel : Bool) (sc : Scope) (br : Nat)
    (a : Src) (off : Word) (v : Src) : Res :=
  let W := s.wset g
  let r := s.me.breg br
  let n := if w64 then 8 else 4
  let k := atomWords op w64
  s.access W (a.scalar || v.scalar) (a.uses 1 ++ v.uses k)
    ((Gate.trapIf (lam && s.myLaunch.vers) 0x08 1).and
      (recGate r W (s.me.index' a off) n (decide (2 ^ recEsize r < n)))) (recGuard r)
    ⟨.atom op, n, acq || lam, rel || lam, lam, sc, dests, recLanes r W (s.me.index' a off), s.me.words v k, false⟩

/-- ATOM (R194). -/
def execAtom (g : Guard) (d : Nat) (op : AtomOp) (w64 lam acq rel : Bool) (sc : Scope) (br : Nat) (a : Src) (off : Word)
    (v : Src) (s : State) : Res :=
  s.atomic g (regGroup d (if w64 then 2 else 1)) op w64 lam acq rel sc br a off v

/-- RED (R193, R194). -/
def execRed (g : Guard) (op : AtomOp) (w64 lam acq rel : Bool) (sc : Scope) (br : Nat) (a : Src) (off : Word) (v : Src)
    (s : State) : Res := s.atomic g [] op w64 lam acq rel sc br a off v

/-- ATOMS (R194). -/
def execAtoms (g : Guard) (d : Nat) (op : AtomOp) (w64 acq rel : Bool) (sc : Scope) (a : Src) (off : Word) (v : Src)
    (s : State) : Res :=
  let W := s.wset g
  let n := if w64 then 8 else 4
  let m := n / 4
  let k := atomWords op w64
  let vs := s.me.words v k
  let r := s.sramModify W (s.me.sramAt a off) n acq rel sc fun l old =>
    atomNew op (8 * n) old (wordsAt (vs.take m) l.val) (wordsAt (vs.drop m) l.val)
  s.produceThen W (a.scalar || v.scalar) (a.uses 1 ++ v.uses k)
    (((s.memGate W 0 false).and (s.sramGate s.me.blk W (s.me.sramAt a off) n n)).and (s.releaseGate W rel))
    ((List.range m).map fun i => (d + i, oldLanes r.2 i)) fun _ => r.1

/-! ### Guards (R197, R198) -/

/-- R176 steps 2 and 5 for a guard word (R197). -/
def guardGate (r : Record) (W : LaneMask) : Gate :=
  if W = 0 then .go
  else if recBad r || recGuard r == 0 then .trap 0x08 2
  else if recGuard r % 4 != 0 then .trap 0x0E W.lowest.val
  else .go

/-- The lanes of W with the address of the guard word: GUARD [56:0]. Accesses and waits are matched by all 64 bits of GUARD
(Wait.key; R278; log entry 95). -/
def guardLanes (r : Record) (W : LaneMask) : List (Nat × Nat) := (LaneMask.lanes W).map fun l => (l.val, recGuard r % 2 ^ 57)

/-- Does a word meet the condition of a waiting ACQ? (R197) -/
def acqMeets (equal : Bool) (word wanted : Nat) : Bool := if equal then word == wanted else decide (wanted ≤ word)

/-- The warp with a wait armed: its destination empty in W (R197, R204). -/
def Warp.arm (w : Warp) (x : Wait) : Warp :=
  { w.setVreg x.reg { w.vreg x.reg with pend := (w.vreg x.reg).pend ||| x.due } with waits := w.waits ++ [x] }

/-- The wait of an ACQ on the guard `key`. -/
def acqWait (key d : Nat) (equal : Bool) (sc : Scope) (lanes : List (Nat × Nat)) (wanted : Lanes) (W : LaneMask) (whole : Bool)
    (pc : VAddr) (run : LaneMask) : Wait :=
  ⟨true, key, d, equal, true, sc, lanes, wanted, Lanes.of fun _ => 0, W, W, whole, pc, run⟩

/-- Do the guard words that an access sees meet its condition in every lane? In proof mode a waiting ACQ issues only
then (R343). -/
def State.acqReady (s : State) (equal : Bool) (wanted : Lanes) (a : Acc) : Bool :=
  let u := s.issuer s.cur.slot
  (s.ways u a).all fun w =>
    match w.2.2 with
    | .here x => acqMeets equal (s.readAt (s.version u.party.bk) x 4) (wanted[Fin.ofNat 32 w.1]).toNat
    | .answered x data => acqMeets equal (s.seen u x.loc 4 data) (wanted[Fin.ofNat 32 w.1]).toNat
    | _ => true

/-- A waiting ACQ (R197, R213): its wait is armed, or logged where the guard word's page faulted. -/
def State.acqArm (s : State) (W : LaneMask) (us : List Use) (scalar : Bool) (r : Record) (d : Nat) (equal : Bool) (a : Acc)
    (wanted : Lanes) : Res :=
  let u := s.issuer s.cur.slot
  let ws := s.ways u a
  match (((((s.readGate scalar us).and (s.memGate W (recGuard r) false)).and (guardGate r W)).and
    (s.byteGate a.lanes a.bytes)).and (wayGate ws)).and (s.destGate W us [d]) with
  | .wait => .next s
  | .trap code detail => s.trap code detail
  | .go =>
    let w := s.me.free (s.frees us [d])
    let x := acqWait (recGuard r) d equal a.sc a.lanes wanted W (W == s.me.live) s.cur.pc s.cur.run
    if W = 0 then .next (s.setMe w).advance
    else if ws.any fun w => (match w.2.2 with
        | .fault _ _ => true
        | _ => false) then
      .next ((s.recordFaults u a ws).setMe { w.arm { x with due := W, addrs := [] } with
        log := some ⟨a, s.cur.pc, W, W == s.me.live, s.cur.run⟩ }).advance
    else .next (s.setMe (w.arm x)).advance

/-- ACQ (R197). -/
def execAcq (g : Guard) (d : Nat) (mode : AcqMode) (sc : Scope) (br : Nat) (v : Src) (s : State) : Res :=
  let W := s.wset g
  let r := s.me.breg br
  let a : Acc := ⟨.guardLoad mode, 4, true, false, false, sc, [d], guardLanes r W, [(s.me.src v).lanes], false⟩
  let us := if mode == .plain then [] else v.uses 1
  let scalar := mode != .plain && v.scalar
  let ready := mode == .plain || s.myLaunch.replay || s.acqReady (mode == .eq) (s.me.src v).lanes a
  if mode == .plain || s.myLaunch.proof then
    s.access W scalar us ((guardGate r W).and (if ready then .go else .wait)) (recGuard r) a
  else s.acqArm W us scalar r d (mode == .eq) a (s.me.src v).lanes

/-- REL (R198). -/
def execRel (g : Guard) (mode : RelMode) (sc : Scope) (br : Nat) (v : Src) (s : State) : Res :=
  let W := s.wset g
  let r := s.me.breg br
  s.access W v.scalar (v.uses 1) (guardGate r W) 0
    ⟨.guardStore (mode == .add), 4, false, true, false, sc, [], guardLanes r W, [(s.me.src v).lanes], false⟩

/-! ### Fences and the barrier (R199 to R201) -/

/-- The clock of a core after `n` fences (R282). -/
def State.fenceClock (s : State) (core n : Nat) : State :=
  let c := s.core core
  s.setCore core { c with lamport := c.lamport + n }

/-- Must a FENCE wait? For accesses outside the device, and but for FENCE.w for the pending ACQ and WAITPH reads of its
threads (R199, R280). -/
def State.fenceGate (s : State) (W : LaneMask) (k : FenceKind) : Gate :=
  if W != 0 && (s.outstanding || (k != .w && s.me.waitsDue W)) then .wait else .go

/-- FENCE (R199, R281, R282): it waits for the accesses of its warp that are not performed. -/
def execFence (g : Guard) (k : FenceKind) (sc : Scope) (s : State) : Res :=
  let W := s.wset g
  s.perform false []
    (((Gate.trapIf (k == .rw && wideScope sc && s.myLaunch.vers) 0x08 1).and (s.memGate W 0 false)).and
      (s.fenceGate W k)) fun t =>
    .next (if k == .rw then t.fenceClock s.myCore (LaneMask.count W) else t).advance

/-- Does a thread of W hold a return link whose call mark is set? (R13, R201) -/
def Warp.markedCall (w : Warp) (W : LaneMask) : Bool :=
  (LaneMask.lanes W).any fun l => (w.lanes[l]).stack.any fun k => k.mark

/-- The threads of W park at the barrier (R200). -/
def Warp.arriveBar (w : Warp) (W : LaneMask) : Warp :=
  { w with lanes := Vector.ofFn fun l => if W.getLsbD l.val then { w.lanes[l] with atBar := true } else w.lanes[l] }

/-- The wait of an instruction of this chapter for the logged one of its warp (R212). -/
def State.logGate (s : State) : Gate := if s.me.log.isSome then .wait else .go

/-- BAR (R200, R201, R385): the threads arrive and park at once; their earlier accesses are performed before the barrier
completes (State.barrierDone). -/
def execBar (g : Guard) (s : State) : Res :=
  let W := s.wset g
  let bk := s.me.blk
  s.perform false []
    ((Gate.trapIf (s.me.hndl || (s.myLaunch.regrp && s.me.markedCall W)) 0x08 7).and s.logGate) fun t =>
    let t := t.advance
    let t := t.setMe (t.me.arriveBar W)
    let b := t.block bk
    .next ((t.setBlock bk { b with arrivals := b.arrivals + LaneMask.count W }).checkBarrier bk)

/-! ### Phase words (R202 to R205) -/

/-- ARRIVE (R203): a release, at BLOCK scope without REL (R277). -/
def execArrive (g : Guard) (d : Nat) (nr rel : Bool) (sc : Scope) (a : Src) (off : Word) (n : Nat) (s : State) : Res :=
  let W := s.wset g
  let r := s.sramModify W (s.me.sramAt a off) 4 false rel sc fun _ old => arriveWord old n
  let e := if nr then Effect.nothing else Effect.vec d (oldLanes r.2 0)
  s.operateThen W a.scalar (a.uses 1)
    (((s.memGate W 0 false).and (s.sramGate s.me.blk W (s.me.sramAt a off) 4 4)).and (s.releaseGate W true))
    (e.regs.map Prod.fst) e fun _ => r.1

/-- The acquire of a phase word's read, lane by lane (R204, R282). -/
def State.acquireSram (s : State) (W : LaneMask) (addr : Fin 32 → Nat) (acq : Bool) (sc : Scope) : State :=
  if acq then
    (LaneMask.lanes W).foldl (fun t l => t.order s.myCore true false false sc (s.sramKey s.me.blk (addr l) 4) 4 false) s
  else s

/-- The wait of a WAITPH. -/
def phaseWait (d : Nat) (p acq : Bool) (sc : Scope) (lanes : List (Nat × Nat)) (W : LaneMask) (whole : Bool)
    (pc : VAddr) (run : LaneMask) : Wait :=
  ⟨false, 0, d, true, acq, sc, lanes, Lanes.of fun _ => if p then 1 else 0, Lanes.of fun _ => 0, W, W, whole, pc,
    run⟩

/-- WAITPH (R204): a wait is armed; with .poll, and in proof mode when every word shows its parity, the words are
delivered at once. -/
def execWaitph (g : Guard) (d : Nat) (poll acq : Bool) (sc : Scope) (a : Src) (off : Word) (p : Bool) (s : State) : Res :=
  let W := s.wset g
  let bk := s.me.blk
  let word (l : Fin 32) : Nat := if W.getLsbD l.val then s.sramNat bk (s.me.sramAt a off l) 4 else 0
  let gate := (s.memGate W 0 false).and (s.sramGate bk W (s.me.sramAt a off) 4 4)
  let ready := (LaneMask.lanes W).all fun l => bitOf (word l) 31 == p
  if poll || s.myLaunch.proof then
    s.operateThen W a.scalar (a.uses 1) (gate.and (if poll || ready then .go else .wait)) [d]
      (Effect.vec d (.g (Lanes.of fun l => BitVec.ofNat 32 (word l)))) fun t => t.acquireSram W (s.me.sramAt a off) acq sc
  else
    match ((s.readGate a.scalar (a.uses 1)).and gate).and (s.destGate W (a.uses 1) [d]) with
    | .wait => .next s
    | .trap code detail => s.trap code detail
    | .go =>
      let w := s.me.free (s.frees (a.uses 1) [d])
      let lanes := (LaneMask.lanes W).map fun l => (l.val, s.me.sramAt a off l)
      .next (s.setMe (if W = 0 then w else w.arm (phaseWait d p acq sc lanes W (W == s.me.live) s.cur.pc s.cur.run))).advance

/-! ### BREC (R183) -/

/-- The value of a source, taken once for the warp. -/
def Warp.once (w : Warp) (a : Src) (k : Nat) (W : LaneMask) : Word := (w.srcAt a k).lane W.lowest

/-- The record that BREC builds (R183). -/
def brecValue (op : BrecOp) (r : Record) (a a1 v : Nat) (off : Word) (loaded : Nat) : Record :=
  match op with
  | .copy => r
  | .base => recSet r 56 0 (a + 2 ^ 32 * a1)
  | .ext => recSet r 95 64 a
  | .str => recSet r 127 96 a
  | .fmt =>
    let o := off.toNat
    recSet (recSet (recSet (recSet r 131 128 (bitsOf o 3 0)) 135 132 (bitsOf o 7 4)) 136 136 (bitsOf o 8 8)) 164 160
      (bitsOf o 20 16)
  | .guard => recSet r 255 192 (a + 2 ^ 32 * a1)
  | .sub =>
    recSet (recSet r 56 0 (recBase r + a * recStep r)) 95 64 (if a < recExtent r then min (recExtent r - a) v else 0)
  | .lds => recClear (BitVec.ofNat 256 loaded)
  | .sts => r

/-- The registers that BREC reads as A (R183). -/
def brecA (op : BrecOp) : Nat :=
  match op with
  | .copy => 0
  | .base => 2
  | .ext => 1
  | .str => 1
  | .fmt => 0
  | .guard => 2
  | .sub => 1
  | .lds => 1
  | .sts => 1

/-- Do the words of a group differ among the threads of W? (R183) -/
def Warp.groupDiffers (w : Warp) (a : Src) (k : Nat) (W : LaneMask) : Bool :=
  (List.range k).any fun i => !(w.srcAt a i).isU &&
    (LaneMask.lanes W).any fun l => (w.srcAt a i).lane l != (w.srcAt a i).lane W.lowest

/-- BREC (R183). -/
def execBrec (g : Guard) (bd : Nat) (op : BrecOp) (bb : Nat) (a v : Src) (off : Word) (s : State) : Res :=
  let W := s.wset g
  let w := s.me
  let r := w.breg bb
  let k := brecA op
  let ks := if op == .sub then 1 else 0
  let addr := sramAddr (w.once a 0 W) off
  let sram := op == .lds || op == .sts
  let x := brecValue op r (w.once a 0 W).toNat (w.once a 1 W).toNat (w.once v 0 W).toNat off (s.sramNat w.blk addr 32)
  let scalar := (k != 0 && a.scalar) || (ks != 0 && v.scalar)
  let check := ((s.memGate W 0 false).and (Gate.trapIf (w.groupDiffers a k W || w.groupDiffers v ks W) 0x03 3)).and
    (if sram then s.sramGate w.blk (W &&& LaneMask.one W.lowest) (fun _ => addr) 32 32 else .go)
  s.stageOne scalar (Gate.trapIf (op == .sub && recSwz r != 0) 0x08 2) <|
    s.operateThen W scalar (a.uses k ++ v.uses ks) check []
      (if op == .sts then Effect.nothing else { Effect.nothing with breg := some (bd, x) })
      fun t => if op == .sts && W != 0 then t.sramPut w.blk addr 32 r.toNat else t

end Sys2Proof.Machine
end

