-- ==== Sys2Proof/Machine/EventLog.lean ====
section
/-! DEFINITION. The management event log (R433) and frozen masters (R403, R434). -/

namespace Sys2Proof.Machine

/-- log₂ of the entries of the event log (R431). -/
def Mss.ringLog (m : Mss) : Nat := if 8 ≤ m.llog ∧ m.llog ≤ 16 then m.llog else 8

/-- A serial number counted up: it wraps from 0xFFFF_FFFF to 1 (R411, R433). -/
def nextSerial (n : Nat) : Nat := if n = 0xFFFFFFFF then 1 else n + 1

/-- The 32 bytes of an event (R433). -/
def eventBytes (clk kind unit detail arg id head log : Nat) : List Byte :=
  leBytes 8 clk ++ leBytes 2 kind ++ leBytes 2 unit ++ leBytes 4 detail ++ leBytes 8 arg ++ leBytes 4 id ++
    leBytes 4 ((if bitOf head log then 0xA5 else 0x5A) * 2 ^ 24)

/-- One event logged, or counted as lost (R433). -/
def State.logEvent (s : State) (kind unit detail arg : Nat) : State :=
  let m := s.mss
  if m.lbase = 0 ∨ (m.head + 2 ^ 16 - m.tail) % 2 ^ 16 = 2 ^ m.ringLog % 2 ^ 16 ∧ m.head ≠ m.tail then
    { s with mss := { m with lost := m.lost + 1 } }
  else
    let e := eventBytes s.clk kind unit detail arg m.logId m.head m.ringLog
    let a := m.lbase + 32 * (m.head % 2 ^ m.ringLog)
    let t := { s with
      mem := s.mem.putBytes a (e.take (deviceEnd - a))
      mss := { m with head := (m.head + 1) % 2 ^ 16, logId := nextSerial m.logId,
                      recent := (m.recent ++ [e]).drop (m.recent.length + 1 - 256) } }
    t.signal 0 3

/-- The lowest token that no frozen master holds (R434). -/
def Mss.freeToken (m : Mss) : Nat :=
  ((List.range (m.frozen.length + 1)).find? fun t => (Map.find m.frozen t).isNone).getD 0

/-- DETAIL and ARG of a freeze or unfreeze (R433). -/
def State.masterEvent (s : State) (kind token : Nat) (m : Master) : State :=
  match m with
  | .queue q => s.logEvent kind 0 0 (token + 2 ^ 16 * q)
  | .channel _ c q _ => s.logEvent kind 0 1 (token + 2 ^ 16 * c + 2 ^ 32 * q)
  | .function f => s.logEvent kind 0 2 (token + 2 ^ 16 * f)

/-- Is a master frozen? -/
def State.isFrozen (s : State) (m : Master) : Bool := s.mss.frozen.any fun p => p.2 == m

/-- A master frozen under the lowest free token (R403, R434). -/
def State.freeze (s : State) (m : Master) : State :=
  if s.isFrozen m then s
  else
    let t := s.mss.freeToken
    let s := { s with mss := { s.mss with frozen := Map.set s.mss.frozen t m } }
    let s := match m with
      | .queue q => s.setQueue q { s.queue q with frozen := true }
      | _ => s
    s.masterEvent 4 t m

/-- The engine channel of a block: its launch on its cluster (R403). -/
def State.channel (s : State) (bk : Nat) : Master :=
  let lk := (s.block bk).launch
  .channel lk (clusterOf (blockCore bk)) (s.launch lk).queue (s.launch lk).ctx

/-- The commands of a channel that were refused end with BOUNDS (R403). -/
def thawCmds (cs : List Cmd) : List Cmd :=
  cs.map fun c => if c.frozen then { c with frozen := false, refused := some 2 } else c

/-- A master unfrozen (R403, R434). -/
def State.thaw (s : State) (token : Nat) (m : Master) : State :=
  let s := { s with mss := { s.mss with frozen := Map.erase s.mss.frozen token } }
  let s := match m with
    | .queue q => s.setQueue q { s.queue q with frozen := false, refused := [] }
    | .channel l c _ _ =>
      { s with
        blocks := s.blocks.map fun (p : Nat × Block) =>
          if p.2.launch == l && clusterOf (blockCore p.1) == c then
            (p.1, { p.2 with matrixQ := thawCmds p.2.matrixQ, copyQ := thawCmds p.2.copyQ, marchQ := thawCmds p.2.marchQ })
          else p
        collectives := s.collectives.map fun (x : Collective) =>
          if x.frozen && x.launch == l && clusterOf (blockCore x.blk) == c then { x with frozen := false, refused := some 2 }
          else x }
    | .function _ => s
  s.masterEvent 5 token m

end Sys2Proof.Machine
end

