-- ==== Sys2Proof/Machine/Segments.lean ====
section
/-! DEFINITION. Room in core SRAM and eviction (R296, R310); the moves of standing segments (R289, R310); the SEG instructions (R206 to R211). -/

namespace Sys2Proof.Machine

/-! ### Room in core SRAM (R296, R310) -/

/-- Is a segment on a core, RESIDENT or MOVING there? (R38) -/
def Segment.on (g : Segment) (c : Nat) : Bool := g.st != .cold && g.loc == c

/-- Is a segment on a core, or about to be reloaded there? Its granules are taken from then on (R307). -/
def Segment.takes (g : Segment) (c : Nat) : Bool := g.on c || g.goal == some (.reload c)

/-- The core where a segment is, or will be when its move ends (R308). -/
def Segment.dest (g : Segment) : Nat :=
  match g.goal with
  | some (.reload c) => c
  | _ => g.loc

/-- Is a segment MOVING, or waiting for the room of a reload? Instructions that name it are held (R206). -/
def Segment.busy (g : Segment) : Bool := g.st == .moving || g.goal.isSome

/-- Pages pinned to a core, or about to be by a migration under way (R296). -/
def State.pinsOf (s : State) (c : Nat) : Nat :=
  (s.core c).pins.length + (s.ctxs.filter fun p =>
    p.2.migbusy && entryHome p.2.migTo == 3 && bitsOf p.2.migTo 63 56 == c).length

/-- Granules of a core that resident blocks, galleys, tile memory, pinned pages and the segments that `f` selects take
(R296). -/
def State.granulesOf (s : State) (c : Nat) (f : Segment → Bool) : Nat :=
  let bs := (s.coreBlocks c).filter fun p => p.2.phase != .ended
  let areas := bs.foldl (fun n p => n + granules (s.launch p.2.launch).areaBytes) 0
  let galleys := (s.core c).galleys.foldl (fun n p => n + granules (s.launch p.1).galleyBytes) 0
  let tiles := if bs.any fun p => (s.launch p.2.launch).ltype == 2 then 64 else 0
  let segs := s.segs.foldl (fun n p => n + if f p.2 then p.2.size else 0) 0
  areas + galleys + tiles + segs + 16 * s.pinsOf c

/-- Granules of a core that are taken, those of segments to be reloaded there among them (R296, R307). -/
def State.usedGranules (s : State) (c : Nat) : Nat := s.granulesOf c fun g => g.takes c

/-- Segments that a core holds or that are to be reloaded there (R38). -/
def State.heldSegs (s : State) (c : Nat) : Nat := (s.segs.filter fun p => p.2.takes c).length

/-- The granules of a core (R296). -/
def State.capacity (s : State) (c : Nat) : Nat := 8 * (s.core c).banks

/-- Is a segment RESIDENT on a core with nothing attached, and not about to move? (R310) -/
def Segment.idle (g : Segment) (c : Nat) : Bool := g.st == .resident && g.loc == c && g.attach == 0 && g.goal.isNone

/-- Puts a segment into a list by the time at which it last reached ATTACH = 0. -/
def insertIdle (p : Nat × Segment) : List (Nat × Segment) → List (Nat × Segment)
  | [] => [p]
  | q :: qs => if p.2.idleSince < q.2.idleSince then p :: q :: qs else q :: insertIdle p qs

/-- The segments that may be evicted from a core, oldest first (R310). -/
def State.evictable (s : State) (c : Nat) : List (Nat × Segment) :=
  (s.segs.filter fun p => p.2.idle c && !p.2.faulted).foldl (fun ps p => insertIdle p ps) []

/-- The shortest run of evictions after which a need fits, if there is one; `used` granules and `held` segments now. -/
def evictionsFor (used held capacity size segs : Nat) : List (Nat × Segment) → Option (List Nat)
  | [] => if used + size ≤ capacity ∧ held + segs ≤ 16 then some [] else none
  | p :: ps =>
    if used + size ≤ capacity ∧ held + segs ≤ 16 then some []
    else (evictionsFor (used - p.2.size) (held - 1) capacity size segs ps).map fun ks => p.1 :: ks

/-- Is a segment being written back, to leave a core? -/
def Segment.leaves (g : Segment) (c : Nat) : Bool := g.on c && g.st == .moving && !g.loading && g.goal != some (.reload c)

/-- The segments that may be evicted from a core to make room for a context, those of `keep` not among them: its own, then
those of others, but none of these while one of its own cannot be evicted, its write-back having failed (R310, R313). -/
def State.victimSegs (s : State) (ctx c : Nat) (keep : List Nat) : List (Nat × Segment) :=
  let es := (s.evictable c).filter fun p => !keep.contains p.1
  let stays := s.segs.any fun p => p.2.ctx == ctx && p.2.idle c && p.2.faulted && !keep.contains p.1
  (es.filter fun p => p.2.ctx == ctx) ++ if stays then [] else es.filter fun p => p.2.ctx != ctx

/-- The evictions that make room on a core for granules and segments of a context, beside the write-backs under way there,
those of `keep` not evicted (R310, R313). -/
def State.roomPlan (s : State) (ctx c size segs : Nat) (keep : List Nat) : Option (List Nat) :=
  let out := (s.segs.filter fun p => p.2.leaves c).map Prod.snd
  evictionsFor (s.usedGranules c - out.foldl (fun n g => n + g.size) 0) (s.heldSegs c - out.length) (s.capacity c) size segs
    (s.victimSegs ctx c keep)

/-- Of evictions that make room for a context, those that begin now: another context's segments wait until its own have left
(R313). -/
def State.firstVictims (s : State) (ctx c : Nat) (ks : List Nat) : List Nat :=
  let own := ks.filter fun k => (Map.find s.segs k).any fun g => g.ctx == ctx
  if !own.isEmpty then own else if s.segs.any fun p => p.2.ctx == ctx && p.2.leaves c then [] else ks

/-- Has a core room now for granules and segments? -/
def State.hasRoom (s : State) (c size segs : Nat) : Bool :=
  decide (s.usedGranules c + size ≤ s.capacity c) && decide (s.heldSegs c + segs ≤ 16)

/-- A segment enters MOVING for a write-back on behalf of a hardware queue (R310, R411). -/
def State.startEvict (s : State) (q k : Nat) (goal : SegGoal) : State :=
  match Map.find s.segs k with
  | some g => s.setSeg k { g with st := .moving, goal := some goal, queue := q, loading := false }
  | none => s

/-- The evictions that may begin now of those that make room on a core for a context (R310, R313). -/
def State.evictFirst (s : State) (q ctx c : Nat) (goal : SegGoal) (ks : List Nat) : State :=
  (s.firstVictims ctx c ks).foldl (fun s j => s.startEvict q j goal) s

/-! ### The moves of a segment (R289, R310, R311) -/

/-- Who moves a segment. -/
def segParty (k : Nat) (g : Segment) : Party := ⟨g.ctx, 2 ^ 40, .seg k, g.loc, g.queue, 4⟩

/-- The bytes of a segment written to BACKING, all of them. -/
def State.segStore (s : State) (k : Nat) (g : Segment) : Put :=
  s.deliver (segParty k g) .write g.backing (g.bytes.bytes 0 (4096 * g.size))

/-- The bytes of BACKING. -/
def State.segLoad (s : State) (k : Nat) (g : Segment) : Got := s.fetch (segParty k g) g.backing (4096 * g.size)

/-- The tag key of a segment's entry of the name table (R279, R282, R288). -/
def segKey (k : Nat) : Nat := 2 ^ 57 + 4 * k

/-- The requests and faults of a move forgotten. -/
def State.segSettled (s : State) (k ctx : Nat) : State := (s.dropKept (.seg k)).settle ctx (.seg k)

/-- The status of a waiting SEG instruction delivered; its logged operation, if any, is over (R206, R213). -/
def State.segAnswer (s : State) (k : Nat) (w : SegWaiter) (status : Nat) : State :=
  match Map.find s.warps w.slot with
  | some x =>
    let x := x.patch w.reg w.w.lowest (BitVec.ofNat 32 status)
    (s.setWarp w.slot { x with log := x.log.filter fun e => e.acc.op != .move k }).land w.slot w.reg
  | none => s

/-- The segment whose SEG instruction caused a move: the one that moves, or the one for whose ATTACH it is evicted (R208). -/
def State.moveFor (s : State) (k : Nat) (g : Segment) : Nat × Segment :=
  match g.goal with
  | some (.evictFor j) => (j, (Map.find s.segs j).getD g)
  | _ => (k, g)

/-- The operation of the SEG instruction that waits for a move logged at its warp, when the move, or an eviction for it, meets
a fault (R208, R212, R213): the entry names the segment, the destination, the window, and whether the segment is being
freed. -/
def State.segLogged (s : State) (k : Nat) (g : Segment) : State :=
  let (k, g) := s.moveFor k g
  match g.waiter with
  | none => s
  | some w =>
    match Map.find s.warps w.slot with
    | some x =>
      if x.log.isSome then s
      else s.setWarp w.slot { x with
        log := some ⟨⟨.move k, g.name, false, false, false, .blk, [w.reg], [(w.win, if g.goal = some .free then 1 else 0)], [],
          false⟩, w.pc, w.w, w.whole, w.run⟩ }
    | none => s

/-- A segment attached to a window of a block (R208): ATTACH rises unless the block holds it at another window. -/
def State.attach (s : State) (k bk win : Nat) : State :=
  match Map.find s.segs k with
  | none => s
  | some g =>
    let b := s.block bk
    let again := b.attached.contains k
    (s.setSeg k { g with attach := if again then g.attach else g.attach + 1, faulted := false }).setBlock bk
      { b with windows := b.windows.setIfInBounds win (some k) }

/-- The segment after its write-back, a release at CHIP scope (R288): COLD, gone, or about to be reloaded at another core. -/
def State.segWritten (s : State) (k : Nat) (g : Segment) : State :=
  let s := s.order g.loc false true false .chip (segKey k) 4 true
  match g.goal with
  | some .free =>
    let t := { s with segs := Map.erase s.segs k }
    match g.waiter with
    | some w => t.segAnswer k w 0
    | none => t
  | some (.reload _) => s.setSeg k { g with st := .cold, bytes := [], loading := true }
  | _ => s.setSeg k { g with st := .cold, bytes := [], goal := none, loading := false }

/-- The segment after its reload, which began with an acquire at CHIP scope (R288): RESIDENT, and attached for the
instruction that waits. -/
def State.segLoaded (s : State) (k : Nat) (g : Segment) (bs : List Byte) : State :=
  let s := s.order g.loc true false false .chip (segKey k) 4 false
  let t := s.setSeg k { g with st := .resident, bytes := Mem.putBytes [] 0 bs, goal := none, loading := false,
                               waiter := none, idleSince := s.clk }
  match g.waiter with
  | some w => (t.attach k w.blk w.win).segAnswer k w 0
  | none => t

/-- A segment whose move is given up: it returns to its former state. -/
def Segment.reverted (g : Segment) (fault : Bool) : Segment :=
  { g with
    st := if g.st == .moving then (if g.loading then .cold else .resident) else g.st
    goal := none
    loading := false
    waiter := none
    faulted := g.faulted || fault }

/-- Destinations of a logged instruction that will not be written: full again with the values they had. -/
def Warp.cancelRegs (w : Warp) (ds : List Nat) : Warp :=
  { ds.foldl (fun w d => w.setVreg d { w.vreg d with pend := 0 }) w with
    inflight := w.inflight.filter fun f => !ds.contains f.reg
    waits := w.waits.filter fun x => !ds.contains x.reg
    log := none }

/-- A trap of delivery H met by a logged instruction (R382, R384): the live threads of the run that issued it enter the
handler, the record naming the instruction; its destinations are full again (log entry 59). The handler does not wait for a
fetch that another run's fault still holds (R387). -/
def State.lateTrap (s : State) (slot : Nat) (run : LaneMask) (pc : VAddr) (ds : List Nat) (code detail : Nat) : State :=
  let w := s.warp slot
  let r := run &&& w.live
  let v := { w.cancelRegs ds with
    fetchFault := false
    lanes := Vector.ofFn fun l => if r.getLsbD l.val then { w.lanes[l] with parked := false } else w.lanes[l] }
  (s.setWarp slot v).trapEnter slot r r (fun _ => 0) r.lowest.val pc code detail

/-- The SEG instruction that waits for a move which cannot go on: PROT where a permission is lacking (R409), else the block
is killed with PAGE (R208, R212, R387). -/
def State.segTrap (s : State) (w : SegWaiter) (denied write : Bool) : State :=
  let x := s.warp w.slot
  if denied then s.lateTrap w.slot w.run w.pc [w.reg] 0x08 4
  else s.kill w.blk ⟨0x07, w.w.lowest.val + 2 ^ 7 + (if write then 2 ^ 5 else 0), w.run.lowest.val, w.pc, w.run, x.hndl, x.index⟩

/-- A segment that evictions made room for needs none any more: those under way are evictions of their own. -/
def State.freeVictims (s : State) (j : Nat) : State :=
  { s with segs := s.segs.map fun (p : Nat × Segment) =>
      if p.2.goal == some (.evictFor j) then (p.1, { p.2 with goal := some .evict }) else p }

/-- A move that cannot go on: the segment returns to its former state. The instruction that waits for it traps, or the one
whose evictions it is part of; of a declared attachment's reload the block is killed with PAGE; an eviction for an
admission, or for an ATTACH that waits for it no more, is logged, and another victim is chosen (R208, R310). -/
def State.segAbandon (s : State) (k : Nat) (g : Segment) (denied : Bool) : State :=
  let write := g.st == .moving && !g.loading
  let t := (s.segSettled k g.ctx).setSeg k (g.reverted write)
  match g.goal, g.waiter with
  | some (.evictFor j), _ =>
    match (Map.find t.segs j).filter Segment.busy with
    | some h =>
      match h.waiter with
      | some w => ((((t.segSettled j h.ctx).setSeg j (h.reverted false)).freeVictims j).segTrap w denied true)
      | none => t.logEvent 8 g.loc 0 g.backing
    | none => t.logEvent 8 g.loc 0 g.backing
  | some .evict, _ => t.logEvent 8 g.loc 0 g.backing
  | _, some w => t.segTrap w denied write
  | _, none =>
    (t.blocks.filter fun p => (p.2.phase == .starting || p.2.phase == .restoring) && p.2.attached.contains k).foldl
      (fun t p => t.kill p.1 (Killing.bare 0x07 (2 ^ 7 + if write then 2 ^ 5 else 0))) t

/-- A write-back goes on (R310). -/
def State.segWriteback (s : State) (k : Nat) : State :=
  match Map.find s.segs k with
  | none => s
  | some g =>
    if g.st != .moving || g.loading then s
    else
      match s.segStore k g with
      | .ok t => (t.segSettled k g.ctx).segWritten k g
      | .wait t => if (s.ctx g.ctx).faults == (t.ctx g.ctx).faults then t else t.segLogged k g
      | .denied => s.segAbandon k g true

/-- Is the room of a segment on a core not to be had by the ATTACH of another: is it there, or to be reloaded there for a
block that has been admitted? (R307) -/
def Segment.claims (g : Segment) (c : Nat) : Bool := g.on c || (g.takes c && g.waiter.isNone)

/-- A COLD segment that waits for the room of its reload enters MOVING on its core once the core has it: granules, and
fewer than 16 segments there, beside those of admitted blocks (R38, R307, R310). -/
def State.segEnter (s : State) (k : Nat) : State :=
  match Map.find s.segs k with
  | some g =>
    let others (h : Nat × Segment) : Bool := h.1 != k && h.2.claims g.dest
    if g.st == .cold && g.goal.isSome && decide (s.granulesOf g.dest (fun _ => false) +
        (s.segs.filter others).foldl (fun n h => n + h.2.size) 0 + g.size ≤ s.capacity g.dest) &&
        decide ((s.segs.filter others).length < 16) then
      s.setSeg k { g with st := .moving, loc := g.dest, loading := true }
    else s
  | none => s

/-- A segment that still lacks the room of its reload once every write-back at its core has ended: other victims are chosen.
Where they give too little, all of them are evicted, and then the ATTACH that waits returns NOSPACE, the segment as it was
(R208, R310). One that was left on another core for want of room there is written back once there is room. -/
def State.segMakeRoom (s : State) (k : Nat) : State :=
  match Map.find s.segs k with
  | some g =>
    if g.st == .moving || g.goal.isNone || s.segs.any fun p => p.2.leaves g.dest then s
    else
      match s.roomPlan g.ctx g.dest 0 0 [k], s.victimSegs g.ctx g.dest [k], g.waiter with
      | some [], _, _ => if g.st == .resident then s.setSeg k { g with st := .moving, loading := false } else s
      | some ks, _, _ => s.evictFirst g.queue g.ctx g.dest (.evictFor k) ks
      | none, [], some w => (s.setSeg k (g.reverted false)).segAnswer k w 10
      | none, vs, _ => s.evictFirst g.queue g.ctx g.dest (.evictFor k) (vs.map Prod.fst)
  | none => s

/-- A reload goes on, once its core has room (R310). -/
def State.segReload (s : State) (k : Nat) : State :=
  let s := (s.segEnter k).segMakeRoom k
  match Map.find s.segs k with
  | none => s
  | some g =>
    if g.st != .moving || !g.loading then s
    else
      match s.segLoad k g with
      | .ok bs => (s.segSettled k g.ctx).segLoaded k g bs
      | .wait t => if (s.ctx g.ctx).faults == (t.ctx g.ctx).faults then t else t.segLogged k g
      | .denied => s.segAbandon k g true

/-! ### The SEG instructions (R206) -/

/-- The segment of a context with a name. -/
def State.segNamed (s : State) (ctx name : Nat) : Option (Nat × Segment) :=
  s.segs.find? fun p => p.2.ctx == ctx && p.2.name == name

/-- The vector registers that a name reads. -/
def segUses (n : SegName) : List Use :=
  match n with
  | .imm _ => []
  | .reg a => a.uses 2

/-- The name, from the lowest thread of W (R206). -/
def Warp.segHash (w : Warp) (n : SegName) (W : LaneMask) : Nat :=
  match n with
  | .imm h => h.toNat
  | .reg a => (pairLane (w.vreg a.n).st (w.vreg (a.n + 1)).st W.lowest).toNat

/-- What a SEG instruction comes to: a status at once, a wait for a move, a trap, or a move that it sets off. -/
inductive SegAct where
  | done (s : State) (status : Nat)
  | hold
  | miss
  | move (s : State) (seg : Nat)
  | defer (s : State)

/-- A SEG instruction whose operation ends in the step: its status is there at once (R206). -/
def State.segDone (s t : State) (W : LaneMask) (us : List Use) (rs : List (Nat × Storage)) : Res :=
  let fs := s.frees us (rs.map Prod.fst)
  let w := t.result W fs { Effect.nothing with regs := rs }
  if t.roomFor w fs then .next (t.setMe w).advance else .next s

/-- What a move set in motion outside while the instruction, with its W, goes on waiting at its PC. -/
def State.segWaits (s t : State) (k : Nat) (W : LaneMask) : State :=
  { s with
    ctxs := t.ctxs.map fun (p : Nat × Context) => (p.1, { p.2 with
      faults := p.2.faults.map fun (f : PendingFault) =>
        if f.who == .seg k then { f with who := .warp s.cur.slot, lane := W.lowest.val, pc := s.cur.pc, run := s.cur.run }
        else f })
    ext := t.ext
    extNext := t.extNext
    sent := t.sent
    outbox := t.outbox
    paths := t.paths
    ports := t.ports }

/-- The moves of a segment, those of its victims first, as far as they go without waiting. -/
def State.segRound (s : State) (k : Nat) : State :=
  let vs := (s.segs.filter fun p => p.2.st == .moving && p.2.goal == some (.evictFor k)).map Prod.fst
  ((vs.foldl (fun s j => s.segWriteback j) s).segWriteback k).segReload k

/-- The moves of a segment made at once, as a step of proof mode does (R343): the evictions of its own context, those of
others, and its own; it is still moving when one of them has to wait. -/
def State.segNow (s : State) (k : Nat) : State := (List.range 4).foldl (fun s _ => s.segRound k) s

/-- Is a segment still MOVING? -/
def State.segMoving (s : State) (k : Nat) : Bool := (Map.find s.segs k).any Segment.busy

/-- The issue of a SEG instruction: `own` its own checks, `act` its action for a W that is not empty, and what it
delivers beside its status. -/
def State.segOp (s : State) (g : Guard) (d n : Nat) (scalar : Bool) (us : List Use) (own : Gate) (act : SegAct)
    (more : List (Nat × Storage)) (win : Nat) : Res :=
  let W := s.wset g
  match ((((s.readGate scalar us).and (s.memGate W 0 false)).and own).and
      (if W = 0 then .go else (match act with
        | .hold => .wait
        | .miss => .trap 0x09 (win + 4)
        | _ => .go))).and (s.destGate W us (regGroup d n)) with
  | .wait => .next s
  | .trap code detail => s.trap code detail
  | .go =>
    if W = 0 then .next (s.setMe (s.me.free (s.frees us (regGroup d n)))).advance
    else
      match act with
      | .done t status => s.segDone t W us ((d, .u (BitVec.ofNat 32 status)) :: more)
      | .move t k =>
        let waiter : SegWaiter := ⟨s.cur.slot, s.me.blk, d, win, W, W == s.me.live, s.cur.pc, s.cur.run⟩
        let t := match Map.find t.segs k with
          | some x => t.setSeg k { x with waiter := some waiter }
          | none => t
        if s.myLaunch.proof then
          let u := t.segNow k
          let made := (Map.find u.segs k).isNone || ((u.block s.me.blk).windows[win]?).join == some k
          if u.segMoving k then .next (s.segWaits u k W)
          else s.segDone u W us [(d, .u (BitVec.ofNat 32 (if made then 0 else 10)))]
        else s.deliverRegs t W W us [(d, .u 0)] LaneFlags.zero
      | .defer t => s.deliverRegs t W W us [(d, .u 0)] LaneFlags.zero
      | _ => .next s

/-- The lowest free entry of the name table (R38). -/
def State.freeEntry (s : State) : Option Nat := (List.range 4096).find? fun k => (Map.find s.segs k).isNone

/-- Is a SEG.NEW descriptor well-formed? (R207) -/
def segDescOk (bs : List Byte) : Bool :=
  field bs 0x08 8 % 4096 == 0 && decide (field bs 0x08 8 < 2 ^ 57) && decide (1 ≤ field bs 0x10 2) &&
    decide (field bs 0x10 2 ≤ 192) && decide (field bs 0x12 2 ≤ 191) && field bs 0x14 12 == 0

/-- SEG.NEW on a descriptor (R207). -/
def State.segCreate (s : State) (ctx : Nat) (bs : List Byte) : State × Nat :=
  if !segDescOk bs then (s, 5)
  else if (s.segNamed ctx (field bs 0 8)).isSome then (s, 1)
  else if 256 ≤ (s.segs.filter fun p => p.2.ctx == ctx).length then (s, 4)
  else
    match s.freeEntry with
    | none => (s, 3)
    | some k =>
      (s.setSeg k
        { name := field bs 0 8, ctx := ctx, size := field bs 0x10 2, home := field bs 0x12 2,
          backing := field bs 0x08 8, st := .cold, loc := field bs 0x12 2, attach := 0, bytes := [],
          idleSince := s.clk, goal := none, queue := 0, loading := false, waiter := none, faulted := false }, 0)

/-- SEG.NEW by the state found: a name whose segment is moving holds it (R206, R207). -/
def State.segNewAct (s : State) (ctx : Nat) (bs : List Byte) : SegAct :=
  if segDescOk bs && (s.segNamed ctx (field bs 0 8)).any fun p => p.2.busy then .hold
  else .done (s.segCreate ctx bs).1 (s.segCreate ctx bs).2

/-- SEG.NEW (R207). -/
def execSegNew (g : Guard) (d : Nat) (a : Src) (off : Word) (s : State) : Res :=
  let W := s.wset g
  let bk := s.me.blk
  let addr := s.me.sramAt a off W.lowest
  let own := s.sramGate bk (W &&& LaneMask.one W.lowest) (fun _ => addr) 32 32
  s.segOp g d 1 a.scalar (a.uses 1) own (s.segNewAct s.myCtx (leBytes 32 (s.sramNat bk addr 32))) [] 0

/-- Is an attach to a window of a block under way? (R208) -/
def State.attaching (s : State) (bk win : Nat) : Bool :=
  s.segs.any fun p => p.2.goal != some .free && p.2.waiter.any fun w => w.blk == bk && w.win == win

/-- The reload of a segment at a core, evictions first, on behalf of a hardware queue. When all of them give too little room
the segment stays where it is while they are made, and NOSPACE follows; at once without any (R208). -/
def State.segBring (s : State) (q k : Nat) (g : Segment) (core : Nat) : SegAct :=
  let bring (ks : List Nat) (g : Segment) : State :=
    (s.evictFirst q g.ctx core (.evictFor k) ks).setSeg k { g with goal := some (.reload core), queue := q }
  match s.roomPlan g.ctx core g.size 1 [k], s.victimSegs g.ctx core [k] with
  | none, [] => .done s 10
  | none, vs => .move (bring (vs.map Prod.fst) g) k
  | some ks, _ =>
    if g.st == .cold then .move ((bring ks { g with loading := true }).segEnter k) k
    else .move (bring ks { g with st := .moving, loading := false }) k

/-- SEG.ATTACH by the state found (R208). -/
def State.segAttachAct (s : State) (bk win ctx name : Nat) (load : Bool) : SegAct :=
  let core := blockCore bk
  match s.segNamed ctx name with
  | none => .done s 2
  | some (k, g) =>
    if g.busy then .hold
    else if (((s.block bk).windows[win]?).join).isSome || s.attaching bk win then .done s 7
    else if g.st == .resident && g.loc == core then .done (s.attach k bk win) 0
    else if g.st == .resident && g.attach != 0 then .done s 9
    else if !load then .miss
    else s.segBring (s.launch (s.block bk).launch).queue k g core

/-- SEG.ATTACH (R208). -/
def execSegAttach (g : Guard) (d win : Nat) (load : Bool) (name : SegName) (s : State) : Res :=
  let W := s.wset g
  s.segOp g d 1 false (segUses name) .go (s.segAttachAct s.me.blk win s.myCtx (s.me.segHash name W) load) [] win

/-- SEG.DETACH of a window (R209). -/
def State.segRelease (s : State) (bk win : Nat) : State × Nat :=
  match ((s.block bk).windows[win]?).join with
  | none => (s, 8)
  | some k =>
    let b := s.block bk
    let t := s.setBlock bk { b with windows := b.windows.setIfInBounds win none }
    ((if (t.block bk).attached.contains k then t else t.detach k), 0)

/-- Does an incomplete MARCH of a block read its program through a window? (R252) -/
def Block.marches (b : Block) (win : Nat) : Bool :=
  b.marchQ.any fun c => c.refused.isNone && field c.desc 0x08 4 / 2 ^ 28 == 1 && bitsOf (field c.desc 0x08 4) 21 20 == win

/-- The release of a DETACH covers every earlier access of the block's threads: it waits for the pending reads of the
issuing warp's threads, and for what any warp of the block has under way; a pending read of another warp is before it only
through a release, which has waited for it (R209, R277). -/
def State.detachGate (s : State) : Gate :=
  let busy (k : Nat) : Bool := (s.core (slotCore k)).collector.any (fun r => r.slot == k) ||
    s.ext.any fun r => r.who == .warp k && r.data.isNone
  if s.me.waitsDue LaneMask.all || (s.blockWarps s.me.blk).any fun p => p.2.log.isSome || busy p.1 then .wait else .go

/-- SEG.DETACH (R209): a release at CORE scope; it waits, vD empty, for the MARCH commands that read through the window
(R252). -/
def execSegDetach (g : Guard) (d win : Nat) (s : State) : Res :=
  let bk := s.me.blk
  let r := s.segRelease bk win
  let b := s.block bk
  s.segOp g d 1 false [] s.detachGate
    (if b.marches win then
      .defer (s.setBlock bk { b with detaches := b.detaches ++ [(s.cur.slot, d, win, s.wset g)] })
    else .done r.1 r.2) [] win

/-- SEG.FREE by the state found (R210). -/
def State.segFreeAct (s : State) (q ctx name : Nat) (wb : Bool) : SegAct :=
  match s.segNamed ctx name with
  | none => .done s 2
  | some (k, g) =>
    if g.busy then .hold
    else if g.attach != 0 then .done s 6
    else if wb && g.st == .resident then .move (s.startEvict q k .free) k
    else .done { s with segs := Map.erase s.segs k } 0

/-- SEG.FREE (R210). -/
def execSegFree (g : Guard) (d : Nat) (wb : Bool) (name : SegName) (s : State) : Res :=
  s.segOp g d 1 false (segUses name) .go (s.segFreeAct s.myLaunch.queue s.myCtx (s.me.segHash name (s.wset g)) wb) [] 4

/-- What SEG.QUERY reports (R211). -/
def segInfo (g : Segment) : Nat :=
  (if g.st == .cold then 0xFF else g.loc) * 2 ^ 24 + g.size * 2 ^ 16 +
    (match g.st with
      | .resident => 1
      | .cold => 2
      | .moving => 3) * 2 ^ 14 + g.attach % 2 ^ 11

/-- SEG.QUERY (R211). -/
def execSegQuery (g : Guard) (d : Nat) (name : SegName) (s : State) : Res :=
  let p := s.segNamed s.myCtx (s.me.segHash name (s.wset g))
  let info := match p with
    | some p => segInfo p.2
    | none => 0
  s.segOp g d 2 false (segUses name) .go (.done s (if p.isSome then 0 else 2)) [(d + 1, .u (BitVec.ofNat 32 info))] 0

end Sys2Proof.Machine
end

