-- ==== Sys2Proof/Machine/MatrixUnit.lean ====
section
/-! DEFINITION. The arithmetic of the matrix unit (R90, R93 to R97): formats, terms, sums and accumulation; the columns of
a weight-buffer slot (R229, R356); and the fields of an MMAQ and a WBLOAD (R224, R227, R228). -/

namespace Sys2Proof.Machine

/-! ### Formats (R93, R224) -/

/-- Bits of an element by format code. -/
def mmBits (f : Nat) : Nat :=
  match f with
  | 0 => 32
  | 1 => 16
  | 2 => 16
  | 5 => 4
  | _ => 8

/-- The floating format of a code. -/
def mmFloat (f : Nat) : FloatFormat :=
  match f with
  | 0 => fp32
  | 1 => bf16
  | 2 => fp16
  | 3 => e4m3
  | 4 => e5m2
  | _ => e2m1

/-- Is a format code an integer one? -/
def mmInt (f : Nat) : Bool := f == 6 || f == 7

/-- Is it FP8? -/
def mmFp8 (f : Nat) : Bool := f == 3 || f == 4

/-- May two formats be multiplied? (R93) -/
def mmPair (a b : Nat) : Bool :=
  (decide (a ≤ 2) && a == b) || (mmFp8 a && mmFp8 b) || (a == 5 && b == 5) || (mmInt a && mmInt b)

/-- The group size g (R93). -/
def mmGroup (f : Nat) : Nat :=
  match f with
  | 0 => 4
  | 1 => 16
  | 2 => 16
  | 5 => 64
  | _ => 32

/-- The value of an E8M0 scale (R93). -/
def scaleVal (e : Nat) : Val := if e = 0xFF then .nan false else .num (pow2 ((e : Int) - 127))

/-! ### One group of one element (R94, R95, R97) -/

/-- A term's operands: A pattern, B pattern, the two scales, and whether the position is skippable. -/
structure Term where
  a : Nat
  b : Nat
  sa : Option Nat
  sb : Option Nat
  skip : Bool
  deriving DecidableEq, Repr

/-- The exact product of values. -/
def mulVal (x y : Val) : Val := (Val.mul x y).val

/-- A scale, 1 when there is none. -/
def scaleOr (e : Option Nat) : Val :=
  match e with
  | some e => scaleVal e
  | none => .num 1

/-- term(k) (R94). -/
def Term.value (t : Term) (fa fb : Nat) : Val :=
  mulVal (mulVal ((mmFloat fa).decode t.a) (scaleOr t.sa)) (mulVal ((mmFloat fb).decode t.b) (scaleOr t.sb))

/-- The exact sum of a group's terms (R94). -/
def exactSum (ts : List Val) : Val :=
  let pos := ts.any fun v => v == .inf false
  let neg := ts.any fun v => v == .inf true
  if ts.any Val.isNan || (pos && neg) then .nan false
  else if pos then .inf false
  else if neg then .inf true
  else
    let q := ts.foldl (fun a v => a + v.toRat) 0
    .ofRat (!ts.isEmpty && ts.all fun v => v == .zero true) q

/-- One group added to an FP32 accumulator (R94). -/
def addGroup (acc : Word) (s : Val) : Word :=
  let r := (fp32.round .rn false false s).bits
  (outF .rn (Val.add .rn (valF (BitVec.ofNat 32 r)) (valF acc))).bits

/-- One group added to an INT32 accumulator, with its clamp (R95). -/
def addIntGroup (acc : Word) (s : Int) : Word × Flags :=
  let r := clampInt (intMin true 32) (intMax true 32) (acc.toInt + s)
  (BitVec.ofInt 32 r.1, flagIf r.2 flagSAT)

/-- Is an A operand infinite or NaN, or its scale 0xFF? (R97) -/
def Term.wild (t : Term) (fa : Nat) : Bool := !((mmFloat fa).decode t.a).isFinite || t.sa == some 0xFF

/-- A group of an element: the new accumulator and the flags (R94, R95, R97). -/
def groupStep (fa fb : Nat) (relaxed : Bool) (acc : Word) (ts : List Term) : Word × Flags :=
  let kept := ts.filter fun t => !(relaxed && t.skip)
  if mmInt fa then
    addIntGroup acc (kept.foldl (fun n t => n + intOf (fa == 6) 8 t.a * intOf (fb == 6) 8 t.b) 0)
  else
    (addGroup acc (exactSum (kept.map fun t => t.value fa fb)),
      flagIf (relaxed && ts.any fun t => t.skip && t.wild fa) flagNFSKIP)

/-! ### Elements of packed bytes -/

/-- The element of `b` bits at a bit offset of bytes (R75). -/
def elemAt (byte : Nat → Nat) (b off : Nat) : Nat :=
  if b = 4 then byte (off / 8) / 2 ^ (off % 8) % 16
  else (List.range (b / 8)).foldl (fun x i => x + byte (off / 8 + i) * 2 ^ (8 * i)) 0

/-- Bytes rounded up to a multiple of n. -/
def roundUp (x n : Nat) : Nat := (x + n - 1) / n * n

/-- Set bits of the low n bits of a number. -/
def popBits (x : Nat) : Nat → Nat
  | 0 => 0
  | n + 1 => x % 2 + popBits (x / 2) n

/-! ### The columns of B (R229, R356) -/

/-- A loaded operand: format, form, SC, N, K, and where its bytes begin. -/
structure BShape where
  fmt : Nat
  form : Nat
  sc : Bool
  n : Nat
  k : Nat
  deriving DecidableEq, Repr

/-- Bytes of a column in memory and, rounded up to 16, in the buffer, for the forms of one size (R229). -/
def BShape.fixedBytes (s : BShape) : Nat :=
  let b := mmBits s.fmt
  match s.form with
  | 0 => s.k * b / 8 + if s.sc then (s.k + 31) / 32 else 0
  | 1 => s.k * b / 16 + (s.k + 7) / 8
  | _ => s.k / 2 + (s.k + 31) / 32

/-- The two lowest set bits of a 2:4 mask (R229). -/
def twoLowest (m : Nat) : List Nat := ((List.range 4).filter fun i => bitOf m i).take 2

/-- The value of B at k in a bitmap column, from packed groups. -/
def bitmapAt (b : Nat) (byte : Nat → Nat) : Nat → Nat → Nat → Nat × Bool
  | 0, off, k =>
    let m := elemAt byte 32 (8 * off)
    if bitOf m k then (elemAt byte b (8 * (off + 4 + b / 8 * popBits m k)), false) else (0, true)
  | g + 1, off, k =>
    let m := elemAt byte 32 (8 * off)
    bitmapAt b byte g (off + 4 + b / 8 * popBits m 32) k

/-- The pattern of B at k of a column that begins at a byte, and whether the position is skippable (R229, R356, R357). -/
def BShape.elem (s : BShape) (byte : Nat → Nat) (k : Nat) : Nat × Bool :=
  let b := mmBits s.fmt
  match s.form with
  | 1 =>
    let q := k / 4
    let m := byte (s.k * b / 16 + q / 2) / 2 ^ (4 * (q % 2)) % 16
    let kept := twoLowest m
    if kept.contains (k % 4) then (elemAt byte b (b * (2 * q + kept.idxOf (k % 4))), false) else (0, true)
  | 2 => bitmapAt b byte (k / 32) 0 (k % 32)
  | _ => (elemAt byte b (b * k), false)

/-- The scale of B at k, where the slot has scales (R228, R229). -/
def BShape.scale (s : BShape) (byte : Nat → Nat) (k : Nat) : Option Nat :=
  match s.form with
  | 3 => some (byte (s.k / 2 + k / 32))
  | 0 => if s.sc then some (byte (s.k * mmBits s.fmt / 8 + k / 32)) else none
  | _ => none

/-- The bytes that a column takes in the buffer (R229). -/
def BShape.colBytes (s : BShape) (byte : Nat → Nat) : Nat :=
  match s.form with
  | 2 =>
    let b := mmBits s.fmt
    let n := s.k / 32
    roundUp ((List.range n).foldl (fun off _ => off + 4 + b / 8 * popBits (elemAt byte 32 (8 * off)) 32) 0) 16
  | _ => roundUp s.fixedBytes 16

/-- Where column n begins in a buffer from which columns follow one another. -/
def BShape.colStart (s : BShape) (byte : Nat → Nat) : Nat → Nat
  | 0 => 0
  | n + 1 =>
    let o := s.colStart byte n
    o + s.colBytes fun i => byte (o + i)

/-- The shape of a slot's contents. -/
def WSlot.shape (w : WSlot) : BShape := ⟨w.bfmt, w.form, w.sc, w.n, w.k⟩

/-! ### Fields of an MMAQ (R224, R227) -/

def mqA (d : List Byte) : Nat := field d 0x00 4
def mqD (d : List Byte) : Nat := field d 0x04 4
def mqAld (d : List Byte) : Nat := field d 0x08 4
def mqDld (d : List Byte) : Nat := field d 0x0C 4
def mqM (d : List Byte) : Nat := field d 0x10 4
def mqN (d : List Byte) : Nat := field d 0x14 2
def mqK (d : List Byte) : Nat := field d 0x18 4
def mqFa (d : List Byte) : Nat := field d 0x1C 1 % 16
def mqFb (d : List Byte) : Nat := field d 0x1C 1 / 16
def mqMode (d : List Byte) : Nat := field d 0x1D 1
def mqInit (d : List Byte) : Bool := bitOf (mqMode d) 0
def mqScaled (d : List Byte) : Bool := bitOf (mqMode d) 1
def mqRelaxed (d : List Byte) : Bool := bitOf (mqMode d) 2
def mqConv (d : List Byte) : Bool := bitOf (mqMode d) 3
def mqAkind (d : List Byte) : Bool := bitOf (mqMode d) 4
def mqSlot (d : List Byte) : Nat := field d 0x1E 1 % 16
def mqOrd (d : List Byte) : Nat := field d 0x1F 1
def mqSca (d : List Byte) : Nat := field d 0x20 4
def mqConvrec (d : List Byte) : Nat := field d 0x24 4
def mqAidx (d : List Byte) : Nat := field d 0x28 8
def mqCompl (d : List Byte) : Nat := field d 0x30 4

/-- Output blocks across, K-groups, and tiles of an MMAQ (R352). -/
def mqCols (d : List Byte) : Nat := (mqN d + 127) / 128
def mqBlocks (d : List Byte) : Nat := (mqM d + 127) / 128 * mqCols d
def mqGroups (d : List Byte) : Nat := (mqK d + mmGroup (mqFa d) - 1) / mmGroup (mqFa d)
def mqTiles (d : List Byte) : Nat := mqBlocks d * mqGroups d

/-- Bytes between rows of the A scales (R226). -/
def mqScalePitch (d : List Byte) : Nat := roundUp ((mqK d + 31) / 32) 16

/-- Fields of a convolution shape record (R227). -/
structure Conv where
  nimg : Nat
  h : Nat
  w : Nat
  c : Nat
  fh : Nat
  fw : Nat
  strh : Nat
  strw : Nat
  dilh : Nat
  dilw : Nat
  padh : Nat
  padw : Nat
  padv : Nat
  oh : Nat
  ow : Nat
  deriving DecidableEq, Repr

/-- The fields of the 32 bytes. -/
def convOf (b : List Byte) : Conv :=
  ⟨field b 0 2, field b 2 2, field b 4 2, field b 6 2, field b 8 1, field b 9 1, field b 0xA 1, field b 0xB 1,
    field b 0xC 1, field b 0xD 1, field b 0xE 1, field b 0xF 1, field b 0x10 4, field b 0x14 2, field b 0x16 2⟩

/-- Output extent of a convolution along an axis (R227). -/
def convOut (n pad dil f str : Nat) : Int := ((n : Int) + 2 * pad - dil * ((f : Int) - 1) - 1) / str + 1

/-- Is a convolution record well formed for a format and the M and K of its MMAQ? (R227) -/
def convOk (b : List Byte) (bits m k : Nat) : Bool :=
  let c := convOf b
  let within (x lo hi : Nat) : Bool := decide (lo ≤ x) && decide (x ≤ hi)
  within c.nimg 1 65535 && within c.h 1 65535 && within c.w 1 65535 && within c.c 1 65535 && c.c * bits % 128 == 0 &&
    within c.fh 1 16 && within c.fw 1 16 && within c.strh 1 8 && within c.strw 1 8 && within c.dilh 1 8 &&
    within c.dilw 1 8 && within c.padh 0 15 && within c.padw 0 15 && decide (c.padv < 2 ^ bits) && field b 0x18 8 == 0 &&
    decide (1 ≤ convOut c.h c.padh c.dilh c.fh c.strh) && (c.oh : Int) == convOut c.h c.padh c.dilh c.fh c.strh &&
    decide (1 ≤ convOut c.w c.padw c.dilw c.fw c.strw) && (c.ow : Int) == convOut c.w c.padw c.dilw c.fw c.strw &&
    m == c.nimg * c.oh * c.ow && k == c.fh * c.fw * c.c

/-- The element of the input tensor that A[m][k] takes; nothing where it is padding (R227). -/
def convIndex (c : Conv) (m k : Nat) : Option Nat :=
  let img := m / (c.oh * c.ow)
  let fy := k / (c.fw * c.c)
  let h : Int := (m / c.ow % c.oh * c.strh : Nat) - (c.padh : Int) + (fy * c.dilh : Nat)
  let w : Int := (m % c.ow * c.strw : Nat) - (c.padw : Int) + (k / c.c % c.fw * c.dilw : Nat)
  if 0 ≤ h ∧ h < c.h ∧ 0 ≤ w ∧ w < c.w then some (((img * c.h + h.toNat) * c.w + w.toNat) * c.c + k % c.c) else none

/-! ### Fields of a WBLOAD (R228) -/

def wbSrc (d : List Byte) : Nat := field d 0x00 8
def wbColstr (d : List Byte) : Nat := field d 0x08 4
def wbK (d : List Byte) : Nat := field d 0x0C 4
def wbN (d : List Byte) : Nat := field d 0x10 2
def wbFmt (d : List Byte) : Nat := field d 0x12 1
def wbForm (d : List Byte) : Nat := field d 0x13 1 % 4
def wbScFlag (d : List Byte) : Bool := bitOf (field d 0x13 1) 2
def wbSlot (d : List Byte) : Nat := field d 0x14 1 % 16
def wbOff (d : List Byte) : Nat := field d 0x18 4
def wbCompl (d : List Byte) : Nat := field d 0x1C 4

/-- The SC mark that a WBLOAD sets (R229). -/
def wbSc (d : List Byte) : Bool := wbForm d == 3 || (wbForm d == 0 && wbScFlag d)

/-- What a WBLOAD loads. -/
def wbShape (d : List Byte) : BShape := ⟨wbFmt d, wbForm d, wbSc d, wbN d, wbK d⟩

end Sys2Proof.Machine
end

