-- ==== Sys2Proof/Machine/Engines.lean ====
section
/-! DEFINITION. Engine commands (R214 to R223): their issue, checks and completion; the matrix unit's commands MMAQ and
WBLOAD and its events (R224 to R230, R351 to R361); the copy engine's command CPQ and its events (R231, R462). An engine
reads and writes core SRAM and memory in steps of its own (State.fetchA, State.freshSet, State.writeback, State.copyRow,
State.writeHit): another party's access of the same byte comes before or after such a step, so it finds the old byte or the
engine's, and no step traps (R220). -/

namespace Sys2Proof.Machine

/-! ### Bytes of records, for engines -/

/-- Bytes at an offset of a record; those outside it read as zero (R226, R229, R231). -/
def State.recFetch (s : State) (p : Party) (r : Record) (o n : Nat) : Got :=
  let lim := recExtent r * recStep r
  if lim ≤ o then .ok (List.replicate n 0)
  else
    let m := min n (lim - o)
    match s.fetch p ((recBase r + o) % 2 ^ 57) m with
    | .ok bs => .ok (bs ++ List.replicate (n - m) 0)
    | .wait t => .wait t
    | .denied => .denied

/-- Is a range outside a record that raises bounds? (R225, R229, R231) -/
def recOut (r : Record) (o n : Nat) : Bool := recOobt r && n != 0 && decide (recExtent r * recStep r < o + n)

/-- Several reads, each made; the bytes of all, or a wait. -/
def State.fetchAll (s : State) (f : State → Nat → Got) : List Nat → Option State × List (List Byte) × Bool
  | [] => (none, [], false)
  | i :: is =>
    match f s i with
    | .ok bs =>
      let r := s.fetchAll f is
      (r.1, bs :: r.2.1, r.2.2)
    | .wait t =>
      let r := t.fetchAll f is
      (some (r.1.getD t), [] :: r.2.1, r.2.2)
    | .denied => (none, [], true)

/-! ### Completion (R217, R218) -/

/-- Can a completion address be written? (R217) -/
def State.complOk (s : State) (bk a : Nat) : Bool :=
  a % 8 == 0 && (match s.sram bk a 8 with
    | .ok _ _ => true
    | _ => false)

/-- The status word written and the phase word flipped (R217, R219). -/
def State.complete (s : State) (bk a status : Nat) (rel : Bool) (sc : Scope) : State :=
  match s.sram bk a 8 with
  | .ok b off =>
    let t := s.sramWrite b (off + 4) 4 status
    let t := t.sramWrite b off 4 (arriveWord (t.sramRead b off 4) 1)
    t.order (blockCore bk) false rel false sc (b.key off) 4 true
  | _ => s

/-- Are the remote writes of a block's engine acknowledged? A flip, being a release of them, waits for that (R219, R426). -/
def State.engineAcked (s : State) (bk k : Nat) : Bool := !s.ext.any fun r => r.who == .engine bk k && r.data.isNone

/-- The command that may complete: the first refused one, else the head when it is done; `acked` says whether what the
engine wrote for the block outside the device is acknowledged, which a command that has started waits for (R219, R426). -/
def doneCmd (acked : Bool) (cs : List Cmd) (done : Cmd → Bool) : Option (Nat × Cmd) :=
  match cs.findIdx? fun c => c.refused.isSome && !c.frozen && (acked || !c.started) with
  | some i => (cs[i]?).map fun c => (i, c)
  | none =>
    match cs.head? with
    | some c => if done c && acked && !c.frozen then some (0, c) else none
    | none => none

/-- The command that the engine serves: the head of its queue, unless it was refused and is about to complete; a command
starts once the one before it has completed (R351). -/
def servedCmd (cs : List Cmd) : Option (Nat × Cmd) :=
  (cs.head?).bind fun c => if c.accepted && c.refused.isNone then some (0, c) else none

/-- The flags of a command given to the warp that issued it (R90). -/
def State.giveFlags (s : State) (slot : Nat) (f : Flags) : State :=
  match Map.find s.warps slot with
  | some w => s.setWarp slot { w with kflags := setFlags w.kflags f }
  | none => s

/-! ### Issue (R214 to R216, R221) -/

/-- Is the engine channel of the executing warp's block frozen? Its new commands wait at issue (R403). -/
def State.channelFrozen (s : State) : Bool := s.isFrozen (s.channel s.me.blk)

/-- The issue of an engine command by the lowest thread of W: `op` its major opcode, the roles allowed, the descriptor's
size, whether its queue has room, and what it does with the descriptor. It waits until the thread's earlier accesses are
performed, its pending ACQ and WAITPH reads among them: the engine's accesses follow them all, so they lie in the acquire set
of every such ACQ, whatever guard their record carries (R219, R223, R278, R286). -/
def State.command (s : State) (g : Guard) (op : Nat) (allowed : Role → Bool) (a : Src) (off : Word) (n : Nat)
    (room : Bool) (f : State → List Byte → Res) : Res :=
  let W := s.wset g
  let W1 := W &&& LaneMask.one W.lowest
  let addr := s.me.sramAt a off W.lowest
  let check := ((((s.memGate W1 0 false).and (s.releaseGate W1 (W != 0))).and (s.roleGate W op allowed)).and
    (s.sramGate s.me.blk W1 (fun _ => addr) n n)).and (if W != 0 && !room then .wait else .go)
  s.perform a.scalar (a.uses 1) check fun t =>
    if W = 0 then .next t.advance else f t (leBytes n (s.sramNat s.me.blk addr n))

/-- Roles that may queue matrix commands, and copies (R214). -/
def matrixRole (r : Role) : Bool := r == .any || r == .matrix
def anyRole (_ : Role) : Bool := true

/-- A fresh command. -/
def Cmd.fresh (kind : CmdKind) (desc : List Byte) (brec : Record) (warp lane : Nat) (acq rel : Bool) (sc : Scope)
    (refused : Option Nat) : Cmd where
  kind := kind
  desc := desc
  brec := brec
  shape := []
  warp := warp
  lane := lane
  acq := acq
  rel := rel
  scope := sc
  started := false
  refused := refused
  progress := 0
  sets := []
  buffers := []
  parked := []
  rays := []
  flags := 0
  accepted := refused.isNone
  frozen := false

/-- A command put into its block's queue at the matrix unit; accepted commands take their place in the order (R351). -/
def State.queueMatrix (s : State) (bk : Nat) (c : Cmd) : State :=
  let b := s.block bk
  let t := s.setBlock bk { b with matrixQ := b.matrixQ ++ [c] }
  if !c.accepted then t
  else
    let k := clusterOf (blockCore bk)
    let u := t.cluster k
    t.setCluster k { u with order := u.order ++ [bk] }

/-- Room in a queue of depth 8, in a channel that is not frozen (R221, R403). -/
def State.queueRoom (s : State) (cs : List Cmd) : Bool := decide (cs.length < 8) && !s.channelFrozen

/-! ### MMAQ: checks (R225) -/

/-- A range of core SRAM as bank, offset and length, where it lies within its space. -/
def State.span (s : State) (bk a n : Nat) : Option (Bank × Nat × Nat) :=
  match s.sram bk a n with
  | .ok b off => some (b, off, n)
  | _ => none

/-- Do two ranges of a store or of addresses share a byte? -/
def bytesMeet (a n b m : Nat) : Bool := n != 0 && m != 0 && decide (a < b + m) && decide (b < a + n)

/-- Do two ranges of core SRAM addresses overlap: as addresses, or in the store where both begin? A range may pass the limit
of its space: overlap is judged before limits are (R225, R231). -/
def State.rangesMeet (s : State) (bk a n b m : Nat) : Bool :=
  bytesMeet a n b m || (match s.sram bk a 1, s.sram bk b 1 with
    | .ok c o, .ok e p => c == e && bytesMeet o n p m
    | _, _ => false)

/-- Bytes that A takes: its rows, or the whole input tensor (R225, R227). -/
def mqABytes (d shape : List Byte) : Nat :=
  let b := mmBits (mqFa d)
  if mqConv d then
    let c := convOf shape
    (c.nimg * c.h * c.w * c.c * b + 7) / 8
  else (b * ((mqM d - 1) * mqAld d + mqK d) + 7) / 8

/-- Bytes that D and the scales take (R226). -/
def mqDBytes (d : List Byte) : Nat := 4 * ((mqM d - 1) * mqDld d + mqN d)
def mqSBytes (d : List Byte) : Nat := (mqM d - 1) * mqScalePitch d + (mqK d + 31) / 32

/-- Reserved fields and limits of the parameter block (R224, R225). -/
def mqFieldsOk (d : List Byte) : Bool :=
  field d 0x16 2 == 0 && decide (mqFa d < 8) && decide (mqFb d < 8) && decide (mqMode d < 32) &&
    decide (field d 0x1E 1 < 16) && decide (mqOrd d < 32) && decide (bitsOf (mqOrd d) 4 2 ≤ 4) && field d 0x34 12 == 0 &&
    (!mqAkind d || decide (mqA d < 16)) && mqD d % 16 == 0 &&
    (if mqConv d then mqAld d == 0 else mqAld d % 32 == 0 && decide (mqK d ≤ mqAld d)) &&
    mqDld d % 4 == 0 && decide (mqN d ≤ mqDld d) && decide (1 ≤ mqM d) && decide (mqM d ≤ 65536) &&
    (if mqScaled d then mqSca d % 16 == 0 else mqSca d == 0) && (if mqConv d then mqConvrec d % 32 == 0 else mqConvrec d == 0) &&
    (if mqAkind d then mqAidx d % 16 == 0 else mqAidx d == 0)

/-- The formats and modes that go together (R225). -/
def mqFormatsOk (d : List Byte) : Bool :=
  mmPair (mqFa d) (mqFb d) && (!mqScaled d || mmFp8 (mqFa d) || mqFa d == 5) && (mqScaled d || mqFa d != 5) &&
    !(mqScaled d && mqConv d)

/-- The first BADDESC list of R225. -/
def State.mqBad (s : State) (bk : Nat) (d shape : List Byte) (r : Record) : Bool :=
  let meets (a n : Nat) : Bool := s.rangesMeet bk (mqD d) (mqDBytes d) a n
  !mqFieldsOk d || !mqFormatsOk d || (!mqAkind d && meets (mqA d) (mqABytes d shape)) ||
    (mqScaled d && meets (mqSca d) (mqSBytes d)) || (mqConv d && meets (mqConvrec d) 32) ||
    (mqAkind d && (recReserved r || recSwz r != 0)) ||
    (mqConv d && (s.span bk (mqConvrec d) 32).isSome && !convOk shape (mmBits (mqFa d)) (mqM d) (mqK d))

/-- The BOUNDS list of R225. -/
def State.mqOut (s : State) (bk : Nat) (d shape : List Byte) (r : Record) : Bool :=
  (s.span bk (mqD d) (mqDBytes d)).isNone ||
    (if mqAkind d then recOut r (mqAidx d) (mqABytes d shape) else (s.span bk (mqA d) (mqABytes d shape)).isNone) ||
    (mqScaled d && (s.span bk (mqSca d) (mqSBytes d)).isNone) || (mqConv d && (s.span bk (mqConvrec d) 32).isNone)

/-- The scope that a code names (R48). -/
def scopeOf (n : Nat) : Scope :=
  match n with
  | 0 => .blk
  | 1 => .core
  | 2 => .chip
  | 3 => .dom
  | _ => .sys

/-! ### The matrix unit at work (R351 to R360) -/

/-- The position of a command's block in the acceptance order: how many accepted commands come before it. -/
def ordersBefore (order : List Nat) (bk i : Nat) : List Nat :=
  (order.zipIdx.takeWhile fun p => !(p.1 == bk && (order.take p.2).count bk == i)).map Prod.fst

/-- The accepted commands before the i-th accepted one of a block, oldest first (R230, R351). -/
def State.earlierCmds (s : State) (bk i : Nat) : List Cmd :=
  let before := ordersBefore (s.cluster (clusterOf (blockCore bk))).order bk i
  before.zipIdx.filterMap fun p =>
    ((s.block p.1).matrixQ.filter Cmd.accepted)[(before.take p.2).count p.1]?

/-- A slot of a cluster. -/
def Cluster.slot (u : Cluster) (k : Nat) : WSlot := u.slots[k % 16]'(Nat.mod_lt _ (by decide))

/-- The most bytes that a WBLOAD can take in the buffer: a bitmap column has at most K values (R229). -/
def wbMost (d : List Byte) : Nat :=
  wbN d * roundUp (if wbForm d = 2 then 4 * (wbK d / 32) + mmBits (wbFmt d) / 8 * wbK d else (wbShape d).fixedBytes) 16

/-- The bytes of the weight buffer that a reader of a slot reads: those of the last WBLOAD to it among the commands accepted
before it, else those that the slot holds (R230, R355). -/
def Cluster.slotRange (u : Cluster) (before : List Cmd) (k : Nat) : Nat × Nat :=
  match (before.filter fun c => c.kind == .wbload && c.refused.isNone && wbSlot c.desc == k).getLast? with
  | some c => (wbOff c.desc, wbMost c.desc)
  | none => let x := u.slot k; if x.valid then (x.wboff, x.bytes) else (0, 0)

/-- Does an MMAQ of a list of accepted commands, the i-th, read a slot or bytes that a load of `n` bytes changes? (R230) -/
def Cluster.readBy (u : Cluster) (cs : List Cmd) (slot off n : Nat) : Bool :=
  cs.zipIdx.any fun q => q.1.kind == .mmaq &&
    (mqSlot q.1.desc == slot ||
      (let r := u.slotRange (cs.take q.2) (mqSlot q.1.desc)
       bytesMeet r.1 r.2 off n))

/-- Must a WBLOAD wait for commands accepted before it that read a slot it overlaps? (R230) -/
def State.wbBlocked (s : State) (bk : Nat) (d : List Byte) : Bool :=
  (s.cluster (clusterOf (blockCore bk))).readBy (s.earlierCmds bk 0) (wbSlot d) (wbOff d) (wbMost d)

/-- Must the reload of a slot by a restore wait: for readers of what it overwrites, as a WBLOAD does, and for a WBLOAD
accepted before it that would overwrite the slot or its bytes after it? (R230, R360) -/
def State.reloadBlocked (s : State) (bk : Nat) (d : List Byte) (n : Nat) : Bool :=
  s.wbBlocked bk d || (s.earlierCmds bk 0).any fun c =>
    c.kind == .wbload && (wbSlot c.desc == wbSlot d || bytesMeet (wbOff d) n (wbOff c.desc) (wbMost c.desc))

/-- Must an MMAQ wait for a WBLOAD accepted before it, to its slot or over its slot's bytes? (R230, R359) -/
def State.mqBlocked (s : State) (bk : Nat) (d : List Byte) : Bool :=
  let cs := s.earlierCmds bk 0
  let r := (s.cluster (clusterOf (blockCore bk))).slotRange cs (mqSlot d)
  cs.any fun c => c.kind == .wbload && (wbSlot c.desc == mqSlot d || bytesMeet r.1 r.2 (wbOff c.desc) (wbMost c.desc))

/-- A slot of a cluster changed. -/
def Cluster.setSlot (u : Cluster) (k : Nat) (w : WSlot) : Cluster :=
  { u with slots := u.slots.set (k % 16) w (Nat.mod_lt _ (by decide)) }

/-- A block's i-th matrix command changed. -/
def State.setMatrixCmd (s : State) (bk i : Nat) (c : Cmd) : State :=
  let b := s.block bk
  s.setBlock bk { b with matrixQ := b.matrixQ.set i c }

/-- NOSLOT and the comparison with the slot (R225). Of a slot that another context loaded the manual says nothing, and its
context is not compared (R355; log entry 104). -/
def mqSlotStatus (d : List Byte) (w : WSlot) : Option Nat :=
  if !w.valid then some 3
  else if mqN d != w.n || mqK d != w.k || mqFb d != w.bfmt || mqScaled d != w.sc then some 1
  else none

/-- An access of a matrix command refused for permission: its channel is frozen (R403). -/
def State.freezeMatrix (s : State) (bk i : Nat) (c : Cmd) : State :=
  (s.setMatrixCmd bk i { c with frozen := true }).freeze (s.channel bk)

/-- The groups of a bitmap column read one after another: the mask, then as many values as it has bits; packed (R229). -/
def State.fetchBitmap (s : State) (p : Party) (r : Record) (b : Nat) : Nat → Nat → Got
  | 0, _ => .ok []
  | n + 1, o =>
    match s.recFetch p r o 4 with
    | .ok m =>
      let v := b / 8 * popBits (leNat m) 32
      match s.recFetch p r (o + 4) v with
      | .ok vs =>
        match s.fetchBitmap p r b n (o + roundUp (4 + v) 4) with
        | .ok bs => .ok (m ++ vs ++ bs)
        | g => g
      | g => g
    | g => g

/-- One column of a WBLOAD (R229). -/
def State.fetchColumn (s : State) (p : Party) (d : List Byte) (r : Record) (n : Nat) : Got :=
  let o := wbSrc d + n * wbColstr d
  if wbForm d = 2 then s.fetchBitmap p r (mmBits (wbFmt d)) (wbK d / 32) o else s.recFetch p r o (wbShape d).fixedBytes

/-- A column as it stands in the buffer: rounded up to 16 bytes (R229). -/
def padColumn (bs : List Byte) : List Byte := bs ++ List.replicate (roundUp bs.length 16 - bs.length) 0

/-- Does a group of a bitmap column, given packed, lie outside a record that raises bounds? (R229) -/
def bitmapOut (r : Record) (b : Nat) : Nat → Nat → List Byte → Bool
  | 0, _, _ => false
  | n + 1, o, bs =>
    let v := b / 8 * popBits (field bs 0 4) 32
    recOut r o (4 + v) || bitmapOut r b n (o + roundUp (4 + v) 4) (bs.drop (4 + v))

/-- A slot that holds nothing any more (R230). -/
def State.dropSlot (s : State) (cl k : Nat) : State :=
  let u := s.cluster cl
  s.setCluster cl (u.setSlot k { u.slot k with valid := false })

/-- Is a WBLOAD one that a restore makes, with the bytes that the save recorded? (R360) -/
def Cmd.reload (c : Cmd) : Bool := c.kind == .wbload && !c.shape.isEmpty && !c.started

/-- The start of a WBLOAD: the slot falls, its bytes are read, and late refusals are found; it goes on at the next event
where a read has to wait (R229, R230). A reload that passes the end of the new cluster's buffer is refused with WBFULL
(R316, R360; log entry 105). -/
def State.startWbload (s : State) (bk i : Nat) (c : Cmd) : State :=
  let d := c.desc
  let k := clusterOf (blockCore bk)
  let p := s.engine bk 0
  let begun := { c with started := true }
  if c.reload then
    (s.dropSlot k (wbSlot d)).setMatrixCmd bk i { begun with
      progress := 1
      refused := if (s.cluster k).wbEnd < wbOff d + c.shape.length then some 4 else none }
  else
  let r := s.fetchAll (fun t n => t.fetchColumn p d c.brec n) (List.range (wbN d))
  if r.2.2 then (s.dropSlot k (wbSlot d)).freezeMatrix bk i begun
  else
    match r.1 with
    | some t => (t.dropSlot k (wbSlot d)).setMatrixCmd bk i begun
    | none =>
      let content := r.2.1.flatMap padColumn
      let out := wbForm d == 2 && r.2.1.zipIdx.any fun q =>
        bitmapOut c.brec (mmBits (wbFmt d)) (wbK d / 32) (wbSrc d + q.2 * wbColstr d) q.1
      let status := if out then some 2 else if (s.cluster k).wbEnd < wbOff d + content.length then some 4 else none
      (((s.dropKept p.who).settle p.ctx p.who).dropSlot k (wbSlot d)).setMatrixCmd bk i
        { begun with refused := status, shape := content, progress := 1 }

/-- Is a block being saved? Its queued commands that have not started are recorded instead (R222). -/
def Block.saving (b : Block) : Bool :=
  match b.phase with
  | .saving _ => true
  | _ => false

/-- The start of a matrix command (R230, R351). -/
def State.startMatrix (s : State) (bk : Nat) : State :=
  match servedCmd (s.block bk).matrixQ with
  | none => s
  | some (i, c) =>
    if c.frozen || ((s.block bk).saving && !c.started) then s
    else
      match c.kind with
      | .wbload =>
        if c.progress != 0 || (!c.started && s.wbBlocked bk c.desc) ||
          (c.reload && s.reloadBlocked bk c.desc c.shape.length) then s
        else s.startWbload bk i c
      | _ =>
        if c.started || s.mqBlocked bk c.desc then s
        else
          let w := (s.cluster (clusterOf (blockCore bk))).slot (mqSlot c.desc)
          s.setMatrixCmd bk i { c with started := true, refused := mqSlotStatus c.desc w }

/-- The bytes of A that a tile needs. -/
inductive ABytes where
  | ok (elem : Nat → Nat → Nat)
  | wait (s : State)
  | denied

/-- A byte of a range of core SRAM. -/
def State.spanByte (s : State) (bk a n : Nat) (i : Nat) : Nat :=
  match s.sram bk a n with
  | .ok b off => ((s.bank b).byte (off + i)).toNat
  | _ => 0

/-- A byte of a list. -/
def listByte (bs : List Byte) (i : Nat) : Nat := ((bs[i]?).getD 0).toNat

/-- The pieces of a row's K-group under CONV, each within one filter position: first k and count. A padded one is not read
(R227, R358). -/
def convPieces (cv : Conv) (m k0 kn : Nat) : List (Nat × Nat) :=
  ((List.range kn).map fun j => k0 + j).filterMap fun k =>
    if (k == k0 || k % cv.c == 0) && (convIndex cv m k).isSome then some (k, min (cv.c - k % cv.c) (k0 + kn - k)) else none

/-- The patterns of A[m][k] for the rows and K-group of a tile (R226, R227, R358). -/
def State.fetchA (s : State) (bk : Nat) (c : Cmd) (rows : List Nat) (k0 kn : Nat) : ABytes :=
  let d := c.desc
  let b := mmBits (mqFa d)
  let cv := convOf c.shape
  let conv (byte : Nat → Nat) (m k : Nat) : Nat :=
    match convIndex cv m k with
    | some i => elemAt byte b (b * i)
    | none => cv.padv
  if !mqAkind d then
    let byte := s.spanByte bk (mqA d) (mqABytes d c.shape)
    .ok fun m k => if mqConv d then conv byte m k else elemAt byte b (b * (m * mqAld d + k))
  else if mqConv d then
    let pieces := rows.flatMap fun m => (convPieces cv m k0 kn).map fun q => (m, q.1, q.2)
    let at' (m k : Nat) : Nat := (convIndex cv m k).getD 0
    let r := s.fetchAll (fun t i =>
      let q := (pieces[i]?).getD (0, 0, 0)
      t.recFetch (s.engine bk 0) c.brec (mqAidx d + b * at' q.1 q.2.1 / 8) ((b * q.2.2 + 7) / 8)) (List.range pieces.length)
    if r.2.2 then .denied
    else
      match r.1 with
      | some t => .wait t
      | none => .ok fun m k =>
        match (pieces.zip r.2.1).find? fun q => q.1.1 == m && decide (q.1.2.1 ≤ k) && decide (k < q.1.2.1 + q.1.2.2) with
        | some q => elemAt (listByte q.2) b (b * (k - q.1.2.1))
        | none => cv.padv
  else
    let r := s.fetchAll (fun t m => t.recFetch (s.engine bk 0) c.brec (mqAidx d + b * (m * mqAld d + k0) / 8)
      ((b * kn + 7) / 8)) rows
    if r.2.2 then .denied
    else
      match r.1 with
      | some t => .wait t
      | none => .ok fun m k => elemAt (listByte ((r.2.1[rows.idxOf m]?).getD [])) b (b * (k - k0))

/-- The positions of an output block that lie in D: index 128 × row + column (R352). -/
def blockCells (d : List Byte) (ob : Nat) : List Nat :=
  let rb := ob / mqCols d
  let cb := ob % mqCols d
  (List.range (min 128 (mqM d - 128 * rb))).flatMap fun i =>
    (List.range (min 128 (mqN d - 128 * cb))).map fun j => 128 * i + j

/-- The row and column of D of a cell. -/
def cellAt (d : List Byte) (ob i : Nat) : Nat × Nat := (128 * (ob / mqCols d) + i / 128, 128 * (ob % mqCols d) + i % 128)

/-- A fresh accumulator set: +0, or the prior D (R353). -/
def State.freshSet (s : State) (bk : Nat) (c : Cmd) (ob : Nat) : AccSet :=
  let d := c.desc
  let byte := s.spanByte bk (mqD d) (mqDBytes d)
  ⟨ob, (blockCells d ob).map fun i =>
    let p := cellAt d ob i
    (i, if mqInit d then BitVec.ofNat 32 (elemAt byte 32 (32 * (p.1 * mqDld d + p.2))) else 0), false⟩

/-- One tile on a set (R94, R95, R352). -/
def State.tileOn (s : State) (bk : Nat) (c : Cmd) (k0 kn : Nat) (a : Nat → Nat → Nat) (set : AccSet) : AccSet × Flags :=
  let d := c.desc
  let u := s.cluster (clusterOf (blockCore bk))
  let w := u.slot (mqSlot d)
  let sh := w.shape
  let sca := s.spanByte bk (mqSca d) (mqSBytes d)
  let wb (i : Nat) : Nat := (u.wb.byte (w.wboff + i)).toNat
  let starts := (List.range (mqN d)).map fun n => sh.colStart wb n
  let cell (q : Nat × Word) : (Nat × Word) × Flags :=
    let p := cellAt d set.block q.1
    let col (i : Nat) : Nat := wb ((starts[p.2]?).getD 0 + i)
    let ts := (List.range kn).map fun j =>
      let k := k0 + j
      let e := sh.elem col k
      { a := a p.1 k, b := e.1, sa := if mqScaled d then some (sca (p.1 * mqScalePitch d + k / 32)) else none,
        sb := sh.scale col k, skip := e.2 : Term }
    let r := groupStep (mqFa d) (mqFb d) (mqRelaxed d) q.2 ts
    ((q.1, r.1), r.2)
  let rs := set.vals.map cell
  ({ set with vals := rs.map Prod.fst }, rs.foldl (fun f r => f ||| r.2) 0)

/-- What an attempt at a command's next tile comes to: done, not ready, or not ready with accesses set in motion. -/
inductive TileTry where
  | ran (s : State)
  | no (s : State)

/-- The sets of a cluster in use, and the commands that hold some (R353). -/
def State.setsUsed (s : State) (k : Nat) : Nat × Nat :=
  s.blocks.foldl (fun n p =>
    if clusterOf (blockCore p.1) = k then
      p.2.matrixQ.foldl (fun n c => (n.1 + c.sets.length, n.2 + if c.sets.isEmpty then 0 else 1)) n
    else n) (0, 0)

/-- The sets that a save recorded taken again, once the unit has that many free and fewer than 8 commands active (R353,
R360). -/
def State.reloadSets (s : State) (bk : Nat) : State :=
  match servedCmd (s.block bk).matrixQ with
  | none => s
  | some (i, c) =>
    let used := s.setsUsed (clusterOf (blockCore bk))
    if c.parked.isEmpty || (s.block bk).saving || decide (16 < used.1 + c.parked.length) || decide (8 ≤ used.2) then s
    else s.setMatrixCmd bk i { c with sets := c.parked, parked := [] }

/-- The next tile of a block's command, if it is ready (R352 to R354). -/
def State.tryTile (s : State) (bk : Nat) : TileTry :=
  let s := s.reloadSets bk
  match servedCmd (s.block bk).matrixQ with
  | none => .no s
  | some (i, c) =>
    let d := c.desc
    if c.kind != .mmaq || !c.started || c.frozen || !c.parked.isEmpty || (s.block bk).saving ||
        decide (mqTiles d ≤ c.progress) then .no s
    else
      let ob := c.progress / mqGroups d
      let g := mmGroup (mqFa d)
      let k0 := c.progress % mqGroups d * g
      let kn := min g (mqK d - k0)
      let used := s.setsUsed (clusterOf (blockCore bk))
      let mine := c.sets.find? fun x => x.block == ob && !x.draining
      let room := decide (c.sets.length < 2) && decide (used.1 < 16) && (!c.sets.isEmpty || decide (used.2 < 8))
      if mine.isNone && !room then .no s
      else
        let rows := ((blockCells d ob).map fun q => (cellAt d ob q).1).dedup
        match s.fetchA bk c rows k0 kn with
        | .denied => .no (s.freezeMatrix bk i c)
        | .wait t => .no t
        | .ok a =>
          let s := (s.dropKept (.engine bk 0)).settle (s.engine bk 0).ctx (.engine bk 0)
          let r := s.tileOn bk c k0 kn a (mine.getD (s.freshSet bk c ob))
          let last := (c.progress + 1) % mqGroups d == 0
          let sets := (c.sets.filter fun x => x.block != ob) ++ [{ r.1 with draining := last }]
          .ran (s.setMatrixCmd bk i { c with progress := c.progress + 1, sets := sets, flags := c.flags ||| r.2 })

/-- Puts a block into a list in ascending order of a distance. -/
def insertNear (d : Nat → Nat) (bk : Nat) : List Nat → List Nat
  | [] => [bk]
  | x :: xs => if d bk < d x then bk :: x :: xs else x :: insertNear d bk xs

/-- Blocks in cyclic order of a number below n, after the last one served. -/
def cyclicOrder (num : Nat → Nat) (n last : Nat) (bks : List Nat) : List Nat :=
  bks.foldl (fun xs bk => insertNear (fun b => (num b + (n - 1) - last) % n) bk xs) []

/-- The blocks of a cluster in cyclic order of queue number after the queue last chosen (R354). -/
def State.tileOrder (s : State) (k : Nat) : List Nat :=
  cyclicOrder matrixQueue 128 (s.cluster k).lastQueue
    ((s.blocks.filter fun p => clusterOf (blockCore p.1) == k).map Prod.fst)

/-- The blocks of a core in cyclic order of block slot after the one last served (R462). -/
def State.slotOrder (s : State) (core last : Nat) : List Nat :=
  cyclicOrder (fun b => b % 32) 32 last ((s.coreBlocks core).map Prod.fst)

/-- The first ready tile of an order of blocks. -/
def State.firstTile (s : State) (k : Nat) : List Nat → State
  | [] => s
  | bk :: bs =>
    match s.tryTile bk with
    | .ran t => t.setCluster k { t.cluster k with lastQueue := matrixQueue bk }
    | .no t => t.firstTile k bs

/-- The writeback buffers of a cluster's unit in use. -/
def State.buffersUsed (s : State) (k : Nat) : Nat :=
  s.blocks.foldl (fun n p =>
    if clusterOf (blockCore p.1) = k then p.2.matrixQ.foldl (fun n c => n + c.buffers.length) n else n) 0

/-- The drained sets of a block's command moved to writeback buffers, as far as the unit has them free; a set that has moved
is free (R353, R358). -/
def State.moveSet (s : State) (bk : Nat) : State :=
  match servedCmd (s.block bk).matrixQ with
  | none => s
  | some (i, c) =>
    let ds := (c.sets.filter AccSet.draining).take (8 - s.buffersUsed (clusterOf (blockCore bk)))
    if ds.isEmpty then s
    else s.setMatrixCmd bk i { c with sets := c.sets.filter fun x => !ds.contains x, buffers := c.buffers ++ ds }

/-- The drained sets of a cluster moved to the unit's 8 writeback buffers, in the order of R354 (R358). -/
def State.moveSets (s : State) (k : Nat) : State := (s.tileOrder k).foldl State.moveSet s

/-- MATRIX_COMMAND_START (R351). -/
def execMatrixCommandStart (b : Nat) (s : State) : Res := .next (s.startMatrix b)

/-- MATRIX_TILE (R354): a tile, and then the move of drained sets to writeback buffers (R358). -/
def execMatrixTile (cl : Nat) (s : State) : Res := .next ((s.firstTile cl (s.tileOrder cl)).moveSets cl)

/-- An output block written back from the command's oldest writeback buffer: D's rows, and the buffer free (R353, R358). -/
def State.writeback (s : State) (bk : Nat) : State :=
  match servedCmd (s.block bk).matrixQ with
  | none => s
  | some (i, c) =>
    match c.buffers with
    | [] => s
    | set :: rest =>
      let d := c.desc
      let t := match s.sram bk (mqD d) (mqDBytes d) with
        | .ok b off =>
          s.setBank b (set.vals.foldl (fun m (q : Nat × Word) =>
            let p := cellAt d set.block q.1
            m.write (off + 4 * (p.1 * mqDld d + p.2)) 4 q.2.toNat) (s.bank b))
        | _ => s
      t.setMatrixCmd bk i { c with buffers := rest }

/-- OUTPUT_BLOCK_WRITEBACK (R358): a buffer falls free, and a drained set that waits for one moves to it. -/
def execOutputBlockWriteback (b : Nat) (s : State) : Res := .next ((s.writeback b).moveSets (clusterOf (blockCore b)))

/-- A matrix command gone from its queue and from the acceptance order. -/
def State.popMatrix (s : State) (bk i : Nat) (c : Cmd) : State :=
  let b := s.block bk
  let s := s.setBlock bk { b with matrixQ := b.matrixQ.eraseIdx i }
  if !c.accepted then s
  else
    let k := clusterOf (blockCore bk)
    let u := s.cluster k
    s.setCluster k { u with order := u.order.erase bk }

/-- Has an MMAQ done all its tiles and written them back? -/
def mqFinished (c : Cmd) : Bool :=
  c.kind == .mmaq && c.started && decide (mqTiles c.desc ≤ c.progress) && c.sets.isEmpty && c.buffers.isEmpty && c.parked.isEmpty

/-- Has a WBLOAD its bytes? -/
def wbFinished (c : Cmd) : Bool := c.kind == .wbload && c.started && c.progress != 0

/-- The completion of an MMAQ (R90, R217). Its writes are in core SRAM; every remote write that happens before it was
acknowledged before it issued (R426). -/
def State.finishMmaq (s : State) (bk : Nat) : State :=
  match doneCmd true (s.block bk).matrixQ mqFinished with
  | none => s
  | some (i, c) =>
    if c.kind != .mmaq then s
    else
      let t := (s.popMatrix bk i c).complete bk (mqCompl c.desc) (c.refused.getD 0) c.rel c.scope
      (t.giveFlags c.warp (if c.refused.isNone then c.flags else 0)).closeBlock bk

/-- MMAQ_COMPLETION (R217). -/
def execMmaqCompletion (b : Nat) (s : State) : Res := .next (s.finishMmaq b)

/-- The slots of a cluster after a load of `n` bytes into slot k: slots whose bytes it overlaps fall (R230). -/
def Cluster.overlapped (u : Cluster) (k off n : Nat) : Cluster :=
  { u with slots := Vector.ofFn fun (j : Fin 16) =>
      let w := u.slots[j]
      if j.val != k && w.valid && bytesMeet w.wboff w.bytes off n then { w with valid := false } else w }

/-- The completion of a WBLOAD: its bytes in the buffer and its slot valid, or its slot invalid (R230, R355). -/
def State.finishWbload (s : State) (bk : Nat) : State :=
  match doneCmd true (s.block bk).matrixQ wbFinished with
  | none => s
  | some (i, c) =>
    if c.kind != .wbload then s
    else
      let d := c.desc
      let k := clusterOf (blockCore bk)
      let u := s.cluster k
      let old := u.slot (wbSlot d)
      let n := c.shape.length
      let u := if c.refused.isSome then u.setSlot (wbSlot d) { old with valid := false }
        else
          let v := u.overlapped (wbSlot d) (wbOff d) n
          { v with wb := v.wb.putBytes (wbOff d) c.shape }.setSlot (wbSlot d)
            ⟨true, wbOff d, wbN d, wbK d, wbFmt d, wbForm d, wbSc d, n, (s.launch (s.block bk).launch).ctx⟩
      (((s.setCluster k u).popMatrix bk i c).complete bk (wbCompl d) (c.refused.getD 0) c.rel c.scope).closeBlock bk

/-- WBLOAD_COMPLETION (R230). -/
def execWbloadCompletion (b : Nat) (s : State) : Res := .next (s.finishWbload b)

/-- MMAQ (R224, R225). In proof mode its step goes on until it has completed: no warp of the launch issues before
(State.stepOver, R343, R361). -/
def execMmaq (g : Guard) (a : Src) (off : Word) (s : State) : Res :=
  let bk := s.me.blk
  s.command g 0x1E0 matrixRole a off 64 (s.queueRoom s.myBlock.matrixQ) fun t d =>
    let r := if mqAkind d then s.me.breg (mqA d % 16) else 0
    let shape := if mqConv d then leBytes 32 (s.sramNat bk (mqConvrec d) 32) else []
    let status := if s.mqBad bk d shape r then some 1 else if s.mqOut bk d shape r then some 2 else none
    let o := mqOrd d
    let c := { Cmd.fresh .mmaq d r s.cur.slot (s.wset g).lowest.val (bitOf o 0) (bitOf o 1) (scopeOf (bitsOf o 4 2)) status
      with shape := shape }
    .next (if s.complOk bk (mqCompl d) then ((t.acquireAll s.myCore c.acq c.scope).queueMatrix bk c).advance else t.advance)

/-- The BADDESC list of a WBLOAD (R228, R229). -/
def wbBad (d : List Byte) (r : Record) : Bool :=
  let f := wbFmt d
  let k := wbK d
  let sparse := f == 1 || f == 2 || mmFp8 f || mmInt f
  wbSrc d % 16 != 0 || wbColstr d % 16 != 0 || decide (k = 0) || decide (65536 < k) || decide (wbN d = 0) ||
    decide (4096 < wbN d) || decide (7 < f) || decide (7 < field d 0x13 1) || decide (15 < field d 0x14 1) ||
    field d 0x15 3 != 0 || wbOff d % 4096 != 0 || recReserved r ||
    (match wbForm d with
      | 0 => f == 5 || (wbScFlag d && !mmFp8 f)
      | 1 => !sparse || k % 4 != 0 || wbScFlag d
      | 2 => !sparse || k % 32 != 0 || wbScFlag d
      | _ => f != 5 || k % 2 != 0 || wbScFlag d)

/-- The size that a WBLOAD takes in the buffer, where its form alone gives it (R229). -/
def wbFixedSize (d : List Byte) : Nat := if wbForm d = 2 then 0 else wbN d * roundUp (wbShape d).fixedBytes 16

/-- WBLOAD (R228, R229): BADDESC before BOUNDS before WBFULL (log entry 95). -/
def execWbload (g : Guard) (acq rel : Bool) (sc : Scope) (a : Src) (off : Word) (br : Nat) (s : State) : Res :=
  let bk := s.me.blk
  let r := s.me.breg br
  s.command g 0x1E1 matrixRole a off 32 (s.queueRoom s.myBlock.matrixQ) fun t d =>
    let out := wbForm d != 2 && (List.range (wbN d)).any fun n => recOut r (wbSrc d + n * wbColstr d) (wbShape d).fixedBytes
    let status := if wbBad d r then some 1 else if out then some 2
      else if (s.cluster (clusterOf s.myCore)).wbEnd < wbOff d + wbFixedSize d then some 4 else none
    let c := Cmd.fresh .wbload d r s.cur.slot (s.wset g).lowest.val acq rel sc status
    .next (if s.complOk bk (wbCompl d) then ((t.acquireAll s.myCore acq sc).queueMatrix bk c).advance else t.advance)

/-! ### The copy engine (R231, R462) -/

def cpMem (d : List Byte) : Nat := field d 0x00 8
def cpSram (d : List Byte) : Nat := field d 0x08 4
def cpLen (d : List Byte) : Nat := field d 0x0C 4
def cpRows (d : List Byte) : Nat := field d 0x10 2
def cpDir (d : List Byte) : Nat := field d 0x12 1
def cpMemPitch (d : List Byte) : Nat := field d 0x14 4
def cpSramPitch (d : List Byte) : Nat := field d 0x18 4
def cpCompl (d : List Byte) : Nat := field d 0x1C 4

/-- Bytes from the first of a strided range to its last. -/
def cpSpan (d : List Byte) (pitch : Nat) : Nat := (cpRows d - 1) * pitch + cpLen d

/-- The source range of a copy from core SRAM to core SRAM, and the range at SRAMADDR. -/
def State.cpSource (s : State) (bk : Nat) (d : List Byte) : Option (Bank × Nat × Nat) :=
  s.span bk (cpMem d) (cpSpan d (cpMemPitch d))
def State.cpNear (s : State) (bk : Nat) (d : List Byte) : Option (Bank × Nat × Nat) :=
  s.span bk (cpSram d) (cpSpan d (cpSramPitch d))

/-- The BADDESC list of a CPQ (R231). -/
def State.cpBad (s : State) (bk : Nat) (d : List Byte) (r : Record) : Bool :=
  cpMem d % 16 != 0 || cpSram d % 16 != 0 || cpLen d % 16 != 0 || decide (cpLen d < 16) || decide (1572864 < cpLen d) ||
    decide (cpRows d = 0) || decide (2 < cpDir d) || field d 0x13 1 != 0 || cpMemPitch d % 16 != 0 ||
    cpSramPitch d % 16 != 0 ||
    (if cpDir d = 2 then
      decide (2 ^ 32 ≤ cpMem d) || s.rangesMeet bk (cpMem d) (cpSpan d (cpMemPitch d)) (cpSram d) (cpSpan d (cpSramPitch d))
     else recReserved r || recSwz r != 0)

/-- The BOUNDS list of a CPQ (R217, R231). -/
def State.cpOut (s : State) (bk : Nat) (d : List Byte) (r : Record) : Bool :=
  (s.cpNear bk d).isNone ||
    (if cpDir d = 2 then (s.cpSource bk d).isNone
     else (List.range (cpRows d)).any fun i => recOut r (cpMem d + i * cpMemPitch d) (cpLen d))

/-- What a row of a copy out to memory writes: address, and the bytes that lie within the record. -/
def cpWrite (d : List Byte) (r : Record) (n : Nat) (bs : List Byte) : Nat × List Byte :=
  let o := cpMem d + n * cpMemPitch d
  ((recBase r + o) % 2 ^ 57, bs.take (recExtent r * recStep r - o))

/-- A row of core SRAM that a copy reads, in a strided range. -/
def State.cpRow (s : State) (at' : Option (Bank × Nat × Nat)) (o n : Nat) : List Byte :=
  match at' with
  | some (b, off, _) => (s.bank b).bytes (off + o) n
  | none => []

/-- A row of a copy put into core SRAM. -/
def State.cpPut (s : State) (bk : Nat) (d : List Byte) (n : Nat) (bs : List Byte) : State :=
  match s.cpNear bk d with
  | some (b, off, _) => s.setBank b ((s.bank b).putBytes (off + n * cpSramPitch d) bs)
  | none => s

/-- The head command of a copy queue changed. -/
def State.setCopyCmd (s : State) (bk i : Nat) (c : Cmd) : State :=
  let b := s.block bk
  s.setBlock bk { b with copyQ := b.copyQ.set i c }

/-- Writes to memory made together once every page translates: the state, a wait, or a refusal. -/
def State.deliverAll (s : State) (p : Party) (ws : List (Nat × List Byte)) : Put :=
  let walks := ws.map fun w => s.rangeWalk p.ctx .write w.1 w.2.length
  if walks.contains .denied then .denied
  else
    let t := walks.foldl (fun s w => match w with
      | .fault a r => s.faultOnce p true a r
      | _ => s) s
    if (walks.all fun w => (match w with
        | .ok _ => true
        | _ => false)) && !ws.any fun w => s.waitsOn p.ctx p.who w.1 w.2.length then
      .ok ((walks.zip ws).foldl (fun s q => match q.1 with
        | .ok ps => s.putPieces p ps q.2.2
        | _ => s) s)
    else .wait t

/-- The lines that writes to memory reach. -/
def State.writeLines (s : State) (ctx : Nat) (ws : List (Nat × List Byte)) : List Nat :=
  ws.flatMap fun w => match s.rangeWalk ctx .write w.1 w.2.length with
    | .ok ps => pieceLines ps
    | _ => []

/-- A kill by an engine of a block: VERSIONFULL and ECC have no trapping run. -/
def State.engineKill (s : State) (bk code detail : Nat) : State := s.kill bk (Killing.bare code detail)

/-- The next row of a copy command moved (R231, R462). -/
def State.copyRow (s : State) (bk i : Nat) (c : Cmd) : TileTry :=
  let d := c.desc
  let n := c.progress
  let p := s.engine bk 1
  let done (t : State) : TileTry :=
    .ran (((t.dropKept p.who).settle p.ctx p.who).setCopyCmd bk i { c with started := true, progress := n + 1 })
  let denied : TileTry := .no ((s.setCopyCmd bk i { c with started := true, frozen := true }).freeze (s.channel bk))
  match cpDir d with
  | 0 =>
    match s.recFetch p c.brec (cpMem d + n * cpMemPitch d) (cpLen d) with
    | .ok bs => done (s.cpPut bk d n bs)
    | .wait t => .no t
    | .denied => denied
  | 1 =>
    let w := cpWrite d c.brec n (s.cpRow (s.cpNear bk d) (n * cpSramPitch d) (cpLen d))
    if s.versionFull bk (s.writeLines p.ctx [w]) then
      .ran (s.engineKill bk 0x0F (s.launch (s.block bk).launch).vbud)
    else
      match s.deliver p .write w.1 w.2 with
      | .ok t => done t
      | .wait t => .no t
      | .denied => denied
  | _ => done (s.cpPut bk d n (s.cpRow (s.cpSource bk d) (n * cpMemPitch d) (cpLen d)))

/-- The copy that a block's queue runs, if its next row may move: one command of a queue at a time (R462). -/
def State.runningCopy (s : State) (bk : Nat) : Option (Nat × Cmd) :=
  (servedCmd (s.block bk).copyQ).filter fun q =>
    !(q.2.frozen || ((s.block bk).saving && !q.2.started) || decide (cpRows q.2.desc ≤ q.2.progress))

/-- The first row that can move, of the copies of an order of blocks (R462). -/
def State.firstRow (s : State) (core : Nat) : List Nat → State
  | [] => s
  | bk :: bks =>
    match s.runningCopy bk with
    | none => s.firstRow core bks
    | some (i, c) =>
      match s.copyRow bk i c with
      | .ran t => t.setCore core { t.core core with lastCopy := bk % 32 }
      | .no t => t.firstRow core bks

/-- Are the segments that a block attached resident on its core? -/
def State.attachedHere (s : State) (bk : Nat) : Bool :=
  (s.block bk).attached.all fun k => (Map.find s.segs k).any fun g => g.st == .resident && g.loc == blockCore bk

/-- Are input tiles of a block to be copied now: it starts, and no read of theirs waits? Their copies take precedence over
commands; a save's and a restore's take one step, between which no row moves (R462). -/
def State.tilesFirst (s : State) (core : Nat) : Bool :=
  (s.coreBlocks core).any fun p => p.2.phase == .starting && (s.launch p.2.launch).nin != 0 && s.attachedHere p.1 &&
    !(s.ctx (s.launch p.2.launch).ctx).faults.any (fun f => f.who == .input p.1) &&
    !s.ext.any fun r => r.who == .input p.1 && r.data.isNone

/-- COPY_COMMAND_START (R462): the copy engine of the block's core moves one row, of the first command in cyclic order of
block slot that can move one; a command starts with its first row. -/
def execCopyCommandStart (b : Nat) (s : State) : Res :=
  let core := blockCore b
  .next (if s.tilesFirst core then s else s.firstRow core (s.slotOrder core (s.core core).lastCopy))

/-- Has a copy moved all its rows? -/
def cpFinished (c : Cmd) : Bool := c.started && decide (cpRows c.desc ≤ c.progress)

/-- The completion of a CPQ (R217, R231). -/
def State.finishCopy (s : State) (bk : Nat) : State :=
  match doneCmd (s.engineAcked bk 1) (s.block bk).copyQ cpFinished with
  | none => s
  | some (i, c) =>
    let b := s.block bk
    ((s.setBlock bk { b with copyQ := b.copyQ.eraseIdx i }).complete bk (cpCompl c.desc) (c.refused.getD 0) c.rel
      c.scope).closeBlock bk

/-- CPQ_COMPLETION (R231). -/
def execCpqCompletion (b : Nat) (s : State) : Res := .next (s.finishCopy b)

/-- Roles that may queue copies (R214). -/
def feedRole (r : Role) : Bool := r == .any || r == .feed

/-- CPQ (R231): BADDESC before BOUNDS (log entry 95). -/
def execCpq (g : Guard) (acq rel : Bool) (sc : Scope) (a : Src) (off : Word) (br : Nat) (s : State) : Res :=
  let bk := s.me.blk
  let r := s.me.breg br
  s.command g 0x1E2 feedRole a off 32 (s.queueRoom s.myBlock.copyQ) fun t d =>
    let status := if s.cpBad bk d r then some 1 else if s.cpOut bk d r then some 2 else none
    let c := Cmd.fresh .cpq d r s.cur.slot (s.wset g).lowest.val acq rel sc status
    if !s.complOk bk (cpCompl d) then .next t.advance
    else
      let b := t.block bk
      .next ((t.acquireAll s.myCore acq sc).setBlock bk { b with copyQ := b.copyQ ++ [c] }).advance

end Sys2Proof.Machine
end

