-- ==== Sys2Proof/Machine/Field.lean ====
section
/-! DEFINITION. The field bytecode: pairs, forms and the rules of every field operation (R254 to R262), PRUNE (R264 to
R267), and the operations of an evaluation on the stack and the frames (R249 to R251). -/

namespace Sys2Proof.Machine

/-! ### Bounds as extended reals -/

/-- A pair of FP32 bounds (R78). -/
structure Bounds where
  lo : Word
  hi : Word
  deriving DecidableEq, Repr

/-- The pair (−∞, +∞). -/
def Bounds.all : Bounds := ⟨0xFF800000, 0x7F800000⟩

/-- The point pair of a value. -/
def Bounds.point (k : Word) : Bounds := ⟨k, k⟩

/-- The bounds as values. -/
def Bounds.l (p : Bounds) : Val := valF p.lo
def Bounds.h (p : Bounds) : Val := valF p.hi

/-- Exact order of extended reals. -/
def leV (a b : Val) : Bool := decide (a.compare b ≤ 0)
def ltV (a b : Val) : Bool := decide (a.compare b < 0)

/-- Is a pair degenerate? (R78) -/
def Bounds.degenerate (p : Bounds) : Bool :=
  p.l.isNan || p.h.isNan || ltV p.h p.l || p.l == .inf false || p.h == .inf true

/-- A degenerate pair is stored and read as (−∞, +∞) (R78, R254). -/
def Bounds.norm (p : Bounds) : Bounds := if p.degenerate then .all else p

/-- Sum of extended reals that are not infinities of both signs. An exact zero is +0 here and below: the manual names no sign
for a bound that is zero (log entry 25). -/
def exAdd (a b : Val) : Val :=
  match a, b with
  | .inf n, _ => .inf n
  | _, .inf n => .inf n
  | a, b => .ofRat false (a.toRat + b.toRat)

/-- Product of extended reals; zero times an infinity is zero (R255, R259). -/
def exMul (a b : Val) : Val :=
  if a.toRat = 0 && a.isFinite then .zero false
  else if b.toRat = 0 && b.isFinite then .zero false
  else if a.isFinite && b.isFinite then .ofRat false (a.toRat * b.toRat)
  else .inf (a.neg != b.neg)

/-- Lesser and greater of extended reals. -/
def exMin (a b : Val) : Val := if leV a b then a else b
def exMax (a b : Val) : Val := if leV a b then b else a

/-- The reciprocal of an extended real that is not zero. -/
def exInv (a : Val) : Val :=
  match a with
  | .num q => .num (1 / q)
  | _ => .zero false

/-- The magnitude. -/
def exAbs (a : Val) : Val := if a.neg then a.negate else a

/-- The enclosing pair of a set with these bounds (R255). -/
def enclosePair (lo hi : Val) : Bounds := ⟨BitVec.ofNat 32 (encloseDown lo), BitVec.ofNat 32 (encloseUp hi)⟩

/-- Exact integer part from below. -/
def exFloor (a : Val) : Val :=
  match a with
  | .num q => .ofRat false (q.floor : Rat)
  | v => v

/-! ### The rules of the operations (R255, R256) -/

/-- The operations of a field program that compute an entry from entries (R249), with their immediates. -/
inductive FieldOp where
  | add | sub | mul | div | min | max
  | smin (k : Word) | smax (k : Word)
  | addc (k : Word) | rsubc (k : Word) | mulc (k : Word)
  | minc (k : Word) | maxc (k : Word)
  | clamp (l h : Word)
  | neg | abs | sqrt | sqr | sin | cos | floor | fract | len2 | len3 | mix
  deriving DecidableEq, Repr

/-- The entries that an operation pops (R249). -/
def FieldOp.arity (op : FieldOp) : Nat :=
  match op with
  | .add => 2
  | .sub => 2
  | .mul => 2
  | .div => 2
  | .min => 2
  | .max => 2
  | .smin _ => 2
  | .smax _ => 2
  | .len2 => 2
  | .len3 => 3
  | .mix => 3
  | _ => 1

/-- What a rule gives: an operand unchanged, a point, or a pair (R256, R260). -/
inductive Chosen where
  | keep (k : Nat)
  | point (k : Word)
  | pair (p : Bounds)
  deriving DecidableEq, Repr

/-- Sum and difference. -/
def sumPair (a b : Bounds) : Bounds := enclosePair (exAdd a.l b.l) (exAdd a.h b.h)
def diffPair (a b : Bounds) : Bounds := enclosePair (exAdd a.l b.h.negate) (exAdd a.h b.l.negate)

/-- The products of four bounds. -/
def cornerPair (al ah bl bh : Val) : Bounds :=
  let p := exMul al bl
  let q := exMul al bh
  let r := exMul ah bl
  let t := exMul ah bh
  enclosePair (exMin (exMin p q) (exMin r t)) (exMax (exMax p q) (exMax r t))

/-- The product. -/
def prodPair (a b : Bounds) : Bounds := cornerPair a.l a.h b.l b.h

/-- The quotient; a divisor that may be zero gives everything (R256). -/
def quotPair (a b : Bounds) : Bounds :=
  let zero : Val := .zero false
  if leV b.l zero && leV zero b.h then .all else cornerPair a.l a.h (exInv b.h) (exInv b.l)

/-- MIN and MAX (R256). Where zeros of both signs tie, the lower bound is the first operand's for MIN and the second's for
MAX, and so is the upper: the manual names neither (log entry 25). -/
def minRule (a b : Bounds) : Chosen :=
  if leV a.h b.l then .keep 0
  else if leV b.h a.l then .keep 1
  else .pair ⟨if leV a.l b.l then a.lo else b.lo, if leV a.h b.h then a.hi else b.hi⟩
def maxRule (a b : Bounds) : Chosen :=
  if leV b.h a.l then .keep 0
  else if leV a.h b.l then .keep 1
  else .pair ⟨if leV a.l b.l then b.lo else a.lo, if leV a.h b.h then b.hi else a.hi⟩

/-- h² / (4k) with h = max(k − |a − b|, 0), for finite a and b (R249). -/
def smoothTerm (k a b : Rat) : Rat :=
  let d := if a < b then b - a else a - b
  let h := if d < k then k - d else 0
  h * h / (4 * k)

/-- smin and smax of extended reals (R249). -/
def sminV (k a b : Val) : Val :=
  if a.isFinite && b.isFinite then .ofRat false ((exMin a b).toRat - smoothTerm k.toRat a.toRat b.toRat) else exMin a b
def smaxV (k a b : Val) : Val :=
  if a.isFinite && b.isFinite then .ofRat false ((exMax a b).toRat + smoothTerm k.toRat a.toRat b.toRat) else exMax a b

/-- SMIN and SMAX (R256). -/
def sminRule (k : Val) (a b : Bounds) : Chosen :=
  if leV (exAdd a.h k) b.l then .keep 0
  else if leV (exAdd b.h k) a.l then .keep 1
  else .pair (enclosePair (sminV k a.l b.l) (sminV k a.h b.h))
def smaxRule (k : Val) (a b : Bounds) : Chosen :=
  if leV b.h (exAdd a.l k.negate) then .keep 0
  else if leV a.h (exAdd b.l k.negate) then .keep 1
  else .pair (enclosePair (smaxV k a.l b.l) (smaxV k a.h b.h))

/-- MINC, MAXC and CLAMP (R256). -/
def mincRule (k : Word) (a : Bounds) : Chosen :=
  if leV a.h (valF k) then .keep 0 else if leV (valF k) a.l then .point k else .pair ⟨a.lo, k⟩
def maxcRule (k : Word) (a : Bounds) : Chosen :=
  if leV (valF k) a.l then .keep 0 else if leV a.h (valF k) then .point k else .pair ⟨k, a.hi⟩
def clampRule (l h : Word) (a : Bounds) : Chosen :=
  if leV (valF l) a.l && leV a.h (valF h) then .keep 0
  else if leV a.h (valF l) then .point l
  else if leV (valF h) a.l then .point h
  else .pair ⟨if leV a.l (valF l) then l else a.lo, if leV a.h (valF h) then a.hi else h⟩

/-- The bounds of the magnitudes in a pair. -/
def absBounds (a : Bounds) : Val × Val :=
  let zero : Val := .zero false
  let x := exAbs a.l
  let y := exAbs a.h
  if leV a.l zero && leV zero a.h then (zero, exMax x y) else (exMin x y, exMax x y)

/-- Square of an extended real. -/
def exSqr (a : Val) : Val := exMul a a

/-- The square root of an extended real that is not negative, as a value that encloses alike (R149). -/
def exSqrt (a : Val) : Val :=
  match a with
  | .num q => .num (sqrtSticky q)
  | .inf n => .inf n
  | _ => .zero false

/-- SQRT (R256): a pair below zero gives everything, as the table of R256 has it, though the containment that R256 and R269
promise would allow less than that of a greater pair (log entry 25). -/
def sqrtPair (a : Bounds) : Bounds :=
  if ltV a.h (.zero false) then .all else enclosePair (exSqrt (exMax a.l (.zero false))) (exSqrt a.h)

/-- LEN2 and LEN3: the length of a vector of pairs (R255). -/
def lengthPair (ps : List Bounds) : Bounds :=
  let s := ps.foldl (fun (s : Val × Val) p =>
    let m := absBounds p
    (exAdd s.1 (exSqr m.1), exAdd s.2 (exSqr m.2))) (.zero false, .zero false)
  enclosePair (exSqrt s.1) (exSqrt s.2)

/-- The FP32 pattern stepped up or down by one value. -/
def stepUp (x : Nat) : Nat :=
  if x = 0x80000000 || x = 0 then 1 else if 0x80000000 < x then x - 1 else x + 1
def stepDown (x : Nat) : Nat :=
  if x = 0x80000000 || x = 0 then 0x80000001 else if 0x80000000 < x then x + 1 else x - 1

/-- Does [lo, hi] hold a point c + 2πn, where c is a number of quarter turns? -/
def holdsTurn (c : Int) (lo hi : Rat) : Bool :=
  let u (x : Rat) : Rat := (x * 2 / piLo - c) / 4
  decide (((u lo).ceil : Rat) ≤ u hi)

/-- SIN, or COS (R256). -/
def trigPair (cosine : Bool) (a : Bounds) : Bounds :=
  let one : Word := 0x3F800000
  let minusOne : Word := 0xBF800000
  if !a.l.isFinite || !a.h.isFinite then ⟨minusOne, one⟩
  else
    let x := a.l.toRat
    let y := a.h.toRat
    let ex := if cosine then cosEnc x else sinEnc x
    let ey := if cosine then cosEnc y else sinEnc y
    let top : Int := if cosine then 0 else 1
    let lo : Nat := if holdsTurn (top + 2) x y then minusOne.toNat
      else encloseDown (.ofRat false (if ex.lo < ey.lo then ex.lo else ey.lo))
    let hi : Nat := if holdsTurn top x y then one.toNat
      else encloseUp (.ofRat false (if ex.hi < ey.hi then ey.hi else ex.hi))
    let l := BitVec.ofNat 32 (stepDown (stepDown lo))
    let h := BitVec.ofNat 32 (stepUp (stepUp hi))
    ⟨if ltV (valF l) (valF minusOne) then minusOne else l, if ltV (valF one) (valF h) then one else h⟩

/-- FRACT (R256): the floors compare as numbers, −0 equal to +0. -/
def fractPair (a : Bounds) : Bounds :=
  let n := exFloor a.l
  if !a.l.isFinite || !a.h.isFinite || n.toRat != (exFloor a.h).toRat then ⟨0, 0x3F800000⟩
  else enclosePair (exAdd a.l n.negate) (exAdd a.h n.negate)

/-- A bound as a polynomial in an unbounded size M: constant part and factor of M. -/
def exPoly (a : Val) : Rat × Rat :=
  match a with
  | .inf n => (0, if n then -1 else 1)
  | v => (v.toRat, 0)

/-- a + (b − a) t at bounds, for a size M that grows without end (R255). -/
def mixCorner (a b t : Val) : Val :=
  let x := exPoly a
  let y := exPoly b
  let z := exPoly t
  let c0 := x.1 + (y.1 - x.1) * z.1
  let c1 := x.2 + (y.1 - x.1) * z.2 + (y.2 - x.2) * z.1
  let c2 := (y.2 - x.2) * z.2
  if c2 != 0 then .inf (decide (c2 < 0)) else if c1 != 0 then .inf (decide (c1 < 0)) else .ofRat false c0

/-- MIX (R255): linear in each operand, so that its extremes lie at corners. -/
def mixPair (a b t : Bounds) : Bounds :=
  let vs := [a.l, a.h].flatMap fun x => [b.l, b.h].flatMap fun y => [t.l, t.h].map fun z => mixCorner x y z
  enclosePair (vs.foldl exMin (.inf false)) (vs.foldl exMax (.inf true))

/-- The interval rule of an operation on the pairs of its operands, in the order of R249 (R255, R256). -/
def FieldOp.rule (op : FieldOp) (ps : List Bounds) : Chosen :=
  let p (i : Nat) : Bounds := (ps[i]?).getD .all
  let a := p 0
  let b := p 1
  match op with
  | .add => .pair (sumPair a b)
  | .sub => .pair (diffPair a b)
  | .mul => .pair (prodPair a b)
  | .div => .pair (quotPair a b)
  | .min => minRule a b
  | .max => maxRule a b
  | .smin k => sminRule (valF k) a b
  | .smax k => smaxRule (valF k) a b
  | .addc k => .pair (sumPair a (.point k))
  | .rsubc k => .pair (diffPair (.point k) a)
  | .mulc k => .pair (prodPair a (.point k))
  | .minc k => mincRule k a
  | .maxc k => maxcRule k a
  | .clamp l h => clampRule l h a
  | .neg => .pair (enclosePair a.h.negate a.l.negate)
  | .abs => .pair (enclosePair (absBounds a).1 (absBounds a).2)
  | .sqrt => .pair (sqrtPair a)
  | .sqr => .pair (enclosePair (exSqr (absBounds a).1) (exSqr (absBounds a).2))
  | .sin => .pair (trigPair false a)
  | .cos => .pair (trigPair true a)
  | .floor => .pair (enclosePair (exFloor a.l) (exFloor a.h))
  | .fract => .pair (fractPair a)
  | .len2 => .pair (lengthPair [a, b])
  | .len3 => .pair (lengthPair [a, b, p 2])
  | .mix => .pair (mixPair a b (p 2))

/-- The pair that a rule gives. -/
def Chosen.bounds (c : Chosen) (ps : List Bounds) : Bounds :=
  match c with
  | .keep k => (ps[k]?).getD .all
  | .point k => .point k
  | .pair p => p.norm

/-! ### Entries: pairs and forms (R254, R257 to R260) -/

/-- The form (0, 0, +∞) (R254). -/
def Form.none : Form := ⟨0, 0, 0x7F800000⟩

/-- A degenerate form is stored as (0, 0, +∞) (R79, R254). -/
def Form.norm (f : Form) : Form :=
  if !(valF f.c).isFinite || !(valF f.a).isFinite || (valF f.e).isNan || ltV (valF f.e) (.zero false) then .none else f

/-- The pair of a form (R79). -/
def Form.bounds (f : Form) : Bounds :=
  let g := f.norm
  let c := (valF g.c).toRat
  let r := exAdd (exAbs (valF g.a)) (valF g.e)
  enclosePair (exAdd (.ofRat false c) r.negate) (exAdd (.ofRat false c) r)

/-- The form of a pair (R258). -/
def Bounds.form (p : Bounds) : Form :=
  if !p.l.isFinite || !p.h.isFinite then .none
  else
    let lo := p.l.toRat
    let hi := p.h.toRat
    let c := rneBits ((lo + hi) / 2)
    let x := (fp32.decode c).toRat
    let r := if x - lo < hi - x then hi - x else x - lo
    Form.norm ⟨BitVec.ofNat 32 c, 0, BitVec.ofNat 32 (encloseUp (.ofRat false r))⟩

/-- The pair of an entry. -/
def Entry.bounds (e : Entry) : Bounds := ⟨e.lo, e.hi⟩

/-- An entry normalised (R254). -/
def Entry.make (p : Bounds) (f : Option Form) : Entry := ⟨p.norm.lo, p.norm.hi, f.map Form.norm⟩

/-- The effective enclosure (R258). Where zeros of both signs tie, the lower bound is the form's and the upper the companion's
(log entry 25). -/
def Entry.effective (e : Entry) : Bounds :=
  match e.form with
  | Option.none => e.bounds
  | some f =>
    let q := f.bounds
    let p := e.bounds
    let m : Bounds := ⟨if leV p.l q.l then q.lo else p.lo, if leV p.h q.h then p.hi else q.hi⟩
    if ltV m.h m.l then p else m

/-- A form from its exact parts (R259). -/
def Form.exact (c a : Rat) (e : Val) : Form :=
  let cb := rneBits c
  let ab := rneBits a
  let dist (x : Rat) (b : Nat) : Val :=
    if (fp32.decode b).isFinite then exAbs (.ofRat false ((fp32.decode b).toRat - x)) else .inf false
  Form.norm ⟨BitVec.ofNat 32 cb, BitVec.ofNat 32 ab,
    BitVec.ofNat 32 (encloseUp (exAdd e (exAdd (dist c cb) (dist a ab))))⟩

/-- The form of a product (R259). -/
def Form.times (f g : Form) : Form :=
  let c1 := (valF f.c).toRat
  let a1 := (valF f.a).toRat
  let e1 := valF f.e
  let c2 := (valF g.c).toRat
  let a2 := (valF g.a).toRat
  let e2 := valF g.e
  let mag (x : Rat) : Rat := if x < 0 then -x else x
  Form.exact (c1 * c2) (c1 * a2 + c2 * a1)
    (exAdd (exAdd (.ofRat false (mag (a1 * a2))) (exMul (.ofRat false (mag c1 + mag a1)) e2))
      (exAdd (exMul (.ofRat false (mag c2 + mag a2)) e1) (exMul e1 e2)))

/-- The form that R259 gives an operation; nothing for the operations of R260. -/
def FieldOp.linear (op : FieldOp) (fs : List Form) : Option Form :=
  let f := (fs[0]?).getD .none
  let g := (fs[1]?).getD .none
  let c (x : Form) : Rat := (valF x.c).toRat
  let a (x : Form) : Rat := (valF x.a).toRat
  match op with
  | .add => some (.exact (c f + c g) (a f + a g) (exAdd (valF f.e) (valF g.e)))
  | .sub => some (.exact (c f - c g) (a f - a g) (exAdd (valF f.e) (valF g.e)))
  | .neg => some (.exact (-c f) (-a f) (valF f.e))
  | .addc k => some (.exact (c f + (valF k).toRat) (a f) (valF f.e))
  | .rsubc k => some (.exact ((valF k).toRat - c f) (-a f) (valF f.e))
  | .mulc k =>
    some (.exact (c f * (valF k).toRat) (a f * (valF k).toRat) (exMul (exAbs (valF k)) (valF f.e)))
  | .mul => some (f.times g)
  | .sqr => some (f.times f)
  | _ => Option.none

/-- An operation on entries in a mode (R254 to R260). -/
def FieldOp.apply (op : FieldOp) (m : EvalMode) (es : List Entry) : Entry :=
  let ps := es.map Entry.bounds
  let r := op.rule ps
  if m != .affine then Entry.make (r.bounds ps) Option.none
  else
    match op.linear (es.map fun e => e.form.getD .none) with
    | some f => Entry.make (r.bounds ps) (some f)
    | Option.none =>
      match r with
      | .keep k => (es[k]?).getD (Entry.make .all (some .none))
      | .point k => Entry.make (.point k) (some ⟨k, 0, 0⟩)
      | .pair p =>
        let qs := es.map Entry.effective
        Entry.make p (some ((op.rule qs).bounds qs).form)

/-- The entry of a pair in a mode (R258, R263). -/
def Bounds.entry (p : Bounds) (m : EvalMode) : Entry :=
  Entry.make p (if m == .affine then some p.norm.form else Option.none)

/-- The entry of a constant in a mode (R256, R260). -/
def constEntry (c : Word) (m : EvalMode) : Entry :=
  Entry.make (.point c) (if m == .affine then some ⟨c, 0, 0⟩ else Option.none)

/-- One axis of the frame of an XFORM (R261). -/
def xformAxis (m : EvalMode) (f : Frame) (mat : Vector Word 12) (i : Fin 3) : Entry :=
  let k (j : Nat) : Word := mat[Fin.ofNat 12 (4 * i.val + j)]
  let u := FieldOp.apply (.mulc (k 0)) m [f.x]
  let u := FieldOp.apply .add m [u, FieldOp.apply (.mulc (k 1)) m [f.y]]
  let u := FieldOp.apply .add m [u, FieldOp.apply (.mulc (k 2)) m [f.z]]
  FieldOp.apply (.addc (k 3)) m [u]

/-! ### Bricks (R262) -/

/-- The samples of a pair: lattice points from the clamped lower bound to the clamped upper bound and one more. -/
def latticeOf (lo hi : Val) : List Nat :=
  let j (v : Val) : Nat :=
    match v with
    | .inf n => if n then 0 else 6
    | v => min (max 0 (min 7 v.toRat)).floor.toNat 6
  (List.range (j hi + 2 - j lo)).map fun i => j lo + i

/-- The enclosure of a brick over three pairs (R262). -/
def brickPair (bs : List Byte) (x y z : Bounds) : Bounds :=
  let isPoint (p : Bounds) : Bool := p.l.isFinite && p.l.compare p.h == 0
  if isPoint x && isPoint y && isPoint z then
    match brickValue bs (brickCoord x.lo 0) (brickCoord y.lo 0) (brickCoord z.lo 0) with
    | some v => enclosePair (.ofRat false v) (.ofRat false v)
    | none => .all
  else
    let vs := (latticeOf z.l z.h).flatMap fun k => (latticeOf y.l y.h).flatMap fun j =>
      (latticeOf x.l x.h).map fun i => brickAt bs i j k
    if vs.all Val.isFinite then enclosePair (vs.foldl exMin (.inf false)) (vs.foldl exMax (.inf true)) else .all

/-- The entry of a brick in a mode (R260, R262). -/
def brickEntry (m : EvalMode) (bs : List Byte) (f : Frame) : Entry :=
  let p := brickPair bs f.x.bounds f.y.bounds f.z.bounds
  if m == .affine then
    Entry.make p (some (brickPair bs f.x.effective f.y.effective f.z.effective).norm.form)
  else Entry.make p Option.none

/-! ### PRUNE (R264 to R267) -/

/-- The field operation of a PRUNE with its value operands; nothing where they break its limits (R265). -/
def pruneField (op : PruneOp) (k h : Word) : Option FieldOp :=
  let fin (x : Word) : Bool := (valF x).isFinite
  let pos : Bool := fin k && ltV (.zero false) (valF k)
  match op with
  | .add => some .add
  | .sub => some .sub
  | .mul => some .mul
  | .div => some .div
  | .min => some .min
  | .max => some .max
  | .smin => if pos then some (.smin k) else none
  | .smax => if pos then some (.smax k) else none
  | .addc => if fin k then some (.addc k) else none
  | .rsubc => if fin k then some (.rsubc k) else none
  | .mulc => if fin k then some (.mulc k) else none
  | .minc => if fin k then some (.minc k) else none
  | .maxc => if fin k then some (.maxc k) else none
  | .clamp => if fin k && fin h && leV (valF k) (valF h) then some (.clamp k h) else none
  | .neg => some .neg
  | .abs => some .abs
  | .sqrt => some .sqrt
  | .sqr => some .sqr
  | .sin => some .sin
  | .cos => some .cos
  | .floor => some .floor
  | .fract => some .fract
  | .len2 => some .len2
  | .len3 => some .len3
  | .mix => some .mix

/-- The winner code of two pairs (R266). -/
def winnerCode (op : FieldOp) (a b : Bounds) : Nat :=
  let pick (one two : Bool) : Nat := if one then 1 else if two then 2 else 0
  match op with
  | .min => pick (leV a.h b.l) (ltV b.h a.l)
  | .max => pick (leV b.h a.l) (ltV a.h b.l)
  | .smin k => pick (leV (exAdd a.h (valF k)) b.l) (ltV (exAdd b.h (valF k)) a.l)
  | .smax k => pick (leV b.h (exAdd a.l (valF k).negate)) (ltV a.h (exAdd b.l (valF k).negate))
  | _ => 0

/-- Is a PRUNE a long-latency producer? (R267) -/
def pruneSlow (op : PruneOp) : Bool :=
  op == .sqrt || op == .div || op == .sin || op == .cos || op == .len2 || op == .len3

/-- PRUNE (R264 to R267). -/
def execPrune (g : Guard) (d : Nat) (win : Bool) (op : PruneOp) (a b c : Src) (s : State) : Res :=
  let w := s.me
  let srcs := [a, b, c]
  let np := op.shape.1
  let nv := op.shape.2
  let used := srcs.take (np + nv)
  let pairs := srcs.take np
  let vals := used.drop np
  let us := pairs.flatMap (fun x => x.uses 2) ++ vals.flatMap fun x => x.uses 1
  let scalar := vals.any Src.scalar
  let uni := (pairs.all fun x => (w.srcAt x 0).isU && (w.srcAt x 1).isU) && vals.all fun x => (w.src x).isU
  let bounds (l : Fin 32) : List Bounds :=
    pairs.map fun x => Bounds.norm ⟨(w.srcAt x 0).lane l, (w.srcAt x 1).lane l⟩
  let value (k : Nat) (l : Fin 32) : Word := ((vals[k]?).map fun x => (w.src x).lane l).getD 0
  let result (l : Fin 32) : Bounds :=
    match pruneField op (value 0 l) (value 1 l) with
    | some f => ((f.rule (bounds l)).bounds (bounds l)).norm
    | none => .all
  let code (l : Fin 32) : Word :=
    match pruneField op (value 0 l) (value 1 l) with
    | some f => BitVec.ofNat 32 (winnerCode f ((bounds l).headD .all) (((bounds l)[1]?).getD .all))
    | none => 0
  let store (f : Fin 32 → Word) : Storage := if uni then .u (f 0) else .g (Lanes.of f)
  let regs := if win then [(d, store code)]
    else [(d, store fun l => (result l).lo), (d + 1, store fun l => (result l).hi)]
  let W := s.wset g
  if pruneSlow op then s.produce W scalar us .go regs LaneFlags.zero
  else s.operate W scalar us .go (regs.map Prod.fst) { Effect.nothing with regs := regs }

/-! ### The ray that is evaluated -/

/-- Rays of a block are numbered by the position of their command in the block's queue and their index in it. -/
def rayCmd (r : Nat) : Nat := r / 512
def rayIndex (r : Nat) : Nat := r % 512

/-- The command of a ray. -/
def Block.marchCmd (b : Block) (r : Nat) : Option Cmd := b.marchQ[rayCmd r]?

/-- A ray. -/
def Block.ray (b : Block) (r : Nat) : Option Ray := (b.marchCmd r).bind fun c => Map.find c.rays (rayIndex r)

/-- The block with a ray changed. -/
def Block.setRay (b : Block) (r : Nat) (x : Ray) : Block :=
  match b.marchCmd r with
  | some c => { b with marchQ := b.marchQ.set (rayCmd r) { c with rays := Map.set c.rays (rayIndex r) x } }
  | none => b

/-- +∞ as FP32. -/
def inf32 : Word := 0x7F800000

/-- A ray ends with a status; only a hit keeps its t (R251, R367). -/
def Ray.finish (x : Ray) (status : Nat) : Ray :=
  { x with st := .done, status := status, t := if status = 1 then x.t else inf32, eval := none }

/-- The ray being evaluated changed. -/
def State.setRay (s : State) (x : Ray) : State := s.setBlock s.ray.1 ((s.block s.ray.1).setRay s.ray.2 x)

/-- What an operation leaves of an evaluation: an evaluation, or a status for its ray (R251). -/
inductive Evaluated where
  | to (e : Eval)
  | fault (status : Nat)

/-- The command and the evaluation of the ray whose turn it is, when it may run an operation: it is not in a callable,
and its command neither frozen nor refused (R263, R403). -/
def State.evaluating (s : State) : Option (Cmd × Ray × Eval) :=
  match (s.block s.ray.1).marchCmd s.ray.2, (s.block s.ray.1).ray s.ray.2 with
  | some c, some x =>
    match x.eval with
    | some e => if e.called || c.frozen || c.refused.isSome then none else some (c, x, e)
    | none => none
  | _, _ => none

/-- The faults of the operand stack: an operation reads or pops `reads` entries, pops `pops` and pushes `pushes`
(R251). -/
def stackFault (e : Eval) (reads pops pushes : Nat) : Option Nat :=
  if e.stack.length < reads then some 4
  else if pushes != 0 && decide (32 < e.stack.length - pops + pushes) then some 3
  else none

/-- One operation of the ray whose turn it is: its size, what it reads, pops and pushes, and its effect. A ray that has
nothing to run stays as it is. -/
def State.evaluate (s : State) (size reads pops pushes : Nat) (f : Eval → Evaluated) : Res :=
  match s.evaluating with
  | none => .next s
  | some (_, x, e) =>
    match stackFault e reads pops pushes with
    | some status => .next (s.setRay (x.finish status))
    | none =>
      match f e with
      | .to e' => .next (s.setRay { x with eval := some { e' with pc := e.pc + size } })
      | .fault status => .next (s.setRay (x.finish status))

/-- The size in bytes of an operation with `n` immediates (R248). -/
def opSize (n : Nat) : Nat := 2 + 4 * n

/-- An operation that pops its operands and pushes its result (R249, R255 to R260). -/
def State.fieldOp (s : State) (imms : Nat) (op : FieldOp) : Res :=
  let n := op.arity
  s.evaluate (opSize imms) n n 1 fun e =>
    .to { e with stack := op.apply e.mode (e.stack.take n).reverse :: e.stack.drop n }

/-- An operation that pushes one entry. -/
def State.push (s : State) (imms reads : Nat) (f : Eval → Entry) : Res :=
  s.evaluate (opSize imms) reads 0 1 fun e => .to { e with stack := f e :: e.stack }

/-- An entry at a place below the top. -/
def Eval.at' (e : Eval) (n : Nat) : Entry := (e.stack[n]?).getD ⟨0, 0, none⟩

/-- CONST (R256, R260). -/
def execFbcConst (c : Word) (s : State) : Res := s.push 1 0 fun e => constEntry c e.mode
/-- POS (R256). -/
def execFbcPos (i : Nat) (s : State) : Res :=
  s.push 0 0 fun e => match i with
    | 0 => e.frame.x
    | 1 => e.frame.y
    | _ => e.frame.z
/-- XFORM (R261): FRAMEOVER with 8 frames. -/
def execFbcXform (m : Vector Word 12) (s : State) : Res :=
  s.evaluate (opSize 12) 0 0 0 fun e =>
    if 8 ≤ e.frames.length then .fault 8
    else
      .to { e with
        frames := e.frame :: e.frames
        frame := ⟨xformAxis e.mode e.frame m 0, xformAxis e.mode e.frame m 1, xformAxis e.mode e.frame m 2⟩ }
/-- XPOP (R261): FRAMEUNDER with none. -/
def execFbcXpop (s : State) : Res :=
  s.evaluate (opSize 0) 0 0 0 fun e =>
    match e.frames with
    | [] => .fault 9
    | f :: fs => .to { e with frame := f, frames := fs }
/-- NOP of the field bytecode (R249). -/
def execFbcNop (s : State) : Res := s.evaluate (opSize 0) 0 0 0 fun e => .to e
/-- ADD (R255, R259). -/
def execFbcAdd (s : State) : Res := s.fieldOp 0 .add
/-- SUB (R255, R259). -/
def execFbcSub (s : State) : Res := s.fieldOp 0 .sub
/-- MUL (R255, R259). -/
def execFbcMul (s : State) : Res := s.fieldOp 0 .mul
/-- DIV (R256). -/
def execFbcDiv (s : State) : Res := s.fieldOp 0 .div
/-- MIN (R256). -/
def execFbcMin (s : State) : Res := s.fieldOp 0 .min
/-- MAX (R256). -/
def execFbcMax (s : State) : Res := s.fieldOp 0 .max
/-- SMIN (R256). -/
def execFbcSmin (k : Word) (s : State) : Res := s.fieldOp 1 (.smin k)
/-- SMAX (R256). -/
def execFbcSmax (k : Word) (s : State) : Res := s.fieldOp 1 (.smax k)
/-- ADDC (R255, R259). -/
def execFbcAddc (k : Word) (s : State) : Res := s.fieldOp 1 (.addc k)
/-- RSUBC (R255, R259). -/
def execFbcRsubc (k : Word) (s : State) : Res := s.fieldOp 1 (.rsubc k)
/-- MULC (R255, R259). -/
def execFbcMulc (k : Word) (s : State) : Res := s.fieldOp 1 (.mulc k)
/-- MINC (R256). -/
def execFbcMinc (k : Word) (s : State) : Res := s.fieldOp 1 (.minc k)
/-- MAXC (R256). -/
def execFbcMaxc (k : Word) (s : State) : Res := s.fieldOp 1 (.maxc k)
/-- CLAMP (R256). -/
def execFbcClamp (l h : Word) (s : State) : Res := s.fieldOp 2 (.clamp l h)
/-- NEG (R255, R259). -/
def execFbcNeg (s : State) : Res := s.fieldOp 0 .neg
/-- ABS (R255). -/
def execFbcAbs (s : State) : Res := s.fieldOp 0 .abs
/-- SQRT (R256). -/
def execFbcSqrt (s : State) : Res := s.fieldOp 0 .sqrt
/-- SQR (R255, R259). -/
def execFbcSqr (s : State) : Res := s.fieldOp 0 .sqr
/-- SIN (R256). -/
def execFbcSin (s : State) : Res := s.fieldOp 0 .sin
/-- COS (R256). -/
def execFbcCos (s : State) : Res := s.fieldOp 0 .cos
/-- FLOOR (R255). -/
def execFbcFloor (s : State) : Res := s.fieldOp 0 .floor
/-- FRACT (R256). -/
def execFbcFract (s : State) : Res := s.fieldOp 0 .fract
/-- LEN2 (R255). -/
def execFbcLen2 (s : State) : Res := s.fieldOp 0 .len2
/-- LEN3 (R255). -/
def execFbcLen3 (s : State) : Res := s.fieldOp 0 .len3
/-- MIX (R255). -/
def execFbcMix (s : State) : Res := s.fieldOp 0 .mix
/-- DUP (R249). -/
def execFbcDup (s : State) : Res := s.push 0 1 fun e => e.at' 0
/-- DROP (R249). -/
def execFbcDrop (s : State) : Res := s.evaluate (opSize 0) 1 1 0 fun e => .to { e with stack := e.stack.drop 1 }
/-- SWAP (R249). -/
def execFbcSwap (s : State) : Res :=
  s.evaluate (opSize 0) 2 2 2 fun e => .to { e with stack := e.at' 1 :: e.at' 0 :: e.stack.drop 2 }
/-- OVER (R249). -/
def execFbcOver (s : State) : Res := s.push 0 2 fun e => e.at' 1
/-- ROT (R249): a, b, c with c on top becomes b, c, a. -/
def execFbcRot (s : State) : Res :=
  s.evaluate (opSize 0) 3 3 3 fun e => .to { e with stack := e.at' 2 :: e.at' 0 :: e.at' 1 :: e.stack.drop 3 }
/-- PICK (R249). -/
def execFbcPick (n : Nat) (s : State) : Res := s.push 0 (n + 1) fun e => e.at' n

/-! ### BRICK (R262) -/

/-- The answers kept for a range, and the faults on it, forgotten once a party has read it. -/
def State.settleRange (s : State) (p : Party) (va n : Nat) : State :=
  let c := s.ctx p.ctx
  let mine (f : PendingFault) : Bool := f.who == p.who && decide (va / 128 * 128 ≤ f.line) && decide (f.line < va + n)
  let t := if c.faults.any mine then s.setCtx p.ctx { c with faults := c.faults.filter fun f => !mine f } else s
  match s.rangeWalk p.ctx .read va n with
  | .ok ps =>
    let asked (r : ExtReq) : Bool := r.who == p.who && (r.parts.any fun k => k.reg == keptReg) && ps.any fun q =>
      let at' := s.place q.1.loc
      r.dev == at'.1 && r.addr == at'.2 && r.bytes == q.2
    { t with ext := t.ext.filter fun r => !asked r }
  | _ => t

/-- An access of the marcher refused for permission: the channel of its command is frozen (R403). -/
def State.freezeMarch (s : State) (bk i : Nat) : State :=
  let b := s.block bk
  match b.marchQ[i]? with
  | some c => (s.setBlock bk { b with marchQ := b.marchQ.set i { c with frozen := true } }).freeze (s.channel bk)
  | none => s

/-- A brick through the brick cache of a core (R192, R306). -/
def State.fetchBrick (s : State) (p : Party) (va : Nat) : Got :=
  match (s.core p.core).bricks.find? fun b => b.1 == p.ctx && b.2.1 == va with
  | some b => .ok b.2.2
  | none => s.fetch p va 1024

/-- Does a brick lie in another device's memory? The brick cache keeps none of that (R425). -/
def State.brickFar (s : State) (ctx va : Nat) : Bool :=
  match s.rangeWalk ctx .read va 1024 with
  | .ok ps => remoteRange ps
  | _ => false

/-- BRICK (R262): the header of the program was kept at the start of its command (R247). -/
def execFbcBrick (i : Word) (s : State) : Res :=
  match s.evaluating with
  | none => .next s
  | some (c, x, e) =>
    match stackFault e 0 0 1 with
    | some status => .next (s.setRay (x.finish status))
    | none =>
      if field c.shape 0x04 4 ≤ i.toNat then .next (s.setRay (x.finish 10))
      else
        let va := (field c.shape 0x08 8 + 1024 * i.toNat) % 2 ^ 57
        let p := s.engine s.ray.1 2
        match s.fetchBrick p va with
        | .ok bs =>
          let u := s.settleRange p va 1024
          let t := if s.brickFar p.ctx va then u else u.keepBrick p.core p.ctx va bs
          .next (t.setRay { x with
            eval := some { e with pc := e.pc + opSize 1, stack := brickEntry e.mode bs e.frame :: e.stack } })
        | .wait t => .next t
        | .denied => .next (s.freezeMarch s.ray.1 (rayCmd s.ray.2))

end Sys2Proof.Machine
end

