-- ==== Sys2Proof/Machine/Collator.lean ====
section
/-! DEFINITION. The collator (R22, R66, R67, R236, R237, R338, R339): windows of threads and of rays, CALLS, and the
forming of warps. -/

namespace Sys2Proof.Machine

/-! ### Liveness records (R66, R67) -/

/-- What a liveness record names: registers, and ranges of core SRAM as address and length. -/
structure LiveSet where
  regs : List Nat
  ranges : List (Nat × Nat)
  deriving DecidableEq, Repr

/-- The bytes of a record for a block, as memory holds them now: a wait where they lie in host memory and have not come yet,
a refusal where a page does not translate. The manual names no permission for this read: it needs the one that the code beside
the record is fetched with (log entry 49). -/
def State.codeBytes (s : State) (bk va n : Nat) : Got :=
  let p := s.engine bk 7
  match s.rangeWalk p.ctx .exec (va % 2 ^ 57) n with
  | .ok ps =>
    let got := ps.map fun q => s.pieceBytes p [] q.1 q.2
    if got.all Option.isSome then .ok (got.flatMap fun b => b.getD [])
    else .wait (ps.foldl (fun s q =>
      if isExternal q.1.loc && !q.1.disc then s.askKept p msgRead q.1.loc q.2 0 [] else s) s)
  | _ => .denied

/-- A range of a record keeps R66. -/
def liveRangeOk (r : Nat × Nat) : Bool :=
  (r.1 / 2 ^ 28 == 0 || r.1 / 2 ^ 28 == 3) && r.1 % 16 == 0 && r.2 % 16 == 0 && decide (16 ≤ r.2)

/-- What the read of a record comes to: a set, a malformed record, or a wait for bytes of host memory. -/
inductive Live where
  | ok (x : LiveSet)
  | bad
  | wait (s : State)

/-- The record at an address as it is read for a block; one that cannot be read counts as malformed (R66, R67). One whose
address is no multiple of 8, though its offset is, is malformed too (log entry 95). -/
def State.liveness (s : State) (bk : Nat) (a : VAddr) : Live :=
  if a.toNat % 8 != 0 then .bad
  else
    match s.codeBytes bk a.toNat 72 with
    | .wait t => .wait t
    | .denied => .bad
    | .ok h =>
      let nr := field h 1 1
      if field h 0 1 != 1 || decide (16 < nr) || field h 2 6 != 0 then .bad
      else
        match s.codeBytes bk (a.toNat + 72) (8 * nr) with
        | .wait t => .wait t
        | .denied => .bad
        | .ok rs =>
          let ranges := (List.range nr).map fun i => (field rs (8 * i) 4, field rs (8 * i + 4) 4)
          if ranges.all liveRangeOk then .ok ⟨(List.range 512).filter fun r => bitOf (field h 8 64) r, ranges⟩ else .bad

/-- The record at an address, nothing for a malformed one. -/
def State.liveRecord (s : State) (bk : Nat) (a : VAddr) : Option LiveSet :=
  match s.liveness bk a with
  | .ok x => some x
  | _ => none

/-- Have the records at addresses been read, as far as they lie in host memory? -/
def State.recordsHere (s : State) (bk : Nat) (as : List VAddr) : Bool :=
  as.all fun a => match s.liveness bk a with
    | .wait _ => false
    | _ => true

/-- The records at addresses asked for where they lie in host memory. -/
def State.askRecords (s : State) (bk : Nat) (as : List VAddr) : State :=
  as.foldl (fun s a => match s.liveness bk a with
    | .wait t => t
    | _ => s) s

/-! ### Windows (R338) -/

/-- The keys of a window's members. -/
def Window.keys (w : Window) : List Word := w.threads.map HeldThread.key ++ w.rays.map HeldRay.key

/-- Does a window close by what it holds: 32 members of one key, or in proof mode COLLN threads? (R338) -/
def windowFull (l : Launch) (w : Window) : Bool :=
  if l.proof then decide (max l.colln 1 ≤ w.keys.length) else w.keys.any fun k => decide (32 ≤ w.keys.count k)

/-- A member joins the open window of its target, kept apart by kind, or opens one. -/
def joinWindows (target : VAddr) (rays : List HeldRay) (threads : List HeldThread) : List Window → List Window
  | [] => [⟨target, rays, threads, 0, false⟩]
  | w :: ws =>
    if !w.closed && w.target == target && w.rays.isEmpty == rays.isEmpty then
      { w with rays := w.rays ++ rays, threads := w.threads ++ threads } :: ws
    else w :: joinWindows target rays threads ws

/-- The windows that are full close, once all that join at one time have joined (R338, R447). -/
def closeFull (l : Launch) (ws : List Window) : List Window :=
  ws.map fun (w : Window) => { w with closed := w.closed || windowFull l w }

/-- Every window of a block closed. -/
def Block.closeWindows (b : Block) : Block :=
  { b with collator := b.collator.map fun (w : Window) => { w with closed := true } }

/-- Every window of a block closes when none of its threads is LIVE (R338). -/
def State.closeIdle (s : State) (bk : Nat) : State :=
  if s.anyLive bk then s else s.setBlock bk (s.block bk).closeWindows

/-- COLLATOR_WINDOW_TIMEOUT (R338): 256 cycles after its first member joined. -/
def execCollatorWindowTimeout (b target : Nat) (s : State) : Res :=
  let k := s.block b
  let l := s.launch k.launch
  let due (w : Window) : Bool := !l.proof && !w.closed && w.target.toNat == target && decide (256 ≤ w.age)
  if k.collator.any due then
    .next (s.setBlock b { k with
      collator := k.collator.map fun (w : Window) => if due w then { w with closed := true } else w })
  else .next s

/-! ### CALLS (R236) -/

/-- The address 16 bytes after the executing instruction, as a link. -/
def Cur.link (c : Cur) (n : Nat) : BitVec 55 := addrPc (c.pc + BitVec.ofNat 57 n)

/-- The threads of W HELD at their targets. -/
def Warp.hold (w : Warp) (W : LaneMask) (rec' : VAddr) : Warp :=
  { w with lanes := Vector.ofFn fun l =>
      if W.getLsbD l.val then { w.lanes[l] with st := .held, lrec := rec' } else w.lanes[l] }

/-- The threads of W join their windows, in lane order and as one (R236, R338, R447). -/
def State.joinThreads (s : State) (W : LaneMask) (target : Fin 32 → VAddr) (key : Fin 32 → Word) (rec' : VAddr)
    (slot : Nat) : State :=
  let bk := (s.warp slot).blk
  let b := s.block bk
  s.setBlock bk { b with
    collator := closeFull (s.launch b.launch) ((LaneMask.lanes W).foldl (fun ws i =>
      joinWindows (target i) [] [⟨slot, i.val, target i, key i, rec'⟩] ws) b.collator) }

/-- CALLS (R236): in a launch that does not regroup it is CALLI with the link 16 bytes on. -/
def execCalls (g : Guard) (a b : Src) (off : Word) (s : State) : Res :=
  let W := s.wset g
  let regroup := s.myLaunch.regrp
  let us := a.uses 1 ++ if regroup then b.uses 1 else []
  let scalar := a.scalar || (regroup && b.scalar)
  let gate := ((s.jumpGate g false a).and (s.callGate W)).and
    (if regroup && W != 0 then s.exitGate else .go)
  s.perform scalar us gate fun t =>
    let link := s.cur.link 16
    if !regroup then .next ((t.setMe (t.me.push W ⟨link, false⟩)).jump W (s.regTarget a))
    else
      let rec' := recordAddr s.cur.pc off
      let u := (t.setMe (t.me.push W ⟨link, true⟩)).jump W (s.regTarget a)
      let u := u.setMe (u.me.hold W rec')
      let u := u.joinThreads W (s.regTarget a) (fun l => (s.me.src b).lane l) rec' s.cur.slot
      .next (if W = 0 then u else u.afterExit s.cur.slot)

/-! ### Forming warps (R22, R237, R339, R370) -/

/-- The shape of a moved register over the n threads of the new warp (R22). -/
def formShape (vs : List Word) : Storage :=
  let x (i : Nat) : Word := (vs[i]?).getD 0
  let d := x 1 - x 0
  if vs.all fun v => v == x 0 then .u (x 0)
  else if (List.range (vs.length - 1)).all fun i => x (i + 1) - x i == d then .a (x 0) d
  else .g (Lanes.of fun l => x l.val)

/-- A predicate register over the n threads of the new warp (R22). -/
def formPred (bs : List Bool) : PReg :=
  if bs.all fun b => b then ⟨LaneMask.all, true⟩
  else if bs.all fun b => !b then ⟨0, true⟩
  else ⟨LaneMask.of fun l => (bs[l.val]?).getD false, false⟩

/-- The free slot that a formed warp takes: in the lowest-numbered partition where the block has no warp (R339). -/
def State.formSlot (s : State) (bk : Nat) : Option Nat :=
  let core := blockCore bk
  ((List.range 32).find? fun p => !(s.blockWarps bk).any fun w => slotPart w.1 == p).bind fun p =>
    ((List.range 8).map fun i => 256 * core + 8 * p + i).find? fun k => (Map.find s.warps k).isNone

/-- The next sequence number of a partition (R337). -/
def State.takeSeq (s : State) (slot : Nat) : State × Nat :=
  let c := s.core (slotCore slot)
  let p := Fin.ofNat 32 (slotPart slot)
  let n := c.seqNext.get p
  (s.setCore (slotCore slot) { c with seqNext := c.seqNext.set p.val (n + 1) }, n)

/-- Registers written into a new warp, ascending and up to its declared peak; the first that finds none raises REGWAIT
before the warp's first instruction (R26, R237). -/
def State.fillRegs (s : State) (slot peak : Nat) (live : LaneMask) (w : Warp) (rs : List (Nat × Storage)) : Warp :=
  let v := (rs.take peak).foldl (fun w r => s.storeReg slot w live true true r.1 r.2) w
  match rs.drop peak with
  | [] => v
  | r :: _ => { v with firstTrap := some (0x0B, r.1) }

/-- A warp put into a slot of a block with its registers, when the general slots for them are free (R20, R25). -/
def State.placeWarp (s : State) (bk slot : Nat) (live : LaneMask) (w : Warp) (rs : List (Nat × Storage)) : Option State :=
  let (t, n) := s.takeSeq slot
  let b := s.block bk
  let p := slotPart slot
  let w := { w with blk := bk, index := (p + 32 - b.p0 % 32) % 32, seqno := n }
  let t := t.setWarp slot w
  let v := t.fillRegs slot (t.launch b.launch).regs live w rs
  if t.slotsFor slot w v.gHeld then some (t.setWarp slot v) else none

/-- The mask of the lowest n lanes. -/
def lowLanes (n : Nat) : LaneMask := LaneMask.of fun l => decide (l.val < n)

/-- Inserts by an order. -/
def insertBy {α : Type} (le : α → α → Bool) (x : α) : List α → List α
  | [] => [x]
  | y :: ys => if le x y then x :: y :: ys else y :: insertBy le x ys

/-- A list sorted, equal members in their former order. -/
def sortBy {α : Type} (le : α → α → Bool) (xs : List α) : List α :=
  xs.foldr (fun x ys => insertBy le x ys) []

/-- The linear index of the thread in a lane (R12). -/
def linearIndex (l : Launch) (x : Lane) : Nat := x.tx + l.dimx * (x.ty + l.dimy * x.tz)

/-- The lane that a held thread stands in. -/
def State.heldLane (s : State) (h : HeldThread) : Lane := (s.warp h.slot).lanes.get (Fin.ofNat 32 h.lane)

/-- The records of held threads. -/
def heldRecords (hs : List HeldThread) : List VAddr := (hs.map HeldThread.lrec).dedup

/-- The registers that move with threads: those their records name, every one when a record is malformed (R237). -/
def State.movedRegs (s : State) (bk : Nat) (hs : List HeldThread) : List Nat :=
  let ls := (heldRecords hs).map fun a => s.liveRecord bk a
  if ls.any Option.isNone then List.range 512
  else (List.range 512).filter fun r => ls.any fun x => x.any fun y => y.regs.contains r

/-- The role of warp w of a launch (R335). -/
def Launch.role (l : Launch) (w : Nat) : Role :=
  match bitsOf l.roles (2 * w + 1) (2 * w) with
  | 1 => .feed
  | 2 => .matrix
  | 3 => .vector
  | _ => .any

/-- What a register holds in a lane whose pending bit is clear: a result already delivered to the lane stands in flight
until the register is written whole (R23). -/
def Warp.laneValue (w : Warp) (r : Nat) (l : Fin 32) : Word :=
  match w.inflight.find? fun f => f.reg == r && f.w.getLsbD l.val with
  | some f => f.value.lane l
  | none =>
    match w.waits.find? fun x => x.reg == r && x.w.getLsbD l.val with
    | some x => x.got.get l
    | none => (w.vreg r).st.lane l

/-- Does a register hold values: is it allocated, or has a result in flight been delivered to some lane? (R22, R23) -/
def Warp.holds (w : Warp) (r : Nat) : Bool :=
  (w.vreg r).st.allocated || (w.inflight.any fun f => f.reg == r && f.w &&& ~~~f.due != 0) ||
    w.waits.any fun x => x.reg == r && x.w &&& ~~~x.due != 0

/-- The pending reads of a thread that leaves a lane for lane i of another warp: those that its old warp has begun, and those
that it brought there (R237). -/
def carriedBy (w : Warp) (slot i : Nat) (l : Fin 32) : List (Nat × Wait) :=
  let one := LaneMask.one (Fin.ofNat 32 i)
  let moved (x : Wait) : Wait := { x with
    due := one
    addrs := ((Map.find x.addrs l.val).map fun a => (i, a)).toList }
  ((w.waits.filter fun x => x.due.getLsbD l.val).map fun x => (slot, { moved x with w := LaneMask.one l })) ++
    (w.carried.filter fun p => p.2.due.getLsbD l.val).map fun p => (p.1, moved p.2)

/-- Threads in sorted order formed into a warp of a block (R237); nothing when values or a slot are not there yet. The lanes
above its threads hold no thread: tid.x, tid.y and tid.z read 0 there (log entry 95). -/
def State.formThreads (s : State) (bk : Nat) (target : VAddr) (hs : List HeldThread) : Option State :=
  let l := s.launch (s.block bk).launch
  let regs := s.movedRegs bk hs
  let pending := hs.any fun h => regs.any fun r => ((s.warp h.slot).vreg r).pend.getLsbD h.lane
  match s.formSlot bk, hs with
  | some slot, h0 :: _ =>
    if pending || !s.recordsHere bk (heldRecords hs) then none
    else
      let w0 := s.warp h0.slot
      let n := hs.length
      let live := lowLanes n
      let lanes : Vector Lane 32 := Vector.ofFn fun i =>
        match hs[i.val]? with
        | some h => { s.heldLane h with pc := addrPc target, st := .live, age := 0, parked := false, atBar := false, lrec := 0 }
        | none => Lane.none
      let held (r : Nat) : Bool := hs.any fun h => (s.warp h.slot).holds r
      let value (r : Nat) (h : HeldThread) : Word := (s.warp h.slot).laneValue r (Fin.ofNat 32 h.lane)
      let rs := (regs.filter held).map fun r => (r, formShape (hs.map (value r)))
      let bit (q : Nat) (h : HeldThread) : Bool := ((s.warp h.slot).pred q).getLsbD h.lane
      let rays := hs.zipIdx.filterMap fun q =>
        ((s.warp q.1.slot).callable.bind fun c => Map.find c.rays q.1.lane).map fun r => (q.2, r)
      let w : Warp := { Warp.blank with
        role := w0.role
        lanes := lanes
        sregs := w0.sregs
        bregs := w0.bregs
        kflags := w0.kflags
        carried := hs.zipIdx.flatMap fun q => carriedBy (s.warp q.1.slot) q.1.slot q.2 (Fin.ofNat 32 q.1.lane)
        pregs := Vector.ofFn fun q => formPred (hs.map (bit q.val))
        callable := if rays.isEmpty then none else some ⟨rays⟩ }
      match s.placeWarp bk slot live w rs with
      | none => none
      | some t =>
        let left := hs.foldl (fun t h =>
          let x := t.warp h.slot
          t.setWarp h.slot { x with
            carried := x.carried.filter fun p => !p.2.due.getLsbD h.lane
            lanes := x.lanes.set (h.lane % 32) { x.lanes.get (Fin.ofNat 32 h.lane) with st := .exited, stack := [] }
              (Nat.mod_lt _ (by decide)) }) t
        some ((hs.map HeldThread.slot).dedup.foldl (fun t k => if (t.warp k).over then t.endWarp k else t)
          (left.dropKept (.engine bk 7)))
  | _, _ => none

/-- The words of a pair of entries handed to a callable: the effective enclosure (R370). -/
def Entry.handed (e : Entry) : List Word := [e.effective.lo, e.effective.hi]

/-- The registers of a callable's thread: register and value (R370). The manual gives the effective enclosures for the popped
entries and 'pairs' for the frame's axes: the model hands these as the pairs that the entries hold, in affine mode their
companions (log entry 106). -/
def callableRegs (h : HeldRay) (x : Ray) (e : Eval) : List (Nat × Word) :=
  let args := h.args.flatMap Entry.handed
  let frame := [e.frame.x, e.frame.y, e.frame.z].flatMap fun p => [p.lo, p.hi]
  let point := e.mode == .point
  let seg := if point then [x.t, x.t] else [x.t0, x.t1]
  let mode : Word := match e.mode with
    | .point => 0
    | .interval => 1
    | .affine => 2
  args.zipIdx.map (fun p => (p.2, p.1)) ++ frame.zipIdx.map (fun p => (16 + p.2, p.1)) ++
    seg.zipIdx.map (fun p => (22 + p.2, p.1)) ++
    [(24, mode), (25, BitVec.ofNat 32 (rayIndex h.ray)), (26, BitVec.ofNat 32 h.callable)]

/-- Rays in sorted order formed into a warp of callables (R370). -/
def State.formRays (s : State) (bk : Nat) (target : VAddr) (hs : List HeldRay) : Option State :=
  let b := s.block bk
  match s.formSlot bk with
  | none => none
  | some slot =>
    let p := slotPart slot
    let l := s.launch b.launch
    let given (h : HeldRay) : List (Nat × Word) :=
      match b.ray h.ray with
      | some x => ((x.eval).map fun e => callableRegs h x e).getD []
      | none => []
    let all := hs.map given
    let names := (List.range 27).filter fun r => all.any fun g => g.any fun q => q.1 == r
    let value (r : Nat) (g : List (Nat × Word)) : Word := ((g.find? fun q => q.1 == r).map Prod.snd).getD 0
    let lanes : Vector Lane 32 := Vector.ofFn fun i =>
      match hs[i.val]? with
      | some h => { Lane.none with pc := addrPc target, st := .live, tx := rayIndex h.ray }
      | none => Lane.none
    let w : Warp := { Warp.blank with
      role := l.role ((p + 32 - b.p0 % 32) % 32)
      lanes := lanes
      callable := some ⟨hs.zipIdx.map fun q => (q.2, q.1.ray)⟩ }
    s.placeWarp bk slot (lowLanes hs.length) w (names.map fun r => (r, formShape (all.map (value r))))

/-- The order of held threads: key, then linear index (R237). -/
def State.threadLe (s : State) (l : Launch) (a b : HeldThread) : Bool :=
  decide (a.key.toNat < b.key.toNat) ||
    (a.key == b.key && decide (linearIndex l (s.heldLane a) ≤ linearIndex l (s.heldLane b)))

/-- The order of held rays: key, then the ray's number. -/
def rayLe (a b : HeldRay) : Bool := decide (a.key.toNat < b.key.toNat) || (a.key == b.key && decide (a.ray ≤ b.ray))

/-- The first warp that a closed window gives, and what is left of the window (R237, R338). -/
def State.formFrom (s : State) (bk : Nat) (w : Window) : Option (State × Window) :=
  let l := s.launch (s.block bk).launch
  if w.rays.isEmpty then
    let hs := sortBy (s.threadLe l) w.threads
    (s.formThreads bk w.target (hs.take 32)).map fun t => (t, { w with threads := hs.drop 32 })
  else
    let hs := sortBy rayLe w.rays
    (s.formRays bk w.target (hs.take 32)).map fun t => (t, { w with rays := hs.drop 32 })

/-- The windows of a block tried in order: the first closed one that can give a warp does. -/
def State.formFirst (s : State) (bk : Nat) (before : List Window) : List Window → State
  | [] => s
  | w :: ws =>
    match if w.closed then s.formFrom bk w else none with
    | none => s.formFirst bk (before ++ [w]) ws
    | some (t, v) =>
      let rest := if v.threads.isEmpty && v.rays.isEmpty then [] else [v]
      t.setBlock bk { t.block bk with collator := before ++ rest ++ ws }

/-- The records of the threads that wait in closed windows asked for, where they lie in host memory. -/
def State.askClosed (s : State) (bk : Nat) : State :=
  s.askRecords bk (heldRecords (((s.block bk).collator.filter Window.closed).flatMap Window.threads))

/-- Every warp that the closed windows of a block can give: 64 are more than a block has slots. -/
def State.formAll (s : State) (bk : Nat) : State :=
  let s := s.askClosed bk
  (List.range 64).foldl (fun s _ => if (s.block bk).collator.any Window.closed then s.formFirst bk [] (s.block bk).collator else s) s

/-- COLLATOR_WARP_FORM (R237, R339, R370). -/
def execCollatorWarpForm (b : Nat) (s : State) : Res :=
  let s := s.askClosed b
  .next (s.formFirst b [] (s.block b).collator)

end Sys2Proof.Machine
end

