-- ==== Sys2Proof/Machine/March.lean ====
section
/-! DEFINITION. The marcher (R232, R247, R250 to R252, R263, R364 to R370): MARCH and its checks, the rays' state machine,
callables, hit records and visibility updates, and EXIT, which returns from a callable. -/

namespace Sys2Proof.Machine

/-! ### The ray batch descriptor (R232) -/

def mrRays (d : List Byte) : Nat := field d 0x00 4
def mrCount (d : List Byte) : Nat := field d 0x04 2
def mrProg (d : List Byte) : Nat := field d 0x08 4
def mrProgLen (d : List Byte) : Nat := field d 0x0C 4
def mrHits (d : List Byte) : Nat := field d 0x10 4
def mrPix (d : List Byte) : Nat := field d 0x14 4
def mrEps (d : List Byte) : Word := BitVec.ofNat 32 (field d 0x18 4)
def mrTol (d : List Byte) : Word := BitVec.ofNat 32 (field d 0x1C 4)
def mrLip (d : List Byte) : Word := BitVec.ofNat 32 (field d 0x20 4)
def mrMaxit (d : List Byte) : Nat := field d 0x24 4
def mrPrimid (d : List Byte) : Nat := field d 0x28 4
def mrCompl (d : List Byte) : Nat := field d 0x2C 4

/-- The BADDESC list of a MARCH (R232). -/
def mrBad (d : List Byte) : Bool :=
  let pos (x : Word) : Bool := (valF x).isFinite && ltV (.zero false) (valF x)
  field d 0x06 2 != 0 || field d 0x30 16 != 0 || mrRays d % 16 != 0 || mrHits d % 16 != 0 || mrProg d % 16 != 0 ||
    decide (2 ≤ mrProg d / 2 ^ 28) || mrCount d == 0 || decide (512 < mrCount d) || mrProgLen d % 2 != 0 ||
    decide (mrProgLen d < 2) || decide (65536 < mrProgLen d) || mrPix d % 4 != 0 || !pos (mrEps d) || !pos (mrTol d) ||
    !pos (mrLip d) || mrMaxit d == 0 || decide (1048576 < mrMaxit d)

/-- The BOUNDS list of a MARCH (R217). -/
def State.mrOut (s : State) (bk : Nat) (d : List Byte) : Bool :=
  (s.span bk (mrRays d) (32 * mrCount d)).isNone || (s.span bk (mrProg d) (mrProgLen d)).isNone ||
    (s.span bk (mrHits d) (16 * mrCount d)).isNone || (mrPix d != 0 && (s.span bk (mrPix d) (4 * mrCount d)).isNone)

/-- MARCH (R232): BADDESC before BOUNDS (log entry 95). In proof mode it raises PROT with reason 9 (R344). -/
def execMarch (g : Guard) (dt : DepthTest) (acq rel : Bool) (sc : Scope) (a : Src) (off : Word) (s : State) : Res :=
  let bk := s.me.blk
  s.stageOne a.scalar (Gate.trapIf s.myLaunch.proof 0x08 9) <|
    s.command g 0x1E3 anyRole a off 64 (s.queueRoom s.myBlock.marchQ) fun t d =>
    let status := if mrBad d then some 1 else if s.mrOut bk d then some 2 else none
    let c := Cmd.fresh (.march dt) d 0 s.cur.slot (s.wset g).lowest.val acq rel sc status
    let b := t.block bk
    .next (if s.complOk bk (mrCompl d) then
      ((t.acquireAll s.myCore acq sc).setBlock bk { b with marchQ := b.marchQ ++ [c] }).advance
    else t.advance)

/-! ### The state machine of a ray (R365 to R367) -/

/-- A word of a finite value rounded in a mode. -/
def roundWord (rm : Rm) (q : Rat) : Word := BitVec.ofNat 32 (fp32.round rm true false (.ofRat false q)).bits

/-- The exact value of a finite word. -/
def ratF (x : Word) : Rat := (valF x).toRat

/-- A width as a count of units of 2⁻¹⁴⁹. -/
def widthOf (v : Val) : Option Nat :=
  match v with
  | .inf _ => none
  | v => some (v.toRat * pow2 149).floor.toNat

/-- The companion and the form of one axis over a segment (R366). -/
def axisForm (o d t0 t1 : Rat) : Bounds × Form :=
  let c := o + d * ((t0 + t1) / 2)
  let a := d * ((t1 - t0) / 2)
  let cw := roundWord .rn c
  let aw := roundWord .rn a
  let dist (x : Rat) (w : Word) : Val := exAbs (.ofRat false (x - ratF w))
  let x := o + d * t0
  let y := o + d * t1
  (enclosePair (.ofRat false (if x < y then x else y)) (.ofRat false (if x < y then y else x)),
    ⟨cw, aw, BitVec.ofNat 32 (encloseUp (exAdd (dist c cw) (dist a aw)))⟩)

/-- The values of a ray record. -/
def Ray.val (x : Ray) (i : Fin 8) : Rat := ratF (x.vals.get i)

/-- An evaluation about to begin. -/
def Eval.start (m : EvalMode) (f : Frame) : Eval := ⟨m, 0x10, [], [], f, false⟩

/-- The evaluation of a segment (R366). -/
def Ray.segment (x : Ray) : Eval :=
  let t0 := ratF x.t0
  let t1 := ratF x.t1
  let ax (i : Fin 3) := axisForm (x.val ⟨i.val, by omega⟩) (x.val ⟨i.val + 3, by omega⟩) t0 t1
  let affine := [ax 0, ax 1, ax 2].all fun p => (valF p.2.c).isFinite && (valF p.2.a).isFinite
  let entry (p : Bounds × Form) : Entry := Entry.make p.1 (if affine then some p.2 else none)
  Eval.start (if affine then .affine else .interval) ⟨entry (ax 0), entry (ax 1), entry (ax 2)⟩

/-- The evaluation at a point (R366). -/
def Ray.point (x : Ray) : Eval :=
  let t := ratF x.t
  let entry (i : Fin 3) : Entry :=
    Entry.make (.point (roundWord .rn (x.val ⟨i.val, by omega⟩ + x.val ⟨i.val + 3, by omega⟩ * t))) none
  Eval.start .point ⟨entry 0, entry 1, entry 2⟩

/-- State SEG: the ray misses, has used its iterations, or begins to evaluate its next segment (R367). -/
def Ray.seg (x : Ray) (maxit : Nat) : Ray :=
  let tmax := x.vals.get 7
  if leV (valF tmax) (valF x.tf) then x.finish 0
  else if x.iter = maxit then x.finish 2
  else
    let sum : Word := match x.w with
      | some w => roundWord .ru (ratF x.tf + (w : Rat) * pow2 (-149))
      | none => inf32
    let t1 := if ltV (valF sum) (valF tmax) then sum else tmax
    let y := { x with t0 := x.tf, t1 := t1, iter := x.iter + 1, st := .test }
    { y with eval := some y.segment }

/-- State REFINE: a hit, or a point evaluation (R367). -/
def Ray.refine (x : Ray) : Ray :=
  if x.n = 4 then x.finish 1
  else { x with iter := x.iter + 1, n := x.n + 1, st := .refine, eval := some x.point }

/-- How far a lower bound above 0 clears (R367): rounded down, 0 when D is infinite. -/
def clears (lo lip d : Word) : Rat :=
  if (valF d).isFinite then ratF (roundWord .rd (ratF lo / (ratF lip * ratF d))) else 0

/-- The width twice a segment's (R367). -/
def Ray.twice (x : Ray) : Option Nat := widthOf (valF (roundWord .ru (2 * (ratF x.t1 - ratF x.t0))))

/-- State TEST with the effective enclosure of the segment (R367): a segment too narrow to bisect takes the row before, which
refines from its start. -/
def Ray.test (x : Ray) (d : List Byte) (p : Bounds) : Ray :=
  let zero : Val := .zero false
  let next (tf : Word) : Ray := Ray.seg { x with tf := tf, w := x.twice } (mrMaxit d)
  if ltV (valF (mrEps d)) p.l then
    next (BitVec.ofNat 32 (encloseDown (.ofRat false (ratF x.t1 + clears p.lo (mrLip d) x.d))))
  else if ltV zero p.l || ltV p.h zero then next x.t1
  else if ratF x.t1 - ratF x.t0 ≤ ratF (mrTol d) then Ray.refine { x with t := x.t0, n := 0 }
  else
    let m := roundWord .rn ((ratF x.t0 + ratF x.t1) / 2)
    if leV (valF m) (valF x.t0) || leV (valF x.t1) (valF m) then Ray.refine { x with t := x.t0, n := 0 }
    else Ray.seg { x with w := widthOf (.ofRat false (ratF m - ratF x.t0)) } (mrMaxit d)

/-- A point evaluation's result taken (R367). -/
def Ray.refined (x : Ray) (d : List Byte) (p : Bounds) : Ray :=
  if ltV (.zero false) p.l then
    let t := BitVec.ofNat 32 (encloseDown (.ofRat false (ratF x.t + clears p.lo (mrLip d) x.d)))
    Ray.refine { x with t := if ltV (valF t) (valF x.t1) then t else x.t1 }
  else Ray.refine { x with n := 4 }

/-- The result of an evaluation taken (R367). -/
def Ray.result (x : Ray) (d : List Byte) (e : Entry) : Ray :=
  match x.st with
  | .refine => x.refined d e.effective
  | _ => x.test d e.effective

/-- END (R250, R367): one entry on the stack is the result, any other depth ENDDEPTH. -/
def execFbcEnd (s : State) : Res :=
  match s.evaluating with
  | none => .next s
  | some (c, x, e) =>
    match e.stack with
    | [r] => .next (s.setRay (x.result c.desc r))
    | _ => .next (s.setRay (x.finish 7))

/-! ### The start of a command (R232, R247, R365) -/

/-- D of a ray record (R365). -/
def rayLength (v : Vector Word 8) : Word :=
  let d (i : Fin 8) : Rat := ratF (v.get i)
  let q := d 3 * d 3 + d 4 * d 4 + d 5 * d 5
  if q = 0 then 0 else BitVec.ofNat 32 (encloseUp (.num (sqrtSticky q)))

/-- A ray that has not begun. -/
def Ray.fresh (v : Vector Word 8) : Ray where
  vals := v
  d := rayLength v
  st := .seg
  tf := v.get 6
  w := widthOf (.ofRat false (ratF (v.get 7) - ratF (v.get 6)))
  t0 := 0
  t1 := 0
  t := inf32
  n := 0
  iter := 0
  status := 0
  eval := none
  written := false

/-- Is a ray record unusable? (R365) -/
def rayBad (v : Vector Word 8) : Bool :=
  v.toList.any (fun x => !(valF x).isFinite) || ltV (valF (v.get 6)) (.zero false) ||
    ltV (valF (v.get 7)) (valF (v.get 6)) || rayLength v == 0

/-- The status that the header gives every ray (R247). -/
def headerStatus (n : Nat) (h : List Byte) : Option Nat :=
  if n < 18 then some 6
  else if field h 0 2 != 1 || field h 2 2 != 0 || decide (2 ^ 57 ≤ field h 8 8) || field h 8 8 % 1024 != 0 then some 5
  else none

/-- A ray as its command starts. -/
def Ray.start (v : Vector Word 8) (header : Option Nat) (maxit : Nat) : Ray :=
  let x := Ray.fresh v
  match header with
  | some status => x.finish status
  | none => if rayBad v then x.finish 12 else x.seg maxit

/-- Rays in flight at the marcher of a core (R232). -/
def State.raysInFlight (s : State) (core : Nat) : Nat :=
  (s.coreBlocks core).foldl (fun n p => p.2.marchQ.foldl (fun n c => n + (c.rays.filter fun r => !r.2.written).length) n) 0

/-- The next command of a block's marcher queue that may start: the first accepted one, when none of the queue runs, and
the block is not being saved (R222, R462). -/
def Block.nextMarch (b : Block) : Option (Nat × Cmd) :=
  if b.saving || b.marchQ.any fun c => c.started then none
  else (b.marchQ.findIdx? fun c => c.refused.isNone).bind fun i => (b.marchQ[i]?).map fun c => (i, c)

/-- A marcher command started: the header is read and kept, and every ray begins (R232, R247, R365). -/
def State.startMarch (s : State) (b i : Nat) (c : Cmd) : State :=
  let k := s.block b
  let d := c.desc
  let header := if mrProgLen d < 18 then [] else leBytes 16 (s.sramNat b (mrProg d) 16)
  let status := headerStatus (mrProgLen d) header
  let ray (r : Nat) : Ray :=
    Ray.start (Vector.ofFn fun j : Fin 8 => BitVec.ofNat 32 (s.sramNat b (mrRays d + 32 * r + 4 * j.val) 4)) status
      (mrMaxit d)
  let c' := { c with started := true, shape := header, rays := (List.range (mrCount d)).map fun r => (r, ray r) }
  s.setBlock b { k with marchQ := k.marchQ.set i c' }

/-- MARCH_COMMAND_START (R232, R462): the marcher of the block's core takes the first command in cyclic order of block slot,
when its rays are at most 512 with those in flight. -/
def execMarchCommandStart (b : Nat) (s : State) : Res :=
  let core := blockCore b
  match (s.slotOrder core (s.core core).lastMarch).findSome? fun k => (s.block k).nextMarch.map fun q => (k, q) with
  | some (k, i, c) =>
    if 512 < s.raysInFlight core + mrCount c.desc then .next s
    else
      let t := s.startMarch k i c
      .next (t.setCore core { t.core core with lastMarch := k % 32 })
  | none => .next s

/-! ### The end of rays and commands (R232, R251, R364, R369) -/

/-- KEY and PRIMID of a visibility entry (R364). -/
def visEntry (depth : Word) (primid : Nat) : Nat := (0xFFFFFFFF - depth.toNat) * 2 ^ 32 + primid % 2 ^ 32

/-- Is an entry replaced? (R369) -/
def visReplaces (dt : DepthTest) (new old : Nat) : Bool :=
  match dt with
  | .none => true
  | .lt => decide (old / 2 ^ 32 < new / 2 ^ 32)
  | .le => decide (old / 2 ^ 32 ≤ new / 2 ^ 32)

/-- The message kind of a visibility update at another device, by its test (the code is the model's own). -/
def msgVis (dt : DepthTest) : Nat :=
  match dt with
  | .none => msgWrite
  | .lt => 32
  | .le => 33

/-- The address of a pixel's visibility entry; nothing outside the target (R363, R364, R369). -/
def visAddr (target : Option (List Byte)) (x y : Nat) : Option Nat :=
  match target with
  | none => none
  | some t =>
    if x < field t 0x20 2 ∧ y < field t 0x22 2 then some ((field t 0x00 8 + y * field t 0x24 4 + 8 * x) % 2 ^ 57) else none

/-- What a visibility update needs of its page: a plain write only to write (R369, R409). -/
def visNeed (kind : Nat) : Need := if kind = msgWrite then .write else .both

/-- One visibility update, indivisible: the kind of its message, and when it replaces an old entry (R364, R369, R374). At
another device and in host memory the test and the write are one operation of its home. -/
def State.visUpdate (s : State) (p : Party) (kind : Nat) (replaces : Nat → Nat → Bool) (va new : Nat) : Put :=
  match s.walk p.ctx (visNeed kind) va with
  | .denied => .denied
  | .moving => .wait s
  | .fault r => .wait (s.faultOnce p true va r)
  | .ok x =>
    if s.waitsOn p.ctx p.who va 8 then .wait s
    else
    let put (old : Nat) : State := if replaces new old then s.writeAt p.ctx p.bk p.who x (leBytes 8 new) else s
    if kind = msgWrite then .ok ((put 0).settleRange p va 8)
    else if isExternal x.loc && !x.disc && !s.versioned p.bk then
      let at' := s.place x.loc
      .ok ((s.request ⟨0, at'.1, kind, at'.2, leBytes 8 new, 8, p.who, p.ctx, [], none, 0, 0, 0⟩).settleRange p va 8)
    else if isExternal x.loc && !x.disc then
      match s.fetch p va 8 with
      | .ok bs => .ok ((put (leNat bs)).settleRange p va 8)
      | .wait t => .wait t
      | .denied => .denied
    else .ok ((put (s.readAt (s.version p.bk) x 8)).settleRange p va 8)

/-- The update that a ray's hit makes: its address and entry (R369). -/
def State.hitUpdate (s : State) (bk : Nat) (c : Cmd) (r : Nat) (x : Ray) : Option (Nat × Nat) :=
  let d := c.desc
  if x.status = 1 ∧ mrPix d ≠ 0 then
    let px := s.sramNat bk (mrPix d + 4 * rayIndex r) 4
    (visAddr (s.launch (s.block bk).launch).target (px % 2 ^ 16) (px / 2 ^ 16)).map fun a => (a, visEntry x.t (mrPrimid d))
  else none

/-- The hit record of a ray written (R232). -/
def State.writeHit (s : State) (bk : Nat) (c : Cmd) (r : Nat) (x : Ray) : State :=
  let a := mrHits c.desc + 16 * rayIndex r
  s.sramPut bk a 16 (x.t.toNat + x.status * 2 ^ 32 + x.iter % 2 ^ 32 * 2 ^ 64)

/-- The depth test of a command. -/
def Cmd.depthTest (c : Cmd) : DepthTest :=
  match c.kind with
  | .march dt => dt
  | _ => .none

/-- MARCH_RAY_DONE (R251, R367, R369): the visibility update, then the hit record. -/
def execMarchRayDone (b ray : Nat) (s : State) : Res :=
  match (s.block b).marchCmd ray, (s.block b).ray ray with
  | some c, some x =>
    if x.st != .done || x.written || c.frozen || c.refused.isSome then .next s
    else
      let p := s.engine b 2
      let finish (t : State) : State :=
        let u := t.writeHit b c ray x
        u.setBlock b ((u.block b).setRay ray { x with written := true })
      match s.hitUpdate b c ray x with
      | none => .next (finish s)
      | some (va, new) =>
        let lines := match s.walk p.ctx (visNeed (msgVis c.depthTest)) va with
          | .ok y => [y.loc / 128]
          | _ => []
        if s.versionFull b lines then .next (s.engineKill b 0x0F (s.launch (s.block b).launch).vbud)
        else
          match s.visUpdate p (msgVis c.depthTest) (visReplaces c.depthTest) va new with
          | .ok t => .next (finish t)
          | .wait t => .next t
          | .denied => .next (s.freezeMarch b (rayCmd ray))
  | _, _ => .next s

/-- The number of a ray after the i-th command has left its queue. -/
def renumber (i r : Nat) : Nat := if i < rayCmd r then r - 512 else r

/-- The i-th marcher command gone from its queue; its rays' successors are renumbered wherever they are named. -/
def State.popMarch (s : State) (bk i : Nat) : State :=
  let b := s.block bk
  let t := s.setBlock bk { b with
    marchQ := b.marchQ.eraseIdx i
    collator := b.collator.map fun (w : Window) =>
      { w with rays := w.rays.map fun (h : HeldRay) => { h with ray := renumber i h.ray } } }
  { t with warps := t.warps.map fun (p : Nat × Warp) =>
      if p.2.blk == bk then
        (p.1, { p.2 with callable := p.2.callable.map fun (c : RayWarp) =>
          ⟨c.rays.map fun (q : Nat × Nat) => (q.1, renumber i q.2)⟩ })
      else p }

/-- The detaches that waited for MARCH commands made (R209, R252). -/
def State.runDetaches (s : State) (bk : Nat) : State :=
  let ready (d : Nat × Nat × Nat × LaneMask) : Bool := !(s.block bk).marches d.2.2.1
  let t := ((s.block bk).detaches.filter ready).foldl (fun s d =>
    let r := s.segRelease bk d.2.2.1
    (r.1.patchWarp d.1 d.2.1 d.2.2.2.lowest (BitVec.ofNat 32 r.2)).land d.1 d.2.1) s
  let b := t.block bk
  t.setBlock bk { b with detaches := b.detaches.filter fun d => !ready d }

/-- Has a MARCH ended every ray? (R232, R367) -/
def marchDone (c : Cmd) : Bool := c.started && c.rays.all fun r => r.2.written

/-- MARCH_COMPLETION (R217, R232, R252). -/
def execMarchCompletion (b : Nat) (s : State) : Res :=
  match doneCmd (s.engineAcked b 2) (s.block b).marchQ marchDone with
  | none => .next s
  | some (i, c) =>
    .next ((((s.popMarch b i).complete b (mrCompl c.desc) (c.refused.getD 0) c.rel c.scope).runDetaches b).closeBlock b)

/-! ### Callables (R263, R370) -/

/-- CALLOUT (R263, R370): the ray joins the collator window of its callable. -/
def execFbcCallout (n : Nat) (k : Word) (s : State) : Res :=
  let bk := s.ray.1
  match s.evaluating with
  | none => .next s
  | some (c, x, e) =>
    match stackFault e n n 1 with
    | some status => .next (s.setRay (x.finish status))
    | none =>
      let l := s.launch (s.block bk).launch
      if !l.regrp || decide (l.ncall ≤ k.toNat) then .next (s.setRay (x.finish 11))
      else
        let p := s.engine bk 2
        let va := (l.calltab + 8 * k.toNat) % 2 ^ 57
        match s.fetch p va 8 with
        | .wait t => .next t
        | .denied => .next (s.freezeMarch bk (rayCmd s.ray.2))
        | .ok bs =>
          let target : VAddr := BitVec.ofNat 57 (l.entry + leNat bs)
          let key : Word := if mrPix c.desc = 0 then 0
            else BitVec.ofNat 32 (s.sramNat bk (mrPix c.desc + 4 * rayIndex s.ray.2) 4)
          let t := (s.settleRange p va 8).setRay { x with
            eval := some { e with pc := e.pc + opSize 1, stack := e.stack.drop n, called := true } }
          let b := t.block bk
          let u := t.setBlock bk { b with
            collator := closeFull l (joinWindows target [⟨s.ray.2, target, key, e.stack.take n, k.toNat⟩] [] b.collator) }
          .next (u.closeIdle bk)

/-- The pair that a thread of a callable returns, pushed for its ray (R263, R370). -/
def State.returnRay (s : State) (bk r : Nat) (p : Bounds) : State :=
  let b := s.block bk
  match b.ray r with
  | some x =>
    match x.eval with
    | some e => s.setBlock bk (b.setRay r { x with
        eval := some { e with stack := p.entry e.mode :: e.stack, called := false } })
    | none => s
  | none => s

/-- The threads of W that answer for rays return v0 and v1 (R370). -/
def State.returnRays (s : State) (W : LaneMask) : State :=
  match s.me.callable with
  | none => s
  | some c =>
    c.rays.foldl (fun t q =>
      if W.getLsbD q.1 then
        let l := Fin.ofNat 32 q.1
        t.returnRay s.me.blk q.2 ⟨(s.me.vreg 0).st.lane l, (s.me.vreg 1).st.lane l⟩
      else t) s

/-- Are v0 and v1 full in the lanes of W that answer for rays? -/
def Warp.returnReady (w : Warp) (W : LaneMask) : Bool :=
  match w.callable with
  | none => true
  | some c => c.rays.all fun q => !W.getLsbD q.1 || !((w.vreg 0).pend ||| (w.vreg 1).pend).getLsbD q.1

/-- EXIT (R133, R263, R370). -/
def execExit (g : Guard) (s : State) : Res :=
  let W := s.wset g
  if W = 0 then .next s.advance
  else if s.exitGate != .go || !s.me.returnReady W then .next s
  else
    let t := s.returnRays W
    let drop (c : RayWarp) : RayWarp := ⟨c.rays.filter fun (q : Nat × Nat) => !W.getLsbD q.1⟩
    .next ((t.setMe { t.me with callable := t.me.callable.map drop }).exitThreads W)

end Sys2Proof.Machine
end

