-- ==== Sys2Proof/Machine/Collective.lean ====
section
/-! DEFINITION. COLL and the collective engine (R233, R234, R348, R349, R429), and ENQ (R235, R341). -/

namespace Sys2Proof.Machine

/-! ### Reduction (R168, R234) -/

/-- One step of a reduction on 64-bit elements: the operations of R168 at twice the width (R233); `.fmin` and `.fmax` take
FP64 as `.fadd` does, which the manual does not say (log entry 95). -/
def redOp64 (op : RedOp) (x y : Dword) : Dword :=
  match op with
  | .add => x + y
  | .min => if x.slt y then x else y
  | .max => if x.slt y then y else x
  | .umin => if x.ult y then x else y
  | .umax => if x.ult y then y else x
  | .and => x &&& y
  | .or => x ||| y
  | .xor => x ^^^ y
  | .fadd => (outD .rn (Val.add .rn (valD x) (valD y))).bits
  | .fmin => BitVec.ofNat 64 (fp64.minmax false false x.toNat y.toNat).bits
  | .fmax => BitVec.ofNat 64 (fp64.minmax false true x.toNat y.toNat).bits

/-- One step of a reduction on elements as numbers. -/
def redStep (op : RedOp) (b64 : Bool) (x y : Nat) : Nat :=
  if b64 then (redOp64 op (BitVec.ofNat 64 x) (BitVec.ofNat 64 y)).toNat
  else (redOp .rn op (BitVec.ofNat 32 x) (BitVec.ofNat 32 y)).bits.toNat

/-- The codes of a signature (R233). -/
def collCode (op : CollOp) : Nat :=
  match op with
  | .allred => 0
  | .redsc => 1
  | .allgat => 2
  | .bcast => 3
  | .bar => 4
def redCode (op : RedOp) : Nat :=
  match op with
  | .add => 0
  | .min => 1
  | .max => 2
  | .umin => 3
  | .umax => 4
  | .and => 5
  | .or => 6
  | .xor => 7
  | .fadd => 8
  | .fmin => 9
  | .fmax => 10
def redOfCode (n : Nat) : RedOp :=
  match n with
  | 1 => .min
  | 2 => .max
  | 3 => .umin
  | 4 => .umax
  | 5 => .and
  | 6 => .or
  | 7 => .xor
  | 8 => .fadd
  | 9 => .fmin
  | 10 => .fmax
  | _ => .add

/-- Fields of a signature: operation, reduction, width, count, root. -/
def sigAt (g : List Nat) (i : Nat) : Nat := (g[i]?).getD 0

/-- The bytes of a signature in a message (the format is the model's own). -/
def sigBytes (g : List Nat) : List Byte :=
  leBytes 1 (sigAt g 0) ++ leBytes 1 (sigAt g 1) ++ leBytes 1 (sigAt g 2) ++ leBytes 4 (sigAt g 3) ++ leBytes 4 (sigAt g 4)

/-- A message of a collective (R429): its phase (0 a contribution, which in ring phases is a signature alone, 1 a piece of the
reduce-scatter pass, 2 a piece of the all-gather pass), the level of a contribution, the member for whom a piece is, the
signature, and the bytes. The format is the model's own (log entry 50). -/
structure CollMsg where
  phase : Nat
  level : Nat
  chunk : Nat
  sig : List Nat
  data : List Byte
  deriving DecidableEq, Repr

/-- The bytes of a message, and the message of bytes. -/
def CollMsg.bytes (m : CollMsg) : List Byte :=
  leBytes 1 m.phase ++ leBytes 1 m.level ++ leBytes 4 m.chunk ++ sigBytes m.sig ++ m.data
def collMsg (bs : List Byte) : CollMsg :=
  ⟨field bs 0 1, field bs 1 1, field bs 2 4, [field bs 6 1, field bs 7 1, field bs 8 1, field bs 9 4, field bs 13 4], bs.drop 17⟩

/-- Bytes an element takes. -/
def sigWidth (g : List Nat) : Nat := if sigAt g 2 = 1 then 8 else 4

/-- Does an operation move its data in ring phases: more than 256 bytes a member? (R429) -/
def ringed (sig : List Nat) : Bool := decide (256 < sigWidth sig * sigAt sig 3)

/-- Does an operation reduce? -/
def reduces (sig : List Nat) : Bool := decide (sigAt sig 0 < 2)

/-- The contribution that covers a rank. -/
def partFor (ps : List (Nat × CollPart)) (r : Nat) : Option (Nat × CollPart) :=
  ps.find? fun p => decide (p.1 ≤ r) && decide (r < p.1 + 2 ^ p.2.level)

/-- A node of the fixed tree over `size` ranks, the j-th of a level: element e as it was combined in transit, else the nodes
below it combined, one without a neighbour passed on (R234, R429). -/
def rankNode (f : Nat → Nat → Nat) (ps : List (Nat × CollPart)) (size n e : Nat) : Nat → Nat → Nat
  | 0, j => field (((Map.find ps j).map CollPart.data).getD []) (n * e) n
  | k + 1, j =>
    match (Map.find ps (j * 2 ^ (k + 1))).filter fun p => p.level == k + 1 with
    | some p => field p.data (n * e) n
    | none =>
      let x := rankNode f ps size n e k (2 * j)
      if size ≤ (2 * j + 1) * 2 ^ k then x else f x (rankNode f ps size n e k (2 * j + 1))

/-- The level of the root of the tree over `size` ranks: a domain has fewer than 2^14 devices. -/
def treeTop (size : Nat) : Nat := ((List.range 15).find? fun k => decide (size ≤ 2 ^ k)).getD 14

/-- Elements of a reduction of contributions, as bytes (R234). -/
def reduceParts (sig : List Nat) (size : Nat) (ps : List (Nat × CollPart)) (first count : Nat) : List Byte :=
  let n := sigWidth sig
  (List.range count).flatMap fun i =>
    leBytes n (rankNode (redStep (redOfCode (sigAt sig 1)) (n == 8)) ps size n (first + i) (treeTop size) 0)

/-- The elements that a member reduces in the reduce-scatter pass: the first, and how many. -/
def chunkOf (sig : List Nat) (size r : Nat) : Nat × Nat :=
  let q := (sigAt sig 3 + size - 1) / size
  (r * q, min q (sigAt sig 3 - r * q))

/-- The bytes that a collective delivers here (R233). -/
def Collective.result (c : Collective) : List Byte :=
  let count := sigAt c.sig 3
  if ringed c.sig then
    match sigAt c.sig 0 with
    | 1 => (Map.find c.gathered c.rank).getD []
    | 3 => (Map.find c.gathered (sigAt c.sig 4)).getD []
    | _ => c.gathered.flatMap Prod.snd
  else
    match sigAt c.sig 0 with
    | 0 => reduceParts c.sig c.size c.parts 0 count
    | 1 => reduceParts c.sig c.size c.parts (c.rank * (count / c.size)) (count / c.size)
    | 2 => c.parts.flatMap fun p => p.2.data
    | 3 => ((partFor c.parts (sigAt c.sig 4)).map fun p => p.2.data).getD []
    | _ => []

/-- Has every member's contribution come? -/
def Collective.covered (c : Collective) : Bool := (List.range c.size).all fun r => (partFor c.parts r).isSome

/-- Have the ring phases, if there are any, brought what is delivered here? -/
def Collective.gatheredAll (c : Collective) : Bool :=
  !ringed c.sig || (if sigAt c.sig 0 = 1 then (Map.find c.gathered c.rank).isSome else c.gathered.length == c.size)

/-- Elements that an operation delivers (R233). -/
def resultCount (op count size : Nat) : Nat :=
  match op with
  | 1 => count / size
  | 2 => size * count
  | 4 => 0
  | _ => count

/-! ### The descriptor (R233) -/

def clSrc (d : List Byte) : Nat := field d 0x00 8
def clDst (d : List Byte) : Nat := field d 0x08 8
def clCount (d : List Byte) : Nat := field d 0x10 4
def clCompl (d : List Byte) : Nat := field d 0x14 4
def clRoot (d : List Byte) : Nat := field d 0x18 4

/-- The BADDESC list of the memory form, with the group's size. -/
def clBad (op : CollOp) (b64 : Bool) (d : List Byte) (r : Record) (size : Nat) : Bool :=
  let n := if b64 then 8 else 4
  recReserved r || clSrc d % n != 0 || clDst d % n != 0 || field d 0x1C 4 != 0 ||
    (if op == .bar then clCount d != 0 else clCount d == 0 || decide (2 ^ 28 < clCount d)) ||
    (if op == .bcast then decide (size ≤ clRoot d) else clRoot d != 0) || (op == .redsc && clCount d % size != 0)

/-- The BOUNDS list, the same at every member: the source range of a `.bcast` is checked though only the root reads it (log
entry 95). -/
def clOut (op : CollOp) (b64 : Bool) (d : List Byte) (r : Record) (size : Nat) : Bool :=
  let n := if b64 then 8 else 4
  recOut r (clSrc d) (n * clCount d) || recOut r (clDst d) (n * resultCount (collCode op) (clCount d) size)

/-! ### Contributions (R234, R429) -/

/-- The members of a group, nothing when the entry is absent (R349). -/
def Launch.group (l : Launch) (g : Nat) : Option (List Nat) := (l.groups[g]?).bind Group.members

/-- COLL commands issued so far on a group of a launch (R234). -/
def Launch.collIssued (l : Launch) (g : Nat) : Nat := Map.getD l.collCount g 0

/-- The record of a collective, made when the first party of it is heard of. -/
def State.collIndex (s : State) (lk g n : Nat) : Option Nat :=
  s.collectives.findIdx? fun c => c.launch == lk && c.grp == g && c.n == n

/-- A collective that no party on this device has issued yet. -/
def State.collFresh (s : State) (lk g n : Nat) : Collective where
  launch := lk
  grp := g
  n := n
  rank := (((s.launch lk).group g).getD []).idxOf s.mss.domid
  size := (((s.launch lk).group g).getD []).length
  issued := false
  blk := 0
  sig := []
  desc := []
  rel := false
  scope := .blk
  dest := .none
  parts := []
  pieces := []
  gathered := []
  refused := none
  frozen := false
  wrote := false

/-- A collective changed, or made. -/
def State.setColl (s : State) (lk g n : Nat) (f : Collective → Collective) : State :=
  match s.collIndex lk g n with
  | some i => { s with collectives := s.collectives.modify i f }
  | none => { s with collectives := s.collectives ++ [f (s.collFresh lk g n)] }

/-- The neighbours of a device in a group of members: the ranks before and after its own (R349). -/
def prevOf (m : List Nat) (d : Nat) : Nat := (m[(m.idxOf d + m.length - 1) % m.length]?).getD d
def nextOf (m : List Nat) (d : Nat) : Nat := (m[(m.idxOf d + 1) % m.length]?).getD d

/-- The members of a collective's group on this launch. -/
def State.collMembers (s : State) (lk g : Nat) : List Nat := ((s.launch lk).group g).getD []

/-- A message of a collective sent to a device; none goes to this one. -/
def State.sendColl (s : State) (g n d : Nat) (m : CollMsg) : State :=
  if d = s.mss.domid then s else s.send d msgColl g (leBytes 4 n ++ m.bytes)

/-- A message of a collective sent to the next member of the ring (R349). -/
def State.sendNext (s : State) (lk g n : Nat) (m : CollMsg) : State :=
  s.sendColl g n (nextOf (s.collMembers lk g) s.mss.domid) m

/-- The reduce-scatter pass at its end here: once every member's piece has come the reduction of this member's elements is
known, and for `.allred` it goes round in the all-gather pass (R234, R429). -/
def State.collAdvance (s : State) (lk g n : Nat) : State :=
  match (s.collIndex lk g n).bind fun i => s.collectives[i]? with
  | none => s
  | some c =>
    if !ringed c.sig || !reduces c.sig || c.pieces.length != c.size || (Map.find c.gathered c.rank).isSome then s
    else
      let bs := reduceParts c.sig c.size c.pieces 0 (chunkOf c.sig c.size c.rank).2
      let t := s.setColl lk g n fun c => { c with gathered := Map.set c.gathered c.rank bs }
      if sigAt c.sig 0 = 0 then t.sendNext lk g n ⟨2, 0, c.rank, c.sig, bs⟩ else t

/-- This device's contribution made and sent (R429): to every other member, up the tree; in ring phases its signature goes
there, and its data in pieces, or whole where nothing is reduced, to the next member. -/
def State.contribute (s : State) (lk g n : Nat) (data : List Byte) : State :=
  let s := s.setColl lk g n fun c =>
    { c with parts := Map.set c.parts c.rank ⟨c.sig, if ringed c.sig then [] else data, 0⟩ }
  match (s.collIndex lk g n).bind fun i => s.collectives[i]? with
  | none => s
  | some c =>
    let ring := ringed c.sig
    let s := (s.collMembers lk g).foldl (fun s d =>
      s.sendColl g n d ⟨0, 0, 0, c.sig, if ring then [] else data⟩) s
    let piece (r : Nat) : List Byte :=
      let q := chunkOf c.sig c.size r
      (data.drop (sigWidth c.sig * q.1)).take (sigWidth c.sig * q.2)
    if !ring then s
    else if reduces c.sig then
      let s := s.setColl lk g n fun c => { c with pieces := Map.set c.pieces c.rank ⟨c.sig, piece c.rank, 0⟩ }
      ((List.range c.size).foldl (fun s r =>
        if r = c.rank then s else s.sendNext lk g n ⟨1, 0, r, c.sig, piece r⟩) s).collAdvance lk g n
    else
      (s.setColl lk g n fun c => { c with gathered := Map.set c.gathered c.rank data }).sendNext lk g n
        ⟨2, 0, c.rank, c.sig, data⟩

/-- The engine party of a collective. -/
def State.collParty (s : State) (bk : Nat) : Party := s.engine bk 6

/-- A collective's source read and contributed, where that can be done (R233). -/
def State.collSource (s : State) (c : Collective) : State :=
  let p := s.collParty c.blk
  match c.dest with
  | .mem r =>
    let n := sigWidth c.sig * sigAt c.sig 3
    let needed := sigAt c.sig 0 != 4 && (sigAt c.sig 0 != 3 || sigAt c.sig 4 == c.rank)
    if !needed then s.contribute c.launch c.grp c.n []
    else
      match s.recFetch p r (clSrc c.desc) n with
      | .ok bs => ((s.dropKept p.who).settle p.ctx p.who).contribute c.launch c.grp c.n bs
      | .wait t => t
      | .denied => (s.setColl c.launch c.grp c.n fun c => { c with frozen := true }).freeze (s.channel c.blk)
  | _ => s

/-- A collective issued by a block of this device: numbered, recorded, and contributed to (R234). -/
def State.issueColl (s : State) (lk g bk : Nat) (sig : List Nat) (desc : List Byte) (rel : Bool) (sc : Scope)
    (dest : CollDest) (data : Option (List Byte)) : State :=
  let l := s.launch lk
  let n := l.collIssued g
  let s := s.setLaunch lk { l with collCount := Map.set l.collCount g (n + 1) }
  let s := s.setColl lk g n fun c =>
    { c with issued := true, blk := bk, sig := sig, desc := desc, rel := rel, scope := sc, dest := dest }
  match data with
  | some bs => s.contribute lk g n bs
  | none =>
    match (s.collIndex lk g n).bind fun i => s.collectives[i]? with
    | some c => s.collSource c
    | none => s

/-! ### COLL (R233) -/

/-- A command of the memory form that was refused at issue: it completes at once (R218). -/
def State.refuseColl (s : State) (bk status : Nat) (d : List Byte) (rel : Bool) (sc : Scope) : State :=
  s.complete bk (clCompl d) status rel sc

/-- The memory form of COLL. One that is refused is no operation of the group, and takes no number on it: the manual does not
say whether it counts (log entry 50). -/
def State.collMem (s : State) (g : Guard) (op : CollOp) (rop : RedOp) (b64 acq rel : Bool) (sc : Scope) (a : Src)
    (off : Word) (br : Nat) (grp : Word) : Res :=
  let bk := s.me.blk
  let lk := s.myBlock.launch
  let r := s.me.breg br
  s.command g 0x1E4 anyRole a off 32 (!s.channelFrozen) fun t d =>
    if !s.complOk bk (clCompl d) then .next t.advance
    else
      match s.myLaunch.group grp.toNat with
      | none => .next (t.refuseColl bk 6 d rel sc).advance
      | some m =>
        if clBad op b64 d r m.length then .next (t.refuseColl bk 1 d rel sc).advance
        else if clOut op b64 d r m.length then .next (t.refuseColl bk 2 d rel sc).advance
        else
          .next ((t.acquireAll s.myCore acq sc).issueColl lk grp.toNat bk
            [collCode op, redCode rop, if b64 then 1 else 0, clCount d, clRoot d] d rel sc (.mem r) none).advance

/-- The destinations of the register form: the result, then the status (R233). -/
def collDests (d : Nat) (b64 : Bool) : List Nat := if b64 then [d, d + 1, d + 2] else [d, d + 1]

/-- What the register form delivers: result 0 with a status. -/
def collZero (d : Nat) (b64 : Bool) (status : Nat) : List (Nat × Storage) :=
  let st : Storage := .u (BitVec.ofNat 32 status)
  if b64 then [(d, .u 0), (d + 1, .u 0), (d + 2, st)] else [(d, .u 0), (d + 1, st)]

/-- The register form of COLL. One that ends with BADDESC takes no number on its group (log entry 50). -/
def State.collReg (s : State) (g : Guard) (d : Nat) (op : CollOp) (rop : RedOp) (b64 acq rel : Bool) (sc : Scope) (a : Src)
    (off : Word) (grp : Word) : Res :=
  let W := s.wset g
  let us := a.uses (if b64 then 2 else 1)
  let lk := s.myBlock.launch
  let regs := collZero d b64 0
  let data := if op == .bar then []
    else leBytes (if b64 then 8 else 4) (((s.me.srcAt a 0).lane W.lowest).toNat + 2 ^ 32 * ((s.me.srcAt a 1).lane W.lowest).toNat)
  let hold : Gate := if W != 0 && s.channelFrozen then .wait else .go
  match ((((s.readGate a.scalar us).and (s.memGate W 0 false)).and (s.releaseGate (W &&& LaneMask.one W.lowest) (W != 0))).and
    hold).and (s.destGate W us (collDests d b64)) with
  | .wait => .next s
  | .trap code detail => s.trap code detail
  | .go =>
    if W = 0 then s.deliverRegs s W 0 us regs LaneFlags.zero
    else
      match s.myLaunch.group grp.toNat with
      | none => s.deliverRegs s W 0 us (collZero d b64 6) LaneFlags.zero
      | some m =>
        if op == .bcast && decide (m.length ≤ off.toNat) then s.deliverRegs s W 0 us (collZero d b64 1) LaneFlags.zero
        else
          let sig := [collCode op, redCode rop, if b64 then 1 else 0, if op == .bar then 0 else 1, off.toNat]
          let t := (s.acquireAll s.myCore acq sc).issueColl lk grp.toNat s.me.blk sig [] rel sc (.regs s.cur.slot d W b64)
            (some data)
          s.deliverRegs t W W us regs LaneFlags.zero

/-- COLL (R233, R234): NOGROUP before BADDESC before BOUNDS (log entry 95). In proof mode it raises PROT with reason 9
(R344). -/
def execColl (g : Guard) (d : Nat) (r : Bool) (op : CollOp) (rop : RedOp) (b64 acq rel : Bool) (sc : Scope) (a : Src)
    (off : Word) (br : Nat) (grp : Word) (s : State) : Res :=
  s.stageOne a.scalar (Gate.trapIf s.myLaunch.proof 0x08 9) <|
    if r then s.collReg g d op rop b64 acq rel sc a off grp else s.collMem g op rop b64 acq rel sc a off br grp

/-! ### Completion (R234) -/

/-- Blocks from here on are saved ones: their collectives wait for the restore (R222). -/
def savedBlock : Nat := 2 ^ 30

/-- Do the members disagree? -/
def Collective.mismatch (c : Collective) : Bool := c.parts.any fun p => p.2.sig != c.sig

/-- The status that a collective ends with. -/
def Collective.status (c : Collective) : Nat := c.refused.getD (if c.mismatch then 5 else 0)

/-- The record of a collective gone. -/
def State.dropColl (s : State) (i : Nat) : State := { s with collectives := s.collectives.eraseIdx i }

/-- The registers of a COLL delivered. -/
def State.deliverColl (s : State) (c : Collective) (slot d : Nat) (W : LaneMask) (b64 : Bool) : State :=
  let v := if c.status = 0 then leNat c.result else 0
  let word (k : Nat) : Word := BitVec.ofNat 32 (v / 2 ^ (32 * k))
  let put (s : State) (r : Nat) (x : Word) : State := (s.patchWarp slot r W.lowest x).land slot r
  let s := put s d (word 0)
  let s := if b64 then put s (d + 1) (word 1) else s
  put s (if b64 then d + 2 else d + 1) (BitVec.ofNat 32 c.status)

/-- The pieces of memory that a result is written to; bytes outside the record are dropped. -/
def collWrites (r : Record) (o : Nat) (bs : List Byte) : List (Nat × List Byte) :=
  let lim := recExtent r * recStep r
  if lim ≤ o ∨ bs = [] then [] else [((recBase r + o) % 2 ^ 57, bs.take (lim - o))]

/-- The memory form ends once the writes of its result are acknowledged: status, flip, and perhaps its block (R217, R426). -/
def State.finishColl (s : State) (i : Nat) (c : Collective) : State :=
  if s.engineAcked c.blk 6 then
    ((s.dropColl i).complete c.blk (clCompl c.desc) c.status c.rel c.scope).closeBlock c.blk
  else s

/-- The end of a collective at this device: its result delivered (R233, R234). -/
def State.endColl (s : State) (i : Nat) (c : Collective) : State :=
  match c.dest with
  | .none => s.dropColl i
  | .regs slot d W b64 => ((s.dropColl i).deliverColl c slot d W b64).closeBlock c.blk
  | .mem r =>
    let p := s.collParty c.blk
    let ws := if c.status = 0 then collWrites r (clDst c.desc) c.result else []
    if c.wrote then s.finishColl i c
    else if s.versionFull c.blk (s.writeLines p.ctx ws) then
      s.engineKill c.blk 0x0F (s.launch (s.block c.blk).launch).vbud
    else
      match s.deliverAll p ws with
      | .ok t =>
        (((t.dropKept p.who).settle p.ctx p.who).setColl c.launch c.grp c.n fun x => { x with wrote := true }).finishColl i c
      | .wait t => t
      | .denied => (s.setColl c.launch c.grp c.n fun c => { c with frozen := true }).freeze (s.channel c.blk)

/-- COLL_COMPLETION (R234): this device's contribution is made if it had to wait; once every member's is there, and in ring
phases every piece, the result is delivered. -/
def execCollCompletion (i : Nat) (s : State) : Res :=
  match s.collectives[i]? with
  | none => .next s
  | some c =>
    if !c.issued || c.frozen || decide (savedBlock ≤ c.blk) then .next s
    else if c.refused.isSome then .next (s.endColl i c)
    else if (Map.find c.parts c.rank).isNone then .next (if c.dest = .none then s.dropColl i else s.collSource c)
    else if !c.covered || !(c.mismatch || c.gatheredAll) then .next s
    else .next (s.endColl i c)

/-- Does a contribution add something: is it none that is here already, alone or combined with others, and if it covers this
member, has this member contributed? Contributions are combined in transit by the switches of a domain only (R429). -/
def State.collNew (s : State) (c : Collective) (dev d rank level : Nat) : Bool :=
  rank % 2 ^ level == 0 && (if level = 0 then dev == d && d != s.mss.domid else s.mss.topo != 1) &&
    !(c.parts.any fun q => decide (q.1 ≤ rank) && decide (rank + 2 ^ level ≤ q.1 + 2 ^ q.2.level)) &&
    (!(decide (rank ≤ c.rank) && decide (c.rank < rank + 2 ^ level)) || (partFor c.parts c.rank).isSome)

/-- COLLECTIVE_CONTRIBUTION (R349, R429): a contribution of the member with a rank, or of several from that rank on combined
in transit; or in ring phases a piece from the member before: of the reduce-scatter pass, which the member for whom it is
keeps and every other passes on, or of the all-gather pass, which every member keeps and passes on until the ring is closed.
What is here already changes nothing. -/
def execCollectiveContribution (dev launch grp n rank : Nat) (data : List Byte) (s : State) : Res :=
  let m := s.collMembers launch grp
  let p := collMsg data
  match m[rank]? with
  | none => .next s
  | some d =>
    let c := ((s.collIndex launch grp n).bind fun i => s.collectives[i]?).getD (s.collFresh launch grp n)
    let passes := dev == prevOf m s.mss.domid && d != s.mss.domid
    match p.phase with
    | 0 =>
      if s.collNew c dev d rank p.level then
        .next (s.setColl launch grp n fun c =>
          let rest := c.parts.filter fun q => !(decide (rank ≤ q.1) && decide (q.1 < rank + 2 ^ p.level))
          { c with parts := Map.set rest rank ⟨p.sig, p.data, p.level⟩ })
      else .next s
    | 1 =>
      if !passes || decide (m.length ≤ p.chunk) || (p.chunk == c.rank && (Map.find c.pieces rank).isSome) then .next s
      else if p.chunk = c.rank then
        .next ((s.setColl launch grp n fun c => { c with pieces := Map.set c.pieces rank ⟨p.sig, p.data, 0⟩ }).collAdvance
          launch grp n)
      else .next (s.sendNext launch grp n p)
    | _ =>
      if !passes || (Map.find c.gathered rank).isSome then .next s
      else
        let t := s.setColl launch grp n fun c => { c with gathered := Map.set c.gathered rank p.data }
        .next (if nextOf m s.mss.domid = d then t else t.sendNext launch grp n p)

/-! ### ENQ (R235, R341) -/

/-- Is a device-queue entry within its limits? (R341) -/
def entryOk (e : List Byte) : Bool :=
  let gx := field e 0x00 4
  let gy := field e 0x04 2
  let gz := field e 0x06 2
  gx != 0 && gy != 0 && gz != 0 && decide (gx * gy * gz < 2 ^ 32) && field e 0x08 8 % 16 == 0 &&
    decide (field e 0x10 4 < 2) && field e 0x14 12 == 0

/-- The device queue that a handle names in a context (R340). -/
def Context.devQueue (c : Context) (h : Nat) : Option DevQueue :=
  (Map.find c.devQueues (h % 1024)).filter fun q => q.inUse && !q.freed && h == q.gen * 2 ^ 16 + h % 1024

/-- What an offer of an entry comes to: the context and the status (R235). -/
def Context.offer (c : Context) (h : Nat) (e : List Byte) : Context × Nat :=
  match c.devQueue h with
  | none => (c, 2)
  | some q =>
    if !entryOk e then (c, 3)
    else if 2 ^ q.logcap ≤ q.entries.length then (c, 1)
    else
      let q' := { q with entries := q.entries ++ [(q.accepted, e)], accepted := q.accepted + 1 }
      ({ c with devQueues := Map.set c.devQueues (h % 1024) q' }, 0)

/-- The entry accepted last put into the storage of its device queue, where its page translates (R340; log entry 96). -/
def State.storeEntry (s : State) (ctx h : Nat) (e : List Byte) : State :=
  match (s.ctx ctx).devQueue h with
  | none => s
  | some q =>
    match s.deliver ⟨ctx, 2 ^ 40, .queue q.queue, 0xFFFF, q.queue, 4⟩ .write
        ((q.store + 64 * ((q.accepted - 1) % 2 ^ q.logcap)) % 2 ^ 57) e with
    | .ok t => t
    | _ => s

/-- ENQ (R219, R235): in proof mode it raises PROT with reason 9 (R344). -/
def execEnq (g : Guard) (d : Nat) (_rel : Bool) (_sc : Scope) (a : Src) (off h : Word) (s : State) : Res :=
  let W := s.wset g
  let W1 := W &&& LaneMask.one W.lowest
  let bk := s.me.blk
  let addr := s.me.sramAt a off W.lowest
  let gate := ((s.memGate W1 0 false).and (s.sramGate bk W1 (fun _ => addr) 64 64)).and (s.releaseGate W1 (W != 0))
  let e := leBytes 64 (s.sramNat bk addr 64)
  let r := (s.ctx s.myCtx).offer h.toNat e
  s.stageOne a.scalar (Gate.trapIf s.myLaunch.proof 0x08 9) <|
    s.produceThen W a.scalar (a.uses 1) gate [(d, .u (BitVec.ofNat 32 r.2))] fun t =>
      if W = 0 ∨ r.2 ≠ 0 then t else (t.setCtx s.myCtx r.1).storeEntry s.myCtx h.toNat e

end Sys2Proof.Machine
end

