-- ==== Sys2Proof/Machine/Render.lean ====
section
/-! DEFINITION. The rendering pipeline (R238 to R240, R363, R373 to R380): the classifier and EMITP, the rasteriser,
fragment lists, tile memory and TBLEND, moments and MOMACC, and primitives between devices. -/

namespace Sys2Proof.Machine

/-! ### The target (R363, R379) -/

def Launch.tgt (l : Launch) : List Byte := l.target.getD []
def Launch.width (l : Launch) : Nat := field l.tgt 0x20 2
def Launch.height (l : Launch) : Nat := field l.tgt 0x22 2
def Launch.mom (l : Launch) : Nat := field l.tgt 0x10 8
def Launch.ratemap (l : Launch) : Nat := field l.tgt 0x18 8
def Launch.centroid (l : Launch) : Bool := bitOf (field l.tgt 0x39 1) 0
/-- The edge of a region in pixels. -/
def Launch.region (l : Launch) : Nat := 2 ^ field l.tgt 0x38 1
/-- Regions in a row, and rows of regions. -/
def Launch.regionsX (l : Launch) : Nat := (l.width + l.region - 1) / l.region
def Launch.regionsY (l : Launch) : Nat := (l.height + l.region - 1) / l.region

/-- The device that owns a region, when one does (R379). -/
def Launch.regionOwner (l : Launch) (rx ry : Nat) : Option Nat :=
  (l.ownerMap[ry * l.regionsX + rx]?).bind fun rank => (l.members (field l.tgt 0x3A 1))[rank]?

/-- Does a device own a pixel? Without an owner map this device owns every one (R379). -/
def Launch.owns (l : Launch) (dev x y : Nat) : Bool :=
  l.owners == 0 || l.regionOwner (x / l.region) (y / l.region) == some dev

/-! ### The classifier (R373) -/

/-- A coordinate snapped to 1/256 pixel under RNE. -/
def snap (q : Rat) : Int :=
  if q < 0 then -(roundInt .rn true (-q * 256) : Int) else (roundInt .rn false (q * 256) : Int)

/-- A vertex: clip-space x, y, z, w as words. -/
def vertexAt (bs : List Byte) (i k : Nat) : Word := BitVec.ofNat 32 (field bs (16 * i + 4 * k) 4)

/-- Is a vertex unusable? (R373 step 1) -/
def vertexBad (bs : List Byte) (i : Nat) : Bool :=
  (List.range 4).any (fun k => !(valF (vertexAt bs i k)).isFinite) || leV (valF (vertexAt bs i 3)) (.zero false)

/-- Twice the signed area of corners in 1/256 pixel, y measured upward (R373 step 3). -/
def area2 (xs ys : Vector Int 3) : Int :=
  (xs[2] - xs[0]) * (ys[1] - ys[0]) - (xs[1] - xs[0]) * (ys[2] - ys[0])

/-- A primitive record classified; nothing when it is discarded or culled (R238, R373). -/
def classify (l : Launch) (lk dev block index : Nat) (bs : List Byte) : Option Prim :=
  if vertexBad bs 0 || vertexBad bs 1 || vertexBad bs 2 then none
  else
    let q (i k : Nat) : Rat := ratF (vertexAt bs i k) / ratF (vertexAt bs i 3)
    let xs : Vector Int 3 := Vector.ofFn fun i => snap ((q i.val 0 + 1) * l.width / 2)
    let ys : Vector Int 3 := Vector.ofFn fun i => snap ((1 - q i.val 1) * l.height / 2)
    let a := area2 xs ys
    let flags := field bs 0x38 4
    if a = 0 ∨ (bitOf flags 0 = true ∧ a < 0) ∨ (bitOf flags 1 = true ∧ 0 < a) then none
    else
      some {
        launch := lk
        dev := dev
        block := block
        index := index
        xs := xs
        ys := ys
        ws := Vector.ofFn fun i => vertexAt bs i.val 3
        primid := BitVec.ofNat 32 (field bs 0x30 4)
        attr := BitVec.ofNat 32 (field bs 0x34 4)
        fixedPath := decide (l.classArea < a.natAbs / 8192) }

/-- The least and the greatest of three coordinates. -/
def least (v : Vector Int 3) : Int := min v[0] (min v[1] v[2])
def greatest (v : Vector Int 3) : Int := max v[0] (max v[1] v[2])

/-- The owners of the regions that a primitive's bounding box touches, each once (R379). -/
def Launch.primOwners (l : Launch) (p : Prim) : List Nat :=
  let e : Int := 256 * (l.region : Int)
  ((List.range l.regionsY).flatMap fun (ry : Nat) => (List.range l.regionsX).filterMap fun (rx : Nat) =>
    if least p.xs ≤ ((rx : Int) + 1) * e ∧ (rx : Int) * e ≤ greatest p.xs ∧
        least p.ys ≤ ((ry : Int) + 1) * e ∧ (ry : Int) * e ≤ greatest p.ys then
      l.regionOwner rx ry
    else none).dedup

/-- A signed number in a message: 40 bytes, two's complement. -/
def intBytes (x : Int) : List Byte := leBytes 40 (wrapInt 320 x)
def bytesInt (bs : List Byte) (o : Nat) : Int := intOf true 320 (field bs o 40)

/-- A primitive as a message (the format is the model's own). -/
def primBytes (p : Prim) : List Byte :=
  leBytes 4 p.block ++ leBytes 4 p.index ++ p.xs.toList.flatMap intBytes ++ p.ys.toList.flatMap intBytes ++
    p.ws.toList.flatMap (fun w => leBytes 4 w.toNat) ++ leBytes 4 p.primid.toNat ++ leBytes 4 p.attr.toNat ++
    leBytes 1 (if p.fixedPath then 1 else 0)

/-- The primitive in a message. -/
def bytesPrim (lk dev : Nat) (bs : List Byte) : Prim where
  launch := lk
  dev := dev
  block := field bs 0 4
  index := field bs 4 4
  xs := Vector.ofFn fun i => bytesInt bs (8 + 40 * i.val)
  ys := Vector.ofFn fun i => bytesInt bs (128 + 40 * i.val)
  ws := Vector.ofFn fun i => BitVec.ofNat 32 (field bs (248 + 4 * i.val) 4)
  primid := BitVec.ofNat 32 (field bs 260 4)
  attr := BitVec.ofNat 32 (field bs 264 4)
  fixedPath := field bs 268 1 == 1

/-- A primitive handed to its owners (R373, R379); none of a launch that has lost a link is drawn (R381). -/
def State.sendPrim (s : State) (l : Launch) (p : Prim) : State :=
  if l.devlost then s
  else if l.owners = 0 then { s with prims := s.prims ++ [p] }
  else
    let ds := l.primOwners p
    let s := if ds.contains s.mss.domid then { s with prims := s.prims ++ [p] } else s
    (ds.filter fun d => d != s.mss.domid).foldl (fun s d => s.send d msgPrim p.block (primBytes p)) s

/-- The record of a lane emitted: it takes the block's next emission index (R238). -/
def State.emitRecord (s : State) (bk : Nat) (bs : List Byte) : State :=
  let b := s.block bk
  let l := s.launch b.launch
  let s := s.setBlock bk { b with emitted := b.emitted + 1 }
  match classify l b.launch s.mss.domid b.n b.emitted bs with
  | some p => s.sendPrim l p
  | none => s

/-- Does a primitive record hold a reserved bit? (R238) -/
def primReserved (bs : List Byte) : Bool := decide (4 ≤ field bs 0x38 4) || field bs 0x3C 4 != 0

/-- Is the primitive output of a block too full for n more primitives? Those that are not drawn yet fill it (R238; log entry
80). -/
def State.outputFull (s : State) (bk n : Nat) : Bool :=
  let b := s.block bk
  let k := (s.prims.filter fun p => p.launch == b.launch && p.dev == s.mss.domid && p.block == b.n).length
  decide (32 < k + n) && decide (Config.primRoom + 32 < k + n)

/-- EMITP (R238, R373): it waits where the output is full. -/
def execEmitp (g : Guard) (a : Src) (off : Word) (s : State) : Res :=
  let W := s.wset g
  let bk := s.me.blk
  let rec' (l : Fin 32) : List Byte := leBytes 64 (s.sramNat bk (s.me.sramAt a off l) 64)
  let gate := ((s.memGate W 0 false).and (s.sramGate bk W (s.me.sramAt a off) 64 64)).and
    ((Gate.trapIf ((LaneMask.lanes W).any fun l => primReserved (rec' l)) 0x08 10).and
      (if s.outputFull bk (LaneMask.count W) then .wait else .go))
  s.stageOne a.scalar (Gate.trapIf (s.myLaunch.ltype != 1) 0x08 8) <|
    s.perform a.scalar (a.uses 1) gate fun t =>
      .next ((LaneMask.lanes W).foldl (fun t l => t.emitRecord bk (rec' l)) t).advance

/-! ### The rasteriser (R374, R379, R380) -/

/-- The edge function of corners i and j at a point, positive on the side of the third corner k. -/
def Prim.edge (p : Prim) (i j k : Fin 3) (x y : Int) : Int :=
  let e (x y : Int) : Int :=
    (p.xs.get j - p.xs.get i) * (y - p.ys.get i) - (p.ys.get j - p.ys.get i) * (x - p.xs.get i)
  if e (p.xs.get k) (p.ys.get k) < 0 then -e x y else e x y

/-- Is the edge of corners i and j a top edge or a left edge? y grows downward (R374). -/
def Prim.topLeft (p : Prim) (i j k : Fin 3) : Bool :=
  if p.ys.get i = p.ys.get j then decide (p.ys.get i < p.ys.get k)
  else decide (0 < p.edge i j k (p.xs.get i + 1) (p.ys.get i))

/-- Does a primitive cover a point? (R374) -/
def Prim.covers (p : Prim) (x y : Int) : Bool :=
  let side (i j k : Fin 3) : Bool :=
    let e := p.edge i j k x y
    decide (0 < e) || (decide (e = 0) && p.topLeft i j k)
  side 1 2 0 && side 2 0 1 && side 0 1 2

/-- The depth at a point (R374). -/
def Prim.depth (p : Prim) (x y : Int) : Word :=
  let e0 := p.edge 1 2 0 x y
  let e1 := p.edge 2 0 1 x y
  let e2 := p.edge 0 1 2 x y
  let q : Rat := ((e0 : Rat) / ratF (p.ws.get 0) + (e1 : Rat) / ratF (p.ws.get 1) + (e2 : Rat) / ratF (p.ws.get 2)) /
    ((e0 + e1 + e2 : Int) : Rat)
  roundWord .rn (1 / q)

/-- The pixels from one snapped coordinate to another within a size. -/
def pixelSpan (lo hi : Int) (size : Nat) : List Nat :=
  let a := (lo / 256).toNat
  (List.range (min size ((hi / 256).toNat + 1) - a)).map fun i => a + i

/-- The visibility updates of a primitive at this device: address and entry (R364, R374, R379). -/
def State.primUpdates (s : State) (l : Launch) (p : Prim) : List (Nat × Nat) :=
  (pixelSpan (least p.ys) (greatest p.ys) l.height).flatMap fun (y : Nat) =>
    (pixelSpan (least p.xs) (greatest p.xs) l.width).filterMap fun (x : Nat) =>
      let cx : Int := 256 * (x : Int) + 128
      let cy : Int := 256 * (y : Int) + 128
      if l.owns s.mss.domid x y && p.covers cx cy then
        (visAddr l.target x y).map fun a => (a, visEntry (p.depth cx cy) p.primid.toNat)
      else none

/-- The access party of a launch's packet at the GSC and the rasteriser. -/
def State.gscParty (_s : State) (l : Launch) : Party := ⟨l.ctx, 2 ^ 40, .queue l.queue, 0xFFFF, l.queue, 4⟩

/-- Updates made one by one; each is a maximum, so that those made before a wait may be made again (R374). -/
def State.maxUpdates (s : State) (p : Party) : List (Nat × Nat) → Put
  | [] => .ok s
  | u :: us =>
    match s.visUpdate p 84 (fun new old => decide (old < new)) u.1 u.2 with
    | .ok t => t.maxUpdates p us
    | r => r

/-- Sequence order of primitives (R238, R380). -/
def Prim.before (p q : Prim) : Bool := decide (p.block < q.block) || (p.block == q.block && decide (p.index < q.index))

/-- The first primitive of a launch in sequence order, when every block below its block has sent its mark: without an owner map,
every one that this device runs (R380). -/
def State.nextPrim (s : State) (lk : Nat) : Option Prim :=
  let ps := s.prims.filter fun p => p.launch == lk
  let first := ps.foldl (fun (o : Option Prim) p =>
    match o with
    | some q => if p.before q then some p else some q
    | none => some p) none
  first.bind fun p =>
    let l := s.launch lk
    let told (n : Nat) : Bool := (l.owners == 0 && decide (n < l.first)) || s.marks.any fun m => m.1 == lk && m.2.2.1 == n
    if (List.range p.block).all told then some p else none

/-- The launches of a hardware queue. -/
def State.queueLaunches (s : State) (q : Nat) : List (Nat × Launch) :=
  s.launches.filter fun p => p.2.queue == q && p.2.phase == .running

/-- RASTERISE_PRIMITIVE (R374, R380). -/
def execRasterisePrimitive (q : Nat) (s : State) : Res :=
  match (s.queueLaunches q).findSome? fun p => (s.nextPrim p.1).map fun x => (p.2, x) with
  | none => .next s
  | some (l, x) =>
    let p := s.gscParty l
    if s.isFrozen (.queue q) then .next s
    else
      match s.maxUpdates p (s.primUpdates l x) with
      | .ok t => .next { t with prims := t.prims.erase x }
      | .wait t => .next t
      | .denied => .next (s.freeze (.queue q))

/-- The blocks that a device runs: all, or its share of a spread launch (R350). -/
def Launch.shareOf (l : Launch) (d : Nat) : Nat × Nat :=
  if l.multi then
    match ((l.groups[l.pg]?).bind Group.members) with
    | some m =>
      let r := m.idxOf d
      (r * l.blocks / m.length, (r + 1) * l.blocks / m.length)
    | none => (0, 0)
  else (0, l.blocks)

/-- Does a launch wait for a device as an owner: is a block-end mark of the device's blocks not there yet? (R380, R381) -/
def State.awaitsMarks (s : State) (lk : Nat) (l : Launch) (d : Nat) : Bool :=
  let r := l.shareOf d
  (List.range (r.2 - r.1)).any fun i => !s.marks.any fun m => m.1 == lk && m.2.2.1 == r.1 + i

/-- The geometry launch that a message from a device belongs to: the first running one whose owner group it is in and to which
the device has still to send. -/
def State.geometryLaunch (s : State) (dev : Nat) : Option (Nat × Launch) :=
  s.launches.find? fun p => p.2.phase == .running && p.2.ltype == 1 && p.2.owners != 0 &&
    (p.2.members (field p.2.tgt 0x3A 1)).contains dev && s.awaitsMarks p.1 p.2 dev

/-- The device that sends a message of geometry. -/
def Geo.dev (g : Geo) : Nat :=
  match g with
  | .prim d _ => d
  | .mark d _ _ => d

/-- A message of geometry taken by the launch to which it belongs, or held until the packet runs here (R379, R380). -/
def State.takeGeo (s : State) (g : Geo) : State :=
  match s.geometryLaunch g.dev, g with
  | none, _ => { s with early := s.early ++ [g] }
  | some p, .prim d bs => if p.2.devlost then s else { s with prims := s.prims ++ [bytesPrim p.1 d bs] }
  | some p, .mark d blk n => { s with marks := s.marks ++ [(p.1, d, blk, n)] }

/-- The messages of geometry that were held, taken as far as their launches run now. -/
def State.takeEarly (s : State) : State := s.early.foldl State.takeGeo { s with early := [] }

/-- PRIMITIVE_FORWARD (R379, R380). -/
def execPrimitiveForward (dev : Nat) (prim : List Byte) (s : State) : Res := .next (s.takeGeo (.prim dev prim))

/-- BLOCK_END_MARK (R380). -/
def execBlockEndMark (dev blk n : Nat) (s : State) : Res := .next (s.takeGeo (.mark dev blk n))

/-! ### Fragment lists (R375, R376) -/

/-- The side of a coarse pixel of a rate byte (R375). -/
def rateSide (r : Nat) : Nat :=
  match r with
  | 1 => 2
  | 2 => 4
  | _ => 1

/-- The PRIMID that a sample shows: nothing for an empty entry or a sample out of bounds. -/
def shown (l : Launch) (x0 y0 : Nat) (vis : List Byte) (r c : Nat) : Option Nat :=
  let e := field vis (8 * (32 * r + c)) 8
  if x0 + c < l.width ∧ y0 + r < l.height ∧ e ≠ 0 then some (e % 2 ^ 32) else none

/-- Inserts a number into an ascending list without repeats. -/
def insertNat (x : Nat) : List Nat → List Nat
  | [] => [x]
  | y :: ys => if x < y then x :: y :: ys else if x = y then y :: ys else y :: insertNat x ys

/-- The mean of sample centres in 1/256 pixel, rounded under RNE (R376). -/
def centroidOf (ks : List Nat) : Nat :=
  roundInt .rn false (((ks.foldl (fun n k => n + 256 * k + 128) 0 : Nat) : Rat) / (ks.length : Nat))

/-- The fragments of a tile: origin, PRIMID, mask, and the 16 bytes of the record, given the tile's 8-byte entries row by
row and its rate byte (R376). -/
def fragmentsOf (l : Launch) (x0 y0 rate : Nat) (vis : List Byte) : List (Nat × Nat × Nat × List Byte) :=
  let c := rateSide rate
  (List.range (32 / c)).flatMap fun cy => (List.range (32 / c)).flatMap fun cx =>
    let samples := (List.range (c * c)).map fun j => (j, shown l x0 y0 vis (c * cy + j / c) (c * cx + j % c))
    let ids := (samples.filterMap Prod.snd).foldl (fun xs x => insertNat x xs) []
    ids.map fun id =>
      let js := (samples.filter fun q => q.2 == some id).map Prod.fst
      let mask := js.foldl (fun m j => m + 2 ^ j) 0
      let pix := (x0 + c * cx) + 2 ^ 16 * (y0 + c * cy)
      let offx := if l.centroid then centroidOf (js.map fun j => j % c) else 128 * c
      let offy := if l.centroid then centroidOf (js.map fun j => j / c) else 128 * c
      (pix, id, mask, leBytes 4 pix ++ leBytes 4 id ++ leBytes 2 mask ++ leBytes 1 (if rate < 3 then rate else 0) ++
        leBytes 1 js.length ++ leBytes 2 offx ++ leBytes 2 offy)

/-- Bytes put into a block area, those at and beyond its end dropped. -/
def putArea (limit : Nat) (m : Mem) (o : Nat) (bs : List Byte) : Mem := m.putBytes o (bs.take (limit - o))

/-- The fragment list of a block in its area, and the list kept for the blender (R376). -/
def Block.withFragments (b : Block) (limit rate : Nat) (fs : List (Nat × Nat × Nat × List Byte)) : Block :=
  let kept := fs.zipIdx.filterMap fun q => if 0x50 + 16 * q.2 + 16 ≤ limit then some q.1 else none
  let head := leBytes 4 kept.length ++ leBytes 4 fs.length ++ leBytes 8 0
  let area := kept.zipIdx.foldl (fun m q => putArea limit m (0x50 + 16 * q.2) q.1.2.2.2) (putArea limit b.area 0x40 head)
  { b with area := area, frags := kept.map fun f => (f.1, f.2.2.1, rateSide rate) }

/-! ### Tile memory: coverage and TBLEND (R239, R377) -/

/-- The pixels of a fragment's mask. -/
def fragPixels (f : Nat × Nat × Nat) : List (Nat × Nat) :=
  let c := f.2.2
  ((List.range (c * c)).filter fun j => bitOf f.2.1 j).map fun j => (f.1 % 2 ^ 16 + j % c, f.1 / 2 ^ 16 + j / c)

/-- Is a pixel in a fragment's coarse pixel? -/
def inCoarse (f : Nat × Nat × Nat) (x y : Nat) : Bool :=
  x / f.2.2 == f.1 % 2 ^ 16 / f.2.2 && y / f.2.2 == f.1 / 2 ^ 16 / f.2.2

/-- The pixels that a thread's operation on pixel P reaches (R377). -/
def State.covered (_s : State) (l : Launch) (b : Block) (x : Lane) (pix : Word) : List (Nat × Nat) :=
  let px := pix.toNat % 2 ^ 16
  let py := pix.toNat / 2 ^ 16
  let t := l.bid b.n
  let inTile := px / 32 == t.1 && py / 32 == t.2.1 && decide (px < l.width) && decide (py < l.height)
  match b.frags[linearIndex l x]? with
  | some f => if inCoarse f px py then fragPixels f else if inTile then [(px, py)] else []
  | none => if inTile then [(px, py)] else []

/-- One channel blended (R239). -/
def blend (op : BlendOp) (s d alpha : Nat) : Nat :=
  let v (x : Nat) : Val := fp16.decode x
  let out (e : Exact) : Nat := (e.round fp16 .rn false).bits
  match op with
  | .rep => (fp16.round .rn true false (v s)).bits
  | .over => out (Val.fma .rn (v d) (Val.add .rn (.num 1) (v alpha).negate).val (v s))
  | .add => out (Val.add .rn (v s) (v d))
  | .min => (fp16.minmax false false s d).bits
  | .max => (fp16.minmax false true s d).bits

/-- A tile pixel blended with a colour of four channels. -/
def blendPixel (op : BlendOp) (m : Mem) (b : Nat × Nat) (c : Nat) : Mem :=
  let o := 8 * (32 * (b.2 % 32) + b.1 % 32)
  (List.range 4).foldl (fun m k =>
    m.write (o + 2 * k) 2 (blend op (c / 2 ^ (16 * k) % 2 ^ 16) (m.read (o + 2 * k) 2) (c / 2 ^ 48 % 2 ^ 16))) m

/-- TBLEND (R239, R377). -/
def execTblend (g : Guard) (op : BlendOp) (a : Src) (v : VSrc) (s : State) : Res :=
  let W := s.wset g
  let bk := s.me.blk
  let w := s.me
  s.stageOne a.scalar (Gate.trapIf (s.myLaunch.ltype != 2) 0x08 8) <|
    s.perform a.scalar (a.uses 1 ++ v.uses 2) (s.memGate W 0 false) fun t =>
      .next ((LaneMask.lanes W).foldl (fun t l =>
        let b := t.block bk
        let ps := t.covered s.myLaunch b w.lanes[l] ((w.src a).lane l)
        t.setBlock bk { b with tile := ps.foldl (fun m p => blendPixel op m p (w.pair v l).toNat) b.tile }) t).advance

/-! ### Moments (R240, R378) -/

/-- The absorbance of an opacity (R240). -/
def absorbance (alpha : Word) : Rat :=
  match valF alpha with
  | .nan _ => 16
  | .inf neg => if neg then 0 else 16
  | .zero _ => 0
  | .num q =>
    if 1 ≤ q then 16
    else if q ≤ 0 then 0
    else
      let e := absorbanceEnc q
      (e.lo + e.hi) / 2

/-- A sum with a term added, rounded once (R240). -/
def addMoment (old : Nat) (term : Val) : Nat :=
  ((Val.add .rn (fp32.decode old) term).round fp32 .rn false).bits

/-- a · zᵏ. -/
def momentTerm (a : Rat) (z : Val) : Nat → Val
  | 0 => .ofRat false a
  | k + 1 => (Val.mul (momentTerm a z k) z).val

/-- The address of a pixel's slot in MOM (R363, R378). -/
def momAddr (l : Launch) (x y : Nat) : Nat := (l.mom + y * field l.tgt 0x2C 4 + 32 * x) % 2 ^ 57

/-- The sums of a pixel with one contribution added: 20 bytes. -/
def addMoments (old : List Byte) (a : Rat) (z : Val) : List Byte :=
  (List.range 5).flatMap fun k => leBytes 4 (addMoment (field old (4 * k) 4) (momentTerm a z k))

/-- The message kind of a contribution to moments at its home, one read-modify-write there: opacity and depth (the code is
the model's own; R378). -/
def msgMom : Nat := 34

/-- A contribution to a pixel: the address of its sums, opacity, depth, and the lane that makes it. -/
structure MomAdd where
  addr : Nat
  alpha : Word
  depth : Word
  lane : Nat
  deriving DecidableEq, Repr

/-- The sums of a pixel with a contribution added. -/
def MomAdd.sums (u : MomAdd) (old : List Byte) : List Byte := addMoments old (absorbance u.alpha) (valF u.depth)

/-- The place outside the device of a pixel's sums, whose home adds to them; nothing where this device does. -/
def State.momHome (s : State) (p : Party) (ps : List (Xlat × Nat)) : Option Nat :=
  match ps with
  | [(x, _)] => if isExternal x.loc && !x.disc && !s.versioned p.bk then some x.loc else none
  | _ => none

/-- May contributions be made, each of them? The first that may not decides. -/
def State.momGate (s : State) (p : Party) : List MomAdd → Put
  | [] => .ok s
  | u :: us =>
    match s.rangeWalk p.ctx .both u.addr 20 with
    | .denied => .denied
    | .moving => .wait s
    | .fault x r => .wait (s.faultLane p true x r u.lane)
    | .ok ps =>
      if s.waitsOn p.ctx p.who u.addr 20 then .wait s
      else if (s.momHome p ps).isSome then s.momGate p us
      else
        match s.fetch p u.addr 20 with
        | .ok _ => s.momGate p us
        | .wait t => .wait t
        | .denied => .denied

/-- One contribution made: an indivisible read-modify-write, here or at the home of the sums (R378). -/
def State.momPut (s : State) (p : Party) (u : MomAdd) : State :=
  match s.rangeWalk p.ctx .both u.addr 20 with
  | .ok ps =>
    match s.momHome p ps with
    | some loc =>
      let at' := s.place loc
      s.request ⟨0, at'.1, msgMom, at'.2, leBytes 4 u.alpha.toNat ++ leBytes 4 u.depth.toNat, 20, p.who, p.ctx, [],
        none, 0, 0, u.lane⟩
    | none =>
      match s.fetch p u.addr 20 with
      | .ok bs => s.putPieces p ps (u.sums bs)
      | _ => s
  | _ => s

/-- step of a number (R378). -/
def step01 (x : Rat) : Rat := if x < 0 then 0 else if x = 0 then 1 / 2 else 1

/-- The steps at the two nodes zl and zh for a depth x above b1: they are the roots, one below 0 and one above, of
x² − (c/s)·x − s, where c/s = g·√s is rational, so that the signs are exact (R378). -/
def nodeSteps (c v x : Rat) : Rat × Rat :=
  let q := x * x - c / v * x - v
  (if x < 0 then step01 (-q) else 1, if 0 < x then step01 q else 0)

/-- The optical depth in front of a depth, from the first four sums (R378). -/
def opticalDepth (m0 m1 m2 m3 z : Rat) : Rat :=
  let b1 := m1 / m0
  let b2 := m2 / m0
  let b3 := m3 / m0
  let v := b2 - b1 * b1
  if v ≤ pow2 (-40) then m0 * step01 (z - b1)
  else
    let c := b3 - 3 * b1 * b2 + 2 * b1 * b1 * b1
    let g2 := c * c / (v * v * v)
    let h := sqrtRat (g2 / (g2 + 4))
    let p := (1 + if c < 0 then -h else h) / 2
    let steps := nodeSteps c v (z - b1)
    m0 * (p * steps.1 + (1 - p) * steps.2)

/-- step(z − b) of extended reals; nothing for infinities of one sign. -/
def stepAt (z b : Val) : Option Rat :=
  match z, b with
  | .inf m, .inf n => if m = n then none else some (if m then 0 else 1)
  | .inf m, _ => some (if m then 0 else 1)
  | _, .inf n => some (if n then 1 else 0)
  | z, b => some (step01 (z.toRat - b.toRat))

/-- The optical depth where inputs may be infinite, none of them NaN; nothing where the formula has no value (R378; log entry
40). One node stands at b1 where s is at most 2⁻⁴⁰, −∞ among that, and where g is infinite. -/
def depthAt (m0 m1 m2 m3 z : Val) : Option Rat :=
  let single (b1 : Val) : Option Rat := (stepAt z b1).map fun x => m0.toRat * x
  if !m0.isFinite then none
  else if !m1.isFinite then (if m2 = .inf false then none else single m1)
  else
    let b1 := m1.toRat / m0.toRat
    match m2 with
    | .inf n => if n then single (.ofRat false b1) else none
    | m2 =>
      if m2.toRat / m0.toRat - b1 * b1 ≤ pow2 (-40) ∨ m3.isFinite = false then single (.ofRat false b1)
      else
        match z with
        | .inf n => some (if n then 0 else m0.toRat)
        | z => some (opticalDepth m0.toRat m1.toRat m2.toRat m3.toRat z.toRat)

/-- The reconstructed transmittance (R378); where infinite inputs leave the formula without a value the result is free (log
entries 7 and 40). -/
def transmittance (sums : List Byte) (z : Word) : Word :=
  let m (k : Nat) : Val := fp32.decode (field sums (4 * k) 4)
  if [m 0, m 1, m 2, m 3, valF z].any Val.isNan || leV (m 0) (.zero false) then 0x3F800000
  else
    match depthAt (m 0) (m 1) (m 2) (m 3) (valF z) with
    | none => Config.unstated 9 z (BitVec.ofNat 32 (field sums 0 4))
    | some a =>
      if 200 < a then 0
      else
        let e := expEnc (-a)
        BitVec.ofNat 32 (rneBits ((e.lo + e.hi) / 2))

/-- The accumulation form of MOMACC. -/
def State.momAdd (s : State) (W : LaneMask) (a b : Src) : Res :=
  let w := s.me
  let l := s.myLaunch
  let bk := w.blk
  let p := s.me'
  let us := if l.mom = 0 then []
    else (LaneMask.lanes W).flatMap fun i =>
      (s.covered l s.myBlock w.lanes[i] ((w.src a).lane i)).map fun q =>
        (⟨momAddr l q.1 q.2, (w.srcAt b 1).lane i, (w.srcAt b 0).lane i, i.val⟩ : MomAdd)
  let r := s.momGate p us
  let lines := s.writeLines l.ctx (us.map fun u => (u.addr, List.replicate 20 (0 : Byte)))
  let full := Gate.trapIf (s.versionFull bk lines) 0x0F l.vbud
  match ((s.readGate (a.scalar || b.scalar) (a.uses 1 ++ b.uses 2)).and (s.memGate W 0 false)).and
      ((match r with
        | .denied => Gate.trap 0x08 4
        | _ => .go).and full) with
  | .wait => .next s
  | .trap code detail => s.trap code detail
  | .go =>
    match r with
    | .ok _ =>
      let t := ((us.foldl (fun t u => t.momPut p u) s).dropKept p.who).settle p.ctx p.who
      .next (t.setMe (t.me.free (s.frees (a.uses 1 ++ b.uses 2) []))).advance
    | .wait t => .next t
    | .denied => .next s

/-- The bytes of a range read for a lane, which its fault names (R382). -/
def State.fetchLane (s : State) (p : Party) (va n lane : Nat) : Got :=
  match s.rangeWalk p.ctx .read va n with
  | .fault a r => .wait (s.faultLane p false a r lane)
  | _ => s.fetch p va n

/-- The sums of the pixels that a reconstruction reads, lane by lane; nothing for a pixel that is dropped. -/
def State.momSums (s : State) (p : Party) (l : Launch) : List (Nat × Option (Nat × Nat)) → Got
  | [] => .ok []
  | (_, none) :: qs =>
    match s.momSums p l qs with
    | .ok bs => .ok (List.replicate 20 0 ++ bs)
    | r => r
  | (i, some q) :: qs =>
    match s.fetchLane p (momAddr l q.1 q.2) 20 i with
    | .ok bs =>
      match s.momSums p l qs with
      | .ok more => .ok (bs ++ more)
      | r => r
    | r => r

/-- The reconstruction form of MOMACC: sums that are all zero give 1.0, as does a pixel that is dropped. -/
def State.momRead (s : State) (W : LaneMask) (d : Nat) (a b : Src) : Res :=
  let w := s.me
  let l := s.myLaunch
  let p := s.me'
  let pixel (i : Fin 32) : Option (Nat × Nat) :=
    let x := (w.src a).lane i
    if l.mom = 0 ∨ s.covered l s.myBlock w.lanes[i] x = [] then none else some (x.toNat % 2 ^ 16, x.toNat / 2 ^ 16)
  let ls := LaneMask.lanes W
  let r := s.momSums p l (ls.map fun i => (i.val, pixel i))
  let check := (s.memGate W 0 false).and (match r with
    | .denied => Gate.trap 0x08 4
    | _ => .go)
  let us := a.uses 1 ++ b.uses 1
  match r with
  | .wait t =>
    match ((s.readGate (a.scalar || b.scalar) us).and check).and (s.destGate W us [d]) with
    | .go => .next t
    | .trap code detail => s.trap code detail
    | .wait => .next s
  | r =>
    let bs := match r with
      | .ok bs => bs
      | _ => []
    let value (i : Fin 32) : Word := transmittance ((bs.drop (20 * ls.idxOf i)).take 20) ((w.src b).lane i)
    s.produceThen W (a.scalar || b.scalar) us check [(d, .g (Lanes.of value))] fun t =>
      (t.dropKept p.who).settle p.ctx p.who

/-- MOMACC (R240, R378). -/
def execMomacc (g : Guard) (d : Nat) (rec' : Bool) (a b : Src) (s : State) : Res :=
  s.stageOne (a.scalar || b.scalar) (Gate.trapIf (s.myLaunch.ltype != 2) 0x08 8) <|
    if rec' then s.momRead (s.wset g) d a b else s.momAdd (s.wset g) a b

end Sys2Proof.Machine
end

