-- ==== Sys2Proof/Machine/WarpEvents.lean ====
section
/-! DEFINITION. Events of warps: results written back (R23), the request collector's windows (R187), the ends of waits
(R135, R136, R197, R204), replay of logged instructions (R213), the handler's budget (R386), and the moves of segments
(R310). -/

namespace Sys2Proof.Machine

/-! ### The run that issues (R98, R100) -/

/-- The threads that may issue: within a handler those of the trapping run only (R384). -/
def Warp.issuable (w : Warp) : LaneMask := if w.hndl then w.runnable &&& w.trapMask else w.runnable

/-- Is a thread before another in the order of issue: by greater age where `aged`, then by lower PC? -/
def Warp.before (w : Warp) (aged : Bool) (i j : Fin 32) : Bool :=
  if aged && w.lanes[i].age != w.lanes[j].age then decide (w.lanes[j].age < w.lanes[i].age)
  else decide (w.lanes[i].pc.toNat < w.lanes[j].pc.toNat)

/-- A thread of the run that issues: of greatest age from 224 on, else of the lowest PC (R14, R100). -/
def Warp.leader (w : Warp) : Option (Fin 32) :=
  let ls := LaneMask.lanes w.issuable
  let aged := ls.any fun l => decide (224 ≤ w.lanes[l].age)
  ls.foldl (fun (m : Option (Fin 32)) l =>
    match m with
    | none => some l
    | some k => if w.before aged l k then some l else some k) none

/-- The run that issues and its PC. -/
def Warp.nextRun (w : Warp) : Option (LaneMask × BitVec 55) :=
  w.leader.map fun k =>
    (LaneMask.of fun l => w.issuable.getLsbD l.val && w.lanes[l].pc == w.lanes[k].pc, w.lanes[k].pc)

/-! ### Results written back (R20, R23, R89) -/

/-- The warp with the pending bit of one lane of a register in flight cleared. -/
def Warp.arrived (w : Warp) (f : Inflight) (l : Fin 32) : Warp :=
  let one := LaneMask.one l
  let v := w.setVreg f.reg { w.vreg f.reg with pend := (w.vreg f.reg).pend &&& ~~~one }
  { v with inflight := v.inflight.map fun g => if g = f then { g with due := g.due &&& ~~~one } else g }

/-- LONG_LATENCY_WRITEBACK (R23): one thread's result of a register in flight; with the last one the register is written
by R20 and its flags are set; without a general slot for it, it waits and its warp issues nothing (R20, R25, R89). -/
def execLongLatencyWriteback (w r l : Nat) (s : State) : Res :=
  match Map.find s.warps w with
  | none => .next s
  | some x =>
    match x.inflight.find? fun f => f.reg == r && f.due.getLsbD l && !f.held.getLsbD l with
    | none => .next s
    | some f =>
      if f.due = LaneMask.one (Fin.ofNat 32 l) then
        .next (s.setWarp w (if s.landRoom w x f then s.landed w x f else x.stick r))
      else .next (s.setWarp w (x.arrived f (Fin.ofNat 32 l)))

/-! ### The request collector (R180, R187) -/

/-- COLLECTOR_WINDOW_CLOSE (R187): 64 cycles after the first request, or at 256 requests. -/
def execCollectorWindowClose (core : Nat) (s : State) : Res :=
  let c := s.core core
  if c.collector.isEmpty || (decide (c.collectorAge < 64) && decide (c.requests < 256)) then .next s
  else .next (s.closeWindow core)

/-! ### Waits that end (R135, R136) -/

/-- YIELD_RELEASE (R135): after 32 cycles, or when every other ready warp has issued. -/
def execYieldRelease (w : Nat) (s : State) : Res :=
  match Map.find s.warps w with
  | some x =>
    if x.aside = 1 ∨ (x.aside ≠ 0 ∧ x.asidePeers = []) then .next (s.setWarp w { x with aside := 0, asidePeers := [] })
    else .next s
  | none => .next s

/-- SLEEP_END (R136). -/
def execSleepEnd (w : Nat) (s : State) : Res :=
  match Map.find s.warps w with
  | some x => if x.sleep = 1 then .next (s.setWarp w { x with sleep := 0 }) else .next s
  | none => .next s

/-! ### Phase words and guards (R197, R204) -/

/-- A wait with one lane answered. -/
def Wait.answer (x : Wait) (l : Fin 32) (v : Word) : Wait :=
  { x with got := x.got.set l.val v, due := x.due &&& ~~~LaneMask.one l }

/-- The warp with lane l of its i-th wait answered: at the last lane the destination is written by R20 and full again; when
no general slot is free its value stays in flight, and the warp issues nothing until it is written. -/
def State.answerWait (s : State) (slot i : Nat) (x : Wait) (l : Fin 32) (v : Word) : Warp :=
  let w := s.warp slot
  let y := x.answer l v
  let one := LaneMask.one l
  if y.due = 0 then
    let w' := s.storeReg slot w x.w x.whole false x.reg (.g y.got)
    let w'' := { w'.setVreg x.reg { w'.vreg x.reg with pend := (w'.vreg x.reg).pend &&& ~~~x.w } with
      waits := w'.waits.eraseIdx i }
    if s.slotsFor slot w (w''.gHeld - w.gHeld) then w''
    else
      Warp.stick (r := x.reg) { w with
        waits := w.waits.eraseIdx i
        inflight := w.inflight ++ [⟨x.reg, one, 0, .g y.got, x.w, x.whole, 0⟩] }
  else
    { w.setVreg x.reg { w.vreg x.reg with pend := (w.vreg x.reg).pend &&& ~~~one } with waits := w.waits.set i y }

/-- The reads carried by threads that have left lane l of a warp, of its wait for a register: performed (R237). -/
def State.dropCarried (s : State) (slot reg : Nat) (l : Fin 32) : State :=
  let done (p : Nat × Wait) : Bool := p.1 == slot && p.2.reg == reg && p.2.w == LaneMask.one l
  if s.warps.any fun p => p.2.carried.any done then
    { s with warps := s.warps.map fun (p : Nat × Warp) => (p.1, { p.2 with carried := p.2.carried.filter fun q => !done q }) }
  else s

/-- Lane l of the i-th wait of a warp answered: its read is performed wherever its thread is now; the warp, which may have been
kept by the read alone, may end, and the barrier of its block may complete (R14, R200, R277). -/
def State.putAnswer (s : State) (slot i : Nat) (x : Wait) (l : Fin 32) (v : Word) : State :=
  let t := (s.setWarp slot (s.answerWait slot i x l v)).dropCarried slot x.reg l
  let bk := (s.warp slot).blk
  if (t.warp slot).over then t.afterExit slot else if (s.block bk).arrivals = 0 then t else t.checkBarrier bk

/-- PHASE_WAIT_SATISFIED (R204): the word of a lane shows the awaited parity. A word whose window has been detached meanwhile
shows none, and the thread goes on waiting (log entry 95). -/
def execPhaseWaitSatisfied (w i l : Nat) (s : State) : Res :=
  match (Map.find s.warps w).bind fun x => x.waits[i]? with
  | some x =>
    match Map.find x.addrs l with
    | some addr =>
      if x.guard || !x.due.getLsbD l then .next s
      else
        let bk := (s.warp w).blk
        match s.sram bk addr 4 with
        | .ok b off =>
          let v := s.sramRead b off 4
          let lane := Fin.ofNat 32 l
          if bitOf v 31 != ((x.wanted.get lane) == 1) then .next s
          else
            .next ((s.order (slotCore w) x.acquire false false x.scope (b.key off) 4 false).putAnswer w i x lane
              (BitVec.ofNat 32 v))
        | _ => .next s
    | none => .next s
  | none => .next s

/-- The access of a waiting ACQ. -/
def Wait.access (x : Wait) : Acc :=
  ⟨.guardLoad (if x.equal then .eq else .ge), 4, true, false, false, x.scope, [x.reg], x.addrs, [x.wanted], false⟩

/-- The kept answer of one lane of a party dropped, so that it is asked for anew. -/
def State.dropLane (s : State) (who : FaultWho) (l : Nat) : State :=
  { s with ext := s.ext.filter fun r => !(r.who == who && r.parts == [keptPart l] && r.data.isSome) }

/-- The word of lane l of a waiting ACQ read: the destination answered when its condition holds (R197). -/
def State.guardSeen (s : State) (w i l : Nat) (x : Wait) (way : Way) (t : State) : State :=
  let u := s.issuer w
  let lane := Fin.ofNat 32 l
  let r := t.oneLane u x.access l way
  match r.2.1 with
  | some (v :: _) =>
    if !acqMeets x.equal v.toNat (x.wanted.get lane).toNat then t else r.1.putAnswer w i x lane v
  | _ => t

/-- The instruction that a wait or a logged access belongs to taken up again: what it asks of others names its address and
run (R383). -/
def State.resume (s : State) (slot : Nat) (run : LaneMask) (pc : VAddr) : State := { s with cur := ⟨slot, run, pc, 0⟩ }

/-- GUARD_WAIT_SATISFIED (R197): the guard word as lane l of a waiting ACQ reads it; an answer from outside that does not
meet the condition is asked for again. -/
def execGuardWaitSatisfied (w i l : Nat) (s : State) : Res :=
  match (Map.find s.warps w).bind fun x => x.waits[i]? with
  | some x =>
    match Map.find x.addrs l with
    | some va =>
      if !x.guard || !x.due.getLsbD l then .next s
      else
        let u := s.issuer w
        let way := s.way u x.access l va
        match way with
        | .here _ => .next ((s.guardSeen w i l x way s).settle u.party.ctx u.party.who)
        | .answered _ _ => .next (s.guardSeen w i l x way (s.dropLane u.party.who l))
        | .ask _ => .next ((s.resume w x.run x.pc).askAll u x.access [(l, va, way)])
        | .fault a r => .next ((s.resume w x.run x.pc).faultLane u.party false a r l)
        | _ => .next s
    | none => .next s
  | none => .next s

/-! ### Replay of a logged instruction (R213) -/

/-- The destinations of a logged access with the values that its lanes read. -/
def State.patchVals (s : State) (slot : Nat) (dests : List Nat) (vals : List (Nat × List Word)) : State :=
  vals.foldl (fun s v =>
    (dests.zip v.2).foldl (fun s q => s.patchWarp slot q.1 (Fin.ofNat 32 v.1) q.2) s) s

/-- Lanes of a logged access that now wait for an answer from outside stay held; the others have their values. -/
def State.setLog (s : State) (slot : Nat) (e : Option LogEntry) : State :=
  match Map.find s.warps slot with
  | some w => s.setWarp slot { w with log := e }
  | none => s

/-- The waits of a logged ACQ armed with their addresses. -/
def Warp.rearm (w : Warp) (e : LogEntry) : Warp :=
  { w with
    log := none
    waits := w.waits.map fun x =>
      if x.guard && x.addrs.isEmpty && e.acc.dests.contains x.reg then { x with addrs := e.acc.lanes } else x }

/-- Has the collector an access of a thread of a warp that shares a byte with a logged one of the same thread? The earlier one
is made first (R180). -/
def State.collectMeets (s : State) (slot : Nat) (a : Acc) : Bool :=
  let ctx := (s.launch (s.block (s.warp slot).blk).launch).ctx
  (s.core (slotCore slot)).collector.any fun r => r.slot == slot && r.addrs.any fun q =>
    a.lanes.any fun p => p.1 == q.1 && s.sameByte ctx p.2 a.bytes q.2.va r.bytes

/-- A logged access walked again and performed (R213): a trap that it meets goes to the handler, as at issue (R382, R384). -/
def State.replay (s : State) (slot : Nat) (e : LogEntry) : State :=
  let u := s.issuer slot
  let a := e.acc
  let ws := s.ways u a
  let asks : Bool := ws.any fun w => (match w.2.2 with
    | .ask _ => true
    | .brickAsk => true
    | _ => false)
  let faults : Bool := ws.any fun w => (match w.2.2 with
    | .fault _ _ => true
    | _ => false)
  let waiting : Bool := (match a.op with
    | .guardLoad m => m != .plain
    | _ => false)
  let x := s.warp slot
  match ((wayGate ws).and ((s.setLog slot none).versionGate u a ws)).and (if s.collectMeets slot a then .wait else .go) with
  | .wait => s
  | .trap code detail => s.lateTrap slot e.run e.pc a.dests code detail
  | .go =>
    if waiting then (if faults then (s.resume slot e.run e.pc).recordFaults u a ws else s.setWarp slot (x.rearm e))
    else if asks then (s.resume slot e.run e.pc).askAll u a ws
    else
      let d := (s.resume slot e.run e.pc).allLanes u a ws
      let t := (d.state.dropKept u.party.who).patchVals slot a.dests d.vals
      if d.faults.isEmpty then (t.settle u.party.ctx u.party.who).setLog slot none
      else (t.recordFaults u a ws).setLog slot (some { e with acc := { a with lanes := d.faults } })

/-- A logged SEG instruction done again after a restore, by the state that it finds now (R206, R388). -/
def State.segRetry (s : State) (slot : Nat) (e : LogEntry) : State :=
  let bk := (s.warp slot).blk
  let ctx := (s.launch (s.block bk).launch).ctx
  match e.acc.dests, e.acc.lanes with
  | r :: _, (win, free) :: _ =>
    match if free = 1 then s.segFreeAct (s.launch (s.block bk).launch).queue ctx e.acc.bytes true
      else s.segAttachAct bk win ctx e.acc.bytes true with
    | .done t status => ((t.setLog slot none).patchWarp slot r e.w.lowest (BitVec.ofNat 32 status)).land slot r
    | .move t k =>
      let waiter : SegWaiter := ⟨slot, bk, r, win, e.w, e.whole, e.pc, e.run⟩
      match Map.find t.segs k with
      | some g => (t.setSeg k { g with waiter := some waiter }).setLog slot none
      | none => t
    | _ => s
  | _, _ => s.setLog slot none

/-- Has a party a fault that waits for an answer? -/
def State.faulted (s : State) (ctx : Nat) (who : FaultWho) : Bool := (s.ctx ctx).faults.any fun f => f.who == who

/-- Does a fault of a segment's move wait for an answer, or one of an eviction for it? (R208) -/
def State.moveFaulted (s : State) (k : Nat) : Bool :=
  s.segs.any fun p => (p.1 == k || p.2.goal == some (.evictFor k)) && s.faulted p.2.ctx (.seg p.1)

/-- OPERAND_LOG_REPLAY (R213): the logged instruction of a warp, once no fault of it waits for an answer. -/
def execOperandLogReplay (w : Nat) (s : State) : Res :=
  match (Map.find s.warps w).bind fun x => x.log with
  | none => .next s
  | some e =>
    let ctx := (s.launch (s.block (s.warp w).blk).launch).ctx
    match e.acc.op with
    | .move k =>
      if (Map.find s.segs k).any fun g => g.waiter.any fun x => x.slot == w then
        .next (if s.moveFaulted k then s else s.setLog w none)
      else .next (s.segRetry w e)
    | _ => .next (if s.faulted ctx (.warp w) then s else s.replay w e)

/-! ### The handler's budget (R386) -/

/-- HANDLER_BUDGET_EXPIRY (R386). -/
def execHandlerBudgetExpiry (w : Nat) (s : State) : Res :=
  match Map.find s.warps w with
  | some x =>
    if x.hndl && x.khbudget == 0 then
      .next (s.kill x.blk ⟨0x10, x.kcause.toNat % 256, x.trapMask.lowest.val, x.kepc, x.trapMask, false, x.index⟩)
    else .next s
  | none => .next s

/-! ### The moves of segments (R310) -/

/-- SEGMENT_WRITEBACK_END (R310). -/
def execSegmentWritebackEnd (seg : Nat) (s : State) : Res := .next (s.segWriteback seg)

/-- SEGMENT_RELOAD_END (R310). -/
def execSegmentReloadEnd (seg : Nat) (s : State) : Res := .next (s.segReload seg)

end Sys2Proof.Machine
end

