-- ==== Sys2Proof/Machine/Queues.lean ====
section
/-! DEFINITION. Hardware queues (R320 to R329): reading the ring, the checks of packets, acceptance and halts; the start
and the completion of packets and of launches (R293, R294, R327, R330 to R332, R348 to R350, R362, R363); device queues
(R340, R342). -/

namespace Sys2Proof.Machine

/-! ### Halts and access by the GSC -/

/-- A queue halted (R325), signalled by vector 1 (R415). -/
def State.haltQueue (s : State) (qn code detail : Nat) : State :=
  let q := s.queue qn
  if q.halt && q.code == code && q.detail == detail % 2 ^ 16 then s
  else (s.setQueue qn { q with halt := true, code := code, detail := detail % 2 ^ 16 }).signal (s.ctx q.ctx).fn 1

/-- The GSC as a party for a queue in a context (R411: CORE is 0xFFFF). -/
def gsc (qn ctx : Nat) : Party := ⟨ctx, 2 ^ 40, .queue qn, 0xFFFF, qn, 0⟩

/-- Was the access to an address abandoned? (R412) -/
def Queue.gaveUp (q : Queue) (va n : Nat) : Bool := q.abandoned.any fun l => decide (l < va + n) && decide (va < l + 128)

/-- An access for a queue refused for permission: the queue is frozen, and the access waits until it is unfrozen (R403). -/
def State.refuseQueue (s : State) (qn va : Nat) : State :=
  let t := s.freeze (.queue qn)
  let q := t.queue qn
  t.setQueue qn { q with refused := if (s.queue qn).frozen then q.refused ++ [va] else [va] }

/-- Was an access refused, its queue being frozen since? Started packets of a frozen queue run on but for that (R403). -/
def Queue.refuses (q : Queue) (va : Nat) : Bool := q.frozen && q.refused.contains va

/-- May a queue accept packets now? It is enabled, runs, and its context exists; and no fatal error has stopped the device
(R320, R321, R403, R413, R439 to R441). -/
def State.accepting (s : State) (qn : Nat) : Bool :=
  let q := s.queue qn
  let c := s.ctx q.ctx
  q.en && !q.halt && !q.frozen && s.mss.stage == 5 && s.mss.dump.isNone && !s.mss.paused && (c.en || c.termd)

/-- The answers of an access that came from outside the device forgotten, so that it is made anew. -/
def State.reread (s : State) (p : Party) (va n : Nat) : State := s.settleRange p va n

/-! ### Reading the ring (R322 to R324) -/

/-- What the GSC finds at a read pointer: nothing yet, a halt, something it waits for, a refusal, or a packet with its
type, class, scopes and bytes. -/
inductive Head where
  | none (s : State)
  | halt (code detail : Nat)
  | wait (s : State)
  | denied
  | packet (type cls fscope : Nat) (bytes : List Byte)

/-- The address of the j-th slot from a read pointer. -/
def Queue.slotAt (q : Queue) (j : Nat) : Nat := (q.base + 256 * (q.slot + j)) % 2 ^ 57

/-- Tags by lap (R322). -/
def validTag (lap : Bool) : Nat := if lap then 0xA5 else 0x5A
def contTag (lap : Bool) : Nat := if lap then 0xC3 else 0x3C

/-- Slots that a type allows (R326). -/
def typeSlots (type : Nat) : Nat :=
  match type with
  | 1 => 16
  | 2 => 2
  | _ => 1

/-- The checks of a trailer found j slots from the read pointer, and the packet's bytes (R324 to R326). -/
def State.readTrailer (s : State) (qn j w : Nat) : Head :=
  let q := s.queue qn
  let n := 2 ^ q.logsz
  let count := bitsOf w 7 4 + 1
  let type := bitsOf w 23 16
  if n < count then .halt 2 count
  else if n < q.slot + count then .halt 1 j
  else if count ≠ j + 1 then .halt 2 count
  else if bitsOf w 3 0 ≠ 0 then .halt 3 0
  else if type ≠ 1 ∧ (5 ≤ bitsOf w 15 12 ∨ bitsOf w 11 10 = 3 ∨ bitsOf w 9 8 = 3) then .halt 3 0
  else if type = 0 ∨ 7 < type ∨ typeSlots type < count then .halt 4 type
  else
    match s.fetch (gsc qn q.ctx) (q.slotAt 0) (256 * count) with
    | .ok bs => .packet type (bitsOf w 15 12) (bitsOf w 11 8) bs
    | .wait t => .wait t
    | .denied => .denied

/-- The slot words from the j-th on, `k` of them at most (R324). -/
def State.readSlots (s : State) (qn : Nat) : Nat → Nat → Head
  | 0, _ => .halt 2 17
  | k + 1, j =>
    let q := s.queue qn
    let p := gsc qn q.ctx
    let va := q.slotAt j + 252
    if q.gaveUp va 4 then .halt 6 j
    else
      match s.fetch p va 4 with
      | .wait t => .wait t
      | .denied => .denied
      | .ok bs =>
        let w := leNat bs
        if w / 2 ^ 24 = validTag q.lap then s.readTrailer qn j w
        else if w / 2 ^ 24 = contTag q.lap then
          if q.slot + j = 2 ^ q.logsz - 1 then .halt 1 j
          else s.readSlots qn k (j + 1)
        else .none (s.reread p va 4)

/-- The packet at the read pointer. -/
def State.readHead (s : State) (qn : Nat) : Head := s.readSlots qn 16 0

/-! ### The checks of payloads (R326 to R329, R340) -/

/-- The first offset at which a condition fails. -/
def firstBad (cs : List (Nat × Bool)) : Option Nat := (cs.find? fun c => c.2).map Prod.fst

/-- The first byte of a range that is not zero. -/
def firstByte (bs : List Byte) (lo hi : Nat) : Option Nat := (List.range (hi - lo)).findSome? fun i =>
  if field bs (lo + i) 1 = 0 then none else some (lo + i)

/-- The cores in service. -/
def State.service (s : State) : List Nat := (List.range 192).filter fun c => (s.core c).inService

/-- Granules that a block of a launch and its galley and tile memory take on an empty core (R296, R329). -/
def Launch.need (l : Launch) : Nat :=
  granules l.areaBytes + granules l.galleyBytes + if l.ltype == 2 then 64 else 0

/-- Is a multiple-of-32 code address within 57 bits? -/
def codeAddrOk (a : Nat) : Bool := a % 32 == 0 && decide (a < 2 ^ 57)

/-- The conditions on one input tile (R70, R329). -/
def inputBad (l : Launch) (j : Nat) : Bool :=
  let t := l.inputSpec j
  if j < l.nin then t.1 % 16 != 0 || t.2 % 16 != 0 || decide (l.areaBytes < t.1 + t.2) else t.1 != 0 || t.2 != 0

/-- The conditions on an LPB in the order of their offsets (R328, R329); `two` in the two-slot form, `member` whether the
device is a member of the launch's group. -/
def State.lpbConditions (s : State) (l : Launch) (two member : Bool) : List (Nat × Bool) :=
  let threads := l.dimx * l.dimy * l.dimz
  let log := l.recording || l.replay
  [(0x00, !codeAddrOk l.entry), (0x08, !codeAddrOk l.tvec),
    (0x10, l.gx == 0 || decide (2 ^ 32 ≤ l.gx * l.gy * l.gz)), (0x14, l.gy == 0), (0x18, l.gz == 0),
    (0x1C, l.dimx == 0 || decide (1024 < l.dimx) || decide (1024 < threads) || (l.regrp && decide (512 < threads))),
    (0x1E, l.dimy == 0 || decide (1024 < l.dimy)), (0x20, l.dimz == 0 || decide (1024 < l.dimz)),
    (0x22, l.regs == 0 || decide (384 < l.regs) ||
      s.service.all fun c => (s.core c).gslots.toList.all fun g => decide (g < l.regs)),
    (0x24, (l.ltype == 1 || l.ltype == 2) && l.roles != 0),
    (0x2C, bitsOf l.lflags 31 18 != 0 || bitsOf l.lflags 15 9 != 0 || l.ltype == 3 || (log && !l.proof) ||
      (l.recording && l.replay) || (l.proof && (l.nbhd || l.multi || l.ltype != 0))),
    (0x30, l.areaBytes % 16 != 0 || decide (1048576 < l.areaBytes) ||
      s.service.all fun c => decide (s.capacity c < l.need)),
    (0x34, l.galleyBytes % 16 != 0 || decide (262144 < l.galleyBytes)), (0x38, decide (8 < l.nin)),
    (0x3A, if l.vers then l.vbud == 0 || decide (8 < l.vbud) else l.vbud != 0),
    (0x3B, field l.lpb 0x3B 1 / 16 != 0),
    (0x3C, if l.nbhd then l.nbw == 0 || decide (6 < l.nbw) || decide (24 < l.nbw * l.nbh) else l.nbw != 0),
    (0x3D, if l.nbhd then l.nbh == 0 || decide (6 < l.nbh) else l.nbh != 0),
    (0x3E, if l.proof && l.regrp then l.colln == 0 || decide (32 < l.colln) else l.colln != 0),
    (0x3F, if l.multi then decide (l.npg ≤ l.pg) || !member else l.pg != 0)] ++
  ((List.range 8).map fun j => (0x40 + 8 * j, inputBad l j)) ++
  ((List.range 4).map fun w => (0x80 + 8 * w, l.standing w != 0 && !bitOf l.smask w)) ++
  [(0xA0, l.intab % 16 != 0 || (two && l.intab != 0) || (!two && l.nin != 0 && l.intab == 0)), (0xA8, l.calltab % 8 != 0),
    (0xB0, decide (65536 < l.ncall)), (0xB4, l.deadline == 0), (0xB8, l.pgtab % 32 != 0), (0xC0, decide (256 < l.npg)),
    (0xC2, field l.lpb 0xC2 6 != 0), (0xC8, l.doneAddr % 16 != 0),
    (0xD0, l.logAddr % 256 != 0 || (l.logAddr != 0 && !log)), (0xD8, l.logSize % 256 != 0 || (l.logSize != 0 && !log)),
    (0xE0, field l.lpb 0xE0 28 != 0)]

/-- The members of entry g of a process-group table (R348, R349): nothing for an absent entry. -/
def State.fetchGroup (s : State) (p : Party) (tab g : Nat) : Option (List Nat) × Option State × Bool :=
  match s.fetch p ((tab + 32 * g) % 2 ^ 57) 32 with
  | .wait t => (none, some t, false)
  | .denied => (none, none, true)
  | .ok e =>
    let n := field e 0 2
    if field e 2 6 ≠ 0 ∨ field e 0x10 16 ≠ 0 ∨ n = 0 ∨ 16384 < n then (none, none, false)
    else
      match s.fetch p (field e 8 8 % 2 ^ 57) (2 * n) with
      | .wait t => (none, some t, false)
      | .denied => (none, none, true)
      | .ok m =>
        let ids := (List.range n).map fun i => field m (2 * i) 2
        (if ids.count s.mss.domid = 1 then some ids else none, none, false)

/-- Every entry of a process-group table: the groups, or a wait, or a refusal. -/
def State.fetchGroups (s : State) (p : Party) (tab : Nat) : List Nat → List Group × Option State × Bool
  | [] => ([], none, false)
  | g :: gs =>
    match s.fetchGroup p tab g with
    | (m, none, false) =>
      let r := s.fetchGroups p tab gs
      (⟨m⟩ :: r.1, r.2)
    | (_, some t, _) => ([], some t, false)
    | (_, none, true) => ([], none, true)

/-- What the check of a payload comes to. -/
inductive Check where
  | ok
  | halt (code detail : Nat)
  | wait (s : State)
  | denied

/-- A launch with an LPB. -/
def Launch.ofLpb (bs : List Byte) : Launch := { Launch.blank with lpb := bs.take 256 }

/-- The check of a LAUNCH, or with `two` false of a template (R328, R329). -/
def State.checkLaunch (s : State) (qn ctx : Nat) (bs : List Byte) (two : Bool) : Check :=
  let l := Launch.ofLpb bs
  let early := firstBad ((s.lpbConditions l two true).takeWhile fun c => decide (c.1 ≤ 0x3F))
  let rest (member : Bool) : Check :=
    match firstBad (s.lpbConditions l two member) with
    | some o => .halt 5 o
    | none =>
      if two then
        match firstByte bs 0x180 0x1FC with
        | some o => .halt 5 (o + 0x100)
        | none => .ok
      else .ok
  if l.multi && early.isNone && !(s.queue qn).gaveUp (l.pgtab + 32 * l.pg) 32 then
    match s.fetchGroup (gsc qn ctx) l.pgtab l.pg with
    | (m, none, false) => rest m.isSome
    | (_, some t, _) => .wait t
    | (_, none, true) => .denied
  else if l.multi && early.isNone then .halt 6 0
  else rest true

/-- The check of a SIGNAL or a WAIT (R327). -/
def checkWord (bs : List Byte) : Check :=
  if field bs 0 8 % 8 ≠ 0 ∨ 2 ^ 57 ≤ field bs 0 8 then .halt 5 0
  else if 1 < field bs 0x10 1 then .halt 5 0x10
  else
    match firstByte bs 0x11 0xFC with
    | some o => .halt 5 o
    | none => .ok

/-- A check of reserved payload bytes. -/
def checkZero (o : Option Nat) : Check :=
  match o with
  | some o => .halt 5 o
  | none => .ok

/-- The check of a packet's payload (R326). Of a SETQ whose byte 3 is not zero the offset reported is the field's, 0: the manual
gives the field AREA bytes 0 to 3 and does not say that the byte's own is meant (log entry 107). -/
def State.checkPacket (s : State) (qn type : Nat) (bs : List Byte) : Check :=
  match type with
  | 2 => s.checkLaunch qn (s.queue qn).ctx bs (decide (256 < bs.length))
  | 3 => checkWord bs
  | 4 => checkWord bs
  | 5 => checkZero (if field bs 3 1 ≠ 0 then some 0 else firstByte bs 4 0xFC)
  | 6 => checkZero (((firstByte bs 4 8).orElse fun _ => if field bs 0x18 8 % 4 ≠ 0 then some 0x18 else none).orElse
      fun _ => firstByte bs 0x20 0xFC)
  | 7 => checkZero (firstByte bs 4 0xFC)
  | _ => .ok

/-! ### Acceptance (R321, R324, R326) -/

/-- The kind of an accepted packet. -/
def packetKind (type launch : Nat) (bs : List Byte) : PacketKind :=
  match type with
  | 2 => .launch launch
  | 3 => .signal (field bs 0 8) (field bs 8 8) (field bs 0x10 1)
  | 4 => .wait (field bs 0 8) (field bs 8 8) (field bs 0x10 1)
  | 5 => .setq (field bs 0 3)
  | 6 => .dqnew (bs.take 0x20)
  | _ => .dqfree (field bs 0 4)

/-- The launch of an accepted LAUNCH packet. -/
def State.packetLaunch (s : State) (qn fscope : Nat) (bs : List Byte) : Launch :=
  let q := s.queue qn
  { Launch.ofLpb bs with
    queue := qn
    ctx := q.ctx
    seq := q.seq
    prio := q.prio
    fscope := fscope
    phase := .accepted
    inputs := (bs.drop 256).take 128 }

/-- A packet accepted: the read pointer moves on, flipping the lap where it wraps, and SEQ counts (R324). -/
def State.accept (s : State) (qn type cls fscope : Nat) (bs : List Byte) : State :=
  let q := s.queue qn
  let rp := q.slot + bs.length / 256
  let wraps := decide (2 ^ q.logsz ≤ rp)
  let pk : Packet := ⟨q.total, q.ctx, packetKind type s.launchNext bs, cls, fscope, false⟩
  let t := if type = 2 then
      { s.setLaunch s.launchNext (s.packetLaunch qn fscope bs) with launchNext := s.launchNext + 1 }
    else s
  t.setQueue qn { q with
    seq := q.seq + 1
    total := q.total + 1
    slot := if wraps then rp - 2 ^ q.logsz else rp
    lap := if wraps then !q.lap else q.lap
    packets := if type = 1 then q.packets else q.packets ++ [pk] }

/-- The acceptance of a packet of one type: a packet of another type is left alone, a packet that fails its checks halts
the queue (R324 to R326). -/
def State.acceptPacket (s : State) (qn type : Nat) : Res :=
  let q := s.queue qn
  if 1024 ≤ qn ∨ !s.accepting qn then .next s
  else if (s.ctx q.ctx).termd then .next (s.haltQueue qn 7 0)
  else
    match s.readHead qn with
    | .none t => .next t
    | .wait t => .next t
    | .halt code detail => .next (s.haltQueue qn code detail)
    | .denied => .next (s.freeze (.queue qn))
    | .packet ty cls fscope bs =>
      if ty ≠ type then .next s
      else
        match s.checkPacket qn type bs with
        | .ok => .next (((s.dropKept (.queue qn)).settle q.ctx (.queue qn)).accept qn type cls fscope bs)
        | .halt code detail => .next (s.haltQueue qn code detail)
        | .wait t => .next t
        | .denied => .next (s.freeze (.queue qn))

/-- SKIP (R326). -/
def execSkip (q : Nat) (s : State) : Res := s.acceptPacket q 1
/-- LAUNCH (R328, R329). -/
def execLaunch (q : Nat) (s : State) : Res := s.acceptPacket q 2
/-- SIGNAL (R327). -/
def execSignal (q : Nat) (s : State) : Res := s.acceptPacket q 3
/-- WAIT (R327). -/
def execWait (q : Nat) (s : State) : Res := s.acceptPacket q 4
/-- SETQ (R326). -/
def execSetq (q : Nat) (s : State) : Res := s.acceptPacket q 5
/-- DQNEW (R340). -/
def execDqnew (q : Nat) (s : State) : Res := s.acceptPacket q 6
/-- DQFREE (R340). -/
def execDqfree (q : Nat) (s : State) : Res := s.acceptPacket q 7

/-- Does the endpoint hold the posted writes of a function behind an invalidation that waits for another? (R413) -/
def State.postedHeld (s : State) (fn : Nat) : Bool := s.ctxs.any fun p => p.2.invHeld.any fun h => h.1 == fn

/-- Does a BAR answer? Every BAR from stage ROM on; in RECOVERY only the management registers and BAR2 serve (R441; log
entry 100). -/
def State.serves (s : State) (bar : Nat) : Bool := s.mss.stage != 0 && (s.mss.stage != 7 || bar != 0)

/-- The function whose write an event of a queue's or a context's registers stands for: the context's own, or function 0; the
table's rows do not say which (log entry 97). -/
def State.writer (s : State) (ctx : Nat) : Nat := if Config.byPhysical s.draws ctx then 0 else (s.ctx ctx).fn

/-- Is the register write that commands a context held, or not served? (R413, R441) -/
def State.ctxHeld (s : State) (ctx : Nat) : Bool := s.postedHeld (s.writer ctx) || !s.serves 0

/-- What the GSC has read for a queue from outside the device forgotten: the packet is read again (R320, R321, R325). -/
def State.forgetReads (s : State) (qn : Nat) : State :=
  { s with ext := s.ext.filter fun r => !(r.who == .queue qn && r.kind == msgRead) }

/-- QUEUE_DISABLE (R321): a check in progress ends, and what it has read is read anew after the next enable. -/
def execQueueDisable (q : Nat) (s : State) : Res :=
  let x := s.queue q
  if x.en && !s.ctxHeld x.ctx then .next ((s.setQueue q { x with en := false }).forgetReads q) else .next s

/-- QUEUE_ENABLE (R320, R321): EN from 0 to 1 clears the halt and SEQ; a read pointer out of the ring halts at once. Queues
may be enabled in stage READY (R441). -/
def execQueueEnable (q : Nat) (s : State) : Res :=
  let x := s.queue q
  if x.en || decide (1024 ≤ q) || s.mss.stage != 5 || s.mss.dump.isSome || s.ctxHeld x.ctx then .next s
  else
    let t := s.setQueue q { x with en := true, halt := false, code := 0, detail := 0, seq := 0, abandoned := [] }
    let t := t.forgetReads q
    if 16 < x.logsz ∨ 2 ^ x.logsz ≤ x.slot then .next (t.haltQueue q 3 0) else .next t

/-- RESUME (R320, R321, R325): the halt is cleared and the packet read again; one that still fails its checks halts the
queue again. -/
def execResume (q : Nat) (s : State) : Res :=
  let x := s.queue q
  if !x.en || s.ctxHeld x.ctx then .next s
  else
    let t := (s.setQueue q { x with halt := false, code := 0, detail := 0, abandoned := [] }).forgetReads q
    if !t.accepting q then .next t
    else if (t.ctx x.ctx).termd then .next (t.haltQueue q 7 0)
    else
      match t.readHead q with
      | .halt code detail => .next (t.haltQueue q code detail)
      | .packet ty _ _ bs =>
        match t.checkPacket q ty bs with
        | .halt code detail => .next (t.haltQueue q code detail)
        | _ => .next t
      | _ => .next t

/-! ### The start of a launch (R331, R348 to R350, R362, R363) -/

/-- What the start of a launch comes to. -/
inductive Start where
  | ok (s : State)
  | halt (detail : Nat)
  | fault
  | wait (s : State)
  | denied

/-- A field of a target descriptor: a multiple of 128. -/
def not128 (x : Nat) : Bool := x % 128 != 0

/-- The first field of a target descriptor that breaks its limits (R363). -/
def targetBad (t : List Byte) : Option Nat :=
  let f (o n : Nat) : Nat := field t o n
  let own := f 0x30 8 != 0
  firstBad [(0x00, not128 (f 0 8) || decide (2 ^ 57 ≤ f 0 8)), (0x08, not128 (f 8 8)), (0x10, not128 (f 0x10 8)),
    (0x20, f 0x20 2 == 0 || decide (16384 < f 0x20 2)), (0x22, f 0x22 2 == 0 || decide (16384 < f 0x22 2)),
    (0x24, not128 (f 0x24 4) || decide (f 0x24 4 < 8 * f 0x20 2)),
    (0x28, if f 8 8 == 0 then f 0x28 4 != 0 else not128 (f 0x28 4) || decide (f 0x28 4 < 8 * f 0x20 2)),
    (0x2C, if f 0x10 8 == 0 then f 0x2C 4 != 0 else not128 (f 0x2C 4) || decide (f 0x2C 4 < 32 * f 0x20 2)),
    (0x38, if own then decide (f 0x38 1 < 5) || decide (12 < f 0x38 1) else f 0x38 1 != 0),
    (0x39, decide (1 < f 0x39 1)), (0x3A, !own && f 0x3A 1 != 0), (0x3B, f 0x3B 5 != 0)]

/-- The target that a launch takes: nothing, a descriptor, or why the queue halts (R362, R363). -/
def State.launchTarget (s : State) (p : Party) (l : Launch) : Start × Option (List Byte) :=
  let graphics := l.ltype != 0
  let va := (s.queue l.queue).tdesc
  if va = 0 then (if graphics then .halt 0x100 else .ok s, none)
  else if (s.queue l.queue).gaveUp va 64 then (.fault, none)
  else
    match s.fetch p va 64 with
    | .wait t => (.wait t, none)
    | .denied => (.denied, none)
    | .ok bs =>
      match targetBad bs with
      | some o => (if graphics then .halt (0x100 + o) else .ok s, none)
      | none => (.ok s, some bs)

/-- The blocks that this device runs. -/
def State.share (s : State) (l : Launch) : Nat × Nat := l.shareOf s.mss.domid

/-- A range that a launch reads at its start, none when it is empty; nothing to read when it was abandoned. -/
def State.fetchTable (s : State) (p : Party) (l : Launch) (va n : Nat) : Option Got :=
  if n = 0 then some (.ok [])
  else if (s.queue l.queue).gaveUp va n then none
  else some (s.fetch p va n)

/-- A launch with what its tables gave it starts to run: it sees the code that stands in memory now (R43), and takes the
geometry that other devices have sent for it (R380). -/
def State.runLaunch (s : State) (lk : Nat) (l : Launch) (target : Option (List Byte)) (inputs : List Byte)
    (groups : List Group) (owners : List Nat) : State :=
  let l := { l with
    phase := .running
    target := target
    inputs := inputs
    groups := groups
    ownerMap := owners
    classArea := if l.ltype = 0 then 0x400 else (s.queue l.queue).area }
  let r := s.share l
  let t := s.setLaunch lk { l with first := r.1, last := r.2, nextBlock := r.1 }
  State.takeEarly { t with oldCode := t.oldCode ++ [⟨lk, s.mem, []⟩] }

/-- The start of an accepted launch: its tables and target are read, and its blocks may be offered (R330, R331, R348,
R362). -/
def State.startLaunch (s : State) (lk : Nat) : Start :=
  let l := s.launch lk
  let p := gsc l.queue l.ctx
  match s.launchTarget p l with
  | (.ok _, target) =>
    match s.fetchTable p l (l.intab % 2 ^ 57) (if l.inputs = [] then 16 * l.nin else 0) with
    | none => .fault
    | some .denied => .denied
    | some (.wait t) => .wait t
    | some (.ok tab) =>
      let x := { l with target := target }
      match s.fetchTable p l (x.owners % 2 ^ 57) (if l.ltype != 0 && x.owners != 0 then 2 * (x.regionsX * x.regionsY) else 0) with
      | none => .fault
      | some .denied => .denied
      | some (.wait t) => .wait t
      | some (.ok map) =>
        if (s.queue l.queue).gaveUp l.pgtab (32 * l.npg) then .fault
        else
          match s.fetchGroups p l.pgtab (List.range l.npg) with
          | (gs, none, false) =>
            let t := (s.dropKept p.who).settle p.ctx p.who
            .ok (t.runLaunch lk l target (if l.inputs = [] then tab else l.inputs) gs
              ((List.range (map.length / 2)).map fun i => field map (2 * i) 2))
          | (_, some t, _) => .wait t
          | (_, none, true) => .denied
  | (r, _) => r

/-! ### The start of a packet (R293, R327, R340) -/

/-- Is a packet of the graphics kind? (R326) -/
def State.graphics (s : State) (p : Packet) : Bool :=
  match p.kind with
  | .launch id => (s.launch id).ltype != 0
  | .setq _ => true
  | _ => false

/-- May a packet start, by its class and the earlier packets of its queue that have not completed? (R293) -/
def State.classAllows (s : State) (before : List Packet) (p : Packet) : Bool :=
  match p.cls with
  | 0 => true
  | 1 => before.isEmpty
  | 2 => !before.any fun q => s.graphics q
  | 3 => !before.any fun q => !s.graphics q
  | _ => !before.any fun q => s.graphics q == s.graphics p

/-- A packet gone from its queue. -/
def State.dropPacket (s : State) (qn seq : Nat) : State :=
  let q := s.queue qn
  s.setQueue qn { q with packets := q.packets.filter fun p => p.seq != seq }

/-- A packet that has started and does not complete at once. -/
def State.markStarted (s : State) (qn seq : Nat) : State :=
  let q := s.queue qn
  s.setQueue qn { q with packets := q.packets.map fun (p : Packet) => if p.seq = seq then { p with started := true } else p }

/-- The write of a completion record; one that was abandoned is not made (R412). -/
def State.record (s : State) (qn ctx va : Nat) (bs : List Byte) : Put :=
  if (s.queue qn).gaveUp va bs.length then .ok s
  else
    match s.deliver (gsc qn ctx) .write (va % 2 ^ 57) bs with
    | .ok t => .ok (t.settleRange (gsc qn ctx) (va % 2 ^ 57) bs.length)
    | r => r

/-- A SIGNAL's write: VALUE stored, or added to the word by one atomic operation, made at the word's home where that is
another device or the host (R327). -/
def State.signalWord (s : State) (qn ctx va value op : Nat) : Put :=
  if op = 0 then s.record qn ctx va (leBytes 8 value)
  else if (s.queue qn).gaveUp va 8 then .ok s
  else
    let p := gsc qn ctx
    match s.walk ctx .both va with
    | .denied => .denied
    | .moving => .wait s
    | .fault r => .wait (s.faultOnce p true va r)
    | .ok x =>
      if s.waitsOn ctx p.who va 8 then .wait s
      else if isExternal x.loc && !x.disc then
        let at' := s.place x.loc
        .ok (s.request ⟨0, at'.1, 64 + 16, at'.2, leBytes 8 value, 8, p.who, ctx, [], none, 0, 0, 0⟩)
      else
        match s.fetch p va 8 with
        | .ok bs =>
          match s.deliver p .both va (leBytes 8 (leNat bs + value)) with
          | .ok t => .ok (t.settleRange p va 8)
          | r => r
        | .wait t => .wait t
        | .denied => .denied

/-- A device queue of a context. -/
def Context.dq (c : Context) (i : Nat) : Option DevQueue := (Map.find c.devQueues i).filter fun q => q.inUse

/-- The start of a DQNEW (R340): the template is read and checked, the queue made, and its handle written. The generation
counter of an index is its context's, as the device queues are (log entry 108). -/
def State.newDevQueue (s : State) (qn : Nat) (p : Packet) (bs : List Byte) : Put :=
  let i := field bs 0 2
  let va := field bs 8 8
  let hout := field bs 0x18 8
  let c := s.ctx p.ctx
  let limits := decide (i < 1024) && decide (field bs 2 1 ≤ 16) && decide (field bs 3 1 < 4) && va % 256 == 0 &&
    field bs 0x10 8 % 64 == 0
  let refuse (s : State) : Put := s.record qn p.ctx hout (leBytes 4 0xFFFFFFFF)
  if !limits || (c.dq i).isSome then refuse s
  else
    match s.fetchTable (gsc qn p.ctx) { Launch.blank with queue := qn } (va % 2 ^ 57) 256 with
    | none => refuse s
    | some (.wait t) => .wait t
    | some .denied => .denied
    | some (.ok lpb) =>
      match s.checkLaunch qn p.ctx lpb false with
      | .wait t => .wait t
      | .denied => .denied
      | .halt _ _ => refuse s
      | .ok =>
        let gen := ((Map.find c.devQueues i).map DevQueue.gen).getD 0
        match s.record qn p.ctx hout (leBytes 4 (gen * 2 ^ 16 + i)) with
        | .ok t =>
          let d := t.ctx p.ctx
          .ok (((t.dropKept (.queue qn)).setCtx p.ctx { d with
            devQueues := Map.set d.devQueues i
              { gen := gen, inUse := true, freed := false, logcap := field bs 2 1, prio := field bs 3 1, template := lpb,
                store := field bs 0x10 8, queue := qn, fscope := p.fscope, entries := [], accepted := 0 } }))
        | r => r

/-- The start of a DQFREE: from now on ENQ refuses the handle; whether it named a queue in use (R340). -/
def State.freeDevQueue (s : State) (ctx h : Nat) : State × Bool :=
  let c := s.ctx ctx
  match c.devQueue h with
  | some q => (s.setCtx ctx { c with devQueues := Map.set c.devQueues (h % 1024) { q with freed := true } }, true)
  | none => (s, false)

/-- What a write of the GSC leads to: the packet goes on, waits, or its queue is frozen. -/
def State.afterPut (s : State) (qn va : Nat) (r : Put) (f : State → State) : State :=
  match r with
  | .ok t => f t
  | .wait t => t
  | .denied => s.refuseQueue qn va

/-- A packet started (R293). -/
def State.startPacket (s : State) (qn : Nat) (p : Packet) : State :=
  match p.kind with
  | .launch id =>
    match s.startLaunch id with
    | .ok t => t.markStarted qn p.seq
    | .halt detail => s.haltQueue qn 5 detail
    | .fault => s
    | .wait t => t
    | .denied => s.freeze (.queue qn)
  | .signal addr value op => s.afterPut qn addr (s.signalWord qn p.ctx addr value op) fun t => t.dropPacket qn p.seq
  | .wait _ _ _ => s.markStarted qn p.seq
  | .setq area =>
    let q := s.queue qn
    (s.setQueue qn { q with area := area }).dropPacket qn p.seq
  | .dqnew bs => s.afterPut qn (field bs 0x18 8) (s.newDevQueue qn p bs) fun t => t.dropPacket qn p.seq
  | .dqfree h =>
    let r := s.freeDevQueue p.ctx h
    if r.2 then r.1.markStarted qn p.seq else s.dropPacket qn p.seq

/-- May packets and launches start? (R403, R441, R442) -/
def State.starting (s : State) (qn : Nat) : Bool :=
  s.mss.stage == 5 && s.mss.pstate == 0 && !(s.queue qn).frozen

/-- The accepted packet with a number, and those before it that have not completed. -/
def Queue.packet (q : Queue) (seq : Nat) : Option (Packet × List Packet) :=
  (q.packets.find? fun p => p.seq == seq).map fun p => (p, q.packets.takeWhile fun x => x.seq != seq)

/-- PACKET_START (R293, R326, R327, R340). -/
def execPacketStart (q seq : Nat) (s : State) : Res :=
  match (s.queue q).packet seq with
  | some (p, before) =>
    if p.started || !s.starting q || !s.classAllows before p then .next s else .next (s.startPacket q p)
  | none => .next s

/-- WAIT_CONDITION_MET (R327): the word is read; one that does not meet the condition is read again later. -/
def execWaitConditionMet (q seq : Nat) (s : State) : Res :=
  match (s.queue q).packet seq with
  | some (p, _) =>
    match p.kind with
    | .wait addr value cond =>
      if !p.started || (s.queue q).gaveUp addr 8 || (s.queue q).refuses addr then .next s
      else
        let g := gsc q p.ctx
        match s.fetch g addr 8 with
        | .wait t => .next t
        | .denied => .next (s.refuseQueue q addr)
        | .ok bs =>
          let t := s.settleRange g addr 8
          let met := if cond = 0 then decide (value ≤ leNat bs) else value == leNat bs
          .next (if met then t.dropPacket q seq else t)
    | _ => .next s
  | none => .next s

/-! ### Completion (R294, R332, R340, R342) -/

/-- Have all blocks of a launch come to their end here? (R294, R330, R392) -/
def State.blocksDone (s : State) (lk : Nat) (l : Launch) : Bool :=
  (s.launchBlocks lk).isEmpty && !(s.saved.any fun p => p.2.blk.launch == lk) &&
    (l.ended || l.cancelled || l.devlost ||
      (decide (l.last ≤ l.nextBlock) && l.relaunch.isEmpty && l.waiting.isEmpty))

/-- Is a launch's graphics output complete? Every primitive that this device owns is drawn (R294, R380). -/
def State.drawn (s : State) (lk : Nat) (l : Launch) : Bool :=
  l.ltype != 1 || l.cancelled || l.devlost ||
    (!(s.prims.any fun p => p.launch == lk) &&
      (l.owners == 0 || (List.range l.blocks).all fun n => s.marks.any fun m => m.1 == lk && m.2.2.1 == n))

/-- Writes and atomic operations of a context outside the device that no answer has come for (R426). -/
def State.awaiting (s : State) (ctx : Nat) : Bool :=
  s.ext.any fun r => r.ctx == ctx && r.kind % 256 != msgRead && r.data.isNone

/-- STATUS of a completion record (R332). -/
def Launch.status (l : Launch) : Nat :=
  if l.cancelled then 3 else if l.devlost then 2 else if l.failed != 0 then 1 else 0

/-- The completion record (R332). -/
def Launch.doneRecord (l : Launch) : List Byte := leBytes 4 l.status ++ leBytes 4 l.failed ++ leBytes 8 l.seq

/-- A launch gone, with what the engines hold for it and the code that it saw (R43). -/
def State.dropLaunch (s : State) (lk : Nat) : State :=
  { s with
    launches := Map.erase s.launches lk
    prims := s.prims.filter fun p => p.launch != lk
    marks := s.marks.filter fun m => m.1 != lk
    oldCode := s.oldCode.filter fun o => o.launch != lk
    collectives := s.collectives.filter fun c => c.launch != lk }

/-- May a launch complete now? -/
def State.launchDone (s : State) (lk : Nat) (l : Launch) : Bool :=
  l.phase == .running && s.blocksDone lk l && s.drawn lk l && !s.awaiting l.ctx

/-- A launch completed: its record written as the completion release, and what `f` does beside (R294, R332). -/
def State.completeLaunch (s : State) (lk : Nat) (l : Launch) (f : State → State) : State :=
  let r := if l.doneAddr = 0 then .ok s else s.record l.queue l.ctx l.doneAddr l.doneRecord
  if l.doneAddr != 0 && (s.queue l.queue).refuses l.doneAddr then s
  else s.afterPut l.queue l.doneAddr r fun t => f (t.dropLaunch lk)

/-- The launches that a device queue's child came from: those of one device queue of a context. -/
def State.children (s : State) (ctx dq : Nat) : List (Nat × Launch) :=
  s.launches.filter fun p => p.2.ctx == ctx && p.2.child == some dq

/-- The end of a DQFREE, when no entry and no child of its queue is left (R340, R342). -/
def State.endDqfree (s : State) (qn : Nat) (p : Packet) (h : Nat) : State :=
  let c := s.ctx p.ctx
  let i := h % 1024
  match Map.find c.devQueues i with
  | some q =>
    if q.inUse && !(q.entries.isEmpty && (s.children p.ctx i).isEmpty) then s
    else
      let d := { q with inUse := false, freed := false, gen := (q.gen + 1) % 2 ^ 16, entries := [], template := [] }
      (s.setCtx p.ctx { c with devQueues := Map.set c.devQueues i d }).dropPacket qn p.seq
  | none => s.dropPacket qn p.seq

/-- The first child of a hardware queue's device queues with a number that may complete (R342). -/
def State.childDone (s : State) (qn seq : Nat) : Option (Nat × Launch) :=
  s.launches.find? fun p => p.2.queue == qn && p.2.seq == seq && p.2.child.isSome && s.launchDone p.1 p.2

/-- PACKET_COMPLETION (R294, R332, R340, R342): of a packet, or else of a child launch that the queue's device queues
made. -/
def execPacketCompletion (q seq : Nat) (s : State) : Res :=
  let child : Res :=
    match s.childDone q seq with
    | some (lk, l) => .next (s.completeLaunch lk l id)
    | none => .next s
  match (s.queue q).packet seq with
  | some (p, _) =>
    match p.kind with
    | .launch id =>
      let l := s.launch id
      if s.launchDone id l then .next (s.completeLaunch id l fun t => t.dropPacket q seq) else child
    | .dqfree h => if p.started then .next (s.endDqfree q p h) else child
    | _ => child
  | none => child

/-! ### Device queues (R341, R342) -/

/-- The LPB of a child: the template with the entry's grid and input table (R342). -/
def childLpb (template e : List Byte) : List Byte :=
  let intab := if field e 8 8 = 0 then (template.drop 0xA0).take 8 else (e.drop 8).take 8
  template.take 0x10 ++ e.take 4 ++ leBytes 4 (field e 4 2) ++ leBytes 4 (field e 6 2) ++
    (template.drop 0x1C).take (0xA0 - 0x1C) ++ intab ++ template.drop 0xA8

/-- A child launch accepted from a device queue. -/
def childLaunch (ctx i : Nat) (q : DevQueue) (n : Nat) (e : List Byte) : Launch :=
  { Launch.ofLpb (childLpb q.template e) with
    queue := q.queue
    ctx := ctx
    seq := n
    prio := q.prio
    child := some i
    serial := bitOf (field e 0x10 4) 0
    order := n
    fscope := q.fscope
    phase := .accepted
    args := (e.drop 0x20).take 32 }

/-- An accepted child started where its order allows (R342). -/
def State.startChild (s : State) (lk : Nat) : State :=
  match Map.find s.launches lk with
  | none => s
  | some l =>
    let earlier := (s.children l.ctx (l.child.getD 0)).any fun p => decide (p.2.order < l.order)
    if l.phase != .accepted || l.child.isNone || !s.starting l.queue || (l.serial && earlier) then s
    else
      match s.startLaunch lk with
      | .ok t => t
      | .halt detail => s.haltQueue l.queue 5 detail
      | .fault => s
      | .wait t => t
      | .denied => s.freeze (.queue l.queue)

/-- DEVICE_QUEUE_ENTRY_TAKE (R341, R342): the first entry becomes a launch, which starts at once unless it is SERIAL. -/
def execDeviceQueueEntryTake (ctx dq : Nat) (s : State) : Res :=
  let c := s.ctx ctx
  match c.dq dq with
  | some q =>
    match q.entries with
    | [] => .next s
    | (n, e) :: es =>
      if c.termd || s.mss.paused || !s.starting q.queue then .next s
      else
        let lk := s.launchNext
        let t := s.setCtx ctx { c with devQueues := Map.set c.devQueues dq { q with entries := es } }
        let u := { t.setLaunch lk (childLaunch ctx dq q n e) with launchNext := lk + 1 }
        .next (if bitOf (field e 0x10 4) 0 then u else u.startChild lk)
  | none => .next s

/-- CHILD_LAUNCH_START (R342). -/
def execChildLaunchStart (launch : Nat) (s : State) : Res := .next (s.startChild launch)

end Sys2Proof.Machine
end

