-- ==== Sys2Proof/Machine/Blocks.lean ====
section
/-! DEFINITION. Blocks on their way onto a core and off it (R307 to R312, R330, R333, R334, R339, R343): offers, admission,
start, completion, and requests for pre-emption (R394). -/

namespace Sys2Proof.Machine

/-! ### Requests for pre-emption (R136, R236, R394) -/

/-- The blocks that are saved together with a block: its neighbourhood group, or in proof mode the resident blocks of the
launch (R334, R346). -/
def State.together (s : State) (bk : Nat) : List Nat := bk :: s.killSet bk

/-- A request at one block: the deadline starts, sleeps end and windows close; a second request changes nothing. -/
def State.requestOne (s : State) (source bk : Nat) : State :=
  match Map.find s.blocks bk with
  | none => s
  | some b =>
    if b.pending || b.phase == .ended then s
    else
      let b := { b.closeWindows with
        pending := true
        source := source
        kdeadline := (s.launch b.launch).deadline }
      let t := s.setBlock bk b
      { t with warps := t.warps.map fun (p : Nat × Warp) => if p.2.blk == bk then (p.1, { p.2 with sleep := 0 }) else p }

/-- A pre-emption request for a block and those saved with it (R394). In proof mode the windows that it closes give their
warps at once, as at every other closing (R343, R447). -/
def State.requestSave (s : State) (source bk : Nat) : State :=
  let t := (s.together bk).foldl (fun s b => s.requestOne source b) s
  if (s.launch (s.block bk).launch).proof then (s.together bk).foldl State.formAll t else t

/-- PREEMPTION_REQUEST (R394): a request of the GSC reaches a running block. -/
def execPreemptionRequest (b : Nat) (s : State) : Res := .next (s.requestSave 0 b)

/-- CONTEXT_SWITCH_MESSAGE (R230, R319, R394): every block of a context in a cluster is requested; the switch takes place
when the last of them has left. -/
def execContextSwitchMessage (ctx cl : Nat) (s : State) : Res :=
  let u := s.cluster cl
  let t := s.setCluster cl { u with leaving := if u.leaving.contains ctx then u.leaving else u.leaving ++ [ctx] }
  .next (((s.contextBlocks ctx cl).foldl (fun s b => s.requestSave 2 b) t).switched cl)

/-! ### Offers (R330, R390) -/

/-- Has a launch a block to offer? -/
def Launch.offers (l : Launch) : Bool :=
  l.phase == .running && !l.cancelled && !l.devlost && !l.ended && (!l.relaunch.isEmpty || decide (l.nextBlock < l.last))

/-- The next block offered: one to be relaunched, else the next never offered (R330, R390). -/
def Launch.offer (l : Launch) : Launch :=
  match l.relaunch with
  | (n, a) :: rs => { l with relaunch := rs, waiting := l.waiting ++ [(n, a, 0)] }
  | [] => { l with nextBlock := l.nextBlock + 1, waiting := l.waiting ++ [(l.nextBlock, 1, 0)] }

/-- LAUNCH_MESSAGE (R319, R330): the next block of a launch is offered, unless a launch of higher priority has one. -/
def execLaunchMessage (launch cl : Nat) (s : State) : Res :=
  match Map.find s.launches launch with
  | some l =>
    if !l.offers || decide (48 ≤ cl) || !(s.cluster cl).linkUp ||
        s.launches.any fun p => p.2.offers && decide (l.prio < p.2.prio) then .next s
    else .next (s.setLaunch launch l.offer)
  | none => .next s

/-! ### Declared attachments (R308, R309) -/

/-- A declared attachment: window, name, and whether it loads (R70). -/
structure Declared where
  win : Nat
  name : Nat
  load : Bool
  deriving DecidableEq, Repr

/-- The declared attachments of a launch. -/
def Launch.declared (l : Launch) : List Declared :=
  ((List.range 4).filter fun w => bitOf l.smask w).map fun w => ⟨w, l.standing w, bitOf l.smask (4 + w)⟩

/-- A declared attachment with its segment. -/
def State.findDeclared (s : State) (ctx : Nat) (ds : List Declared) : List (Declared × Nat × Segment) :=
  ds.filterMap fun d => (s.segNamed ctx d.name).map fun p => (d, p.1, p.2)

/-- Granules of declared segments that a core holds. -/
def declaredAt (fs : List (Declared × Nat × Segment)) (core : Nat) : Nat :=
  ((fs.map fun f => f.2).dedup).foldl (fun n p => n + if p.2.st == .resident && p.2.loc == core then p.2.size else 0) 0

/-- The cores of list `xs` where a function is greatest, the first of them; none when it is 0 everywhere. -/
def mostOf (f : Nat → Nat) (xs : List Nat) : Option Nat :=
  xs.foldl (fun (o : Option Nat) c =>
    if f c = 0 then o
    else
      match o with
      | some b => if f b < f c then some c else some b
      | none => some c) none

/-- What R308 says about a core for the declared attachments: the block waits for a move to end or for another block to
let go; the core is fixed; or the core is free to choose, with those preferred in order. -/
inductive Binding where
  | wait
  | fixed (core : Nat)
  | free (preferred : List Nat)
  deriving DecidableEq, Repr

/-- Is a segment at a core, or on its way there? One that is COLD and is not being reloaded is at none (R308). -/
def Segment.settles (g : Segment) (core : Nat) : Bool := (g.st != .cold || g.goal.isSome) && g.dest == core

/-- The cores that rule 1 requires: those of segments with attachments, where their moves take them (R308). -/
def heldCores (fs : List (Declared × Nat × Segment)) : List Nat :=
  ((fs.filter fun f => f.2.2.attach != 0 && (f.2.2.st != .cold || f.2.2.goal.isSome)).map fun f => f.2.2.dest).dedup

/-- The core of the lowest window that attaches a RESIDENT segment without load (R308). -/
def fixedCore (fs : List (Declared × Nat × Segment)) : Option Nat :=
  (fs.find? fun f => !f.1.load && f.2.2.st == .resident && !f.2.2.busy).map fun f => f.2.2.loc

/-- The binding of a block by its declared attachments (R308). -/
def State.binding (s : State) (fs : List (Declared × Nat × Segment)) : Binding :=
  if fs.any fun f => f.2.2.busy && f.2.2.attach == 0 then .wait
  else
    match heldCores fs with
    | _ :: _ :: _ => .wait
    | [c] => .fixed c
    | [] =>
      match fixedCore fs with
      | some c => .fixed c
      | none =>
        .free ((mostOf (declaredAt fs) s.service).toList ++
          ((fs.find? fun f => f.2.2.st == .cold).map fun f => f.2.2.home).toList)

/-- Does R308 exclude a core: is another one required by rule 1, or by an attachment without load? -/
def excludes (fs : List (Declared × Nat × Segment)) (core : Nat) : Bool :=
  (heldCores fs).any (fun c => c != core) || (heldCores fs).isEmpty && (fixedCore fs).any fun c => c != core

/-- Why a declared attachment fails on a core: the reason of R309; nothing when it is made. -/
def State.attachFails (s : State) (ctx core : Nat) (d : Declared) : Option Nat :=
  match s.segNamed ctx d.name with
  | none => some 1
  | some (_, g) => if !d.load && !g.settles core then some 0 else none

/-- The segments that must be moved to a core: those that load and are not there (R308). -/
def movesTo (fs : List (Declared × Nat × Segment)) (core : Nat) : List (Nat × Segment) :=
  ((fs.filter fun f => f.1.load && !f.2.2.settles core).map fun f => f.2).dedup

/-! ### Room for a block (R307, R312, R339) -/

/-- What a block needs of a core beside its attachments. -/
structure Needs where
  launch : Nat
  n : Nat
  attempt : Nat
  decl : List Declared
  /-- warp indices that need a slot, with general slots and compact entries of their image (R402) -/
  warps : List (Nat × Nat × Nat)
  /-- the saved block, when it is one that is restored -/
  saved : Option Nat
  /-- the block slot that it has to take again -/
  slot : Option Nat
  deriving DecidableEq, Repr

/-- The needs of a block never run or relaunched. -/
def State.freshNeeds (s : State) (lk n attempt : Nat) : Needs :=
  let l := s.launch lk
  ⟨lk, n, attempt, l.declared, (List.range l.warps).map fun w => (w, 0, 0), none, none⟩

/-- Has a partition of a core a warp slot that no warp holds and that is not kept for a regrouping block? (R339) -/
def State.partFree (s : State) (core p : Nat) : Bool :=
  let taken := (s.warps.filter fun w => w.1 / 8 == 32 * core + p).length
  let kept := ((s.coreBlocks core).filter fun b => b.2.phase != .ended && (s.launch b.2.launch).regrp &&
    !(s.blockWarps b.1).any fun w => slotPart w.1 == p).length
  decide (taken + kept < 8)

/-- The lowest free warp slot of a partition. -/
def State.freeWarpSlot (s : State) (core p : Nat) : Nat :=
  256 * core + 8 * p + (((List.range 8).find? fun i => (Map.find s.warps (256 * core + 8 * p + i)).isNone).getD 0)

/-- The lowest free block slot of a core, or the one that a block has to take again. -/
def State.freeBlockSlot (s : State) (core : Nat) (slot : Option Nat) : Option Nat :=
  ((List.range 32).map fun i => 32 * core + i).find? fun k =>
    (Map.find s.blocks k).isNone && slot.all fun i => 32 * core + i == k

/-- Granules that a block takes on a core: its area, and with the first of its kind the galley and tile memory (R296). -/
def State.blockGranules (s : State) (lk core : Nat) : Nat :=
  let l := s.launch lk
  granules l.areaBytes + (if (Map.find (s.core core).galleys lk).isSome then 0 else granules l.galleyBytes) +
    if l.ltype == 2 && !(s.coreBlocks core).any fun p => p.2.phase != .ended && (s.launch p.2.launch).ltype == 2 then 64
    else 0

/-- The leaf entry of an address: where it stands, its value, and whether it maps 2 MiB; nothing when it is not mapped. -/
def leafOf (m : Mem) (va : Nat) : Nat → Nat → Option (Nat × Nat × Bool)
  | 0, table =>
    let leaf := table + 8 * (va / 2 ^ 16 % 32)
    let e := m.read leaf 8
    if bitOf e 0 && bitOf e 2 then some (leaf, e, false) else none
  | l + 1, table =>
    let leaf := table + 8 * (va / 2 ^ (21 + 9 * l) % 512)
    let e := m.read leaf 8
    if !bitOf e 0 then none
    else if bitOf e 2 then (if l = 0 then some (leaf, e, true) else none)
    else leafOf m va l (bitsOf e 51 8 * 256)

/-- The bytes of a page. -/
def pageBytes (large : Bool) : Nat := if large then 2 ^ 21 else 2 ^ 16

/-- The pages of 64 KiB of the migration under way in a context (R419). -/
def State.migPages (s : State) (c : Context) : Nat :=
  match leafOf s.mem c.migFrom 4 c.root with
  | some (_, _, large) => pageBytes large / 2 ^ 16
  | none => 1

/-- Pages pinned to a slice, or about to be by a migration under way (R302). -/
def State.slicePins (s : State) (sl : Nat) : Nat :=
  (s.frames.filter fun f => f.2.pin == some (512 + sl)).length +
    (s.ctxs.filter fun p => p.2.migbusy && entryHome p.2.migTo == 2 && bitsOf p.2.migTo 63 56 == sl).foldl
      (fun n p => n + s.migPages p.2) 0

/-- KiB that the slices of a cluster, those beside its cores, can lend to versions: 1 MiB each less what is lost and what is
pinned (R302, R316, R461). -/
def State.lendable (s : State) (cl : Nat) : Nat :=
  (clusterCores cl).foldl (fun n sl => n + (1024 - Map.getD s.sliceLoss sl 0 - 64 * s.slicePins sl)) 0

/-- KiB reserved for versions on a cluster (R303). -/
def State.reserved (s : State) (cl : Nat) : Nat :=
  s.blocks.foldl (fun n p =>
    n + if clusterOf (blockCore p.1) == cl && p.2.phase != .ended then 64 * (s.launch p.2.launch).vbud else 0) 0

/-- General slots and compact entries free in a partition (R402). -/
def State.partRoom (s : State) (core p : Nat) : Nat × Nat :=
  let ws := s.warps.filter fun w => w.1 / 8 == 32 * core + p
  (s.usableSlots (256 * core + 8 * p) - ws.foldl (fun n w => n + w.2.gHeld) 0,
    1024 - ws.foldl (fun n w => n + w.2.compactHeld) 0)

/-- May the blocks of a launch stand on a core beside those there? In proof mode only with their own (R343). -/
def State.companions (s : State) (lk core : Nat) : Bool :=
  let l := s.launch lk
  (s.coreBlocks core).all (fun b => b.2.launch == lk || (!l.proof && !(s.launch b.2.launch).proof)) &&
    (!l.proof || l.core.all fun c => c == core)

/-- Is a core open to blocks? (R312, R316, R442) -/
def State.open' (s : State) (core : Nat) : Bool :=
  decide (core < 192) && (s.core core).inService && (s.core core).draining.isEmpty &&
    (s.cluster (clusterOf core)).linkUp && !s.mss.paused && s.mss.pstate != 2 && s.mss.goal != 2

/-- Do the slots, reserves and version budget for a block exist on a core with a base partition? (R16, R25, R303, R307) -/
def State.slotsFit (s : State) (x : Needs) (core p0 : Nat) : Bool :=
  let l := s.launch x.launch
  let parts := if l.regrp then List.range 32 else x.warps.map fun w => (p0 + w.1) % 32
  decide (p0 < 32) && (!l.proof || p0 == 0) && (s.freeBlockSlot core x.slot).isSome &&
    (parts.all fun p => s.partFree core p && decide (l.regs ≤ s.usableSlots (256 * core + 8 * p))) &&
    (x.warps.all fun w =>
      let r := s.partRoom core ((p0 + w.1) % 32)
      decide (w.2.1 ≤ r.1) && decide (w.2.2 ≤ r.2)) &&
    decide (s.reserved (clusterOf core) + 64 * l.vbud ≤ s.lendable (clusterOf core))

/-- Does R308 let a block go to a core, where `room` says which cores have room after eviction? -/
def bindingAllows (b : Binding) (room : Nat → Bool) (core : Nat) : Bool :=
  match b with
  | .wait => false
  | .fixed c => c == core
  | .free ps =>
    match ps.find? room with
    | some c => c == core
    | none => true

/-- The granules and the segments that a block brings to a core. -/
def State.brings (s : State) (x : Needs) (core : Nat) : Nat × Nat :=
  let ms := movesTo (s.findDeclared (s.launch x.launch).ctx x.decl) core
  (s.blockGranules x.launch core + ms.foldl (fun n m => n + m.2.size) 0, ms.length)

/-- The evictions after which a block's memory fits on a core (R307, R310). -/
def State.memoryPlan (s : State) (x : Needs) (core : Nat) : Option (List Nat) :=
  let fs := s.findDeclared (s.launch x.launch).ctx x.decl
  s.roomPlan (s.launch x.launch).ctx core (s.brings x core).1 (s.brings x core).2 (fs.map fun f => f.2.1)

/-- What an attempt to admit a block comes to. -/
inductive Admit where
  | no
  /-- room would exist on a core after these evictions, and those under way -/
  | evict (core : Nat) (ks : List Nat)
  | ok (s : State) (bk : Nat)

/-- A warp as its block is admitted: its threads stand at the kernel entry (R12, R39). -/
def freshWarp (l : Launch) (bk w seq : Nat) (trap : Option (Nat × Nat)) : Warp :=
  let t (i : Nat) : Nat := 32 * w + i
  { Warp.blank with
    blk := bk
    index := w
    role := l.role w
    lanes := Vector.ofFn fun i =>
      if t i.val < l.threads then
        { Lane.none with
          pc := addrPc (BitVec.ofNat 57 l.entry)
          st := .live
          tx := t i.val % l.dimx
          ty := t i.val / l.dimx % l.dimy
          tz := t i.val / (l.dimx * l.dimy) }
      else { Lane.none with
        tx := t i.val % l.dimx
        ty := t i.val / l.dimx % l.dimy
        tz := t i.val / (l.dimx * l.dimy) }
    seqno := seq
    firstTrap := trap }

/-- The trap of a block whose declared attachments fail: STANDMISS with the lowest such window (R309). -/
def State.standmiss (s : State) (ctx core : Nat) (ds : List Declared) : Option (Nat × Nat) :=
  (ds.findSome? fun d => (s.attachFails ctx core d).map fun r => (d.win, r)).map fun p => (0x09, p.1 + 2 ^ 8 * p.2)

/-- The moves that bring declared segments to a core set off, for the launch's queue: their granules there are taken from
now on (R307, R308, R310, R411). -/
def State.bringAll (s : State) (q core : Nat) (ms : List (Nat × Segment)) : State :=
  ms.foldl (fun s m =>
    let g := { m.2 with goal := some (.reload core), queue := q }
    if m.2.st == .cold then (s.setSeg m.1 { g with loading := true }).segEnter m.1
    else s.setSeg m.1 { g with st := .moving, loading := false }) s

/-- Declared attachments made: each takes its window at once, and the block starts when the segments are resident (R307,
R309). -/
def State.attachAll (s : State) (bk ctx : Nat) (ds : List Declared) : State :=
  ds.foldl (fun s d =>
    match s.segNamed ctx d.name with
    | some (k, _) => s.attach k bk d.win
    | none => s) s

/-- A block takes its slot, its memory and its attachments on a core (R307), but those that fail on the core (R309); its
warps are put there by the caller. The time that it has run counts from here (R333, R347). -/
def State.occupy (s : State) (x : Needs) (core bk p0 : Nat) : State :=
  let l := s.launch x.launch
  let ms := movesTo (s.findDeclared l.ctx x.decl) core
  let first := !(s.coreBlocks core).any fun p => p.2.launch == x.launch
  let c := s.core core
  let t := s.setCore core { c with
    galleys := if (Map.find c.galleys x.launch).isSome then c.galleys else Map.set c.galleys x.launch []
    bricks := if first then [] else c.bricks }
  let b : Block := { Block.blank with
    launch := x.launch
    n := x.n
    attempt := x.attempt
    p0 := p0
    phase := .starting
    admitted := s.clk }
  let u := (t.setBlock bk b).bringAll l.queue core ms
  let u := u.attachAll bk l.ctx (x.decl.filter fun d => (s.attachFails l.ctx core d).isNone)
  let y := u.launch x.launch
  u.setLaunch x.launch { y with core := if y.proof then some core else y.core }

/-- Could a block be placed, by slots and memory? -/
def State.tryPlace (s : State) (x : Needs) (core p0 : Nat) : Admit :=
  let fs := s.findDeclared (s.launch x.launch).ctx x.decl
  let room (c : Nat) : Bool := s.open' c && (s.memoryPlan x c).isSome
  if !s.open' core || !s.companions x.launch core || !s.slotsFit x core p0 || !bindingAllows (s.binding fs) room core then .no
  else
    match s.memoryPlan x core, s.freeBlockSlot core x.slot with
    | some ks, some bk =>
      if s.hasRoom core (s.brings x core).1 (s.brings x core).2 then .ok (s.occupy x core bk p0) bk else .evict core ks
    | some ks, none => .evict core ks
    | none, _ => .no

/-- The warps of a block just admitted. -/
def State.addWarps (s : State) (x : Needs) (core bk p0 : Nat) (trap : Option (Nat × Nat)) : State :=
  let l := s.launch x.launch
  (List.range l.warps).foldl (fun s w =>
    let slot := s.freeWarpSlot core ((p0 + w) % 32)
    s.setWarp slot (freshWarp l bk w ((s.core core).seqNext.get (Fin.ofNat 32 ((p0 + w) % 32))) trap)) s

/-- One block admitted with its warps. -/
def State.admitOne (s : State) (x : Needs) (core p0 : Nat) : Admit :=
  match s.tryPlace x core p0 with
  | .ok t bk => .ok (t.addWarps x core bk p0 (s.standmiss (s.launch x.launch).ctx core x.decl)) bk
  | r => r

/-- The first base partition with which a block fits on a core. -/
def State.basePartition (s : State) (x : Needs) (core : Nat) : Option Nat :=
  (List.range 32).find? fun p => s.slotsFit x core p

/-! ### Neighbourhood groups (R334) -/

/-- The members of the group of block n that this device runs: block index and place in the group (R334, R350). -/
def Launch.groupOf (l : Launch) (n : Nat) : List (Nat × Nat) :=
  if l.nbhd then
    let a := l.nbw * l.nbh
    ((List.range a).filter fun m => decide (l.first ≤ n / a * a + m) && decide (n / a * a + m < l.last)).map fun m =>
      (n / a * a + m, m)
  else [(n, 0)]

/-- Has a block of a launch completed or failed: it was offered, and is neither waiting, nor resident, nor saved? (R390) -/
def State.blockGone (s : State) (lk n : Nat) : Bool :=
  let l := s.launch lk
  decide (n < l.nextBlock) && !(l.waiting.any fun w => w.1 == n) && !(l.relaunch.any fun w => w.1 == n) &&
    !((s.launchBlocks lk).any fun p => p.2.n == n) && !s.saved.any fun p => p.2.blk.launch == lk && p.2.blk.n == n

/-- The members of the group of block n that are admitted together: those that have not completed (R334, R390). -/
def State.groupLeft (s : State) (lk n : Nat) : List (Nat × Nat) :=
  ((s.launch lk).groupOf n).filter fun m => !s.blockGone lk m.1

/-- The cores of a rectangle with its lowest corner at a core, when it lies on the mesh and is in service. -/
def State.rectangle (s : State) (l : Launch) (corner : Nat) : Bool :=
  !l.nbhd || (decide (corner % 16 + l.nbw ≤ 16) && decide (corner / 16 + l.nbh ≤ 12) &&
    (List.range (l.nbw * l.nbh)).all fun m => (s.core (corner + m % l.nbw + 16 * (m / l.nbw))).inService)

/-- The core of a member in a rectangle (R299). -/
def memberCore (l : Launch) (corner m : Nat) : Nat := if l.nbhd then corner + m % l.nbw + 16 * (m / l.nbw) else corner

/-- Blocks admitted together: all, or none with the evictions that some of them need. -/
def State.admitAll (s : State) (f : State → Needs → Nat → Nat → Admit) (p0 : Nat) : List (Needs × Nat) → Admit
  | [] => .ok s 0
  | (x, core) :: xs =>
    let p := if s.slotsFit x core p0 then some p0 else s.basePartition x core
    match p with
    | none => .no
    | some p =>
      match f s x core p with
      | .ok t bk =>
        match t.admitAll f p0 xs with
        | .ok u _ => .ok u bk
        | r => r
      | r => r

/-- A block, or its whole group, admitted with its lowest corner at a core. -/
def State.admitGroup (s : State) (lk n corner p0 : Nat) : Admit :=
  let l := s.launch lk
  let attempt (n : Nat) : Nat := ((l.waiting.find? fun w => w.1 == n).map fun w => w.2.1).getD 1
  if !s.rectangle l corner then .no
  else if !l.nbhd && !s.slotsFit (s.freshNeeds lk n (attempt n)) corner p0 then .no
  else
    s.admitAll State.admitOne p0
      ((s.groupLeft lk n).map fun m => (s.freshNeeds lk m.1 (attempt m.1), memberCore l corner m.2))

/-- Does an attempt succeed? -/
def Admit.fits (a : Admit) : Bool :=
  match a with
  | .ok _ _ => true
  | _ => false

/-- Does an attempt succeed, or would it after evictions? -/
def Admit.possible (a : Admit) : Bool :=
  match a with
  | .no => false
  | _ => true

/-- Could a waiting block be admitted at a core now, with some base partition? -/
def State.fitsNow (s : State) (lk n core : Nat) : Bool :=
  let l := s.launch lk
  match if l.nbhd then some 0 else s.basePartition (s.freshNeeds lk n 1) core with
  | some p0 => (s.admitGroup lk n core p0).fits
  | none => false

/-! ### Restores: where a saved block goes (R334, R346, R402, R451) -/

/-- The saved blocks that are restored together with one: its neighbourhood group, or its launch in proof mode. -/
def State.savedGroup (s : State) (sv : Nat) : List (Nat × Saved) :=
  match Map.find s.saved sv with
  | none => []
  | some x =>
    let l := s.launch x.blk.launch
    let a := l.nbw * l.nbh
    if l.nbhd || l.proof then
      s.saved.filter fun (p : Nat × Saved) => p.2.blk.launch == x.blk.launch && (l.proof || p.2.blk.n / a == x.blk.n / a)
    else [(sv, x)]

/-- The needs of a saved block: its windows are attached with load; in proof mode it takes its old slots (R402, R451). -/
def State.savedNeeds (s : State) (sv : Nat) (x : Saved) : Needs :=
  let l := s.launch x.blk.launch
  let decl := (List.range 4).filterMap fun w =>
    (((x.segNames[w]?).join).bind fun n => if (s.segNamed l.ctx n).isSome then some n else none).map fun n =>
      (⟨w, n, true⟩ : Declared)
  ⟨x.blk.launch, x.blk.n, x.blk.attempt, decl, x.warps.map fun p => (p.2.index, p.2.gHeld, p.2.compactHeld), some sv,
    if l.proof then some x.slot else none⟩

/-- The slot that a warp of a restored block takes: the recorded one in proof mode (R451). -/
def State.restoreSlot (s : State) (core p0 old : Nat) (w : Warp) (proof : Bool) : Nat :=
  if proof then 256 * core + old % 256 else s.freeWarpSlot core ((p0 + w.index) % 32)

/-- The warps of a saved block put into slots, with the registers of the image. -/
def State.addSaved (s : State) (x : Saved) (core bk p0 : Nat) : State :=
  let proof := (s.launch x.blk.launch).proof
  x.warps.foldl (fun s p => s.setWarp (s.restoreSlot core p0 p.1 p.2 proof) { p.2 with blk := bk }) s

/-- A saved block put on a core with its warps. -/
def State.restoreOne (s : State) (x : Needs) (core p0 : Nat) : Admit :=
  match x.saved.bind fun k => Map.find s.saved k with
  | none => .no
  | some v =>
    match s.tryPlace x core p0 with
    | .ok t bk => .ok (t.addSaved v core bk p0) bk
    | r => r

/-- A saved block, or all that are restored with it, on a core: for a group the core of its lowest corner, in proof mode
a core with no block (R334, R346, R402, R451). -/
def State.restoreGroup (s : State) (sv core p0 : Nat) : Admit :=
  match Map.find s.saved sv with
  | none => .no
  | some x =>
    let l := s.launch x.blk.launch
    let a := l.nbw * l.nbh
    let free := !l.proof || (s.coreBlocks core).isEmpty
    let s := if l.proof then s.setLaunch x.blk.launch { l with core := some core } else s
    if !free || !s.rectangle l core || x.order.any (fun c => c != core) then .no
    else if !l.nbhd && !s.slotsFit (s.savedNeeds sv x) core p0 then .no
    else
      s.admitAll State.restoreOne p0
        ((s.savedGroup sv).map fun p => (s.savedNeeds p.1 p.2, memberCore l core (if l.nbhd then p.2.blk.n % a else 0)))

/-- Could a saved block be restored at a core now? -/
def State.restoreFits (s : State) (sv core : Nat) : Bool :=
  match Map.find s.saved sv with
  | some x =>
    let l := s.launch x.blk.launch
    match if l.nbhd || l.proof then some 0 else s.basePartition (s.savedNeeds sv x) core with
    | some p0 => (s.restoreGroup sv core p0).fits
    | none => false
  | none => false

/-- May saved blocks be restored? Not while the device is to be in QUIESCE or STANDBY after a STANDBY (R442), nor while
an ACTIVATE pauses scheduling (R439). -/
def State.restoring (s : State) : Bool := !s.mss.held && !s.mss.paused

/-! ### The order of admission (R312, R333) -/

/-- Cycles in 2 ms and in 50 µs (R1, R312, R333). -/
def waitLimit : Nat := 3000000
def preemptWait : Nat := 75000

/-- A block that waits for a core: its launch and index, the saved copy of one to be restored, its priority, the clock at its
arrival, and the cycles it has waited. -/
structure Waiter where
  launch : Nat
  n : Nat
  saved : Option Nat
  prio : Nat
  arrival : Nat
  waited : Nat
  deriving DecidableEq, Repr

/-- Every block that waits for a core: those offered, and the saved ones while restores are made; a saved block's arrival is
its first admission (R312, R333). -/
def State.waiters (s : State) : List Waiter :=
  (s.launches.flatMap fun (p : Nat × Launch) => p.2.waiting.map fun w =>
    (⟨p.1, w.1, none, p.2.prio, s.clk - w.2.2, w.2.2⟩ : Waiter)) ++
  if s.restoring then
    s.saved.map fun (p : Nat × Saved) =>
      ⟨p.2.blk.launch, p.2.blk.n, some p.1, (s.launch p.2.blk.launch).prio, p.2.blk.admitted, p.2.waited⟩
  else []

/-- The waiting block of a launch with an index. -/
def State.waiter (s : State) (lk n : Nat) : Option Waiter := s.waiters.find? fun w => w.launch == lk && w.n == n

/-- Does one waiting block come before another: higher priority, then earlier arrival, then launch and index? -/
def Waiter.before (a b : Waiter) : Bool :=
  decide (b.prio < a.prio) || (a.prio == b.prio && (decide (a.arrival < b.arrival) ||
    (a.arrival == b.arrival && (decide (a.launch < b.launch) || (a.launch == b.launch && decide (a.n < b.n))))))

/-- The blocks that take their cores together with a waiting block: needs and place in the group (R334, R346). -/
def State.party (s : State) (w : Waiter) : List (Needs × Nat) :=
  let l := s.launch w.launch
  match w.saved with
  | none => (s.groupLeft w.launch w.n).map fun m => (s.freshNeeds w.launch m.1 1, m.2)
  | some k => (s.savedGroup k).map fun p => (s.savedNeeds p.1 p.2, if l.nbhd then p.2.blk.n % (l.nbw * l.nbh) else 0)

/-- The cores that a waiting block takes with its corner at a core: those of its group (R334). -/
def State.partyCores (s : State) (w : Waiter) (corner : Nat) : List Nat :=
  (s.party w).map fun x => memberCore (s.launch w.launch) corner x.2

/-- The corners from which a waiting block would take a core: for a group those of every rectangle that holds it (R312). -/
def State.corners (s : State) (w : Waiter) (core : Nat) : List Nat :=
  let l := s.launch w.launch
  if l.nbhd then (List.range 192).filter fun c => s.rectangle l c && (s.partyCores w c).contains core else [core]

/-- Could a waiting block be put on a core now, with some base partition, in any place that takes the core? -/
def State.fitsAt (s : State) (w : Waiter) (core : Nat) : Bool :=
  (s.corners w core).any fun c =>
    match w.saved with
    | none => s.fitsNow w.launch w.n c
    | some k => s.restoreFits k c

/-- Do the slots, reserves and version budget that a block needs exist on a core once its blocks have gone? (R307, R312) -/
def State.slotsExist (s : State) (x : Needs) (core : Nat) : Bool :=
  let l := s.launch x.launch
  let others := { s with blocks := s.blocks.filter fun p => blockCore p.1 != core }
  ((List.range 32).any fun p0 => (if l.regrp then List.range 32 else x.warps.map fun w => (p0 + w.1) % 32).all fun p =>
    decide (l.regs ≤ s.usableSlots (256 * core + 8 * p))) &&
  decide (others.reserved (clusterOf core) + 64 * l.vbud ≤ s.lendable (clusterOf core))

/-- Could a core in service hold a block once every block area, galley area and unattached segment there had been released,
and does R308 not exclude it? (R312) -/
def State.couldHold (s : State) (x : Needs) (core : Nat) : Bool :=
  let l := s.launch x.launch
  let fs := s.findDeclared l.ctx x.decl
  let ms := movesTo fs core
  let kept := (s.segs.filter fun p => p.2.takes core && (p.2.attach != 0 || fs.any fun f => f.2.1 == p.1)).map Prod.snd
  decide (core < 192) && (s.core core).inService && (!l.proof || l.core.all fun c => c == core) && !excludes fs core &&
    decide (l.need + (ms.map Prod.snd ++ kept).foldl (fun n g => n + g.size) 0 + 16 * s.pinsOf core ≤ s.capacity core) &&
    decide (ms.length + kept.length ≤ 16) && s.slotsExist x core

/-- Could a waiting block use a core? For a group, every core of every rectangle that could hold it counts (R312). -/
def State.couldUse (s : State) (w : Waiter) (core : Nat) : Bool :=
  let l := s.launch w.launch
  let xs := s.party w
  (s.corners w core).any fun c => xs.all fun x => s.couldHold x.1 (memberCore l c x.2)

/-- Do two waiting blocks take their cores together: members of one group, or saved blocks of one launch in proof mode? -/
def State.sameParty (s : State) (a b : Waiter) : Bool :=
  let l := s.launch a.launch
  a.launch == b.launch && (a.n == b.n || (l.proof && a.saved.isSome && b.saved.isSome) ||
    (l.nbhd && a.n / (l.nbw * l.nbh) == b.n / (l.nbw * l.nbh)))

/-- May a waiting block go to a core before the others that wait? Those before it do not fit there, and none of them has
waited 2 ms and could use the core (R312); in proof mode the blocks of a launch go in order (R343). The spec does not say
whether a block of higher priority that arrived after a 2 ms waiter is 'later' than it: it is not here, 'later' being read
in the order priority, then arrival (log entry 109). -/
def State.turnOf (s : State) (w : Waiter) (core : Nat) : Bool :=
  (s.waiters.filter fun o => o.before w && !s.sameParty o w).all fun o =>
    !(o.launch == w.launch && (s.launch w.launch).proof) && !s.fitsAt o core &&
      !(decide (waitLimit ≤ o.waited) && s.couldUse o core)

/-- Is a corner the first at which a neighbourhood group fits? (R334) -/
def State.firstCorner (s : State) (lk n corner : Nat) : Bool :=
  !(s.launch lk).nbhd || (List.range corner).all fun c => !s.fitsNow lk n c

/-- May a waiting block take every core of its place before the others that wait? (R312) -/
def State.turnAt (s : State) (w : Waiter) (corner : Nat) : Bool := (s.partyCores w corner).all fun c => s.turnOf w c

/-- BLOCK_ADMISSION (R307, R308, R310, R312, R334): the block takes all its resources on the core in one step; where
evictions are needed first, they are set off and it goes on waiting. -/
def execBlockAdmission (launch n core p0 : Nat) (s : State) : Res :=
  match s.waiter launch n with
  | none => .next s
  | some w =>
    let members := s.groupLeft launch n
    let all := members.all fun m => s.waiters.any fun w => w.launch == launch && w.n == m.1 && w.saved.isNone
    if w.saved.isSome || !all || (s.launch launch).ended || !s.turnAt w core || !s.firstCorner launch n core then .next s
    else
      match s.admitGroup launch n core p0 with
      | .no => .next s
      | .evict c ks => .next (s.evictFirst (s.launch launch).queue (s.launch launch).ctx c .evict ks)
      | .ok t _ =>
        let l := t.launch launch
        .next (t.setLaunch launch { l with
          waiting := l.waiting.filter fun (w : Nat × Nat × Nat) => !members.any fun m => m.1 == w.1 })

/-- ADMISSION_REFUSAL (R319): the leaf controller reports only the outcome; the block goes on waiting. -/
def execAdmissionRefusal (_launch _n : Nat) (s : State) : Res := .next s

/-- ADMISSION_WAIT_LIMIT (R312): a block has waited 2 ms. Later blocks yield to it from that cycle on by its own count of
cycles (State.turnOf), so the event has nothing to change. -/
def execAdmissionWaitLimit (_launch _n : Nat) (s : State) : Res := .next s

/-! ### Priority (R333) -/

/-- The running blocks of lower priority on a core, as they are chosen: lowest priority first, then the most recent. -/
def State.victims (s : State) (prio core : Nat) : List Nat :=
  (sortBy (fun (a b : Nat × Block) =>
      let pa := (s.launch a.2.launch).prio
      let pb := (s.launch b.2.launch).prio
      decide (pa < pb) || (pa == pb && decide (a.2.ran ≤ b.2.ran)))
    ((s.coreBlocks core).filter fun p => p.2.phase == .running && decide ((s.launch p.2.launch).prio < prio))).map Prod.fst

/-- Could a waiting block be put on a core, evictions made first, in any place that takes the core? (R312, R333) -/
def State.possibleAt (s : State) (w : Waiter) (core : Nat) : Bool :=
  let l := s.launch w.launch
  (s.corners w core).any fun c =>
    match w.saved with
    | none =>
      match if l.nbhd then some 0 else s.basePartition (s.freshNeeds w.launch w.n 1) c with
      | some p0 => (s.admitGroup w.launch w.n c p0).possible
      | none => false
    | some k =>
      (Map.find s.saved k).any fun x =>
        match if l.nbhd || l.proof then some 0 else s.basePartition (s.savedNeeds k x) c with
        | some p0 => (s.restoreGroup k c p0).possible
        | none => false

/-- The shortest beginning of a list of blocks whose release makes room for a waiting block. -/
def State.enough (s : State) (w : Waiter) (core : Nat) : List Nat → List Nat → Option (List Nat)
  | [], _ => none
  | v :: vs, done =>
    let t := s.removeBlock v
    if t.possibleAt w core then some (done ++ [v]) else t.enough w core vs (done ++ [v])

/-- PRIORITY_PREEMPTION (R333): after 50 µs of waiting, just the blocks that must leave a core are requested, for a block
offered or for a saved one. -/
def execPriorityPreemption (launch n core : Nat) (s : State) : Res :=
  match s.waiter launch n with
  | some w =>
    if w.waited < preemptWait ∨ !s.couldUse w core ∨ (s.service.any fun c => s.fitsAt w c) then .next s
    else
      match s.enough w core (s.victims w.prio core) [] with
      | some vs => .next (vs.foldl (fun s v => s.requestSave 0 v) s)
      | none => .next s
  | none => .next s

/-! ### The start of a block (R39, R297, R307, R331, R341, R375 to R377) -/

/-- Who fills a block's input tiles (R331, R403): the copies are made for the packet's queue. -/
def State.inputParty (s : State) (bk : Nat) : Party :=
  let l := s.launch (s.block bk).launch
  ⟨l.ctx, 2 ^ 40, .input bk, blockCore bk, l.queue, 4⟩

/-- The copies that a block's start makes: memory address and length. -/
def Launch.copies (l : Launch) (n : Nat) : List (Nat × Nat) :=
  (List.range l.nin).map fun j =>
    ((field l.inputs (16 * j) 8 + n * field l.inputs (16 * j + 8) 8) % 2 ^ 57, (l.inputSpec j).2)

/-- The reads of a fragment block: the in-bounds visibility entries of each row, the rate byte, and COLOR (R375 to R377). -/
def Launch.tileReads (l : Launch) (n : Nat) : List (Nat × Nat) :=
  let b := l.bid n
  let x0 := 32 * b.1
  let y0 := 32 * b.2.1
  let rows := (List.range 32).filter fun r => decide (y0 + r < l.height) && decide (x0 < l.width)
  let w := min 32 (l.width - x0)
  let vis := rows.map fun r => ((field l.tgt 0 8 + (y0 + r) * field l.tgt 0x24 4 + 8 * x0) % 2 ^ 57, 8 * w)
  let rate := if l.ratemap = 0 ∨ rows = [] then []
    else [((l.ratemap + b.2.1 * ((l.width + 31) / 32) + b.1) % 2 ^ 57, 1)]
  let color := if l.hasColor then rows.map fun r => (colorAddr l n r 0, 8 * w) else []
  vis ++ rate ++ color

/-- The visibility entries of a tile as 32 rows of 32 entries, those out of bounds empty. -/
def visTile (rows : List (List Byte)) : List Byte :=
  rows.flatMap fun r => r ++ List.replicate (256 - r.length) 0

/-- Is the tile of a block in a region that this device owns? (R376, R379) -/
def State.ownsTile (s : State) (l : Launch) (n : Nat) : Bool :=
  let b := l.bid n
  l.owners == 0 || l.regionOwner (32 * b.1 / l.region) (32 * b.2.1 / l.region) == some s.mss.domid

/-- The block with its fragment list and its tile (R376, R377). -/
def State.shade (s : State) (l : Launch) (b : Block) (bs : List (List Byte)) : Block :=
  let p := l.bid b.n
  let rows := (List.range 32).filter fun r => decide (32 * p.2.1 + r < l.height) && decide (32 * p.1 < l.width)
  let k := rows.length
  let rated := l.ratemap != 0 && k != 0
  let rate := if rated then field ((bs[k]?).getD []) 0 1 else 0
  let color := bs.drop (k + if rated then 1 else 0)
  let fs := if s.ownsTile l b.n then fragmentsOf l (32 * p.1) (32 * p.2.1) rate (visTile (bs.take k)) else []
  let c := b.withFragments l.areaBytes rate fs
  { c with tile := color.zipIdx.foldl (fun m q => m.putBytes (8 * 32 * q.2) q.1) [] }

/-- The area of a block with its input tiles and a child's arguments (R297, R331, R341). -/
def Launch.filled (l : Launch) (bs : List (List Byte)) : Mem :=
  let m := bs.zipIdx.foldl (fun m q => putArea l.areaBytes m (l.inputSpec q.2).1 q.1) []
  putArea l.areaBytes m 0 l.args

/-- The warps of a block take their sequence numbers (R337). -/
def State.numberWarps (s : State) (bk : Nat) : State :=
  (s.blockWarps bk).foldl (fun s p =>
    let r := s.takeSeq p.1
    r.1.setWarp p.1 { r.1.warp p.1 with seqno := r.2 }) s

/-- BLOCK_START (R39, R307, R402): every input tile is resident and every declared attachment has completed; a restored
block goes on once its windows are attached again. -/
def execBlockStart (b : Nat) (s : State) : Res :=
  match Map.find s.blocks b with
  | none => .next s
  | some x =>
    if x.phase == .restoring && s.attachedHere b then
      let t := s.setBlock b { x with phase := .running }
      .next (if (t.blockWarps b).isEmpty then t.closeBlock b else t.checkBarrier b)
    else if x.phase != .starting || !s.attachedHere b then .next s
    else
      let l := s.launch x.launch
      let p := s.inputParty b
      let copies := l.copies x.n
      let reads := copies ++ if l.ltype == 2 then l.tileReads x.n else []
      let first := (reads.headD (0, 0)).1
      if !reads.isEmpty && (s.queue l.queue).refuses first then .next s
      else
      let r := s.fetchAll (fun t i =>
        let q := (reads[i]?).getD (0, 0)
        t.fetch p q.1 q.2) (List.range reads.length)
      if r.2.2 then .next (s.refuseQueue l.queue first)
      else
        match r.1 with
        | some t => .next t
        | none =>
          let t := ((s.dropKept p.who).settle p.ctx p.who).numberWarps b
          let y := { t.block b with area := l.filled (r.2.1.take copies.length), phase := .running }
          .next (t.setBlock b (if l.ltype == 2 then t.shade l y (r.2.1.drop copies.length) else y))

/-! ### The completion of a block (R294, R319) -/

/-- Is the writing of an ended block's tile refused for permission? -/
def State.tileDenied (s : State) (bk : Nat) : Bool :=
  let b := s.block bk
  let l := s.launch b.launch
  !b.flushed && l.hasColor && (tilePixels l b.n).any fun p => s.walk l.ctx .write (colorAddr l b.n p.1 p.2) == .denied

/-- BLOCK_COMPLETION (R294, R319): the tile's writing is tried again where it had to wait, and a commit to other devices
goes on; the block is complete once all of it is performed (R290, R427). A refusal for permission freezes the block's engine
channel, and the tile is written once it is unfrozen (R403; log entry 93). -/
def execBlockCompletion (b : Nat) (s : State) : Res :=
  match Map.find s.blocks b with
  | none => .next s
  | some x =>
    if x.phase != .ended then .next s
    else
      let t := if s.isFrozen (s.channel b) then s else s.flushTile b
      if !(t.block b).version.isEmpty then .next (t.commitVersion (t.launch x.launch).ctx b (blockCore b) (.engine b 4))
      else if !t.blockOver b (t.block b) || !t.enginesDone b then
        .next (if t.tileDenied b && !t.isFrozen (t.channel b) then t.freeze (t.channel b) else t)
      else
        let l := t.launch x.launch
        let cl := clusterOf (blockCore b)
        let u := t.cluster cl
        .next ({ (t.setLaunch x.launch { l with done := l.done + 1 }).setCluster cl
            { u with order := u.order.filter fun k => k != b } with
          ext := t.ext.filter fun r => !t.partyOf b r.who
          blocks := Map.erase t.blocks b }.switched cl)

end Sys2Proof.Machine
end

