-- ==== Sys2Proof/Machine/Packed.lean ====
section
/-! DEFINITION. Packed FP16, BF16 and INT16 arithmetic, dot products and rounding shifts (R151, R152, R159 to R163). -/

namespace Sys2Proof.Machine

/-- Element 0 or 1 of a lane (R75). -/
def elem (x : Word) (hi : Bool) : Nat := x.toNat / (if hi then 2 ^ 16 else 1) % 2 ^ 16

/-- Two elements packed into a lane, with the OR of their flags (R75, R87). -/
def packOut (r0 r1 : Rounded) : FOut :=
  ⟨BitVec.ofNat 32 (r0.bits % 2 ^ 16 + 2 ^ 16 * (r1.bits % 2 ^ 16)), r0.flags ||| r1.flags⟩

/-- KSTAT.FLUSH16 of the executing launch (R84). -/
def State.flush16 (s : State) : Bool := s.myLaunch.flush16

/-- The value of an element of a 16-bit format, flushed where FLUSH16 asks for it (R84). -/
def elemVal (f : FloatFormat) (flush : Bool) (x : Word) (hi : Bool) : Val := f.flushIn flush (f.decode (elem x hi))

/-- A packed floating result of two sources, element by element (R151). -/
def State.half2 (s : State) (g : Guard) (d : Nat) (f : FloatFormat) (rm : Rm) (a b : Src) (op : Val → Val → Exact) :
    Res :=
  let fl := s.flush16
  s.float2 g d a b fun x y =>
    packOut ((op (elemVal f fl x false) (elemVal f fl y false)).round f rm fl)
      ((op (elemVal f fl x true) (elemVal f fl y true)).round f rm fl)

/-- A packed fused multiply-add (R151). -/
def State.half3 (s : State) (g : Guard) (d : Nat) (f : FloatFormat) (rm : Rm) (a b c : Src) : Res :=
  let fl := s.flush16
  let op (x y z : Word) (hi : Bool) : Rounded :=
    (Val.fma rm (elemVal f fl x hi) (elemVal f fl y hi) (elemVal f fl z hi)).round f rm fl
  s.float3 g d a b c fun x y z => packOut (op x y z false) (op x y z true)

/-- A packed minimum or maximum (R143, R151). -/
def State.halfMinMax (s : State) (g : Guard) (d : Nat) (f : FloatFormat) (mx : Bool) (a b : Src) : Res :=
  let fl := s.flush16
  s.float2 g d a b fun x y =>
    packOut (f.minmax fl mx (elem x false) (elem y false)) (f.minmax fl mx (elem x true) (elem y true))

/-- A packed comparison: each element, then the combination (R152). -/
def State.halfCmp (s : State) (g : Guard) (q : Nat) (f : FloatFormat) (cc : FCond) (comb : Comb) (a b : Src) : Res :=
  let fl := s.flush16
  s.fcmp2 g q a b fun x y =>
    let r0 := fcondHolds cc (elemVal f fl x false) (elemVal f fl y false)
    let r1 := fcondHolds cc (elemVal f fl x true) (elemVal f fl y true)
    (match comb with
      | .lo => r0.1
      | .hi => r1.1
      | .and => r0.1 && r1.1
      | .or => r0.1 || r1.1, r0.2 ||| r1.2)

/-- HADD2 (R151). -/
def execHadd2 (g : Guard) (d : Nat) (rm : Rm) (a b : Src) (s : State) : Res := s.half2 g d fp16 rm a b (Val.add rm)
/-- HMUL2 (R151). -/
def execHmul2 (g : Guard) (d : Nat) (rm : Rm) (a b : Src) (s : State) : Res := s.half2 g d fp16 rm a b Val.mul
/-- HMIN2 (R151). -/
def execHmin2 (g : Guard) (d : Nat) (a b : Src) (s : State) : Res := s.halfMinMax g d fp16 false a b
/-- HMAX2 (R151). -/
def execHmax2 (g : Guard) (d : Nat) (a b : Src) (s : State) : Res := s.halfMinMax g d fp16 true a b
/-- HCMP2 (R152). -/
def execHcmp2 (g : Guard) (q : Nat) (cc : FCond) (comb : Comb) (a b : Src) (s : State) : Res :=
  s.halfCmp g q fp16 cc comb a b
/-- HFMA2 (R151). -/
def execHfma2 (g : Guard) (d : Nat) (rm : Rm) (a b c : Src) (s : State) : Res := s.half3 g d fp16 rm a b c
/-- BADD2 (R151). -/
def execBadd2 (g : Guard) (d : Nat) (rm : Rm) (a b : Src) (s : State) : Res := s.half2 g d bf16 rm a b (Val.add rm)
/-- BMUL2 (R151). -/
def execBmul2 (g : Guard) (d : Nat) (rm : Rm) (a b : Src) (s : State) : Res := s.half2 g d bf16 rm a b Val.mul
/-- BMIN2 (R151). -/
def execBmin2 (g : Guard) (d : Nat) (a b : Src) (s : State) : Res := s.halfMinMax g d bf16 false a b
/-- BMAX2 (R151). -/
def execBmax2 (g : Guard) (d : Nat) (a b : Src) (s : State) : Res := s.halfMinMax g d bf16 true a b
/-- BCMP2 (R152). -/
def execBcmp2 (g : Guard) (q : Nat) (cc : FCond) (comb : Comb) (a b : Src) (s : State) : Res :=
  s.halfCmp g q bf16 cc comb a b
/-- BFMA2 (R151). -/
def execBfma2 (g : Guard) (d : Nat) (rm : Rm) (a b c : Src) (s : State) : Res := s.half3 g d bf16 rm a b c

/-- An integer placed in `n` bits: wrapped, or clamped with SAT (R73). -/
def placeInt (signed sat : Bool) (n : Nat) (x : Int) : Rounded :=
  if sat then
    let c := clampInt (intMin signed n) (intMax signed n) x
    ⟨wrapInt n c.1, flagIf c.2 flagSAT⟩
  else ⟨wrapInt n x, 0⟩

/-- A packed integer result (R159). -/
def State.packed2 (s : State) (g : Guard) (d : Nat) (sat u : Bool) (a b : Src) (op : Int → Int → Int) : Res :=
  s.float2 g d a b fun x y =>
    let r (hi : Bool) : Rounded := placeInt (!u) sat 16 (op (intOf (!u) 16 (elem x hi)) (intOf (!u) 16 (elem y hi)))
    packOut (r false) (r true)

/-- IADD2 (R159). -/
def execIadd2 (g : Guard) (d : Nat) (sat u : Bool) (a b : Src) (s : State) : Res := s.packed2 g d sat u a b (· + ·)
/-- ISUB2 (R159). -/
def execIsub2 (g : Guard) (d : Nat) (sat u : Bool) (a b : Src) (s : State) : Res := s.packed2 g d sat u a b (· - ·)
/-- IMUL2 (R159). -/
def execImul2 (g : Guard) (d : Nat) (sat u : Bool) (a b : Src) (s : State) : Res := s.packed2 g d sat u a b (· * ·)
/-- IMIN2 (R159). -/
def execImin2 (g : Guard) (d : Nat) (u : Bool) (a b : Src) (s : State) : Res := s.packed2 g d false u a b min
/-- IMAX2 (R159). -/
def execImax2 (g : Guard) (d : Nat) (u : Bool) (a b : Src) (s : State) : Res := s.packed2 g d false u a b max
/-- IABS2 (R159). -/
def execIabs2 (g : Guard) (d : Nat) (sat : Bool) (a : Src) (s : State) : Res :=
  s.float1 g d a fun x =>
    let r (hi : Bool) : Rounded := placeInt true sat 16 |intOf true 16 (elem x hi)|
    packOut (r false) (r true)
/-- IPACK2 (R160). -/
def execIpack2 (g : Guard) (d : Nat) (u : Bool) (a b : Src) (s : State) : Res :=
  s.float2 g d a b fun x y => packOut (placeInt (!u) true 16 x.toInt) (placeInt (!u) true 16 y.toInt)

/-- IDP2's sum of products with one clamp (R161). -/
def dotProduct (ua ub : Bool) (a b c : Word) : FOut :=
  (placeInt true true 32 (c.toInt +
    intOf (!ua) 16 (elem a false) * intOf (!ub) 16 (elem b false) +
    intOf (!ua) 16 (elem a true) * intOf (!ub) 16 (elem b true))).out

/-- IDP2 (R161). -/
def execIdp2 (g : Guard) (d : Nat) (ua ub : Bool) (a b c : Src) (s : State) : Res :=
  s.float3 g d a b c (dotProduct ua ub)

/-- A rounding right shift of an integer of `width` bits (R162): ties toward +∞, or to even under `.he`; 0 from a shift
of the width on. -/
def roundShift (he : Bool) (width : Nat) (x : Int) (n : Nat) : Int :=
  if n = 0 then x
  else if width ≤ n then 0
  else
    let up := (x + 2 ^ (n - 1)) / 2 ^ n
    if he && x % 2 ^ n == 2 ^ (n - 1) && up % 2 == 1 then up - 1 else up

/-- SHRR (R162). -/
def execShrr (g : Guard) (d : Nat) (he s16 : Bool) (a b : Src) (s : State) : Res :=
  s.float2 g d a b fun x y =>
    let r := roundShift he 32 x.toInt y.toNat
    let c := clampInt (intMin true 16) (intMax true 16) r
    if s16 then ⟨BitVec.ofInt 32 c.1, flagIf c.2 flagSAT⟩ else ⟨BitVec.ofInt 32 r, 0⟩

/-- SHRR2 (R163). -/
def execShrr2 (g : Guard) (d : Nat) (he u : Bool) (a b : Src) (s : State) : Res :=
  s.float2 g d a b fun x y =>
    let r (hi : Bool) : Rounded := ⟨wrapInt 16 (roundShift he 16 (intOf (!u) 16 (elem x hi)) (elem y hi)), 0⟩
    packOut (r false) (r true)

end Sys2Proof.Machine
end

