-- ==== Sys2Proof/Machine/Convert.lean ====
section
/-! DEFINITION. Conversions (R153 to R158). -/

namespace Sys2Proof.Machine

/-- A result of 16, 32 or 64 bits in a destination: one register, or a pair (R18). -/
def State.computeBits (s : State) (g : Guard) (d bits : Nat) (scalar : Bool) (us : List Use) (uniform : Bool)
    (f : Fin 32 → Rounded) : Res :=
  if bits = 64 then
    let r := dmap uniform fun l => (f l).out64
    s.compute g scalar us ((Effect.pair d r.1 r.2.1).withFlags r.2.2)
  else
    let r := fmap uniform fun l => (f l).out
    s.compute g scalar us ((Effect.vec d r.1).withFlags r.2)

/-- Two results packed into the two elements of a word. -/
def packRounded (r0 r1 : Rounded) : Rounded :=
  ⟨r0.bits % 2 ^ 16 + 2 ^ 16 * (r1.bits % 2 ^ 16), r0.flags ||| r1.flags⟩

/-- A pattern of one format converted to another (R85); FLUSH16 binds the 16-bit formats (R84). -/
def convertFloat (src dst : Fmt) (rm : Rm) (flush : Bool) (x : Nat) : Rounded :=
  let v := (fmtOf src).flushIn (flush && src.half) ((fmtOf src).decode x)
  (fmtOf dst).round rm true (flush && dst.half) v

/-- CVTFF (R153). -/
def execCvtff (g : Guard) (d : Nat) (rm : Rm) (src dst : Fmt) (h1 : Bool) (a b : Src) (s : State) : Res :=
  let w := s.me
  let fl := s.flush16
  let conv (x : Nat) := convertFloat src dst rm fl x
  if dst.half && !src.half then
    s.computeBits g d 32 (a.scalar || b.scalar) (usesBits src.bits a ++ usesBits src.bits b)
      (w.uniformBits src.bits a && w.uniformBits src.bits b)
      fun l => packRounded (conv (w.element src false a l)) (conv (w.element src false b l))
  else if dst.half then
    s.computeBits g d 32 a.scalar (usesBits src.bits a) (w.uniformBits src.bits a)
      fun l => packRounded (conv (w.element src false a l)) (conv (w.element src true a l))
  else
    s.computeBits g d dst.bits a.scalar (usesBits src.bits a) (w.uniformBits src.bits a)
      fun l => conv (w.element src h1 a l)

/-- Is an integer format signed? -/
def intFmtSigned (f : IntFmt) : Bool := f == .s32 || f == .s64

/-- CVTFI (R154). -/
def execCvtfi (g : Guard) (d : Nat) (rm : Rm) (src : Fmt) (dst : IntFmt) (h1 : Bool) (a : Src) (s : State) : Res :=
  let w := s.me
  let fl := s.flush16
  s.computeBits g d dst.bits a.scalar (usesBits src.bits a) (w.uniformBits src.bits a) fun l =>
    ((fmtOf src).flushIn (fl && src.half) ((fmtOf src).decode (w.element src h1 a l))).toInteger rm (intFmtSigned dst)
      dst.bits

/-- A lane of a source of 32 or 64 bits as a number. -/
def Warp.bitsLane (w : Warp) (bits : Nat) (a : Src) (l : Fin 32) : Nat :=
  if bits = 64 then (pairLane (w.srcAt a 0) (w.srcAt a 1) l).toNat else ((w.src a).lane l).toNat

/-- CVTIF (R155). -/
def execCvtif (g : Guard) (d : Nat) (rm : Rm) (dst : Fmt) (src : IntFmt) (a b : Src) (s : State) : Res :=
  let w := s.me
  let fl := s.flush16
  let conv (v : Src) (l : Fin 32) : Rounded :=
    (fmtOf dst).round rm true (fl && dst.half)
      (Val.ofInt (intOf (intFmtSigned src) src.bits (w.bitsLane src.bits v l)))
  if dst.half then
    s.computeBits g d 32 (a.scalar || b.scalar) (usesBits src.bits a ++ usesBits src.bits b)
      (w.uniformBits src.bits a && w.uniformBits src.bits b) fun l => packRounded (conv a l) (conv b l)
  else
    s.computeBits g d dst.bits a.scalar (usesBits src.bits a) (w.uniformBits src.bits a) (conv a)

/-- Is an integer type signed? -/
def intTypeSigned (t : IntType) : Bool := t == .s8 || t == .s16 || t == .s32 || t == .s64

/-- CVTII (R156). -/
def execCvtii (g : Guard) (d : Nat) (src dst : IntType) (idx : Nat) (sat : Bool) (a : Src) (s : State) : Res :=
  let w := s.me
  s.computeBits g d dst.bits a.scalar (usesBits src.bits a) (w.uniformBits src.bits a) fun l =>
    placeInt (intTypeSigned dst) sat dst.bits
      (intOf (intTypeSigned src) src.bits (w.bitsLane src.bits a l / 2 ^ (src.bits * idx)))

/-- Elements packed little-endian into a word, with the OR of their flags (R157, R158). -/
def packMany (bits : Nat) : List Rounded → Rounded
  | [] => ⟨0, 0⟩
  | r :: rs =>
    let t := packMany bits rs
    ⟨r.bits % 2 ^ bits + 2 ^ bits * t.bits, r.flags ||| t.flags⟩

/-- The pack direction of CVT8 and CVT4: `n` consecutive registers into `n` elements (R157, R158). -/
def State.packNarrow (s : State) (g : Guard) (d : Nat) (f : FloatFormat) (rm : Rm) (sat : Bool) (n : Nat) (a : Src) : Res :=
  let w := s.me
  let src (k : Nat) : Storage := w.srcAt a k
  s.computeBits g d 32 a.scalar (a.uses n) ((List.range n).all fun k => (src k).isU) fun l =>
    packMany f.width ((List.range n).map fun k => f.round rm sat false (valF ((src k).lane l)))

/-- An element times a power of two by an E8M0 scale, rounded to FP32; a scale of 0xFF is a NaN with NV (R157). -/
def scaleElement (rm : Rm) (v : Val) (scale : Nat) : Rounded :=
  if scale % 256 = 255 then ⟨fp32.nan, flagNV⟩
  else
    let x : Val := match v with
      | .num q => .num (q * pow2 ((scale % 256 : Nat) - 127))
      | v => v
    fp32.round rm true false x

/-- The unpack direction of CVT8 and CVT4 (R157, R158). -/
def State.unpackWide (s : State) (g : Guard) (d : Nat) (f : FloatFormat) (rm : Rm) (idx : Nat) (sc : Bool) (a b : Src) :
    Res :=
  let w := s.me
  let x := w.src a
  let y := w.src b
  let elt (l : Fin 32) : Val := f.decode ((x.lane l).toNat / 2 ^ (f.width * idx) % 2 ^ f.width)
  if sc then
    s.computeBits g d 32 (a.scalar || b.scalar) (a.uses 1 ++ b.uses 1) (x.isU && y.isU)
      fun l => scaleElement rm (elt l) (y.lane l).toNat
  else s.computeBits g d 32 a.scalar (a.uses 1) x.isU fun l => fp32.round rm true false (elt l)

/-- CVT8 (R157). -/
def execCvt8 (g : Guard) (d : Nat) (rm : Rm) (up e5 nosat : Bool) (idx : Nat) (sc : Bool) (a b : Src) (s : State) : Res :=
  let f := if e5 then e5m2 else e4m3
  if up then s.unpackWide g d f rm idx sc a b else s.packNarrow g d f rm (!nosat) 4 a

/-- CVT4 (R158). -/
def execCvt4 (g : Guard) (d : Nat) (rm : Rm) (up : Bool) (idx : Nat) (sc : Bool) (a b : Src) (s : State) : Res :=
  if up then s.unpackWide g d e2m1 rm idx sc a b else s.packNarrow g d e2m1 rm true 8 a

end Sys2Proof.Machine
end

