-- ==== Sys2Proof/Machine/Preempt.lean ====
section
/-! DEFINITION. Pre-emption (R318, R346, R347, R389, R394 to R402, R436, R451, R452): saves and what they record, the
save image, restores, kills by the GSC, and migration away from hot cores. -/

namespace Sys2Proof.Machine

/-! ### Save points (R395, R397) -/

/-- Has a block a handler running? -/
def State.handling (s : State) (bk : Nat) : Bool := (s.blockWarps bk).any fun p => p.2.hndl

/-- Is an access kept for the instruction that made it outside the device, and more than a read: has a part of that
instruction been performed already? (R102) -/
def ExtReq.owed (r : ExtReq) : Bool := (r.parts.any fun p => p.reg == keptReg) && r.kind % 256 != msgRead

/-- Has an instruction of a warp been performed in part: does it stand in R102's way until it is complete? -/
def State.owes (s : State) (slot : Nat) : Bool := s.ext.any fun r => r.who == .warp slot && r.owed

/-- Does a block of a proof-mode launch stand between two steps: no handler, no engine command and no instruction of it in
progress, and no warp still to form? (R339, R343, R346) -/
def State.betweenSteps (s : State) (bk : Nat) : Bool :=
  !s.handling bk && s.enginesDone bk && !(s.blockWarps bk).any (fun p => s.owes p.1) &&
    (Map.find s.blocks bk).any fun b => b.phase != .starting && b.phase != .restoring &&
      (!(b.collator.any Window.closed) || (s.formSlot bk).isNone)

/-- Has every warp of a block reached its save point or ended, with no warp left to form? In proof mode a save is made between
two steps, of every resident block of the launch (R236, R339, R346, R395). -/
def State.atSavePoint (s : State) (bk : Nat) : Bool :=
  let b := s.block bk
  if (s.launch b.launch).proof then (s.together bk).all s.betweenSteps
  else
    !s.handling bk && (s.blockWarps bk).all (fun p => p.2.runnable == 0) &&
      (b.collator.isEmpty || (s.formSlot bk).isNone)

/-! ### What a save records (R66, R67, R222, R395 to R397) -/

/-- The liveness records at which threads of a warp are parked. -/
def Warp.parkRecords (w : Warp) : List VAddr := ((w.lanes.toList.filter fun l => l.st == .live && l.parked).map Lane.lrec).dedup

/-- The liveness records that a save of a block reads (R395). -/
def State.saveRecords (s : State) (bk : Nat) : List VAddr := ((s.blockWarps bk).flatMap fun p => p.2.parkRecords).dedup

/-- The liveness record under which a warp is saved; nothing when every allocated register and the whole area are
recorded. -/
def State.warpRecord (s : State) (all : Bool) (w : Warp) : Option LiveSet :=
  let ls := w.lanes.toList
  if all || ls.any (fun l => l.st == .live && l.atBar) || ls.any (fun l => l.st == .held) then none
  else
    let rs := w.parkRecords.map fun a => s.liveRecord w.blk a
    if rs.any Option.isNone then none
    else some ⟨rs.flatMap fun r => (r.map LiveSet.regs).getD [], rs.flatMap fun r => (r.map LiveSet.ranges).getD []⟩

/-- The core SRAM that a recorded command names: address and length (R222). -/
def Cmd.ranges (c : Cmd) : List (Nat × Nat) :=
  let d := c.desc
  match c.kind with
  | .mmaq =>
    [(mqD d, mqDBytes d), (mqCompl d, 8)] ++ listIf (!mqAkind d) (mqA d, mqABytes d c.shape) ++
      listIf (mqScaled d) (mqSca d, mqSBytes d) ++ listIf (mqConv d) (mqConvrec d, 32)
  | .wbload => [(wbCompl d, 8)]
  | .cpq =>
    [(cpSram d, cpSpan d (cpSramPitch d)), (cpCompl d, 8)] ++ listIf (cpDir d == 2) (cpMem d, cpSpan d (cpMemPitch d))
  | .march _ =>
    [(mrRays d, 32 * mrCount d), (mrProg d, mrProgLen d), (mrHits d, 16 * mrCount d), (mrCompl d, 8)] ++
      listIf (mrPix d != 0) (mrPix d, 4 * mrCount d)

/-- Every queued command of a block. -/
def Block.cmds (b : Block) : List Cmd := b.matrixQ ++ b.copyQ ++ b.marchQ

/-- Ranges of one space, each cut at a limit: offsets and lengths. -/
def spaceRanges (space limit : Nat) (rs : List (Nat × Nat)) : List (Nat × Nat) :=
  (rs.filter fun r => r.1 / 2 ^ 28 == space && decide (r.1 % 2 ^ 28 < limit) && r.2 != 0).map fun r =>
    (r.1 % 2 ^ 28, min r.2 (limit - r.1 % 2 ^ 28))

/-- A range put into a rising list of disjoint ranges, joined with those that it meets. -/
def addRange (r : Nat × Nat) : List (Nat × Nat) → List (Nat × Nat)
  | [] => [r]
  | q :: qs =>
    if r.1 + r.2 < q.1 then r :: q :: qs
    else if q.1 + q.2 < r.1 then q :: addRange r qs
    else addRange (min r.1 q.1, max (r.1 + r.2) (q.1 + q.2) - min r.1 q.1) qs

/-- The union of ranges, each widened to multiples of 8 bytes (R399). -/
def unionRanges (rs : List (Nat × Nat)) : List (Nat × Nat) :=
  rs.foldl (fun us r => addRange (r.1 / 8 * 8, (r.1 + r.2 + 7) / 8 * 8 - r.1 / 8 * 8) us) []

/-- The bytes of a store in some ranges. -/
def Mem.keep (m : Mem) (rs : List (Nat × Nat)) : Mem :=
  m.filter fun p => rs.any fun r => decide (r.1 ≤ p.1) && decide (p.1 < r.1 + r.2)

/-- The registers whose pending bits a save leaves set (R397): of the logged instruction, of waits, of a COLL, and of a
detach that waits for a MARCH. -/
def State.leftPending (s : State) (slot : Nat) (w : Warp) : List Nat :=
  (match w.log with
    | some e => e.acc.dests
    | none => []) ++ w.waits.map Wait.reg ++
  (s.collectives.flatMap fun c => match c.dest with
    | .regs k d _ b64 => if k = slot then collDests d b64 else []
    | _ => []) ++
  ((s.block w.blk).detaches.filter fun d => d.1 == slot).map fun d => d.2.1

/-- The index of the warp in a slot, or none. -/
def State.indexOf (s : State) (slot : Nat) : Nat := ((Map.find s.warps slot).map Warp.index).getD noWarp

/-- A warp as it is recorded, slots named by their warps' indices: the registers that its record names, and an empty one for
each that stays pending. -/
def State.recordWarp (s : State) (slot : Nat) (w : Warp) (r : Option LiveSet) : Warp :=
  let named (n : Nat) : Bool := r.all fun x => x.regs.contains n
  { w with
    vregs := w.vregs.filterMap fun (p : Nat × VReg) =>
      if named p.1 then some p else if p.2.pend = 0 then none else some (p.1, ⟨.n, p.2.pend⟩)
    inflight := w.inflight.filter fun f => (s.leftPending slot w).contains f.reg
    fetchFault := false
    stuck := []
    asidePeers := []
    aside := 0
    carried := w.carried.map fun (c : Nat × Wait) => (s.indexOf c.1, c.2) }

/-- Commands with the warps that issued them renamed. -/
def renameCmds (f : Nat → Nat) (cs : List Cmd) : List Cmd := cs.map fun (c : Cmd) => { c with warp := f c.warp }

/-- The warps named by a block's commands, windows and detaches renamed. -/
def Block.rename (b : Block) (f : Nat → Nat) : Block :=
  { b with
    matrixQ := renameCmds f b.matrixQ
    copyQ := renameCmds f b.copyQ
    marchQ := renameCmds f b.marchQ
    collator := b.collator.map fun (w : Window) =>
      { w with threads := w.threads.map fun (h : HeldThread) => { h with slot := f h.slot } }
    detaches := b.detaches.map fun (d : Nat × Nat × Nat × LaneMask) => (f d.1, d.2) }

/-- What a save records of a block (R395 to R397, R346, R360); a weight-buffer slot whose reload is still queued is recorded
with that command. -/
def State.savedOf (s : State) (bk : Nat) : Saved :=
  let b := s.block bk
  let l := s.launch b.launch
  let forced := b.phase == .saving true
  let core := blockCore bk
  let all := forced || l.proof
  let ws := (s.blockWarps bk).map fun p => (p, s.warpRecord all p.2)
  let full := ws.any fun q => q.2.isNone
  let named := (ws.flatMap fun q => (q.2.map LiveSet.ranges).getD []) ++ b.cmds.flatMap Cmd.ranges
  let last := !(s.coreBlocks core).any fun p => p.1 != bk && p.2.launch == b.launch && p.2.phase != .ended
  let gal := Map.getD (s.core core).galleys b.launch []
  let u := s.cluster (clusterOf core)
  let queued := (b.matrixQ.filter Cmd.reload).map fun c => wbSlot c.desc
  let slots := (((b.matrixQ.filter fun c => c.kind == .mmaq).map fun c => mqSlot c.desc).filter fun k =>
    !queued.contains k).dedup
  { blk := { b.rename s.indexOf with
      area := if full then b.area else b.area.keep (unionRanges (spaceRanges 0 l.areaBytes named))
      windows := Vector.replicate 4 none }
    warps := ws.map fun q => (q.1.1, s.recordWarp q.1.1 q.1.2 q.2)
    galley := if last then some gal else some (gal.keep (unionRanges (spaceRanges 3 l.galleyBytes named)))
    wslots := slots.map fun k => (k, u.slot k, u.wb.bytes (u.slot k).wboff (u.slot k).bytes)
    segNames := b.windows.map fun w => w.bind fun k => (Map.find s.segs k).map Segment.name
    forced := forced
    image := 0
    size := 0
    layout := s.mss.layhi
    ctx := l.ctx
    waited := 0
    core := core
    slot := bk % 32
    order := none }

/-! ### The save image (R399 to R401, R452) -/

/-- The code of STATE (R13). -/
def LaneState.code (x : LaneState) : Nat :=
  match x with
  | .none => 0
  | .live => 1
  | .exited => 2
  | .held => 3

/-- A recorded register (R17, R401). -/
def regEntry (n : Nat) (st : Storage) : List Byte :=
  match st with
  | .n => []
  | .u x => leBytes 8 (n + 1 * 2 ^ 9) ++ leBytes 4 x.toNat ++ leBytes 4 0
  | .a b k => leBytes 8 (n + 2 * 2 ^ 9) ++ leBytes 4 b.toNat ++ leBytes 4 k.toNat
  | .g v => leBytes 8 (n + 3 * 2 ^ 9) ++ v.toList.flatMap fun x => leBytes 4 x.toNat

/-- Bytes of an image that the manual does not lay out (log entry 6). -/
def openBytes (draw n : Nat) : List Byte := (List.range n).map fun i => Config.imageByte (draw * 2 ^ 32 + i)

/-- The return stacks of a warp, entry 0 first (R13, R400). -/
def Warp.stackBytes (w : Warp) : List Byte :=
  w.lanes.toList.flatMap fun l => l.stack.reverse.flatMap fun k => leBytes 8 (k.pc.toNat + if k.mark then 2 ^ 55 else 0)

/-- Lane entries of FRONT (R400). -/
def Lane.front (l : Lane) : Nat :=
  l.pc.toNat + l.st.code * 2 ^ 55 + l.stack.length * 2 ^ 57 + (if l.parked then 2 ^ 62 else 0) + if l.atBar then 2 ^ 63 else 0

/-- A warp section (R400, R401). -/
def warpSection (draw slot : Nat) (w : Warp) : List Byte :=
  let regs := w.vregs.filter fun p => p.2.st.allocated
  let log := w.log.isSome
  let waits := !w.waits.isEmpty
  leBytes 1 w.index ++ leBytes 1 w.role.code ++ leBytes 2 regs.length ++ leBytes 4 w.seqno ++ leBytes 4 w.kflags.toNat ++
    leBytes 4 w.kcause.toNat ++ leBytes 8 w.kepc.toNat ++ leBytes 4 w.stackBytes.length ++
    leBytes 4 ((if log then 1 else 0) + if waits then 2 else 0) ++
    (w.sregs.toList.flatMap fun x => leBytes 4 x.toNat) ++
    ((w.pregs.toList.flatMap fun p => leBytes 8 (p.bits.toNat + (if p.uniform then 1 else 3) * 2 ^ 32)) ++
      leBytes 8 (LaneMask.all.toNat + 2 ^ 32)) ++
    (w.lanes.toList.flatMap fun l => leBytes 8 l.front) ++ (w.bregs.toList.flatMap fun r => leBytes 32 r.toNat) ++
    leBytes 1 (slot % 256) ++ List.replicate 63 0 ++ w.stackBytes ++ (regs.flatMap fun p => regEntry p.1 p.2.st) ++
    (if log then openBytes draw 1040 else []) ++ if waits then openBytes (draw + 1) 32 else []

/-- An SRAM record (R399). -/
def sramRecord (space : Nat) (m : Mem) (r : Nat × Nat) : List Byte :=
  leBytes 4 (space * 2 ^ 28 + r.1) ++ leBytes 4 r.2 ++ m.bytes r.1 r.2

/-- The ranges of the block area and of the galley area that an image records (R395, R397). -/
def State.imageRanges (s : State) (bk : Nat) (x : Saved) : List (Nat × Nat) × List (Nat × Nat) :=
  let b := s.block bk
  let l := s.launch b.launch
  let ws := (s.blockWarps bk).map fun p => s.warpRecord (x.forced || l.proof) p.2
  let named := (ws.flatMap fun r => (r.map LiveSet.ranges).getD []) ++ b.cmds.flatMap Cmd.ranges
  let last := !(s.coreBlocks (blockCore bk)).any fun p => p.1 != bk && p.2.launch == b.launch && p.2.phase != .ended
  (if ws.any Option.isNone then listIf (l.areaBytes != 0) (0, l.areaBytes)
    else unionRanges (spaceRanges 0 l.areaBytes named),
   if last then listIf (l.galleyBytes != 0) (0, l.galleyBytes) else unionRanges (spaceRanges 3 l.galleyBytes named))

/-- The engine records and the HELD list of an image: their length is the model's own, 128 bytes a command, 32 a held
thread, and the bytes of accumulators and weight-buffer slots (log entry 6). -/
def Saved.engineBytes (x : Saved) : Nat :=
  128 * x.blk.cmds.length +
    x.blk.cmds.foldl (fun n c => n + (c.sets ++ c.parked).foldl (fun n a => n + 8 * a.vals.length) 0) 0 +
    32 * x.blk.collator.foldl (fun n w => n + w.threads.length) 0 +
    x.wslots.foldl (fun n w => n + 32 + (w.2.2.length + 7) / 8 * 8) 0

/-- ROTATE (R452): the slot of warp 0 and the slot that took the launch's last step. -/
def Launch.rotateField (l : Launch) (x : Saved) : Nat :=
  let own := ((x.warps.find? fun p => p.2.index == 0).map fun p => p.1 % 8).getD 0
  own * 2 ^ 8 + (l.rotate + 255) % 256

/-- The image of a block (R399): header, warp sections, SRAM records, tile memory, engine records. -/
def State.imageOf (s : State) (bk : Nat) (x : Saved) : List Byte :=
  let b := s.block bk
  let l := s.launch b.launch
  let rs := s.imageRanges bk x
  let ws := sortBy (fun (p q : Nat × Warp) => decide (p.2.index ≤ q.2.index)) x.warps
  let sections := ws.zipIdx.flatMap fun q => warpSection (s.draws + 2 * q.2 + 1) q.1.1 q.1.2
  let srams := (rs.1.flatMap fun r => sramRecord 0 x.blk.area r) ++ rs.2.flatMap fun r => sramRecord 3 (x.galley.getD []) r
  let tile := if l.ltype = 2 then b.tile.bytes 0 8192 else []
  let rest := sections ++ srams ++ tile ++ openBytes s.draws x.engineBytes
  let kind := if l.proof then 2 else if x.forced then 1 else 0
  let flags := (if rs.2.isEmpty then 0 else 1) + (if l.ltype = 2 then 2 else 0) +
    if b.collator.isEmpty then 0 else 4
  leBytes 2 x.layout ++ leBytes 1 kind ++ leBytes 1 0 ++ leBytes 4 (128 + rest.length) ++ leBytes 2 l.queue ++
    List.replicate 6 0 ++ leBytes 8 l.seq ++ leBytes 4 b.n ++ leBytes 1 ws.length ++ leBytes 1 (b.attempt - 1) ++
    leBytes 2 (rs.1.length + rs.2.length) ++ leBytes 4 (if x.forced then 0 else b.kdeadline) ++ leBytes 4 0 ++
    (x.segNames.toList.flatMap fun n => leBytes 8 (n.getD 0)) ++ leBytes 8 (if l.proof then l.retired else 0) ++
    leBytes 4 (if l.proof then l.rotateField x else 0) ++ leBytes 4 flags ++ List.replicate 40 0 ++ rest

/-- Images of a context in its save region: address and size. -/
def State.imagesOf (s : State) (ctx : Nat) : List (Nat × Nat) :=
  (s.saved.filter fun p => p.2.ctx == ctx).map fun p => (p.2.image, p.2.size)

/-- The collectives of a block handed to its saved copy (R222): warps are named by their index. -/
def State.keepColls (s : State) (bk sv : Nat) : State :=
  let lk := (s.block bk).launch
  { s with collectives := s.collectives.map fun (c : Collective) =>
      if c.issued && c.blk == bk && c.launch == lk then
        { c with
          blk := savedBlock + sv
          dest := match c.dest with
            | .regs k d w b64 => .regs (s.indexOf k) d w b64
            | x => x }
      else c }

/-- The sizes of the images of blocks saved together: each as it is once those before it have left (R395, R399). -/
def State.imageSizes (s : State) : List Nat → List Nat
  | [] => []
  | bk :: bks => (s.imageOf bk (s.savedOf bk)).length :: ((s.keepColls bk s.savedNext).removeBlock bk).imageSizes bks

/-- The lowest place in a context's save region for an image, beside those there (R413). -/
def State.imagePlace (s : State) (ctx size : Nat) (others : List (Nat × Nat)) : Option Nat :=
  let c := s.ctx ctx
  let fits (a : Nat) : Bool := decide (c.savebase ≤ a) && decide (a + size ≤ min (c.savebase + c.savemib * 2 ^ 20) deviceEnd) &&
    others.all fun o => decide (a + size ≤ o.1) || decide (o.1 + o.2 ≤ a)
  (sortBy (fun (a b : Nat) => decide (a ≤ b)) (c.savebase :: others.map fun o => o.1 + o.2)).find? fits

/-- Places for the images of several blocks, nothing when they would pass SAVEMIB. -/
def State.imagePlaces (s : State) (ctx : Nat) : List Nat → List (Nat × Nat) → Option (List Nat)
  | [], _ => some []
  | n :: ns, others =>
    match s.imagePlace ctx n others with
    | none => none
    | some a => (s.imagePlaces ctx ns (others ++ [(a, n)])).map fun xs => a :: xs

/-! ### The beginning of a save (R395, R396, R413) -/

/-- A request that is withdrawn: parked threads run on (R413). -/
def State.withdraw (s : State) (bk : Nat) : State :=
  let b := s.block bk
  let t := s.setBlock bk { b with pending := false, kdeadline := 0, expired := false, phase := .running }
  { t with warps := t.warps.map fun (p : Nat × Warp) =>
      if p.2.blk == bk then
        (p.1, Warp.mergeAges { p.2 with lanes := p.2.lanes.map fun (l : Lane) => if l.parked then { l with parked := false, age := 0 } else l })
      else p }

/-- A save that is not begun because its image would pass SAVEMIB (R413): the manual names no code for the kill (log
entry 7). -/
def State.noRegion (s : State) (bk : Nat) : State :=
  if (s.block bk).source < 2 then s.withdraw bk
  else s.kill bk (Killing.bare (1 + (Config.unstated 10 0 0).toNat % 0x15) (Config.unstated 11 0 0).toNat)

/-- A save of one block begun. -/
def State.beginOne (s : State) (forced : Bool) (bk : Nat) : State :=
  let b := s.block bk
  s.setBlock bk { b with phase := .saving forced, saveAge := 0 }

/-- The blocks whose images are written with a block's (R334, R346). -/
def State.saveGroup (s : State) (bk : Nat) : List Nat :=
  (s.together bk).filter fun k => (Map.find s.blocks k).any fun b => b.phase == .running || b.saving

/-- A save begun: of one block, in proof mode of every resident block of the launch; not during the pause of an ACTIVATE
(R346, R396, R439). Where a liveness record in host memory has still to be read, its image's place is sought at the save's
end. -/
def State.beginSave (s : State) (forced : Bool) (bk : Nat) : State :=
  let b := s.block bk
  let l := s.launch b.launch
  let group := s.saveGroup bk
  let t := (if l.proof then group else [bk]).foldl (fun s k => s.beginOne (forced && !l.proof) k) s
  let here := group.all fun k => s.recordsHere k (s.saveRecords k)
  if here && (s.imagePlaces l.ctx (t.imageSizes group) (s.imagesOf l.ctx)).isNone then
    if b.source < 2 then group.foldl State.withdraw s else s.noRegion bk
  else group.foldl (fun t k => t.askRecords k (s.saveRecords k)) t

/-- Is a request for a block pending, and no save begun? -/
def State.requested (s : State) (bk : Nat) : Bool :=
  (Map.find s.blocks bk).any fun b => b.pending && b.phase == .running

/-- COOPERATIVE_SAVE (R395): every warp is at its save point, and the deadline had not expired before (R396, R439). -/
def execCooperativeSave (b : Nat) (s : State) : Res :=
  if !s.requested b || (s.block b).expired || !s.atSavePoint b || s.mss.paused then .next s
  else .next (s.beginSave false b)

/-- DEADLINE_EXPIRY (R396, R405): a save that is cooperative when every warp is at its save point in the cycle of expiry;
otherwise a forced one, after the handler that may be running, and after an ACTIVATE's pause (R439). A proof-mode launch is
saved at its next step boundary (R346). -/
def execDeadlineExpiry (b : Nat) (s : State) : Res :=
  let k := s.block b
  if !s.requested b || k.kdeadline != 0 then .next s
  else if !k.expired && s.atSavePoint b then .next (if s.mss.paused then s else s.beginSave false b)
  else if (s.launch k.launch).proof then .next s
  else if s.handling b || s.mss.paused then .next (s.setBlock b { k with expired := true })
  else .next (s.beginSave true b)

/-! ### The end of a save (R397, R222, R360) -/

/-- Has a warp no write pending but those that a save leaves, and no request under way? (R397) -/
def State.warpQuiet (s : State) (slot : Nat) (w : Warp) : Bool :=
  w.callable.isNone && (w.inflight.all fun f => (s.leftPending slot w).contains f.reg) &&
    !((s.core (slotCore slot)).collector.any fun r => r.slot == slot)

/-- Are the accesses of a block that went outside the device answered, but the reads that waits and logged instructions
repeat after the restore; and has every instruction that was performed in part been completed? (R102, R397) -/
def State.awayQuiet (s : State) (bk : Nat) : Bool :=
  !s.ext.any fun r => s.partyOf bk r.who && (r.owed || (r.data.isNone && !(r.parts.any fun p => p.reg == keptReg)))

/-- Have the started CPQ, WBLOAD and MARCH commands of a block completed, and the writebacks already in buffers? A command of a
frozen channel holds the save up (R222, R360, R398, R403). -/
def State.enginesQuiet (s : State) (bk : Nat) : Bool :=
  let b := s.block bk
  (b.matrixQ.all fun c => !c.frozen && !(c.kind == .wbload && c.started) && c.buffers.isEmpty) &&
    ((b.copyQ ++ b.marchQ).all fun c => !c.frozen && !c.started) &&
    !s.collectives.any fun c => c.issued && c.blk == bk && c.launch == b.launch && c.frozen

/-- May a block's image be written? -/
def State.saveReady (s : State) (bk : Nat) : Bool :=
  let b := s.block bk
  b.saving && (s.blockWarps bk).all (fun p => s.warpQuiet p.1 p.2) && s.awayQuiet bk && s.enginesQuiet bk &&
    s.recordsHere bk (s.saveRecords bk)

/-- One block saved at a place: its image written, its copy kept, and its core left (R395, R399). -/
def State.saveOne (s : State) (bk place : Nat) : State :=
  let x := s.savedOf bk
  let img := s.imageOf bk x
  let sv := s.savedNext
  let t := (s.keepColls bk sv).removeBlock bk
  { t with
    mem := t.mem.putBytes place img
    saved := Map.set t.saved sv { x with image := place, size := img.length }
    savedNext := sv + 1
    draws := t.draws + 2 * x.warps.length + 3 }

/-- Has a save lasted 2²⁴ cycles? (R398) -/
def Block.saveLate (b : Block) : Bool := b.saving && decide (2 ^ 24 ≤ b.saveAge)

/-- SAVE_COMPLETE (R397, R399): once every block saved together is ready, and none of the saves is too old (R398). -/
def execSaveComplete (b : Nat) (s : State) : Res :=
  let group := s.saveGroup b
  if !(s.block b).saving || group.any fun k => (s.block k).saveLate then .next s
  else if !group.all s.saveReady then .next (group.foldl (fun t k => t.askRecords k (s.saveRecords k)) s)
  else
    let ctx := (s.launch (s.block b).launch).ctx
    match s.imagePlaces ctx (s.imageSizes group) (s.imagesOf ctx) with
    | none => .next (s.noRegion b)
    | some places => .next ((group.zip places).foldl (fun s p => s.saveOne p.1 p.2) s)

/-- SAVE_WATCHDOG (R398): 2²⁴ cycles after the save began. -/
def execSaveWatchdog (b : Nat) (s : State) : Res :=
  if !(s.block b).saveLate then .next s
  else
    let callable := (s.blockWarps b).any fun p => p.2.callable.isSome
    let detail := if callable then 2 else if s.enginesQuiet b then 0 else 1
    .next (s.kill b (Killing.bare 0x14 detail))

/-! ### Messages of the GSC (R319, R389) -/

/-- KILL_MESSAGE (R389): a kill that is no trap, with its code; an ECC names one of the six stores (R317). -/
def execKillMessage (b code detail : Nat) (s : State) : Res :=
  if code ∈ [0x07, 0x0F, 0x10, 0x11, 0x14, 0x16] ∧ (code = 0x11 → 1 ≤ detail ∧ detail ≤ 6) then
    .next (s.kill b (Killing.bare code detail))
  else .next s

/-- RESTORE_MESSAGE (R319): a saved block is to be restored on a core. -/
def execRestoreMessage (sv core : Nat) (s : State) : Res :=
  match Map.find s.saved sv with
  | some x => if core < 192 then .next { s with saved := Map.set s.saved sv { x with order := some core } } else .next s
  | none => .next s

/-! ### Restores (R402, R451) -/

/-- The slot of the warp of a block with an index. -/
def State.slotOf (s : State) (bk index : Nat) : Nat :=
  (((s.blockWarps bk).find? fun p => p.2.index == index).map Prod.fst).getD noWarp

/-- The command that writes a recorded weight-buffer slot back, as a WBLOAD would: it waits for readers of what it
overlaps, and ends with no status to write. A slot recorded as invalid becomes so as by a refused WBLOAD (R230, R360). -/
def reloadCmd (w : Nat × WSlot × List Byte) : Cmd :=
  let x := w.2.1
  let flag := if x.sc && x.form == 0 then 4 else 0
  let desc := leBytes 12 0 ++ leBytes 4 x.k ++ leBytes 2 x.n ++ leBytes 1 x.bfmt ++ leBytes 1 (x.form + flag) ++
    leBytes 4 w.1 ++ leBytes 4 x.wboff ++ leBytes 4 (2 ^ 32 - 8)
  { Cmd.fresh .wbload desc 0 noWarp 0 false false .blk (if x.valid then none else some 3) with shape := w.2.2 }

/-- The windows of a restored block: what was held joins one open window for each target, and a full one closes (R338,
R402). -/
def reopened (l : Launch) (ws : List Window) : List Window :=
  closeFull l (ws.foldl (fun vs w => joinWindows w.target w.rays w.threads vs) [])

/-- A command as it goes on after a restore: its accumulator sets are reloaded before its next tile (R360). -/
def Cmd.park (c : Cmd) : Cmd := { c with parked := c.parked ++ c.sets, sets := [] }

/-- What a placed block gets back beside its warps (R402): area, galley when it is the first there, tile, collator and
engine state, the weight-buffer slots of its commands, and its collectives. -/
def State.unpack (s : State) (bk sv : Nat) (x : Saved) (first : Bool) : State :=
  let core := blockCore bk
  let lk := x.blk.launch
  let b := s.block bk
  let r := x.blk.rename (s.slotOf bk)
  let y := { r with
    p0 := b.p0
    windows := b.windows
    phase := .restoring
    pending := false
    kdeadline := 0
    held := false
    expired := false
    saveAge := 0
    ran := 0
    collator := reopened (s.launch lk) r.collator
    matrixQ := x.wslots.map reloadCmd ++ r.matrixQ.map Cmd.park }
  let t := s.setBlock bk y
  let c := t.core core
  let t := if first then t.setCore core { c with galleys := Map.set c.galleys lk (x.galley.getD []) } else t
  let u := t.cluster (clusterOf core)
  let u := { u with order := u.order ++ List.replicate (y.matrixQ.filter Cmd.accepted).length bk }
  let t := t.setCluster (clusterOf core) u
  let t := { t with
    collectives := t.collectives.map fun (c : Collective) =>
      if c.blk == savedBlock + sv then
        { c with
          blk := bk
          dest := match c.dest with
            | .regs k d w b64 => .regs (t.slotOf bk k) d w b64
            | z => z }
      else c
    warps := t.warps.map fun (p : Nat × Warp) =>
      if p.2.blk == bk then
        (p.1, Warp.mergeAges { p.2 with
          carried := p.2.carried.map fun (c : Nat × Wait) => (t.slotOf bk c.1, c.2)
          lanes := p.2.lanes.map fun (l : Lane) => if l.parked then { l with parked := false, age := 0 } else l })
      else p
    saved := Map.erase t.saved sv }
  t.closeIdle bk

/-- Restored warps take their sequence numbers, in their former order (R337). -/
def State.numberRestored (s : State) (bks : List Nat) : State :=
  let ws := sortBy (fun (p q : Nat × Warp) => decide (p.2.seqno ≤ q.2.seqno))
    (s.warps.filter fun p => bks.contains p.2.blk)
  ws.foldl (fun s p =>
    let r := s.takeSeq p.1
    r.1.setWarp p.1 { r.1.warp p.1 with seqno := r.2 }) s

/-- The block of a restored copy after its group was placed. -/
def State.placedAt (s : State) (x : Saved) : Option Nat :=
  (s.blocks.find? fun p => p.2.launch == x.blk.launch && p.2.n == x.blk.n && p.2.phase == .starting).map Prod.fst

/-- The windows of a saved block whose segment no longer exists, the lowest first (R402). -/
def State.lostWindow (s : State) (x : Saved) : Option Nat :=
  (List.range 4).find? fun w => ((x.segNames[w]?).join).any fun n => (s.segNamed x.ctx n).isNone

/-- A group restored: contents back, numbers taken, and a block whose segment is gone killed with STANDMISS (R402). -/
def State.restored (s t : State) (group : List (Nat × Saved)) : State :=
  let placed := group.filterMap fun p => (t.placedAt p.2).map fun bk => (bk, p)
  let u := placed.foldl (fun u q =>
    let first := !(s.coreBlocks (blockCore q.1)).any fun p => p.2.launch == q.2.2.blk.launch && p.2.phase != .ended
    u.unpack q.1 q.2.1 q.2.2 first) t
  let u := u.numberRestored (placed.map Prod.fst)
  placed.foldl (fun u q =>
    match s.lostWindow q.2.2 with
    | some w => u.kill q.1 (Killing.bare 0x09 (w + 2 ^ 8))
    | none => u) u

/-- The core to which a block that left a hot core goes: the coolest in service that can admit it, else the old one
(R347). -/
def State.coolest (s : State) (sv : Nat) (x : Saved) : Nat :=
  let cs := (s.service.filter fun c => c != x.core && s.restoreFits sv c)
  cs.foldl (fun (o : Nat) c => if o = x.core ∨ (s.core c).temp.slt (s.core o).temp then c else o) x.core

/-- BLOCK_RESTORE (R402, R451): a saved block goes back onto a core, in the order of R312; where evictions are needed
first, they are set off and it goes on waiting. -/
def execBlockRestore (sv core p0 : Nat) (s : State) : Res :=
  match Map.find s.saved sv with
  | none => .next s
  | some x =>
    let turn := (s.waiters.find? fun w => w.saved == some sv).any fun w => s.turnAt w core
    let wrong := x.blk.source == 1 && core != s.coolest sv x
    if !turn || wrong || decide (x.layout < s.mss.laylo) || decide (s.mss.layhi < x.layout) then .next s
    else
      match s.restoreGroup sv core p0 with
      | .no => .next s
      | .evict c ks => .next (s.evictFirst (s.launch x.blk.launch).queue x.ctx c .evict ks)
      | .ok t _ => .next (s.restored t (s.savedGroup sv))

/-! ### Hot cores (R347, R436) -/

/-- Is a block on a hot core eligible for migration? (R347: 2 ms since its admission or last restore) -/
def State.eligible (s : State) (bk : Nat) : Bool :=
  (Map.find s.blocks bk).any fun b =>
    let l := s.launch b.launch
    b.phase == .running && b.attached.isEmpty && !l.proof && !l.nbhd && !s.handling bk && decide (waitLimit ≤ b.ran)

/-- A temperature in 1/16 °C as an event's ARG, with its sign. -/
def tempArg (temp : Nat) : Nat := ((BitVec.ofNat 16 temp).signExtend 64).toNat

/-- A core's temperature in 1/16 °C as its sensor word shows it from now on. At TMIG the core becomes hot: KIND 9 is logged and
every eligible block requested; 5 °C below TMIG it becomes cool, which is logged (R347, R431, R433, R436). -/
def State.sense (s : State) (core temp : Nat) : State :=
  let c := s.core core
  let v := BitVec.ofNat 16 temp
  if !c.hot && !v.slt (BitVec.ofNat 16 (16 * s.mss.tmig)) then
    let t := (s.setCore core { c with hot := true, temp := v }).logEvent 9 core 1 (tempArg temp)
    ((t.coreBlocks core).filter fun p => t.eligible p.1).foldl (fun s p => s.requestSave 1 p.1) t
  else if c.hot && !(BitVec.ofInt 16 (16 * ((s.mss.tmig : Int) - 5))).slt v then
    (s.setCore core { c with hot := false, temp := v }).logEvent 9 core 0 (tempArg temp)
  else s.setCore core { c with temp := v }

/-- MIGRATION_ELIGIBILITY (R347): a block on a hot core becomes eligible and is requested. -/
def execMigrationEligibility (b : Nat) (s : State) : Res :=
  if (s.core (blockCore b)).hot && s.eligible b then .next (s.requestSave 1 b) else .next s

end Sys2Proof.Machine
end

