-- ==== Sys2Proof/Machine/Host.lean ====
section
/-! DEFINITION. Faults reported and answered (R387, R411, R412, R414), answers from the host and from other devices
(R414, R426, R427), the termination of a context (R313, R390, R413), invalidations (R413, R414), migrations (R291, R419),
accesses of host functions (R403, R417, R418, R432), and the writes of plain registers (R5, R7, R320, R362, R393, R413,
R416, R424, R431). -/

namespace Sys2Proof.Machine

/-! ### Reports of faults (R387, R411) -/

/-- Every waiting fault with its context, in order. -/
def State.allFaults (s : State) : List (Nat × PendingFault) :=
  s.ctxs.flatMap fun (p : Nat × Context) => p.2.faults.map fun f => (p.1, f)

/-- One waiting fault of a context replaced. -/
def State.setFault (s : State) (ctx : Nat) (old new : PendingFault) : State :=
  let c := s.ctx ctx
  s.setCtx ctx { c with faults := c.faults.map fun (f : PendingFault) => if f = old then new else f }

/-- FAULT_REPORT (R319, R387): the i-th fault that the GSC does not know of; a link keeps the order of its messages. -/
def execFaultReport (i : Nat) (s : State) : Res :=
  let fs := s.allFaults.filter fun p => !p.2.sent
  match fs[i]? with
  | some (ctx, f) =>
    if (fs.take i).any fun p => clusterOf p.2.core == clusterOf f.core then .next s
    else .next (s.setFault ctx f { f with sent := true })
  | none => .next s

/-- log₂ of the entries of a fault ring (R413). -/
def Context.ringLog (c : Context) : Nat := if 4 ≤ c.frlog ∧ c.frlog ≤ 12 then c.frlog else 4

/-- The 32 bytes of a fault entry (R411). -/
def faultEntry (f : PendingFault) (id head log : Nat) : List Byte :=
  leBytes 8 (f.line % 2 ^ 57) ++ leBytes 4 id ++ leBytes 1 f.kind ++ leBytes 1 f.reason ++ leBytes 2 f.core ++
    leBytes 2 f.queue ++ List.replicate 10 0 ++ leBytes 4 ((if bitOf head log then 0xA5 else 0x5A) * 2 ^ 24)

/-- Does a fault of a context wait to be reported: known to the GSC, no page request, no number, and no other fault of its
page reported? (R411, R414) -/
def Context.unreported (c : Context) (f : PendingFault) : Bool :=
  f.sent && !f.request && f.id.isNone && !c.faults.any fun g => g.id.isSome && g.line / 2 ^ 16 == f.line / 2 ^ 16

/-! ### The termination of a context (R313, R389, R390, R413, R434) -/

/-- The masters of a context (R403). -/
def State.masterOf (s : State) (ctx : Nat) (m : Master) : Bool :=
  match m with
  | .queue q => (s.queue q).ctx == ctx
  | .channel _ _ _ c => c == ctx
  | .function _ => false

/-- A saved block killed: it is offered again, or fails, its geometry ending there (R389, R390, R393). -/
def State.killSavedOne (s : State) (sv : Nat) (k : Killing) : State :=
  match Map.find s.saved sv with
  | none => s
  | some x =>
    let again := mayRelaunch (s.launch x.blk.launch) x.blk k
    let s := if again then s else s.sendMarksOf x.blk
    let s := { s with
      saved := Map.erase s.saved sv
      collectives := s.collectives.map fun (c : Collective) => if c.blk == savedBlock + sv then { c with dest := .none } else c }
    let l := s.launch x.blk.launch
    if again then s.setLaunch x.blk.launch { l with relaunch := l.relaunch ++ [(x.blk.n, x.blk.attempt + 1)] }
    else
      let s := if l.failed = 0 then s.faultRecord l (32 * x.core + x.slot) x.blk k else s
      s.setLaunch x.blk.launch { l with failed := l.failed + 1, done := l.done + 1, ended := l.ended || l.proof,
                                             waiting := if l.proof then [] else l.waiting }

/-- A saved block killed with those that are restored together with it (R334, R392). -/
def State.killSaved (s : State) (sv : Nat) (k : Killing) : State :=
  (((s.savedGroup sv).map Prod.fst).filter fun i => i != sv).foldl (fun s i => s.killSavedOne i k) (s.killSavedOne sv k)

/-- A context terminated, again where it is written again: its blocks killed, its launches cancelled, its queues halted with
QF_CTX and their other packets dropped, its segments freed, its masters unfrozen. -/
def State.terminate (s : State) (ctx : Nat) : State :=
  let t := s.setCtx ctx { s.ctx ctx with termd := true }
  let t := (t.blocks.filter fun p => (t.launch p.2.launch).ctx == ctx).foldl
    (fun t p => t.killOne p.1 (Killing.bare 0 0)) t
  let t := (t.saved.filter fun p => p.2.ctx == ctx).foldl (fun t p => t.killSavedOne p.1 (Killing.bare 0 0)) t
  let t := { t with
    launches := t.launches.map fun (p : Nat × Launch) =>
      if p.2.ctx == ctx then
        (p.1, { p.2 with cancelled := true, relaunch := [], waiting := [],
                         phase := if p.2.phase = LaunchPhase.accepted then .running else p.2.phase })
      else p
    segs := t.segs.filter fun p => p.2.ctx != ctx
    collectives := t.collectives.filter fun x => (t.launch x.launch).ctx != ctx
    prims := t.prims.filter fun p => (t.launch p.launch).ctx != ctx }
  let t := (t.queues.filter fun p => p.2.ctx == ctx).foldl (fun t p => t.haltQueue p.1 7 0) t
  let isLaunch (k : PacketKind) : Bool := match k with
    | .launch _ => true
    | _ => false
  let t := { t with queues := t.queues.map fun (p : Nat × Queue) =>
    (p.1, { p.2 with packets := p.2.packets.filter fun (x : Packet) => x.ctx != ctx || isLaunch x.kind }) }
  let d := t.ctx ctx
  let t := t.setCtx ctx { d with
    faults := []
    devQueues := d.devQueues.map fun (q : Nat × DevQueue) => (q.1, { q.2 with entries := [] }) }
  (t.mss.frozen.filter fun p => t.masterOf ctx p.2).foldl (fun t p => t.thaw p.1 p.2) t

/-- TERM (R413): a posted write, which an invalidation that waits for another holds back. -/
def execTerm (ctx : Nat) (s : State) : Res := .next (if s.ctxHeld ctx then s else s.terminate ctx)

/-! ### The fault ring (R411) -/

/-- Who writes a context's fault ring. -/
def State.ringParty (ctx : Nat) : Party := ⟨ctx, 2 ^ 40, .engine (2 ^ 20 + ctx) 7, 0xFFFF, 0, 4⟩

/-- FAULT_RING_WRITE (R411): the first unreported fault, when the ring has room; a fault on the ring terminates the
context. -/
def execFaultRingWrite (ctx : Nat) (s : State) : Res :=
  let c := s.ctx ctx
  match c.faults.find? c.unreported with
  | none => .next s
  | some f =>
    if (c.frhead + 2 ^ 16 - c.frtail) % 2 ^ 16 = 2 ^ c.ringLog then .next s
    else
      let va := (c.frbase + 32 * (c.frhead % 2 ^ c.ringLog)) % 2 ^ 57
      match s.rangeWalk ctx .write va 32 with
      | .moving => .next s
      | .ok ps =>
        let t := s.putPieces (State.ringParty ctx) ps (faultEntry f c.nextId c.frhead c.ringLog)
        let t := t.setFault ctx f { f with id := some c.nextId }
        let d := t.ctx ctx
        .next ((t.setCtx ctx { d with frhead := (c.frhead + 1) % 2 ^ 16, nextId := nextSerial c.nextId }).signal c.fn 0)
      | _ => .next (s.terminate ctx)

/-! ### Kills by PAGE (R382, R387, R391, R427) -/

/-- DETAIL of PAGE (R382). -/
def pageDetail (lane : Nat) (write fetch engine : Bool) : Nat :=
  lane % 32 + (if write then 2 ^ 5 else 0) + (if fetch then 2 ^ 6 else 0) + if engine then 2 ^ 7 else 0

/-- The access of a thread that cannot be made: its instruction's run and address, and the lane. -/
structure Failing where
  run : LaneMask
  pc : VAddr
  lane : Nat
  deriving DecidableEq, Repr

/-- A block killed with PAGE for an access of a thread: LANE and the mask are those of the instruction's run, DETAIL names the
lane that failed (R382, R383, R387). -/
def State.threadKill (s : State) (slot : Nat) (f : Failing) (write fetch : Bool) : State :=
  let x := s.warp slot
  s.kill x.blk ⟨0x07, pageDetail f.lane write fetch false, f.run.lowest.val, f.pc, f.run, x.hndl, x.index⟩

/-- The kill of who waits on an access that cannot be made, with what its fault record tells (R387, R391); an access for a
queue is abandoned instead (R412). `line` is the access's line, and `f` names a thread's instruction. A block that has ended
is killed with the failure of its own commit or tile (R427). -/
def State.pageKill (s : State) (who : FaultWho) (f : Failing) (line : Nat) (write : Bool) : State :=
  match who with
  | .warp slot => s.threadKill slot f write false
  | .fetch slot => s.threadKill slot { f with lane := f.run.lowest.val } false true
  | .engine bk _ => s.killFailed bk (Killing.bare 0x07 (pageDetail 0 write false true))
  | .input bk => s.kill bk (Killing.bare 0x07 (pageDetail 0 write false true))
  | .seg k =>
    match Map.find s.segs k with
    | some g => s.segAbandon k g false
    | none => s
  | .queue q =>
    let x := s.queue q
    let j := if x.base ≤ line ∧ line < x.base + 256 * 2 ^ x.logsz then line / 256 - (x.base / 256 + x.slot) else 0
    (s.setQueue q { x with abandoned := x.abandoned ++ [line] }).haltQueue q 6 j

/-! ### Answers to faults (R412, R414) -/

/-- The faults of a context that share the answer to one: those of its page (R411). -/
def Context.sharing (c : Context) (f : PendingFault) : List PendingFault :=
  c.faults.filter fun g => g.line / 2 ^ 16 == f.line / 2 ^ 16

/-- The faults of a page no longer waiting. -/
def State.dropPage (s : State) (ctx : Nat) (f : PendingFault) : State :=
  let c := s.ctx ctx
  s.setCtx ctx { c with faults := c.faults.filter fun (g : PendingFault) => g.line / 2 ^ 16 != f.line / 2 ^ 16 }

/-- A fetch that faulted is made again. -/
def State.refetch (s : State) (fs : List PendingFault) : State :=
  { s with warps := s.warps.map fun (p : Nat × Warp) =>
      if fs.any fun f => f.who == .fetch p.1 then (p.1, { p.2 with fetchFault := false }) else p }

/-- A fault answered: the accesses that wait on it walk again, or cannot be made. -/
def State.answerFault (s : State) (ctx : Nat) (f : PendingFault) (retry : Bool) : State :=
  let fs := (s.ctx ctx).sharing f
  let t := s.dropPage ctx f
  if retry then t.refetch fs
  else fs.foldl (fun t g => t.pageKill g.who ⟨g.run, g.pc, g.lane⟩ g.line (bitOf g.kind 0)) t

/-- The fault of a context with a number. -/
def Context.numbered (c : Context) (id : Nat) : Option PendingFault := c.faults.find? fun f => f.id == some id

/-- A write of FRESP: one whose ID names no waiting fault is ignored, and an invalidation that waits for another holds it
back (R412, R413). -/
def State.fresp (s : State) (ctx id : Nat) (retry : Bool) : State :=
  if s.ctxHeld ctx then s
  else
    match (s.ctx ctx).numbered id with
    | some f => s.answerFault ctx f retry
    | none => s

/-- FRESP_RETRY (R412). -/
def execFrespRetry (ctx id : Nat) (s : State) : Res := .next (s.fresp ctx id true)

/-- FRESP_FAIL (R412). -/
def execFrespFail (ctx id : Nat) (s : State) : Res := .next (s.fresp ctx id false)

/-- The page of 64 KiB of the host's space that a context's address lies in. -/
def State.hostPage (s : State) (ctx va : Nat) : Option Nat :=
  (leafOf s.mem va 4 (s.ctx ctx).root).map fun r =>
    (bitsOf r.2.1 51 16 * 2 ^ 16 + va % pageBytes r.2.2) / 2 ^ 16

/-- An ATS result added to those of a context: the permissions of a page it has already are joined (R414). -/
def Context.addAts (c : Context) (page bits : Nat) : Context :=
  let old := ((c.ats.find? fun a => a.1 == page).map Prod.snd).getD 0
  { c with ats := (c.ats.filter fun a => a.1 != page) ++ [(page, old ||| bits)] }

/-- PAGE_REQUEST_RESPONSE (R414): to the i-th outstanding page request, of which there are at most 512. Success gives the
permissions that the request asked for: to read, and for a write to write as well. -/
def execPageRequestResponse (i : Nat) (ok : Bool) (s : State) : Res :=
  match ((s.allFaults.filter fun p => p.2.request)[i]?).filter fun _ => decide (i < 512) with
  | some (ctx, f) =>
    let t := match s.hostPage ctx f.line with
      | some p => if ok then s.setCtx ctx ((s.ctx ctx).addAts p (if bitOf f.kind 0 then 3 else 1)) else s
      | none => s
    .next (t.answerFault ctx f ok)
  | none => .next s

/-- Has a context translated requests under way to the host? -/
def State.hostBusy (s : State) (ctx : Nat) : Bool := s.ext.any fun r => r.ctx == ctx && r.dev.isNone && r.data.isNone

/-- ATS_INVALIDATION_REQUEST (R414): the translations of n pages of 64 KiB of the host's space dropped, once every request
that used them has been performed. -/
def execAtsInvalidationRequest (ctx va n : Nat) (s : State) : Res :=
  if s.hostBusy ctx then .next s
  else
    let c := s.ctx ctx
    let p := va / 2 ^ 16
    .next (s.setCtx ctx { c with ats := c.ats.filter fun (a : Nat × Nat) => !(decide (p ≤ a.1) && decide (a.1 < p + n)) })

/-! ### Answers from outside the device (R414, R426, R427) -/

/-- The word of a part of an answer. -/
def ExtPart.word (p : ExtPart) (data : List Byte) : Word :=
  let v := field data p.off p.bytes
  if p.signed && decide (p.bytes < 4) then (BitVec.ofNat (8 * p.bytes) v).signExtend 32 else BitVec.ofNat 32 v

/-- The tag that an answer carries raises the clock of the core of who asked, for an acquire or an `.sc` (R282, R426). -/
def State.raiseClock (s : State) (r : ExtReq) (data : List Byte) : State :=
  match r.who with
  | .warp slot =>
    if bitOf r.kind 8 || bitOf r.kind 10 then
      let c := s.core (slotCore slot)
      s.setCore (slotCore slot) { c with lamport := max c.lamport (field data r.bytes 8) }
    else s
  | _ => s

/-- An answer that came: kept for the access's retry, or written into registers in flight; an acknowledgement ends its
request. -/
def State.answered (s : State) (r : ExtReq) (data : List Byte) : State :=
  if r.parts.any fun p => p.reg == keptReg then
    { s with ext := s.ext.map fun (q : ExtReq) => if q.id = r.id then { q with data := some data } else q }
  else
    let t := { s with ext := s.ext.filter fun q => q.id != r.id }
    let t := if r.parts.isEmpty then t else t.raiseClock r data
    r.parts.foldl (fun t p => t.patchWarp p.slot p.reg (Fin.ofNat 32 p.lane) (p.word data)) t

/-- The end of a request: an answer of the length asked for, or a failure, which kills with PAGE (R414, R427). -/
def State.extEnd (s : State) (r : ExtReq) (ok : Bool) (data : List Byte) : State :=
  let write := r.kind % 256 != msgRead
  let need := if r.parts.isEmpty then 0 else r.bytes + if 256 ≤ r.kind then 8 else 0
  let gone := { s with ext := s.ext.filter fun q => q.id != r.id }
  if !ok then gone.pageKill r.who ⟨r.run, r.pc, r.lane⟩ (r.addr / 128 * 128) write
  else if data.length < need then s
  else s.answered r data

/-- The request with a number that waits for its answer, at the host or at another device. -/
def State.waitingExt (s : State) (i : Nat) (host : Bool) : Option ExtReq :=
  s.ext.find? fun r => r.id == i && r.data.isNone && r.dev.isNone == host

/-- PCIE_READ_COMPLETION (R414): Unsupported Request and Completer Abort kill with PAGE. -/
def execPcieReadCompletion (i : Nat) (ok : Bool) (data : List Byte) (s : State) : Res :=
  match s.waitingExt i true with
  | some r => .next (s.extEnd r ok data)
  | none => .next s

/-- REMOTE_RESPONSE (R426, R427). -/
def execRemoteResponse (i : Nat) (ok : Bool) (data : List Byte) (s : State) : Res :=
  match s.waitingExt i false with
  | some r => .next (s.extEnd r ok data)
  | none => .next s

/-! ### Invalidations (R410, R413) -/

/-- INVALIDATION (R413): a second one is held until the first has completed, and with it the later posted writes of its
function. -/
def execInvalidation (ctx iva n : Nat) (s : State) : Res :=
  let c := s.ctx ctx
  let r := (iva % 2 ^ 57 / 2 ^ 16, n % 2 ^ 16)
  if s.ctxHeld ctx then .next s
  else
    .next (s.setCtx ctx (if c.invbusy then { c with invHeld := c.invHeld ++ [(s.writer ctx, r)] }
      else { c with invbusy := true, inv := r }))

/-- Has every access of a context that has translated been performed? -/
def State.translatedDone (s : State) (ctx : Nat) : Bool :=
  !(s.ext.any fun r => r.ctx == ctx && r.data.isNone) &&
    s.cores.all fun p => p.2.collector.all fun r => (s.launch (s.block (s.warp r.slot).blk).launch).ctx != ctx

/-- Does a cached entry map a page of a range: first page of 64 KiB, and pages less one? (R413) -/
def CachedEntry.maps (e : CachedEntry) (r : Nat × Nat) : Bool :=
  e.spans.any fun p => decide (p.1 < (r.1 + r.2 + 1) * 2 ^ 16) && decide (r.1 * 2 ^ 16 < p.1 + p.2)

/-- Does a leaf entry still map its page and hold it discarded? (R420) -/
def State.leafDiscarded (s : State) (leaf : Nat) : Bool :=
  let e := s.mem.read leaf 8
  bitOf e 0 && bitOf e 2 && bitOf e 8

/-- The frame table without the discarded pages that software has reclaimed: their entries are gone, which an invalidation
shows (R418, R420). -/
def State.reclaimFrames (s : State) : State :=
  { s with frames := s.frames.filterMap fun (p : Nat × FrameInfo) =>
      if p.2.discarded.any fun leaf => !s.leafDiscarded leaf then
        let x := { p.2 with discarded := none }
        if x = FrameInfo.reset then none else some (p.1, x)
      else some p }

/-- INVALIDATION_COMPLETE (R410, R413, R415): every cached entry of the range is dropped, once every access that has been
translated is performed; INVBUSY clears, or an invalidation that was held begins. -/
def execInvalidationComplete (ctx : Nat) (s : State) : Res :=
  let c := s.ctx ctx
  if !c.invbusy || !s.translatedDone ctx then .next s
  else
    let c := { c with tlb := c.tlb.filter fun (e : CachedEntry) => !e.maps c.inv }
    let d := match c.invHeld with
      | r :: rs => { c with inv := r.2, invHeld := rs }
      | [] => { c with invbusy := false }
    .next ((s.setCtx ctx d).reclaimFrames.signal c.fn 2)

/-! ### Migrations (R291, R301, R302, R419) -/

/-- The leaf of a page of a context. -/
def State.leafAt (s : State) (ctx va : Nat) : Option (Nat × Nat × Bool) := leafOf s.mem va 4 (s.ctx ctx).root

/-- The location of the page that a leaf entry maps. -/
def leafLoc (e : Nat) : Nat := (if bitOf e 11 then hostBase else 0) + bitsOf e 51 16 * 2 ^ 16

/-- Where a leaf entry pins its page: slice t as 512 + t, core t as 768 + t (R300). -/
def leafPin (e : Nat) : Option Nat :=
  if entryHome e = 2 then some (512 + bitsOf e 63 56) else if entryHome e = 3 then some (768 + bitsOf e 63 56) else none

/-- Is MIGPTE malformed for a page of a size? (R419) -/
def migBad (e : Nat) : Bool := !bitOf e 0 || !bitOf e 2 || bitOf e 9

/-- Would a slice pass R302, or a core hold more than 8 pinned pages? (R419) -/
def State.pinFull (s : State) (large : Bool) (old new : Option Nat) : Bool :=
  if old = new then false
  else
    match new with
    | none => false
    | some t =>
      if t < 768 then
        let sl := t - 512
        decide (1024 < 64 * s.slicePins sl + pageBytes large / 1024 + Map.getD s.sliceLoss sl 0) ||
          decide (s.lendable (clusterOf sl) < s.reserved (clusterOf sl) + pageBytes large / 1024)
      else decide (8 ≤ s.pinsOf (t - 768))

/-- Does the core of a pin lack 16 free granules? (R419) -/
def State.pinNoRoom (s : State) (old new : Option Nat) : Bool :=
  if old = new then false
  else new.any fun t => decide (768 ≤ t) && decide (s.capacity (t - 768) < s.usedGranules (t - 768) + 16)

/-- MIGERR of a migration as it starts (R419). -/
def State.migError (s : State) (ctx : Nat) : Nat :=
  let e := (s.ctx ctx).migpte
  match s.leafAt ctx (s.ctx ctx).migva with
  | none => if migBad e || leafBad false e then 1 else 5
  | some (_, old, large) =>
    let fits := e / 2 ^ 16 % 32 == 0
    if migBad e || leafBad false e || (large && entryHome e == 3) then 1
    else if large && !fits then 2
    else if s.pinFull large (leafPin old) (leafPin e) then 3
    else if s.pinNoRoom (leafPin old) (leafPin e) then 4
    else 0

/-- The frames of a page of this device. -/
def pageFrames (loc n : Nat) : List Nat :=
  if deviceEnd ≤ loc then [] else (List.range (n / 2 ^ 16)).map fun i => loc / 2 ^ 16 + i

/-- Frames changed in the frame table. -/
def State.mapFrames (s : State) (fs : List Nat) (f : FrameInfo → FrameInfo) : State :=
  fs.foldl (fun s k => s.setFrame k (f (s.frame k))) s

/-- A leaf entry that the device writes itself, its cached copies dropped (R410). -/
def State.setLeaf (s : State) (leaf e : Nat) : State := State.dropEntry (a := leaf) { s with mem := Mem.write s.mem leaf 8 e }

/-- MIGGO (R291, R419): refused with a MIGERR, or the page is marked as moving; MIGVA and MIGPTE are taken as they stand. -/
def execMiggo (ctx : Nat) (s : State) : Res :=
  let c := s.ctx ctx
  if c.migbusy || s.ctxHeld ctx then .next s
  else
    let err := s.migError ctx
    if err ≠ 0 then .next (s.setCtx ctx { c with migerr := err })
    else
      match s.leafAt ctx c.migva with
      | none => .next s
      | some (leaf, e, large) =>
        let n := pageBytes large
        let t := s.setLeaf leaf (if bitOf e 9 then e else e + 2 ^ 9)
        let fs := pageFrames (leafLoc e) n ++ pageFrames (leafLoc c.migpte) n
        let t := t.mapFrames fs fun f => { f with copying := true }
        .next (t.setCtx ctx { t.ctx ctx with
          migbusy := true, migerr := 0, migFrom := c.migva, migTo := c.migpte, migFrames := fs })

/-- Who copies a migrated page. -/
def State.migrator (ctx : Nat) : Party := ⟨ctx, 2 ^ 40, .engine (2 ^ 20 + ctx) 6, 0xFFFF, 0, 4⟩

/-- The bytes of the source of a migration: zeros of a discarded page, or a request to the outside. -/
def State.migBytes (s : State) (ctx e n : Nat) : Got :=
  let p := State.migrator ctx
  if bitOf e 8 then .ok (List.replicate n 0)
  else if leafLoc e < deviceEnd then .ok (s.mem.bytes (leafLoc e) n)
  else
    match (s.sentFor p.who msgRead (leafLoc e) n 0).bind ExtReq.data with
    | some bs => .ok bs
    | none => .wait (s.askKept p msgRead (leafLoc e) n 0 [])

/-- A key of bytes or tags moved from one page to another. -/
def movedKey (old new n k : Nat) : Nat := if old ≤ k ∧ k < old + n then new + (k - old) else k

/-- Entries of a map keyed by location moved with a page. -/
def moveKeys {α : Type} (old new n : Nat) (m : List (Nat × α)) : List (Nat × α) :=
  m.foldl (fun t p => Map.set t (movedKey old new n p.1) p.2) []

/-- The tags of a page's words moved with it; the tags of its new place end. A page that keeps its place keeps them (R291). -/
def moveTags (old new n : Nat) (m : List (Nat × Nat)) : List (Nat × Nat) :=
  if old = new then m
  else moveKeys (old / 4) (new / 4) (n / 4) (m.filter fun p => !(decide (new / 4 ≤ p.1) && decide (p.1 < (new + n) / 4)))

/-- A block whose version follows a migrated page (R419). -/
def Block.moved (b : Block) (old new n : Nat) : Block :=
  { b with
    version := moveKeys old new n b.version
    verLines := moveKeys (old / 128) (new / 128) (n / 128) b.verLines
    verTags := b.verTags.map (movedKey (old / 4) (new / 4) (n / 4)) }

/-- A core with the pins of a page changed. -/
def Core.repin (c : Core) (core : Nat) (old new : Option Nat) (f g : Nat) : Core :=
  let ps := if old = some (768 + core) then c.pins.filter fun k => k != f else c.pins
  { c with pins := if new = some (768 + core) then (ps.filter fun k => k != g) ++ [g] else ps }

/-- The new translation installed, with the frame table and the pins of cores (R300, R301, R418). -/
def State.installPage (s : State) (ctx leaf e new n : Nat) : State :=
  let old := leafLoc e
  let at' := leafLoc new
  let t := s.setLeaf leaf new
  let t := t.mapFrames (pageFrames old n) fun f => { f with pin := none, discarded := none, copying := false, leaf := 0 }
  let t := t.mapFrames (pageFrames at' n) fun f =>
    { f with
      pin := leafPin new
      leaf := if (leafPin new).isSome then leaf else 0
      discarded := if bitOf new 8 then some leaf else none
      copying := false }
  let t := { t with
    cores := t.cores.map fun (p : Nat × Core) =>
      (p.1, p.2.repin p.1 (leafPin e) (leafPin new) (old / 2 ^ 16) (at' / 2 ^ 16))
    tags := moveTags old at' n t.tags
    oldCode := t.oldCode.map fun (o : CodeImage) =>
      { o with own := o.own.map fun (r : Nat × Nat) => (movedKey old at' n r.1, r.2) }
    blocks := t.blocks.map fun (p : Nat × Block) => (p.1, p.2.moved old at' n)
    saved := t.saved.map fun (p : Nat × Saved) => (p.1, { p.2 with blk := p.2.blk.moved old at' n }) }
  let c := t.ctx ctx
  (t.setCtx ctx { c with migbusy := false, migerr := 0, migFrames := [] }).signal c.fn 2

/-- Is an access under way to a page outside this device, or performed there for an instruction that has not taken effect?
(R291) -/
def State.pageBusy (s : State) (ctx e n : Nat) : Bool :=
  let q := s.place (leafLoc e)
  s.ext.any fun r => r.who != (State.migrator ctx).who && decide (deviceEnd ≤ leafLoc e) && r.dev == q.1 &&
    decide (q.2 < r.addr + max 1 r.bytes) && decide (r.addr < q.2 + n) && (r.data.isNone || r.owed)

/-- MIGERR of a migration whose target has lost the room meanwhile, its page counted among the pins (R316, R419). -/
def State.migShort (s : State) (e new : Nat) : Nat :=
  let t := bitsOf new 63 56
  if leafPin e = leafPin new then 0
  else if entryHome new = 2 ∧ (1024 < 64 * s.slicePins t + Map.getD s.sliceLoss t 0 ∨
      s.lendable (clusterOf t) < s.reserved (clusterOf t)) then 3
  else if entryHome new = 3 ∧ s.capacity t < s.usedGranules t then 4
  else 0

/-- A migration that ends without having moved the page: its frames are free again, and MIGERR tells why (R418, R419). -/
def State.dropMigration (s : State) (ctx err : Nat) : State :=
  let c := s.ctx ctx
  let t := s.mapFrames c.migFrames fun f => { f with copying := false }
  (t.setCtx ctx { t.ctx ctx with migbusy := false, migerr := err, migFrames := [] }).signal c.fn 2

/-- MIGRATION_COMPLETE (R291, R415, R419): once no access to it is under way, the page is copied and its new entry, MIGPTE as
MIGGO took it, installed. -/
def execMigrationComplete (ctx : Nat) (s : State) : Res :=
  let c := s.ctx ctx
  if !c.migbusy || !s.cores.all (fun p => p.2.collector.isEmpty) then .next s
  else
    match s.leafAt ctx c.migFrom with
    | none => .next (s.dropMigration ctx 5)
    | some (leaf, e, large) =>
      let n := pageBytes large
      let p := State.migrator ctx
      let err := s.migShort e c.migTo
      if s.pageBusy ctx e n then .next s
      else if err ≠ 0 then .next ((s.setLeaf leaf (if bitOf e 9 then e - 2 ^ 9 else e)).dropMigration ctx err)
      else
      match s.migBytes ctx e n with
      | .ok bs =>
        let t := (s.dropKept p.who).putLoc ctx p.who (leafLoc c.migTo) bs
        let t := { t with ext := t.ext.filter fun r => !(r.who == p.who && r.data.isNone && r.kind % 256 == msgRead) }
        .next (t.installPage ctx leaf e c.migTo n)
      | .wait t => .next t
      | .denied => .next s

/-! ### Accesses of host functions (R403, R417, R418, R432) -/

/-- The physical address that a byte of BAR2 reaches (R432): the window's bits below the BAR's size are ignored. -/
def State.windowed (s : State) (addr : Nat) : Nat := s.mss.wbase / 2 ^ s.mss.bar2 * 2 ^ s.mss.bar2 + addr

/-- Is a frame protected: does a byte of it lie in the save region of an enabled context, or in the dump region? (R418) -/
def State.protected (s : State) (frame : Nat) : Bool :=
  let meets (a n : Nat) : Bool := decide (a < (frame + 1) * 2 ^ 16) && decide (frame * 2 ^ 16 < a + n)
  (s.ctxs.any fun p => p.2.en && meets p.2.savebase (p.2.savemib * 2 ^ 20)) || meets s.mss.dbase (s.mss.dmib * 2 ^ 20)

/-- The frames that a range of physical addresses touches. -/
def framesOf (a n : Nat) : List Nat :=
  if n = 0 then [] else (List.range ((a + n - 1) / 2 ^ 16 - a / 2 ^ 16 + 1)).map fun i => a / 2 ^ 16 + i

/-- Do accesses of a range wait for a migration? -/
def State.framesBusy (s : State) (a n : Nat) : Bool := (framesOf a n).any fun f => (s.frame f).copying

/-- The leaf entry of the discarded page that a frame holds (R418). -/
def State.frameDiscarded (s : State) (f : Nat) : Option Nat := (s.frame f).discarded.filter s.leafDiscarded

/-- A byte as a host function reads it: zero of a discarded page and beyond device memory. -/
def State.hostByte (s : State) (a : Nat) : Byte :=
  if deviceEnd ≤ a ∨ (s.frameDiscarded (a / 2 ^ 16)).isSome then 0 else s.mem.byte a

/-- The answer to a host function. -/
def State.reply (s : State) (fn : Nat) (bs : Option (List Byte)) : State :=
  { s with completions := s.completions ++ [(fn, bs)] }

/-- Is an access of a host function within BAR2, which function 0 alone has, and does it answer? (R415, R441) -/
def State.inBar2 (s : State) (fn addr n : Nat) : Bool := fn == 0 && s.serves 2 && decide (addr + n ≤ 2 ^ s.mss.bar2)

/-- HOST_READ (R418): a frozen function has Completer Abort (R403). -/
def execHostRead (fn addr n : Nat) (s : State) : Res :=
  let a := s.windowed addr
  if !s.inBar2 fn addr n || s.framesBusy a n then .next s
  else if s.isFrozen (.function fn) then .next (s.reply fn none)
  else .next (s.reply fn (some ((List.range n).map fun i => s.hostByte (a + i))))

/-- The discarded page of a frame reinstated: zeros, and DISC cleared in its entry (R420). -/
def State.reinstateFrame (s : State) (f : Nat) : State :=
  match s.frameDiscarded f with
  | none => s
  | some leaf =>
    let fs := (s.frames.filter fun p => p.2.discarded == some leaf).map Prod.fst
    let e := s.mem.read leaf 8
    let t := fs.foldl (fun t k => { t with mem := Mem.zero t.mem (k * 2 ^ 16) (2 ^ 16) }) s
    let t := t.setLeaf leaf (e - 2 ^ 8)
    t.mapFrames fs fun x => { x with discarded := none }

/-- Bytes of a host function put at physical addresses; beyond device memory they are dropped. -/
def State.hostPut (s : State) (a : Nat) (bs : List Byte) : State :=
  let t := (framesOf a bs.length).foldl State.reinstateFrame s
  { t with mem := Mem.putBytes t.mem a (bs.take (deviceEnd - a)) }

/-- HOST_WRITE (R418): refused at a protected frame, which freezes the function; dropped while it is frozen (R403). -/
def execHostWrite (fn addr : Nat) (data : List Byte) (s : State) : Res :=
  let a := s.windowed addr
  if !s.inBar2 fn addr data.length || s.framesBusy a data.length || s.postedHeld fn || s.isFrozen (.function fn) then .next s
  else if (framesOf a data.length).any s.protected then .next (s.freeze (.function fn))
  else .next (s.hostPut a data)

/-- The new value of an AtomicOp: FetchAdd, Swap, CAS (R415). -/
def hostAtomic (op bytes old v cmp : Nat) : Nat :=
  match op with
  | 0 => (old + v) % 2 ^ (8 * bytes)
  | 1 => v % 2 ^ (8 * bytes)
  | _ => if old = cmp % 2 ^ (8 * bytes) then v % 2 ^ (8 * bytes) else old

/-- HOST_ATOMICOP (R415, R418): 4 or 8 bytes; it answers the old value. -/
def execHostAtomicop (fn addr op w v cmp : Nat) (s : State) : Res :=
  let a := s.windowed addr
  if !s.inBar2 fn addr w || (w != 4 && w != 8) || a % w != 0 || decide (2 < op) || s.framesBusy a w then .next s
  else if s.isFrozen (.function fn) then .next (s.reply fn none)
  else if (framesOf a w).any s.protected then .next ((s.freeze (.function fn)).reply fn none)
  else
    let old := leNat ((List.range w).map fun i => s.hostByte (a + i))
    .next ((s.hostPut a (leBytes w (hostAtomic op w old v cmp))).reply fn (some (leBytes w old)))

/-! ### Plain registers (R5, R7, R416, R424, R431) -/

/-- Is a queue visible through a function? (R416) -/
def State.queueSeen (s : State) (fn q : Nat) : Bool := fn == 0 || (s.ctx (s.queue q).ctx).fn == fn

/-- Is a context visible through a function? (R416) -/
def State.ctxSeen (s : State) (fn c : Nat) : Bool := fn == 0 || (s.ctx c).fn == fn

/-- Has every packet that a queue accepted completed, and is it disabled? (R320) -/
def Queue.idle (q : Queue) : Bool := !q.en && q.packets.isEmpty

/-- The 64-bit words of a queue block (R320). -/
def Queue.word (q : Queue) (off : Nat) : Nat :=
  match off with
  | 0x00 => q.base
  | 0x08 => flagBit q.en 31 + q.ctx * 2 ^ 12 + q.prio * 2 ^ 10 + q.logsz +
      (q.detail * 2 ^ 16 + flagBit q.idle 9 + flagBit q.halt 8 + q.code) * 2 ^ 32
  | 0x10 => flagBit q.lap 16 + q.slot
  | 0x18 => q.seq % 2 ^ 64
  | 0x20 => q.area
  | _ => 0

/-- The 64-bit words of a fault record (R393). -/
def Queue.faultWord (q : Queue) (off : Nat) : Nat :=
  match off with
  | 0x00 => q.fseq
  | 0x08 => q.fblock + q.fcause.toNat * 2 ^ 32
  | 0x10 => q.fepc.toNat
  | 0x18 => q.flmask.toNat + q.fstat.toNat * 2 ^ 32
  | _ => 0

/-- The 64-bit words of a context block, whole or as a virtual function sees it (R413). -/
def Context.word (c : Context) (pf : Bool) (off : Nat) : Nat :=
  match off with
  | 0x00 => if pf then c.root + flagBit c.privch 1 + flagBit c.en 0 else 0
  | 0x08 => if pf then c.fn * 2 ^ 20 + c.pasid else 0
  | 0x10 => if pf then c.savebase + c.savemib else 0
  | 0x18 => c.frbase + c.frlog
  | 0x20 => c.frhead * 2 ^ 16 + c.frtail
  | 0x38 => flagBit c.termd 16 + c.migerr * 2 ^ 8 + flagBit c.migbusy 1 + flagBit c.invbusy 0
  | 0x40 => c.migva
  | 0x48 => c.migpte
  | _ => 0

/-- The queue register space (R416): the 64-bit word at an offset as a function reads it. -/
def State.queueSpace (s : State) (fn off : Nat) : Nat :=
  if 0x100000 ≤ off ∧ off < 0x110000 then
    let q := (off - 0x100000) / 0x40
    if s.queueSeen fn q then (s.queue q).word (off % 0x40) else 0
  else if 0x180000 ≤ off ∧ off < 0x182000 then
    let q := (off - 0x180000) / 8
    if s.queueSeen fn q then (s.queue q).tdesc else 0
  else if 0x1C0000 ≤ off ∧ off < 0x1D0000 then
    let q := (off - 0x1C0000) / 0x40
    if s.queueSeen fn q then (s.queue q).faultWord (off % 0x40) else 0
  else if 0x200000 ≤ off ∧ off < 0x280000 then
    let c := (off - 0x200000) / 0x80
    if s.ctxSeen fn c then (s.ctx c).word (fn == 0) (off % 0x80) else 0
  else 0

/-- The code of a port's STATE (R424). -/
def PortState.code (x : PortState) : Nat :=
  match x with
  | .disabled => 0
  | .down => 1
  | .train => 2
  | .up => 3
  | .retrain => 4
  | .dead => 5

/-- The 64-bit words of a port's block (R424). -/
def Port.word (p : Port) (off : Nat) : Nat :=
  if off = 0 then
    (if p.st = .up then p.peer * 2 ^ 34 else 0) + min p.retrains 0xFFFF * 2 ^ 16 + p.lanes * 2 ^ 6 + p.st.code
  else min p.replays 0xFFFFFFFF * 2 ^ 32 + flagBit p.dis 0

/-- The number of ports (R421). -/
def portCount : Nat := 96

/-- The 64-bit words of BAR4 (R424, R431). -/
def State.mgmtSpace (s : State) (off : Nat) : Nat :=
  let m := s.mss
  match off with
  | 0x000 => m.fwrev * 2 ^ 24 + m.laylo * 2 ^ 20 + m.layhi * 2 ^ 16 + flagBit m.dumpv 15 + m.pstate * 2 ^ 4 + m.stage
  | 0x008 => m.preq
  | 0x010 => m.wbase
  | 0x018 => m.plim * 2 ^ 16 + m.tcrit * 2 ^ 8 + m.tmig
  | 0x020 => m.lbase + m.llog
  | 0x028 => m.lost % 2 ^ 32 * 2 ^ 32 + m.head * 2 ^ 16 + m.tail
  | 0x030 => m.frozen.length % 2 ^ 10 * 2 ^ 32
  | 0x038 => m.actaddr
  | 0x040 => (flagBit m.staged.isSome 9 + flagBit m.busy.isSome 8 + m.res) * 2 ^ 32
  | 0x048 => m.attaddr
  | 0x050 => flagBit m.attbusy 0 * 2 ^ 32
  | 0x080 => m.dbase + m.dmib
  | 0x80000 => flagBit m.domValid 31 + m.topo * 2 ^ 29 + m.ndev * 2 ^ 14 + m.domid
  | 0x80008 => m.explim * 2 ^ 16
  | _ =>
    if 0x060 ≤ off ∧ off < 0x080 then field m.nonce (off - 0x060) 8
    else if 0x1000 ≤ off ∧ off < 0x1600 then
      let c := s.core ((off - 0x1000) / 8)
      flagBit c.hot 16 + c.temp.toNat
    else if 0x80100 ≤ off ∧ off < 0x80100 + 0x10 * portCount then (s.port ((off - 0x80100) / 0x10)).word (off % 0x10)
    else 0

/-- Does an 8-byte word of a register BAR answer? In RECOVERY only the management registers do (R431, R441; log entry 100). -/
def State.servesWord (s : State) (bar off : Nat) : Bool := s.serves bar && (s.mss.stage != 7 || decide (off < 0x1000))

/-- What a function reads at an 8-byte word of a register BAR (R5, R415). -/
def State.regWord (s : State) (fn bar off : Nat) : Nat :=
  if s.servesWord bar off = false then 0
  else if bar = 0 then s.queueSpace fn off else if bar = 4 ∧ fn = 0 then s.mgmtSpace off else 0

/-- A word with some of its bits written. -/
def written (old v mask : Nat) : Nat := old - (old &&& mask) + (v &&& mask)

/-- Bits [hi:lo] of a word, in place. -/
def fieldAt (x hi lo : Nat) : Nat := bitsOf x hi lo * 2 ^ lo

/-- RW fields of a queue block written with the word x (R320): none but the area's owner changes them while EN is 1. -/
def Queue.put (q : Queue) (ctxOk : Bool) (off x : Nat) : Queue :=
  if q.en then q
  else
    match off with
    | 0x00 => { q with base := fieldAt x 56 8 }
    | 0x08 => { q with ctx := if ctxOk then bitsOf x 23 12 else q.ctx, prio := bitsOf x 11 10, logsz := bitsOf x 4 0 }
    | 0x10 => { q with lap := bitOf x 16, slot := bitsOf x 15 0 }
    | _ => q

/-- RW fields of a context block written with the word x (R413). -/
def Context.put (c : Context) (pf : Bool) (off x : Nat) : Context :=
  match off with
  | 0x00 =>
    if !pf then c
    else
      { c with
        root := if c.en then c.root else fieldAt x 51 12
        privch := if c.en then c.privch else bitOf x 1
        en := bitOf x 0 }
  | 0x08 => if !pf then c else { c with fn := bitsOf x 25 20, pasid := if c.en then c.pasid else bitsOf x 19 0 }
  | 0x10 => if !pf then c else { c with savebase := fieldAt x 51 20, savemib := bitsOf x 15 0 }
  | 0x18 => { c with frbase := fieldAt x 56 8, frlog := bitsOf x 3 0 }
  | 0x20 => { c with frtail := bitsOf x 15 0 }
  | 0x40 => { c with migva := fieldAt x 56 16 }
  | 0x48 => { c with migpte := x }
  | _ => c

/-- RW and W1C fields of the management page written with the word x, of which the bits `ones` were written as one
(R424, R431); PREQ takes 3, which is no request, here, and its other values by events of their own. -/
def Mss.put (m : Mss) (off x ones : Nat) : Mss :=
  match off with
  | 0x000 => { m with dumpv := m.dumpv && !bitOf ones 15 }
  | 0x008 => if bitsOf x 1 0 = 3 ∧ m.stage ≠ 6 ∧ m.stage ≠ 7 then { m with preq := 3 } else m
  | 0x010 => { m with wbase := fieldAt x 51 30 }
  | 0x020 => { m with lbase := fieldAt x 51 12, llog := bitsOf x 3 0 }
  | 0x028 => { m with tail := bitsOf x 15 0 }
  | 0x038 => { m with actaddr := fieldAt x 51 12 }
  | 0x048 => { m with attaddr := fieldAt x 51 12 }
  | 0x80008 => { m with explim := bitsOf x 37 16 }
  | _ =>
    if 0x060 ≤ off ∧ off < 0x080 then
      { m with nonce := m.nonce.take (off - 0x060) ++ leBytes 8 x ++ m.nonce.drop (off - 0x060 + 8) }
    else m

/-- The Resizable BAR control of BAR2 written in function 0's configuration space, which the event names as BAR 6: the BAR is
2^(20 + v) bytes, 1 GiB to 256 GiB (R415; log entry 98). -/
def Mss.resize (m : Mss) (v : Nat) : Mss := if 10 ≤ v ∧ v ≤ 18 then { m with bar2 := 20 + v } else m

/-- REGISTER_WRITE (R5, R7, R416): the bytes written change the RW and W1C fields of their 8-byte word; a BAR that does not
answer takes nothing (R441). -/
def execRegisterWrite (fn bar off size v : Nat) (s : State) : Res :=
  let word := off / 8 * 8
  let shift := 8 * (off % 8)
  let mask := (2 ^ (8 * size) - 1) * 2 ^ shift
  let ones := v % 2 ^ (8 * size) * 2 ^ shift
  let x := written (s.regWord fn bar word) ones mask
  if bar = 6 then (if fn = 0 then .next { s with mss := s.mss.resize v } else .next s)
  else if 64 ≤ fn ∨ ¬ size ∈ [1, 2, 4, 8] ∨ 8 < off % 8 + size ∨ s.postedHeld fn = true ∨
      s.servesWord bar word = false then .next s
  else if bar = 4 then (if fn = 0 then .next { s with mss := s.mss.put word x ones } else .next s)
  else if bar ≠ 0 then .next s
  else if 0x100000 ≤ word ∧ word < 0x110000 then
    let q := (word - 0x100000) / 0x40
    if s.queueSeen fn q then
      .next (s.setQueue q ((s.queue q).put (s.ctxSeen fn (bitsOf x 23 12)) (word % 0x40) x))
    else .next s
  else if 0x180000 ≤ word ∧ word < 0x182000 then
    let q := (word - 0x180000) / 8
    if s.queueSeen fn q then .next (s.setQueue q { s.queue q with tdesc := fieldAt x 56 6 }) else .next s
  else if 0x1C0000 ≤ word ∧ word < 0x1D0000 then
    let q := (word - 0x1C0000) / 0x40
    let y := s.queue q
    if s.queueSeen fn q && word % 0x40 == 0x18 && bitOf ones 63 then
      .next (s.setQueue q { y with fstat := y.fstat &&& 0x7FFFFFFF })
    else .next s
  else if 0x200000 ≤ word ∧ word < 0x280000 then
    let c := (word - 0x200000) / 0x80
    if s.ctxSeen fn c then .next (s.setCtx c ((s.ctx c).put (fn == 0) (word % 0x80) x)) else .next s
  else .next s

end Sys2Proof.Machine
end

