-- ==== Sys2Proof/Machine/Fabric.lean ====
section
/-! DEFINITION. The Myond fabric (R381, R421 to R427, R430): the states of ports, flits, and accesses of other devices. -/

namespace Sys2Proof.Machine

/-! ### Failures of paths (R423, R427, R430) -/

/-- Can a device not be reached: is its id NDEV or above, or is every path to it DEAD? A port that has not exchanged ids with
a peer is no path (R427). -/
def State.unreachable (s : State) (d : Nat) : Bool :=
  decide (s.mss.ndev < d) ||
    ((s.ports.any fun p => s.leads p.1 d && p.2.st == .dead) &&
      !s.ports.any fun p => s.leads p.1 d && (p.2.st == .up || p.2.st == .retrain))

/-- The devices that an unfinished collective still needs something of: the members whose contributions are not there, and in
ring phases the neighbour before (R429, R430). -/
def State.collNeeds (s : State) (c : Collective) : List Nat :=
  let m := s.collMembers c.launch c.grp
  let missing := (m.zipIdx.filter fun q => q.2 != c.rank && (partFor c.parts q.2).isNone).map Prod.fst
  missing ++ if ringed c.sig && !c.gatheredAll then [prevOf m s.mss.domid] else []

/-- Does an unfinished collective that a block waits for need a device of some kind? -/
def State.collWants (s : State) (c : Collective) (f : Nat → Bool) : Bool :=
  c.issued && c.dest != .none && c.refused.isNone && (s.collNeeds c).any fun d => d != s.mss.domid && f d

/-- Does a collective that a block waits for need a device that cannot be reached? (R430) -/
def State.collCut (s : State) (c : Collective) : Bool := s.collWants c s.unreachable

/-- Requests that cannot be answered end (R427). -/
def State.failAll (s : State) (rs : List ExtReq) : State :=
  rs.foldl (fun t r => if t.ext.any fun q => q.id == r.id then t.extEnd r false [] else t) s

/-- A collective ends with the block that issued it, on a core or saved (R430). -/
def State.collKill (s : State) (c : Collective) : State :=
  let k := Killing.bare 0x07 (2 ^ 7)
  if c.blk < savedBlock then
    (if (Map.find s.blocks c.blk).any fun b => b.launch == c.launch then s.kill c.blk k else s)
  else s.killSaved (c.blk - savedBlock) k

/-- The accesses and collectives that need a device which cannot be reached end (R427, R430). -/
def State.cutPaths (s : State) : State :=
  let t := s.failAll (s.ext.filter fun r => r.data.isNone && r.dev.any s.unreachable)
  (t.collectives.filter t.collCut).foldl State.collKill t

/-- What depended on a port that carries nothing any more ends: the requests and the collectives whose messages took it, and
whatever has no path left (R423, R427, R430). -/
def State.losePort (s : State) (p : Nat) : State :=
  let took (d : Nat) : Bool := Map.find s.paths d == some p
  let t := s.failAll (s.ext.filter fun r => r.data.isNone && r.dev.any took)
  ((t.collectives.filter fun c => t.collWants c took).foldl State.collKill t).cutPaths

/-! ### The states of a port (R423) -/

/-- A port in one of some states changed by an event. -/
def State.portEvent (s : State) (p : Nat) (ok : PortState → Bool) (f : Port → Port) : Res :=
  if p < portCount ∧ ok (s.port p).st then .next (s.setPort p (f (s.port p))) else .next s

/-- Cycles in 1 ms, 50 ms and 100 ms (R1, R423). -/
def replaySpan : Nat := 1500000
def retrainLimit : Nat := 75000000
def trainLimit : Nat := 150000000

/-- Cycles in 2 µs (R1, R422). -/
def ackLimit : Nat := 3000

/-- SIGNAL_DETECTED (R423). -/
def execSignalDetected (p : Nat) (s : State) : Res :=
  s.portEvent p (fun x => x == .down) fun x => { x with st := .train, since := s.clk }

/-- A port that has trained: the peer's domain id, and the lanes that trained, come from outside (log entry 7); from TRAIN
or DEAD the link starts anew, and from RETRAIN the flits held are resent (R423). -/
def Port.up (x : Port) (now draw p : Nat) : Port :=
  let word (k : Nat) : Nat := (Config.unstated k (BitVec.ofNat 32 draw) (BitVec.ofNat 32 p)).toNat
  let y := { x with st := .up, timer := now, peer := word 12 % 2 ^ 14, lanes := 1 + word 13 % 2, lost := false }
  if x.st = .retrain then { y with peer := x.peer, replays := min (x.replays + min x.replay.length 2048) 0xFFFFFFFF }
  else { y with rxSeq := 0, txSeq := 0, replay := [], resent := [] }

/-- May a port that trains still succeed: 100 ms have not passed since it entered TRAIN, nor 50 ms since it left UP? (R423) -/
def Port.inTime (x : Port) (now : Nat) : Bool :=
  match x.st with
  | .train => decide (now < x.since + trainLimit)
  | .retrain => decide (now < x.down + retrainLimit)
  | .dead => true
  | _ => false

/-- TRAINING_SUCCESS (R423): from TRAIN and from RETRAIN in time, and from DEAD. What waited for a path is sent. -/
def execTrainingSuccess (p : Nat) (s : State) : Res :=
  let t := { s with draws := s.draws + 1 }
  if p < portCount ∧ (s.port p).inTime s.clk then .next (t.setPort p ((s.port p).up s.clk s.draws p)).postAll else .next t

/-- TRAIN_TIMEOUT (R423): 100 ms without success. -/
def execTrainTimeout (p : Nat) (s : State) : Res :=
  if s.clk < (s.port p).since + trainLimit then .next s
  else s.portEvent p (fun x => x == .train) fun x => { x with st := .down, lanes := 0 }

/-- A port that leaves UP to train again (R423). -/
def Port.retrain (x : Port) (now : Nat) : Port :=
  { x with st := .retrain, retrains := min (x.retrains + 1) 0xFFFF, down := now, resent := [] }

/-- RETRAIN_TRIGGER (R423): the loss of a lane. More than 64 replays within 1 ms have the same effect (Port.resend). -/
def execRetrainTrigger (p : Nat) (s : State) : Res := s.portEvent p (fun x => x == .up) fun x => x.retrain s.clk

/-- RETRAIN_TIMEOUT (R423, R427, R430, R433): 50 ms after it left UP the port is DEAD, which is logged, and what depended on it
ends. -/
def execRetrainTimeout (p : Nat) (s : State) : Res :=
  let x := s.port p
  if x.st ≠ .retrain ∨ s.clk < x.down + retrainLimit then .next s
  else
    .next (((s.setPort p { x with st := .dead, lanes := 0 }).logEvent 6 p 0 x.peer).losePort p)

/-- Do the fabric registers answer? From stage ROM on, but not in RECOVERY (R424, R441). -/
def State.servesFabric (s : State) : Bool := s.servesWord 4 0x80000

/-- PORT_DISABLE (R423): a register write (R441). The manual does not say what becomes of
the messages on a port that software disables: what depended on them ends, as where a port enters DEAD (log entry 99). -/
def execPortDisable (p : Nat) (s : State) : Res :=
  let x := s.port p
  if p < portCount ∧ s.servesFabric = true then
    .next ((s.setPort p { x with
      st := .disabled, dis := true, lanes := 0, down := if x.st = .up then s.clk else x.down }).losePort p)
  else .next s

/-- PORT_ENABLE (R423, R437): held DISABLED while no configuration record is accepted. -/
def execPortEnable (p : Nat) (s : State) : Res :=
  if p < portCount ∧ (s.port p).dis = true ∧ s.servesFabric = true then
    .next (s.setPort p { s.port p with
      dis := false
      st := if s.mss.configured && (s.port p).st == .disabled then .down else (s.port p).st })
  else .next s

/-! ### Flits (R422) -/

/-- Is a flit as the receiver expects it? -/
def Port.accepts (x : Port) (flit : List Byte) : Bool :=
  let h := field flit 0 4
  flit.length == 256 && field flit 248 8 == (Config.crc64 (flit.take 248)).toNat && decide (bitsOf h 27 24 < 3) &&
    bitsOf h 31 28 == 0 && bitsOf h 11 0 == x.rxSeq

/-- The flits still unacknowledged after an acknowledgement of all up to a number. -/
def ackFlits (ack : Nat) (fs : List (Nat × List Byte)) : List (Nat × List Byte) :=
  match fs.findIdx? fun f => f.1 == ack with
  | some i => fs.drop (i + 1)
  | none => fs

/-- The unacknowledged flits resent in order: one replay; the 65th within 1 ms makes the port train again (R422, R423; log
entry 99). -/
def Port.resend (x : Port) (now : Nat) : Port :=
  let n := min x.replay.length 2048
  let rs := (x.resent.filter fun q => decide (now < q.1 + replaySpan)) ++ [(now, n)]
  let y := { x with replays := min (x.replays + n) 0xFFFFFFFF, resent := rs, timer := now }
  if n = 0 then x else if 64 < rs.length then y.retrain now else y

/-- A discarded flit reported to the sender by a flit of link control: KIND 2, whose payload the manual does not lay out (R422;
log entry 99). -/
def Port.report (x : Port) (now : Nat) : Port :=
  let payload := (List.range 244).map fun i => Config.flitByte 2 0 [] i
  { x with
    txSeq := (x.txSeq + 1) % 4096
    timer := if x.replay.isEmpty then now else x.timer
    replay := x.replay ++ [(x.txSeq, flitOf x.txSeq (x.rxSeq + 4095) 2 payload)] }

/-- A flit that the receiver takes: its acknowledgement frees those held, a payload of messages is delivered, and one of link
control reports a discard, so that the rest is resent. -/
def Port.take (x : Port) (flit : List Byte) (now : Nat) : Port :=
  let h := field flit 0 4
  let left := ackFlits (bitsOf h 23 12) x.replay
  let y := { x with
    rxSeq := (x.rxSeq + 1) % 4096
    replay := left
    timer := if left.length < x.replay.length then now else x.timer
    inbox := if bitsOf h 27 24 = 1 then x.inbox ++ [(flit.drop 4).take 244] else x.inbox }
  if bitsOf h 27 24 = 2 then y.resend now else y

/-- FLIT_RECEIVE (R422): delivered in order, or discarded and reported; the payload's messages act by events of their own. -/
def execFlitReceive (p : Nat) (flit : List Byte) (s : State) : Res :=
  s.portEvent p (fun x => x == .up) fun x => if x.accepts flit then x.take flit s.clk else x.report s.clk

/-- ACK_TIMEOUT (R422): no acknowledgement within 2 µs; the sender resends its unacknowledged flits. -/
def execAckTimeout (p : Nat) (s : State) : Res :=
  if s.clk < (s.port p).timer + ackLimit then .next s else s.portEvent p (fun x => x == .up) fun x => x.resend s.clk

/-! ### Accesses of other devices (R425 to R427) -/

/-- Kinds of answers: bytes or an acknowledgement, and a refusal (the codes are the model's own). -/
def msgReply : Nat := 5
def msgRefused : Nat := 6

/-- A byte of this device as another reads it: the manual gives the backing of a pinned page no value there (log entry 7);
DISC does not apply. -/
def State.remoteByte (s : State) (a : Nat) : Byte :=
  if (s.frame (a / 2 ^ 16)).pin.isSome then BitVec.ofNat 8 (Config.unstated 14 (BitVec.ofNat 32 a) (BitVec.ofNat 32 s.draws)).toNat
  else s.mem.byte a

/-- Bytes put by another device: lost where a pinned page's backing is (R425). -/
def State.remotePut (s : State) (a : Nat) (bs : List Byte) : State :=
  { s with mem := bs.zipIdx.foldl (fun m q =>
      if (s.frame ((a + q.2) / 2 ^ 16)).pin.isSome then m else Mem.setByte m (a + q.2) q.1) s.mem }

/-- The operation of an atomic message (R194). -/
def atomOfCode (n : Nat) : AtomOp :=
  match n with
  | 0 => .add
  | 1 => .min
  | 2 => .max
  | 3 => .umin
  | 4 => .umax
  | 5 => .and
  | 6 => .or
  | 7 => .xor
  | 8 => .exch
  | 9 => .cas
  | _ => .fadd

/-- Bytes that a message of a kind acts on. -/
def messageBytes (kind : Nat) (data : List Byte) : Nat :=
  let k := kind % 256
  let n := data.length - if 256 ≤ kind then 8 else 0
  if k = msgRead then field data 0 4
  else if k = msgMom then 20
  else if k < 64 then n
  else if 16 ≤ k - 64 then 8 else 4

/-- What a message writes over an old value; nothing when it only reads, or keeps a greater visibility entry; moments are
added to the sums there (R369, R374, R378). -/
def messageNew (kind old : Nat) (data : List Byte) : Option Nat :=
  let k := kind % 256
  let n := messageBytes kind data
  if k = msgRead then none
  else if k = msgMom then
    some (leNat (MomAdd.sums ⟨0, BitVec.ofNat 32 (field data 0 4), BitVec.ofNat 32 (field data 4 4), 0⟩ (leBytes 20 old)))
  else if k = msgVis .lt then (if visReplaces .lt (field data 0 n) old then some (field data 0 n) else none)
  else if k = msgVis .le then (if visReplaces .le (field data 0 n) old then some (field data 0 n) else none)
  else if k < 64 then some (field data 0 n)
  else some (atomNew (atomOfCode (k % 16)) (8 * n) old (field data 0 n) (field data n n))

/-- The tag that an answer carries and the tag left with the `n` bytes: `.sc` takes a new time, and a release stores its clock,
which one that is an acquire as well has raised to the tag that it reads (R282, R426). -/
def State.messageTag (s : State) (kind a n : Nat) (data : List Byte) (writes : Bool) : State × List Byte :=
  let tag := field (data.drop (data.length - 8)) 0 8
  if kind < 256 then (s, [])
  else if bitOf kind 10 then
    let ts := max tag (s.tag a n) + 1
    (if writes then s.setTag a n ts else s, leBytes 8 ts)
  else
    let ts := if bitOf kind 8 then max tag (s.tag a n) else tag
    (if bitOf kind 9 then s.setTag a n ts else s, leBytes 8 (s.tag a n))

/-- REMOTE_ACCESS (R425 to R427): performed at its home, this device, where EXPLIM covers it; else refused and logged. In
RECOVERY none is served (R441). -/
def execRemoteAccess (dev kind addr : Nat) (data : List Byte) (s : State) : Res :=
  let n := messageBytes kind data
  if n = 0 ∨ dev = s.mss.domid ∨ s.mss.stage = 7 then .next s
  else if s.mss.explim * 2 ^ 16 < addr + n ∨ deviceEnd < addr + n then
    .next ((s.logEvent 7 dev 0 addr).send dev msgRefused addr [])
  else
    let old := (List.range n).map fun i => s.remoteByte (addr + i)
    let new := messageNew kind (leNat old) data
    let r := s.messageTag kind addr n data new.isSome
    let t := match new with
      | some v => r.1.remotePut addr (leBytes n v)
      | none => r.1
    let answer := if kind % 256 = msgRead ∨ 64 ≤ kind % 256 then old ++ r.2 else r.2
    let u := { t with draws := t.draws + 1 }
    .next (u.send dev msgReply addr answer)

/-! ### Links that stay down (R381) -/

/-- Do the messages to and from a device need a port: did they take it, or, where they took none yet, is no other one UP that
leads to it? (R381, R426) -/
def State.needsPort (s : State) (p d : Nat) : Bool :=
  s.leads p d &&
    match Map.find s.paths d with
    | some q => q == p
    | none => !s.ports.any fun q => q.1 != p && s.leads q.1 d && q.2.st == .up

/-- Does a geometry launch wait, as owner or as sender, on a device through a port: for its marks, for a way to it while blocks of
its own run or will run, or for an acknowledgement of what was sent? (R379, R381) -/
def State.waitsOnPort (s : State) (p lk : Nat) (l : Launch) : Bool :=
  l.ltype == 1 && l.owners != 0 && l.phase == .running &&
    (l.members (field (l.target.getD []) 0x3A 1)).any fun d =>
      d != s.mss.domid && s.leads p d && (!(s.port p).replay.isEmpty || (s.needsPort p d &&
        (s.awaitsMarks lk l d || !s.blocksDone lk l || s.outbox.any fun m => m.1 == d)))

/-- LINK_DOWN_LIMIT (R381): a link has been down beyond 50 ms, one that software disabled among them; geometry packets that wait
on it end with DEVLOST, and what waited is not drawn. -/
def execLinkDownLimit (p : Nat) (s : State) : Res :=
  let x := s.port p
  if portCount ≤ p ∨ x.st = .up ∨ s.clk < x.down + retrainLimit then .next s
  else
    let t := s.setPort p { x with lost := true }
    let lost := (t.launches.filter fun q => t.waitsOnPort p q.1 q.2).map Prod.fst
    .next { t with
      launches := t.launches.map fun (q : Nat × Launch) =>
        if lost.contains q.1 then (q.1, { q.2 with devlost := true }) else q
      prims := t.prims.filter fun q => !lost.contains q.launch }

end Sys2Proof.Machine
end

