-- ==== Sys2Proof/Machine/Repair.lean ====
section
/-! DEFINITION. Errors and repair (R314 to R317): the scrubber, remapped rows, retired banks, uncorrectable errors. -/

namespace Sys2Proof.Machine

/-! ### Stores and rows -/

/-- The stores that repair distinguishes (R295, R316), with the unit that holds each; partitions as 32 × core + partition. -/
inductive Store where
  | sram (core : Nat)
  | general (part : Nat)
  | compact (part : Nat)
  | slice (sl : Nat)
  | brick (core : Nat)
  | weight (cl : Nat)
  | dram
  deriving DecidableEq, Repr

/-- The number of a store: the model's own key of `rowErrors` and `spares`. -/
def Store.key (x : Store) : Nat :=
  match x with
  | .sram c => 8 * c
  | .general p => 8 * p + 1
  | .compact p => 8 * p + 2
  | .slice k => 8 * k + 3
  | .brick c => 8 * c + 4
  | .weight c => 8 * c + 5
  | .dram => 6

/-- The store of a number; nothing where the device has no such store. -/
def storeOf (k : Nat) : Option Store :=
  let u := k / 8
  match k % 8 with
  | 0 => if u < 192 then some (.sram u) else none
  | 1 => if u < 6144 then some (.general u) else none
  | 2 => if u < 6144 then some (.compact u) else none
  | 3 => if u < 192 then some (.slice u) else none
  | 4 => if u < 192 then some (.brick u) else none
  | 5 => if u < 48 then some (.weight u) else none
  | 6 => if u = 0 then some .dram else none
  | _ => none

/-- Spare rows of a bank (R315). -/
def Store.spareRows (x : Store) : Nat :=
  match x with
  | .sram _ => 4
  | _ => 8

/-- UNIT of an event about a store (R433): core or slice; the manual names none for a weight buffer (log entry 7). -/
def Store.unit (x : Store) : Nat :=
  match x with
  | .sram c => c
  | .general p => p / 32
  | .compact p => p / 32
  | .slice k => k
  | .brick c => c
  | .weight c => (Config.unstated 17 (BitVec.ofNat 32 c) 0).toNat % 2 ^ 16
  | .dram => (Config.unstated 17 48 0).toNat % 2 ^ 16

/-- The store code (R317); the manual gives the brick cache none (log entry 7). -/
def Store.code (x : Store) : Nat :=
  match x with
  | .sram _ => 2
  | .general _ => 1
  | .compact _ => 1
  | .slice _ => 5
  | .brick _ => (Config.unstated 16 0 0).toNat
  | .weight _ => 4
  | .dram => 6

/-- The bank of a row, and the keys of rows and banks; a row is 2¹⁶ × bank + row within it. -/
def rowBank (row : Nat) : Nat := row / 2 ^ 16
def Store.rowKey (x : Store) (row : Nat) : Nat := x.key * 2 ^ 64 + row % 2 ^ 64
def Store.bankKey (x : Store) (bank : Nat) : Nat := x.key * 2 ^ 48 + bank % 2 ^ 48

/-! ### Pages moved from a store that shrinks (R302, R316) -/

/-- A leaf entry with its page no longer pinned: HOME CACHED, TARGET zero; the page keeps its frame. -/
def unpinned (e : Nat) : Nat := e - bitsOf e 63 56 * 2 ^ 56 - bitsOf e 7 6 * 2 ^ 6

/-- A pinned page moved to device memory, by a leaf entry that pins it. -/
def State.unpin (s : State) (leaf : Nat) : State :=
  let fs := (s.frames.filter fun f => f.2.pin.isSome && f.2.leaf == leaf).map Prod.fst
  let t := s.setLeaf leaf (unpinned (s.mem.read leaf 8))
  let t := t.mapFrames fs fun f => { f with pin := none, leaf := 0 }
  { t with cores := t.cores.map fun (p : Nat × Core) =>
      (p.1, { p.2 with pins := p.2.pins.filter fun k => !fs.contains k }) }

/-- The leaf entries that pin pages at a place. -/
def State.pinLeaves (s : State) (at' : Nat) : List Nat :=
  ((s.frames.filter fun f => f.2.pin == some at').map fun f => f.2.leaf).dedup

/-- Pages of a slice migrated until the rest fit its limit, and the cluster's slices lend what its version reserves take
(R302, R316). -/
def State.trimSlice (s : State) (sl : Nat) : List Nat → State
  | [] => s
  | leaf :: rest =>
    if 64 * s.slicePins sl + Map.getD s.sliceLoss sl 0 ≤ 1024 ∧ s.reserved (clusterOf sl) ≤ s.lendable (clusterOf sl) then s
    else (s.unpin leaf).trimSlice sl rest

/-! ### Retirement (R316) -/

/-- A core leaves service: placement never uses it again. -/
def State.retireCore (s : State) (core code : Nat) : State :=
  (s.setCore core { s.core core with inService := false }).logEvent 3 core code 0

/-- A core on its way to be empty: its running blocks are requested, its resident segments without attachments evicted, on
behalf of no queue (log entry 103). -/
def State.clearCore (s : State) (core : Nat) : State :=
  let t := (s.coreBlocks core).foldl (fun t p => t.requestSave 1 p.1) s
  (t.segs.filter fun p => p.2.st == .resident && p.2.loc == core && p.2.attach == 0).foldl
    (fun t p => t.startEvict 0 p.1 .evict) t

/-- The draining of a core for a retirement begins. -/
def State.drainCore (s : State) (core what bank : Nat) : State :=
  let c := s.core core
  (s.setCore core { c with draining := c.draining ++ [(what, bank)] }).clearCore core

/-- The size of a bank that the manual does not give, at least 1 and at most the store's size (log entry 7). -/
def bankSize (key size : Nat) : Nat := 1 + (Config.unstated 15 (BitVec.ofNat 32 key) 0).toNat % size

/-- A bank retired. -/
def State.retireBank (s : State) (x : Store) (bank : Nat) : State :=
  match x with
  | .sram c => s.drainCore c 0 bank
  | .general p => s.drainCore (p / 32) (p % 32 + 1) bank
  | .compact p => (s.logEvent 2 x.unit x.code bank).retireCore (p / 32) x.code
  | .slice k =>
    let t := { s with sliceLoss := Map.set s.sliceLoss k (min 1536 (Map.getD s.sliceLoss k 0 + 128)) }
    (t.trimSlice k (t.pinLeaves (512 + k))).logEvent 2 x.unit x.code bank
  | .brick c =>
    let y := s.core c
    let cap := y.brickCap - bankSize x.key 256
    (s.setCore c { y with brickCap := cap, bricks := y.bricks.drop (y.bricks.length - cap) }).logEvent 2 x.unit x.code bank
  | .weight c =>
    let y := s.cluster c
    (s.setCluster c { y with wbEnd := y.wbEnd - bankSize x.key (2 ^ 21) }).logEvent 2 x.unit x.code bank
  | .dram => s

/-- A row that must be remapped: to a spare row, or its bank is retired (R315, R316). -/
def State.remapRow (s : State) (x : Store) (row : Nat) : State :=
  let bank := rowBank row
  let used := Map.getD s.spares (x.bankKey bank) 0
  if used < x.spareRows then
    { s with spares := Map.set s.spares (x.bankKey bank) (used + 1) }.logEvent 1 x.unit x.code bank
  else s.retireBank x bank

/-- A corrected error of a row counted; the third within a pass remaps the row (R314, R315). -/
def State.corrected (s : State) (x : Store) (row : Nat) : State :=
  let n := Map.getD s.rowErrors (x.rowKey row) 0 + 1
  if n < 3 then { s with rowErrors := Map.set s.rowErrors (x.rowKey row) n }
  else { s with rowErrors := Map.erase s.rowErrors (x.rowKey row) }.remapRow x row

/-! ### Uncorrectable errors (R317) -/

/-- A kill by ECC with the store's code. -/
def State.eccKill (s : State) (bk code : Nat) : State := s.kill bk (Killing.bare 0x11 code)

/-- A standing segment that is lost: what was attached to it is killed, and it is COLD without a write-back, as last written
back. A move of it ends there; an instruction that waits for that move takes PAGE as for one that is abandoned (R310, R317,
R318; log entry 103). -/
def State.loseSegment (s : State) (k : Nat) : State :=
  let t := (s.blocks.filter fun p => p.2.attached.contains k).foldl (fun t p => t.eccKill p.1 3) s
  match Map.find t.segs k with
  | none => t
  | some g =>
    if g.st = .moving then
      let u := (t.segSettled k g.ctx).setSeg k { g with st := .cold, bytes := [], goal := none, loading := false, waiter := none }
      match g.waiter with
      | some w => u.segTrap w false (!g.loading)
      | none => u
    else t.setSeg k { g with st := .cold, bytes := [] }

/-- A weight-buffer slot that is lost: it is invalid, and blocks with MMAQ commands that read it are killed. -/
def State.loseSlot (s : State) (cl k : Nat) : State :=
  let u := s.cluster cl
  let t := s.setCluster cl { u with slots := Vector.ofFn fun i => if i.val = k then { u.slot k with valid := false } else u.slots[i] }
  (t.blocks.filter fun p => clusterOf (blockCore p.1) == cl &&
    p.2.matrixQ.any fun c => c.kind == .mmaq && mqSlot c.desc == k).foldl (fun t p => t.eccKill p.1 4) t

/-- An uncorrectable error that the scrubber met, by the kind of the data: 0 a register of the warp in slot x, 1 the area of
block x, 2 the galley area of a launch on a core, 3 segment x, 4 a weight-buffer slot, 5 memory of context x, 6 a brick. -/
def State.uncorrectable (s : State) (kind x : Nat) : State :=
  match kind with
  | 0 => if (Map.find s.warps x).isSome then s.eccKill (s.warp x).blk 1 else s
  | 1 => s.eccKill x 2
  | 2 => ((s.coreBlocks (x % 192)).filter fun p => p.2.launch == x / 192).foldl (fun t p => t.eccKill p.1 2) s
  | 3 => s.loseSegment x
  | 4 => s.loseSlot (x / 16 % 48) (x % 16)
  | 5 => s.terminate (x % 4096)
  | 6 =>
    let c := s.core (x % 192)
    s.setCore (x % 192) { c with bricks := c.bricks.filter fun (b : Nat × Nat × List Byte) => b.2.1 != x / 192 }
  | _ => s

/-! ### The events -/

/-- One error of a pass: a corrected one of a row of a store, or from 2³² on an uncorrectable one. -/
def State.scrubError (s : State) (e : Nat × Nat) : State :=
  if e.1 < 2 ^ 32 then
    match storeOf e.1 with
    | some x => s.corrected x e.2
    | none => s
  else s.uncorrectable (e.1 - 2 ^ 32) e.2

/-- SCRUB_PASS (R314 to R317): every row read and corrected; `errs` lists the errors of the pass, those that reads of
programs found among them; counts begin anew. -/
def execScrubPass (errs : List (Nat × Nat)) (s : State) : Res :=
  let t := { s with rowErrors := [] }
  .next (errs.foldl State.scrubError t)

/-- Has a core drained: no block, no segment held, no request for it? (R316) -/
def State.drained (s : State) (core : Nat) : Bool :=
  (s.coreBlocks core).isEmpty && !s.segs.any fun p => p.2.st != .cold && p.2.loc == core

/-- A retirement of a drained core carried out: a bank less of core SRAM, or 32 slots less of a general file; a core left
with fewer than 32 banks leaves service. -/
def State.shrinkCore (s : State) (core : Nat) (r : Nat × Nat) : State :=
  let c := s.core core
  let code := if r.1 = 0 then 2 else 1
  let t := s.logEvent 2 core code r.2
  if r.1 ≠ 0 then
    let p := (r.1 - 1) % 32
    t.setCore core { c with gslots := Vector.ofFn fun i => if i.val = p then c.gslots[i] - 32 else c.gslots[i] }
  else if c.banks ≤ 32 then t.retireCore core code
  else t.setCore core { c with banks := c.banks - 1 }

/-- CORE_REJOIN_PLACEMENT (R316): once drained, a core's pinned pages are migrated, its banks fall, and it rejoins. A core
not drained is cleared of what has become free to go meanwhile. -/
def execCoreRejoinPlacement (core : Nat) (s : State) : Res :=
  let c := s.core core
  if decide (192 ≤ core) || c.draining.isEmpty then .next s
  else if !s.drained core then .next (s.clearCore core)
  else
    let t := (s.pinLeaves (768 + core)).foldl State.unpin s
    let t := c.draining.foldl (fun t r => t.shrinkCore core r) t
    .next (t.setCore core { t.core core with draining := [] })

end Sys2Proof.Machine
end

