-- ==== Sys2Proof/Machine/Mgmt.lean ====
section
/-! DEFINITION. Management, security and bring-up (R404, R431 to R442): power, frozen masters released, firmware commands,
attestation, fatal errors, reset and the bring-up stages. -/

namespace Sys2Proof.Machine

/-! ### Heat and power (R436, R442) -/

/-- POWER_LIMIT_EXCEEDED (R436): above PLIM for 1 ms, every partition issues at most every other cycle. -/
def execPowerLimitExceeded (s : State) : Res := .next { s with mss := { s.mss with throttled := true } }

/-- POWER_LIMIT_CLEARED (R436): below PLIM for 1 ms. -/
def execPowerLimitCleared (s : State) : Res := .next { s with mss := { s.mss with throttled := false } }

/-- A power state reached, which is logged (R433, R442). -/
def State.powerReached (s : State) (n : Nat) : State :=
  let t := { s with mss := { s.mss with pstate := n, goal := n, asleep := n == 2 } }
  t.logEvent 10 0 n 0

/-- PREQ 0 takes effect: queues resume, saved blocks are restored; a request not yet reached is replaced (R442). -/
def State.toActive (s : State) : State :=
  let t := { s with mss := { s.mss with goal := 0, held := false } }
  if s.mss.pstate = 0 then t else t.powerReached 0

/-- PREQ 1 takes effect: no packet starts; from STANDBY the cores power up, and saved blocks stay saved (R442). -/
def State.toQuiesce (s : State) : State :=
  if s.mss.pstate = 1 then { s with mss := { s.mss with goal := 1 } } else s.powerReached 1

/-- PREQ 2 takes effect: every resident block is requested (R394, R442). -/
def State.toStandby (s : State) : State :=
  if s.mss.pstate = 2 then s
  else
    let t := { s with mss := { s.mss with goal := 2, held := true } }
    t.blocks.foldl (fun t p => t.requestSave 3 p.1) t

/-- A power request takes effect. -/
def State.powerTo (s : State) (n : Nat) : State :=
  match n with
  | 0 => s.toActive
  | 1 => s.toQuiesce
  | _ => s.toStandby

/-- A write of PREQ, held like every posted write of function 0 behind an invalidation that waits (R413): ignored in FATAL, from
the fatal error on, and in RECOVERY, and in RESET, where BAR4 does not answer yet; during a firmware command it waits for the command's end (R439, R441,
R442). -/
def State.powerRequest (s : State) (n : Nat) : Res :=
  let m := s.mss
  if m.stage = 0 ∨ m.stage = 6 ∨ m.stage = 7 ∨ m.dump.isSome = true ∨ s.postedHeld 0 = true then .next s
  else
    let t := { s with mss := { m with preq := n } }
    if m.busy.isSome then .next { t with mss := { t.mss with preqWaits := some n } } else .next (t.powerTo n)

/-- PREQ_ACTIVE (R442). -/
def execPreqActive (s : State) : Res := s.powerRequest 0

/-- PREQ_QUIESCE (R442). -/
def execPreqQuiesce (s : State) : Res := s.powerRequest 1

/-- PREQ_STANDBY (R442). -/
def execPreqStandby (s : State) : Res := s.powerRequest 2

/-- STANDBY_POWER_DOWN (R442): no block is resident; in FATAL and RECOVERY PSTATE keeps its value. -/
def execStandbyPowerDown (s : State) : Res :=
  if s.mss.stage ≠ 6 ∧ s.mss.stage ≠ 7 ∧ s.mss.goal = 2 ∧ s.mss.pstate ≠ 2 ∧ s.blocks.isEmpty = true then
    .next (s.powerReached 2)
  else .next s

/-! ### Masters unfrozen (R434) -/

/-- GO (R434, R435): the master that a token names is unfrozen; any other token is ignored. A posted write (R413). -/
def execGo (token : Nat) (s : State) : Res :=
  match (Map.find s.mss.frozen token).filter fun _ => s.serves 4 && !s.postedHeld 0 with
  | some m => .next (s.thaw token m)
  | none => .next s

/-! ### Fatal errors (R404, R440) -/

/-- Bytes made a multiple of 8 with zeros. -/
def pad8 (bs : List Byte) : List Byte := bs ++ List.replicate ((8 - bs.length % 8) % 8) 0

/-- The queue register space as function 0 reads it (R440). -/
def State.queueDump (s : State) : List Byte :=
  (List.range 0x30000).flatMap fun i => leBytes 8 (s.queueSpace 0 (0x100000 + 8 * i))

/-- A section of a dump with its header (R440). -/
def dumpPart (type unit : Nat) (body : List Byte) : List Byte :=
  leBytes 2 type ++ leBytes 2 unit ++ leBytes 4 0 ++ leBytes 8 body.length ++ body

/-- The sections of a dump in order: the GSC, the 48 leaf controllers, the queue register space and the last event entries
(R440); those of the first 49 are in the firmware's own layout (log entry 6). -/
def State.dumpSection (s : State) (i : Nat) : Option (List Byte) :=
  if i = 0 then some (dumpPart 1 0 (pad8 (Config.firmwareState 1 0)))
  else if i ≤ 48 then some (dumpPart 2 (i - 1) (pad8 (Config.firmwareState 2 (i - 1))))
  else if i = 49 then some (dumpPart 3 0 s.queueDump)
  else if i = 50 then some (dumpPart 4 0 s.mss.recent.flatten)
  else none

/-- The header of a dump (R440). -/
def Dump.header (d : Dump) (fwrev : Nat) (trunc : Bool) : List Byte :=
  [0x4B, 0x44, 0x4D, 0x50] ++ leBytes 4 d.cause ++ leBytes 8 d.clk ++ leBytes 8 d.size ++ leBytes 4 (if trunc then 1 else 0) ++
    leBytes 1 fwrev ++ leBytes 1 0 ++ leBytes 2 d.next ++ List.replicate 32 0

/-- Bytes of a dump put at an offset of the dump region; none stand beyond device memory. -/
def State.putDump (s : State) (off : Nat) (bs : List Byte) : State :=
  { s with mem := s.mem.putBytes (s.mss.dbase + off) (bs.take (deviceEnd - (s.mss.dbase + off))) }

/-- The end of a fatal error: DUMPV, KIND 13, and the stage FATAL, which only a reset leaves (R440). -/
def State.endDump (s : State) (d : Dump) : State :=
  let t := { s with mss := { s.mss with dumpv := true, dump := none } }
  let t := t.logEvent 13 0 d.cause d.size
  { t with mss := { t.mss with stage := 6 } }

/-- The next section of a dump under way: the header is rewritten after it, and TRUNC cleared after the last. A section that
passes the region is cut, and is the last (R440). -/
def State.dumpOn (s : State) : State :=
  match s.mss.dump with
  | none => s
  | some d =>
    match s.dumpSection d.next with
    | none => (s.putDump 0 (d.header s.mss.fwrev false)).endDump d
    | some bs =>
      let room := s.mss.dmib * 2 ^ 20 - d.size
      let e := { d with next := d.next + 1, size := d.size + min room bs.length }
      let t := (s.putDump d.size (bs.take room)).putDump 0 (e.header s.mss.fwrev true)
      if room < bs.length then t.endDump e else { t with mss := { t.mss with dump := some e } }

/-- Every context terminated and every queue halted with QF_CTX (R404, R440). -/
def State.stopAll (s : State) : State :=
  let t := (List.range 4096).foldl State.terminate s
  (List.range 1024).foldl (fun t q => t.haltQueue q 7 0) t

/-- A dump begun with its header, TRUNC set; with DMIB 0 there is none. No power request is left (R440, R442). -/
def State.beginDump (s : State) (cause : Nat) : State :=
  let t := { s with mss := { s.mss with goal := s.mss.pstate, preqWaits := none } }
  if s.mss.dmib = 0 then t.endDump ⟨cause, s.clk, 0, 0⟩
  else
    let d : Dump := ⟨cause, s.clk, 0, 64⟩
    let u := t.putDump 0 (d.header s.mss.fwrev true)
    { u with mss := { u.mss with dump := some d } }

/-- A fatal error (R404, R440): all stops, and the dump begins. One during a dump ends the dump as it stands. -/
def State.fatal (s : State) (cause : Nat) : State :=
  if s.mss.stage = 0 ∨ s.mss.stage = 6 then s
  else
    match s.mss.dump with
    | some d => s.endDump d
    | none => s.stopAll.beginDump cause

/-- A temperature of a core taken in: its marks, and at TCRIT a fatal error with cause 3 (R436). -/
def State.heat (s : State) (core temp : Nat) : State :=
  let t := s.sense core temp
  if (BitVec.ofNat 16 temp).slt (BitVec.ofNat 16 (16 * s.mss.tcrit)) then t else t.fatal 3

/-- CORE_HOT (R436): the temperature of a core has risen. -/
def execCoreHot (core temp : Nat) (s : State) : Res := .next (if core < 192 then s.heat core temp else s)

/-- CORE_COOL (R436): the temperature of a core has fallen. -/
def execCoreCool (core temp : Nat) (s : State) : Res := .next (if core < 192 then s.heat core temp else s)

/-- TCRIT_REACHED (R436). -/
def execTcritReached (core temp : Nat) (s : State) : Res := .next (if core < 192 then s.heat core temp else s)

/-- GSC_UNCORRECTABLE_ERROR (R404): cause 1. -/
def execGscUncorrectableError (s : State) : Res := .next (s.fatal 1)

/-- COMMAND_LINK_LOSS (R319, R404): cause 2. -/
def execCommandLinkLoss (cl : Nat) (s : State) : Res :=
  if 48 ≤ cl then .next s else .next ((s.setCluster cl { s.cluster cl with linkUp := false }).fatal 2)

/-- MSS_WATCHDOG (R440): cause 4. -/
def execMssWatchdog (s : State) : Res := .next (s.fatal 4)

/-! ### Images and records (R437) -/

/-- Bytes of an image or a record, by offset. -/
abbrev Blob := Nat → Byte

/-- `n` bytes of a blob. -/
def Blob.bytes (b : Blob) (o n : Nat) : List Byte := (List.range n).map fun i => b (o + i)

/-- A field of a blob. -/
def Blob.num (b : Blob) (o n : Nat) : Nat := leNat (b.bytes o n)

/-- Are `n` bytes of a blob zero? -/
def Blob.zero (b : Blob) (o n : Nat) : Bool := (b.bytes o n).all fun x => x == 0

/-- The first 32 bytes of SHAKE256 of the public key. -/
def Blob.keyDigest (b : Blob) : List Byte := shake256 (b.bytes 0x30 1952) 32

/-- Is the signature over bytes 0 to 0x7CF right? -/
def Blob.signed (b : Blob) : Bool := Config.mlDsaVerify (b.bytes 0x30 1952) (b.bytes 0 0x7D0) (b.bytes 0x7D0 3309)

/-- The digest of vendor key slot k as fused. -/
def vendorKey (k : Nat) : List Byte := (List.range 32).map (Config.vendorDigest k)

/-- BODYHASH as an image states it. -/
def Blob.bodyHash (b : Blob) : List Byte := b.bytes 0x10 32

/-- The result of the checks of an image, in their order (R437, R439): 0 when it verifies. -/
def Blob.verify (b : Blob) (svn revoked : Nat) : Nat :=
  let slot := b.num 0x0C 4
  let len := b.num 0x08 4
  if b.bytes 0 4 ≠ [0x4B, 0x46, 0x57, 0x49] ∨ !(b.zero 0x06 2 && b.zero 0x14BD 67) ∨ len % 4096 ≠ 0 ∨ 2 ^ 26 < len ∨ 3 < slot ∨
      bitsOf (b.num 5 1) 7 4 < bitsOf (b.num 5 1) 3 0 then 1
  else if bitOf revoked slot then 3
  else if b.keyDigest ≠ vendorKey slot then 2
  else if b.num 4 1 < svn then 4
  else if !b.signed || b.bodyHash != shake256 (b.bytes 0x1500 len) 32 then 2
  else 0

/-- The length of an image. -/
def Blob.length (b : Blob) : Nat := 0x1500 + b.num 0x08 4

/-- A blob in memory. -/
def memBlob (m : Mem) (a : Nat) : Blob := fun i => m.byte (a + i)

/-- A blob of listed bytes. -/
def listBlob (bs : List Byte) : Blob := fun i => (bs[i]?).getD 0

/-- A flash bank. -/
def FlashBank.blob (k : Nat) (x : FlashBank) : Blob :=
  match x with
  | .made => Config.flashByte k
  | .written bs => listBlob bs

/-- A bank of the flash. -/
def Mss.bank (m : Mss) (k : Nat) : Blob := if k = 0 then m.flash.1.blob 0 else m.flash.2.blob 1

/-- The firmware that runs, as an image gives it. -/
def Mss.run (m : Mss) (b : Blob) : Mss :=
  { m with
    fwrev := b.num 4 1
    laylo := bitsOf (b.num 5 1) 3 0
    layhi := bitsOf (b.num 5 1) 7 4
    bodyHash := b.bodyHash }

/-- An image written to the flash bank that is not in use. -/
def Mss.writeFlash (m : Mss) (img : List Byte) : Mss :=
  { m with flash := if m.current = 0 then (m.flash.1, .written img) else (.written img, m.flash.2) }

/-! ### Firmware commands (R439) -/

/-- STAGE (R439): the image at ACTADDR is verified and copied. Ignored while a command is in progress. -/
def execStage (s : State) : Res :=
  let m := s.mss
  if m.stage = 0 ∨ m.busy.isSome = true ∨ s.postedHeld 0 = true then .next s
  else
    let b := memBlob s.mem m.actaddr
    let r := b.verify m.svn m.revoked
    .next { s with mss := { m with
      busy := some .stage
      pendingRes := r
      staged := if r = 0 then some (b.bytes 0 b.length) else m.staged } }

/-- ABORT (R439): STAGED is cleared. -/
def execAbort (s : State) : Res :=
  let m := s.mss
  if m.stage = 0 ∨ m.busy.isSome = true ∨ s.postedHeld 0 = true then .next s
  else .next { s with mss := { m with busy := some .abort, pendingRes := 0, staged := none } }

/-- A firmware command's end (R433, R439): RES and KIND 11; a PREQ written meanwhile takes effect, but not in FATAL or RECOVERY
(R442). -/
def State.commandEnd (s : State) : State :=
  let m := s.mss
  let t := { s with mss := { m with busy := none, res := m.pendingRes, preqWaits := none } }
  let t := t.logEvent 11 0 m.pendingRes m.fwrev
  match m.preqWaits with
  | some n => if m.stage = 6 ∨ m.stage = 7 ∨ m.dump.isSome = true then t else t.powerTo n
  | none => t

/-- ACTIVATE (R439, R441): the pause begins; without a staged image the command is to end with NOSTAGED; in RECOVERY the
image goes to the flash and bring-up restarts at stage 1. -/
def execActivate (s : State) : Res :=
  let m := s.mss
  if m.stage = 0 ∨ m.busy.isSome = true ∨ s.postedHeld 0 = true then .next s
  else
    match m.staged with
    | none => .next { s with mss := { m with busy := some .activate, pendingRes := 5 } }
    | some img =>
      if m.stage = 7 then
        let n := { m.writeFlash img with current := 1 - m.current, busy := some .activate, pendingRes := 0 }
        let t := State.commandEnd { s with mss := n }
        .next { t with clk := 0, mss := { t.mss with stage := 1 } }
      else .next { s with mss := { m with busy := some .activate, paused := true } }

/-- Does a save image exist with a LAYOUT that the staged firmware does not read? -/
def State.layoutBars (s : State) (img : List Byte) : Bool :=
  let b := bitsOf ((img[5]?).getD 0).toNat 3 0
  let t := bitsOf ((img[5]?).getD 0).toNat 7 4
  s.saved.any fun p => decide (p.2.layout < b) || decide (t < p.2.layout)

/-- ACTIVATE_TAKEOVER (R439): the saves and restores in progress are complete. The new firmware takes over, unless an image
has a LAYOUT that it does not read, or its self-check fails; the image goes to the bank not in use, to be marked current
at the command's end; the pause ends. -/
def execActivateTakeover (ok : Bool) (s : State) : Res :=
  let m := s.mss
  match m.staged with
  | none => .next s
  | some img =>
    if m.busy ≠ some .activate ∨ !m.paused ∨ (s.blocks.any fun p => p.2.saving || p.2.phase == .restoring) = true then .next s
    else if s.layoutBars img then .next { s with mss := { m with paused := false, pendingRes := 6 } }
    else if !ok then .next { s with mss := { m with paused := false, pendingRes := 7 } }
    else .next { s with mss := { (m.writeFlash img).run (listBlob img) with paused := false, pendingRes := 0 } }

/-- FIRMWARE_COMMAND_END (R439, R440): RES is set, KIND 11 logged, and after a successful ACTIVATE the new bank is marked
current. -/
def execFirmwareCommandEnd (s : State) : Res :=
  let m := s.mss
  if m.busy.isNone ∨ m.paused = true then .next s
  else
    let mark := m.busy == some .activate && m.pendingRes == 0
    let t := { s with mss := { m with current := if mark then 1 - m.current else m.current } }
    .next t.commandEnd

/-! ### Attestation (R438) -/

/-- ATTGO (R438): ignored while a report is being written. -/
def execAttgo (s : State) : Res :=
  if s.mss.stage = 0 ∨ s.postedHeld 0 = true then .next s else .next { s with mss := { s.mss with attbusy := true } }

/-- The accepted record's digest; the manual states none when no record was accepted (log entry 7). -/
def Mss.recordDigest (m : Mss) : List Byte :=
  if m.configured then shake256 (Blob.bytes Config.configRecord 0 0x14BD) 32
  else (List.range 32).map fun i => (Config.unstated 18 (BitVec.ofNat 32 i) 0).truncate 8

/-- The report before the device's signature (R438). -/
def Mss.reportHead (m : Mss) : List Byte :=
  m.nonce ++ leBytes 1 m.fwrev ++ leBytes 1 m.svn ++ leBytes 2 m.domid ++ leBytes 4 m.serial ++ m.bodyHash ++ m.recordDigest ++
    leBytes 1 (m.revoked % 16) ++ List.replicate 31 0 ++ Blob.bytes Config.deviceKey 0 1952

/-- The attestation report: 8,720 bytes (R438). -/
def Mss.report (m : Mss) : List Byte :=
  let sig := (Config.deviceSign m.reportHead).take 3309
  m.reportHead ++ (sig ++ List.replicate (3309 - sig.length) 0) ++ List.replicate 11 0 ++
    Blob.bytes Config.vendorSignature 0 3309 ++ List.replicate 3 0

/-- ATTESTATION_REPORT_WRITTEN (R438). -/
def execAttestationReportWritten (s : State) : Res :=
  if !s.mss.attbusy then .next s
  else .next { s with
    mem := s.mem.putBytes s.mss.attaddr (s.mss.report.take (deviceEnd - s.mss.attaddr))
    mss := { s.mss with attbusy := false } }

/-! ### Reset and bring-up (R437, R440, R441) -/

/-- What a reset leaves of the management subsystem: fuses, flash, and the serial last accepted. -/
def Mss.afterReset (m : Mss) : Mss :=
  { Mss.reset with svn := m.svn, revoked := m.revoked, flash := m.flash, current := m.current, serial := m.serial }

/-- The machine after a reset: all volatile state as at reset; what stands outside the device stays. -/
def State.afterReset (s : State) : State :=
  { State.reset with agenda := s.agenda, draws := s.draws, hostMem := s.hostMem, mss := s.mss.afterReset }

/-- RESET (R440, R441): a power-on, fundamental or hot reset (0, 1, 2). -/
def execReset (kind : Nat) (s : State) : Res := if kind < 3 then .next s.afterReset else .next s

/-- POWER_LOSS (R439): only flash and fuses keep their contents. -/
def execPowerLoss (s : State) : Res := .next s.afterReset

/-- BRINGUP_ROM (R441): from RESET stage 1 begins, with the GETCLK count at 0; from stage 1 the current image, else the other
bank's, runs, or the stage is RECOVERY. -/
def execBringupRom (s : State) : Res :=
  let m := s.mss
  if m.stage = 0 then .next { s with clk := 0, mss := { m with stage := 1 } }
  else if 1 < m.stage then .next s
  else
    let good (k : Nat) : Bool := (m.bank k).verify m.svn m.revoked == 0
    if good m.current then .next { s with mss := { m.run (m.bank m.current) with stage := 2 } }
    else if good (1 - m.current) then
      .next { s with mss := { m.run (m.bank (1 - m.current)) with stage := 2, current := 1 - m.current } }
    else .next { s with mss := { m with stage := 7 } }

/-- BRINGUP_TEST (R315, R441): the self-test's remaps, before any context runs (log entry 6). -/
def execBringupTest (s : State) : Res :=
  if s.mss.stage ≠ 2 then .next s
  else
    let t := (List.range (Config.testRemaps 0 % 2 ^ 20)).foldl (fun t i =>
      match storeOf (Config.testRemaps (2 * i + 1)) with
      | some x => t.remapRow x (Config.testRemaps (2 * i + 2))
      | none => t) s
    .next { t with mss := { t.mss with stage := 3 } }

/-- Is the key of a configuration record the owner's or that of an unrevoked vendor slot? (R437) -/
def Blob.knownKey (b : Blob) (revoked : Nat) : Bool :=
  b.keyDigest == (List.range 32).map Config.ownerDigest ||
    (List.range 4).any fun k => !bitOf revoked k && b.keyDigest == vendorKey k

/-- Does a configuration record verify, and keep its limits? (R437) -/
def Blob.recordGood (b : Blob) (revoked serial : Nat) : Bool :=
  b.bytes 0 4 == [0x4B, 0x43, 0x46, 0x47] && b.knownKey revoked && b.signed && decide (serial ≤ b.num 0x04 4) &&
    decide (b.num 0x08 2 ≤ b.num 0x0A 2) && decide (b.num 0x0A 2 < 16384) && decide (b.num 0x0C 1 ≤ 2) &&
    decide (b.num 0x0D 1 < b.num 0x0E 1) && decide (b.num 0x0E 1 ≤ 110) && b.zero 0x0F 1 && decide (b.num 0x10 2 ≤ 2200) &&
    b.zero 0x12 6 && b.num 0x18 8 % 2 ^ 20 == 0 && decide (b.num 0x18 8 < deviceEnd) && decide (b.num 0x20 2 ≤ 4096) &&
    b.zero 0x22 14 && b.zero 0x14BD 67

/-- BRINGUP_CONFIG (R437, R441): an accepted record sets DOMCFG, the limits and the dump region; after a refused one the
reset values stand and every port is held DISABLED. EXPLIM is 0 in either case. -/
def execBringupConfig (s : State) : Res :=
  let m := s.mss
  if m.stage ≠ 3 then .next s
  else
    let b : Blob := Config.configRecord
    if b.recordGood m.revoked m.serial then
      let t := { s with mss := { m with
        stage := 4, configured := true, serial := b.num 0x04 4, domValid := true, domid := b.num 0x08 2, ndev := b.num 0x0A 2
        topo := b.num 0x0C 1, tmig := b.num 0x0D 1, tcrit := b.num 0x0E 1, plim := b.num 0x10 2, dbase := b.num 0x18 8
        dmib := b.num 0x20 2, explim := 0 } }
      .next (t.logEvent 12 0 0 (b.num 0x04 4))
    else
      let t := { s with mss := { m with stage := 4, configured := false, explim := 0 } }
      let t := (List.range portCount).foldl (fun t p => t.setPort p { t.port p with st := .disabled, lanes := 0 }) t
      .next (t.logEvent 12 0 1 (b.num 0x04 4))

/-- BRINGUP_FABRIC (R441): ports leave DISABLED unless they are held or DIS is set; the device is READY. -/
def execBringupFabric (s : State) : Res :=
  if s.mss.stage ≠ 4 then .next s
  else
    let t := { s with mss := { s.mss with stage := 5 } }
    if !t.mss.configured then .next t
    else .next ((List.range portCount).foldl (fun t p =>
      let x := t.port p
      if x.st = .disabled ∧ x.dis = false then t.setPort p { x with st := .down } else t) t)

end Sys2Proof.Machine
end

