-- ==== Sys2Proof/Machine/Dispatch.lean ====
section
/-! DEFINITION. The dispatch: one arm for each constructor of `Instr`. -/

namespace Sys2Proof.Machine

/-- What an instruction, a field operation or an event does. -/
def exec (i : Instr) (s : State) : Host.Outcome State Fault Refusal :=
  match i with
  | .iadd g d a b => Sys2Proof.Machine.execIadd g d a b s
  | .isub g d a b => Sys2Proof.Machine.execIsub g d a b s
  | .imul g d a b => Sys2Proof.Machine.execImul g d a b s
  | .imulh g d a b => Sys2Proof.Machine.execImulh g d a b s
  | .umulh g d a b => Sys2Proof.Machine.execUmulh g d a b s
  | .imin g d a b => Sys2Proof.Machine.execImin g d a b s
  | .imax g d a b => Sys2Proof.Machine.execImax g d a b s
  | .umin g d a b => Sys2Proof.Machine.execUmin g d a b s
  | .umax g d a b => Sys2Proof.Machine.execUmax g d a b s
  | .iabs g d a => Sys2Proof.Machine.execIabs g d a s
  | .ineg g d a => Sys2Proof.Machine.execIneg g d a s
  | .icmp g q cc a b => Sys2Proof.Machine.execIcmp g q cc a b s
  | .ucmp g q cc a b => Sys2Proof.Machine.execUcmp g q cc a b s
  | .iadd64 g d a b => Sys2Proof.Machine.execIadd64 g d a b s
  | .isub64 g d a b => Sys2Proof.Machine.execIsub64 g d a b s
  | .imul64 g d a b => Sys2Proof.Machine.execImul64 g d a b s
  | .lea g d sh a b => Sys2Proof.Machine.execLea g d sh a b s
  | .idiv g d a b => Sys2Proof.Machine.execIdiv g d a b s
  | .udiv g d a b => Sys2Proof.Machine.execUdiv g d a b s
  | .irem g d a b => Sys2Proof.Machine.execIrem g d a b s
  | .urem g d a b => Sys2Proof.Machine.execUrem g d a b s
  | .iaddi g d a imm => Sys2Proof.Machine.execIaddi g d a imm s
  | .imuli g d a imm => Sys2Proof.Machine.execImuli g d a imm s
  | .icmpi g q cc a imm => Sys2Proof.Machine.execIcmpi g q cc a imm s
  | .ucmpi g q cc a imm => Sys2Proof.Machine.execUcmpi g q cc a imm s
  | .movi g d imm => Sys2Proof.Machine.execMovi g d imm s
  | .leai g d sh a imm => Sys2Proof.Machine.execLeai g d sh a imm s
  | .andi g d a imm => Sys2Proof.Machine.execAndi g d a imm s
  | .ori g d a imm => Sys2Proof.Machine.execOri g d a imm s
  | .xori g d a imm => Sys2Proof.Machine.execXori g d a imm s
  | .shli g d a imm => Sys2Proof.Machine.execShli g d a imm s
  | .shri g d a imm => Sys2Proof.Machine.execShri g d a imm s
  | .sari g d a imm => Sys2Proof.Machine.execSari g d a imm s
  | .bfe g d sgn a pos len => Sys2Proof.Machine.execBfe g d sgn a pos len s
  | .saddi g d a imm => Sys2Proof.Machine.execSaddi g d a imm s
  | .smovi g d imm => Sys2Proof.Machine.execSmovi g d imm s
  | .csrr g d num hi => Sys2Proof.Machine.execCsrr g d num hi s
  | .csrw g num hi a => Sys2Proof.Machine.execCsrw g num hi a s
  | .sysv g d num => Sys2Proof.Machine.execSysv g d num s
  | .sleep g imm => Sys2Proof.Machine.execSleep g imm s
  | .bkpt g imm => Sys2Proof.Machine.execBkpt g imm s
  | .trap g imm => Sys2Proof.Machine.execTrap g imm s
  | .detpt g a tag => Sys2Proof.Machine.execDetpt g a tag s
  | .and g d a b => Sys2Proof.Machine.execAnd g d a b s
  | .or g d a b => Sys2Proof.Machine.execOr g d a b s
  | .xor g d a b => Sys2Proof.Machine.execXor g d a b s
  | .andn g d a b => Sys2Proof.Machine.execAndn g d a b s
  | .not g d a => Sys2Proof.Machine.execNot g d a s
  | .shl g d a b => Sys2Proof.Machine.execShl g d a b s
  | .shr g d a b => Sys2Proof.Machine.execShr g d a b s
  | .sar g d a b => Sys2Proof.Machine.execSar g d a b s
  | .rol g d a b => Sys2Proof.Machine.execRol g d a b s
  | .ror g d a b => Sys2Proof.Machine.execRor g d a b s
  | .popc g d a => Sys2Proof.Machine.execPopc g d a s
  | .clz g d a => Sys2Proof.Machine.execClz g d a s
  | .ctz g d a => Sys2Proof.Machine.execCtz g d a s
  | .brev g d a => Sys2Proof.Machine.execBrev g d a s
  | .mov g d a => Sys2Proof.Machine.execMov g d a s
  | .sel g d a b q neg => Sys2Proof.Machine.execSel g d a b q neg s
  | .plop g q op qa qb => Sys2Proof.Machine.execPlop g q op qa qb s
  | .p2v g d m qa => Sys2Proof.Machine.execP2v g d m qa s
  | .v2p g q a => Sys2Proof.Machine.execV2p g q a s
  | .shape g d pend a => Sys2Proof.Machine.execShape g d pend a s
  | .expand g d a => Sys2Proof.Machine.execExpand g d a s
  | .mkaff g d a b => Sys2Proof.Machine.execMkaff g d a b s
  | .shrr g d he s16 a b => Sys2Proof.Machine.execShrr g d he s16 a b s
  | .smov g d a => Sys2Proof.Machine.execSmov g d a s
  | .sadd g d a b => Sys2Proof.Machine.execSadd g d a b s
  | .ssub g d a b => Sys2Proof.Machine.execSsub g d a b s
  | .smul g d a b => Sys2Proof.Machine.execSmul g d a b s
  | .sand g d a b => Sys2Proof.Machine.execSand g d a b s
  | .sor g d a b => Sys2Proof.Machine.execSor g d a b s
  | .sxor g d a b => Sys2Proof.Machine.execSxor g d a b s
  | .sshl g d a b => Sys2Proof.Machine.execSshl g d a b s
  | .sshr g d a b => Sys2Proof.Machine.execSshr g d a b s
  | .ssar g d a b => Sys2Proof.Machine.execSsar g d a b s
  | .smin g d u a b => Sys2Proof.Machine.execSmin g d u a b s
  | .smax g d u a b => Sys2Proof.Machine.execSmax g d u a b s
  | .scmp g q cc u a b => Sys2Proof.Machine.execScmp g q cc u a b s
  | .v2s g d a => Sys2Proof.Machine.execV2s g d a s
  | .brx g uni a => Sys2Proof.Machine.execBrx g uni a s
  | .calli g uni a => Sys2Proof.Machine.execCalli g uni a s
  | .ret g => Sys2Proof.Machine.execRet g s
  | .exit g => Sys2Proof.Machine.execExit g s
  | .nop g => Sys2Proof.Machine.execNop g s
  | .rte g => Sys2Proof.Machine.execRte g s
  | .getclk g d => Sys2Proof.Machine.execGetclk g d s
  | .getret g d depth => Sys2Proof.Machine.execGetret g d depth s
  | .bra g off => Sys2Proof.Machine.execBra g off s
  | .braU g off => Sys2Proof.Machine.execBraU g off s
  | .call g off => Sys2Proof.Machine.execCall g off s
  | .yield g off => Sys2Proof.Machine.execYield g off s
  | .phint g off => Sys2Proof.Machine.execPhint g off s
  | .movi32 g d imm => Sys2Proof.Machine.execMovi32 g d imm s
  | .iaddi32 g d a imm => Sys2Proof.Machine.execIaddi32 g d a imm s
  | .imuli32 g d a imm => Sys2Proof.Machine.execImuli32 g d a imm s
  | .andi32 g d a imm => Sys2Proof.Machine.execAndi32 g d a imm s
  | .ori32 g d a imm => Sys2Proof.Machine.execOri32 g d a imm s
  | .xori32 g d a imm => Sys2Proof.Machine.execXori32 g d a imm s
  | .faddi32 g d rm a imm => Sys2Proof.Machine.execFaddi32 g d rm a imm s
  | .fmuli32 g d rm a imm => Sys2Proof.Machine.execFmuli32 g d rm a imm s
  | .smovi32 g d imm => Sys2Proof.Machine.execSmovi32 g d imm s
  | .nopw g => Sys2Proof.Machine.execNopw g s
  | .fadd g d rm a b => Sys2Proof.Machine.execFadd g d rm a b s
  | .fsub g d rm a b => Sys2Proof.Machine.execFsub g d rm a b s
  | .fmul g d rm a b => Sys2Proof.Machine.execFmul g d rm a b s
  | .fdiv g d rm a b => Sys2Proof.Machine.execFdiv g d rm a b s
  | .fmin g d a b => Sys2Proof.Machine.execFmin g d a b s
  | .fmax g d a b => Sys2Proof.Machine.execFmax g d a b s
  | .fabs g d a => Sys2Proof.Machine.execFabs g d a s
  | .fneg g d a => Sys2Proof.Machine.execFneg g d a s
  | .fcmp g q cc a b => Sys2Proof.Machine.execFcmp g q cc a b s
  | .fclass g d fmt h1 a => Sys2Proof.Machine.execFclass g d fmt h1 a s
  | .fsqrt g d rm a => Sys2Proof.Machine.execFsqrt g d rm a s
  | .frcp g d a => Sys2Proof.Machine.execFrcp g d a s
  | .frsq g d a => Sys2Proof.Machine.execFrsq g d a s
  | .fex2 g d a => Sys2Proof.Machine.execFex2 g d a s
  | .flg2 g d a => Sys2Proof.Machine.execFlg2 g d a s
  | .fsin g d a => Sys2Proof.Machine.execFsin g d a s
  | .fcos g d a => Sys2Proof.Machine.execFcos g d a s
  | .ftanh g d a => Sys2Proof.Machine.execFtanh g d a s
  | .frint g d rm x a => Sys2Proof.Machine.execFrint g d rm x a s
  | .dadd g d rm a b => Sys2Proof.Machine.execDadd g d rm a b s
  | .dsub g d rm a b => Sys2Proof.Machine.execDsub g d rm a b s
  | .dmul g d rm a b => Sys2Proof.Machine.execDmul g d rm a b s
  | .ddiv g d rm a b => Sys2Proof.Machine.execDdiv g d rm a b s
  | .dmin g d a b => Sys2Proof.Machine.execDmin g d a b s
  | .dmax g d a b => Sys2Proof.Machine.execDmax g d a b s
  | .dabs g d a => Sys2Proof.Machine.execDabs g d a s
  | .dneg g d a => Sys2Proof.Machine.execDneg g d a s
  | .dcmp g q cc a b => Sys2Proof.Machine.execDcmp g q cc a b s
  | .dsqrt g d rm a => Sys2Proof.Machine.execDsqrt g d rm a s
  | .drint g d rm x a => Sys2Proof.Machine.execDrint g d rm x a s
  | .hadd2 g d rm a b => Sys2Proof.Machine.execHadd2 g d rm a b s
  | .hmul2 g d rm a b => Sys2Proof.Machine.execHmul2 g d rm a b s
  | .hmin2 g d a b => Sys2Proof.Machine.execHmin2 g d a b s
  | .hmax2 g d a b => Sys2Proof.Machine.execHmax2 g d a b s
  | .hcmp2 g q cc comb a b => Sys2Proof.Machine.execHcmp2 g q cc comb a b s
  | .badd2 g d rm a b => Sys2Proof.Machine.execBadd2 g d rm a b s
  | .bmul2 g d rm a b => Sys2Proof.Machine.execBmul2 g d rm a b s
  | .bmin2 g d a b => Sys2Proof.Machine.execBmin2 g d a b s
  | .bmax2 g d a b => Sys2Proof.Machine.execBmax2 g d a b s
  | .bcmp2 g q cc comb a b => Sys2Proof.Machine.execBcmp2 g q cc comb a b s
  | .iadd2 g d sat u a b => Sys2Proof.Machine.execIadd2 g d sat u a b s
  | .isub2 g d sat u a b => Sys2Proof.Machine.execIsub2 g d sat u a b s
  | .imul2 g d sat u a b => Sys2Proof.Machine.execImul2 g d sat u a b s
  | .imin2 g d u a b => Sys2Proof.Machine.execImin2 g d u a b s
  | .imax2 g d u a b => Sys2Proof.Machine.execImax2 g d u a b s
  | .iabs2 g d sat a => Sys2Proof.Machine.execIabs2 g d sat a s
  | .ipack2 g d u a b => Sys2Proof.Machine.execIpack2 g d u a b s
  | .shrr2 g d he u a b => Sys2Proof.Machine.execShrr2 g d he u a b s
  | .cvtff g d rm src dst h1 a b => Sys2Proof.Machine.execCvtff g d rm src dst h1 a b s
  | .cvtfi g d rm src dst h1 a => Sys2Proof.Machine.execCvtfi g d rm src dst h1 a s
  | .cvtif g d rm dst src a b => Sys2Proof.Machine.execCvtif g d rm dst src a b s
  | .cvtii g d src dst idx sat a => Sys2Proof.Machine.execCvtii g d src dst idx sat a s
  | .cvt8 g d rm up e5 nosat idx sc a b => Sys2Proof.Machine.execCvt8 g d rm up e5 nosat idx sc a b s
  | .cvt4 g d rm up idx sc a b => Sys2Proof.Machine.execCvt4 g d rm up idx sc a b s
  | .shfl g d mode logw a b => Sys2Proof.Machine.execShfl g d mode logw a b s
  | .bcast g d low a b => Sys2Proof.Machine.execBcast g d low a b s
  | .vote g d mode p qa => Sys2Proof.Machine.execVote g d mode p qa s
  | .redux g d rm op logw a => Sys2Proof.Machine.execRedux g d rm op logw a s
  | .scan g d rm op excl a => Sys2Proof.Machine.execScan g d rm op excl a s
  | .segred g d rm op a qb => Sys2Proof.Machine.execSegred g d rm op a qb s
  | .match g d a => Sys2Proof.Machine.execMatch g d a s
  | .intersect g d a b => Sys2Proof.Machine.execIntersect g d a b s
  | .imad g d a b c => Sys2Proof.Machine.execImad g d a b c s
  | .bfi g d a b pos len => Sys2Proof.Machine.execBfi g d a b pos len s
  | .bitfn g d t1 t0 a b c => Sys2Proof.Machine.execBitfn g d t1 t0 a b c s
  | .bytex g d codes a b => Sys2Proof.Machine.execBytex g d codes a b s
  | .ffma g d rm a b c => Sys2Proof.Machine.execFfma g d rm a b c s
  | .dfma g d rm a b c => Sys2Proof.Machine.execDfma g d rm a b c s
  | .hfma2 g d rm a b c => Sys2Proof.Machine.execHfma2 g d rm a b c s
  | .bfma2 g d rm a b c => Sys2Proof.Machine.execBfma2 g d rm a b c s
  | .idp2 g d ua ub a b c => Sys2Proof.Machine.execIdp2 g d ua ub a b c s
  | .slide g d up half fill n a b c => Sys2Proof.Machine.execSlide g d up half fill n a b c s
  | .prune g d w op a b c => Sys2Proof.Machine.execPrune g d w op a b c s
  | .brec g bd op bb a x off => Sys2Proof.Machine.execBrec g bd op bb a x off s
  | .ld g d wid hint acq sc br a off => Sys2Proof.Machine.execLd g d wid hint acq sc br a off s
  | .st g wid hint rel sc br a off v => Sys2Proof.Machine.execSt g wid hint rel sc br a off v s
  | .lds g d wid a off => Sys2Proof.Machine.execLds g d wid a off s
  | .sts g wid a off v => Sys2Proof.Machine.execSts g wid a off v s
  | .gather g d wid hint br a off => Sys2Proof.Machine.execGather g d wid hint br a off s
  | .scatter g wid hint br a off v => Sys2Proof.Machine.execScatter g wid hint br a off v s
  | .pref g keep br a off => Sys2Proof.Machine.execPref g keep br a off s
  | .discard g br a off => Sys2Proof.Machine.execDiscard g br a off s
  | .brks g d br a off p => Sys2Proof.Machine.execBrks g d br a off p s
  | .brkg g d br a off p => Sys2Proof.Machine.execBrkg g d br a off p s
  | .atom g d op w64 lam acq rel sc br a off v => Sys2Proof.Machine.execAtom g d op w64 lam acq rel sc br a off v s
  | .atoms g d op w64 acq rel sc a off v => Sys2Proof.Machine.execAtoms g d op w64 acq rel sc a off v s
  | .red g op w64 lam acq rel sc br a off v => Sys2Proof.Machine.execRed g op w64 lam acq rel sc br a off v s
  | .acq g d mode sc br v => Sys2Proof.Machine.execAcq g d mode sc br v s
  | .rel g mode sc br v => Sys2Proof.Machine.execRel g mode sc br v s
  | .fence g k sc => Sys2Proof.Machine.execFence g k sc s
  | .bar g => Sys2Proof.Machine.execBar g s
  | .arrive g d nr rel sc a off n => Sys2Proof.Machine.execArrive g d nr rel sc a off n s
  | .waitph g d poll acq sc a off p => Sys2Proof.Machine.execWaitph g d poll acq sc a off p s
  | .segNew g d a off => Sys2Proof.Machine.execSegNew g d a off s
  | .segAttach g d win load name => Sys2Proof.Machine.execSegAttach g d win load name s
  | .segDetach g d win => Sys2Proof.Machine.execSegDetach g d win s
  | .segFree g d wb name => Sys2Proof.Machine.execSegFree g d wb name s
  | .segQuery g d name => Sys2Proof.Machine.execSegQuery g d name s
  | .mmaq g a off => Sys2Proof.Machine.execMmaq g a off s
  | .wbload g acq rel sc a off br => Sys2Proof.Machine.execWbload g acq rel sc a off br s
  | .cpq g acq rel sc a off br => Sys2Proof.Machine.execCpq g acq rel sc a off br s
  | .march g dt acq rel sc a off => Sys2Proof.Machine.execMarch g dt acq rel sc a off s
  | .coll g d r op rop b64 acq rel sc a off br grp => Sys2Proof.Machine.execColl g d r op rop b64 acq rel sc a off br grp s
  | .enq g d rel sc a off h => Sys2Proof.Machine.execEnq g d rel sc a off h s
  | .calls g a b rec => Sys2Proof.Machine.execCalls g a b rec s
  | .emitp g a off => Sys2Proof.Machine.execEmitp g a off s
  | .tblend g op a b => Sys2Proof.Machine.execTblend g op a b s
  | .momacc g d rec a b => Sys2Proof.Machine.execMomacc g d rec a b s
  | .fbcConst c => Sys2Proof.Machine.execFbcConst c s
  | .fbcPos n => Sys2Proof.Machine.execFbcPos n s
  | .fbcXform m => Sys2Proof.Machine.execFbcXform m s
  | .fbcSmin k => Sys2Proof.Machine.execFbcSmin k s
  | .fbcSmax k => Sys2Proof.Machine.execFbcSmax k s
  | .fbcAddc k => Sys2Proof.Machine.execFbcAddc k s
  | .fbcRsubc k => Sys2Proof.Machine.execFbcRsubc k s
  | .fbcMulc k => Sys2Proof.Machine.execFbcMulc k s
  | .fbcMinc k => Sys2Proof.Machine.execFbcMinc k s
  | .fbcMaxc k => Sys2Proof.Machine.execFbcMaxc k s
  | .fbcClamp l h => Sys2Proof.Machine.execFbcClamp l h s
  | .fbcPick n => Sys2Proof.Machine.execFbcPick n s
  | .fbcBrick n => Sys2Proof.Machine.execFbcBrick n s
  | .fbcCallout n k => Sys2Proof.Machine.execFbcCallout n k s
  | .longLatencyWriteback w r l => Sys2Proof.Machine.execLongLatencyWriteback w r l s
  | .collectorWindowClose core => Sys2Proof.Machine.execCollectorWindowClose core s
  | .yieldRelease w => Sys2Proof.Machine.execYieldRelease w s
  | .sleepEnd w => Sys2Proof.Machine.execSleepEnd w s
  | .deadlineExpiry b => Sys2Proof.Machine.execDeadlineExpiry b s
  | .cooperativeSave b => Sys2Proof.Machine.execCooperativeSave b s
  | .saveComplete b => Sys2Proof.Machine.execSaveComplete b s
  | .saveWatchdog b => Sys2Proof.Machine.execSaveWatchdog b s
  | .handlerBudgetExpiry w => Sys2Proof.Machine.execHandlerBudgetExpiry w s
  | .launchMessage launch cl => Sys2Proof.Machine.execLaunchMessage launch cl s
  | .blockCompletion b => Sys2Proof.Machine.execBlockCompletion b s
  | .blockStart b => Sys2Proof.Machine.execBlockStart b s
  | .matrixTile cl => Sys2Proof.Machine.execMatrixTile cl s
  | .copyCommandStart b => Sys2Proof.Machine.execCopyCommandStart b s
  | .cpqCompletion b => Sys2Proof.Machine.execCpqCompletion b s
  | .collatorWindowTimeout b target => Sys2Proof.Machine.execCollatorWindowTimeout b target s
  | .collatorWarpForm b => Sys2Proof.Machine.execCollatorWarpForm b s
  | .phaseWaitSatisfied w k l => Sys2Proof.Machine.execPhaseWaitSatisfied w k l s
  | .guardWaitSatisfied w k l => Sys2Proof.Machine.execGuardWaitSatisfied w k l s
  | .fbcXpop => Sys2Proof.Machine.execFbcXpop s
  | .fbcNop => Sys2Proof.Machine.execFbcNop s
  | .fbcAdd => Sys2Proof.Machine.execFbcAdd s
  | .fbcSub => Sys2Proof.Machine.execFbcSub s
  | .fbcMul => Sys2Proof.Machine.execFbcMul s
  | .fbcDiv => Sys2Proof.Machine.execFbcDiv s
  | .fbcMin => Sys2Proof.Machine.execFbcMin s
  | .fbcMax => Sys2Proof.Machine.execFbcMax s
  | .fbcNeg => Sys2Proof.Machine.execFbcNeg s
  | .fbcAbs => Sys2Proof.Machine.execFbcAbs s
  | .fbcSqrt => Sys2Proof.Machine.execFbcSqrt s
  | .fbcSqr => Sys2Proof.Machine.execFbcSqr s
  | .fbcSin => Sys2Proof.Machine.execFbcSin s
  | .fbcCos => Sys2Proof.Machine.execFbcCos s
  | .fbcFloor => Sys2Proof.Machine.execFbcFloor s
  | .fbcFract => Sys2Proof.Machine.execFbcFract s
  | .fbcLen2 => Sys2Proof.Machine.execFbcLen2 s
  | .fbcLen3 => Sys2Proof.Machine.execFbcLen3 s
  | .fbcMix => Sys2Proof.Machine.execFbcMix s
  | .fbcDup => Sys2Proof.Machine.execFbcDup s
  | .fbcDrop => Sys2Proof.Machine.execFbcDrop s
  | .fbcSwap => Sys2Proof.Machine.execFbcSwap s
  | .fbcOver => Sys2Proof.Machine.execFbcOver s
  | .fbcRot => Sys2Proof.Machine.execFbcRot s
  | .fbcEnd => Sys2Proof.Machine.execFbcEnd s
  | .operandLogReplay w => Sys2Proof.Machine.execOperandLogReplay w s
  | .faultRingWrite ctx => Sys2Proof.Machine.execFaultRingWrite ctx s
  | .frespRetry ctx id => Sys2Proof.Machine.execFrespRetry ctx id s
  | .frespFail ctx id => Sys2Proof.Machine.execFrespFail ctx id s
  | .preemptionRequest b => Sys2Proof.Machine.execPreemptionRequest b s
  | .killMessage b code detail => Sys2Proof.Machine.execKillMessage b code detail s
  | .restoreMessage sv core => Sys2Proof.Machine.execRestoreMessage sv core s
  | .contextSwitchMessage ctx cl => Sys2Proof.Machine.execContextSwitchMessage ctx cl s
  | .faultReport k => Sys2Proof.Machine.execFaultReport k s
  | .admissionRefusal launch n => Sys2Proof.Machine.execAdmissionRefusal launch n s
  | .blockAdmission launch n core p0 => Sys2Proof.Machine.execBlockAdmission launch n core p0 s
  | .blockRestore sv core p0 => Sys2Proof.Machine.execBlockRestore sv core p0 s
  | .admissionWaitLimit launch n => Sys2Proof.Machine.execAdmissionWaitLimit launch n s
  | .priorityPreemption launch n core => Sys2Proof.Machine.execPriorityPreemption launch n core s
  | .skip q => Sys2Proof.Machine.execSkip q s
  | .launch q => Sys2Proof.Machine.execLaunch q s
  | .signal q => Sys2Proof.Machine.execSignal q s
  | .wait q => Sys2Proof.Machine.execWait q s
  | .setq q => Sys2Proof.Machine.execSetq q s
  | .dqnew q => Sys2Proof.Machine.execDqnew q s
  | .dqfree q => Sys2Proof.Machine.execDqfree q s
  | .packetStart q seq => Sys2Proof.Machine.execPacketStart q seq s
  | .waitConditionMet q seq => Sys2Proof.Machine.execWaitConditionMet q seq s
  | .packetCompletion q seq => Sys2Proof.Machine.execPacketCompletion q seq s
  | .queueEnable q => Sys2Proof.Machine.execQueueEnable q s
  | .queueDisable q => Sys2Proof.Machine.execQueueDisable q s
  | .resume q => Sys2Proof.Machine.execResume q s
  | .deviceQueueEntryTake ctx dq => Sys2Proof.Machine.execDeviceQueueEntryTake ctx dq s
  | .childLaunchStart launch => Sys2Proof.Machine.execChildLaunchStart launch s
  | .matrixCommandStart b => Sys2Proof.Machine.execMatrixCommandStart b s
  | .outputBlockWriteback b => Sys2Proof.Machine.execOutputBlockWriteback b s
  | .mmaqCompletion b => Sys2Proof.Machine.execMmaqCompletion b s
  | .wbloadCompletion b => Sys2Proof.Machine.execWbloadCompletion b s
  | .marchCommandStart b => Sys2Proof.Machine.execMarchCommandStart b s
  | .marchRayDone b ray => Sys2Proof.Machine.execMarchRayDone b ray s
  | .marchCompletion b => Sys2Proof.Machine.execMarchCompletion b s
  | .collCompletion k => Sys2Proof.Machine.execCollCompletion k s
  | .collectiveContribution dev launch grp n rank data => Sys2Proof.Machine.execCollectiveContribution dev launch grp n rank data s
  | .segmentWritebackEnd seg => Sys2Proof.Machine.execSegmentWritebackEnd seg s
  | .segmentReloadEnd seg => Sys2Proof.Machine.execSegmentReloadEnd seg s
  | .scrubPass errs => Sys2Proof.Machine.execScrubPass errs s
  | .coreRejoinPlacement core => Sys2Proof.Machine.execCoreRejoinPlacement core s
  | .coreHot core temp => Sys2Proof.Machine.execCoreHot core temp s
  | .coreCool core temp => Sys2Proof.Machine.execCoreCool core temp s
  | .powerLimitExceeded => Sys2Proof.Machine.execPowerLimitExceeded s
  | .powerLimitCleared => Sys2Proof.Machine.execPowerLimitCleared s
  | .tcritReached core temp => Sys2Proof.Machine.execTcritReached core temp s
  | .hostRead fn addr n => Sys2Proof.Machine.execHostRead fn addr n s
  | .hostWrite fn addr data => Sys2Proof.Machine.execHostWrite fn addr data s
  | .hostAtomicop fn addr op w v cmp => Sys2Proof.Machine.execHostAtomicop fn addr op w v cmp s
  | .atsInvalidationRequest ctx va n => Sys2Proof.Machine.execAtsInvalidationRequest ctx va n s
  | .pageRequestResponse k ok => Sys2Proof.Machine.execPageRequestResponse k ok s
  | .term ctx => Sys2Proof.Machine.execTerm ctx s
  | .invalidation ctx iva n => Sys2Proof.Machine.execInvalidation ctx iva n s
  | .invalidationComplete ctx => Sys2Proof.Machine.execInvalidationComplete ctx s
  | .miggo ctx => Sys2Proof.Machine.execMiggo ctx s
  | .migrationComplete ctx => Sys2Proof.Machine.execMigrationComplete ctx s
  | .go token => Sys2Proof.Machine.execGo token s
  | .preqActive => Sys2Proof.Machine.execPreqActive s
  | .preqQuiesce => Sys2Proof.Machine.execPreqQuiesce s
  | .preqStandby => Sys2Proof.Machine.execPreqStandby s
  | .standbyPowerDown => Sys2Proof.Machine.execStandbyPowerDown s
  | .stage => Sys2Proof.Machine.execStage s
  | .activate => Sys2Proof.Machine.execActivate s
  | .abort => Sys2Proof.Machine.execAbort s
  | .activateTakeover ok => Sys2Proof.Machine.execActivateTakeover ok s
  | .firmwareCommandEnd => Sys2Proof.Machine.execFirmwareCommandEnd s
  | .attgo => Sys2Proof.Machine.execAttgo s
  | .attestationReportWritten => Sys2Proof.Machine.execAttestationReportWritten s
  | .commandLinkLoss cl => Sys2Proof.Machine.execCommandLinkLoss cl s
  | .mssWatchdog => Sys2Proof.Machine.execMssWatchdog s
  | .reset kind => Sys2Proof.Machine.execReset kind s
  | .bringupRom => Sys2Proof.Machine.execBringupRom s
  | .bringupTest => Sys2Proof.Machine.execBringupTest s
  | .bringupConfig => Sys2Proof.Machine.execBringupConfig s
  | .bringupFabric => Sys2Proof.Machine.execBringupFabric s
  | .signalDetected p => Sys2Proof.Machine.execSignalDetected p s
  | .trainingSuccess p => Sys2Proof.Machine.execTrainingSuccess p s
  | .trainTimeout p => Sys2Proof.Machine.execTrainTimeout p s
  | .retrainTrigger p => Sys2Proof.Machine.execRetrainTrigger p s
  | .retrainTimeout p => Sys2Proof.Machine.execRetrainTimeout p s
  | .portDisable p => Sys2Proof.Machine.execPortDisable p s
  | .portEnable p => Sys2Proof.Machine.execPortEnable p s
  | .flitReceive p flit => Sys2Proof.Machine.execFlitReceive p flit s
  | .ackTimeout p => Sys2Proof.Machine.execAckTimeout p s
  | .remoteAccess dev kind addr data => Sys2Proof.Machine.execRemoteAccess dev kind addr data s
  | .remoteResponse k ok data => Sys2Proof.Machine.execRemoteResponse k ok data s
  | .primitiveForward dev prim => Sys2Proof.Machine.execPrimitiveForward dev prim s
  | .blockEndMark dev blk n => Sys2Proof.Machine.execBlockEndMark dev blk n s
  | .rasterisePrimitive q => Sys2Proof.Machine.execRasterisePrimitive q s
  | .linkDownLimit p => Sys2Proof.Machine.execLinkDownLimit p s
  | .registerWrite fn bar off size v => Sys2Proof.Machine.execRegisterWrite fn bar off size v s
  | .powerLoss => Sys2Proof.Machine.execPowerLoss s
  | .gscUncorrectableError => Sys2Proof.Machine.execGscUncorrectableError s
  | .pcieReadCompletion k ok data => Sys2Proof.Machine.execPcieReadCompletion k ok data s
  | .migrationEligibility b => Sys2Proof.Machine.execMigrationEligibility b s

end Sys2Proof.Machine
end

