-- ==== Sys2Proof/Decode.lean ====
section
/-! DEFINITION. Decoding and encoding: the six formats of R50 to R55, the opcode map of R57, the field-bytecode words
of R248 and R249. The decoder reads the fields, builds the instruction that its opcode names, and accepts the word only
if that instruction is well formed and its own fields are exactly the ones read: any reserved or unused field that is not
zero therefore refuses the word (R49). -/

namespace Sys2Proof

open Sys2Proof.Machine (bitsOf bitOf leBytes leNat)

/-- Why a word is no instruction: the checks of R58, steps 2 to 7, and of R248. -/
inductive DecodeError where
  /-- LEN is 0b11 (R40). -/
  | badLength
  /-- The instruction leaves its fetch block (R42). -/
  | crossesBlock
  /-- The major opcode is not allocated (R57). -/
  | unallocated
  /-- LEN disagrees with the format of the opcode's row. -/
  | wrongLength
  /-- The predicate field means never (R44). -/
  | neverPredicate
  /-- A field holds a value that its class or the description does not allow (R45 to R49, R56). -/
  | badField
  /-- A field operation runs past the end of the program (R248). -/
  | programEnd
  /-- A malformed field operation (R248). -/
  | badOperation
  deriving DecidableEq, Repr

/-- The six formats (R40). -/
inductive Format where
  | f64a | f64i | f96r | f96i | f128m | f128e
  deriving DecidableEq, Repr

/-- The fields of a format; a field the format lacks is zero. `rsv` holds the reserved bits, which must be zero. -/
structure Fields where
  op : Nat
  pred : Nat := 7
  vd : Nat := 0
  a : Nat := 0
  ak : Nat := 0
  b : Nat := 0
  bk : Nat := 0
  c : Nat := 0
  ck : Nat := 0
  rm : Nat := 0
  mod : Nat := 0
  imm : Nat := 0
  ximm : Nat := 0
  scope : Nat := 0
  rel : Nat := 0
  acq : Nat := 0
  breg : Nat := 0
  rsv : Nat := 0
  deriving DecidableEq, Repr

/-- The value of LEN in a format (R40). -/
def Format.len : Format → Nat
  | .f64a | .f64i => 0
  | .f96r | .f96i => 1
  | .f128m | .f128e => 2

/-- Bytes of an instruction whose LEN is `n`. -/
def lenBytes (n : Nat) : Nat := 8 + 4 * n

/-- Fields side by side, the first in the lowest bits: each is a width and a value. -/
def pack : List (Nat × Nat) → Nat
  | [] => 0
  | (w, v) :: fs => v % 2 ^ w + 2 ^ w * pack fs

/-- The values of fields of the given widths, the first from the lowest bits. -/
def unpack : List Nat → Nat → List Nat
  | [], _ => []
  | w :: ws, v => v % 2 ^ w :: unpack ws (v / 2 ^ w)

/-- The widths of a format's fields from bit 0 upward (R44, R50 to R55). -/
def Format.widths : Format → List Nat
  | .f64a => [2, 10, 4, 9, 11, 11, 1, 1, 3, 2, 10]
  | .f64i => [2, 10, 4, 9, 11, 16, 1, 1, 2, 8]
  | .f96r => [2, 10, 4, 9, 11, 11, 11, 1, 1, 1, 2, 1, 16, 16]
  | .f96i => [2, 10, 4, 9, 11, 1, 2, 1, 16, 8, 32]
  | .f128m => [2, 10, 4, 9, 11, 11, 1, 1, 1, 1, 3, 10, 4, 28, 32]
  | .f128e => [2, 10, 4, 9, 11, 11, 1, 1, 1, 1, 3, 10, 32, 32]

/-- The values of a format's fields from bit 0 upward, as they stand in the word. -/
def Fields.values (f : Fields) : Format → List Nat
  | .f64a => [0, f.op, f.pred, f.vd, f.a, f.b, f.ak, f.bk, f.rsv, f.rm, f.mod]
  | .f64i => [0, f.op, f.pred, f.vd, f.a, f.imm, f.ak, f.rsv, f.rm, f.mod]
  | .f96r => [1, f.op, f.pred, f.vd, f.a, f.b, f.c, f.ak, f.bk, f.ck, f.rm, f.rsv, f.mod, f.ximm]
  | .f96i => [1, f.op, f.pred, f.vd, f.a, f.ak, f.rm, f.rsv % 2, f.mod, f.rsv / 2, f.imm]
  | .f128m => [2, f.op, f.pred, f.vd, f.a, f.b, f.ak, f.bk, f.acq, f.rel, f.scope, f.mod, f.breg, f.rsv, f.imm]
  | .f128e => [2, f.op, f.pred, f.vd, f.a, f.b, f.ak, f.bk, f.acq, f.rel, f.scope, f.mod, f.imm, f.ximm]

/-- The word of a format's fields. -/
def Fields.word (f : Fields) (fmt : Format) : Nat := pack (fmt.widths.zip (f.values fmt))

/-- The fields of a word in a format. -/
def Format.fields (fmt : Format) (w : Nat) : Fields :=
  match fmt, unpack fmt.widths w with
  | .f64a, [_, op, pred, vd, a, b, ak, bk, rsv, rm, mod] => { op, pred, vd, a, b, ak, bk, rsv, rm, mod }
  | .f64i, [_, op, pred, vd, a, imm, ak, rsv, rm, mod] => { op, pred, vd, a, imm, ak, rsv, rm, mod }
  | .f96r, [_, op, pred, vd, a, b, c, ak, bk, ck, rm, rsv, mod, ximm] =>
    { op, pred, vd, a, b, c, ak, bk, ck, rm, rsv, mod, ximm }
  | .f96i, [_, op, pred, vd, a, ak, rm, r0, mod, r1, imm] =>
    { op, pred, vd, a, ak, rm, rsv := r0 + 2 * r1, mod, imm }
  | .f128m, [_, op, pred, vd, a, b, ak, bk, acq, rel, scope, mod, breg, rsv, imm] =>
    { op, pred, vd, a, b, ak, bk, acq, rel, scope, mod, breg, rsv, imm }
  | .f128e, [_, op, pred, vd, a, b, ak, bk, acq, rel, scope, mod, imm, ximm] =>
    { op, pred, vd, a, b, ak, bk, acq, rel, scope, mod, imm, ximm }
  | _, _ => { op := 0 }

/-- The format of a row of the opcode map, OP[9:5] (R57). -/
def rowFormat (row : Nat) : Option Format :=
  match row with
  | 0x00 | 0x02 | 0x03 | 0x04 | 0x06 | 0x07 | 0x08 | 0x09 | 0x0A => some .f64a
  | 0x01 => some .f64i
  | 0x05 => some .f96i
  | 0x0B => some .f96r
  | 0x0C | 0x0D => some .f128m
  | 0x0E | 0x0F => some .f128e
  | _ => none

/-- How many columns of a row are allocated: column numbers below this, and in row 0 above 0 (R57). -/
def rowColumns (row : Nat) : Nat :=
  match row with
  | 0x00 => 22
  | 0x01 => 22
  | 0x02 => 23
  | 0x03 => 14
  | 0x04 => 8
  | 0x05 => 15
  | 0x06 => 19
  | 0x07 => 11
  | 0x08 => 18
  | 0x09 => 6
  | 0x0A => 8
  | 0x0B => 11
  | 0x0C => 11
  | 0x0D => 5
  | 0x0E => 9
  | 0x0F => 10
  | _ => 0

/-- Is a major opcode allocated? (R57) -/
def opAllocated (op : Nat) : Bool := op != 0 && decide (op % 32 < rowColumns (op / 32))

/-- The code of a flag bit. -/
def flagBit (b : Bool) : Nat := if b then 1 else 0

/-- The predicate field (R44). -/
def Guard.field (g : Guard) : Nat := g.q + 8 * flagBit g.neg

/-- The guard of a predicate field. -/
def Guard.ofField (p : Nat) : Guard := { q := p % 8, neg := p / 8 % 2 == 1 }

/-- A vector source field (R46). -/
def VSrc.field (a : VSrc) : Nat := a.n + 512 * flagBit a.lr + 1024 * flagBit a.te

/-- The vector source of a field. -/
def VSrc.ofField (x : Nat) : VSrc := { n := x % 512, lr := x / 512 % 2 == 1, te := x / 1024 % 2 == 1 }

/-- A scalar source field (R29, R45). -/
def SSrc.field : SSrc → Nat
  | .s n => n
  | .zs => 31

/-- The scalar source of a field. -/
def SSrc.ofField (x : Nat) : SSrc := if x == 31 then .zs else .s x

/-- A value source field (R46). -/
def Src.field : Src → Nat
  | .v n lr te => VSrc.field ⟨n, lr, te⟩
  | .s n => n
  | .zs => 31

/-- The kind bit of a value source (R46). -/
def Src.kind : Src → Nat
  | .v _ _ _ => 0
  | .s _ => 1
  | .zs => 1

/-- The value source of a field and its kind bit. -/
def Src.ofField (x k : Nat) : Src :=
  if k == 1 then (if x == 31 then .zs else .s x) else .v (x % 512) (x / 512 % 2 == 1) (x / 1024 % 2 == 1)

/-- The code of rounding modes (R47). -/
def Rm.code : Rm → Nat
  | .rn => 0
  | .rz => 1
  | .rd => 2
  | .ru => 3

/-- The value of a code of Rm, if it has one. -/
def Rm.ofCode : Nat → Option Rm
  | 0 => Option.some .rn
  | 1 => Option.some .rz
  | 2 => Option.some .rd
  | 3 => Option.some .ru
  | _ => Option.none

/-- The code of memory scopes (R48). -/
def Scope.code : Scope → Nat
  | .blk => 0
  | .core => 1
  | .chip => 2
  | .dom => 3
  | .sys => 4

/-- The value of a code of Scope, if it has one. -/
def Scope.ofCode : Nat → Option Scope
  | 0 => Option.some .blk
  | 1 => Option.some .core
  | 2 => Option.some .chip
  | 3 => Option.some .dom
  | 4 => Option.some .sys
  | _ => Option.none

/-- The code of integer conditions (R110). -/
def ICond.code : ICond → Nat
  | .eq => 0
  | .ne => 1
  | .lt => 2
  | .le => 3
  | .gt => 4
  | .ge => 5

/-- The value of a code of ICond, if it has one. -/
def ICond.ofCode : Nat → Option ICond
  | 0 => Option.some .eq
  | 1 => Option.some .ne
  | 2 => Option.some .lt
  | 3 => Option.some .le
  | 4 => Option.some .gt
  | 5 => Option.some .ge
  | _ => Option.none

/-- The code of floating conditions (R145). -/
def FCond.code : FCond → Nat
  | .eq => 0
  | .ne => 1
  | .lt => 2
  | .le => 3
  | .gt => 4
  | .ge => 5
  | .ord => 6
  | .uno => 7

/-- The value of a code of FCond, if it has one. -/
def FCond.ofCode : Nat → Option FCond
  | 0 => Option.some .eq
  | 1 => Option.some .ne
  | 2 => Option.some .lt
  | 3 => Option.some .le
  | 4 => Option.some .gt
  | 5 => Option.some .ge
  | 6 => Option.some .ord
  | 7 => Option.some .uno
  | _ => Option.none

/-- The code of floating formats of FCLASS and the conversions (R146, R153). -/
def Fmt.code : Fmt → Nat
  | .f32 => 0
  | .f64 => 1
  | .f16 => 2
  | .bf16 => 3

/-- The value of a code of Fmt, if it has one. -/
def Fmt.ofCode : Nat → Option Fmt
  | 0 => Option.some .f32
  | 1 => Option.some .f64
  | 2 => Option.some .f16
  | 3 => Option.some .bf16
  | _ => Option.none

/-- The code of integer formats of CVTFI and CVTIF (R154). -/
def IntFmt.code : IntFmt → Nat
  | .s32 => 0
  | .u32 => 1
  | .s64 => 2
  | .u64 => 3

/-- The value of a code of IntFmt, if it has one. -/
def IntFmt.ofCode : Nat → Option IntFmt
  | 0 => Option.some .s32
  | 1 => Option.some .u32
  | 2 => Option.some .s64
  | 3 => Option.some .u64
  | _ => Option.none

/-- The code of integer types of CVTII (R156). -/
def IntType.code : IntType → Nat
  | .s8 => 0
  | .u8 => 1
  | .s16 => 2
  | .u16 => 3
  | .s32 => 4
  | .u32 => 5
  | .s64 => 6
  | .u64 => 7

/-- The value of a code of IntType, if it has one. -/
def IntType.ofCode : Nat → Option IntType
  | 0 => Option.some .s8
  | 1 => Option.some .u8
  | 2 => Option.some .s16
  | 3 => Option.some .u16
  | 4 => Option.some .s32
  | 5 => Option.some .u32
  | 6 => Option.some .s64
  | 7 => Option.some .u64
  | _ => Option.none

/-- The code of how the two element results of HCMP2 combine (R152). -/
def Comb.code : Comb → Nat
  | .lo => 0
  | .hi => 1
  | .and => 2
  | .or => 3

/-- The value of a code of Comb, if it has one. -/
def Comb.ofCode : Nat → Option Comb
  | 0 => Option.some .lo
  | 1 => Option.some .hi
  | 2 => Option.some .and
  | 3 => Option.some .or
  | _ => Option.none

/-- The code of the operations of PLOP (R118). -/
def PlopOp.code : PlopOp → Nat
  | .and => 0x8
  | .or => 0xe
  | .xor => 0x6
  | .andn => 0x4
  | .nand => 0x7
  | .nor => 0x1
  | .xnor => 0x9
  | .mov => 0xc
  | .not => 0x3

/-- The value of a code of PlopOp, if it has one. -/
def PlopOp.ofCode : Nat → Option PlopOp
  | 0x8 => Option.some .and
  | 0xe => Option.some .or
  | 0x6 => Option.some .xor
  | 0x4 => Option.some .andn
  | 0x7 => Option.some .nand
  | 0x1 => Option.some .nor
  | 0x9 => Option.some .xnor
  | 0xc => Option.some .mov
  | 0x3 => Option.some .not
  | _ => Option.none

/-- The code of the modes of SHFL (R165). -/
def ShflMode.code : ShflMode → Nat
  | .abs => 0
  | .rot => 1
  | .xor => 2
  | .rev => 3

/-- The value of a code of ShflMode, if it has one. -/
def ShflMode.ofCode : Nat → Option ShflMode
  | 0 => Option.some .abs
  | 1 => Option.some .rot
  | 2 => Option.some .xor
  | 3 => Option.some .rev
  | _ => Option.none

/-- The code of the modes of VOTE (R167). -/
def VoteMode.code : VoteMode → Nat
  | .cnt => 0
  | .mask => 1
  | .some => 2
  | .each => 3
  | .same => 4
  | .odd => 5

/-- The value of a code of VoteMode, if it has one. -/
def VoteMode.ofCode : Nat → Option VoteMode
  | 0 => Option.some .cnt
  | 1 => Option.some .mask
  | 2 => Option.some .some
  | 3 => Option.some .each
  | 4 => Option.some .same
  | 5 => Option.some .odd
  | _ => Option.none

/-- The code of the operations of REDUX, SCAN, SEGRED and COLL (R168). -/
def RedOp.code : RedOp → Nat
  | .add => 0
  | .min => 1
  | .max => 2
  | .umin => 3
  | .umax => 4
  | .and => 5
  | .or => 6
  | .xor => 7
  | .fadd => 8
  | .fmin => 9
  | .fmax => 10

/-- The value of a code of RedOp, if it has one. -/
def RedOp.ofCode : Nat → Option RedOp
  | 0 => Option.some .add
  | 1 => Option.some .min
  | 2 => Option.some .max
  | 3 => Option.some .umin
  | 4 => Option.some .umax
  | 5 => Option.some .and
  | 6 => Option.some .or
  | 7 => Option.some .xor
  | 8 => Option.some .fadd
  | 9 => Option.some .fmin
  | 10 => Option.some .fmax
  | _ => Option.none

/-- The code of what SLIDE fills vacated positions with (R172). -/
def Fill.code : Fill → Nat
  | .fb => 0
  | .fc => 1
  | .fz => 2
  | .fe => 3

/-- The value of a code of Fill, if it has one. -/
def Fill.ofCode : Nat → Option Fill
  | 0 => Option.some .fb
  | 1 => Option.some .fc
  | 2 => Option.some .fz
  | 3 => Option.some .fe
  | _ => Option.none

/-- The code of access widths and extensions (R184). -/
def Width.code : Width → Nat
  | .b8 => 0
  | .s8 => 1
  | .b16 => 2
  | .s16 => 3
  | .b32 => 4
  | .b64 => 5
  | .b128 => 6

/-- The value of a code of Width, if it has one. -/
def Width.ofCode : Nat → Option Width
  | 0 => Option.some .b8
  | 1 => Option.some .s8
  | 2 => Option.some .b16
  | 3 => Option.some .s16
  | 4 => Option.some .b32
  | 5 => Option.some .b64
  | 6 => Option.some .b128
  | _ => Option.none

/-- The code of lLC hints (R184). -/
def Hint.code : Hint → Nat
  | .none => 0
  | .last => 1
  | .keep => 2

/-- The value of a code of Hint, if it has one. -/
def Hint.ofCode : Nat → Option Hint
  | 0 => Option.some .none
  | 1 => Option.some .last
  | 2 => Option.some .keep
  | _ => Option.none

/-- The code of the operations of ATOM, ATOMS and RED (R195). -/
def AtomOp.code : AtomOp → Nat
  | .add => 0
  | .min => 1
  | .max => 2
  | .umin => 3
  | .umax => 4
  | .and => 5
  | .or => 6
  | .xor => 7
  | .exch => 8
  | .cas => 9
  | .fadd => 10

/-- The value of a code of AtomOp, if it has one. -/
def AtomOp.ofCode : Nat → Option AtomOp
  | 0 => Option.some .add
  | 1 => Option.some .min
  | 2 => Option.some .max
  | 3 => Option.some .umin
  | 4 => Option.some .umax
  | 5 => Option.some .and
  | 6 => Option.some .or
  | 7 => Option.some .xor
  | 8 => Option.some .exch
  | 9 => Option.some .cas
  | 10 => Option.some .fadd
  | _ => Option.none

/-- The code of the modes of ACQ (R197). -/
def AcqMode.code : AcqMode → Nat
  | .plain => 0
  | .ge => 1
  | .eq => 2

/-- The value of a code of AcqMode, if it has one. -/
def AcqMode.ofCode : Nat → Option AcqMode
  | 0 => Option.some .plain
  | 1 => Option.some .ge
  | 2 => Option.some .eq
  | _ => Option.none

/-- The code of the modes of REL (R198). -/
def RelMode.code : RelMode → Nat
  | .st => 0
  | .add => 1

/-- The value of a code of RelMode, if it has one. -/
def RelMode.ofCode : Nat → Option RelMode
  | 0 => Option.some .st
  | 1 => Option.some .add
  | _ => Option.none

/-- The code of what FENCE orders (R199). -/
def FenceKind.code : FenceKind → Nat
  | .rw => 0
  | .w => 1
  | .r => 2

/-- The value of a code of FenceKind, if it has one. -/
def FenceKind.ofCode : Nat → Option FenceKind
  | 0 => Option.some .rw
  | 1 => Option.some .w
  | 2 => Option.some .r
  | _ => Option.none

/-- The code of the depth tests of MARCH (R232). -/
def DepthTest.code : DepthTest → Nat
  | .none => 0
  | .lt => 1
  | .le => 2

/-- The value of a code of DepthTest, if it has one. -/
def DepthTest.ofCode : Nat → Option DepthTest
  | 0 => Option.some .none
  | 1 => Option.some .lt
  | 2 => Option.some .le
  | _ => Option.none

/-- The code of the operations of COLL (R233). -/
def CollOp.code : CollOp → Nat
  | .allred => 0
  | .redsc => 1
  | .allgat => 2
  | .bcast => 3
  | .bar => 4

/-- The value of a code of CollOp, if it has one. -/
def CollOp.ofCode : Nat → Option CollOp
  | 0 => Option.some .allred
  | 1 => Option.some .redsc
  | 2 => Option.some .allgat
  | 3 => Option.some .bcast
  | 4 => Option.some .bar
  | _ => Option.none

/-- The code of the operations of TBLEND (R239). -/
def BlendOp.code : BlendOp → Nat
  | .rep => 0
  | .over => 1
  | .add => 2
  | .min => 3
  | .max => 4

/-- The value of a code of BlendOp, if it has one. -/
def BlendOp.ofCode : Nat → Option BlendOp
  | 0 => Option.some .rep
  | 1 => Option.some .over
  | 2 => Option.some .add
  | 3 => Option.some .min
  | 4 => Option.some .max
  | _ => Option.none

/-- The code of the operations of BREC (R183). -/
def BrecOp.code : BrecOp → Nat
  | .copy => 0
  | .base => 1
  | .ext => 2
  | .str => 3
  | .fmt => 4
  | .guard => 5
  | .sub => 6
  | .lds => 7
  | .sts => 8

/-- The value of a code of BrecOp, if it has one. -/
def BrecOp.ofCode : Nat → Option BrecOp
  | 0 => Option.some .copy
  | 1 => Option.some .base
  | 2 => Option.some .ext
  | 3 => Option.some .str
  | 4 => Option.some .fmt
  | 5 => Option.some .guard
  | 6 => Option.some .sub
  | 7 => Option.some .lds
  | 8 => Option.some .sts
  | _ => Option.none

/-- The code of the field operations that have a PRUNE form (R249, R264). -/
def PruneOp.code : PruneOp → Nat
  | .add => 0x8
  | .sub => 0x9
  | .mul => 0xa
  | .div => 0xb
  | .min => 0xc
  | .max => 0xd
  | .smin => 0xe
  | .smax => 0xf
  | .addc => 0x10
  | .rsubc => 0x11
  | .mulc => 0x12
  | .minc => 0x13
  | .maxc => 0x14
  | .clamp => 0x15
  | .neg => 0x18
  | .abs => 0x19
  | .sqrt => 0x1a
  | .sqr => 0x1b
  | .sin => 0x1c
  | .cos => 0x1d
  | .floor => 0x1e
  | .fract => 0x1f
  | .len2 => 0x20
  | .len3 => 0x21
  | .mix => 0x22

/-- The value of a code of PruneOp, if it has one. -/
def PruneOp.ofCode : Nat → Option PruneOp
  | 0x8 => Option.some .add
  | 0x9 => Option.some .sub
  | 0xa => Option.some .mul
  | 0xb => Option.some .div
  | 0xc => Option.some .min
  | 0xd => Option.some .max
  | 0xe => Option.some .smin
  | 0xf => Option.some .smax
  | 0x10 => Option.some .addc
  | 0x11 => Option.some .rsubc
  | 0x12 => Option.some .mulc
  | 0x13 => Option.some .minc
  | 0x14 => Option.some .maxc
  | 0x15 => Option.some .clamp
  | 0x18 => Option.some .neg
  | 0x19 => Option.some .abs
  | 0x1a => Option.some .sqrt
  | 0x1b => Option.some .sqr
  | 0x1c => Option.some .sin
  | 0x1d => Option.some .cos
  | 0x1e => Option.some .floor
  | 0x1f => Option.some .fract
  | 0x20 => Option.some .len2
  | 0x21 => Option.some .len3
  | 0x22 => Option.some .mix
  | _ => Option.none

/-- The low half of a name hash (R206). -/
def SegName.low : SegName → Nat
  | .imm h => h.toNat % 2 ^ 32
  | .reg _ => 0

/-- The high half of a name hash. -/
def SegName.high : SegName → Nat
  | .imm h => h.toNat / 2 ^ 32
  | .reg _ => 0

/-- The register field of a name. -/
def SegName.pair : SegName → Nat
  | .imm _ => 0
  | .reg a => a.field

/-- Is the name in a register? -/
def SegName.isReg : SegName → Bool
  | .imm _ => false
  | .reg _ => true

/-- The name that the fields give (R206). -/
def SegName.ofFields (f : Fields) : SegName :=
  if bitOf f.mod 3 then .reg (VSrc.ofField f.a) else .imm (BitVec.ofNat 64 (f.imm + 2 ^ 32 * f.ximm))

/-- The fields of a SIMT instruction, by the opcode map of R57 and each description. -/
def simtFields : Instr → Option Fields
  | .iadd g d a b => some { op := 0x001, pred := g.field, vd := d, a := a.field, ak := a.kind, b := b.field, bk := b.kind }
  | .isub g d a b => some { op := 0x002, pred := g.field, vd := d, a := a.field, ak := a.kind, b := b.field, bk := b.kind }
  | .imul g d a b => some { op := 0x003, pred := g.field, vd := d, a := a.field, ak := a.kind, b := b.field, bk := b.kind }
  | .imulh g d a b => some { op := 0x004, pred := g.field, vd := d, a := a.field, ak := a.kind, b := b.field, bk := b.kind }
  | .umulh g d a b => some { op := 0x005, pred := g.field, vd := d, a := a.field, ak := a.kind, b := b.field, bk := b.kind }
  | .imin g d a b => some { op := 0x006, pred := g.field, vd := d, a := a.field, ak := a.kind, b := b.field, bk := b.kind }
  | .imax g d a b => some { op := 0x007, pred := g.field, vd := d, a := a.field, ak := a.kind, b := b.field, bk := b.kind }
  | .umin g d a b => some { op := 0x008, pred := g.field, vd := d, a := a.field, ak := a.kind, b := b.field, bk := b.kind }
  | .umax g d a b => some { op := 0x009, pred := g.field, vd := d, a := a.field, ak := a.kind, b := b.field, bk := b.kind }
  | .iabs g d a => some { op := 0x00A, pred := g.field, vd := d, a := a.field, ak := a.kind }
  | .ineg g d a => some { op := 0x00B, pred := g.field, vd := d, a := a.field, ak := a.kind }
  | .icmp g q cc a b => some { op := 0x00C, pred := g.field, vd := q, a := a.field, ak := a.kind, b := b.field, bk := b.kind, mod := cc.code }
  | .ucmp g q cc a b => some { op := 0x00D, pred := g.field, vd := q, a := a.field, ak := a.kind, b := b.field, bk := b.kind, mod := cc.code }
  | .iadd64 g d a b => some { op := 0x00E, pred := g.field, vd := d, a := a.field, b := b.field }
  | .isub64 g d a b => some { op := 0x00F, pred := g.field, vd := d, a := a.field, b := b.field }
  | .imul64 g d a b => some { op := 0x010, pred := g.field, vd := d, a := a.field, b := b.field }
  | .lea g d sh a b => some { op := 0x011, pred := g.field, vd := d, a := a.field, ak := a.kind, b := b.field, bk := b.kind, mod := sh }
  | .idiv g d a b => some { op := 0x012, pred := g.field, vd := d, a := a.field, ak := a.kind, b := b.field, bk := b.kind }
  | .udiv g d a b => some { op := 0x013, pred := g.field, vd := d, a := a.field, ak := a.kind, b := b.field, bk := b.kind }
  | .irem g d a b => some { op := 0x014, pred := g.field, vd := d, a := a.field, ak := a.kind, b := b.field, bk := b.kind }
  | .urem g d a b => some { op := 0x015, pred := g.field, vd := d, a := a.field, ak := a.kind, b := b.field, bk := b.kind }
  | .iaddi g d a imm => some { op := 0x020, pred := g.field, vd := d, a := a.field, ak := a.kind, imm := imm.toNat }
  | .imuli g d a imm => some { op := 0x021, pred := g.field, vd := d, a := a.field, ak := a.kind, imm := imm.toNat }
  | .icmpi g q cc a imm => some { op := 0x022, pred := g.field, vd := q, a := a.field, ak := a.kind, mod := cc.code, imm := imm.toNat }
  | .ucmpi g q cc a imm => some { op := 0x023, pred := g.field, vd := q, a := a.field, ak := a.kind, mod := cc.code, imm := imm.toNat }
  | .movi g d imm => some { op := 0x024, pred := g.field, vd := d, imm := imm.toNat }
  | .leai g d sh a imm => some { op := 0x025, pred := g.field, vd := d, a := a.field, ak := a.kind, mod := sh, imm := imm.toNat }
  | .andi g d a imm => some { op := 0x026, pred := g.field, vd := d, a := a.field, ak := a.kind, imm := imm.toNat }
  | .ori g d a imm => some { op := 0x027, pred := g.field, vd := d, a := a.field, ak := a.kind, imm := imm.toNat }
  | .xori g d a imm => some { op := 0x028, pred := g.field, vd := d, a := a.field, ak := a.kind, imm := imm.toNat }
  | .shli g d a imm => some { op := 0x029, pred := g.field, vd := d, a := a.field, ak := a.kind, imm := imm.toNat }
  | .shri g d a imm => some { op := 0x02A, pred := g.field, vd := d, a := a.field, ak := a.kind, imm := imm.toNat }
  | .sari g d a imm => some { op := 0x02B, pred := g.field, vd := d, a := a.field, ak := a.kind, imm := imm.toNat }
  | .bfe g d sgn a pos len => some { op := 0x02C, pred := g.field, vd := d, a := a.field, ak := a.kind, mod := flagBit sgn, imm := pos + 32 * len }
  | .saddi g d a imm => some { op := 0x02D, pred := g.field, vd := d, a := a.field, imm := imm.toNat }
  | .smovi g d imm => some { op := 0x02E, pred := g.field, vd := d, imm := imm.toNat }
  | .csrr g d num hi => some { op := 0x02F, pred := g.field, vd := d, imm := num + 4096 * flagBit hi }
  | .csrw g num hi a => some { op := 0x030, pred := g.field, a := a.field, ak := a.kind, imm := num + 4096 * flagBit hi }
  | .sysv g d num => some { op := 0x031, pred := g.field, vd := d, imm := num }
  | .sleep g imm => some { op := 0x032, pred := g.field, imm := imm.toNat }
  | .bkpt g imm => some { op := 0x033, pred := g.field, imm := imm.toNat }
  | .trap g imm => some { op := 0x034, pred := g.field, imm := imm.toNat }
  | .detpt g a tag => some { op := 0x035, pred := g.field, a := a.field, ak := a.kind, imm := tag.toNat }
  | .and g d a b => some { op := 0x040, pred := g.field, vd := d, a := a.field, ak := a.kind, b := b.field, bk := b.kind }
  | .or g d a b => some { op := 0x041, pred := g.field, vd := d, a := a.field, ak := a.kind, b := b.field, bk := b.kind }
  | .xor g d a b => some { op := 0x042, pred := g.field, vd := d, a := a.field, ak := a.kind, b := b.field, bk := b.kind }
  | .andn g d a b => some { op := 0x043, pred := g.field, vd := d, a := a.field, ak := a.kind, b := b.field, bk := b.kind }
  | .not g d a => some { op := 0x044, pred := g.field, vd := d, a := a.field, ak := a.kind }
  | .shl g d a b => some { op := 0x045, pred := g.field, vd := d, a := a.field, ak := a.kind, b := b.field, bk := b.kind }
  | .shr g d a b => some { op := 0x046, pred := g.field, vd := d, a := a.field, ak := a.kind, b := b.field, bk := b.kind }
  | .sar g d a b => some { op := 0x047, pred := g.field, vd := d, a := a.field, ak := a.kind, b := b.field, bk := b.kind }
  | .rol g d a b => some { op := 0x048, pred := g.field, vd := d, a := a.field, ak := a.kind, b := b.field, bk := b.kind }
  | .ror g d a b => some { op := 0x049, pred := g.field, vd := d, a := a.field, ak := a.kind, b := b.field, bk := b.kind }
  | .popc g d a => some { op := 0x04A, pred := g.field, vd := d, a := a.field, ak := a.kind }
  | .clz g d a => some { op := 0x04B, pred := g.field, vd := d, a := a.field, ak := a.kind }
  | .ctz g d a => some { op := 0x04C, pred := g.field, vd := d, a := a.field, ak := a.kind }
  | .brev g d a => some { op := 0x04D, pred := g.field, vd := d, a := a.field, ak := a.kind }
  | .mov g d a => some { op := 0x04E, pred := g.field, vd := d, a := a.field, ak := a.kind }
  | .sel g d a b q neg => some { op := 0x04F, pred := g.field, vd := d, a := a.field, ak := a.kind, b := b.field, bk := b.kind, mod := q + 8 * flagBit neg }
  | .plop g q op qa qb => some { op := 0x050, pred := g.field, vd := q, a := qa, b := qb, mod := op.code }
  | .p2v g d m qa => some { op := 0x051, pred := g.field, vd := d, a := qa, mod := flagBit m }
  | .v2p g q a => some { op := 0x052, pred := g.field, vd := q, a := a.field, ak := a.kind }
  | .shape g d pend a => some { op := 0x053, pred := g.field, vd := d, a := a.field, mod := flagBit pend }
  | .expand g d a => some { op := 0x054, pred := g.field, vd := d, a := a.field }
  | .mkaff g d a b => some { op := 0x055, pred := g.field, vd := d, a := a.field, ak := a.kind, b := b.field, bk := b.kind }
  | .shrr g d he s16 a b => some { op := 0x056, pred := g.field, vd := d, a := a.field, ak := a.kind, b := b.field, bk := b.kind, mod := flagBit he + 2 * flagBit s16 }
  | .smov g d a => some { op := 0x060, pred := g.field, vd := d, a := a.field }
  | .sadd g d a b => some { op := 0x061, pred := g.field, vd := d, a := a.field, b := b.field }
  | .ssub g d a b => some { op := 0x062, pred := g.field, vd := d, a := a.field, b := b.field }
  | .smul g d a b => some { op := 0x063, pred := g.field, vd := d, a := a.field, b := b.field }
  | .sand g d a b => some { op := 0x064, pred := g.field, vd := d, a := a.field, b := b.field }
  | .sor g d a b => some { op := 0x065, pred := g.field, vd := d, a := a.field, b := b.field }
  | .sxor g d a b => some { op := 0x066, pred := g.field, vd := d, a := a.field, b := b.field }
  | .sshl g d a b => some { op := 0x067, pred := g.field, vd := d, a := a.field, b := b.field }
  | .sshr g d a b => some { op := 0x068, pred := g.field, vd := d, a := a.field, b := b.field }
  | .ssar g d a b => some { op := 0x069, pred := g.field, vd := d, a := a.field, b := b.field }
  | .smin g d u a b => some { op := 0x06A, pred := g.field, vd := d, a := a.field, b := b.field, mod := flagBit u }
  | .smax g d u a b => some { op := 0x06B, pred := g.field, vd := d, a := a.field, b := b.field, mod := flagBit u }
  | .scmp g q cc u a b => some { op := 0x06C, pred := g.field, vd := q, a := a.field, b := b.field, mod := cc.code + 8 * flagBit u }
  | .v2s g d a => some { op := 0x06D, pred := g.field, vd := d, a := a.field }
  | .brx g uni a => some { op := 0x080, pred := g.field, a := a.field, ak := a.kind, mod := flagBit uni }
  | .calli g uni a => some { op := 0x081, pred := g.field, a := a.field, ak := a.kind, mod := flagBit uni }
  | .ret g => some { op := 0x082, pred := g.field }
  | .exit g => some { op := 0x083, pred := g.field }
  | .nop g => some { op := 0x084, pred := g.field }
  | .rte g => some { op := 0x085, pred := g.field }
  | .getclk g d => some { op := 0x086, pred := g.field, vd := d }
  | .getret g d depth => some { op := 0x087, pred := g.field, vd := d, mod := flagBit depth }
  | .bra g off => some { op := 0x0A0, pred := g.field, imm := off.toNat }
  | .braU g off => some { op := 0x0A1, pred := g.field, imm := off.toNat }
  | .call g off => some { op := 0x0A2, pred := g.field, imm := off.toNat }
  | .yield g off => some { op := 0x0A3, pred := g.field, imm := off.toNat }
  | .phint g off => some { op := 0x0A4, pred := g.field, imm := off.toNat }
  | .movi32 g d imm => some { op := 0x0A5, pred := g.field, vd := d, imm := imm.toNat }
  | .iaddi32 g d a imm => some { op := 0x0A6, pred := g.field, vd := d, a := a.field, ak := a.kind, imm := imm.toNat }
  | .imuli32 g d a imm => some { op := 0x0A7, pred := g.field, vd := d, a := a.field, ak := a.kind, imm := imm.toNat }
  | .andi32 g d a imm => some { op := 0x0A8, pred := g.field, vd := d, a := a.field, ak := a.kind, imm := imm.toNat }
  | .ori32 g d a imm => some { op := 0x0A9, pred := g.field, vd := d, a := a.field, ak := a.kind, imm := imm.toNat }
  | .xori32 g d a imm => some { op := 0x0AA, pred := g.field, vd := d, a := a.field, ak := a.kind, imm := imm.toNat }
  | .faddi32 g d rm a imm => some { op := 0x0AB, pred := g.field, vd := d, a := a.field, ak := a.kind, rm := rm.code, imm := imm.toNat }
  | .fmuli32 g d rm a imm => some { op := 0x0AC, pred := g.field, vd := d, a := a.field, ak := a.kind, rm := rm.code, imm := imm.toNat }
  | .smovi32 g d imm => some { op := 0x0AD, pred := g.field, vd := d, imm := imm.toNat }
  | .nopw g => some { op := 0x0AE, pred := g.field }
  | .fadd g d rm a b => some { op := 0x0C0, pred := g.field, vd := d, a := a.field, ak := a.kind, b := b.field, bk := b.kind, rm := rm.code }
  | .fsub g d rm a b => some { op := 0x0C1, pred := g.field, vd := d, a := a.field, ak := a.kind, b := b.field, bk := b.kind, rm := rm.code }
  | .fmul g d rm a b => some { op := 0x0C2, pred := g.field, vd := d, a := a.field, ak := a.kind, b := b.field, bk := b.kind, rm := rm.code }
  | .fdiv g d rm a b => some { op := 0x0C3, pred := g.field, vd := d, a := a.field, ak := a.kind, b := b.field, bk := b.kind, rm := rm.code }
  | .fmin g d a b => some { op := 0x0C4, pred := g.field, vd := d, a := a.field, ak := a.kind, b := b.field, bk := b.kind }
  | .fmax g d a b => some { op := 0x0C5, pred := g.field, vd := d, a := a.field, ak := a.kind, b := b.field, bk := b.kind }
  | .fabs g d a => some { op := 0x0C6, pred := g.field, vd := d, a := a.field, ak := a.kind }
  | .fneg g d a => some { op := 0x0C7, pred := g.field, vd := d, a := a.field, ak := a.kind }
  | .fcmp g q cc a b => some { op := 0x0C8, pred := g.field, vd := q, a := a.field, ak := a.kind, b := b.field, bk := b.kind, mod := cc.code }
  | .fclass g d fmt h1 a => some { op := 0x0C9, pred := g.field, vd := d, a := a.field, ak := a.kind, mod := fmt.code + 4 * flagBit h1 }
  | .fsqrt g d rm a => some { op := 0x0CA, pred := g.field, vd := d, a := a.field, ak := a.kind, rm := rm.code }
  | .frcp g d a => some { op := 0x0CB, pred := g.field, vd := d, a := a.field, ak := a.kind }
  | .frsq g d a => some { op := 0x0CC, pred := g.field, vd := d, a := a.field, ak := a.kind }
  | .fex2 g d a => some { op := 0x0CD, pred := g.field, vd := d, a := a.field, ak := a.kind }
  | .flg2 g d a => some { op := 0x0CE, pred := g.field, vd := d, a := a.field, ak := a.kind }
  | .fsin g d a => some { op := 0x0CF, pred := g.field, vd := d, a := a.field, ak := a.kind }
  | .fcos g d a => some { op := 0x0D0, pred := g.field, vd := d, a := a.field, ak := a.kind }
  | .ftanh g d a => some { op := 0x0D1, pred := g.field, vd := d, a := a.field, ak := a.kind }
  | .frint g d rm x a => some { op := 0x0D2, pred := g.field, vd := d, a := a.field, ak := a.kind, rm := rm.code, mod := flagBit x }
  | .dadd g d rm a b => some { op := 0x0E0, pred := g.field, vd := d, a := a.field, b := b.field, rm := rm.code }
  | .dsub g d rm a b => some { op := 0x0E1, pred := g.field, vd := d, a := a.field, b := b.field, rm := rm.code }
  | .dmul g d rm a b => some { op := 0x0E2, pred := g.field, vd := d, a := a.field, b := b.field, rm := rm.code }
  | .ddiv g d rm a b => some { op := 0x0E3, pred := g.field, vd := d, a := a.field, b := b.field, rm := rm.code }
  | .dmin g d a b => some { op := 0x0E4, pred := g.field, vd := d, a := a.field, b := b.field }
  | .dmax g d a b => some { op := 0x0E5, pred := g.field, vd := d, a := a.field, b := b.field }
  | .dabs g d a => some { op := 0x0E6, pred := g.field, vd := d, a := a.field }
  | .dneg g d a => some { op := 0x0E7, pred := g.field, vd := d, a := a.field }
  | .dcmp g q cc a b => some { op := 0x0E8, pred := g.field, vd := q, a := a.field, b := b.field, mod := cc.code }
  | .dsqrt g d rm a => some { op := 0x0E9, pred := g.field, vd := d, a := a.field, rm := rm.code }
  | .drint g d rm x a => some { op := 0x0EA, pred := g.field, vd := d, a := a.field, rm := rm.code, mod := flagBit x }
  | .hadd2 g d rm a b => some { op := 0x100, pred := g.field, vd := d, a := a.field, ak := a.kind, b := b.field, bk := b.kind, rm := rm.code }
  | .hmul2 g d rm a b => some { op := 0x101, pred := g.field, vd := d, a := a.field, ak := a.kind, b := b.field, bk := b.kind, rm := rm.code }
  | .hmin2 g d a b => some { op := 0x102, pred := g.field, vd := d, a := a.field, ak := a.kind, b := b.field, bk := b.kind }
  | .hmax2 g d a b => some { op := 0x103, pred := g.field, vd := d, a := a.field, ak := a.kind, b := b.field, bk := b.kind }
  | .hcmp2 g q cc comb a b => some { op := 0x104, pred := g.field, vd := q, a := a.field, ak := a.kind, b := b.field, bk := b.kind, mod := cc.code + 8 * comb.code }
  | .badd2 g d rm a b => some { op := 0x105, pred := g.field, vd := d, a := a.field, ak := a.kind, b := b.field, bk := b.kind, rm := rm.code }
  | .bmul2 g d rm a b => some { op := 0x106, pred := g.field, vd := d, a := a.field, ak := a.kind, b := b.field, bk := b.kind, rm := rm.code }
  | .bmin2 g d a b => some { op := 0x107, pred := g.field, vd := d, a := a.field, ak := a.kind, b := b.field, bk := b.kind }
  | .bmax2 g d a b => some { op := 0x108, pred := g.field, vd := d, a := a.field, ak := a.kind, b := b.field, bk := b.kind }
  | .bcmp2 g q cc comb a b => some { op := 0x109, pred := g.field, vd := q, a := a.field, ak := a.kind, b := b.field, bk := b.kind, mod := cc.code + 8 * comb.code }
  | .iadd2 g d sat u a b => some { op := 0x10A, pred := g.field, vd := d, a := a.field, ak := a.kind, b := b.field, bk := b.kind, mod := flagBit sat + 2 * flagBit u }
  | .isub2 g d sat u a b => some { op := 0x10B, pred := g.field, vd := d, a := a.field, ak := a.kind, b := b.field, bk := b.kind, mod := flagBit sat + 2 * flagBit u }
  | .imul2 g d sat u a b => some { op := 0x10C, pred := g.field, vd := d, a := a.field, ak := a.kind, b := b.field, bk := b.kind, mod := flagBit sat + 2 * flagBit u }
  | .imin2 g d u a b => some { op := 0x10D, pred := g.field, vd := d, a := a.field, ak := a.kind, b := b.field, bk := b.kind, mod := 2 * flagBit u }
  | .imax2 g d u a b => some { op := 0x10E, pred := g.field, vd := d, a := a.field, ak := a.kind, b := b.field, bk := b.kind, mod := 2 * flagBit u }
  | .iabs2 g d sat a => some { op := 0x10F, pred := g.field, vd := d, a := a.field, ak := a.kind, mod := flagBit sat }
  | .ipack2 g d u a b => some { op := 0x110, pred := g.field, vd := d, a := a.field, ak := a.kind, b := b.field, bk := b.kind, mod := flagBit u }
  | .shrr2 g d he u a b => some { op := 0x111, pred := g.field, vd := d, a := a.field, ak := a.kind, b := b.field, bk := b.kind, mod := flagBit he + 2 * flagBit u }
  | .cvtff g d rm src dst h1 a b => some { op := 0x120, pred := g.field, vd := d, a := a.field, ak := a.kind, b := b.field, bk := b.kind, rm := rm.code, mod := src.code + 4 * dst.code + 16 * flagBit h1 }
  | .cvtfi g d rm src dst h1 a => some { op := 0x121, pred := g.field, vd := d, a := a.field, ak := a.kind, rm := rm.code, mod := src.code + 4 * dst.code + 16 * flagBit h1 }
  | .cvtif g d rm dst src a b => some { op := 0x122, pred := g.field, vd := d, a := a.field, ak := a.kind, b := b.field, bk := b.kind, rm := rm.code, mod := dst.code + 4 * src.code }
  | .cvtii g d src dst idx sat a => some { op := 0x123, pred := g.field, vd := d, a := a.field, ak := a.kind, mod := src.code + 8 * dst.code + 64 * idx + 256 * flagBit sat }
  | .cvt8 g d rm up e5 nosat idx sc a b => some { op := 0x124, pred := g.field, vd := d, a := a.field, ak := a.kind, b := b.field, bk := b.kind, rm := rm.code, mod := flagBit up + 2 * flagBit e5 + 4 * flagBit nosat + 8 * idx + 32 * flagBit sc }
  | .cvt4 g d rm up idx sc a b => some { op := 0x125, pred := g.field, vd := d, a := a.field, ak := a.kind, b := b.field, bk := b.kind, rm := rm.code, mod := flagBit up + 2 * idx + 16 * flagBit sc }
  | .shfl g d mode logw a b => some { op := 0x140, pred := g.field, vd := d, a := a.field, ak := a.kind, b := b.field, bk := b.kind, mod := mode.code + 4 * logw }
  | .bcast g d low a b => some { op := 0x141, pred := g.field, vd := d, a := a.field, ak := a.kind, b := b.field, bk := b.kind, mod := flagBit low }
  | .vote g d mode p qa => some { op := 0x142, pred := g.field, vd := d, a := qa, mod := mode.code + 8 * flagBit p }
  | .redux g d rm op logw a => some { op := 0x143, pred := g.field, vd := d, a := a.field, ak := a.kind, rm := rm.code, mod := op.code + 16 * logw }
  | .scan g d rm op excl a => some { op := 0x144, pred := g.field, vd := d, a := a.field, ak := a.kind, rm := rm.code, mod := op.code + 16 * flagBit excl }
  | .segred g d rm op a qb => some { op := 0x145, pred := g.field, vd := d, a := a.field, ak := a.kind, b := qb, rm := rm.code, mod := op.code }
  | .match g d a => some { op := 0x146, pred := g.field, vd := d, a := a.field, ak := a.kind }
  | .intersect g d a b => some { op := 0x147, pred := g.field, vd := d, a := a.field, ak := a.kind, b := b.field, bk := b.kind }
  | .imad g d a b c => some { op := 0x160, pred := g.field, vd := d, a := a.field, ak := a.kind, b := b.field, bk := b.kind, c := c.field, ck := c.kind }
  | .bfi g d a b pos len => some { op := 0x161, pred := g.field, vd := d, a := a.field, ak := a.kind, b := b.field, bk := b.kind, ximm := pos + 32 * len }
  | .bitfn g d t1 t0 a b c => some { op := 0x162, pred := g.field, vd := d, a := a.field, ak := a.kind, b := b.field, bk := b.kind, c := c.field, ck := c.kind, mod := 16 * t1 + t0 }
  | .bytex g d codes a b => some { op := 0x163, pred := g.field, vd := d, a := a.field, ak := a.kind, b := b.field, bk := b.kind, ximm := codes.toNat }
  | .ffma g d rm a b c => some { op := 0x164, pred := g.field, vd := d, a := a.field, ak := a.kind, b := b.field, bk := b.kind, c := c.field, ck := c.kind, rm := rm.code }
  | .dfma g d rm a b c => some { op := 0x165, pred := g.field, vd := d, a := a.field, b := b.field, c := c.field, rm := rm.code }
  | .hfma2 g d rm a b c => some { op := 0x166, pred := g.field, vd := d, a := a.field, ak := a.kind, b := b.field, bk := b.kind, c := c.field, ck := c.kind, rm := rm.code }
  | .bfma2 g d rm a b c => some { op := 0x167, pred := g.field, vd := d, a := a.field, ak := a.kind, b := b.field, bk := b.kind, c := c.field, ck := c.kind, rm := rm.code }
  | .idp2 g d ua ub a b c => some { op := 0x168, pred := g.field, vd := d, a := a.field, ak := a.kind, b := b.field, bk := b.kind, c := c.field, ck := c.kind, mod := flagBit ua + 2 * flagBit ub }
  | .slide g d up half fill n a b c => some { op := 0x169, pred := g.field, vd := d, a := a.field, ak := a.kind, b := b.field, bk := b.kind, c := c.field, ck := c.kind, mod := flagBit up + 2 * flagBit half + 4 * fill.code, ximm := n }
  | .prune g d w op a b c => some { op := 0x16A, pred := g.field, vd := d, a := a.field, ak := a.kind, b := b.field, bk := b.kind, c := c.field, ck := c.kind, mod := 64 * flagBit w + op.code }
  | .brec g bd op bb a s off => some { op := 0x180, pred := g.field, vd := bd, a := a.field, ak := a.kind, b := s.field, bk := s.kind, mod := op.code, imm := off.toNat, breg := bb }
  | .ld g d wid hint acq sc br a off => some { op := 0x181, pred := g.field, vd := d, a := a.field, ak := a.kind, mod := wid.code + 8 * hint.code, imm := off.toNat, scope := sc.code, acq := flagBit acq, breg := br }
  | .st g wid hint rel sc br a off v => some { op := 0x182, pred := g.field, a := a.field, ak := a.kind, b := v.field, bk := v.kind, mod := wid.code + 8 * hint.code, imm := off.toNat, scope := sc.code, rel := flagBit rel, breg := br }
  | .lds g d wid a off => some { op := 0x183, pred := g.field, vd := d, a := a.field, ak := a.kind, mod := wid.code, imm := off.toNat }
  | .sts g wid a off v => some { op := 0x184, pred := g.field, a := a.field, ak := a.kind, b := v.field, bk := v.kind, mod := wid.code, imm := off.toNat }
  | .gather g d wid hint br a off => some { op := 0x185, pred := g.field, vd := d, a := a.field, ak := a.kind, mod := wid.code + 8 * hint.code, imm := off.toNat, breg := br }
  | .scatter g wid hint br a off v => some { op := 0x186, pred := g.field, a := a.field, ak := a.kind, b := v.field, bk := v.kind, mod := wid.code + 8 * hint.code, imm := off.toNat, breg := br }
  | .pref g keep br a off => some { op := 0x187, pred := g.field, a := a.field, ak := a.kind, mod := flagBit keep, imm := off.toNat, breg := br }
  | .discard g br a off => some { op := 0x188, pred := g.field, a := a.field, ak := a.kind, imm := off.toNat, breg := br }
  | .brks g d br a off p => some { op := 0x189, pred := g.field, vd := d, a := a.field, ak := a.kind, b := p.field, imm := off.toNat, breg := br }
  | .brkg g d br a off p => some { op := 0x18A, pred := g.field, vd := d, a := a.field, ak := a.kind, b := p.field, imm := off.toNat, breg := br }
  | .atom g d op w64 lam acq rel sc br a off v => some { op := 0x1A0, pred := g.field, vd := d, a := a.field, ak := a.kind, b := v.field, bk := v.kind, mod := op.code + 16 * flagBit w64 + 32 * flagBit lam, imm := off.toNat, scope := sc.code, rel := flagBit rel, acq := flagBit acq, breg := br }
  | .atoms g d op w64 acq rel sc a off v => some { op := 0x1A1, pred := g.field, vd := d, a := a.field, ak := a.kind, b := v.field, bk := v.kind, mod := op.code + 16 * flagBit w64, imm := off.toNat, scope := sc.code, rel := flagBit rel, acq := flagBit acq }
  | .red g op w64 lam acq rel sc br a off v => some { op := 0x1A2, pred := g.field, a := a.field, ak := a.kind, b := v.field, bk := v.kind, mod := op.code + 16 * flagBit w64 + 32 * flagBit lam, imm := off.toNat, scope := sc.code, rel := flagBit rel, acq := flagBit acq, breg := br }
  | .acq g d mode sc br v => some { op := 0x1A3, pred := g.field, vd := d, b := v.field, bk := v.kind, mod := mode.code, scope := sc.code, breg := br }
  | .rel g mode sc br v => some { op := 0x1A4, pred := g.field, b := v.field, bk := v.kind, mod := mode.code, scope := sc.code, breg := br }
  | .fence g k sc => some { op := 0x1C0, pred := g.field, mod := k.code, scope := sc.code }
  | .bar g => some { op := 0x1C1, pred := g.field }
  | .arrive g d nr rel sc a off n => some { op := 0x1C2, pred := g.field, vd := d, a := a.field, ak := a.kind, mod := flagBit nr, imm := off.toNat, ximm := n, scope := sc.code, rel := flagBit rel }
  | .waitph g d poll acq sc a off p => some { op := 0x1C3, pred := g.field, vd := d, a := a.field, ak := a.kind, mod := flagBit poll, imm := off.toNat, ximm := flagBit p, scope := sc.code, acq := flagBit acq }
  | .segNew g d a off => some { op := 0x1C4, pred := g.field, vd := d, a := a.field, ak := a.kind, imm := off.toNat }
  | .segAttach g d win load name => some { op := 0x1C5, pred := g.field, vd := d, a := name.pair, mod := win + 4 * flagBit load + 8 * flagBit name.isReg, imm := name.low, ximm := name.high }
  | .segDetach g d win => some { op := 0x1C6, pred := g.field, vd := d, mod := win }
  | .segFree g d wb name => some { op := 0x1C7, pred := g.field, vd := d, a := name.pair, mod := 4 * flagBit wb + 8 * flagBit name.isReg, imm := name.low, ximm := name.high }
  | .segQuery g d name => some { op := 0x1C8, pred := g.field, vd := d, a := name.pair, mod := 8 * flagBit name.isReg, imm := name.low, ximm := name.high }
  | .mmaq g a off => some { op := 0x1E0, pred := g.field, a := a.field, ak := a.kind, imm := off.toNat }
  | .wbload g acq rel sc a off br => some { op := 0x1E1, pred := g.field, a := a.field, ak := a.kind, b := br, imm := off.toNat, scope := sc.code, rel := flagBit rel, acq := flagBit acq }
  | .cpq g acq rel sc a off br => some { op := 0x1E2, pred := g.field, a := a.field, ak := a.kind, b := br, imm := off.toNat, scope := sc.code, rel := flagBit rel, acq := flagBit acq }
  | .march g dt acq rel sc a off => some { op := 0x1E3, pred := g.field, a := a.field, ak := a.kind, mod := dt.code, imm := off.toNat, scope := sc.code, rel := flagBit rel, acq := flagBit acq }
  | .coll g d r op rop b64 acq rel sc a off br grp => some { op := 0x1E4, pred := g.field, vd := d, a := a.field, ak := a.kind, b := br, mod := 8 * flagBit r + op.code + 16 * rop.code + 256 * flagBit b64, imm := off.toNat, ximm := grp.toNat, scope := sc.code, rel := flagBit rel, acq := flagBit acq }
  | .enq g d rel sc a off h => some { op := 0x1E5, pred := g.field, vd := d, a := a.field, ak := a.kind, imm := off.toNat, ximm := h.toNat, scope := sc.code, rel := flagBit rel }
  | .calls g a b rec => some { op := 0x1E6, pred := g.field, a := a.field, ak := a.kind, b := b.field, bk := b.kind, imm := rec.toNat }
  | .emitp g a off => some { op := 0x1E7, pred := g.field, a := a.field, ak := a.kind, imm := off.toNat }
  | .tblend g op a b => some { op := 0x1E8, pred := g.field, a := a.field, ak := a.kind, b := b.field, mod := op.code }
  | .momacc g d rec a b => some { op := 0x1E9, pred := g.field, vd := d, a := a.field, ak := a.kind, b := b.field, bk := b.kind, mod := flagBit rec }
  | _ => none

/-- The instruction of row 0x00 that the fields give. -/
def Fields.row00 (f : Fields) : Option Instr :=
  match f.op % 32 with
  | 1 => some (Instr.iadd (Guard.ofField f.pred) f.vd (Src.ofField f.a f.ak) (Src.ofField f.b f.bk))
  | 2 => some (Instr.isub (Guard.ofField f.pred) f.vd (Src.ofField f.a f.ak) (Src.ofField f.b f.bk))
  | 3 => some (Instr.imul (Guard.ofField f.pred) f.vd (Src.ofField f.a f.ak) (Src.ofField f.b f.bk))
  | 4 => some (Instr.imulh (Guard.ofField f.pred) f.vd (Src.ofField f.a f.ak) (Src.ofField f.b f.bk))
  | 5 => some (Instr.umulh (Guard.ofField f.pred) f.vd (Src.ofField f.a f.ak) (Src.ofField f.b f.bk))
  | 6 => some (Instr.imin (Guard.ofField f.pred) f.vd (Src.ofField f.a f.ak) (Src.ofField f.b f.bk))
  | 7 => some (Instr.imax (Guard.ofField f.pred) f.vd (Src.ofField f.a f.ak) (Src.ofField f.b f.bk))
  | 8 => some (Instr.umin (Guard.ofField f.pred) f.vd (Src.ofField f.a f.ak) (Src.ofField f.b f.bk))
  | 9 => some (Instr.umax (Guard.ofField f.pred) f.vd (Src.ofField f.a f.ak) (Src.ofField f.b f.bk))
  | 10 => some (Instr.iabs (Guard.ofField f.pred) f.vd (Src.ofField f.a f.ak))
  | 11 => some (Instr.ineg (Guard.ofField f.pred) f.vd (Src.ofField f.a f.ak))
  | 12 => do
    let cc ← ICond.ofCode (f.mod % 8)
    return Instr.icmp (Guard.ofField f.pred) f.vd cc (Src.ofField f.a f.ak) (Src.ofField f.b f.bk)
  | 13 => do
    let cc ← ICond.ofCode (f.mod % 8)
    return Instr.ucmp (Guard.ofField f.pred) f.vd cc (Src.ofField f.a f.ak) (Src.ofField f.b f.bk)
  | 14 => some (Instr.iadd64 (Guard.ofField f.pred) f.vd (VSrc.ofField f.a) (VSrc.ofField f.b))
  | 15 => some (Instr.isub64 (Guard.ofField f.pred) f.vd (VSrc.ofField f.a) (VSrc.ofField f.b))
  | 16 => some (Instr.imul64 (Guard.ofField f.pred) f.vd (VSrc.ofField f.a) (VSrc.ofField f.b))
  | 17 => some (Instr.lea (Guard.ofField f.pred) f.vd (f.mod % 32) (Src.ofField f.a f.ak) (Src.ofField f.b f.bk))
  | 18 => some (Instr.idiv (Guard.ofField f.pred) f.vd (Src.ofField f.a f.ak) (Src.ofField f.b f.bk))
  | 19 => some (Instr.udiv (Guard.ofField f.pred) f.vd (Src.ofField f.a f.ak) (Src.ofField f.b f.bk))
  | 20 => some (Instr.irem (Guard.ofField f.pred) f.vd (Src.ofField f.a f.ak) (Src.ofField f.b f.bk))
  | 21 => some (Instr.urem (Guard.ofField f.pred) f.vd (Src.ofField f.a f.ak) (Src.ofField f.b f.bk))
  | _ => none

/-- The instruction of row 0x01 that the fields give. -/
def Fields.row01 (f : Fields) : Option Instr :=
  match f.op % 32 with
  | 0 => some (Instr.iaddi (Guard.ofField f.pred) f.vd (Src.ofField f.a f.ak) (BitVec.ofNat 16 f.imm))
  | 1 => some (Instr.imuli (Guard.ofField f.pred) f.vd (Src.ofField f.a f.ak) (BitVec.ofNat 16 f.imm))
  | 2 => do
    let cc ← ICond.ofCode (f.mod % 8)
    return Instr.icmpi (Guard.ofField f.pred) f.vd cc (Src.ofField f.a f.ak) (BitVec.ofNat 16 f.imm)
  | 3 => do
    let cc ← ICond.ofCode (f.mod % 8)
    return Instr.ucmpi (Guard.ofField f.pred) f.vd cc (Src.ofField f.a f.ak) (BitVec.ofNat 16 f.imm)
  | 4 => some (Instr.movi (Guard.ofField f.pred) f.vd (BitVec.ofNat 16 f.imm))
  | 5 => some (Instr.leai (Guard.ofField f.pred) f.vd (f.mod % 32) (Src.ofField f.a f.ak) (BitVec.ofNat 16 f.imm))
  | 6 => some (Instr.andi (Guard.ofField f.pred) f.vd (Src.ofField f.a f.ak) (BitVec.ofNat 16 f.imm))
  | 7 => some (Instr.ori (Guard.ofField f.pred) f.vd (Src.ofField f.a f.ak) (BitVec.ofNat 16 f.imm))
  | 8 => some (Instr.xori (Guard.ofField f.pred) f.vd (Src.ofField f.a f.ak) (BitVec.ofNat 16 f.imm))
  | 9 => some (Instr.shli (Guard.ofField f.pred) f.vd (Src.ofField f.a f.ak) (BitVec.ofNat 16 f.imm))
  | 10 => some (Instr.shri (Guard.ofField f.pred) f.vd (Src.ofField f.a f.ak) (BitVec.ofNat 16 f.imm))
  | 11 => some (Instr.sari (Guard.ofField f.pred) f.vd (Src.ofField f.a f.ak) (BitVec.ofNat 16 f.imm))
  | 12 => some (Instr.bfe (Guard.ofField f.pred) f.vd (bitOf f.mod 0) (Src.ofField f.a f.ak) (f.imm % 32) (f.imm / 32 % 64))
  | 13 => some (Instr.saddi (Guard.ofField f.pred) f.vd (SSrc.ofField f.a) (BitVec.ofNat 16 f.imm))
  | 14 => some (Instr.smovi (Guard.ofField f.pred) f.vd (BitVec.ofNat 16 f.imm))
  | 15 => some (Instr.csrr (Guard.ofField f.pred) f.vd (f.imm % 4096) (bitOf f.imm 12))
  | 16 => some (Instr.csrw (Guard.ofField f.pred) (f.imm % 4096) (bitOf f.imm 12) (Src.ofField f.a f.ak))
  | 17 => some (Instr.sysv (Guard.ofField f.pred) f.vd f.imm)
  | 18 => some (Instr.sleep (Guard.ofField f.pred) (BitVec.ofNat 16 f.imm))
  | 19 => some (Instr.bkpt (Guard.ofField f.pred) (BitVec.ofNat 16 f.imm))
  | 20 => some (Instr.trap (Guard.ofField f.pred) (BitVec.ofNat 16 f.imm))
  | 21 => some (Instr.detpt (Guard.ofField f.pred) (Src.ofField f.a f.ak) (BitVec.ofNat 16 f.imm))
  | _ => none

/-- The instruction of row 0x02 that the fields give. -/
def Fields.row02 (f : Fields) : Option Instr :=
  match f.op % 32 with
  | 0 => some (Instr.and (Guard.ofField f.pred) f.vd (Src.ofField f.a f.ak) (Src.ofField f.b f.bk))
  | 1 => some (Instr.or (Guard.ofField f.pred) f.vd (Src.ofField f.a f.ak) (Src.ofField f.b f.bk))
  | 2 => some (Instr.xor (Guard.ofField f.pred) f.vd (Src.ofField f.a f.ak) (Src.ofField f.b f.bk))
  | 3 => some (Instr.andn (Guard.ofField f.pred) f.vd (Src.ofField f.a f.ak) (Src.ofField f.b f.bk))
  | 4 => some (Instr.not (Guard.ofField f.pred) f.vd (Src.ofField f.a f.ak))
  | 5 => some (Instr.shl (Guard.ofField f.pred) f.vd (Src.ofField f.a f.ak) (Src.ofField f.b f.bk))
  | 6 => some (Instr.shr (Guard.ofField f.pred) f.vd (Src.ofField f.a f.ak) (Src.ofField f.b f.bk))
  | 7 => some (Instr.sar (Guard.ofField f.pred) f.vd (Src.ofField f.a f.ak) (Src.ofField f.b f.bk))
  | 8 => some (Instr.rol (Guard.ofField f.pred) f.vd (Src.ofField f.a f.ak) (Src.ofField f.b f.bk))
  | 9 => some (Instr.ror (Guard.ofField f.pred) f.vd (Src.ofField f.a f.ak) (Src.ofField f.b f.bk))
  | 10 => some (Instr.popc (Guard.ofField f.pred) f.vd (Src.ofField f.a f.ak))
  | 11 => some (Instr.clz (Guard.ofField f.pred) f.vd (Src.ofField f.a f.ak))
  | 12 => some (Instr.ctz (Guard.ofField f.pred) f.vd (Src.ofField f.a f.ak))
  | 13 => some (Instr.brev (Guard.ofField f.pred) f.vd (Src.ofField f.a f.ak))
  | 14 => some (Instr.mov (Guard.ofField f.pred) f.vd (Src.ofField f.a f.ak))
  | 15 => some (Instr.sel (Guard.ofField f.pred) f.vd (Src.ofField f.a f.ak) (Src.ofField f.b f.bk) (f.mod % 8) (bitOf f.mod 3))
  | 16 => do
    let op ← PlopOp.ofCode (f.mod % 16)
    return Instr.plop (Guard.ofField f.pred) f.vd op f.a f.b
  | 17 => some (Instr.p2v (Guard.ofField f.pred) f.vd (bitOf f.mod 0) f.a)
  | 18 => some (Instr.v2p (Guard.ofField f.pred) f.vd (Src.ofField f.a f.ak))
  | 19 => some (Instr.shape (Guard.ofField f.pred) f.vd (bitOf f.mod 0) (VSrc.ofField f.a))
  | 20 => some (Instr.expand (Guard.ofField f.pred) f.vd (VSrc.ofField f.a))
  | 21 => some (Instr.mkaff (Guard.ofField f.pred) f.vd (Src.ofField f.a f.ak) (Src.ofField f.b f.bk))
  | 22 => some (Instr.shrr (Guard.ofField f.pred) f.vd (bitOf f.mod 0) (bitOf f.mod 1) (Src.ofField f.a f.ak) (Src.ofField f.b f.bk))
  | _ => none

/-- The instruction of row 0x03 that the fields give. -/
def Fields.row03 (f : Fields) : Option Instr :=
  match f.op % 32 with
  | 0 => some (Instr.smov (Guard.ofField f.pred) f.vd (SSrc.ofField f.a))
  | 1 => some (Instr.sadd (Guard.ofField f.pred) f.vd (SSrc.ofField f.a) (SSrc.ofField f.b))
  | 2 => some (Instr.ssub (Guard.ofField f.pred) f.vd (SSrc.ofField f.a) (SSrc.ofField f.b))
  | 3 => some (Instr.smul (Guard.ofField f.pred) f.vd (SSrc.ofField f.a) (SSrc.ofField f.b))
  | 4 => some (Instr.sand (Guard.ofField f.pred) f.vd (SSrc.ofField f.a) (SSrc.ofField f.b))
  | 5 => some (Instr.sor (Guard.ofField f.pred) f.vd (SSrc.ofField f.a) (SSrc.ofField f.b))
  | 6 => some (Instr.sxor (Guard.ofField f.pred) f.vd (SSrc.ofField f.a) (SSrc.ofField f.b))
  | 7 => some (Instr.sshl (Guard.ofField f.pred) f.vd (SSrc.ofField f.a) (SSrc.ofField f.b))
  | 8 => some (Instr.sshr (Guard.ofField f.pred) f.vd (SSrc.ofField f.a) (SSrc.ofField f.b))
  | 9 => some (Instr.ssar (Guard.ofField f.pred) f.vd (SSrc.ofField f.a) (SSrc.ofField f.b))
  | 10 => some (Instr.smin (Guard.ofField f.pred) f.vd (bitOf f.mod 0) (SSrc.ofField f.a) (SSrc.ofField f.b))
  | 11 => some (Instr.smax (Guard.ofField f.pred) f.vd (bitOf f.mod 0) (SSrc.ofField f.a) (SSrc.ofField f.b))
  | 12 => do
    let cc ← ICond.ofCode (f.mod % 8)
    return Instr.scmp (Guard.ofField f.pred) f.vd cc (bitOf f.mod 3) (SSrc.ofField f.a) (SSrc.ofField f.b)
  | 13 => some (Instr.v2s (Guard.ofField f.pred) f.vd (VSrc.ofField f.a))
  | _ => none

/-- The instruction of row 0x04 that the fields give. -/
def Fields.row04 (f : Fields) : Option Instr :=
  match f.op % 32 with
  | 0 => some (Instr.brx (Guard.ofField f.pred) (bitOf f.mod 0) (Src.ofField f.a f.ak))
  | 1 => some (Instr.calli (Guard.ofField f.pred) (bitOf f.mod 0) (Src.ofField f.a f.ak))
  | 2 => some (Instr.ret (Guard.ofField f.pred))
  | 3 => some (Instr.exit (Guard.ofField f.pred))
  | 4 => some (Instr.nop (Guard.ofField f.pred))
  | 5 => some (Instr.rte (Guard.ofField f.pred))
  | 6 => some (Instr.getclk (Guard.ofField f.pred) f.vd)
  | 7 => some (Instr.getret (Guard.ofField f.pred) f.vd (bitOf f.mod 0))
  | _ => none

/-- The instruction of row 0x05 that the fields give. -/
def Fields.row05 (f : Fields) : Option Instr :=
  match f.op % 32 with
  | 0 => some (Instr.bra (Guard.ofField f.pred) (BitVec.ofNat 32 f.imm))
  | 1 => some (Instr.braU (Guard.ofField f.pred) (BitVec.ofNat 32 f.imm))
  | 2 => some (Instr.call (Guard.ofField f.pred) (BitVec.ofNat 32 f.imm))
  | 3 => some (Instr.yield (Guard.ofField f.pred) (BitVec.ofNat 32 f.imm))
  | 4 => some (Instr.phint (Guard.ofField f.pred) (BitVec.ofNat 32 f.imm))
  | 5 => some (Instr.movi32 (Guard.ofField f.pred) f.vd (BitVec.ofNat 32 f.imm))
  | 6 => some (Instr.iaddi32 (Guard.ofField f.pred) f.vd (Src.ofField f.a f.ak) (BitVec.ofNat 32 f.imm))
  | 7 => some (Instr.imuli32 (Guard.ofField f.pred) f.vd (Src.ofField f.a f.ak) (BitVec.ofNat 32 f.imm))
  | 8 => some (Instr.andi32 (Guard.ofField f.pred) f.vd (Src.ofField f.a f.ak) (BitVec.ofNat 32 f.imm))
  | 9 => some (Instr.ori32 (Guard.ofField f.pred) f.vd (Src.ofField f.a f.ak) (BitVec.ofNat 32 f.imm))
  | 10 => some (Instr.xori32 (Guard.ofField f.pred) f.vd (Src.ofField f.a f.ak) (BitVec.ofNat 32 f.imm))
  | 11 => do
    let rm ← Rm.ofCode (f.rm % 4)
    return Instr.faddi32 (Guard.ofField f.pred) f.vd rm (Src.ofField f.a f.ak) (BitVec.ofNat 32 f.imm)
  | 12 => do
    let rm ← Rm.ofCode (f.rm % 4)
    return Instr.fmuli32 (Guard.ofField f.pred) f.vd rm (Src.ofField f.a f.ak) (BitVec.ofNat 32 f.imm)
  | 13 => some (Instr.smovi32 (Guard.ofField f.pred) f.vd (BitVec.ofNat 32 f.imm))
  | 14 => some (Instr.nopw (Guard.ofField f.pred))
  | _ => none

/-- The instruction of row 0x06 that the fields give. -/
def Fields.row06 (f : Fields) : Option Instr :=
  match f.op % 32 with
  | 0 => do
    let rm ← Rm.ofCode (f.rm % 4)
    return Instr.fadd (Guard.ofField f.pred) f.vd rm (Src.ofField f.a f.ak) (Src.ofField f.b f.bk)
  | 1 => do
    let rm ← Rm.ofCode (f.rm % 4)
    return Instr.fsub (Guard.ofField f.pred) f.vd rm (Src.ofField f.a f.ak) (Src.ofField f.b f.bk)
  | 2 => do
    let rm ← Rm.ofCode (f.rm % 4)
    return Instr.fmul (Guard.ofField f.pred) f.vd rm (Src.ofField f.a f.ak) (Src.ofField f.b f.bk)
  | 3 => do
    let rm ← Rm.ofCode (f.rm % 4)
    return Instr.fdiv (Guard.ofField f.pred) f.vd rm (Src.ofField f.a f.ak) (Src.ofField f.b f.bk)
  | 4 => some (Instr.fmin (Guard.ofField f.pred) f.vd (Src.ofField f.a f.ak) (Src.ofField f.b f.bk))
  | 5 => some (Instr.fmax (Guard.ofField f.pred) f.vd (Src.ofField f.a f.ak) (Src.ofField f.b f.bk))
  | 6 => some (Instr.fabs (Guard.ofField f.pred) f.vd (Src.ofField f.a f.ak))
  | 7 => some (Instr.fneg (Guard.ofField f.pred) f.vd (Src.ofField f.a f.ak))
  | 8 => do
    let cc ← FCond.ofCode (f.mod % 8)
    return Instr.fcmp (Guard.ofField f.pred) f.vd cc (Src.ofField f.a f.ak) (Src.ofField f.b f.bk)
  | 9 => do
    let fmt ← Fmt.ofCode (f.mod % 4)
    return Instr.fclass (Guard.ofField f.pred) f.vd fmt (bitOf f.mod 2) (Src.ofField f.a f.ak)
  | 10 => do
    let rm ← Rm.ofCode (f.rm % 4)
    return Instr.fsqrt (Guard.ofField f.pred) f.vd rm (Src.ofField f.a f.ak)
  | 11 => some (Instr.frcp (Guard.ofField f.pred) f.vd (Src.ofField f.a f.ak))
  | 12 => some (Instr.frsq (Guard.ofField f.pred) f.vd (Src.ofField f.a f.ak))
  | 13 => some (Instr.fex2 (Guard.ofField f.pred) f.vd (Src.ofField f.a f.ak))
  | 14 => some (Instr.flg2 (Guard.ofField f.pred) f.vd (Src.ofField f.a f.ak))
  | 15 => some (Instr.fsin (Guard.ofField f.pred) f.vd (Src.ofField f.a f.ak))
  | 16 => some (Instr.fcos (Guard.ofField f.pred) f.vd (Src.ofField f.a f.ak))
  | 17 => some (Instr.ftanh (Guard.ofField f.pred) f.vd (Src.ofField f.a f.ak))
  | 18 => do
    let rm ← Rm.ofCode (f.rm % 4)
    return Instr.frint (Guard.ofField f.pred) f.vd rm (bitOf f.mod 0) (Src.ofField f.a f.ak)
  | _ => none

/-- The instruction of row 0x07 that the fields give. -/
def Fields.row07 (f : Fields) : Option Instr :=
  match f.op % 32 with
  | 0 => do
    let rm ← Rm.ofCode (f.rm % 4)
    return Instr.dadd (Guard.ofField f.pred) f.vd rm (VSrc.ofField f.a) (VSrc.ofField f.b)
  | 1 => do
    let rm ← Rm.ofCode (f.rm % 4)
    return Instr.dsub (Guard.ofField f.pred) f.vd rm (VSrc.ofField f.a) (VSrc.ofField f.b)
  | 2 => do
    let rm ← Rm.ofCode (f.rm % 4)
    return Instr.dmul (Guard.ofField f.pred) f.vd rm (VSrc.ofField f.a) (VSrc.ofField f.b)
  | 3 => do
    let rm ← Rm.ofCode (f.rm % 4)
    return Instr.ddiv (Guard.ofField f.pred) f.vd rm (VSrc.ofField f.a) (VSrc.ofField f.b)
  | 4 => some (Instr.dmin (Guard.ofField f.pred) f.vd (VSrc.ofField f.a) (VSrc.ofField f.b))
  | 5 => some (Instr.dmax (Guard.ofField f.pred) f.vd (VSrc.ofField f.a) (VSrc.ofField f.b))
  | 6 => some (Instr.dabs (Guard.ofField f.pred) f.vd (VSrc.ofField f.a))
  | 7 => some (Instr.dneg (Guard.ofField f.pred) f.vd (VSrc.ofField f.a))
  | 8 => do
    let cc ← FCond.ofCode (f.mod % 8)
    return Instr.dcmp (Guard.ofField f.pred) f.vd cc (VSrc.ofField f.a) (VSrc.ofField f.b)
  | 9 => do
    let rm ← Rm.ofCode (f.rm % 4)
    return Instr.dsqrt (Guard.ofField f.pred) f.vd rm (VSrc.ofField f.a)
  | 10 => do
    let rm ← Rm.ofCode (f.rm % 4)
    return Instr.drint (Guard.ofField f.pred) f.vd rm (bitOf f.mod 0) (VSrc.ofField f.a)
  | _ => none

/-- The instruction of row 0x08 that the fields give. -/
def Fields.row08 (f : Fields) : Option Instr :=
  match f.op % 32 with
  | 0 => do
    let rm ← Rm.ofCode (f.rm % 4)
    return Instr.hadd2 (Guard.ofField f.pred) f.vd rm (Src.ofField f.a f.ak) (Src.ofField f.b f.bk)
  | 1 => do
    let rm ← Rm.ofCode (f.rm % 4)
    return Instr.hmul2 (Guard.ofField f.pred) f.vd rm (Src.ofField f.a f.ak) (Src.ofField f.b f.bk)
  | 2 => some (Instr.hmin2 (Guard.ofField f.pred) f.vd (Src.ofField f.a f.ak) (Src.ofField f.b f.bk))
  | 3 => some (Instr.hmax2 (Guard.ofField f.pred) f.vd (Src.ofField f.a f.ak) (Src.ofField f.b f.bk))
  | 4 => do
    let cc ← FCond.ofCode (f.mod % 8)
    let comb ← Comb.ofCode (f.mod / 8 % 4)
    return Instr.hcmp2 (Guard.ofField f.pred) f.vd cc comb (Src.ofField f.a f.ak) (Src.ofField f.b f.bk)
  | 5 => do
    let rm ← Rm.ofCode (f.rm % 4)
    return Instr.badd2 (Guard.ofField f.pred) f.vd rm (Src.ofField f.a f.ak) (Src.ofField f.b f.bk)
  | 6 => do
    let rm ← Rm.ofCode (f.rm % 4)
    return Instr.bmul2 (Guard.ofField f.pred) f.vd rm (Src.ofField f.a f.ak) (Src.ofField f.b f.bk)
  | 7 => some (Instr.bmin2 (Guard.ofField f.pred) f.vd (Src.ofField f.a f.ak) (Src.ofField f.b f.bk))
  | 8 => some (Instr.bmax2 (Guard.ofField f.pred) f.vd (Src.ofField f.a f.ak) (Src.ofField f.b f.bk))
  | 9 => do
    let cc ← FCond.ofCode (f.mod % 8)
    let comb ← Comb.ofCode (f.mod / 8 % 4)
    return Instr.bcmp2 (Guard.ofField f.pred) f.vd cc comb (Src.ofField f.a f.ak) (Src.ofField f.b f.bk)
  | 10 => some (Instr.iadd2 (Guard.ofField f.pred) f.vd (bitOf f.mod 0) (bitOf f.mod 1) (Src.ofField f.a f.ak) (Src.ofField f.b f.bk))
  | 11 => some (Instr.isub2 (Guard.ofField f.pred) f.vd (bitOf f.mod 0) (bitOf f.mod 1) (Src.ofField f.a f.ak) (Src.ofField f.b f.bk))
  | 12 => some (Instr.imul2 (Guard.ofField f.pred) f.vd (bitOf f.mod 0) (bitOf f.mod 1) (Src.ofField f.a f.ak) (Src.ofField f.b f.bk))
  | 13 => some (Instr.imin2 (Guard.ofField f.pred) f.vd (bitOf f.mod 1) (Src.ofField f.a f.ak) (Src.ofField f.b f.bk))
  | 14 => some (Instr.imax2 (Guard.ofField f.pred) f.vd (bitOf f.mod 1) (Src.ofField f.a f.ak) (Src.ofField f.b f.bk))
  | 15 => some (Instr.iabs2 (Guard.ofField f.pred) f.vd (bitOf f.mod 0) (Src.ofField f.a f.ak))
  | 16 => some (Instr.ipack2 (Guard.ofField f.pred) f.vd (bitOf f.mod 0) (Src.ofField f.a f.ak) (Src.ofField f.b f.bk))
  | 17 => some (Instr.shrr2 (Guard.ofField f.pred) f.vd (bitOf f.mod 0) (bitOf f.mod 1) (Src.ofField f.a f.ak) (Src.ofField f.b f.bk))
  | _ => none

/-- The instruction of row 0x09 that the fields give. -/
def Fields.row09 (f : Fields) : Option Instr :=
  match f.op % 32 with
  | 0 => do
    let rm ← Rm.ofCode (f.rm % 4)
    let src ← Fmt.ofCode (f.mod % 4)
    let dst ← Fmt.ofCode (f.mod / 4 % 4)
    return Instr.cvtff (Guard.ofField f.pred) f.vd rm src dst (bitOf f.mod 4) (Src.ofField f.a f.ak) (Src.ofField f.b f.bk)
  | 1 => do
    let rm ← Rm.ofCode (f.rm % 4)
    let src ← Fmt.ofCode (f.mod % 4)
    let dst ← IntFmt.ofCode (f.mod / 4 % 4)
    return Instr.cvtfi (Guard.ofField f.pred) f.vd rm src dst (bitOf f.mod 4) (Src.ofField f.a f.ak)
  | 2 => do
    let rm ← Rm.ofCode (f.rm % 4)
    let dst ← Fmt.ofCode (f.mod % 4)
    let src ← IntFmt.ofCode (f.mod / 4 % 4)
    return Instr.cvtif (Guard.ofField f.pred) f.vd rm dst src (Src.ofField f.a f.ak) (Src.ofField f.b f.bk)
  | 3 => do
    let src ← IntType.ofCode (f.mod % 8)
    let dst ← IntType.ofCode (f.mod / 8 % 8)
    return Instr.cvtii (Guard.ofField f.pred) f.vd src dst (f.mod / 64 % 4) (bitOf f.mod 8) (Src.ofField f.a f.ak)
  | 4 => do
    let rm ← Rm.ofCode (f.rm % 4)
    return Instr.cvt8 (Guard.ofField f.pred) f.vd rm (bitOf f.mod 0) (bitOf f.mod 1) (bitOf f.mod 2) (f.mod / 8 % 4) (bitOf f.mod 5) (Src.ofField f.a f.ak) (Src.ofField f.b f.bk)
  | 5 => do
    let rm ← Rm.ofCode (f.rm % 4)
    return Instr.cvt4 (Guard.ofField f.pred) f.vd rm (bitOf f.mod 0) (f.mod / 2 % 8) (bitOf f.mod 4) (Src.ofField f.a f.ak) (Src.ofField f.b f.bk)
  | _ => none

/-- The instruction of row 0x0A that the fields give. -/
def Fields.row0A (f : Fields) : Option Instr :=
  match f.op % 32 with
  | 0 => do
    let mode ← ShflMode.ofCode (f.mod % 4)
    return Instr.shfl (Guard.ofField f.pred) f.vd mode (f.mod / 4 % 8) (Src.ofField f.a f.ak) (Src.ofField f.b f.bk)
  | 1 => some (Instr.bcast (Guard.ofField f.pred) f.vd (bitOf f.mod 0) (Src.ofField f.a f.ak) (Src.ofField f.b f.bk))
  | 2 => do
    let mode ← VoteMode.ofCode (f.mod % 8)
    return Instr.vote (Guard.ofField f.pred) f.vd mode (bitOf f.mod 3) f.a
  | 3 => do
    let rm ← Rm.ofCode (f.rm % 4)
    let op ← RedOp.ofCode (f.mod % 16)
    return Instr.redux (Guard.ofField f.pred) f.vd rm op (f.mod / 16 % 8) (Src.ofField f.a f.ak)
  | 4 => do
    let rm ← Rm.ofCode (f.rm % 4)
    let op ← RedOp.ofCode (f.mod % 16)
    return Instr.scan (Guard.ofField f.pred) f.vd rm op (bitOf f.mod 4) (Src.ofField f.a f.ak)
  | 5 => do
    let rm ← Rm.ofCode (f.rm % 4)
    let op ← RedOp.ofCode (f.mod % 16)
    return Instr.segred (Guard.ofField f.pred) f.vd rm op (Src.ofField f.a f.ak) f.b
  | 6 => some (Instr.match (Guard.ofField f.pred) f.vd (Src.ofField f.a f.ak))
  | 7 => some (Instr.intersect (Guard.ofField f.pred) f.vd (Src.ofField f.a f.ak) (Src.ofField f.b f.bk))
  | _ => none

/-- The instruction of row 0x0B that the fields give. -/
def Fields.row0B (f : Fields) : Option Instr :=
  match f.op % 32 with
  | 0 => some (Instr.imad (Guard.ofField f.pred) f.vd (Src.ofField f.a f.ak) (Src.ofField f.b f.bk) (Src.ofField f.c f.ck))
  | 1 => some (Instr.bfi (Guard.ofField f.pred) f.vd (Src.ofField f.a f.ak) (Src.ofField f.b f.bk) (f.ximm % 32) (f.ximm / 32 % 64))
  | 2 => some (Instr.bitfn (Guard.ofField f.pred) f.vd (f.mod / 16 % 16) (f.mod % 16) (Src.ofField f.a f.ak) (Src.ofField f.b f.bk) (Src.ofField f.c f.ck))
  | 3 => some (Instr.bytex (Guard.ofField f.pred) f.vd (BitVec.ofNat 16 f.ximm) (Src.ofField f.a f.ak) (Src.ofField f.b f.bk))
  | 4 => do
    let rm ← Rm.ofCode (f.rm % 4)
    return Instr.ffma (Guard.ofField f.pred) f.vd rm (Src.ofField f.a f.ak) (Src.ofField f.b f.bk) (Src.ofField f.c f.ck)
  | 5 => do
    let rm ← Rm.ofCode (f.rm % 4)
    return Instr.dfma (Guard.ofField f.pred) f.vd rm (VSrc.ofField f.a) (VSrc.ofField f.b) (VSrc.ofField f.c)
  | 6 => do
    let rm ← Rm.ofCode (f.rm % 4)
    return Instr.hfma2 (Guard.ofField f.pred) f.vd rm (Src.ofField f.a f.ak) (Src.ofField f.b f.bk) (Src.ofField f.c f.ck)
  | 7 => do
    let rm ← Rm.ofCode (f.rm % 4)
    return Instr.bfma2 (Guard.ofField f.pred) f.vd rm (Src.ofField f.a f.ak) (Src.ofField f.b f.bk) (Src.ofField f.c f.ck)
  | 8 => some (Instr.idp2 (Guard.ofField f.pred) f.vd (bitOf f.mod 0) (bitOf f.mod 1) (Src.ofField f.a f.ak) (Src.ofField f.b f.bk) (Src.ofField f.c f.ck))
  | 9 => do
    let fill ← Fill.ofCode (f.mod / 4 % 4)
    return Instr.slide (Guard.ofField f.pred) f.vd (bitOf f.mod 0) (bitOf f.mod 1) fill f.ximm (Src.ofField f.a f.ak) (Src.ofField f.b f.bk) (Src.ofField f.c f.ck)
  | 10 => do
    let op ← PruneOp.ofCode (f.mod % 64)
    return Instr.prune (Guard.ofField f.pred) f.vd (bitOf f.mod 6) op (Src.ofField f.a f.ak) (Src.ofField f.b f.bk) (Src.ofField f.c f.ck)
  | _ => none

/-- The instruction of row 0x0C that the fields give. -/
def Fields.row0C (f : Fields) : Option Instr :=
  match f.op % 32 with
  | 0 => do
    let op ← BrecOp.ofCode (f.mod % 16)
    return Instr.brec (Guard.ofField f.pred) f.vd op f.breg (Src.ofField f.a f.ak) (Src.ofField f.b f.bk) (BitVec.ofNat 32 f.imm)
  | 1 => do
    let wid ← Width.ofCode (f.mod % 8)
    let hint ← Hint.ofCode (f.mod / 8 % 4)
    let sc ← Scope.ofCode (f.scope % 8)
    return Instr.ld (Guard.ofField f.pred) f.vd wid hint (bitOf f.acq 0) sc f.breg (Src.ofField f.a f.ak) (BitVec.ofNat 32 f.imm)
  | 2 => do
    let wid ← Width.ofCode (f.mod % 8)
    let hint ← Hint.ofCode (f.mod / 8 % 4)
    let sc ← Scope.ofCode (f.scope % 8)
    return Instr.st (Guard.ofField f.pred) wid hint (bitOf f.rel 0) sc f.breg (Src.ofField f.a f.ak) (BitVec.ofNat 32 f.imm) (Src.ofField f.b f.bk)
  | 3 => do
    let wid ← Width.ofCode (f.mod % 8)
    return Instr.lds (Guard.ofField f.pred) f.vd wid (Src.ofField f.a f.ak) (BitVec.ofNat 32 f.imm)
  | 4 => do
    let wid ← Width.ofCode (f.mod % 8)
    return Instr.sts (Guard.ofField f.pred) wid (Src.ofField f.a f.ak) (BitVec.ofNat 32 f.imm) (Src.ofField f.b f.bk)
  | 5 => do
    let wid ← Width.ofCode (f.mod % 8)
    let hint ← Hint.ofCode (f.mod / 8 % 4)
    return Instr.gather (Guard.ofField f.pred) f.vd wid hint f.breg (Src.ofField f.a f.ak) (BitVec.ofNat 32 f.imm)
  | 6 => do
    let wid ← Width.ofCode (f.mod % 8)
    let hint ← Hint.ofCode (f.mod / 8 % 4)
    return Instr.scatter (Guard.ofField f.pred) wid hint f.breg (Src.ofField f.a f.ak) (BitVec.ofNat 32 f.imm) (Src.ofField f.b f.bk)
  | 7 => some (Instr.pref (Guard.ofField f.pred) (bitOf f.mod 0) f.breg (Src.ofField f.a f.ak) (BitVec.ofNat 32 f.imm))
  | 8 => some (Instr.discard (Guard.ofField f.pred) f.breg (Src.ofField f.a f.ak) (BitVec.ofNat 32 f.imm))
  | 9 => some (Instr.brks (Guard.ofField f.pred) f.vd f.breg (Src.ofField f.a f.ak) (BitVec.ofNat 32 f.imm) (VSrc.ofField f.b))
  | 10 => some (Instr.brkg (Guard.ofField f.pred) f.vd f.breg (Src.ofField f.a f.ak) (BitVec.ofNat 32 f.imm) (VSrc.ofField f.b))
  | _ => none

/-- The instruction of row 0x0D that the fields give. -/
def Fields.row0D (f : Fields) : Option Instr :=
  match f.op % 32 with
  | 0 => do
    let op ← AtomOp.ofCode (f.mod % 16)
    let sc ← Scope.ofCode (f.scope % 8)
    return Instr.atom (Guard.ofField f.pred) f.vd op (bitOf f.mod 4) (bitOf f.mod 5) (bitOf f.acq 0) (bitOf f.rel 0) sc f.breg (Src.ofField f.a f.ak) (BitVec.ofNat 32 f.imm) (Src.ofField f.b f.bk)
  | 1 => do
    let op ← AtomOp.ofCode (f.mod % 16)
    let sc ← Scope.ofCode (f.scope % 8)
    return Instr.atoms (Guard.ofField f.pred) f.vd op (bitOf f.mod 4) (bitOf f.acq 0) (bitOf f.rel 0) sc (Src.ofField f.a f.ak) (BitVec.ofNat 32 f.imm) (Src.ofField f.b f.bk)
  | 2 => do
    let op ← AtomOp.ofCode (f.mod % 16)
    let sc ← Scope.ofCode (f.scope % 8)
    return Instr.red (Guard.ofField f.pred) op (bitOf f.mod 4) (bitOf f.mod 5) (bitOf f.acq 0) (bitOf f.rel 0) sc f.breg (Src.ofField f.a f.ak) (BitVec.ofNat 32 f.imm) (Src.ofField f.b f.bk)
  | 3 => do
    let mode ← AcqMode.ofCode (f.mod % 4)
    let sc ← Scope.ofCode (f.scope % 8)
    return Instr.acq (Guard.ofField f.pred) f.vd mode sc f.breg (Src.ofField f.b f.bk)
  | 4 => do
    let mode ← RelMode.ofCode (f.mod % 4)
    let sc ← Scope.ofCode (f.scope % 8)
    return Instr.rel (Guard.ofField f.pred) mode sc f.breg (Src.ofField f.b f.bk)
  | _ => none

/-- The instruction of row 0x0E that the fields give. -/
def Fields.row0E (f : Fields) : Option Instr :=
  match f.op % 32 with
  | 0 => do
    let k ← FenceKind.ofCode (f.mod % 4)
    let sc ← Scope.ofCode (f.scope % 8)
    return Instr.fence (Guard.ofField f.pred) k sc
  | 1 => some (Instr.bar (Guard.ofField f.pred))
  | 2 => do
    let sc ← Scope.ofCode (f.scope % 8)
    return Instr.arrive (Guard.ofField f.pred) f.vd (bitOf f.mod 0) (bitOf f.rel 0) sc (Src.ofField f.a f.ak) (BitVec.ofNat 32 f.imm) (f.ximm % 16384)
  | 3 => do
    let sc ← Scope.ofCode (f.scope % 8)
    return Instr.waitph (Guard.ofField f.pred) f.vd (bitOf f.mod 0) (bitOf f.acq 0) sc (Src.ofField f.a f.ak) (BitVec.ofNat 32 f.imm) (bitOf f.ximm 0)
  | 4 => some (Instr.segNew (Guard.ofField f.pred) f.vd (Src.ofField f.a f.ak) (BitVec.ofNat 32 f.imm))
  | 5 => some (Instr.segAttach (Guard.ofField f.pred) f.vd (f.mod % 4) (bitOf f.mod 2) (SegName.ofFields f))
  | 6 => some (Instr.segDetach (Guard.ofField f.pred) f.vd (f.mod % 4))
  | 7 => some (Instr.segFree (Guard.ofField f.pred) f.vd (bitOf f.mod 2) (SegName.ofFields f))
  | 8 => some (Instr.segQuery (Guard.ofField f.pred) f.vd (SegName.ofFields f))
  | _ => none

/-- The instruction of row 0x0F that the fields give. -/
def Fields.row0F (f : Fields) : Option Instr :=
  match f.op % 32 with
  | 0 => some (Instr.mmaq (Guard.ofField f.pred) (Src.ofField f.a f.ak) (BitVec.ofNat 32 f.imm))
  | 1 => do
    let sc ← Scope.ofCode (f.scope % 8)
    return Instr.wbload (Guard.ofField f.pred) (bitOf f.acq 0) (bitOf f.rel 0) sc (Src.ofField f.a f.ak) (BitVec.ofNat 32 f.imm) f.b
  | 2 => do
    let sc ← Scope.ofCode (f.scope % 8)
    return Instr.cpq (Guard.ofField f.pred) (bitOf f.acq 0) (bitOf f.rel 0) sc (Src.ofField f.a f.ak) (BitVec.ofNat 32 f.imm) f.b
  | 3 => do
    let dt ← DepthTest.ofCode (f.mod % 4)
    let sc ← Scope.ofCode (f.scope % 8)
    return Instr.march (Guard.ofField f.pred) dt (bitOf f.acq 0) (bitOf f.rel 0) sc (Src.ofField f.a f.ak) (BitVec.ofNat 32 f.imm)
  | 4 => do
    let op ← CollOp.ofCode (f.mod % 8)
    let rop ← RedOp.ofCode (f.mod / 16 % 16)
    let sc ← Scope.ofCode (f.scope % 8)
    return Instr.coll (Guard.ofField f.pred) f.vd (bitOf f.mod 3) op rop (bitOf f.mod 8) (bitOf f.acq 0) (bitOf f.rel 0) sc (Src.ofField f.a f.ak) (BitVec.ofNat 32 f.imm) f.b (BitVec.ofNat 32 f.ximm)
  | 5 => do
    let sc ← Scope.ofCode (f.scope % 8)
    return Instr.enq (Guard.ofField f.pred) f.vd (bitOf f.rel 0) sc (Src.ofField f.a f.ak) (BitVec.ofNat 32 f.imm) (BitVec.ofNat 32 f.ximm)
  | 6 => some (Instr.calls (Guard.ofField f.pred) (Src.ofField f.a f.ak) (Src.ofField f.b f.bk) (BitVec.ofNat 32 f.imm))
  | 7 => some (Instr.emitp (Guard.ofField f.pred) (Src.ofField f.a f.ak) (BitVec.ofNat 32 f.imm))
  | 8 => do
    let op ← BlendOp.ofCode (f.mod % 8)
    return Instr.tblend (Guard.ofField f.pred) op (Src.ofField f.a f.ak) (VSrc.ofField f.b)
  | 9 => some (Instr.momacc (Guard.ofField f.pred) f.vd (bitOf f.mod 0) (Src.ofField f.a f.ak) (Src.ofField f.b f.bk))
  | _ => none

/-- The instruction that the fields give, before any check of them. -/
def Fields.instr (f : Fields) : Option Instr :=
  match f.op / 32 with
  | 0x00 => f.row00
  | 0x01 => f.row01
  | 0x02 => f.row02
  | 0x03 => f.row03
  | 0x04 => f.row04
  | 0x05 => f.row05
  | 0x06 => f.row06
  | 0x07 => f.row07
  | 0x08 => f.row08
  | 0x09 => f.row09
  | 0x0A => f.row0A
  | 0x0B => f.row0B
  | 0x0C => f.row0C
  | 0x0D => f.row0D
  | 0x0E => f.row0E
  | 0x0F => f.row0F
  | _ => none

/-- Is this the instruction of exactly these fields, and well formed? (R49, step 7 of R58) -/
def Fields.check (f : Fields) (i : Instr) : Bool := simtFields i == some f && WellFormed i

/-- Decodes an instruction word (R58, steps 2 to 7, without the fetch-block check). -/
def decodeWord (w : Nat) : Except DecodeError Instr :=
  if w % 4 = 3 then .error .badLength
  else if opAllocated (w / 4 % 1024) = false then .error .unallocated
  else
    match rowFormat (w / 4 % 1024 / 32) with
    | none => .error .unallocated
    | some fmt =>
      if fmt.len ≠ w % 4 then .error .wrongLength
      else if w / 2 ^ 12 % 16 = 15 then .error .neverPredicate
      else
        match (fmt.fields w).instr with
        | none => .error .badField
        | some i => if (fmt.fields w).check i then .ok i else .error .badField

/-- Bytes of the instruction whose first byte is `b` (R40). -/
def instrBytes (b : Byte) : Option Nat := if b.toNat % 4 = 3 then none else some (lenBytes (b.toNat % 4))

/-- Decodes the instruction that the bytes begin with, and answers the bytes after it. -/
def decode (bs : List Byte) : Except DecodeError (Instr × List Byte) :=
  match bs.head?.bind instrBytes with
  | none => .error .badLength
  | some n =>
    if bs.length < n then .error .crossesBlock
    else
      match decodeWord (leNat (bs.take n)) with
      | .error e => .error e
      | .ok i => .ok (i, bs.drop n)

/-- The instruction word of a SIMT instruction. -/
def Fields.encode (f : Fields) : Option Nat := (rowFormat (f.op / 32)).map f.word

/-- Bytes of a SIMT instruction; 0 for the rest. -/
def Instr.size (i : Instr) : Nat :=
  match simtFields i with
  | none => 0
  | some f =>
    match rowFormat (f.op / 32) with
    | none => 0
    | some fmt => lenBytes fmt.len

/-- The word and the immediates of a field operation (R248, R249). -/
def fieldWords : Instr → Option (Nat × List Word)
  | .fbcConst c => some (0x0400, [c])
  | .fbcPos i => some (0x0800 + i, [])
  | .fbcXform m => some (0x0C00, m.toList)
  | .fbcXpop => some (0x1000, [])
  | .fbcNop => some (0x1400, [])
  | .fbcAdd => some (0x2000, [])
  | .fbcSub => some (0x2400, [])
  | .fbcMul => some (0x2800, [])
  | .fbcDiv => some (0x2C00, [])
  | .fbcMin => some (0x3000, [])
  | .fbcMax => some (0x3400, [])
  | .fbcSmin k => some (0x3800, [k])
  | .fbcSmax k => some (0x3C00, [k])
  | .fbcAddc k => some (0x4000, [k])
  | .fbcRsubc k => some (0x4400, [k])
  | .fbcMulc k => some (0x4800, [k])
  | .fbcMinc k => some (0x4C00, [k])
  | .fbcMaxc k => some (0x5000, [k])
  | .fbcClamp l h => some (0x5400, [l, h])
  | .fbcNeg => some (0x6000, [])
  | .fbcAbs => some (0x6400, [])
  | .fbcSqrt => some (0x6800, [])
  | .fbcSqr => some (0x6C00, [])
  | .fbcSin => some (0x7000, [])
  | .fbcCos => some (0x7400, [])
  | .fbcFloor => some (0x7800, [])
  | .fbcFract => some (0x7C00, [])
  | .fbcLen2 => some (0x8000, [])
  | .fbcLen3 => some (0x8400, [])
  | .fbcMix => some (0x8800, [])
  | .fbcDup => some (0xA000, [])
  | .fbcDrop => some (0xA400, [])
  | .fbcSwap => some (0xA800, [])
  | .fbcOver => some (0xAC00, [])
  | .fbcRot => some (0xB000, [])
  | .fbcPick n => some (0xB400 + n, [])
  | .fbcBrick i => some (0xC000, [i])
  | .fbcCallout n k => some (0xC400 + n, [k])
  | .fbcEnd => some (0xFC00, [])
  | _ => none

/-- How many immediates the operation of an OPC takes; nothing where it is not allocated (R249). -/
def fieldImmediates (opc : Nat) : Option Nat :=
  match opc with
  | 0x01 => some 1
  | 0x03 => some 12
  | 0x0E | 0x0F | 0x10 | 0x11 | 0x12 | 0x13 | 0x14 => some 1
  | 0x15 => some 2
  | 0x30 | 0x31 => some 1
  | 0x02 | 0x04 | 0x05 | 0x08 | 0x09 | 0x0A | 0x0B | 0x0C | 0x0D => some 0
  | 0x18 | 0x19 | 0x1A | 0x1B | 0x1C | 0x1D | 0x1E | 0x1F | 0x20 | 0x21 | 0x22 => some 0
  | 0x28 | 0x29 | 0x2A | 0x2B | 0x2C | 0x2D | 0x3F => some 0
  | _ => none

/-- The field operation of an OPC, its ARG and its immediates, before any check (R249). -/
def fieldInstr (opc arg : Nat) (im : List Word) : Option Instr :=
  match opc, im with
  | 0x01, [c] => some (.fbcConst c)
  | 0x02, _ => some (.fbcPos arg)
  | 0x03, im => some (.fbcXform (Vector.ofFn fun k => im.getD k.val 0))
  | 0x04, _ => some .fbcXpop
  | 0x05, _ => some .fbcNop
  | 0x08, _ => some .fbcAdd
  | 0x09, _ => some .fbcSub
  | 0x0A, _ => some .fbcMul
  | 0x0B, _ => some .fbcDiv
  | 0x0C, _ => some .fbcMin
  | 0x0D, _ => some .fbcMax
  | 0x0E, [k] => some (.fbcSmin k)
  | 0x0F, [k] => some (.fbcSmax k)
  | 0x10, [k] => some (.fbcAddc k)
  | 0x11, [k] => some (.fbcRsubc k)
  | 0x12, [k] => some (.fbcMulc k)
  | 0x13, [k] => some (.fbcMinc k)
  | 0x14, [k] => some (.fbcMaxc k)
  | 0x15, [l, h] => some (.fbcClamp l h)
  | 0x18, _ => some .fbcNeg
  | 0x19, _ => some .fbcAbs
  | 0x1A, _ => some .fbcSqrt
  | 0x1B, _ => some .fbcSqr
  | 0x1C, _ => some .fbcSin
  | 0x1D, _ => some .fbcCos
  | 0x1E, _ => some .fbcFloor
  | 0x1F, _ => some .fbcFract
  | 0x20, _ => some .fbcLen2
  | 0x21, _ => some .fbcLen3
  | 0x22, _ => some .fbcMix
  | 0x28, _ => some .fbcDup
  | 0x29, _ => some .fbcDrop
  | 0x2A, _ => some .fbcSwap
  | 0x2B, _ => some .fbcOver
  | 0x2C, _ => some .fbcRot
  | 0x2D, _ => some (.fbcPick arg)
  | 0x30, [i] => some (.fbcBrick i)
  | 0x31, [k] => some (.fbcCallout arg k)
  | 0x3F, _ => some .fbcEnd
  | _, _ => none

/-- The immediates that follow an operation word. -/
def immediates : Nat → List Byte → List Word
  | 0, _ => []
  | n + 1, bs => BitVec.ofNat 32 (leNat (bs.take 4)) :: immediates n (bs.drop 4)

/-- Decodes the field operation that the bytes begin with; `bs` holds every byte before PROGLEN (R248). -/
def decodeField (bs : List Byte) : Except DecodeError (Instr × List Byte) :=
  if bs.length < 2 then .error .programEnd
  else
    match fieldImmediates (leNat (bs.take 2) / 1024) with
    | none => .error .badOperation
    | some n =>
      if bs.length < 2 + 4 * n then .error .programEnd
      else
        match fieldInstr (leNat (bs.take 2) / 1024) (leNat (bs.take 2) % 1024) (immediates n (bs.drop 2)) with
        | none => .error .badOperation
        | some i =>
          if fieldWords i = some (leNat (bs.take 2), immediates n (bs.drop 2)) ∧ WellFormed i = true then
            .ok (i, bs.drop (2 + 4 * n))
          else .error .badOperation

/-- The encoder: the bytes of an instruction or field operation, none for an event (R41, R248). -/
def encode (i : Instr) : List Byte :=
  match simtFields i with
  | some f =>
    match rowFormat (f.op / 32) with
    | some fmt => leBytes (lenBytes fmt.len) (f.word fmt)
    | none => []
  | none =>
    match fieldWords i with
    | some (w, im) => leBytes 2 w ++ im.flatMap fun k => leBytes 4 k.toNat
    | none => []

/-- The bytes that hold an instruction whose bits are `w`: little-endian, bits above `nbits` zero (R41, R248). -/
def tableBytes (w : Nat) : List Byte := leBytes 64 w

/-- Is a row of so many bits one of the field bytecode? A SIMT instruction has 64, 96 or 128. -/
def fieldWidth (nbits : Nat) : Bool := nbits == 16 || nbits == 48 || nbits == 80 || nbits == 400

/-- What the decoder reads from an instruction whose bits are `w`. -/
def decodeTableWord (nbits w : Nat) : Option Instr :=
  if fieldWidth nbits then
    match decodeField (tableBytes (w % 2 ^ nbits)) with
    | .ok p => some p.1
    | .error _ => none
  else
    match decode (tableBytes (w % 2 ^ nbits)) with
    | .ok p => some p.1
    | .error _ => none

end Sys2Proof
end

