-- ==== Sys2Proof/Machine/Schedule.lean ====
section
/-! DEFINITION. Time and choice: the counters that every cycle moves (R34, R136, R187, R242, R312, R337, R338, R347, R386,
R394, R398, R436), and the run and the warp that issue (R98, R100, R336, R337, R343). -/

namespace Sys2Proof.Machine

/-! ### Time -/

/-- A count that falls by n cycles and ends at 1. -/
def fallTo1 (c n : Nat) : Nat := if c ≤ 1 then c else max 1 (c - n)

/-- Could a warp issue, the instruction apart: has it a runnable thread, is it neither asleep nor set aside, and has every
late write found its slot? (R20, R336) -/
def Warp.wakeful (w : Warp) : Bool := w.runnable != 0 && w.sleep == 0 && w.aside == 0 && !w.fetchFault && w.stuck.isEmpty

/-- A warp after n cycles. -/
def Warp.pass (w : Warp) (n : Nat) : Warp :=
  { w with
    sleep := fallTo1 w.sleep n
    aside := fallTo1 w.aside n
    khbudget := if w.hndl then w.khbudget - n else w.khbudget }

/-- A block after n cycles; `held` says that a handler of it runs, which stops KDEADLINE; it falls again from the second cycle
after the handler's end on, having kept its value in the first (R394). -/
def Block.pass (b : Block) (held : Bool) (n : Nat) : Block :=
  { b with
    held := held
    kdeadline := if b.pending && !b.saving && !held then b.kdeadline - (n - if b.held then 1 else 0) else b.kdeadline
    saveAge := if b.saving then b.saveAge + n else b.saveAge
    ran := b.ran + n
    collator := b.collator.map fun (c : Window) => if c.closed then c else { c with age := c.age + n } }

/-- A launch after n cycles. -/
def Launch.pass (l : Launch) (n : Nat) : Launch :=
  { l with waiting := l.waiting.map fun (w : Nat × Nat × Nat) => (w.1, w.2.1, w.2.2 + n) }

/-- A core after n cycles. -/
def Core.pass (c : Core) (n : Nat) : Core :=
  { c with collectorAge := if c.collector.isEmpty then c.collectorAge else c.collectorAge + n }

/-- Does a handler of a block stop its KDEADLINE? (R394) -/
def State.masked (s : State) (bk : Nat) : Bool := (s.blockWarps bk).any fun q => q.2.tmask

/-- n cycles pass. -/
def State.pass (s : State) (n : Nat) : State :=
  { s with
    clk := s.clk + n
    warps := s.warps.map fun (p : Nat × Warp) => (p.1, p.2.pass n)
    blocks := s.blocks.map fun (p : Nat × Block) => (p.1, p.2.pass (s.masked p.1) n)
    launches := s.launches.map fun (p : Nat × Launch) => (p.1, p.2.pass n)
    cores := s.cores.map fun (p : Nat × Core) => (p.1, p.2.pass n)
    saved := s.saved.map fun (p : Nat × Saved) => (p.1, { p.2 with waited := p.2.waited + n }) }

/-- Does a core issue in at most one cycle of two: power above its limit, or a hot core whose blocks may not leave it
(R347, R436)? -/
def State.slowed (s : State) (core : Nat) : Bool :=
  s.mss.throttled || ((s.core core).hot && (s.coreBlocks core).any fun p => p.2.phase == .running && !s.eligible p.1)

/-- The state after an event that cannot stop. -/
def resState (s : State) (r : Res) : State :=
  match r with
  | .next t => t
  | _ => s

/-- Handlers whose budget is spent: their blocks are killed in that cycle, before anything issues (R386, R405). -/
def State.endHandlers (s : State) : State :=
  (s.warps.filter fun p => p.2.hndl && p.2.khbudget == 0).foldl (fun t p => resState t (execHandlerBudgetExpiry p.1 t)) s

/-- What has become due by a cycle takes place before anything else in it: the completion of a barrier whose last access has
been performed, a cooperative save at its first cycle, the save of an expired deadline, the kill of a save that is too old, the
closing of a collector's window, and what a port's limits bring (R187, R200, R381, R395, R396, R398, R405, R422, R423). -/
def State.overdue (s : State) : State :=
  let t := s.endHandlers
  let t := (t.blocks.filter fun p => p.2.arrivals != 0).foldl (fun t p => t.checkBarrier p.1) t
  let t := (t.blocks.filter fun p => p.2.pending).foldl (fun t p => resState t (execCooperativeSave p.1 t)) t
  let t := (t.blocks.filter fun p => p.2.pending && p.2.kdeadline == 0).foldl (fun t p => resState t (execDeadlineExpiry p.1 t)) t
  let t := (t.blocks.filter fun p => p.2.saveLate).foldl (fun t p => resState t (execSaveWatchdog p.1 t)) t
  let t := (t.cores.filter fun p => !p.2.collector.isEmpty).foldl (fun t p => resState t (execCollectorWindowClose p.1 t)) t
  t.ports.foldl (fun t p =>
    let t := resState t (execAckTimeout p.1 t)
    let t := resState t (execTrainTimeout p.1 t)
    let t := resState t (execRetrainTimeout p.1 t)
    resState t (execLinkDownLimit p.1 t)) t

/-- The cycles left of the counts that end in something. -/
def State.limits (s : State) : List Nat :=
  ((s.warps.filter fun p => p.2.hndl).map fun p => p.2.khbudget) ++
    ((s.blocks.filter fun p => p.2.pending && !p.2.saving && !s.masked p.1).map fun p =>
      p.2.kdeadline + if p.2.held then 1 else 0) ++
    ((s.cores.filter fun p => !p.2.collector.isEmpty).map fun p => 64 - p.2.collectorAge) ++
    (s.blocks.filter fun p => p.2.saving).map fun p => 2 ^ 24 - p.2.saveAge

/-- n cycles pass, cut where a count ends; at most f cuts are made. -/
def State.elapse (s : State) : Nat → Nat → State
  | 0, n => (s.overdue.pass n).endHandlers
  | f + 1, n =>
    let t := s.overdue
    match t.limits.filter fun k => decide (0 < k) && decide (k < n) with
    | [] => (t.pass n).endHandlers
    | k :: ks => (t.pass (ks.foldl min k)).elapse f (n - ks.foldl min k)

/-- Cycles from the step before to this one: at least one; the manual gives minima only, so the rest is free (log entry 3). -/
def State.cycles (s : State) : Nat := 1 + Config.stall s.draws

/-- Time passes up to a step, and a fatal dump under way goes on (R440). -/
def State.tick (s : State) : State :=
  let t := s.elapse (2 * (s.warps.length + s.blocks.length + s.cores.length)) s.cycles
  { t with draws := t.draws + 1 }.dumpOn

/-! ### The run that issues (R98, R100) -/

/-- Does a warp issue: its block runs; or is being saved, while its callables return and an instruction that was performed in
part is completed? (R102, R370, R396) -/
def State.issues (s : State) (slot : Nat) (w : Warp) : Bool :=
  let b := s.block w.blk
  (b.phase == .running || (b.saving && (w.callable.isSome || s.owes slot))) && !s.mss.asleep

/-- The warp in a slot with the run that it would issue; nothing when it has none. -/
def State.candidate (s : State) (slot : Nat) : Option (Warp × LaneMask × BitVec 55) :=
  match Map.find s.warps slot with
  | some w => if w.wakeful && s.issues slot w then w.nextRun.map fun r => (w, r.1, r.2) else none
  | none => none

/-! ### The warp that issues (R337, R343) -/

/-- The place of a sequence number's warp in its turn, counted from the one after the last issuer. -/
def turnPlace (last slot : Nat) : Nat := (slot % 8 + 7 - last % 8) % 8

/-- Is a warp before another in its partition's choice? (R337) -/
def State.chosenBefore (s : State) (p q : Nat × Warp) : Bool :=
  let late (w : Warp) : Bool := decide (64 ≤ w.waitCount)
  let last := (s.core (slotCore p.1)).lastIssued.get (Fin.ofNat 32 (slotPart p.1))
  if late p.2 != late q.2 then late p.2
  else if p.2.seqno != q.2.seqno then decide (p.2.seqno < q.2.seqno)
  else decide (turnPlace last p.1 < turnPlace last q.1)

/-- The position of a slot in the rotation of proof mode, from the one where the next step looks first (R343). -/
def State.rotated (s : State) (p : Nat × Warp) : Nat :=
  let r := (s.launch (s.block p.2.blk).launch).rotate
  (p.1 % 256 + 256 - r % 256) % 256

/-- Warps in the order in which a step without an agenda tries them: partitions in turn, in a partition by R337; in proof
mode the rotation decides which of them issues (State.inRotation). -/
def State.issueOrder (s : State) : List Nat :=
  let ps := (s.warps.map fun p => p.1 / 8).dedup
  let n := s.clk % (ps.length + 1)
  (ps.drop n ++ ps.take n).flatMap fun p =>
    (sortBy s.chosenBefore (s.warps.filter fun q => q.1 / 8 == p)).map Prod.fst

/-- What was read outside the device for waiting instructions of a launch in proof mode, and did not let them go on: each
step looks anew (R343). -/
def State.lookAgain (s : State) (lk : Nat) : State :=
  { s with ext := s.ext.filter fun r => match r.who with
      | .warp k => !(r.data.isSome && !r.owed && (r.parts.any fun p => p.reg == keptReg) && (s.block (s.warp k).blk).launch == lk)
      | _ => true }

/-- A warp has issued: its partition's turn moves on, it no longer holds back those that yielded to it, and in proof mode the
rotation goes on and the collator's part of the step is performed (R135, R337, R343). -/
def State.hasIssued (s : State) (slot lk : Nat) : State :=
  let c := s.core (slotCore slot)
  let p := slotPart slot
  let t := s.setCore (slotCore slot) { c with
    lastIssued := Vector.ofFn fun i => if i.val = p then slot % 8 else c.lastIssued[i] }
  let t := { t with warps := t.warps.map fun (q : Nat × Warp) =>
    (q.1, { q.2 with asidePeers := q.2.asidePeers.filter fun k => k != slot }) }
  match Map.find t.launches lk with
  | some l =>
    if l.proof then
      (t.blocks.filter fun p => p.2.launch == lk).foldl (fun t p => t.formAll p.1)
        ((t.lookAgain lk).setLaunch lk { l with rotate := (slot % 256 + 1) % 256 })
    else t
  | none => t

/-! ### Events that come by themselves -/

/-- Events of one warp that may be due. -/
def warpDue (slot : Nat) (w : Warp) : List Instr :=
  w.inflight.flatMap (fun f => (LaneMask.lanes (f.due &&& ~~~f.held)).map fun l => Instr.longLatencyWriteback slot f.reg l.val) ++
    (w.waits.zipIdx.flatMap fun (x : Wait × Nat) => (LaneMask.lanes x.1.due).map fun l =>
      if x.1.guard then Instr.guardWaitSatisfied slot x.2 l.val else Instr.phaseWaitSatisfied slot x.2 l.val) ++
    listIf (w.aside != 0) (Instr.yieldRelease slot) ++ listIf (w.sleep == 1) (Instr.sleepEnd slot) ++
    listIf (w.hndl && w.khbudget == 0) (Instr.handlerBudgetExpiry slot)

/-- Events of one block that may be due. -/
def blockDue (bk : Nat) (b : Block) : List Instr :=
  listIf (b.pending && b.kdeadline == 0) (Instr.deadlineExpiry bk) ++ listIf b.pending (Instr.cooperativeSave bk) ++
    listIf b.saveLate (Instr.saveWatchdog bk) ++ listIf b.saving (Instr.saveComplete bk) ++
    listIf (b.phase == .starting || b.phase == .restoring) (Instr.blockStart bk) ++
    (b.collator.map fun (c : Window) => Instr.collatorWindowTimeout bk c.target.toNat) ++
    listIf (!b.collator.isEmpty) (Instr.collatorWarpForm bk) ++
    listIf (!b.copyQ.isEmpty) (Instr.cpqCompletion bk) ++ listIf (!b.copyQ.isEmpty) (Instr.copyCommandStart bk) ++
    listIf (!b.matrixQ.isEmpty) (Instr.matrixTile (clusterOf (blockCore bk))) ++
    listIf (b.phase == .ended) (Instr.blockCompletion bk)

/-- Events that may be due, and that a step without an agenda tries (log entry 1). -/
def State.due (s : State) : List Instr :=
  (s.warps.flatMap fun (p : Nat × Warp) => warpDue p.1 p.2) ++
    (s.cores.filter fun (p : Nat × Core) => !p.2.collector.isEmpty).map (fun (p : Nat × Core) => Instr.collectorWindowClose p.1) ++
    (s.blocks.flatMap fun (p : Nat × Block) => blockDue p.1 p.2) ++
    (s.launches.filter fun (p : Nat × Launch) => p.2.offers).map fun (p : Nat × Launch) => Instr.launchMessage p.1 0

/-- The work of the bring-up stage (R441). -/
def State.bringup (s : State) : Option Instr :=
  match s.mss.stage with
  | 0 => some .bringupRom
  | 1 => some .bringupRom
  | 2 => some .bringupTest
  | 3 => some .bringupConfig
  | 4 => some .bringupFabric
  | _ => none

end Sys2Proof.Machine
end

