-- ==== Sys2Proof/Machine/Fetch.lean ====
section
/-! DEFINITION. Instruction fetch (R42, R43, R58 step 1, R387, R409) and the fetch of a field operation (R248), and the
placing of one instruction where the next step fetches it. -/

namespace Sys2Proof.Machine

/-- Who fetches for a warp. -/
def State.fetcher (s : State) (slot : Nat) : Party :=
  let l := s.launch (s.block (s.warp slot).blk).launch
  ⟨l.ctx, 2 ^ 40, .fetch slot, slotCore slot, l.queue, 2⟩

/-- `n` bytes of code at an address as they stood when a launch began, through its page tables of then: nothing where the page
was not mapped, or not in this device's memory (R43; log entry 21). -/
def CodeImage.bytes (o : CodeImage) (root va n : Nat) : Option (List Byte) :=
  match leafOf o.mem va 4 root with
  | some (_, e, large) =>
    if bitOf e 10 || bitOf e 11 || bitsOf e 51 38 != 0 then none
    else if bitOf e 8 then some (List.replicate n 0)
    else some (o.mem.bytes (bitsOf e 51 16 * 2 ^ 16 + va % pageBytes large) n)
  | none => none

/-- Has the launch of an image written a part of the word at a location? -/
def CodeImage.wrote (o : CodeImage) (loc : Nat) : Bool :=
  o.own.any fun r => decide (r.1 < loc + 4) && decide (loc < r.1 + r.2)

/-- Words of code at a location as a launch sees them: each as it stood when the launch began; one that the launch itself has
written holds that or its new value (R43). -/
def State.codeWords (s : State) (o : CodeImage) : Nat → List Byte → List Byte → List Byte
  | loc, a :: b :: c :: d :: old, e :: f :: g :: h :: new =>
    (if o.wrote loc && !Config.oldWord s.draws (loc / 4) then [e, f, g, h] else [a, b, c, d]) ++ s.codeWords o (loc + 4) old new
  | _, _, new => new

/-- The bytes of a fetch as the launch of a warp sees them (R43). -/
def State.asBegun (s : State) (slot va loc : Nat) (bs : List Byte) : List Byte :=
  let b := s.block (s.warp slot).blk
  match s.oldCode.find? fun o => o.launch == b.launch with
  | none => bs
  | some o =>
    match o.bytes (s.ctx (s.launch b.launch).ctx).root va bs.length with
    | some old => s.codeWords o loc old bs
    | none => bs

/-- The bytes from a PC to the end of its fetch block: a wait with what it set in motion, or a refusal (R42, R387, R409). -/
def State.code (s : State) (slot : Nat) (pc : VAddr) : Got :=
  let p := s.fetcher slot
  let va := pc.toNat
  let n := 32 - va % 32
  let run := ((s.warp slot).nextRun.map Prod.fst).getD 0
  let here := s.resume slot run pc
  match s.walk p.ctx .exec va with
  | .denied => .denied
  | .moving => .wait s
  | .fault r =>
    let t := here.faultLane p false va r run.lowest.val
    .wait (t.setWarp slot { t.warp slot with fetchFault := true })
  | .ok x =>
    if s.waitsOn p.ctx p.who va 1 then .wait s
    else
      match s.pieceBytes p [] x n with
      | some bs => .ok (s.asBegun slot va x.loc bs)
      | none => .wait (here.askKept p msgRead x.loc n 0 [])

/-- The warp of a slot is to execute an instruction: the record of what is being executed. -/
def State.at' (s : State) (slot : Nat) (run : LaneMask) (pc : VAddr) (size : Nat) : State :=
  { s with cur := ⟨slot, run, pc, size⟩ }

/-- A fetch that succeeded leaves nothing behind. -/
def State.fetched (s : State) (slot : Nat) : State :=
  let p := s.fetcher slot
  (s.dropKept p.who).settle p.ctx p.who

/-- A step of the ray whose turn it is: the bytes of its program from its place on (R248). -/
def State.fieldCode (s : State) (c : Cmd) (e : Eval) : List Byte :=
  let n := min 64 (mrProgLen c.desc - e.pc)
  leBytes n (s.sramNat s.ray.1 (mrProg c.desc + e.pc) n)

/-! ### One instruction placed -/

/-- The page tables of one placed page: a table at each level, and a page that may be read, written and executed. -/
def placedTables : Mem :=
  let e (a : Nat) : Nat := a + 1
  let m := Mem.write [] 0x1000 8 (e 0x2000)
  let m := Mem.write m 0x2000 8 (e 0x3000)
  let m := Mem.write m 0x3000 8 (e 0x4000)
  let m := Mem.write m 0x4000 8 (e 0x5000)
  Mem.write m 0x5000 8 (0x10000 + 0x3D)

/-- The launch of a placed instruction: one block of one warp with 128 registers. -/
def placedLaunch : Launch :=
  { Launch.blank with
    phase := .running
    lpb := leBytes 8 0 ++ leBytes 8 0 ++ leBytes 4 1 ++ leBytes 4 1 ++ leBytes 4 1 ++ leBytes 2 32 ++ leBytes 2 1 ++ leBytes 2 1 ++
      leBytes 2 128 ++ leBytes 12 0 ++ leBytes 4 0x10000 ++ List.replicate 204 0
    last := 1
    nextBlock := 1 }

/-- The warp of a placed instruction: 32 live threads at address 0. -/
def placedWarp : Warp :=
  { Warp.blank with lanes := Vector.replicate 32 { Lane.none with st := .live } }

/-- Sets up a machine in which one launch runs one block of one warp. -/
def State.placed (s : State) (mem area : Mem) : State :=
  { s with
    mem := mem
    ctxs := Map.set s.ctxs 0 { Context.reset with root := 0x1000, en := true }
    launches := Map.set s.launches 0 placedLaunch
    blocks := Map.set s.blocks 0 { Block.blank with phase := .running, area := area }
    warps := Map.set s.warps 0 placedWarp }

/-- A position of zero. -/
def zeroFrame : Frame := ⟨⟨0, 0, none⟩, ⟨0, 0, none⟩, ⟨0, 0, none⟩⟩

/-- A ray in the evaluation of a program at its first operation, with operands and a saved frame at hand. -/
def placedRay : Ray :=
  { Ray.fresh (Vector.replicate 8 0) with
    w := none
    eval := some ⟨.point, 16, List.replicate 16 ⟨0, 0, none⟩, [zeroFrame], zeroFrame, false⟩ }

/-- A MARCH command with one ray, its program of 80 bytes at 0x1000 of the block area. -/
def placedMarch : Cmd :=
  let d := leBytes 4 0x100 ++ leBytes 4 1 ++ leBytes 4 0x1000 ++ leBytes 4 80 ++ leBytes 4 0x200 ++ List.replicate 44 0
  { Cmd.fresh (.march .none) d 0 0 0 false false .blk none with started := true, accepted := true, rays := [(0, placedRay)] }

/-- A SIMT instruction's bytes placed at the address of a warp's only run, which is to issue next. -/
def State.placeCode (s : State) (bs : List Byte) : State :=
  { s.placed (placedTables.putBytes 0x10000 bs) [] with agenda := [.issue 0] }

/-- A field operation's bytes placed at the place of a ray's evaluation, which is to go on next. -/
def State.placeField (s : State) (bs : List Byte) : State :=
  let t := s.placed placedTables (Mem.putBytes [] 0x1010 bs)
  { t.setBlock 0 { t.block 0 with marchQ := [placedMarch] } with agenda := [.ray 0 0] }

end Sys2Proof.Machine
end

