-- ==== Sys2Proof/Machine/Turn.lean ====
section
/-! DEFINITION. The turns of a step: an instruction of a warp, an operation of a ray, an event, and what moves without an
agenda (R58, R98, R248, R251). -/

namespace Sys2Proof.Machine

/-- The threads of every warp. -/
def State.places (s : State) : List (Nat × Vector Lane 32) := s.warps.map fun (p : Nat × Warp) => (p.1, p.2.lanes)

/-- Are two states the same, apart from the record of what is being executed? The threads are compared first, which mostly
settles it. -/
def State.alike (s t : State) : Bool := t.places == s.places && { t with cur := s.cur, ray := s.ray } == s

/-- Does an answer leave the state as it was? -/
def isIdle (r : Res) (s : State) : Bool :=
  match r with
  | .next t => s.alike t
  | _ => false

/-- The executing run meets what its bytes decode to (R42, R58 steps 2 to 7). -/
def State.run (s : State) (slot : Nat) (run : LaneMask) (pc : VAddr) (bs : List Byte) : Res :=
  match decode bs with
  | .ok (i, _) => exec i (s.at' slot run pc i.size)
  | .error .crossesBlock => (s.at' slot run pc 0).trap 0x02 0
  | .error _ => (s.at' slot run pc 0).trap 0x01 0

/-- A warp issues one instruction of a run: a trap that was due before its first, else the fetch and the instruction
(R58, R98, R237, R309). -/
def State.issueRun (s : State) (slot : Nat) (w : Warp) (run : LaneMask) (pc : VAddr) : Res :=
  match w.firstTrap with
  | some (code, detail) => (s.at' slot run pc 0).trap code detail
  | none =>
    match s.code slot pc with
    | .wait t => .next t
    | .denied => (s.at' slot run pc 0).trap 0x08 4
    | .ok bs => (s.fetched slot).run slot run pc bs

/-- Has a warp issued: are its threads elsewhere, has it left, or has its launch retired a step? An instruction that waits, only
asks outside the device or only meets a fault has not issued (R343). -/
def State.moved (s t : State) (slot lk : Nat) : Bool :=
  match Map.find t.warps slot with
  | none => true
  | some w => w.lanes != (s.warp slot).lanes || w.waitCount != (s.warp slot).waitCount ||
    (t.launch lk).retired != (s.launch lk).retired

/-- What a warp does when it is chosen. -/
def State.issue (s : State) (slot : Nat) : Res :=
  match s.candidate slot with
  | none => .fault .noRun
  | some (w, run, pc) => s.issueRun slot w run (pcAddr pc)

/-- The turn of a ray: one operation of its program (R248, R251). -/
def State.rayTurn (s : State) (bk r : Nat) : Res :=
  let s := { s with ray := (bk, r) }
  match s.evaluating with
  | none => .fault .noRun
  | some (c, x, e) =>
    match decodeField (s.fieldCode c e) with
    | .ok (i, _) => exec i s
    | .error .programEnd => .next (s.setRay (x.finish 6))
    | .error _ => .next (s.setRay (x.finish 5))

/-- Would a warp get something done? -/
def State.canIssue (s : State) (slot : Nat) : Bool :=
  (s.candidate slot).isSome && !isIdle (s.issue slot) s

/-- Would a warp issue? (R336) -/
def State.ready (s : State) (slot : Nat) : Bool :=
  (s.candidate slot).isSome && match s.issue slot with
    | .next t => s.moved t slot (s.block (s.warp slot).blk).launch
    | _ => true

/-- Is a warp in the middle of a step: does an access of it outside the device go on, or wait on a fault? (R343) -/
def State.midStep (s : State) (slot ctx : Nat) : Bool :=
  (s.ext.any fun r => (r.who == .warp slot || r.who == .fetch slot) && (r.data.isNone || r.owed)) ||
    s.faulted ctx (.warp slot) || s.faulted ctx (.fetch slot)

/-- Is the step before complete: has no block of a launch an engine command left, and no other warp an access in progress?
The first step is taken once every block that the core can take has started, and the first after a restore once every block of
it goes on. A pending request holds the next step, its save being made between the two, unless an ACTIVATE's pause puts it
off; a handler and an instruction in progress go on to their end before that (R343, R346, R361, R395, R439, R451). -/
def State.stepOver (s : State) (lk slot : Nat) : Bool :=
  let l := s.launch lk
  let bs := s.launchBlocks lk
  (bs.all fun b => s.enginesDone b.1 && b.2.phase != .restoring) &&
    (!(bs.any fun b => b.2.pending) || s.mss.paused || (bs.any fun b => s.handling b.1) || s.midStep slot l.ctx) &&
    !(s.warps.any fun p => p.1 != slot && (s.block p.2.blk).launch == lk && s.midStep p.1 l.ctx) &&
    (l.retired != 0 || (bs.all (fun b => b.2.phase != .starting) && decide (l.last ≤ l.nextBlock) &&
      !l.waiting.any fun w => l.core.any fun c => s.fitsNow lk w.1 c))

/-- Is it a warp's turn? In proof mode it is the first of its core, from the position of the last step, that can issue, and that
step is complete (R343); otherwise no ready warp of its partition is chosen before it (R337). -/
def State.inRotation (s : State) (slot : Nat) : Bool :=
  let w := s.warp slot
  let lk := (s.block w.blk).launch
  if (s.launch lk).proof then
    s.stepOver lk slot &&
      !(s.warps.any fun p => slotCore p.1 == slotCore slot && decide (s.rotated p < s.rotated (slot, w)) && s.canIssue p.1)
  else !(s.warps.any fun p => p.1 != slot && p.1 / 8 == slot / 8 && s.chosenBefore p (slot, w) && s.ready p.1)

/-- Time passes up to a step; a warp that a YIELD has set aside waits no longer once no ready warp of its partition is left
that has not issued since (R135, R336). -/
def State.upToStep (s : State) : State :=
  let t := s.tick
  if t.warps.any fun p => p.2.aside != 0 then
    { t with warps := t.warps.map fun (p : Nat × Warp) =>
        if p.2.aside != 0 && !p.2.asidePeers.any t.ready then (p.1, { p.2 with asidePeers := [] }) else p }
  else t

/-- The warps of a partition that were ready when another one issued: each waited one cycle more (R337). -/
def State.passOver (s : State) (rivals : List Nat) : State :=
  { s with warps := s.warps.map fun (p : Nat × Warp) =>
      if rivals.contains p.1 then (p.1, { p.2 with waitCount := p.2.waitCount + 1 }) else p }

/-- The turn of a warp: the other ready warps of its partition count a cycle of waiting, and on a core whose partitions
issue in one cycle of two another cycle passes. What a waiting instruction in proof mode has read outside the device is read
anew (R337, R343, R347, R436). -/
def State.issueTurn (s : State) (slot : Nat) : Res :=
  let lk := (s.block (s.warp slot).blk).launch
  andThen (s.issue slot) fun t =>
    if s.moved t slot lk then
      let rivals := (s.warps.filter fun p => p.1 / 8 == slot / 8 && p.1 != slot && s.ready p.1).map Prod.fst
      let u := (t.hasIssued slot lk).passOver rivals
      if s.slowed (slotCore slot) then u.pass 1 else u
    else if (s.launch lk).proof && s.alike t then t.lookAgain lk
    else t

/-- One turn; a warp whose turn it is not issues nothing (R337, R343). -/
def State.turn (s : State) (t : Turn) : Res :=
  match t with
  | .issue slot => if s.inRotation slot then s.issueTurn slot else .next s
  | .ray bk r => s.rayTurn bk r
  | .event i => exec i s

/-- A step without an agenda (log entry 1). -/
def State.ownTurn (s : State) : Res :=
  match s.bringup with
  | some i => exec i s
  | none =>
    match s.due.find? fun i => !isIdle (exec i s) s with
    | some i => exec i s
    | none =>
      match s.issueOrder.find? fun k => s.inRotation k && s.canIssue k with
      | some k => s.issueTurn k
      | none => .next ((s.launches.filter fun p => p.2.proof).foldl (fun t p => t.lookAgain p.1) s)

end Sys2Proof.Machine
end

