-- ==== Sys2Proof/Machine/Step.lean ====
section
/-! DEFINITION. One step: time passes, and the party that the agenda names moves; without an agenda, what is due, or a warp
that can issue, or the next bring-up stage; then what depends on paths that are gone ends (R427, R430). -/

namespace Sys2Proof.Machine

/-- One step. -/
def step (s : State) : Host.Outcome State Fault Refusal :=
  match s.agenda with
  | t :: ts => andThen ({ s with agenda := ts }.upToStep.turn t) State.cutPaths
  | [] => andThen s.upToStep.ownTurn State.cutPaths

/-- The state with one instruction placed where the next step fetches it. -/
def State.withFetchWord (s : State) (nbits w : Nat) : State :=
  if fieldWidth nbits then s.placeField (leBytes 64 (w % 2 ^ nbits)) else s.placeCode (leBytes 32 (w % 2 ^ nbits))

end Sys2Proof.Machine
end

