-- ==== Sys2Proof/Safety.lean ====
section
/-! DEFINITION. What the statements speak of: when an instruction of the ordinary form runs, and everything that it
changes. -/

namespace Sys2Proof.Machine

/-- When an instruction of the ordinary form runs (R24 to R29): a scalar source is read by a converged warp, every source
and destination is full, the destinations fit the warp's declared peak, and the partition has a general slot for each
destination. -/
structure Ready (s : State) (W : LaneMask) (scalar : Bool) (us : List Use) (dests : List Nat) : Prop where
  converged : scalar = true → s.me.converged = true
  sources : ∀ u ∈ us, s.me.full u.n = true
  targets : ∀ d ∈ dests, s.me.full d = true
  peak : (s.me.free (s.frees us dests)).peakGate s.myLaunch.regs W dests = .go
  room : s.slotsFor s.cur.slot (s.me.free (s.frees us dests)) dests.length = true

/-- No thread of W signals an enabled condition, or a handler runs (R88). -/
def NoTrap (s : State) (W : LaneMask) (fl : Fin 32 → Flags) : Prop :=
  s.me.hndl = true ∨ ∀ l : Fin 32, W.getLsbD l.val = true → fl l &&& s.me.enables = 0

/-- The flags of the threads of W together (R87). -/
def flagsOf (W : LaneMask) (fl : Fin 32 → Flags) : Flags := (LaneMask.lanes W).foldl (fun acc l => acc ||| fl l) 0

/-- What an instruction of one warp changes. -/
structure Change where
  /-- the write set -/
  W : LaneMask := 0
  /-- the registers that LR frees -/
  frees : List Nat := []
  /-- the vector results, lane by lane -/
  regs : List (Nat × (Fin 32 → Word)) := []
  /-- the predicate result -/
  pred : Option (Nat × (Fin 32 → Bool)) := none
  /-- the scalar result -/
  sreg : Option (Nat × Word) := none
  /-- the record result -/
  breg : Option (Nat × Record) := none
  /-- the flags it signals -/
  flags : Flags := 0

/-- Everything outside the executing warp is as before, but for the count of retired steps of a proof-mode launch
(R343). -/
structure OnlyMe (s t : State) : Prop where
  rest : t = { s with warps := t.warps, launches := t.launches }
  warps : ∀ k, k ≠ s.cur.slot → Map.find t.warps k = Map.find s.warps k
  launches : ∀ k, k ≠ s.myBlock.launch → Map.find t.launches k = Map.find s.launches k
  mine : s.myLaunch.proof = false → t.launches = s.launches
  retired : s.myLaunch.proof = true → t.launch s.myBlock.launch = { s.myLaunch with retired := s.myLaunch.retired + 1 }
  bytes : ∀ a, t.mem.byte a = s.mem.byte a

/-- The threads of the run stand at their new PCs, every other thread where it stood (R98); nothing else of a thread
changes but its age. -/
def Moves (s t : State) (pc : Fin 32 → BitVec 55) : Prop :=
  ∀ l : Fin 32, t.me.lanes[l] = { s.me.lanes[l] with
    pc := if s.cur.run.getLsbD l.val then pc l else s.me.lanes[l].pc
    age := t.me.lanes[l].age }

/-- The registers of the executing warp after a change (R20, R27, R30): results in the LIVE threads of W, the old values
in the other LIVE threads; freed registers empty; every other register as before. -/
structure Writes (s t : State) (c : Change) : Prop where
  vregs : ∀ n, n ∉ c.regs.map Prod.fst → n ∉ c.frees → t.me.vreg n = s.me.vreg n
  freed : ∀ n, n ∉ c.regs.map Prod.fst → n ∈ c.frees → t.me.vreg n = ⟨.n, 0⟩
  results : ∀ r ∈ c.regs, ∀ l : Fin 32, s.me.live.getLsbD l.val = true → (t.me.vreg r.1).st.lane l =
    if c.W.getLsbD l.val then r.2 l else (s.me.vreg r.1).st.lane l
  full : ∀ r ∈ c.regs, (t.me.vreg r.1).pend = (s.me.vreg r.1).pend
  preds : ∀ q, (∀ r, c.pred = some r → q ≠ r.1) → t.me.preg q = s.me.preg q
  predicate : ∀ r, c.pred = some r → r.1 < 7 → ∀ l : Fin 32, s.me.live.getLsbD l.val = true →
    (t.me.pred r.1).getLsbD l.val = if c.W.getLsbD l.val then r.2 l else (s.me.pred r.1).getLsbD l.val
  sregs : ∀ n, n < 24 → t.me.sreg n = match c.sreg with
    | some r => if n = r.1 ∧ c.W ≠ 0 then r.2 else s.me.sreg n
    | none => s.me.sreg n
  bregs : ∀ n, n < 16 → t.me.breg n = match c.breg with
    | some r => if n = r.1 ∧ c.W ≠ 0 then r.2 else s.me.breg n
    | none => s.me.breg n
  kflags : t.me.kflags = setFlags s.me.kflags c.flags
  others : t.me = { s.me with lanes := t.me.lanes, vregs := t.me.vregs, sregs := t.me.sregs, pregs := t.me.pregs,
                              bregs := t.me.bregs, kflags := t.me.kflags, waitCount := 0 }

/-- An instruction runs: it answers a next state in which the change has been made, its run stands at the next
instruction, and nothing else differs. -/
def Runs (i : Instr) (s : State) (c : Change) : Prop :=
  ∃ t, exec i s = .next t ∧ Writes s t c ∧ Moves s t (fun _ => s.cur.next) ∧ OnlyMe s t

/-! ### Instructions by the form of their results -/

/-- A result word without flags. -/
def plain (x : Word) : FOut := ⟨x, 0⟩

/-- A 64-bit result without flags. -/
def plain64 (x : Dword) : DOut := ⟨x, 0⟩

/-- An instruction with one vector result: when it is ready and no thread of W signals an enabled condition, it runs, and
thread l of W gets `f l`, the flags of W going to KFLAGS. -/
def VecResult (i : Instr) (s : State) (g : Guard) (scalar : Bool) (us : List Use) (d : Nat) (f : Fin 32 → FOut) : Prop :=
  Ready s (s.wset g) scalar us [d] → NoTrap s (s.wset g) (fun l => (f l).flags) →
    Runs i s { W := s.wset g, frees := s.frees us [d], regs := [(d, fun l => (f l).bits)],
               flags := flagsOf (s.wset g) fun l => (f l).flags }

/-- An instruction with a 64-bit result in an even-odd pair (R18). -/
def PairResult (i : Instr) (s : State) (g : Guard) (scalar : Bool) (us : List Use) (d : Nat) (f : Fin 32 → DOut) : Prop :=
  Ready s (s.wset g) scalar us [d, d + 1] → NoTrap s (s.wset g) (fun l => (f l).flags) →
    Runs i s { W := s.wset g, frees := s.frees us [d, d + 1],
               regs := [(d, fun l => (f l).bits.truncate 32), (d + 1, fun l => ((f l).bits >>> 32).truncate 32)],
               flags := flagsOf (s.wset g) fun l => (f l).flags }

/-- An instruction with a predicate result. -/
def PredResult (i : Instr) (s : State) (g : Guard) (scalar : Bool) (us : List Use) (q : Nat) (f : Fin 32 → Bool × Flags) :
    Prop :=
  Ready s (s.wset g) scalar us [] → NoTrap s (s.wset g) (fun l => (f l).2) →
    Runs i s { W := s.wset g, frees := s.frees us [], pred := some (q, fun l => (f l).1),
               flags := flagsOf (s.wset g) fun l => (f l).2 }

/-- An instruction with a result of so many bits: 64 in a pair, else in one register (R153). -/
def BitsResult (bits : Nat) (i : Instr) (s : State) (g : Guard) (scalar : Bool) (us : List Use) (d : Nat)
    (f : Fin 32 → Rounded) : Prop :=
  if bits = 64 then PairResult i s g scalar us d fun l => (f l).out64 else VecResult i s g scalar us d fun l => (f l).out

/-- One value source, one vector result. -/
def Gives1 (i : Guard → Nat → Src → Instr) (f : Word → FOut) : Prop :=
  ∀ (s : State) (g : Guard) (d : Nat) (a : Src),
    VecResult (i g d a) s g a.scalar (a.uses 1) d fun l => f ((s.me.src a).lane l)

/-- Two value sources, one vector result. -/
def Gives2 (i : Guard → Nat → Src → Src → Instr) (f : Word → Word → FOut) : Prop :=
  ∀ (s : State) (g : Guard) (d : Nat) (a b : Src),
    VecResult (i g d a b) s g (a.scalar || b.scalar) (a.uses 1 ++ b.uses 1) d
      fun l => f ((s.me.src a).lane l) ((s.me.src b).lane l)

/-- Three value sources, one vector result. -/
def Gives3 (i : Guard → Nat → Src → Src → Src → Instr) (f : Word → Word → Word → FOut) : Prop :=
  ∀ (s : State) (g : Guard) (d : Nat) (a b c : Src),
    VecResult (i g d a b c) s g (a.scalar || b.scalar || c.scalar) (a.uses 1 ++ b.uses 1 ++ c.uses 1) d
      fun l => f ((s.me.src a).lane l) ((s.me.src b).lane l) ((s.me.src c).lane l)

/-- One pair, one 64-bit result. -/
def GivesD1 (i : Guard → Nat → VSrc → Instr) (f : Dword → DOut) : Prop :=
  ∀ (s : State) (g : Guard) (d : Nat) (a : VSrc),
    PairResult (i g d a) s g false (a.uses 2) d fun l => f (s.me.pair a l)

/-- Two pairs, one 64-bit result. -/
def GivesD2 (i : Guard → Nat → VSrc → VSrc → Instr) (f : Dword → Dword → DOut) : Prop :=
  ∀ (s : State) (g : Guard) (d : Nat) (a b : VSrc),
    PairResult (i g d a b) s g false (a.uses 2 ++ b.uses 2) d fun l => f (s.me.pair a l) (s.me.pair b l)

/-- Three pairs, one 64-bit result. -/
def GivesD3 (i : Guard → Nat → VSrc → VSrc → VSrc → Instr) (f : Dword → Dword → Dword → DOut) : Prop :=
  ∀ (s : State) (g : Guard) (d : Nat) (a b c : VSrc),
    PairResult (i g d a b c) s g false (a.uses 2 ++ b.uses 2 ++ c.uses 2) d
      fun l => f (s.me.pair a l) (s.me.pair b l) (s.me.pair c l)

/-- Two value sources, a predicate result. -/
def Compares2 (i : Guard → Nat → Src → Src → Instr) (f : Word → Word → Bool × Flags) : Prop :=
  ∀ (s : State) (g : Guard) (q : Nat) (a b : Src),
    PredResult (i g q a b) s g (a.scalar || b.scalar) (a.uses 1 ++ b.uses 1) q
      fun l => f ((s.me.src a).lane l) ((s.me.src b).lane l)

/-- One value source, a predicate result. -/
def Compares1 (i : Guard → Nat → Src → Instr) (f : Word → Bool × Flags) : Prop :=
  ∀ (s : State) (g : Guard) (q : Nat) (a : Src),
    PredResult (i g q a) s g a.scalar (a.uses 1) q fun l => f ((s.me.src a).lane l)

/-- A scalar-pipe instruction with a scalar result: every live thread writes or none does (R123). -/
def ScalarResult (i : Instr) (s : State) (g : Guard) (us : List Use) (d : Nat) (x : Word) : Prop :=
  Ready s (s.scalarSet g) true us [] →
    Runs i s { W := s.scalarSet g, frees := s.frees us [], sreg := some (d, x) }

/-- Two scalar sources, a scalar result. -/
def GivesS (i : Guard → Nat → SSrc → SSrc → Instr) (f : Word → Word → Word) : Prop :=
  ∀ (s : State) (g : Guard) (d : Nat) (a b : SSrc),
    ScalarResult (i g d a b) s g [] d (f (s.me.ssrc a) (s.me.ssrc b))

/-- The word whose bit i is `f i`. -/
def wordOf (f : Nat → Bool) : Word := BitVec.ofBoolListLE ((List.range 32).map f)

/-- The number of leading positions, from `k = 0` on, at which `f` fails, at most 32. -/
def firstOne (f : Nat → Bool) : Nat := ((List.range 32).find? f).getD 32

/-- A condition on integers (R110). -/
def condHolds (cc : ICond) (x y : Int) : Bool :=
  match cc with
  | .eq => x == y
  | .ne => x != y
  | .lt => decide (x < y)
  | .le => decide (x ≤ y)
  | .gt => decide (y < x)
  | .ge => decide (y ≤ x)

/-- A predicate operation (R118). -/
def plopHolds (op : PlopOp) (a b : Bool) : Bool :=
  match op with
  | .and => a && b
  | .or => a || b
  | .xor => a != b
  | .andn => a && !b
  | .nand => !(a && b)
  | .nor => !(a || b)
  | .xnor => a == b
  | .mov => a
  | .not => !a

/-- An INT16 element of a lane as an integer, read unsigned under `u` (R159). -/
def intElem (u : Bool) (x : Word) (hi : Bool) : Int :=
  let v := elem x hi
  if u || decide (v < 2 ^ 15) then v else (v : Int) - 2 ^ 16

/-- Two integers placed in the elements of a lane: clamped to the element's range under `sat`, SAT telling of a clamp that
changed a value, else wrapped (R73, R159). -/
def packInts (u sat : Bool) (f : Bool → Int) : FOut :=
  let lo : Int := if u then 0 else -2 ^ 15
  let hi : Int := if u then 2 ^ 16 - 1 else 2 ^ 15 - 1
  let c (h : Bool) : Int := if sat then max lo (min hi (f h)) else f h
  ⟨BitVec.ofNat 32 ((c false % 2 ^ 16).toNat + 2 ^ 16 * (c true % 2 ^ 16).toNat),
    if sat && (c false != f false || c true != f true) then flagSAT else 0⟩

/-- x / 2ⁿ rounded to an integer: ties toward +∞, or to even under `he`; 0 from a shift of the width on (R162, R163). -/
def roundedShift (he : Bool) (width : Nat) (x : Int) (n : Nat) : Int :=
  if n = 0 then x
  else if width ≤ n then 0
  else
    let q := x / 2 ^ n
    let r := x % 2 ^ n
    if 2 * r < 2 ^ n then q
    else if 2 ^ n < 2 * r then q + 1
    else if he then (if q % 2 = 0 then q else q + 1)
    else q + 1

/-! ### Long-latency results (R23, R89) -/

/-- A long-latency producer has issued: its destinations are pending in W and keep their values, its results are in
flight (in the lanes of `held` still to come), its run has moved on, nothing else of its warp has changed, and `frame` says
what has changed outside it. -/
def InFlight (i : Instr) (s : State) (W held : LaneMask) (frees : List Nat) (rs : List (Nat × (Fin 32 → Word)))
    (flags : Flags) (frame : State → Prop) : Prop :=
  ∃ (t : State) (sts : List Storage),
    exec i s = .next t ∧ Moves s t (fun _ => s.cur.next) ∧ frame t ∧
    sts.length = rs.length ∧
    (∀ (k : Nat) (h : k < rs.length) (h' : k < sts.length) (l : Fin 32), W.getLsbD l.val = true →
      held.getLsbD l.val = false → sts[k].lane l = rs[k].2 l) ∧
    t.me = { s.me with lanes := t.me.lanes, vregs := t.me.vregs, inflight := t.me.inflight, waitCount := 0 } ∧
    (∀ n, n ∉ rs.map Prod.fst → t.me.vreg n = if n ∈ frees then ⟨.n, 0⟩ else s.me.vreg n) ∧
    (∀ r ∈ rs, t.me.vreg r.1 = ⟨(s.me.vreg r.1).st, (s.me.vreg r.1).pend ||| W⟩) ∧
    t.me.inflight = s.me.inflight ++ (if W = 0 then [] else (rs.zip sts).mapIdx fun k p =>
      ⟨p.1.1, W, held, p.2, W, W == s.me.live, if k = 0 then flags else 0⟩)

/-- A special-function operation (R89): with an enable bit set, and in proof mode, its results are written before its warp
goes on; else it is a long-latency producer, whatever it signals. -/
def SpecialResult (i : Instr) (s : State) (g : Guard) (scalar : Bool) (us : List Use) (rs : List (Nat × (Fin 32 → Word)))
    (fl : Fin 32 → Flags) : Prop :=
  Ready s (s.wset g) scalar us (rs.map Prod.fst) →
    (s.me.enables ≠ 0 ∨ s.myLaunch.proof = true → NoTrap s (s.wset g) fl →
      Runs i s { W := s.wset g, frees := s.frees us (rs.map Prod.fst), regs := rs, flags := flagsOf (s.wset g) fl }) ∧
    (s.me.enables = 0 → s.myLaunch.proof = false →
      InFlight i s (s.wset g) 0 (s.frees us (rs.map Prod.fst)) rs (flagsOf (s.wset g) fl) (OnlyMe s))

/-- One value source, a special function. -/
def Special1 (i : Guard → Nat → Src → Instr) (f : Word → FOut) : Prop :=
  ∀ (s : State) (g : Guard) (d : Nat) (a : Src),
    SpecialResult (i g d a) s g a.scalar (a.uses 1) [(d, fun l => (f ((s.me.src a).lane l)).bits)]
      fun l => (f ((s.me.src a).lane l)).flags

/-! ### Cross-lane values (R164 to R170) -/

/-- The lane of its group that a thread of SHFL reads (R165). -/
def shuffleSource (mode : ShflMode) (w l : Nat) (k : Word) : Nat :=
  let s := l / w * w
  match mode with
  | .abs => s + k.toNat % w
  | .rot => s + (((l : Int) - s + k.toInt) % w).toNat
  | .xor => s + ((l - s) ^^^ (k.toNat % w))
  | .rev => s + (w - 1 - (l - s))

/-- Node `i` of level `k` of the pairwise tree over leaves `x` (R168). -/
def treeNode (op : Word → Word → Word) (x : Nat → Word) : Nat → Nat → Word
  | 0, i => x i
  | k + 1, i => op (treeNode op x k (2 * i)) (treeNode op x k (2 * i + 1))

/-- The value that the threads of W before lane `l` combine to, one at a time, from the identity (R169). -/
def scanBefore (rm : Rm) (op : RedOp) (x : Fin 32 → Word) (ls : List (Fin 32)) (l : Fin 32) : Word :=
  (ls.filter fun k => decide (k < l)).foldl (fun acc k => (redOp rm op acc (x k)).bits) (redIdentity op)

/-- The threads of W in the segment of lane `l`: no head lies between (R170). -/
def segmentOf (W heads : LaneMask) (l : Fin 32) : List (Fin 32) :=
  (LaneMask.lanes W).filter fun k =>
    (LaneMask.lanes (W &&& heads)).all fun m => !(decide (min k l < m) && decide (m ≤ max k l))

/-! ### Control flow and traps -/

/-- A lane of the executing warp whose thread, if it is of the run, stands at `pc`. -/
def State.laneAt (s : State) (pc : Fin 32 → BitVec 55) (l : Fin 32) : Lane :=
  { s.me.lanes[l] with pc := if s.cur.run.getLsbD l.val then pc l else s.me.lanes[l].pc }

/-- An instruction runs and leaves the executing warp as `w` with lanes `h`, their ages apart; nothing else changes. -/
def Steps (i : Instr) (s : State) (w : Warp) (h : Fin 32 → Lane) : Prop :=
  ∃ t, exec i s = .next t ∧ t.me = { w with lanes := t.me.lanes, waitCount := 0 } ∧
    (∀ l : Fin 32, t.me.lanes[l] = { h l with age := t.me.lanes[l].age }) ∧ OnlyMe s t

/-- When the sources of an instruction that writes no register can be read (R24, R29). -/
structure Readable (s : State) (scalar : Bool) (us : List Use) : Prop where
  converged : scalar = true → s.me.converged = true
  sources : ∀ u ∈ us, s.me.full u.n = true

/-- A trap that has entered the handler (R384): the trap record is written, the trapping run stands at KTVEC, the threads
of `moved` outside it stand at `pc`, and the rest of the machine is as before. -/
structure Entered (s t : State) (run moved : LaneMask) (pc : Fin 32 → BitVec 55) (h : Fin 32 → Lane) (lane : Nat)
    (epc : VAddr) (code detail : Nat) : Prop where
  cause : t.me.kcause.toNat % 2 ^ 8 = code ∧ t.me.kcause.toNat / 2 ^ 8 % 2 ^ 5 = lane ∧
    t.me.kcause.toNat / 2 ^ 13 % 2 ^ 3 = 0 ∧ t.me.kcause.toNat / 2 ^ 16 = detail
  saved : t.me.kepc = epc
  mask : t.me.trapMask = run
  handling : t.me.hndl = true ∧ t.me.tmask = true ∧ t.me.khbudget = 65536
  lanes : ∀ l : Fin 32, t.me.lanes[l] = { h l with
    pc := if moved.getLsbD l.val then (if run.getLsbD l.val then addrPc (BitVec.ofNat 57 s.myLaunch.tvec) else pc l)
      else (h l).pc
    age := t.me.lanes[l].age }
  others : t.me = { s.me with lanes := t.me.lanes, kcause := t.me.kcause, kepc := epc, trapMask := run, hndl := true,
                              tmask := true, khbudget := 65536, firstTrap := none, waitCount := 0 }
  rest : t = { s with warps := t.warps }
  warps : ∀ k, k ≠ s.cur.slot → Map.find t.warps k = Map.find s.warps k
  bytes : ∀ a, t.mem.byte a = s.mem.byte a

/-- An instruction raises a trap of delivery H: with a handler named and none running, it is entered; otherwise the block is
killed with that code (R382 to R384). -/
def Raises (i : Instr) (s : State) (code detail : Nat) : Prop :=
  (s.myLaunch.tvec ≠ 0 → s.me.hndl = false → ∃ t, exec i s = .next t ∧
    Entered s t s.cur.run s.cur.run (fun _ => 0) (fun l => s.me.lanes[l]) s.cur.run.lowest.val s.cur.pc code detail) ∧
  (s.myLaunch.tvec = 0 ∨ s.me.hndl = true →
    exec i s = .next (s.kill s.me.blk
      ⟨code, detail, s.cur.run.lowest.val, s.cur.pc, s.cur.run, s.me.hndl, s.me.index⟩))

/-! ### Memory -/

/-- Outside the executing warp an access may change, beside memory and a version, only what keeps account of accesses: the
faults and answers that waited for it, the table entries that its walks cached (R410), clocks and tags, code that was
written over (R43), and the request collector of its core. -/
structure Accesses (s t : State) : Prop where
  rest : t = { s with warps := t.warps, launches := t.launches, ext := t.ext, ctxs := t.ctxs, cores := t.cores,
                      tags := t.tags, mem := t.mem, blocks := t.blocks, oldCode := t.oldCode }
  warps : ∀ k, k ≠ s.cur.slot → Map.find t.warps k = Map.find s.warps k
  ctxs : ∀ c, t.ctx c = { s.ctx c with faults := (t.ctx c).faults, tlb := (t.ctx c).tlb }
  cores : ∀ c, t.core c = { s.core c with lamport := (t.core c).lamport, collector := (t.core c).collector,
                                          collectorAge := (t.core c).collectorAge }
  blocks : ∀ b, t.block b = { s.block b with version := (t.block b).version, verLines := (t.block b).verLines,
                                             verTags := (t.block b).verTags }
  launches : s.myLaunch.proof = false → t.launches = s.launches

/-- An access that reads: every byte of memory and every version is as before. -/
structure OnlyReads (s t : State) : Prop where
  accesses : Accesses s t
  bytes : ∀ a, t.mem.byte a = s.mem.byte a
  blocks : t.blocks = s.blocks
  code : t.oldCode = s.oldCode

/-- The translation of an address for the executing thread, when it has one. -/
def State.xlat (s : State) (need : Need) (va : Nat) : Option Xlat :=
  match s.walk s.myCtx need va with
  | .ok x => some x
  | _ => none

/-- Every lane of a list has its address translated to a page of this device that is not discarded, no fault of the
warp there waits for an answer, and the thread has no pending acquire on bytes that it meets (R180). -/
def Mapped (s : State) (need : Need) (n : Nat) (ls : List (Nat × Nat)) : Prop :=
  ∀ p ∈ ls, ∃ x, s.walk s.myCtx need p.2 = .ok x ∧ x.loc < 2 ^ 38 ∧ x.disc = false ∧
    s.waitsOn s.myCtx (.warp s.cur.slot) p.2 n = false ∧ s.guardMeets p.1 p.2 n = false

/-- The physical address of a lane's element. -/
def State.phys (s : State) (need : Need) (va : Nat) : Nat := ((s.xlat need va).map Xlat.loc).getD 0

/-- A thread's element through a record: its index is in bounds (R177). -/
def Inside (r : Record) (a off : Word) : Prop :=
  0 ≤ (a.toNat : Int) + off.toInt ∧ (a.toNat : Int) + off.toInt < (r.extractLsb' 64 32).toNat

/-- The checks of R176 that come before translation let an access of `n` bytes through. -/
structure RecordOk (s : State) (W : LaneMask) (r : Record) (a : Src) (off : Word) (n : Nat) : Prop where
  fields : W ≠ 0 → recBad r = false ∧ n ≤ 2 ^ recEsize r
  bounds : ∀ l : Fin 32, W.getLsbD l.val = true → recOobt r = true → Inside r ((s.me.src a).lane l) off
  aligned : ∀ l : Fin 32, W.getLsbD l.val = true → Inside r ((s.me.src a).lane l) off →
    recAddr r (recIndex ((s.me.src a).lane l) off) % n = 0

/-- Word `k` of a loaded number of `n` bytes, extended (R184, R185). -/
def loadedWord (signed : Bool) (n v k : Nat) : Word :=
  if signed && decide (n < 4) then (BitVec.ofNat (8 * n) v).signExtend 32 else BitVec.ofNat 32 (v / 2 ^ (32 * k))

/-- The stores of core SRAM after each lane of a list, in order, has replaced the number at its address (R180, R194,
R203). -/
def State.banksAfter (s : State) (bk n : Nat) (addr : Fin 32 → Nat) (f : Fin 32 → Nat → Nat) (ls : List (Fin 32)) :
    Bank → Mem :=
  ls.foldl (fun (m : Bank → Mem) l =>
    match s.sram bk (addr l) n with
    | .ok b off => fun c => if c = b then (m b).write off n (f l ((m b).read off n)) else m c
    | _ => m) s.bank

/-- What lane `l` finds at its address when the lanes of W before it have had their turn. -/
def State.bankBefore (s : State) (bk n : Nat) (addr : Fin 32 → Nat) (f : Fin 32 → Nat → Nat) (W : LaneMask) (l : Fin 32) :
    Nat :=
  match s.sram bk (addr l) n with
  | .ok b off => (s.banksAfter bk n addr f ((LaneMask.lanes W).filter fun k => decide (k < l)) b).read off n
  | _ => 0

/-- An access to core SRAM: outside the executing warp it may change the bytes of core SRAM, clocks and tags; no byte of
memory changes. -/
structure SramAccess (s t : State) : Prop where
  rest : t = { s with warps := t.warps, launches := t.launches, cores := t.cores, tags := t.tags, blocks := t.blocks,
                      segs := t.segs }
  warps : ∀ k, k ≠ s.cur.slot → Map.find t.warps k = Map.find s.warps k
  cores : ∀ c, t.core c = { s.core c with lamport := (t.core c).lamport, galleys := (t.core c).galleys }
  blocks : ∀ b, t.block b = { s.block b with area := (t.block b).area }
  bytes : ∀ a, t.mem.byte a = s.mem.byte a

/-- Memory after each lane of a list, in order, has replaced the number at its element (R180, R194). -/
def State.memAfter (s : State) (need : Need) (n : Nat) (f : Nat → Nat → Nat) (ls : List (Nat × Nat)) : Mem :=
  ls.foldl (fun m p => m.putBytes (s.phys need p.2) (leBytes n (f p.1 (m.read (s.phys need p.2) n)))) s.mem

/-- Memory is as before but for the elements of the lanes of a list. -/
def OnlyThere (s t : State) (need : Need) (n : Nat) (ls : List (Nat × Nat)) : Prop :=
  ∀ a, (∀ p ∈ ls, a < s.phys need p.2 ∨ s.phys need p.2 + n ≤ a) → t.mem.byte a = s.mem.byte a

/-! ### Standing segments, engines and rendering -/

/-- An instruction ends in its step with these results, beside what it makes of the machine: `u` but for the executing
warp. -/
def Answers (i : Instr) (s u : State) (W : LaneMask) (us : List Use) (rs : List (Nat × Word)) : Prop :=
  ∃ t, exec i s = .next t ∧ Moves s t (fun _ => s.cur.next) ∧
    Writes s t { W := W, frees := s.frees us (rs.map Prod.fst), regs := rs.map fun r => (r.1, fun _ => r.2) } ∧
    t = { u with warps := t.warps } ∧ ∀ k, k ≠ s.cur.slot → Map.find t.warps k = Map.find s.warps k

/-- A SEG instruction waits for the move of segment `k`: its destination is empty, and the segment stands as `g`. -/
def MovesSegment (i : Instr) (s u : State) (W : LaneMask) (us : List Use) (d k : Nat) (g : Segment) : Prop :=
  InFlight i s W W (s.frees us [d]) [(d, fun _ => 0)] 0 fun t =>
    t = { u with warps := t.warps, segs := t.segs } ∧
    (∀ j, Map.find t.segs j = if j = k then some g else Map.find u.segs j) ∧
    ∀ j, j ≠ s.cur.slot → Map.find t.warps j = Map.find s.warps j

/-- An engine command is queued at its block (R214 to R217): the warp goes on, and nothing changes but that queue, at the
matrix unit the order of acceptance, and the clock of the core where the command acquires (R219, R282). -/
def Queued (i : Instr) (s : State) (us : List Use) (b : Block) (order : List Nat) (acq : Bool) (sc : Scope) : Prop :=
  ∃ t, exec i s = .next t ∧ Moves s t (fun _ => s.cur.next) ∧
    t.me = { s.me.free (s.frees us []) with lanes := t.me.lanes, waitCount := 0 } ∧
    t = { s with warps := t.warps, blocks := t.blocks, clusters := t.clusters, cores := t.cores } ∧
    (∀ k, k ≠ s.cur.slot → Map.find t.warps k = Map.find s.warps k) ∧
    (∀ k, t.core k = (s.acquireAll s.myCore acq sc).core k) ∧
    (∀ k, t.block k = if k = s.me.blk then b else s.block k) ∧
    ∀ k, t.cluster k = { s.cluster k with order := if k = clusterOf (blockCore s.me.blk) then order else (s.cluster k).order }

/-- An accepted or refused engine command as it enters its queue: not started, with its descriptor and flags (R216 to
R218). -/
structure NewCommand (s : State) (c : Cmd) (kind : CmdKind) (desc : List Byte) (br : Record) (lane : Nat) (acq rel : Bool)
    (sc : Scope) (status : Nat) : Prop where
  what : c.kind = kind ∧ c.desc = desc ∧ c.brec = br
  issuer : c.warp = s.cur.slot ∧ c.lane = lane
  orders : c.acq = acq ∧ c.rel = rel ∧ c.scope = sc
  refused : c.refused = if status = 0 then none else some status
  accepted : c.accepted = (status == 0)
  fresh : c.started = false ∧ c.progress = 0 ∧ c.sets = [] ∧ c.buffers = [] ∧ c.parked = [] ∧ c.rays = [] ∧ c.flags = 0 ∧ c.frozen = false

/-- An instruction that writes no register ends in its step, the machine beside the executing warp being `u`. -/
def Completes (i : Instr) (s u : State) (us : List Use) : Prop :=
  ∃ t, exec i s = .next t ∧ Moves s t (fun _ => s.cur.next) ∧
    t.me = { s.me.free (s.frees us []) with lanes := t.me.lanes, waitCount := 0 } ∧ t = { u with warps := t.warps } ∧
    ∀ k, k ≠ s.cur.slot → Map.find t.warps k = Map.find s.warps k

/-- The winner code of a PRUNE on two pairs (R266). -/
def prunedCode (op : PruneOp) (k : Val) (a b : Bounds) : Nat :=
  let code (one two : Bool) : Nat := if one then 1 else if two then 2 else 0
  match op with
  | .min => code (leV a.h b.l) (ltV b.h a.l)
  | .max => code (leV b.h a.l) (ltV a.h b.l)
  | .smin => code (leV (exAdd a.h k) b.l) (ltV (exAdd b.h k) a.l)
  | .smax => code (leV b.h (exAdd a.l k.negate)) (ltV a.h (exAdd b.l k.negate))
  | _ => 0

/-! ### Field programs (R249 to R262) -/

/-- The ray whose turn it is goes on with an evaluation. -/
def GoesOn (i : Instr) (s : State) (x : Ray) (e : Eval) : Prop := exec i s = .next (s.setRay { x with eval := some e })

/-- The ray whose turn it is ends with a status and t = +∞ (R251). -/
def EndsWith (i : Instr) (s : State) (x : Ray) (status : Nat) : Prop :=
  exec i s = .next (s.setRay { x with st := .done, status := status, t := 0x7F800000, eval := none })

/-- A rule on one, two or three pairs, as a rule on the operands of an operation. -/
def onOne (f : Bounds → Chosen) (ps : List Bounds) : Chosen :=
  match ps with
  | [a] => f a
  | _ => .pair .all
def onTwo (f : Bounds → Bounds → Chosen) (ps : List Bounds) : Chosen :=
  match ps with
  | [a, b] => f a b
  | _ => .pair .all
def onThree (f : Bounds → Bounds → Bounds → Chosen) (ps : List Bounds) : Chosen :=
  match ps with
  | [a, b, c] => f a b c
  | _ => .pair .all

/-- The entry that a rule makes of its operands in a mode (R254, R260): beyond affine mode a normalised pair; in it the
operand that the rule selects whole, the constant it gives, or its pair with the conversion of the rule over the effective
enclosures. -/
def chosenEntry (m : EvalMode) (es : List Entry) (f : List Bounds → Chosen) : Entry :=
  let ps := es.map Entry.bounds
  let qs := es.map Entry.effective
  let p := ((f ps).bounds ps).norm
  if m = .affine then
    match f ps with
    | .keep k => (es[k]?).getD ⟨0, 0, none⟩
    | .point k => ⟨k, k, some ⟨k, 0, 0⟩⟩
    | .pair _ => ⟨p.lo, p.hi, some ((f qs).bounds qs).form⟩
  else ⟨p.lo, p.hi, none⟩

/-- An operation with room on the stack replaces its n operands by the entry that its rule makes of them. -/
def FieldGives (i : Instr) (size n : Nat) (f : List Bounds → Chosen) : Prop :=
  ∀ (s : State) (c : Cmd) (x : Ray) (e : Eval), s.evaluating = some (c, x, e) → n ≤ e.stack.length →
    e.stack.length < 32 + n → GoesOn i s x { e with
      pc := e.pc + size
      stack := chosenEntry e.mode (e.stack.take n).reverse f :: e.stack.drop n }

/-- The same for an operation whose form R259 gives: its pair by the rule, its form in affine mode by `g`. -/
def FieldForms (i : Instr) (size n : Nat) (f : List Bounds → Bounds) (g : List Form → Form) : Prop :=
  ∀ (s : State) (c : Cmd) (x : Ray) (e : Eval), s.evaluating = some (c, x, e) → n ≤ e.stack.length →
    e.stack.length < 32 + n →
    let es := (e.stack.take n).reverse
    let p := (f (es.map Entry.bounds)).norm
    GoesOn i s x { e with
      pc := e.pc + size
      stack := ⟨p.lo, p.hi, if e.mode = .affine then some (g (es.map fun k => k.form.getD Form.none)) else none⟩ ::
        e.stack.drop n }

/-- The entry `n` places below the top. -/
def Eval.below (e : Eval) (n : Nat) : Entry := (e.stack[n]?).getD ⟨0, 0, none⟩

/-- What a field operation reads, pops and pushes (R249); nothing for END and for what is no field operation. -/
def fieldShape (i : Instr) : Option (Nat × Nat × Nat) :=
  if i = .fbcAdd ∨ i = .fbcSub ∨ i = .fbcMul ∨ i = .fbcDiv ∨ i = .fbcMin ∨ i = .fbcMax ∨ i = .fbcLen2 then some (2, 2, 1)
  else if i = .fbcNeg ∨ i = .fbcAbs ∨ i = .fbcSqrt ∨ i = .fbcSqr ∨ i = .fbcSin ∨ i = .fbcCos ∨ i = .fbcFloor ∨
    i = .fbcFract then some (1, 1, 1)
  else if i = .fbcLen3 ∨ i = .fbcMix then some (3, 3, 1)
  else if i = .fbcDup then some (1, 0, 1)
  else if i = .fbcDrop then some (1, 1, 0)
  else if i = .fbcSwap then some (2, 2, 2)
  else if i = .fbcOver then some (2, 0, 1)
  else if i = .fbcRot then some (3, 3, 3)
  else
    match i with
    | .fbcConst _ => some (0, 0, 1)
    | .fbcPos _ => some (0, 0, 1)
    | .fbcBrick _ => some (0, 0, 1)
    | .fbcSmin _ => some (2, 2, 1)
    | .fbcSmax _ => some (2, 2, 1)
    | .fbcAddc _ => some (1, 1, 1)
    | .fbcRsubc _ => some (1, 1, 1)
    | .fbcMulc _ => some (1, 1, 1)
    | .fbcMinc _ => some (1, 1, 1)
    | .fbcMaxc _ => some (1, 1, 1)
    | .fbcClamp _ _ => some (1, 1, 1)
    | .fbcPick n => some (n + 1, 0, 1)
    | .fbcCallout n _ => some (n, n, 1)
    | _ => none

/-- The numbers that lie within a pair. -/
def Bounds.holds (p : Bounds) (q : Rat) : Prop := leV p.l (.ofRat false q) = true ∧ leV (.ofRat false q) p.h = true

end Sys2Proof.Machine
end

