-- ==== Sys2Proof/Certificates/Slice0/Obligations.lean ====
section
/-! DEFINITION. The statements for the provers. -/

open Sys2Proof Sys2Proof.Machine

/-- R104, R105, R107, R108: integer arithmetic of two sources and multiply-add. Every thread of W gets the wrapped 32-bit result; a division by
0 gives all ones or the dividend, and no case traps or signals. -/
def Obligations.IntegerTwoSourceResults : Prop :=
  Gives2 .iadd (fun a b => plain (BitVec.ofInt 32 (a.toInt + b.toInt))) ∧
  Gives2 .isub (fun a b => plain (BitVec.ofInt 32 (a.toInt - b.toInt))) ∧
  Gives2 .imul (fun a b => plain (BitVec.ofInt 32 (a.toInt * b.toInt))) ∧
  Gives2 .imulh (fun a b => plain (BitVec.ofInt 32 (a.toInt * b.toInt / 2 ^ 32))) ∧
  Gives2 .umulh (fun a b => plain (BitVec.ofNat 32 (a.toNat * b.toNat / 2 ^ 32))) ∧
  Gives2 .imin (fun a b => plain (BitVec.ofInt 32 (min a.toInt b.toInt))) ∧
  Gives2 .imax (fun a b => plain (BitVec.ofInt 32 (max a.toInt b.toInt))) ∧
  Gives2 .umin (fun a b => plain (BitVec.ofNat 32 (min a.toNat b.toNat))) ∧
  Gives2 .umax (fun a b => plain (BitVec.ofNat 32 (max a.toNat b.toNat))) ∧
  Gives2 .idiv (fun a b => plain (if b = 0 then 0xFFFFFFFF else BitVec.ofInt 32 (a.toInt.tdiv b.toInt))) ∧
  Gives2 .udiv (fun a b => plain (if b = 0 then 0xFFFFFFFF else BitVec.ofNat 32 (a.toNat / b.toNat))) ∧
  Gives2 .irem (fun a b => plain (if b = 0 then a else BitVec.ofInt 32 (a.toInt.tmod b.toInt))) ∧
  Gives2 .urem (fun a b => plain (if b = 0 then a else BitVec.ofNat 32 (a.toNat % b.toNat))) ∧
  (∀ sh, sh < 32 → Gives2 (fun g d a b => .lea g d sh a b) fun a b => plain (a + BitVec.ofNat 32 (b.toNat * 2 ^ sh))) ∧
  Gives3 .imad (fun a b c => plain (BitVec.ofInt 32 (a.toInt * b.toInt + c.toInt)))

/-- R104, R107, R109, R116: arithmetic of one source and an immediate, and moves. -/
def Obligations.IntegerImmediateResults : Prop :=
  Gives1 .iabs (fun a => plain (BitVec.ofInt 32 |a.toInt|)) ∧
  Gives1 .ineg (fun a => plain (BitVec.ofInt 32 (-a.toInt))) ∧
  Gives1 .mov (fun a => plain a) ∧
  (∀ imm, Gives1 (fun g d a => .iaddi g d a imm) fun a => plain (BitVec.ofInt 32 (a.toInt + imm.toInt))) ∧
  (∀ imm, Gives1 (fun g d a => .imuli g d a imm) fun a => plain (BitVec.ofInt 32 (a.toInt * imm.toInt))) ∧
  (∀ imm, Gives1 (fun g d a => .iaddi32 g d a imm) fun a => plain (BitVec.ofInt 32 (a.toInt + imm.toInt))) ∧
  (∀ imm, Gives1 (fun g d a => .imuli32 g d a imm) fun a => plain (BitVec.ofInt 32 (a.toInt * imm.toInt))) ∧
  (∀ sh imm, sh < 32 → Gives1 (fun g d a => .leai g d sh a imm) fun a =>
    plain (BitVec.ofInt 32 (a.toNat * 2 ^ sh + imm.toInt))) ∧
  (∀ s g d imm, VecResult (.movi g d imm) s g false [] d fun _ => plain (BitVec.ofInt 32 imm.toInt)) ∧
  (∀ s g d imm, VecResult (.movi32 g d imm) s g false [] d fun _ => plain imm)

/-- R109, R111, R113: logic, shifts by any amount, rotations and bit counts. -/
def Obligations.LogicAndShiftResults : Prop :=
  Gives2 .and (fun a b => plain (wordOf fun i => a.getLsbD i && b.getLsbD i)) ∧
  Gives2 .or (fun a b => plain (wordOf fun i => a.getLsbD i || b.getLsbD i)) ∧
  Gives2 .xor (fun a b => plain (wordOf fun i => a.getLsbD i != b.getLsbD i)) ∧
  Gives2 .andn (fun a b => plain (wordOf fun i => a.getLsbD i && !b.getLsbD i)) ∧
  Gives1 .not (fun a => plain (wordOf fun i => !a.getLsbD i)) ∧
  (∀ imm, Gives1 (fun g d a => .andi g d a imm) fun a => plain (wordOf fun i => a.getLsbD i && imm.getLsbD i)) ∧
  (∀ imm, Gives1 (fun g d a => .ori g d a imm) fun a => plain (wordOf fun i => a.getLsbD i || imm.getLsbD i)) ∧
  (∀ imm, Gives1 (fun g d a => .xori g d a imm) fun a => plain (wordOf fun i => a.getLsbD i != imm.getLsbD i)) ∧
  (∀ imm, Gives1 (fun g d a => .andi32 g d a imm) fun a => plain (wordOf fun i => a.getLsbD i && imm.getLsbD i)) ∧
  (∀ imm, Gives1 (fun g d a => .ori32 g d a imm) fun a => plain (wordOf fun i => a.getLsbD i || imm.getLsbD i)) ∧
  (∀ imm, Gives1 (fun g d a => .xori32 g d a imm) fun a => plain (wordOf fun i => a.getLsbD i != imm.getLsbD i)) ∧
  Gives2 .shl (fun a b => plain (wordOf fun i => decide (b.toNat ≤ i) && a.getLsbD (i - b.toNat))) ∧
  Gives2 .shr (fun a b => plain (wordOf fun i => a.getLsbD (i + b.toNat))) ∧
  Gives2 .sar (fun a b => plain (wordOf fun i => a.getLsbD (min (i + b.toNat) 31))) ∧
  (∀ imm, Gives1 (fun g d a => .shli g d a imm) fun a =>
    plain (wordOf fun i => decide (imm.toNat ≤ i) && a.getLsbD (i - imm.toNat))) ∧
  (∀ imm, Gives1 (fun g d a => .shri g d a imm) fun a => plain (wordOf fun i => a.getLsbD (i + imm.toNat))) ∧
  (∀ imm, Gives1 (fun g d a => .sari g d a imm) fun a => plain (wordOf fun i => a.getLsbD (min (i + imm.toNat) 31))) ∧
  Gives2 .rol (fun a b => plain (wordOf fun i => a.getLsbD ((i + 32 - b.toNat % 32) % 32))) ∧
  Gives2 .ror (fun a b => plain (wordOf fun i => a.getLsbD ((i + b.toNat) % 32))) ∧
  Gives1 .popc (fun a => plain (BitVec.ofNat 32 ((List.range 32).countP fun i => a.getLsbD i))) ∧
  Gives1 .clz (fun a => plain (BitVec.ofNat 32 (firstOne fun i => a.getLsbD (31 - i)))) ∧
  Gives1 .ctz (fun a => plain (BitVec.ofNat 32 (firstOne fun i => a.getLsbD i))) ∧
  Gives1 .brev (fun a => plain (wordOf fun i => a.getLsbD (31 - i)))

/-- R112, R114, R115, R117, R122: bit fields, bit functions of three operands, byte exchange and select; MKAFF gives lane l its
base plus l times its stride. -/
def Obligations.FieldAndSelectResults : Prop :=
  (∀ sgn pos len, 1 ≤ len → pos + len ≤ 32 → Gives1 (fun g d a => .bfe g d sgn a pos len) fun a =>
    plain (wordOf fun i => if i < len then a.getLsbD (pos + i) else sgn && a.getLsbD (pos + len - 1))) ∧
  (∀ pos len, 1 ≤ len → pos + len ≤ 32 → Gives2 (fun g d a b => .bfi g d a b pos len) fun a b =>
    plain (wordOf fun i => if pos ≤ i ∧ i < pos + len then b.getLsbD (i - pos) else a.getLsbD i)) ∧
  (∀ t1 t0, t1 < 16 → t0 < 16 → Gives3 (fun g d a b c => .bitfn g d t1 t0 a b c) fun a b c =>
    plain (wordOf fun i => (if c.getLsbD i then t1 else t0).testBit (2 * (a.getLsbD i).toNat + (b.getLsbD i).toNat))) ∧
  (∀ sel : Imm16, (∀ i, i < 4 → sel.toNat / 16 ^ i % 16 ≤ 10) →
    ∀ s g d a b, Ready s (s.wset g) (a.scalar || b.scalar) (a.uses 1 ++ b.uses 1) [d] →
      ∃ f : Fin 32 → Word, Runs (.bytex g d sel a b) s
          { W := s.wset g, frees := s.frees (a.uses 1 ++ b.uses 1) [d], regs := [(d, f)] } ∧
        ∀ (l : Fin 32) (i : Nat), i < 4 →
          let byte (x : Word) (k : Nat) : Nat := x.toNat / 256 ^ k % 256
          let code := sel.toNat / 16 ^ i % 16
          byte (f l) i =
            if code < 4 then byte ((s.me.src a).lane l) code
            else if code < 8 then byte ((s.me.src b).lane l) (code - 4)
            else if code = 8 then 0
            else if code = 9 then 255
            else if 0 < i ∧ 128 ≤ byte (f l) (i - 1) then 255 else 0) ∧
  (∀ s g d a b q neg, VecResult (.sel g d a b q neg) s g (a.scalar || b.scalar) (a.uses 1 ++ b.uses 1) d fun l =>
    plain (if (s.me.pred q).getLsbD l.val != neg then (s.me.src a).lane l else (s.me.src b).lane l)) ∧
  (∀ s g d a b, VecResult (.mkaff g d a b) s g (a.scalar || b.scalar) (a.uses 1 ++ b.uses 1) d fun l =>
    plain (BitVec.ofNat 32 (((s.me.src a).lane l).toNat + l.val * ((s.me.src b).lane l).toNat)))

/-- R106, R144, R150: 64-bit sums, differences and products of pairs, wrapped; FP32 and FP64 absolute value and negation change
the sign bit alone and signal nothing. -/
def Obligations.PairArithmeticResults : Prop :=
  GivesD2 .iadd64 (fun a b => plain64 (BitVec.ofNat 64 (a.toNat + b.toNat))) ∧
  GivesD2 .isub64 (fun a b => plain64 (BitVec.ofInt 64 (a.toNat - b.toNat))) ∧
  GivesD2 .imul64 (fun a b => plain64 (BitVec.ofNat 64 (a.toNat * b.toNat))) ∧
  GivesD1 .dabs (fun a => plain64 (BitVec.ofNat 64 (a.toNat % 2 ^ 63))) ∧
  GivesD1 .dneg (fun a => plain64 (BitVec.ofNat 64 ((a.toNat + 2 ^ 63) % 2 ^ 64))) ∧
  Gives1 .fabs (fun a => plain (BitVec.ofNat 32 (a.toNat % 2 ^ 31))) ∧
  Gives1 .fneg (fun a => plain (BitVec.ofNat 32 ((a.toNat + 2 ^ 31) % 2 ^ 32)))

/-- R110, R118, R119, R124: integer comparisons, predicate logic, and moves between predicates and registers. A thread of W
gets its own bit; a scalar comparison gives every live thread the same one. -/
def Obligations.PredicateResults : Prop :=
  (∀ cc, Compares2 (fun g q a b => .icmp g q cc a b) fun a b => (condHolds cc a.toInt b.toInt, 0)) ∧
  (∀ cc, Compares2 (fun g q a b => .ucmp g q cc a b) fun a b => (condHolds cc a.toNat b.toNat, 0)) ∧
  (∀ cc imm, Compares1 (fun g q a => .icmpi g q cc a imm) fun a => (condHolds cc a.toInt imm.toInt, 0)) ∧
  (∀ cc imm, Compares1 (fun g q a => .ucmpi g q cc a imm) fun a => (condHolds cc a.toNat imm.toNat, 0)) ∧
  Compares1 .v2p (fun a => (a != 0, 0)) ∧
  (∀ s g q op qa qb, PredResult (.plop g q op qa qb) s g false [] q fun l =>
    (plopHolds op ((s.me.pred qa).getLsbD l.val) ((s.me.pred qb).getLsbD l.val), 0)) ∧
  (∀ s g d m qa, VecResult (.p2v g d m qa) s g false [] d fun l =>
    plain (if (s.me.pred qa).getLsbD l.val then (if m then 0xFFFFFFFF else 1) else 0)) ∧
  (∀ s g q cc u a b, Ready s (s.scalarSet g) true [] [] →
    Runs (.scmp g q cc u a b) s { W := s.scalarSet g, pred := some (q, fun _ =>
      if u then condHolds cc (s.me.ssrc a).toNat (s.me.ssrc b).toNat
      else condHolds cc (s.me.ssrc a).toInt (s.me.ssrc b).toInt) })

/-- R123, R125: the scalar pipe. A converged warp computes one 32-bit result into a scalar register when the predicate holds
in its lowest live lane; V2S takes that lane's value. Where the predicate is false there an instruction has no effect but to
move its run on, and V2S does not wait for its source (R123). -/
def Obligations.ScalarPipeResults : Prop :=
  (∀ s g d a, ScalarResult (.smov g d a) s g [] d (s.me.ssrc a)) ∧
  GivesS .sadd (fun a b => BitVec.ofNat 32 (a.toNat + b.toNat)) ∧
  GivesS .ssub (fun a b => BitVec.ofInt 32 (a.toNat - b.toNat)) ∧
  GivesS .smul (fun a b => BitVec.ofNat 32 (a.toNat * b.toNat)) ∧
  GivesS .sand (fun a b => wordOf fun i => a.getLsbD i && b.getLsbD i) ∧
  GivesS .sor (fun a b => wordOf fun i => a.getLsbD i || b.getLsbD i) ∧
  GivesS .sxor (fun a b => wordOf fun i => a.getLsbD i != b.getLsbD i) ∧
  GivesS .sshl (fun a b => wordOf fun i => decide (b.toNat ≤ i) && a.getLsbD (i - b.toNat)) ∧
  GivesS .sshr (fun a b => wordOf fun i => a.getLsbD (i + b.toNat)) ∧
  GivesS .ssar (fun a b => wordOf fun i => a.getLsbD (min (i + b.toNat) 31)) ∧
  (∀ u, GivesS (fun g d a b => .smin g d u a b) fun a b =>
    if u then BitVec.ofNat 32 (min a.toNat b.toNat) else BitVec.ofInt 32 (min a.toInt b.toInt)) ∧
  (∀ u, GivesS (fun g d a b => .smax g d u a b) fun a b =>
    if u then BitVec.ofNat 32 (max a.toNat b.toNat) else BitVec.ofInt 32 (max a.toInt b.toInt)) ∧
  (∀ s g d a imm, ScalarResult (.saddi g d a imm) s g [] d (BitVec.ofInt 32 ((s.me.ssrc a).toInt + imm.toInt))) ∧
  (∀ s g d imm, ScalarResult (.smovi g d imm) s g [] d (BitVec.ofInt 32 imm.toInt)) ∧
  (∀ s g d imm, ScalarResult (.smovi32 g d imm) s g [] d imm) ∧
  (∀ s g d a,
    (s.scalarSet g ≠ 0 → ScalarResult (.v2s g d a) s g (a.uses 1) d ((s.me.vreg a.n).st.lane s.me.live.lowest)) ∧
    (s.scalarSet g = 0 → s.me.converged = true → Steps (.v2s g d a) s s.me (s.laneAt fun _ => s.cur.next)) ∧
    (s.me.converged = true → s.scalarSet g ≠ 0 → s.me.full a.n = false →
      (a.te = true → Raises (.v2s g d a) s 0x05 a.n) ∧ (a.te = false → exec (.v2s g d a) s = .next s)))

/-- R28, R120, R121, R241 to R243: what the instructions that report the machine's own state deliver: shape tags and
pending masks, system values, control registers, the cycle counter, and return links. -/
def Obligations.StateReadResults : Prop :=
  (∀ s g d a, VecResult (.shape g d false a) s g false (a.uses 1) d fun _ =>
    plain (match (s.me.vreg a.n).st with
      | .n => 0
      | .u _ => 1
      | .a _ _ => 2
      | .g _ => 3)) ∧
  (∀ s g d a, VecResult (.shape g d true a) s g false [] d fun _ => plain (s.me.vreg a.n).pend) ∧
  (∀ s g d a, VecResult (.expand g d a) s g false (a.uses 1) d fun l => plain ((s.me.vreg a.n).st.lane l)) ∧
  (∀ s g d num, num < 12 → VecResult (.sysv g d num) s g false [] d fun l => plain (BitVec.ofNat 32 (
    let x := s.me.lanes[l]
    let b := s.myBlock
    let p := s.myLaunch.bid b.n
    [x.tx, x.ty, x.tz, p.1, p.2.1, p.2.2, l.val, s.me.index, b.n, s.myCore, clusterOf s.myCore, s.rank s.myLaunch][num]!))) ∧
  (∀ s g d hi, VecResult (.csrr g d 0x000 hi) s g false [] d fun _ => plain s.kstat) ∧
  (∀ s g d hi, VecResult (.csrr g d 0x001 hi) s g false [] d fun _ => plain s.me.kflags) ∧
  (∀ s g d hi, VecResult (.csrr g d 0x002 hi) s g false [] d fun _ => plain s.me.kcause) ∧
  (∀ s g d, VecResult (.csrr g d 0x003 false) s g false [] d fun _ => plain (s.me.kepc.truncate 32)) ∧
  (∀ s g d, VecResult (.csrr g d 0x003 true) s g false [] d fun _ => plain ((s.me.kepc >>> 32).truncate 32)) ∧
  (∀ s g d hi, VecResult (.csrr g d 0x005 hi) s g false [] d fun _ => plain (BitVec.ofNat 32 s.myBlock.kdeadline)) ∧
  (∀ s g d hi, VecResult (.csrr g d 0x006 hi) s g false [] d fun _ => plain (BitVec.ofNat 32 s.me.khbudget)) ∧
  (∀ s g d, VecResult (.csrr g d 0x004 false) s g false [] d fun _ => plain (BitVec.ofNat 32 s.myLaunch.tvec)) ∧
  (∀ s g d, VecResult (.csrr g d 0x004 true) s g false [] d fun _ =>
    plain (BitVec.ofNat 32 (s.myLaunch.tvec % 2 ^ 57 / 2 ^ 32))) ∧
  (∀ s g d hi, VecResult (.csrr g d 0x010 hi) s g false [] d fun _ =>
    plain (BitVec.ofNat 32 (s.myLaunch.classArea % 2 ^ 24))) ∧
  (∀ s g d hi, VecResult (.csrr g d 0x020 hi) s g false [] d fun _ => plain s.kcaps) ∧
  (∀ s g d, PairResult (.getclk g d) s g false [] d fun _ =>
    plain64 (BitVec.ofNat 64 (if s.myLaunch.proof then s.myLaunch.retired else s.clk))) ∧
  (∀ s g d, VecResult (.getret g d true) s g false [] d fun l =>
    plain (BitVec.ofNat 32 s.me.lanes[l].stack.length)) ∧
  (∀ s g d, PairResult (.getret g d false) s g false [] d fun l => plain64 (match s.me.lanes[l].stack with
    | [] => 0xFFFFFFFFFFFFFFFF
    | k :: _ => BitVec.ofNat 64 (4 * k.pc.toNat)))

/-- R80, R141 to R143, R146, R147: FP32 arithmetic. Each operation is exact on the operands' values and rounded once in its
mode; minimum and maximum, classification and rounding to an integer follow their own rules. The flags of W go to KFLAGS. -/
def Obligations.Fp32Results : Prop :=
  (∀ rm, Gives2 (fun g d a b => .fadd g d rm a b) fun a b => outF rm (Val.add rm (valF a) (valF b))) ∧
  (∀ rm, Gives2 (fun g d a b => .fsub g d rm a b) fun a b => outF rm (Val.add rm (valF a) (valF b).negate)) ∧
  (∀ rm, Gives2 (fun g d a b => .fmul g d rm a b) fun a b => outF rm (Val.mul (valF a) (valF b))) ∧
  (∀ rm imm, Gives1 (fun g d a => .faddi32 g d rm a imm) fun a => outF rm (Val.add rm (valF a) (valF imm))) ∧
  (∀ rm imm, Gives1 (fun g d a => .fmuli32 g d rm a imm) fun a => outF rm (Val.mul (valF a) (valF imm))) ∧
  (∀ rm, Gives3 (fun g d a b c => .ffma g d rm a b c) fun a b c => outF rm (Val.fma rm (valF a) (valF b) (valF c))) ∧
  Gives2 .fmin (fun a b => (fp32.minmax false false a.toNat b.toNat).out) ∧
  Gives2 .fmax (fun a b => (fp32.minmax false true a.toNat b.toNat).out) ∧
  (∀ rm x, Gives1 (fun g d a => .frint g d rm x a) fun a => (fp32.rint rm x a.toNat).out) ∧
  (∀ s g d fmt h1 a, VecResult (.fclass g d fmt h1 a) s g a.scalar (usesBits fmt.bits a) d fun l =>
    plain (BitVec.ofNat 32 (2 ^ (fmtOf fmt).classOf (s.me.element fmt h1 a l))))

/-- R150: FP64 arithmetic on even-odd pairs: exact on the operands' values and rounded once. -/
def Obligations.Fp64Results : Prop :=
  (∀ rm, GivesD2 (fun g d a b => .dadd g d rm a b) fun a b => outD rm (Val.add rm (valD a) (valD b))) ∧
  (∀ rm, GivesD2 (fun g d a b => .dsub g d rm a b) fun a b => outD rm (Val.add rm (valD a) (valD b).negate)) ∧
  (∀ rm, GivesD2 (fun g d a b => .dmul g d rm a b) fun a b => outD rm (Val.mul (valD a) (valD b))) ∧
  (∀ rm, GivesD3 (fun g d a b c => .dfma g d rm a b c) fun a b c => outD rm (Val.fma rm (valD a) (valD b) (valD c))) ∧
  GivesD2 .dmin (fun a b => (fp64.minmax false false a.toNat b.toNat).out64) ∧
  GivesD2 .dmax (fun a b => (fp64.minmax false true a.toNat b.toNat).out64) ∧
  (∀ rm x, GivesD1 (fun g d a => .drint g d rm x a) fun a => (fp64.rint rm x a.toNat).out64)

/-- R84, R145, R150, R152: floating comparisons write the condition in each thread of W; a packed one combines the conditions of
its two elements. That FLUSH16 flushes the operands of HCMP2 and BCMP2 is the model's reading (log entry 26). -/
def Obligations.FloatComparisonResults : Prop :=
  (∀ cc, Compares2 (fun g q a b => .fcmp g q cc a b) fun a b => fcondHolds cc (valF a) (valF b)) ∧
  (∀ s g q cc a b, PredResult (.dcmp g q cc a b) s g false (a.uses 2 ++ b.uses 2) q fun l =>
    fcondHolds cc (valD (s.me.pair a l)) (valD (s.me.pair b l))) ∧
  (∀ s g q cc comb a b,
    let r (f : FloatFormat) (l : Fin 32) (hi : Bool) : Bool × Flags :=
      fcondHolds cc (elemVal f s.flush16 ((s.me.src a).lane l) hi) (elemVal f s.flush16 ((s.me.src b).lane l) hi)
    let both (f : FloatFormat) (l : Fin 32) : Bool × Flags :=
      (match comb with
        | .lo => (r f l false).1
        | .hi => (r f l true).1
        | .and => (r f l false).1 && (r f l true).1
        | .or => (r f l false).1 || (r f l true).1, (r f l false).2 ||| (r f l true).2)
    PredResult (.hcmp2 g q cc comb a b) s g (a.scalar || b.scalar) (a.uses 1 ++ b.uses 1) q (both fp16) ∧
    PredResult (.bcmp2 g q cc comb a b) s g (a.scalar || b.scalar) (a.uses 1 ++ b.uses 1) q (both bf16))

/-- R84, R143, R151: packed FP16 and BF16 arithmetic: the two elements of a lane are computed apart, flushed where the
launch says so, and packed again. -/
def Obligations.PackedFloatResults : Prop :=
  ∀ (s : State) (g : Guard) (d : Nat) (a b c : Src) (rm : Rm),
    let x (f : FloatFormat) (v : Src) (l : Fin 32) (hi : Bool) : Val := elemVal f s.flush16 ((s.me.src v).lane l) hi
    let e (v : Src) (l : Fin 32) (hi : Bool) : Nat := elem ((s.me.src v).lane l) hi
    let two (f : FloatFormat) (op : Val → Val → Exact) (l : Fin 32) : FOut :=
      packOut ((op (x f a l false) (x f b l false)).round f rm s.flush16) ((op (x f a l true) (x f b l true)).round f rm s.flush16)
    let three (f : FloatFormat) (l : Fin 32) : FOut :=
      packOut ((Val.fma rm (x f a l false) (x f b l false) (x f c l false)).round f rm s.flush16)
        ((Val.fma rm (x f a l true) (x f b l true) (x f c l true)).round f rm s.flush16)
    let ext (f : FloatFormat) (mx : Bool) (l : Fin 32) : FOut :=
      packOut (f.minmax s.flush16 mx (e a l false) (e b l false)) (f.minmax s.flush16 mx (e a l true) (e b l true))
    let r2 (i : Instr) (f : Fin 32 → FOut) : Prop := VecResult i s g (a.scalar || b.scalar) (a.uses 1 ++ b.uses 1) d f
    let r3 (i : Instr) (f : Fin 32 → FOut) : Prop :=
      VecResult i s g (a.scalar || b.scalar || c.scalar) (a.uses 1 ++ b.uses 1 ++ c.uses 1) d f
    r2 (.hadd2 g d rm a b) (two fp16 (Val.add rm)) ∧ r2 (.hmul2 g d rm a b) (two fp16 Val.mul) ∧
    r2 (.hmin2 g d a b) (ext fp16 false) ∧ r2 (.hmax2 g d a b) (ext fp16 true) ∧ r3 (.hfma2 g d rm a b c) (three fp16) ∧
    r2 (.badd2 g d rm a b) (two bf16 (Val.add rm)) ∧ r2 (.bmul2 g d rm a b) (two bf16 Val.mul) ∧
    r2 (.bmin2 g d a b) (ext bf16 false) ∧ r2 (.bmax2 g d a b) (ext bf16 true) ∧ r3 (.bfma2 g d rm a b c) (three bf16)

/-- R159 to R163: packed INT16 arithmetic, the dot product, and rounding shifts: exact on integers, then wrapped or clamped,
SAT set where a value was clamped. -/
def Obligations.PackedIntegerResults : Prop :=
  (∀ sat u, Gives2 (fun g d a b => .iadd2 g d sat u a b) fun a b => packInts u sat (fun h => intElem u a h + intElem u b h)) ∧
  (∀ sat u, Gives2 (fun g d a b => .isub2 g d sat u a b) fun a b => packInts u sat (fun h => intElem u a h - intElem u b h)) ∧
  (∀ sat u, Gives2 (fun g d a b => .imul2 g d sat u a b) fun a b => packInts u sat (fun h => intElem u a h * intElem u b h)) ∧
  (∀ u, Gives2 (fun g d a b => .imin2 g d u a b) fun a b => packInts u false (fun h => min (intElem u a h) (intElem u b h))) ∧
  (∀ u, Gives2 (fun g d a b => .imax2 g d u a b) fun a b => packInts u false (fun h => max (intElem u a h) (intElem u b h))) ∧
  (∀ sat, Gives1 (fun g d a => .iabs2 g d sat a) fun a => packInts false sat (fun h => |intElem false a h|)) ∧
  (∀ u, Gives2 (fun g d a b => .ipack2 g d u a b) fun a b => packInts u true (fun h => if h then b.toInt else a.toInt)) ∧
  (∀ ua ub, Gives3 (fun g d a b c => .idp2 g d ua ub a b c) fun a b c =>
    let v := c.toInt + intElem ua a false * intElem ub b false + intElem ua a true * intElem ub b true
    let w := max (-2 ^ 31) (min (2 ^ 31 - 1) v)
    ⟨BitVec.ofInt 32 w, if w = v then 0 else flagSAT⟩) ∧
  (∀ he s16, Gives2 (fun g d a b => .shrr g d he s16 a b) fun a b =>
    let r := roundedShift he 32 a.toInt b.toNat
    let w := max (-2 ^ 15) (min (2 ^ 15 - 1) r)
    if s16 then ⟨BitVec.ofInt 32 w, if w = r then 0 else flagSAT⟩ else plain (BitVec.ofInt 32 r)) ∧
  (∀ he u, Gives2 (fun g d a b => .shrr2 g d he u a b) fun a b =>
    packInts u false (fun h => roundedShift he 16 (intElem u a h) (elem b h)))

/-- R89, R141, R148 to R150: the special functions. Division and square root are exact and rounded once; the approximate
functions are those of the model (log entry 4 names what it leaves free). -/
def Obligations.SpecialFunctionResults : Prop :=
  (∀ s g d rm a b,
    let f (l : Fin 32) : FOut := outF rm (Val.div (valF ((s.me.src a).lane l)) (valF ((s.me.src b).lane l)))
    SpecialResult (.fdiv g d rm a b) s g (a.scalar || b.scalar) (a.uses 1 ++ b.uses 1) [(d, fun l => (f l).bits)]
      fun l => (f l).flags) ∧
  (∀ rm, Special1 (fun g d a => .fsqrt g d rm a) fun a => outF rm (Val.sqrt (valF a))) ∧
  Special1 .frcp (fun a => (frcp a).out) ∧ Special1 .frsq (fun a => (frsq a).out) ∧
  Special1 .fex2 (fun a => (fex2 a).out) ∧ Special1 .flg2 (fun a => (flg2 a).out) ∧
  Special1 .fsin (fun a => (ftrig 4 false a).out) ∧ Special1 .fcos (fun a => (ftrig 5 true a).out) ∧
  Special1 .ftanh (fun a => (ftanh a).out) ∧
  (∀ s g d rm a b,
    let f (l : Fin 32) : DOut := outD rm (Val.div (valD (s.me.pair a l)) (valD (s.me.pair b l)))
    SpecialResult (.ddiv g d rm a b) s g false (a.uses 2 ++ b.uses 2)
      [(d, fun l => (f l).bits.truncate 32), (d + 1, fun l => ((f l).bits >>> 32).truncate 32)] fun l => (f l).flags) ∧
  (∀ s g d rm a,
    let f (l : Fin 32) : DOut := outD rm (Val.sqrt (valD (s.me.pair a l)))
    SpecialResult (.dsqrt g d rm a) s g false (a.uses 2)
      [(d, fun l => (f l).bits.truncate 32), (d + 1, fun l => ((f l).bits >>> 32).truncate 32)] fun l => (f l).flags)

/-- R164 to R167, R171 to R173: instructions that move values between lanes, count and match. Every vector source is read
in all 32 lanes, a lane without a LIVE thread as 0. -/
def Obligations.CrossLaneResults : Prop :=
  ∀ (s : State) (g : Guard) (d : Nat) (a b c : Src),
    let W := s.wset g
    let A := s.me.liveLane a
    let B := s.me.liveLane b
    let C := s.me.liveLane c
    let vec (i : Instr) (scalar : Bool) (us : List Use) (f : Fin 32 → Word) : Prop :=
      VecResult i s g scalar us d fun l => plain (f l)
    (∀ mode k, mode ≠ .rev → 1 ≤ k → k ≤ 5 →
      vec (.shfl g d mode k a b) (a.scalar || b.scalar) (a.uses 1 ++ b.uses 1)
        fun l => A (Fin.ofNat 32 (shuffleSource mode (2 ^ k) l.val (B l)))) ∧
    (∀ k, 1 ≤ k → k ≤ 5 →
      vec (.shfl g d .rev k a b) a.scalar (a.uses 1) fun l => A (Fin.ofNat 32 (shuffleSource .rev (2 ^ k) l.val 0))) ∧
    vec (.bcast g d false a b) (a.scalar || b.scalar) (a.uses 1 ++ b.uses 1)
      (fun _ => A (Fin.ofNat 32 ((B W.lowest).toNat % 32))) ∧
    vec (.bcast g d true a b) a.scalar (a.uses 1) (fun _ => A W.lowest) ∧
    (∀ mode qa,
      let p := s.me.pred qa
      let n := LaneMask.count (W &&& p)
      let v : Word := match mode with
        | .cnt => BitVec.ofNat 32 n
        | .mask => W &&& p
        | .some => if 1 ≤ n then 1 else 0
        | .each => if n = LaneMask.count W then 1 else 0
        | .same => if n = 0 ∨ n = LaneMask.count W then 1 else 0
        | .odd => if n % 2 = 1 then 1 else 0
      vec (.vote g d mode false qa) false [] (fun _ => v) ∧
        (mode ≠ .cnt → mode ≠ .mask → PredResult (.vote g d mode true qa) s g false [] d fun _ => (v != 0, 0))) ∧
    vec (.match g d a) a.scalar (a.uses 1) (fun l =>
      let same := (LaneMask.lanes W).filter fun k => A k == A l
      BitVec.ofNat 32 (same.length * 2 ^ 16 + (same.countP fun k => decide (k < l)) * 2 ^ 8 + (same.headD 0).val)) ∧
    (∀ up half fill n, n ≤ (if half then 64 else 32) →
      vec (.slide g d up half fill n a b c) (a.scalar || (fill == .fb && b.scalar) || (fill == .fc && c.scalar))
        (a.uses 1 ++ (if fill == .fb then b.uses 1 else []) ++ (if fill == .fc then c.uses 1 else []))
        fun l =>
          let P : Int := if half then 64 else 32
          let unit (x : Fin 32 → Word) (q : Int) : Nat :=
            if half then (x (Fin.ofNat 32 (q.toNat / 2))).toNat / 2 ^ (16 * (q.toNat % 2)) % 2 ^ 16
            else (x (Fin.ofNat 32 q.toNat)).toNat
          let value (p : Nat) : Nat :=
            let q : Int := if up then (p : Int) - n else p + n
            if 0 ≤ q ∧ q < P then unit A q
            else match fill with
              | .fb => unit B (if up then q + P else q - P)
              | .fc => if half then (C l).toNat % 2 ^ 16 else (C l).toNat
              | .fz => 0
              | .fe => unit A (if up then 0 else P - 1)
          if half then BitVec.ofNat 32 (value (2 * l.val) + 2 ^ 16 * value (2 * l.val + 1))
          else BitVec.ofNat 32 (value l.val)) ∧
    PairResult (.intersect g d a b) s g (a.scalar || b.scalar) (a.uses 1 ++ b.uses 1) d (fun l =>
      let X := (LaneMask.lanes W).filter fun k => A k != 0xFFFFFFFF
      let Y := (LaneMask.lanes W).filter fun k => B k != 0xFFFFFFFF
      let lim := min (A (X.getLastD 0)).toNat (B (Y.getLastD 0)).toNat
      let empty : Bool := X.isEmpty || Y.isEmpty
      let advx := if empty then 0 else X.countP fun k => decide ((A k).toNat ≤ lim)
      let advy := if empty then 0 else Y.countP fun k => decide ((B k).toNat ≤ lim)
      let P := ((List.product X Y).filter fun p => A p.1 == B p.2).take (LaneMask.count W)
      let k := (LaneMask.lanes W).countP fun m => decide (m < l)
      plain64 (BitVec.ofNat 64 ((match P[k]? with
        | some p => p.1.val + p.2.val * 2 ^ 8
        | none => 0xFFFFFFFF) + 2 ^ 32 * (P.length * 2 ^ 16 + advy * 2 ^ 8 + advx))))

/-- R88, R168 to R170: reductions by a fixed pairwise tree, scans and segmented reductions one thread at a time in
ascending lane order. A step's flags are signalled by the lowest thread of W in its subtree, or by the thread that the step
combines. -/
def Obligations.ReductionResults : Prop :=
  ∀ (s : State) (g : Guard) (d : Nat) (rm : Rm) (op : RedOp) (a : Src),
    let W := s.wset g
    let A := s.me.liveLane a
    let node : Nat → Nat → Word := treeNode (fun x y => (redOp rm op x y).bits)
      fun i => if W.getLsbD i then A (Fin.ofNat 32 i) else redIdentity op
    (∀ k, 1 ≤ k → k ≤ 5 → VecResult (.redux g d rm op k a) s g a.scalar (a.uses 1) d fun l =>
      ⟨node k (l.val / 2 ^ k),
        (List.range k).foldl (fun acc j =>
          let i := l.val / 2 ^ (j + 1)
          if (LaneMask.lanes W).find? (fun m => m.val / 2 ^ (j + 1) == i) = some l then
            acc ||| (redOp rm op (node j (2 * i)) (node j (2 * i + 1))).flags
          else acc) 0⟩) ∧
    (∀ excl, VecResult (.scan g d rm op excl a) s g a.scalar (a.uses 1) d fun l =>
      let acc := scanBefore rm op A (LaneMask.lanes W) l
      let r := redOp rm op acc (A l)
      if W.getLsbD l.val then ⟨if excl then acc else r.bits, r.flags⟩ else plain 0) ∧
    (∀ qb, VecResult (.segred g d rm op a qb) s g a.scalar (a.uses 1) d fun l =>
      let seg := segmentOf W (s.me.pred qb) l
      if W.getLsbD l.val then
        ⟨seg.foldl (fun acc k => (redOp rm op acc (A k)).bits) (redIdentity op),
          (redOp rm op (scanBefore rm op A seg l) (A l)).flags⟩
      else plain 0)

/-- R84, R85, R153 to R158: conversions. The operand's value is rounded once to the destination; a 16-bit destination packs
two results, and the narrow formats pack four or eight, or unpack one, under a scale where one is given. -/
def Obligations.ConversionResults : Prop :=
  ∀ (s : State) (g : Guard) (d : Nat) (rm : Rm) (a b : Src),
    let e (f : Fmt) (h1 : Bool) (v : Src) (l : Fin 32) : Nat := s.me.element f h1 v l
    let n (bits : Nat) (v : Src) (l : Fin 32) : Nat := s.me.bitsLane bits v l
    (∀ src dst h1,
      let c (x : Nat) : Rounded := convertFloat src dst rm s.flush16 x
      (dst.half = true → src.half = false → VecResult (.cvtff g d rm src dst h1 a b) s g (a.scalar || b.scalar)
        (usesBits src.bits a ++ usesBits src.bits b) d
        fun l => (packRounded (c (e src false a l)) (c (e src false b l))).out) ∧
      (dst.half = true → src.half = true → VecResult (.cvtff g d rm src dst h1 a b) s g a.scalar (usesBits src.bits a) d
        fun l => (packRounded (c (e src false a l)) (c (e src true a l))).out) ∧
      (dst.half = false → BitsResult dst.bits (.cvtff g d rm src dst h1 a b) s g a.scalar (usesBits src.bits a) d
        fun l => c (e src h1 a l))) ∧
    (∀ src dst h1, BitsResult dst.bits (.cvtfi g d rm src dst h1 a) s g a.scalar (usesBits src.bits a) d fun l =>
      ((fmtOf src).flushIn (s.flush16 && src.half) ((fmtOf src).decode (e src h1 a l))).toInteger rm
        (dst == .s32 || dst == .s64) dst.bits) ∧
    (∀ dst src,
      let c (v : Src) (l : Fin 32) : Rounded := (fmtOf dst).round rm true (s.flush16 && dst.half)
        (.ofInt (intOf (src == .s32 || src == .s64) src.bits (n src.bits v l)))
      (dst.half = true → VecResult (.cvtif g d rm dst src a b) s g (a.scalar || b.scalar)
        (usesBits src.bits a ++ usesBits src.bits b) d fun l => (packRounded (c a l) (c b l)).out) ∧
      (dst.half = false → BitsResult dst.bits (.cvtif g d rm dst src a b) s g a.scalar (usesBits src.bits a) d (c a))) ∧
    (∀ src dst idx sat, BitsResult dst.bits (.cvtii g d src dst idx sat a) s g a.scalar (usesBits src.bits a) d fun l =>
      placeInt (intTypeSigned dst) sat dst.bits
        (intOf (intTypeSigned src) src.bits (n src.bits a l / 2 ^ (src.bits * idx)))) ∧
    (∀ e5 nosat idx sc, VecResult (.cvt8 g d rm false e5 nosat idx sc a b) s g a.scalar (a.uses 4) d fun l =>
      (packMany 8 ((List.range 4).map fun k =>
        (if e5 then e5m2 else e4m3).round rm (!nosat) false (valF ((s.me.srcAt a k).lane l)))).out) ∧
    (∀ idx sc, VecResult (.cvt4 g d rm false idx sc a b) s g a.scalar (a.uses 8) d fun l =>
      (packMany 4 ((List.range 8).map fun k => e2m1.round rm true false (valF ((s.me.srcAt a k).lane l)))).out) ∧
    (∀ e5 nosat idx,
      let x (l : Fin 32) : Val := (if e5 then e5m2 else e4m3).decode (((s.me.src a).lane l).toNat / 2 ^ (8 * idx) % 2 ^ 8)
      VecResult (.cvt8 g d rm true e5 nosat idx false a b) s g a.scalar (a.uses 1) d
        (fun l => (fp32.round rm true false (x l)).out) ∧
      VecResult (.cvt8 g d rm true e5 nosat idx true a b) s g (a.scalar || b.scalar) (a.uses 1 ++ b.uses 1) d
        (fun l => (scaleElement rm (x l) ((s.me.src b).lane l).toNat).out)) ∧
    (∀ idx,
      let x (l : Fin 32) : Val := e2m1.decode (((s.me.src a).lane l).toNat / 2 ^ (4 * idx) % 2 ^ 4)
      VecResult (.cvt4 g d rm true idx false a b) s g a.scalar (a.uses 1) d
        (fun l => (fp32.round rm true false (x l)).out) ∧
      VecResult (.cvt4 g d rm true idx true a b) s g (a.scalar || b.scalar) (a.uses 1 ++ b.uses 1) d
        (fun l => (scaleElement rm (x l) ((s.me.src b).lane l).toNat).out))

/-- R98, R126 to R130, R134: branches. Each thread of W goes to its target, the rest of the run to the next instruction. BRA.U
and the `.uni` forms first check that the run agrees; a misaligned register target moves no thread. -/
def Obligations.Branches : Prop :=
  ∀ (s : State) (g : Guard) (off : Word) (a : Src),
    let W := s.wset g
    let rel (x : Word) : VAddr := s.cur.pc + x.signExtend 57
    let goes (f : Fin 32 → Word) (l : Fin 32) : BitVec 55 :=
      if W.getLsbD l.val then (rel (f l)).extractLsb' 2 55 else s.cur.next
    let direct := s.laneAt (goes fun _ => off)
    let x (l : Fin 32) : Word := (s.me.src a).lane l
    let agrees : Prop := s.me.predUniform g.q = true ∨ W = 0 ∨ W = s.cur.run
    let one : Prop := (s.me.src a).isU = true ∨ ∀ l : Fin 32, W.getLsbD l.val = true → x l = x W.lowest
    let aligned : Prop := ∀ l : Fin 32, W.getLsbD l.val = true → (rel (x l)).toNat % 4 = 0
    Steps (.bra g off) s s.me direct ∧
    (agrees → Steps (.braU g off) s s.me direct) ∧
    (¬agrees → Raises (.braU g off) s 0x03 1) ∧
    (Readable s a.scalar (a.uses 1) →
      (aligned → Steps (.brx g false a) s (s.me.free (s.frees (a.uses 1) [])) (s.laneAt (goes x))) ∧
      (agrees → one → aligned → Steps (.brx g true a) s (s.me.free (s.frees (a.uses 1) [])) (s.laneAt (goes x))) ∧
      (¬agrees → Raises (.brx g true a) s 0x03 1) ∧
      (agrees → ¬one → Raises (.brx g true a) s 0x03 2) ∧
      (¬aligned → Raises (.brx g false a) s 0x0E 0)) ∧
    Steps (.nop g) s s.me (s.laneAt fun _ => s.cur.next) ∧
    Steps (.nopw g) s s.me (s.laneAt fun _ => s.cur.next)

/-- R15, R130 to R132: calls push the next instruction's address for each thread of W and move it, or trap RETFULL and move
none; a return pops each thread's own link, and traps RETEMPTY for the threads without one. -/
def Obligations.CallsAndReturns : Prop :=
  ∀ (s : State) (g : Guard) (off : Word) (a : Src),
    let W := s.wset g
    let rel (x : Word) : VAddr := s.cur.pc + x.signExtend 57
    let x (l : Fin 32) : Word := (s.me.src a).lane l
    let called (f : Fin 32 → Word) (l : Fin 32) : Lane :=
      let k := s.laneAt (fun l => if W.getLsbD l.val then (rel (f l)).extractLsb' 2 55 else s.cur.next) l
      if W.getLsbD l.val then { k with stack := ⟨s.cur.next, false⟩ :: s.me.lanes[l].stack } else k
    let full := (LaneMask.lanes W).countP fun l => decide (16 ≤ s.me.lanes[l].stack.length)
    let agrees : Prop := s.me.predUniform g.q = true ∨ W = 0 ∨ W = s.cur.run
    let one : Prop := (s.me.src a).isU = true ∨ ∀ l : Fin 32, W.getLsbD l.val = true → x l = x W.lowest
    let aligned : Prop := ∀ l : Fin 32, W.getLsbD l.val = true → (rel (x l)).toNat % 4 = 0
    let E := LaneMask.of fun l => W.getLsbD l.val && s.me.lanes[l].stack.isEmpty
    let back (l : Fin 32) : BitVec 55 :=
      if W.getLsbD l.val then (match s.me.lanes[l].stack with
        | k :: _ => k.pc
        | [] => 0) else s.cur.next
    let popped (l : Fin 32) : Lane :=
      if W.getLsbD l.val && !E.getLsbD l.val then { s.me.lanes[l] with stack := s.me.lanes[l].stack.tail }
      else s.me.lanes[l]
    (full = 0 → Steps (.call g off) s s.me (called fun _ => off)) ∧
    (full ≠ 0 → Raises (.call g off) s 0x15 full) ∧
    (Readable s a.scalar (a.uses 1) → aligned → full = 0 →
      Steps (.calli g false a) s (s.me.free (s.frees (a.uses 1) [])) (called x) ∧
      (agrees → one → Steps (.calli g true a) s (s.me.free (s.frees (a.uses 1) [])) (called x))) ∧
    (Readable s a.scalar (a.uses 1) → aligned → full ≠ 0 → Raises (.calli g false a) s 0x15 full ∧
      (agrees → one → Raises (.calli g true a) s 0x15 full)) ∧
    (E = 0 → Steps (.ret g) s s.me fun l =>
      { popped l with pc := if s.cur.run.getLsbD l.val then back l else s.me.lanes[l].pc }) ∧
    (E ≠ 0 → s.myLaunch.tvec ≠ 0 → s.me.hndl = false → ∃ t, exec (.ret g) s = .next t ∧
      Entered s t E s.cur.run back popped E.lowest.val s.cur.pc 0x0A (LaneMask.count E)) ∧
    (E ≠ 0 → s.myLaunch.tvec = 0 ∨ s.me.hndl = true → ∃ u : State, u = { s with warps := u.warps } ∧
      exec (.ret g) s = .next (u.kill s.me.blk
        ⟨0x0A, LaneMask.count E, E.lowest.val, s.cur.pc, E, s.me.hndl, s.me.index⟩))

/-- R135, R136, R137, R246, R382 to R386: waiting, parking, software traps and the return from a handler. The model's readings:
YIELD with an empty W sets its warp aside (log entry 31), and RTE with an empty W returns (log entry 95). -/
def Obligations.WaitsTrapsAndReturns : Prop :=
  ∀ (s : State) (g : Guard) (off : Word) (imm : Imm16),
    let W := s.wset g
    let on := s.laneAt fun _ => s.cur.next
    let rec' : VAddr := if off.toNat % 8 = 0 then s.cur.pc + off.signExtend 57 else (s.cur.pc + off.signExtend 57) ||| 1
    let parked (l : Fin 32) : Lane := if W.getLsbD l.val then { on l with parked := true, lrec := rec' } else on l
    (s.parks = true → Steps (.yield g off) s s.me parked) ∧
    (s.parks = false → s.myLaunch.proof = true → Steps (.yield g off) s s.me on) ∧
    (s.parks = false → s.myLaunch.proof = false →
      Steps (.yield g off) s { s.me with aside := 33, asidePeers := s.asidePeers } on) ∧
    (s.parks = true → Steps (.phint g off) s s.me parked) ∧
    (s.parks = false → Steps (.phint g off) s s.me on) ∧
    (W = 0 ∨ imm = 0 ∨ s.myLaunch.proof = true → Steps (.sleep g imm) s s.me on) ∧
    (W ≠ 0 → imm ≠ 0 → s.myLaunch.proof = false → Steps (.sleep g imm) s { s.me with sleep := imm.toNat + 1 } on) ∧
    (W = 0 → Steps (.bkpt g imm) s s.me on ∧ Steps (.trap g imm) s s.me on) ∧
    (W ≠ 0 → Raises (.bkpt g imm) s 0x12 imm.toNat ∧ Raises (.trap g imm) s 0x13 imm.toNat) ∧
    (s.me.hndl = false → Raises (.rte g) s 0x08 6) ∧
    (s.me.hndl = true →
      Steps (.rte g) s { s.me with hndl := false, tmask := false, khbudget := 65536 } fun l =>
        if s.me.trapMask.getLsbD l.val && s.me.lanes[l].st == .live then
          { s.me.lanes[l] with pc := s.me.kepc.extractLsb' 2 55 }
        else on l)

/-- R5, R33, R35, R58, R241, R245, R345: writes of control registers reach their RW fields alone, KFLAGS from anywhere and KCAUSE and
KEPC only in a handler; any other register raises PROT with reason 5, and an operand that differs within W raises UNIFORM.
Outside proof mode DETPT has no effect; a recording run appends its entry to the log, and a replaying run compares it with the
next one. The model's readings: CSRW raises PROT with an empty W too (R58; log entry 29), DETPT with an empty W has no entry (log
entry 95), the words byte of an entry, and which difference gives which DETAIL (log entry 39). -/
def Obligations.ControlRegisterWrites : Prop :=
  ∀ (s : State) (g : Guard) (num : Nat) (hi : Bool) (a : Src) (tag : Imm16),
    let W := s.wset g
    let x := (s.me.src a).lane W.lowest
    let on := s.laneAt fun _ => s.cur.next
    let w := s.me.free (s.frees (a.uses 1) [])
    let one : Prop := (s.me.src a).isU = true ∨ ∀ l : Fin 32, W.getLsbD l.val = true → (s.me.src a).lane l = x
    let mayWrite : Prop := num = 0x001 ∨ ((num = 0x002 ∨ num = 0x003) ∧ s.me.hndl = true)
    (Readable s a.scalar (a.uses 1) → one → W ≠ 0 →
      Steps (.csrw g 0x001 hi a) s { w with kflags := x &&& 0x1F7F } on ∧
      (s.me.hndl = true →
        Steps (.csrw g 0x002 hi a) s { w with kcause := x &&& 0xFFFF1FFF } on ∧
        Steps (.csrw g 0x003 false a) s { w with kepc := s.me.kepc.extractLsb' 32 25 ++ x } on ∧
        Steps (.csrw g 0x003 true a) s { w with kepc := x.truncate 25 ++ s.me.kepc.truncate 32 } on)) ∧
    (Readable s a.scalar (a.uses 1) → mayWrite → W = 0 → Steps (.csrw g num hi a) s w on) ∧
    (Readable s a.scalar (a.uses 1) → mayWrite → ¬one → Raises (.csrw g num hi a) s 0x03 3) ∧
    ((a.scalar = true → s.me.converged = true) → ¬mayWrite → Raises (.csrw g num hi a) s 0x08 5) ∧
    (Readable s a.scalar (a.uses 1) →
      (s.myLaunch.proof = false ∨ W = 0 ∨ (s.myLaunch.recording = false ∧ s.myLaunch.replay = false)) →
      Steps (.detpt g a tag) s w on) ∧
    (Readable s a.scalar (a.uses 1) → s.myLaunch.proof = true → W ≠ 0 →
      let l := s.myLaunch
      let values := (List.finRange 32).flatMap fun k =>
        leBytes 4 (if W.getLsbD k.val then ((s.me.src a).lane k).toNat else 0)
      let payload := leBytes 4 tag.toNat ++ shake256 values 8
      let front := leBytes 8 l.retired ++ leBytes 2 (s.me.blk % 32 * 32 + s.me.index) ++ [2]
      let mask := leBytes 4 W.toNat
      let logged (t : State) : Prop := Moves s t (fun _ => s.cur.next) ∧
        t.me = { w with lanes := t.me.lanes, waitCount := 0 } ∧
        t.launch s.myBlock.launch = { l with logPos := l.logPos + 32, retired := l.retired + 1 }
      let ended (d : Nat) : Prop := exec (.detpt g a tag) s =
        .next (s.kill s.me.blk ⟨0x16, d, s.cur.run.lowest.val, s.cur.pc, s.cur.run, s.me.hndl, s.me.index⟩)
      let place (need : Need) (x : Xlat) : Prop := l.logPos + 32 ≤ l.logSize ∧
        s.rangeWalk s.myCtx need (l.logAddr + l.logPos) 32 = .ok [(x, 32)] ∧ isExternal x.loc = false ∧ x.disc = false ∧
        s.waitsOn s.myCtx (.warp s.cur.slot) (l.logAddr + l.logPos) 32 = false ∧ Map.find s.blocks (2 ^ 40) = none
      (l.recording = true ∨ l.replay = true → l.logSize < l.logPos + 32 → ended 0xFFFE) ∧
      (l.recording = true → ∀ x, place .write x →
        ∃ t, exec (.detpt g a tag) s = .next t ∧ logged t ∧
          t.mem = s.mem.putBytes x.loc (front ++ leBytes 1 detWords ++ mask ++ payload ++ leBytes 4 0)) ∧
      (l.recording = false → l.replay = true → ∀ x, place .read x →
        let e := s.mem.bytes x.loc 32
        let same : Prop := e.take 11 = front ∧ (e.drop 12).take 4 = mask
        (same → (e.drop 16).take 12 = payload → ∃ t, exec (.detpt g a tag) s = .next t ∧ logged t ∧ t.mem = s.mem) ∧
        (same → (e.drop 16).take 12 ≠ payload → ended tag.toNat) ∧
        (¬same → ended 0xFFFF)))

/-- R24, R26, R29, R88, R382: what keeps an instruction from running, shown by an addition of two sources, an FP32 addition
and a scalar addition. The order of these waits and traps is the model's reading (log entry 23): a scalar register in a diverged warp, an empty source with TE, an empty source or destination, a
register past the declared peak, and an enabled floating-point condition, which traps with every condition signalled. -/
def Obligations.ChecksBeforeEffect : Prop :=
  ∀ (s : State) (g : Guard) (d : Nat) (a b : Src) (rm : Rm) (x y : SSrc),
    let W := s.wset g
    let us := a.uses 1 ++ b.uses 1
    let scalar := a.scalar || b.scalar
    (scalar = true → s.me.converged = false → Raises (.iadd g d a b) s 0x04 0) ∧
    (s.me.converged = false → Raises (.sadd g d x y) s 0x04 0) ∧
    ((scalar = true → s.me.converged = true) → ∀ u ∈ us, s.me.full u.n = false →
      (∀ v ∈ us.takeWhile (fun v => v != u), s.me.full v.n = true) →
      (u.te = true → Raises (.iadd g d a b) s 0x05 u.n) ∧
      (u.te = false → exec (.iadd g d a b) s = .next s)) ∧
    (Readable s scalar us → s.me.full d = false → exec (.iadd g d a b) s = .next s) ∧
    (Readable s scalar us → s.me.full d = true → W ≠ 0 →
      (s.me.free (s.frees us [d])).vreg d = ⟨.n, 0⟩ → d ∉ (s.me.free (s.frees us [d])).promised →
      s.myLaunch.regs ≤ (s.me.free (s.frees us [d])).allocatedRegs.length + (s.me.free (s.frees us [d])).promised.length →
      Raises (.iadd g d a b) s 0x0B d) ∧
    (Ready s W scalar us [d] → s.me.hndl = false → s.myLaunch.tvec ≠ 0 →
      let r (l : Fin 32) : FOut := outF rm (Val.add rm (valF ((s.me.src a).lane l)) (valF ((s.me.src b).lane l)))
      let bad := LaneMask.of fun l => W.getLsbD l.val && (r l).flags &&& s.me.enables != 0
      bad ≠ 0 → ∃ t, exec (.fadd g d rm a b) s = .next t ∧
        Entered s t s.cur.run s.cur.run (fun _ => 0) (fun l => s.me.lanes[l]) bad.lowest.val s.cur.pc 0x0D
          (flagsOf W (fun l => (r l).flags) &&& 0x1F).toNat)

/-- R176, R177, R184, R185: LD. In-bounds threads of W read their elements through the block's version, the others zero; the
values are in flight to the destination group, and no byte of memory changes. -/
def Obligations.RecordLoads : Prop :=
  ∀ (s : State) (g : Guard) (d : Nat) (wid : Width) (hint : Hint) (acq : Bool) (sc : Scope) (br : Nat) (a : Src) (off : Word),
    let W := s.wset g
    let r := s.me.breg br
    let n := widthBytes wid
    let i (l : Fin 32) : Int := recIndex ((s.me.src a).lane l) off
    let ds := regGroup d wid.regs
    Readable s a.scalar (a.uses 1) → s.memGate W (recGuard r) false = .go → RecordOk s W r a off n →
    Mapped s .read n (recLanes r W i) → s.destGate W (a.uses 1) ds = .go → s.myLaunch.proof = false →
    InFlight (.ld g d wid hint acq sc br a off) s W 0 (s.frees (a.uses 1) ds)
      ((List.range wid.regs).map fun k => (d + k, fun l =>
        if recInside r (i l) then loadedWord (wid == .s8 || wid == .s16) n
          (((s.xlat .read (recAddr r (i l))).map fun x => s.readAt (s.version s.me.blk) x n).getD 0) k
        else 0)) 0
      fun t => OnlyReads s t ∧ (acq = false → t.cores = s.cores)

/-- R176, R180, R186, R196: ST. Each in-bounds thread of W, in ascending lane order, writes the low bytes of its source at
its element: to memory, or in a versioned launch to the block's version; every other byte is as before. -/
def Obligations.RecordStores : Prop :=
  ∀ (s : State) (g : Guard) (wid : Width) (hint : Hint) (rel : Bool) (sc : Scope) (br : Nat) (a : Src) (off : Word) (v : Src),
    let W := s.wset g
    let r := s.me.breg br
    let n := widthBytes wid
    let us := a.uses 1 ++ v.uses wid.regs
    let ls := recLanes r W fun l => recIndex ((s.me.src a).lane l) off
    let value (l : Nat) : Nat := wordsAt (s.me.words v wid.regs) l
    Readable s (a.scalar || v.scalar) us → s.memGate W (recGuard r) false = .go → RecordOk s W r a off n →
    Mapped s .write n ls → s.releaseGate W rel = .go →
    s.versionFull s.me.blk (ls.map fun p => s.phys .write p.2 / 128) = false →
    ∃ t, exec (.st g wid hint rel sc br a off v) s = .next t ∧ Accesses s t ∧ Moves s t (fun _ => s.cur.next) ∧
      t.me = { s.me.free (s.frees us []) with lanes := t.me.lanes, waitCount := 0 } ∧
      (s.versioned s.me.blk = false → t.blocks = s.blocks ∧ t.mem = s.memAfter .write n (fun l _ => value l) ls ∧
        OnlyThere s t .write n ls) ∧
      (s.versioned s.me.blk = true → (∀ x, t.mem.byte x = s.mem.byte x) ∧
        (∀ b, b ≠ s.me.blk → t.block b = s.block b) ∧
        (t.block s.me.blk).version = ls.foldl (fun ver p => putVersion ver (s.phys .write p.2) (leBytes n (value p.1)))
          s.myBlock.version)

/-- R37, R180, R181, R184 to R186: LDS and STS. Threads read and write core SRAM at (A + offset) mod 2³², lanes ascending, so
that the highest lane's value remains; no byte of memory changes. -/
def Obligations.CoreSramAccesses : Prop :=
  ∀ (s : State) (g : Guard) (d : Nat) (wid : Width) (a : Src) (off : Word) (v : Src),
    let W := s.wset g
    let n := widthBytes wid
    let addr (l : Fin 32) : Nat := (((s.me.src a).lane l).toNat + off.toNat) % 2 ^ 32
    let us := a.uses 1 ++ v.uses wid.regs
    let ds := regGroup d wid.regs
    let kept (_ : Fin 32) (old : Nat) : Nat := old
    s.memGate W 0 false = .go → s.sramGate s.me.blk W addr n n = .go → (Map.find s.blocks s.me.blk).isSome = true → Map.sorted s.blocks = true →
    (Readable s a.scalar (a.uses 1) → s.destGate W (a.uses 1) ds = .go → s.myLaunch.proof = false →
      InFlight (.lds g d wid a off) s W 0 (s.frees (a.uses 1) ds)
        ((List.range wid.regs).map fun k => (d + k, fun l =>
          loadedWord (wid == .s8 || wid == .s16) n (s.bankBefore s.me.blk n addr kept 0 l) k)) 0 (OnlyMe s)) ∧
    (Readable s (a.scalar || v.scalar) us →
      ∃ t, exec (.sts g wid a off v) s = .next t ∧ SramAccess s t ∧ Moves s t (fun _ => s.cur.next) ∧
        t.me = { s.me.free (s.frees us []) with lanes := t.me.lanes, waitCount := 0 } ∧
        ∀ b, t.bank b =
          s.banksAfter s.me.blk n addr (fun l _ => wordsAt (s.me.words v wid.regs) l.val) (LaneMask.lanes W) b)

/-- R193 to R195: ATOM and RED. The threads of W read, combine and write one after another in ascending lane order; ATOM
delivers what each found. Every byte outside their elements is as before. -/
def Obligations.GlobalAtomics : Prop :=
  ∀ (s : State) (g : Guard) (d : Nat) (op : AtomOp) (w64 lam acq rel : Bool) (sc : Scope) (br : Nat) (a : Src) (off : Word)
    (v : Src),
    let W := s.wset g
    let r := s.me.breg br
    let n := if w64 then 8 else 4
    let i (l : Fin 32) : Int := recIndex ((s.me.src a).lane l) off
    let ls := recLanes r W i
    let k := atomWords op w64
    let us := a.uses 1 ++ v.uses k
    let ds := regGroup d (if w64 then 2 else 1)
    let x (l : Nat) : Nat := wordsAt ((s.me.words v k).take (n / 4)) l
    let y (l : Nat) : Nat := wordsAt ((s.me.words v k).drop (n / 4)) l
    let f (l old : Nat) : Nat := atomNew op (8 * n) old (x l) (y l)
    let before (l : Fin 32) : Nat :=
      (s.memAfter .both n f (ls.filter fun p => decide (p.1 < l.val))).read (s.phys .both (recAddr r (i l))) n
    Readable s (a.scalar || v.scalar) us → s.memGate W (recGuard r) false = .go → RecordOk s W r a off n →
    Mapped s .both n ls → s.releaseGate W (rel || lam) = .go → s.versioned s.me.blk = false →
    (lam = true → s.myLaunch.vers = false) →
    (s.destGate W us ds = .go → s.myLaunch.proof = false →
      InFlight (.atom g d op w64 lam acq rel sc br a off v) s W 0 (s.frees us ds)
        ((List.range (if w64 then 2 else 1)).map fun j => (d + j, fun l =>
          if recInside r (i l) then BitVec.ofNat 32 (before l / 2 ^ (32 * j)) else 0)) 0
        fun t => Accesses s t ∧ t.blocks = s.blocks ∧ t.mem = s.memAfter .both n f ls ∧ OnlyThere s t .both n ls) ∧
    ∃ t, exec (.red g op w64 lam acq rel sc br a off v) s = .next t ∧ Accesses s t ∧ Moves s t (fun _ => s.cur.next) ∧
      t.me = { s.me.free (s.frees us []) with lanes := t.me.lanes, waitCount := 0 } ∧
      t.blocks = s.blocks ∧ t.mem = s.memAfter .both n f ls ∧ OnlyThere s t .both n ls

/-- R193 to R195, R202 to R204: atomic operations and phase words in core SRAM. Lanes take their turns in ascending order and
get what they found; an arrival counts down and, at the last one, flips the phase and starts the next; a poll delivers the
word at once, and a wait leaves its destination empty. -/
def Obligations.CoreSramSynchronisation : Prop :=
  ∀ (s : State) (g : Guard) (d : Nat) (op : AtomOp) (w64 acq rel p : Bool) (sc : Scope) (a : Src) (off : Word) (v : Src)
    (n : Nat),
    let W := s.wset g
    let addr (l : Fin 32) : Nat := (((s.me.src a).lane l).toNat + off.toNat) % 2 ^ 32
    let m := if w64 then 8 else 4
    let k := atomWords op w64
    let us := a.uses 1 ++ v.uses k
    let ds := regGroup d (if w64 then 2 else 1)
    let f (l : Fin 32) (old : Nat) : Nat := atomNew op (8 * m) old
      (wordsAt ((s.me.words v k).take (m / 4)) l.val) (wordsAt ((s.me.words v k).drop (m / 4)) l.val)
    let arrive (_ : Fin 32) (old : Nat) : Nat :=
      if n < old % 2 ^ 14 then old - n
      else (old ^^^ 2 ^ 31) / 2 ^ 14 * 2 ^ 14 + max (old / 2 ^ 14 % 2 ^ 14) 1
    let kept (_ : Fin 32) (old : Nat) : Nat := old
    s.memGate W 0 false = .go → (Map.find s.blocks s.me.blk).isSome = true → Map.sorted s.blocks = true →
    (s.sramGate s.me.blk W addr m m = .go → Readable s (a.scalar || v.scalar) us → s.releaseGate W rel = .go →
      s.destGate W us ds = .go → s.myLaunch.proof = false →
      InFlight (.atoms g d op w64 acq rel sc a off v) s W 0 (s.frees us ds)
        ((List.range (if w64 then 2 else 1)).map fun j => (d + j, fun l =>
          BitVec.ofNat 32 (s.bankBefore s.me.blk m addr f W l / 2 ^ (32 * j)))) 0
        fun t => SramAccess s t ∧ ∀ b, t.bank b = s.banksAfter s.me.blk m addr f (LaneMask.lanes W) b) ∧
    (s.sramGate s.me.blk W addr 4 4 = .go → s.releaseGate W true = .go → 1 ≤ n → n < 2 ^ 14 →
      (Ready s W a.scalar (a.uses 1) [d] →
        ∃ t, exec (.arrive g d false rel sc a off n) s = .next t ∧ SramAccess s t ∧ Moves s t (fun _ => s.cur.next) ∧
          Writes s t { W := W, frees := s.frees (a.uses 1) [d], regs := [(d, fun l =>
            BitVec.ofNat 32 (s.bankBefore s.me.blk 4 addr arrive W l))] } ∧
          ∀ b, t.bank b = s.banksAfter s.me.blk 4 addr arrive (LaneMask.lanes W) b) ∧
      (Readable s a.scalar (a.uses 1) →
        ∃ t, exec (.arrive g d true rel sc a off n) s = .next t ∧ SramAccess s t ∧ Moves s t (fun _ => s.cur.next) ∧
          t.me = { s.me.free (s.frees (a.uses 1) []) with lanes := t.me.lanes, waitCount := 0 } ∧
          ∀ b, t.bank b = s.banksAfter s.me.blk 4 addr arrive (LaneMask.lanes W) b)) ∧
    (s.sramGate s.me.blk W addr 4 4 = .go → Ready s W a.scalar (a.uses 1) [d] →
      (∃ t, exec (.waitph g d true acq sc a off p) s = .next t ∧ SramAccess s t ∧ Moves s t (fun _ => s.cur.next) ∧
        Writes s t { W := W, frees := s.frees (a.uses 1) [d], regs := [(d, fun l =>
          BitVec.ofNat 32 (s.bankBefore s.me.blk 4 addr kept 0 l))] } ∧ ∀ b, t.bank b = s.bank b) ∧
      (W ≠ 0 → s.myLaunch.proof = false → ∃ t, exec (.waitph g d false acq sc a off p) s = .next t ∧ OnlyMe s t ∧
        Moves s t (fun _ => s.cur.next) ∧
        t.me = { s.me with lanes := t.me.lanes, vregs := t.me.vregs, waits := t.me.waits, waitCount := 0 } ∧
        t.me.vreg d = ⟨(s.me.vreg d).st, W⟩ ∧
        (∀ j, j ≠ d → t.me.vreg j = if j ∈ s.frees (a.uses 1) [d] then ⟨.n, 0⟩ else s.me.vreg j) ∧
        t.me.waits = s.me.waits ++ [phaseWait d p acq sc ((LaneMask.lanes W).map fun l => (l.val, addr l)) W
          (W == s.me.live) s.cur.pc s.cur.run]))

/-- R187, R189, R190, R192, R306, R425: the collector, prefetch, discard and bricks. GATHER and SCATTER leave their lanes'
requests in the core's collector, a GATHER at one address for all its lanes one request; PREF changes no value; DISCARD marks the
pages that its record covers whole; a brick held in the brick cache or loaded gives its trilinear value and gradient, and a
loaded one is kept unless bytes of it lie on another device. That DISCARD skips a page that it may not write is the model's
reading (log entry 41), and so is which brick leaves a full cache (log entry 38). -/
def Obligations.CollectorDiscardAndBricks : Prop :=
  ∀ (s : State) (g : Guard) (d : Nat) (wid : Width) (hint : Hint) (keep : Bool) (br : Nat) (a : Src) (off : Word) (v : Src)
    (p : VSrc),
    let W := s.wset g
    let r := s.me.breg br
    let n := widthBytes wid
    let i (l : Fin 32) : Int := recIndex ((s.me.src a).lane l) off
    let ls := recLanes r W i
    let ds := regGroup d wid.regs
    let collector (t : State) := (t.core s.myCore).collector
    (wid ≠ .b128 → s.memGate W (recGuard r) true = .go → RecordOk s W r a off n → s.myLaunch.proof = false →
      (W ≠ 0 → s.me.role = .any ∨ s.me.role = .feed) → (s.core s.myCore).requests + ls.length < 256 →
      (Readable s a.scalar (a.uses 1) → Mapped s .read n ls → s.destGate W (a.uses 1) ds = .go →
        let one := (s.me.src a).isU
        let asked := if one = true then ls.take 1 else ls
        InFlight (.gather g d wid hint br a off) s W (if one = true ∧ ls ≠ [] then W else maskOf (ls.map Prod.fst))
          (s.frees (a.uses 1) ds) (ds.map fun k => (k, fun _ => 0)) 0
          fun t => OnlyReads s t ∧ collector t = collector s ++ (if ls.isEmpty then [] else
            [⟨s.cur.slot, some d, n, wid == .s8 || wid == .s16,
              asked.filterMap fun q => (s.xlat .read q.2).map fun x => (q.1, x),
              asked.map fun q => (q.1, 0), W, W == s.me.live, one⟩])) ∧
      (Readable s (a.scalar || v.scalar) (a.uses 1 ++ v.uses wid.regs) → Mapped s .write n ls →
        s.versioned s.me.blk = false →
        ∃ t, exec (.scatter g wid hint br a off v) s = .next t ∧ OnlyReads s t ∧ Moves s t (fun _ => s.cur.next) ∧
          t.me = { s.me.free (s.frees (a.uses 1 ++ v.uses wid.regs) []) with lanes := t.me.lanes, waitCount := 0 } ∧
          collector t = collector s ++ (if ls.isEmpty then [] else
            [⟨s.cur.slot, none, n, false, ls.filterMap fun q => (s.xlat .write q.2).map fun x => (q.1, x),
              ls.map fun q => (q.1, wordsAt (s.me.words v wid.regs) q.1), W, W == s.me.live, false⟩]))) ∧
    (Readable s a.scalar (a.uses 1) → s.memGate W (recGuard r) false = .go → (W ≠ 0 → recBad r = false) →
      Steps (.pref g keep br a off) s (s.me.free (s.frees (a.uses 1) [])) (s.laneAt fun _ => s.cur.next) ∧
      (s.versioned s.me.blk = false → s.discardMoving ls = false → s.me.pendings = [] →
        ∃ t, exec (.discard g br a off) s = .next t ∧ Moves s t (fun _ => s.cur.next) ∧
          t.me = { s.me.free (s.frees (a.uses 1) []) with lanes := t.me.lanes, waitCount := 0 } ∧
          t = { s with warps := t.warps, launches := t.launches, mem := t.mem, frames := t.frames, ctxs := t.ctxs,
                       oldCode := t.oldCode } ∧
          (∀ c, t.ctx c = { s.ctx c with tlb := (t.ctx c).tlb }) ∧
          ∀ y, t.mem.byte y = ((s.discardPages r ls).foldl (fun m x =>
            let e := m.read x.leaf 8
            if bitOf e 0 = true ∧ bitOf e 2 = true ∧ bitOf e 8 = false then Mem.write m x.leaf 8 (e + 2 ^ 8) else m)
            s.mem).byte y)) ∧
    (Readable s a.scalar (a.uses 1 ++ p.uses 3) → s.memGate W (recGuard r) false = .go → s.myLaunch.proof = false →
      (W ≠ 0 → recBad r = false ∧ recStride r ≠ 0 ∧ recStride r % 1024 = 0 ∧ recSwz r = 0) →
      (∀ l : Fin 32, W.getLsbD l.val = true → recOobt r = true → recInside r (i l) = true) →
      (∀ q ∈ ls, s.guardMeets q.1 q.2 1024 = false) →
      ∀ (bricks : Nat → List Byte) (ps : Nat → List (Xlat × Nat)),
      let held (a : Nat) := (s.core s.myCore).bricks.find? fun b => b.1 == s.myCtx && b.2.1 == a
      let party : Party := ⟨s.myCtx, s.me.blk, .warp s.cur.slot, s.myCore, s.myLaunch.queue, 0⟩
      (∀ q ∈ ls, held q.2 = some (s.myCtx, q.2, bricks q.2) ∨ (held q.2 = none ∧ s.rangeWalk s.myCtx .read q.2 1024 = .ok (ps q.2) ∧
        s.waitsOn s.myCtx (.warp s.cur.slot) q.2 1024 = false ∧ s.fetch party q.2 1024 = .ok (bricks q.2))) →
      let loaded := ls.filter fun q => (held q.2).isNone && !(ps q.2).any fun x => isExternal x.1.loc && decide (x.1.loc < hostBase)
      let kept := loaded.foldl (fun u q => u.keepBrick s.myCore s.myCtx q.2 (bricks q.2)) s
      let frame (t : State) : Prop := t.cores = kept.cores ∧ OnlyReads s { t with cores := s.cores }
      let at' (k : Nat) (l : Fin 32) : Word := (s.me.vreg (p.n + k)).st.lane l
      let out (grad : Bool) (k : Nat) (l : Fin 32) : Word :=
        if recInside r (i l) then (brickWords (bricks (recAddr r (i l))) grad (at' 0 l) (at' 1 l) (at' 2 l)).getD k 0 else 0
      (s.destGate W (a.uses 1 ++ p.uses 3) [d] = .go →
        InFlight (.brks g d br a off p) s W 0 (s.frees (a.uses 1 ++ p.uses 3) [d]) [(d, out false 0)] 0 frame) ∧
      (s.destGate W (a.uses 1 ++ p.uses 3) (regGroup d 4) = .go →
        InFlight (.brkg g d br a off p) s W 0 (s.frees (a.uses 1 ++ p.uses 3) (regGroup d 4))
          ((List.range 4).map fun k => (d + k, out true k)) 0 frame))

/-- R197 to R199, R282: guard words and fences. A plain ACQ delivers the word, a waiting one arms a wait; REL stores or adds
in ascending lane order; a full fence advances its core's clock once for each thread. That the word lies at GUARD [56:0] while
waits and accesses are matched by all 64 bits of GUARD is the model's reading (log entry 95). -/
def Obligations.GuardsAndFences : Prop :=
  ∀ (s : State) (g : Guard) (d : Nat) (add equal : Bool) (k : FenceKind) (sc : Scope) (br : Nat) (v : Src),
    let W := s.wset g
    let r := s.me.breg br
    let G := (r.extractLsb' 192 64).toNat
    let ls := (LaneMask.lanes W).map fun l => (l.val, G % 2 ^ 57)
    let word (l : Nat) : Nat := wordsAt [(s.me.src v).lanes] l
    let guardOk : Prop := W ≠ 0 → recBad r = false ∧ G ≠ 0 ∧ G % 4 = 0
    let acq (mode : AcqMode) : Instr := .acq g d mode sc br v
    (guardOk → s.myLaunch.proof = false → s.memGate W G false = .go → Mapped s .read 4 ls →
      (s.destGate W [] [d] = .go →
        InFlight (acq .plain) s W 0 [] [(d, fun _ => BitVec.ofNat 32
          (((s.xlat .read (G % 2 ^ 57)).map fun x => s.readAt (s.version s.me.blk) x 4).getD 0))] 0 (OnlyReads s)) ∧
      (Readable s v.scalar (v.uses 1) → s.destGate W (v.uses 1) [d] = .go → W ≠ 0 →
        ∃ t, exec (acq (if equal then .eq else .ge)) s = .next t ∧ OnlyMe s t ∧ Moves s t (fun _ => s.cur.next) ∧
          t.me = { s.me with lanes := t.me.lanes, vregs := t.me.vregs, waits := t.me.waits, waitCount := 0 } ∧
          (∀ j, j ≠ d → t.me.vreg j = if j ∈ s.frees (v.uses 1) [d] then ⟨.n, 0⟩ else s.me.vreg j) ∧
          t.me.vreg d = ⟨(s.me.vreg d).st, W⟩ ∧
          t.me.waits = s.me.waits ++ [acqWait G d equal sc ls (s.me.src v).lanes W (W == s.me.live) s.cur.pc s.cur.run])) ∧
    (guardOk → Readable s v.scalar (v.uses 1) → s.memGate W 0 false = .go → Mapped s .both 4 ls →
      s.releaseGate W true = .go → s.versioned s.me.blk = false →
      ∃ t, exec (.rel g (if add then .add else .st) sc br v) s = .next t ∧ Accesses s t ∧ Moves s t (fun _ => s.cur.next) ∧
        t.me = { s.me.free (s.frees (v.uses 1) []) with lanes := t.me.lanes, waitCount := 0 } ∧
        t.mem = s.memAfter .both 4 (fun l old => (word l + if add then old else 0) % 2 ^ 32) ls ∧
        OnlyThere s t .both 4 ls) ∧
    (s.memGate W 0 false = .go → (W = 0 ∨ (s.outstanding = false ∧ (k = .w ∨ s.me.waitsDue W = false))) → (k = .rw → wideScope sc = true → s.myLaunch.vers = false) →
      ∃ t, exec (.fence g k sc) s = .next t ∧ Moves s t (fun _ => s.cur.next) ∧
        t = { s with warps := t.warps, launches := t.launches, cores := t.cores } ∧
        t.me = { s.me with lanes := t.me.lanes, waitCount := 0 } ∧
        (∀ c, t.core c = if c = s.myCore ∧ k = .rw then { s.core c with lamport := (s.core c).lamport + LaneMask.count W }
          else s.core c))

/-- R14, R133, R200, R201, R277: the barrier and the end of threads. Arriving threads park at once; when every LIVE or HELD thread
of the block has arrived and what they accessed before is performed, all resume and the counter returns to 0; BAR in a handler,
or under a marked call, raises PROT; EXIT ends threads for good, and a warp whose threads have all ended leaves its slot, which it
keeps while reads of theirs are pending (the model's choice, log entry 102). -/
def Obligations.BarrierAndExit : Prop :=
  ∀ (s : State) (g : Guard),
    let W := s.wset g
    let bk := s.me.blk
    let others := (s.blockWarps bk).filter fun p => p.1 != s.cur.slot
    let mine (l : Fin 32) : Prop :=
      s.me.lanes[l].st ≠ .held ∧ (s.me.lanes[l].st = .live → W.getLsbD l.val = true ∨ s.me.lanes[l].atBar = true)
    let all : Prop := (∀ l, mine l) ∧
      ∀ p ∈ others, ∀ l : Fin 32, p.2.lanes[l].st ≠ .held ∧ (p.2.lanes[l].st = .live → p.2.lanes[l].atBar = true)
    let marked : Prop := ∃ l : Fin 32, W.getLsbD l.val = true ∧ ∃ k ∈ s.me.lanes[l].stack, k.mark = true
    let after (l : Fin 32) : LaneState := if W.getLsbD l.val then .exited else s.me.lanes[l].st
    let allOut : Prop := ∀ l : Fin 32, after l = .none ∨ after l = .exited
    let quiet : Prop := ∀ p ∈ s.blockWarps bk, p.2.pendings = [] ∧ s.unanswered p.1 = false ∧
      ∀ r ∈ (s.core (blockCore bk)).collector, r.slot ≠ p.1
    (s.me.hndl = false → (s.myLaunch.regrp = true → ¬marked) → s.me.log = none → W ≠ 0 →
      (∀ l : Fin 32, W.getLsbD l.val = true → s.me.lanes[l].st = .live) →
      ∃ t, exec (.bar g) s = .next t ∧ t.mem = s.mem ∧
        t = { s with warps := t.warps, launches := t.launches, blocks := t.blocks } ∧
        (¬all ∨ s.unanswered s.cur.slot = true → (t.block bk).arrivals = (s.block bk).arrivals + LaneMask.count W ∧
          ∀ l : Fin 32, t.me.lanes[l].atBar = (W.getLsbD l.val || s.me.lanes[l].atBar) ∧
            t.me.lanes[l].pc = if s.cur.run.getLsbD l.val then s.cur.next else s.me.lanes[l].pc) ∧
        (all → quiet → (t.block bk).arrivals = 0 ∧ ∀ p ∈ t.blockWarps bk, ∀ l : Fin 32, p.2.lanes[l].atBar = false)) ∧
    (s.me.hndl = true ∨ (s.myLaunch.regrp = true ∧ marked) → Raises (.bar g) s 0x08 7) ∧
    (W = 0 → Steps (.exit g) s s.me (s.laneAt fun _ => s.cur.next)) ∧
    (W ≠ 0 → s.exitGate = .go → s.me.returnReady W = true → ∃ t, exec (.exit g) s = .next t ∧
      (allOut → s.me.pendings = [] → Map.find t.warps s.cur.slot = none) ∧
      (allOut → s.me.pendings ≠ [] → ∃ x, Map.find t.warps s.cur.slot = some x ∧ ∀ l : Fin 32, x.lanes[l].st = after l) ∧
      (¬allOut → ∀ l : Fin 32, t.me.lanes[l].st = after l ∧ (W.getLsbD l.val = true → t.me.lanes[l].stack = [])) ∧
      (¬allOut ∨ s.me.pendings ≠ [] ∨ others ≠ [] → t.mem = s.mem ∧ t = { s with
        warps := t.warps, launches := t.launches, blocks := t.blocks, ext := t.ext, ctxs := t.ctxs,
        collectives := t.collectives }))

/-- R31, R183: BREC builds a record from another, from register words taken once for the warp, or from core SRAM; .sts stores
one. -/
def Obligations.RecordBuilding : Prop :=
  ∀ (s : State) (g : Guard) (bd bb : Nat) (op : BrecOp) (a v : Src) (off : Word),
    let W := s.wset g
    let r := s.me.breg bb
    let word (x : Src) (k : Nat) : Nat := ((s.me.srcAt x k).lane W.lowest).toNat
    let k := brecA op
    let ks := if op == .sub then 1 else 0
    let us := a.uses k ++ v.uses ks
    let addr := (word a 0 + off.toNat) % 2 ^ 32
    let scalar := (k != 0 && a.scalar) || (ks != 0 && v.scalar)
    let put (hi lo x : Nat) : Record := BitVec.ofNat 256
      (r.toNat / 2 ^ (hi + 1) * 2 ^ (hi + 1) + x % 2 ^ (hi + 1 - lo) * 2 ^ lo + r.toNat % 2 ^ lo)
    let base := (r.extractLsb' 0 57).toNat
    let extent := (r.extractLsb' 64 32).toNat
    let same (x : Src) (m : Nat) : Prop := ∀ j, j < m → (s.me.srcAt x j).isU = true ∨
      ∀ l : Fin 32, W.getLsbD l.val = true → (s.me.srcAt x j).lane l = (s.me.srcAt x j).lane W.lowest
    Ready s W scalar us [] → s.memGate W 0 false = .go → same a k → same v ks → (op = .sub → recSwz r = 0) →
    (op = .lds ∨ op = .sts → s.sramGate s.me.blk (W &&& LaneMask.one W.lowest) (fun _ => addr) 32 32 = .go) →
    let built (x : Record) : Prop :=
      Runs (.brec g bd op bb a v off) s { W := W, frees := s.frees us [], breg := some (bd, x) }
    (op = .copy → built r) ∧
    (op = .base → built (put 56 0 (word a 0 + 2 ^ 32 * word a 1))) ∧
    (op = .ext → built (put 95 64 (word a 0))) ∧
    (op = .str → built (put 127 96 (word a 0))) ∧
    (op = .guard → built (put 255 192 (word a 0 + 2 ^ 32 * word a 1))) ∧
    (op = .fmt → ∃ x : Record, built x ∧ x.extractLsb' 0 128 = r.extractLsb' 0 128 ∧
      x.extractLsb' 192 64 = r.extractLsb' 192 64 ∧ recEsize x = off.toNat % 16 ∧ recSwz x = off.toNat / 16 % 16 ∧
      recOobt x = off.getLsbD 8 ∧ recSwlog x = off.toNat / 2 ^ 16 % 32) ∧
    (op = .sub → ∃ x : Record, built x ∧ x.extractLsb' 96 160 = r.extractLsb' 96 160 ∧
      recBase x = (base + word a 0 * recStep r) % 2 ^ 57 ∧
      recExtent x = if word a 0 < extent then min (extent - word a 0) (word v 0) else 0) ∧
    (op = .lds → built (BitVec.ofNat 256 (s.sramNat s.me.blk addr 32) &&&
      BitVec.ofNat 256 (2 ^ 256 - 1 - (2 ^ 192 - 2 ^ 165) - (2 ^ 160 - 2 ^ 137) - (2 ^ 64 - 2 ^ 57)))) ∧
    (op = .sts → ∃ t, exec (.brec g bd op bb a v off) s = .next t ∧ Moves s t (fun _ => s.cur.next) ∧ SramAccess s t ∧
      t.me = { s.me.free (s.frees us []) with lanes := t.me.lanes, waitCount := 0 } ∧
      ((Map.find s.blocks s.me.blk).isSome = true → Map.sorted s.blocks = true → ∀ b, t.bank b =
        s.banksAfter s.me.blk 32 (fun _ => addr) (fun _ _ => r.toNat)
          ((LaneMask.lanes (W &&& LaneMask.one W.lowest))) b))

/-- R38, R206 to R211: standing segments. The operation is that of the lowest thread of W, on the names of its context; the
status goes to vD in every thread of W. An attach or a freeing that has to move the segment leaves vD empty, a COLD segment
entering MOVING once its core has room; an instruction that names a segment MOVING waits, but for a query; `.noload` raises
STANDMISS. The model's readings: a segment named MOVING holds the instruction before its window is judged, a status that needs
no move is there in the step, and a COLD segment stays COLD until its room is there (log entry 42); which evictions begin first
is log entry 103's. -/
def Obligations.StandingSegments : Prop :=
  ∀ (s : State) (g : Guard) (d win : Nat) (load wb : Bool) (name : SegName) (a : Src) (off : Word),
    let W := s.wset g
    let us := segUses name
    let bk := s.me.blk
    let core := blockCore bk
    let b := s.block bk
    let named (n : Nat) : Option (Nat × Segment) := s.segs.find? fun p => p.2.ctx == s.myCtx && p.2.name == n
    let found := named (s.me.segHash name W)
    let here := b.windows[win]?.join
    let waiter : SegWaiter := ⟨s.cur.slot, bk, d, win, W, W == s.me.live, s.cur.pc, s.cur.run⟩
    let moving (x : Segment) : Prop := x.st = .moving ∨ x.goal.isSome = true
    W ≠ 0 → s.memGate W 0 false = .go → s.myLaunch.proof = false → win < 4 → Map.sorted s.segs = true →
    (Ready s W false us [d, d + 1] → Answers (.segQuery g d name) s s W us (match found with
      | none => [(d, 2), (d + 1, 0)]
      | some (_, x) => [(d, 0), (d + 1, BitVec.ofNat 32 ((if x.st = .cold then 255 else x.loc) * 2 ^ 24 + x.size * 2 ^ 16 +
          (if x.st = .resident then 1 else if x.st = .cold then 2 else 3) * 2 ^ 14 + x.attach % 2 ^ 11))])) ∧
    (let addr := (((s.me.src a).lane W.lowest).toNat + off.toNat) % 2 ^ 32
     let desc := leBytes 32 (s.sramNat bk addr 32)
     let f := field desc
     let ok : Prop := f 8 8 % 4096 = 0 ∧ f 8 8 < 2 ^ 57 ∧ 1 ≤ f 0x10 2 ∧ f 0x10 2 ≤ 192 ∧ f 0x12 2 < 192 ∧ f 0x14 12 = 0
     let mine := (s.segs.filter fun p => p.2.ctx == s.myCtx).length
     let new (u : State) (status : Word) : Prop := Answers (.segNew g d a off) s u W (a.uses 1) [(d, status)]
     Ready s W a.scalar (a.uses 1) [d] → s.sramGate bk (W &&& LaneMask.one W.lowest) (fun _ => addr) 32 32 = .go →
     (¬ok → new s 5) ∧
     (ok → ∀ k x, named (f 0 8) = some (k, x) →
       (¬moving x → new s 1) ∧ (moving x → exec (.segNew g d a off) s = .next s)) ∧
     (ok → named (f 0 8) = none → 256 ≤ mine → new s 4) ∧
     (ok → named (f 0 8) = none → mine < 256 → (∀ k, k < 4096 → (Map.find s.segs k).isSome = true) → new s 3) ∧
     (∀ k, ok → named (f 0 8) = none → mine < 256 → k < 4096 → Map.find s.segs k = none →
       (∀ j, j < k → (Map.find s.segs j).isSome = true) →
       new (s.setSeg k ⟨f 0 8, s.myCtx, f 0x10 2, f 0x12 2, f 8 8, .cold, f 0x12 2, 0, [], s.clk, none, 0, false, none, false⟩) 0)) ∧
    (Ready s W false [] [d] → s.detachGate = .go → b.marches win = false →
      let gone := s.setBlock bk { b with windows := b.windows.setIfInBounds win none }
      let detach (u : State) (status : Word) : Prop := Answers (.segDetach g d win) s u W [] [(d, status)]
      (here = none → detach s 8) ∧
      (∀ k x, here = some k → Map.find s.segs k = some x →
        (k ∈ (gone.block bk).attached → detach gone 0) ∧
        (k ∉ (gone.block bk).attached → detach (gone.setSeg k { x with
          attach := x.attach - 1, idleSince := if x.attach ≤ 1 then s.clk else x.idleSince }) 0))) ∧
    (Ready s W false us [d] →
      let attach (u : State) (status : Word) : Prop := Answers (.segAttach g d win load name) s u W us [(d, status)]
      let free (u : State) (status : Word) : Prop := Answers (.segFree g d wb name) s u W us [(d, status)]
      (found = none → attach s 2 ∧ free s 2) ∧
      (∀ k x, found = some (k, x) → Map.find s.segs k = some x →
        (moving x → exec (.segAttach g d win load name) s = .next s ∧ exec (.segFree g d wb name) s = .next s) ∧
        (¬moving x → here.isSome = true ∨ s.attaching bk win = true → attach s 7) ∧
        (¬moving x → x.attach ≠ 0 → free s 6) ∧
        (¬moving x → x.attach = 0 → wb = false ∨ x.st = .cold → free { s with segs := Map.erase s.segs k } 0) ∧
        (¬moving x → x.st = .resident → x.attach = 0 → wb = true →
          MovesSegment (.segFree g d wb name) s s W us d k { x with
            st := .moving, goal := some .free, queue := s.myLaunch.queue, loading := false
            waiter := some { waiter with win := 4 } }) ∧
        (¬moving x → here = none → s.attaching bk win = false →
          (x.st = .resident → x.loc = core → attach ((s.setSeg k { x with
            attach := if k ∈ b.attached then x.attach else x.attach + 1, faulted := false }).setBlock bk
              { b with windows := b.windows.setIfInBounds win (some k) }) 0) ∧
          (x.st = .resident → x.loc ≠ core → x.attach ≠ 0 → attach s 9) ∧
          (x.st = .cold ∨ (x.loc ≠ core ∧ x.attach = 0) →
            (load = false → Raises (.segAttach g d win load name) s 0x09 (win + 4)) ∧
            let queue := s.myLaunch.queue
            let victims := s.victimSegs x.ctx core [k]
            (load = true → s.roomPlan x.ctx core x.size 1 [k] = none →
              (victims = [] → attach s 10) ∧
              (victims ≠ [] → MovesSegment (.segAttach g d win load name) s
                (s.evictFirst queue x.ctx core (.evictFor k) (victims.map Prod.fst)) W us d k
                { x with goal := some (.reload core), queue := queue, waiter := some waiter })) ∧
            (∀ ks, load = true → s.roomPlan x.ctx core x.size 1 [k] = some ks → k ∉ ks →
              let u := s.evictFirst queue x.ctx core (.evictFor k) ks
              let others := u.segs.filter fun h =>
                h.1 != k && (h.2.on core || (h.2.goal == some (.reload core) && h.2.waiter.isNone))
              let enters : Prop := u.granulesOf core (fun _ => false) + (others.map fun h => h.2.size).sum + x.size ≤ u.capacity core ∧
                others.length < 16
              let waits (st : SegState) (loc : Nat) : Prop :=
                MovesSegment (.segAttach g d win load name) s u W us d k { x with
                  st := st, loc := loc, goal := some (.reload core), queue := queue, loading := x.st == .cold
                  waiter := some waiter }
              (x.st = .resident → waits .moving x.loc) ∧ (x.st = .cold → enters → waits .moving core) ∧
              (x.st = .cold → ¬enters → waits .cold x.loc))))))

/-- R214 to R218, R221: engine commands. The lowest thread of W queues one command at its block, with a copy of its
descriptor; a refused one waits there with its status, a COMPL that cannot be written discards it, and a role that may not
issue it raises ROLE. The model's readings: the record of a convolution is read at issue (log entry 44), BADDESC comes before
BOUNDS and BOUNDS before WBFULL (log entry 95), and what a range of core SRAM keeps to is log entry 43's. -/
def Obligations.EngineCommands : Prop :=
  ∀ (s : State) (g : Guard) (a : Src) (off : Word) (br : Nat) (acq rel : Bool) (sc : Scope) (dt : DepthTest),
    let W := s.wset g
    let bk := s.me.blk
    let b := s.block bk
    let order := (s.cluster (clusterOf (blockCore bk))).order
    let lane := W.lowest.val
    let addr := (((s.me.src a).lane W.lowest).toNat + off.toNat) % 2 ^ 32
    let desc (n : Nat) : List Byte := leBytes n (s.sramNat bk addr n)
    let us := a.uses 1
    let r := s.me.breg br
    let free : Prop := s.memGate (W &&& LaneMask.one W.lowest) 0 false = .go ∧
      s.releaseGate (W &&& LaneMask.one W.lowest) true = .go
    let ready (n : Nat) (q : List Cmd) : Prop := W ≠ 0 ∧ free ∧
      s.sramGate bk (W &&& LaneMask.one W.lowest) (fun _ => addr) n n = .go ∧ q.length < 8 ∧ s.channelFrozen = false
    let dropped (i : Instr) : Prop := Steps i s (s.me.free (s.frees us [])) (s.laneAt fun _ => s.cur.next)
    let role (r : Role) : Prop := s.me.role = .any ∨ s.me.role = r
    Readable s a.scalar us → s.myLaunch.proof = false →
    (let d := desc 64
     let ar := if mqAkind d then s.me.breg (mqA d % 16) else 0
     let shape := if mqConv d then leBytes 32 (s.sramNat bk (mqConvrec d) 32) else []
     let status := if s.mqBad bk d shape ar then 1 else if s.mqOut bk d shape ar then 2 else 0
     ready 64 b.matrixQ → role .matrix →
      (s.complOk bk (mqCompl d) = false → dropped (.mmaq g a off)) ∧
      (s.complOk bk (mqCompl d) = true → ∃ c, c.shape = shape ∧ NewCommand s c .mmaq d ar lane
        ((field d 0x1F 1).testBit 0) ((field d 0x1F 1).testBit 1) (scopeOf (field d 0x1F 1 / 4 % 8)) status ∧
        Queued (.mmaq g a off) s us { b with matrixQ := b.matrixQ ++ [c] } (order ++ if status = 0 then [bk] else [])
          c.acq c.scope)) ∧
    (let d := desc 32
     let out := wbForm d ≠ 2 ∧ ∃ n, n < wbN d ∧ recOut r (wbSrc d + n * wbColstr d) (wbShape d).fixedBytes = true
     ∀ status, (wbBad d r = true → status = 1) → (wbBad d r = false → out → status = 2) →
      (wbBad d r = false → ¬out → status = if (s.cluster (clusterOf s.myCore)).wbEnd < wbOff d + wbFixedSize d then 4 else 0) →
      ready 32 b.matrixQ → role .matrix →
      (s.complOk bk (wbCompl d) = false → dropped (.wbload g acq rel sc a off br)) ∧
      (s.complOk bk (wbCompl d) = true → ∃ c, NewCommand s c .wbload d r lane acq rel sc status ∧
        Queued (.wbload g acq rel sc a off br) s us { b with matrixQ := b.matrixQ ++ [c] }
          (order ++ if status = 0 then [bk] else []) acq sc)) ∧
    (let d := desc 32
     let status := if s.cpBad bk d r then 1 else if s.cpOut bk d r then 2 else 0
     ready 32 b.copyQ → role .feed →
      (s.complOk bk (cpCompl d) = false → dropped (.cpq g acq rel sc a off br)) ∧
      (s.complOk bk (cpCompl d) = true → ∃ c, NewCommand s c .cpq d r lane acq rel sc status ∧
        Queued (.cpq g acq rel sc a off br) s us { b with copyQ := b.copyQ ++ [c] } order acq sc)) ∧
    (let d := desc 64
     let status := if mrBad d then 1 else if s.mrOut bk d then 2 else 0
     ready 64 b.marchQ →
      (s.complOk bk (mrCompl d) = false → dropped (.march g dt acq rel sc a off)) ∧
      (s.complOk bk (mrCompl d) = true → ∃ c, NewCommand s c (.march dt) d 0 lane acq rel sc status ∧
        Queued (.march g dt acq rel sc a off) s us { b with marchQ := b.marchQ ++ [c] } order acq sc)) ∧
    (W ≠ 0 → free → ¬role .matrix →
      Raises (.mmaq g a off) s 0x0C (0x1E0 + 2 ^ 10 * s.me.role.code) ∧
      Raises (.wbload g acq rel sc a off br) s 0x0C (0x1E1 + 2 ^ 10 * s.me.role.code)) ∧
    (W ≠ 0 → free → ¬role .feed →
      Raises (.cpq g acq rel sc a off br) s 0x0C (0x1E2 + 2 ^ 10 * s.me.role.code))

/-- R218, R233, R234: COLL. The memory form queues a command or ends refused at once; the register form leaves its
destinations empty and hands the contribution of the lowest thread of W to the engine under the next number of its group;
without the group the status is NOGROUP, and a root outside it is BADDESC. The model's readings: NOGROUP comes before BADDESC and
BADDESC before BOUNDS (log entry 95), and operations are numbered by issue on each group, a refused one not among them (log entry
50). -/
def Obligations.CollectiveCommands : Prop :=
  ∀ (s : State) (g : Guard) (d : Nat) (op : CollOp) (rop : RedOp) (b64 acq rel : Bool) (sc : Scope) (a : Src) (off : Word)
    (br : Nat) (grp : Word),
    let W := s.wset g
    let W1 := W &&& LaneMask.one W.lowest
    let bk := s.me.blk
    let lk := s.myBlock.launch
    let l := s.myLaunch
    let members := (l.groups[grp.toNat]?).bind Group.members
    let number := Map.getD l.collCount grp.toNat 0
    let issued (t : State) (f : Collective → Prop) : Prop :=
      (∃ c ∈ t.collectives, c.launch = lk ∧ c.grp = grp.toNat ∧ c.n = number ∧ c.issued = true ∧ c.blk = bk ∧
        c.rel = rel ∧ c.scope = sc ∧ f c) ∧
      Map.getD (t.launch lk).collCount grp.toNat 0 = number + 1 ∧ ∀ x, t.mem.byte x = s.mem.byte x
    let word (k : Nat) : Nat := ((s.me.srcAt a k).lane W.lowest).toNat
    let data : List Byte := if op = .bar then []
      else if b64 then leBytes 8 (word 0 + 2 ^ 32 * word 1) else leBytes 4 (word 0)
    let us := a.uses (if b64 then 2 else 1)
    let ds := if b64 then [d, d + 1, d + 2] else [d, d + 1]
    let zero (status : Word) : List (Nat × (Fin 32 → Word)) :=
      ds.map fun k => (k, fun _ => if k = d + (if b64 then 2 else 1) then status else 0)
    let addr := (((s.me.src a).lane W.lowest).toNat + off.toNat) % 2 ^ 32
    let desc := leBytes 32 (s.sramNat bk addr 32)
    let r := s.me.breg br
    let reg := Instr.coll g d true op rop b64 acq rel sc a off br grp
    let mem := Instr.coll g d false op rop b64 acq rel sc a off br grp
    W ≠ 0 → l.proof = false → s.channelFrozen = false → s.releaseGate W1 true = .go →
    (Map.find s.blocks bk).isSome = true →
    (Readable s a.scalar us → s.memGate W 0 false = .go → s.destGate W us ds = .go →
      (members = none → InFlight reg s W 0 (s.frees us ds) (zero 6) 0 (OnlyMe s)) ∧
      (∀ m, members = some m → op = .bcast → m.length ≤ off.toNat →
        InFlight reg s W 0 (s.frees us ds) (zero 1) 0 (OnlyMe s)) ∧
      (∀ m, members = some m → (op = .bcast → off.toNat < m.length) →
        InFlight reg s W W (s.frees us ds) (zero 0) 0 fun t => issued t fun c =>
          c.dest = .regs s.cur.slot d W b64 ∧
          c.sig = [collCode op, redCode rop, if b64 then 1 else 0, if op = .bar then 0 else 1, off.toNat] ∧
          Map.find c.parts c.rank = some ⟨c.sig, data, 0⟩)) ∧
    (Readable s a.scalar (a.uses 1) → s.memGate W1 0 false = .go → s.sramGate bk W1 (fun _ => addr) 32 32 = .go →
      (s.complOk bk (clCompl desc) = false → Completes mem s s (a.uses 1)) ∧
      (s.complOk bk (clCompl desc) = true →
        (members = none → Completes mem s (s.complete bk (clCompl desc) 6 rel sc) (a.uses 1)) ∧
        (∀ m, members = some m →
          (clBad op b64 desc r m.length = true → Completes mem s (s.complete bk (clCompl desc) 1 rel sc) (a.uses 1)) ∧
          (clBad op b64 desc r m.length = false → clOut op b64 desc r m.length = true →
            Completes mem s (s.complete bk (clCompl desc) 2 rel sc) (a.uses 1)) ∧
          (clBad op b64 desc r m.length = false → clOut op b64 desc r m.length = false →
            ∃ t, exec mem s = .next t ∧ Moves s t (fun _ => s.cur.next) ∧ issued t fun c =>
              c.dest = .mem r ∧ c.desc = desc ∧
              c.sig = [collCode op, redCode rop, if b64 then 1 else 0, clCount desc, clRoot desc]))))

/-- R235, R236, R341: ENQ offers its entry to the device queue that the handle names and delivers the status; a refused
entry changes no queue. CALLS in a launch that does not regroup is a call with the link 16 bytes on; in a regrouping one its
threads become HELD at their targets, each in a collator window of its target. The model's readings: ENQ's checks give their
statuses in the order 2, 3, 1 (log entry 51), and entry i lies at STORE + 64 × (i mod capacity) (log entry 96). -/
def Obligations.OffersAndRegroupedCalls : Prop :=
  ∀ (s : State) (g : Guard) (d : Nat) (rel : Bool) (sc : Scope) (a b : Src) (off h : Word),
    let W := s.wset g
    let W1 := W &&& LaneMask.one W.lowest
    let bk := s.me.blk
    let addr := (((s.me.src a).lane W.lowest).toNat + off.toNat) % 2 ^ 32
    let e := leBytes 64 (s.sramNat bk addr 64)
    let gx := field e 0 4
    let gy := field e 4 2
    let gz := field e 6 2
    let ok : Prop := 1 ≤ gx ∧ 1 ≤ gy ∧ 1 ≤ gz ∧ gx * gy * gz < 2 ^ 32 ∧ field e 8 8 % 16 = 0 ∧ field e 0x10 4 < 2 ∧
      field e 0x14 12 = 0
    let i := h.toNat % 1024
    let enq (status : Word) (f : State → Prop) : Prop :=
      InFlight (.enq g d rel sc a off h) s W 0 (s.frees (a.uses 1) [d]) [(d, fun _ => status)] 0 f
    let target (l : Fin 32) : VAddr := s.cur.pc + ((s.me.src a).lane l).signExtend 57
    let pc (l : Fin 32) : BitVec 55 := if W.getLsbD l.val then (target l).extractLsb' 2 55 else s.cur.next
    let link (m : Bool) : Link := ⟨(s.cur.pc + 16).extractLsb' 2 55, m⟩
    let record : VAddr := let x := s.cur.pc + off.signExtend 57
      if off.toNat % 8 = 0 then x else x ||| 1
    let callable (us : List Use) (scalar : Bool) : Prop := Readable s scalar us ∧
      (∀ l : Fin 32, W.getLsbD l.val = true → (target l).toNat % 4 = 0 ∧ s.me.lanes[l].stack.length < 16)
    (W ≠ 0 → s.myLaunch.proof = false → Readable s a.scalar (a.uses 1) → s.memGate W1 0 false = .go →
      s.sramGate bk W1 (fun _ => addr) 64 64 = .go → s.releaseGate W1 true = .go → s.destGate W (a.uses 1) [d] = .go →
      (∀ x, Map.find (s.ctx s.myCtx).devQueues i = some x →
        let named : Prop := x.inUse = true ∧ x.freed = false ∧ h.toNat = x.gen * 2 ^ 16 + i
        (¬named → enq 2 (OnlyMe s)) ∧
        (named → ¬ok → enq 3 (OnlyMe s)) ∧
        (named → ok → 2 ^ x.logcap ≤ x.entries.length → enq 1 (OnlyMe s)) ∧
        (named → ok → x.entries.length < 2 ^ x.logcap →
          let held := s.setCtx s.myCtx { s.ctx s.myCtx with
            devQueues := Map.set (s.ctx s.myCtx).devQueues i
              { x with entries := x.entries ++ [(x.accepted, e)], accepted := x.accepted + 1 } }
          let stored := held.storeEntry s.myCtx h.toNat e
          enq 0 (fun t => t = { stored with warps := t.warps }) ∧
          stored = { held with mem := stored.mem, hostMem := stored.hostMem, frames := stored.frames, ext := stored.ext
                               extNext := stored.extNext, sent := stored.sent, ports := stored.ports
                               outbox := stored.outbox, paths := stored.paths, oldCode := stored.oldCode, ctxs := stored.ctxs
                               blocks := stored.blocks } ∧
          (∀ p, x.store % 64 = 0 → Map.find s.blocks (2 ^ 40) = none →
            s.waitsOn s.myCtx (.queue x.queue) (x.store + 64 * (x.accepted % 2 ^ x.logcap)) 64 = false →
            x.store + 64 * 2 ^ x.logcap ≤ 2 ^ 57 →
            s.walk s.myCtx .write (x.store + 64 * (x.accepted % 2 ^ x.logcap)) = .ok p → p.loc < 2 ^ 38 → p.disc = false →
            ∀ a, stored.mem.byte a = if p.loc ≤ a ∧ a < p.loc + 64 then (e[a - p.loc]?).getD 0 else s.mem.byte a))) ∧
      (Map.find (s.ctx s.myCtx).devQueues i = none → enq 2 (OnlyMe s))) ∧
    (s.myLaunch.regrp = false → callable (a.uses 1) a.scalar →
      Steps (.calls g a b off) s (s.me.free (s.frees (a.uses 1) [])) fun l => { s.laneAt pc l with
        stack := if W.getLsbD l.val then link false :: s.me.lanes[l].stack else s.me.lanes[l].stack }) ∧
    (s.myLaunch.regrp = true → callable (a.uses 1 ++ b.uses 1) (a.scalar || b.scalar) → W ≠ 0 → s.exitGate = .go →
      (Map.find s.warps s.cur.slot).isSome = true → (Map.find s.blocks bk).isSome = true →
      ∃ t, exec (.calls g a b off) s = .next t ∧
        (∀ l : Fin 32, W.getLsbD l.val = true →
          t.me.lanes[l] = { s.me.lanes[l] with
            pc := pc l, st := .held, stack := link true :: s.me.lanes[l].stack, lrec := record, age := t.me.lanes[l].age } ∧
          ∃ w ∈ (t.block bk).collator, w.target = target l ∧
            ⟨s.cur.slot, l.val, target l, (s.me.src b).lane l, record⟩ ∈ w.threads) ∧
        (∀ l : Fin 32, W.getLsbD l.val = false →
          t.me.lanes[l] = { s.laneAt pc l with age := t.me.lanes[l].age }) ∧
        t.me.vregs = (s.me.free (s.frees (a.uses 1 ++ b.uses 1) [])).vregs ∧ ∀ x, t.mem.byte x = s.mem.byte x)

/-- R238 to R240, R373, R377, R378: rendering instructions. EMITP classifies one primitive record for each thread of W in
lane order; TBLEND blends channel by channel; MOMACC adds five sums at a pixel or delivers its transmittance; in a launch of
another type each raises PROT. Where the sums' variance is at most 2⁻⁴⁰ and the depth lies before their one node the
transmittance is 1.0, as it is where an input is NaN or the sum of a is not positive. The model's readings: the blends of one
instruction are made in its step (log entry 81), the roundings of exponential and logarithm are log entry 24's, and a
reconstruction from infinite inputs is log entry 40's. -/
def Obligations.RenderInstructions : Prop :=
  ∀ (s : State) (g : Guard) (d : Nat) (op : BlendOp) (rec' : Bool) (a b : Src) (v : VSrc) (off : Word),
    let W := s.wset g
    let bk := s.me.blk
    let l := s.myLaunch
    let lk := s.myBlock.launch
    let lanes := LaneMask.lanes W
    let addr (i : Fin 32) : Nat := (((s.me.src a).lane i).toNat + off.toNat) % 2 ^ 32
    let bytes (i : Fin 32) : List Byte := leBytes 64 (s.sramNat bk (addr i) 64)
    let covered (i : Fin 32) : List (Nat × Nat) := s.covered l (s.block bk) s.me.lanes[i] ((s.me.src a).lane i)
    let us := a.uses 1 ++ v.uses 2
    let reserved (i : Fin 32) : Prop := 4 ≤ field (bytes i) 0x38 4 ∨ field (bytes i) 0x3C 4 ≠ 0
    s.memGate W 0 false = .go → (Map.find s.blocks bk).isSome = true →
    (l.ltype = 1 → Readable s a.scalar (a.uses 1) → s.sramGate bk W addr 64 64 = .go →
      (W ≠ 0 → (∀ i : Fin 32, W.getLsbD i.val = true → ¬reserved i) → l.owners = 0 → l.devlost = false →
        s.outputFull bk (LaneMask.count W) = false →
        Completes (.emitp g a off) s ({ s.retire lk with
          prims := s.prims ++ (lanes.mapIdx fun k i => classify l lk s.mss.domid (s.block bk).n ((s.block bk).emitted + k)
            (bytes i)).filterMap id }.setBlock bk { s.block bk with emitted := (s.block bk).emitted + LaneMask.count W })
          (a.uses 1)) ∧
      ((∃ i : Fin 32, W.getLsbD i.val = true ∧ reserved i) → Raises (.emitp g a off) s 0x08 10)) ∧
    (l.ltype = 2 → W ≠ 0 → Readable s a.scalar us → Completes (.tblend g op a v) s ((s.retire lk).setBlock bk { s.block bk with
      tile := lanes.foldl (fun m i => (covered i).foldl (fun m p => blendPixel op m p (s.me.pair v i).toNat) m)
        (s.block bk).tile }) us) ∧
    (∀ (m : Mem) (p : Nat × Nat) (c k : Nat), k < 4 →
      let o (k : Nat) := 8 * (32 * (p.2 % 32) + p.1 % 32) + 2 * k
      (blendPixel op m p c).read (o k) 2 =
        blend op (c / 2 ^ (16 * k) % 2 ^ 16) (m.read (o k) 2) (c / 2 ^ 48 % 2 ^ 16) % 2 ^ 16) ∧
    (l.ltype = 2 → l.mom = 0 → Readable s (a.scalar || b.scalar) (a.uses 1 ++ b.uses 1) → l.proof = false →
      s.destGate W (a.uses 1 ++ b.uses 1) [d] = .go →
        InFlight (.momacc g d true a b) s W 0 (s.frees (a.uses 1 ++ b.uses 1) [d]) [(d, fun _ => 0x3F800000)] 0 fun t => t.mem = s.mem ∧ t.blocks = s.blocks) ∧
    (l.ltype = 2 → l.mom ≠ 0 → Readable s (a.scalar || b.scalar) (a.uses 1 ++ b.uses 1) → l.proof = false →
      s.destGate W (a.uses 1 ++ b.uses 1) [d] = .go → ∀ sums : Fin 32 → List Byte,
      (∀ i : Fin 32, W.getLsbD i.val = true → (sums i).length = 20 ∧
        let x := (s.me.src a).lane i
        if covered i = [] then sums i = List.replicate 20 0
        else s.fetch s.me' (momAddr l (x.toNat % 2 ^ 16) (x.toNat / 2 ^ 16)) 20 = .ok (sums i)) →
        InFlight (.momacc g d true a b) s W 0 (s.frees (a.uses 1 ++ b.uses 1) [d])
          [(d, fun i => transmittance (sums i) ((s.me.src b).lane i))] 0 fun t => t.mem = s.mem ∧ t.blocks = s.blocks) ∧
    (∀ (sums : List Byte) (z : Word),
      let m (k : Nat) : Val := fp32.decode (field sums (4 * k) 4)
      let ins := [m 0, m 1, m 2, m 3, valF z]
      (ins.any Val.isNan = true ∨ leV (m 0) (.zero false) = true → transmittance sums z = 0x3F800000) ∧
      (ins.all Val.isFinite = true → ltV (.zero false) (m 0) = true →
        let b1 := (m 1).toRat / (m 0).toRat
        (m 2).toRat / (m 0).toRat - b1 * b1 ≤ 1 / 2 ^ 40 → (valF z).toRat < b1 → transmittance sums z = 0x3F800000)) ∧
    (l.ltype = 2 → Readable s (a.scalar || b.scalar) (a.uses 1 ++ b.uses 2) → s.versioned bk = false →
      let adds : List MomAdd := if l.mom = 0 then [] else lanes.flatMap fun i => (covered i).map fun q =>
        ⟨momAddr l q.1 q.2, (s.me.srcAt b 1).lane i, (s.me.srcAt b 0).lane i, i.val⟩
      s.momGate s.me' adds = .ok s →
        Completes (.momacc g d false a b) s
          (((((adds.foldl (fun u x => u.momPut s.me' x) s).dropKept s.me'.who).settle s.me'.ctx s.me'.who)).retire lk)
          (a.uses 1 ++ b.uses 2)) ∧
    (∀ (u : MomAdd) (x : Xlat) (bs : List Byte), s.rangeWalk s.myCtx .both u.addr 20 = .ok [(x, 20)] →
      isExternal x.loc = false → s.versioned bk = false → s.fetch s.me' u.addr 20 = .ok bs →
      s.momPut s.me' u = s.putPieces s.me' [(x, 20)] (addMoments bs (absorbance u.alpha) (valF u.depth))) ∧
    (∀ (old : List Byte) (q : Rat) (z : Val) (k : Nat), k < 5 → field (addMoments old q z) (4 * k) 4 =
      ((Val.add .rn (fp32.decode (field old (4 * k) 4)) (momentTerm q z k)).round fp32 .rn false).bits) ∧
    (l.ltype ≠ 1 → Readable s a.scalar (a.uses 1) → Raises (.emitp g a off) s 0x08 8) ∧
    (l.ltype ≠ 2 → (Readable s a.scalar us → Raises (.tblend g op a v) s 0x08 8) ∧
      (Readable s (a.scalar || b.scalar) (a.uses 1 ++ b.uses 2) → Raises (.momacc g d rec' a b) s 0x08 8))

/-- R264 to R267: PRUNE applies an operation of the field bytecode to pairs, or delivers its winner code. A value operand
beyond its limits gives (−∞, +∞), or code 0; the slow operations are long-latency producers. -/
def Obligations.PruneResults : Prop :=
  ∀ (s : State) (g : Guard) (d : Nat) (win : Bool) (op : PruneOp) (a b c : Src),
    let W := s.wset g
    let np := op.shape.1
    let nv := op.shape.2
    let pairs := [a, b, c].take np
    let vals := ([a, b, c].drop np).take nv
    let us := pairs.flatMap (fun x => x.uses 2) ++ vals.flatMap fun x => x.uses 1
    let p (x : Src) (l : Fin 32) : Bounds := Bounds.norm ⟨(s.me.srcAt x 0).lane l, (s.me.srcAt x 1).lane l⟩
    let k (i : Nat) (l : Fin 32) : Word := ((vals[i]?).map fun x => (s.me.src x).lane l).getD 0
    let fin (x : Word) : Prop := (valF x).isFinite = true
    let limits (l : Fin 32) : Prop := (1 ≤ nv → fin (k 0 l)) ∧ (2 ≤ nv → fin (k 1 l) ∧ leV (valF (k 0 l)) (valF (k 1 l)) = true) ∧
      (op = .smin ∨ op = .smax → ltV (.zero false) (valF (k 0 l)) = true)
    let rs (lo hi code : Fin 32 → Word) : List (Nat × (Fin 32 → Word)) := if win then [(d, code)] else [(d, lo), (d + 1, hi)]
    let slow : Prop := op = .sqrt ∨ op = .div ∨ op = .sin ∨ op = .cos ∨ op = .len2 ∨ op = .len3
    Ready s W (vals.any Src.scalar) us (if win then [d] else [d, d + 1]) →
    ∃ lo hi code : Fin 32 → Word,
      (∀ l, limits l → ∃ f, pruneField op (k 0 l) (k 1 l) = some f ∧
        ⟨lo l, hi l⟩ = ((f.rule (pairs.map fun x => p x l)).bounds (pairs.map fun x => p x l)).norm ∧
        code l = BitVec.ofNat 32 (prunedCode op (valF (k 0 l)) (p a l) (p b l))) ∧
      (∀ l, ¬limits l → lo l = 0xFF800000 ∧ hi l = 0x7F800000 ∧ code l = 0) ∧
      (¬slow ∨ s.myLaunch.proof = true → Runs (.prune g d win op a b c) s
        { W := W, frees := s.frees us (if win then [d] else [d, d + 1]), regs := rs lo hi code }) ∧
      (slow → s.myLaunch.proof = false → InFlight (.prune g d win op a b c) s W 0
        (s.frees us (if win then [d] else [d, d + 1])) (rs lo hi code) 0 (OnlyMe s))

/-- R249, R256, R260, R261: the operations of the field bytecode that move entries: constants, the position, the stack and
the frames. An operation goes on at the place behind it. -/
def Obligations.FieldStackOperations : Prop :=
  ∀ (s : State) (c : Cmd) (x : Ray) (e : Eval) (k : Word) (n : Nat) (m : Vector Word 12),
    s.evaluating = some (c, x, e) → finite32 k = true →
    let len := e.stack.length
    let at' (j : Nat) : Entry := e.below j
    let leaves (i : Instr) (size : Nat) (es : List Entry) : Prop := GoesOn i s x { e with pc := e.pc + size, stack := es }
    let affine : Prop := e.mode = .affine
    let axis (f : Frame) (i : Fin 3) : Entry := if i = 0 then f.x else if i = 1 then f.y else f.z
    leaves .fbcNop 2 e.stack ∧
    (len < 32 → leaves (.fbcConst k) 6 (⟨k, k, if affine then some ⟨k, 0, 0⟩ else none⟩ :: e.stack)) ∧
    (len < 32 → ∀ i : Fin 3, leaves (.fbcPos i.val) 2 (axis e.frame i :: e.stack)) ∧
    (1 ≤ len → len < 32 → leaves .fbcDup 2 (at' 0 :: e.stack)) ∧
    (1 ≤ len → leaves .fbcDrop 2 (e.stack.drop 1)) ∧
    (2 ≤ len → len ≤ 32 → leaves .fbcSwap 2 (at' 1 :: at' 0 :: e.stack.drop 2)) ∧
    (2 ≤ len → len < 32 → leaves .fbcOver 2 (at' 1 :: e.stack)) ∧
    (3 ≤ len → len ≤ 32 → leaves .fbcRot 2 (at' 2 :: at' 0 :: at' 1 :: e.stack.drop 3)) ∧
    (n < len → len < 32 → leaves (.fbcPick n) 2 (at' n :: e.stack)) ∧
    (∀ f fs, e.frames = f :: fs → GoesOn .fbcXpop s x { e with pc := e.pc + 2, frame := f, frames := fs }) ∧
    (e.frames = [] → EndsWith .fbcXpop s x 9) ∧
    (8 ≤ e.frames.length → EndsWith (.fbcXform m) s x 8) ∧
    (e.frames.length < 8 → ∃ f : Frame,
      GoesOn (.fbcXform m) s x { e with pc := e.pc + 50, frames := e.frame :: e.frames, frame := f } ∧
      ∀ i : Fin 3,
        let a (j : Nat) : Word := m.toList.getD (4 * i.val + j) 0
        let times (j : Nat) (p : Entry) : Entry := (FieldOp.mulc (a j)).apply e.mode [p]
        let plus (p q : Entry) : Entry := FieldOp.add.apply e.mode [p, q]
        axis f i = (FieldOp.addc (a 3)).apply e.mode
          [plus (plus (times 0 e.frame.x) (times 1 e.frame.y)) (times 2 e.frame.z)])

/-- R255, R259: sums, products and negation in the field bytecode. The pair encloses all sums or products of the operands'
values; the form has the exact parts of R259. -/
def Obligations.FieldLinearOperations : Prop :=
  let c (f : Form) : Rat := (valF f.c).toRat
  let a (f : Form) : Rat := (valF f.a).toRat
  let e (f : Form) : Val := valF f.e
  let r (q : Rat) : Val := .ofRat false q
  let f0 (fs : List Form) : Form := fs.getD 0 Form.none
  let f1 (fs : List Form) : Form := fs.getD 1 Form.none
  let p0 (ps : List Bounds) : Bounds := ps.getD 0 .all
  let p1 (ps : List Bounds) : Bounds := ps.getD 1 .all
  let sum (p q : Bounds) : Bounds := enclosePair (exAdd p.l q.l) (exAdd p.h q.h)
  let minus (p : Bounds) : Val × Val := (p.h.negate, p.l.negate)
  let mag (v : Val) : Val := if v.neg then v.negate else v
  let least (vs : List Val) : Val := vs.foldl exMin (.inf false)
  let most (vs : List Val) : Val := vs.foldl exMax (.inf true)
  let product (p q : Bounds) : Bounds :=
    let vs := [exMul p.l q.l, exMul p.l q.h, exMul p.h q.l, exMul p.h q.h]
    enclosePair (least vs) (most vs)
  let mulForm (f g : Form) : Form := Form.exact (c f * c g) (c f * a g + c g * a f)
    (exAdd (exAdd (r |a f * a g|) (exMul (r (|c f| + |a f|)) (e g))) (exAdd (exMul (r (|c g| + |a g|)) (e f)) (exMul (e f) (e g))))
  FieldForms .fbcAdd 2 2 (fun ps => sum (p0 ps) (p1 ps))
    (fun fs => Form.exact (c (f0 fs) + c (f1 fs)) (a (f0 fs) + a (f1 fs)) (exAdd (e (f0 fs)) (e (f1 fs)))) ∧
  FieldForms .fbcSub 2 2
    (fun ps => enclosePair (exAdd (p0 ps).l (minus (p1 ps)).1) (exAdd (p0 ps).h (minus (p1 ps)).2))
    (fun fs => Form.exact (c (f0 fs) - c (f1 fs)) (a (f0 fs) - a (f1 fs)) (exAdd (e (f0 fs)) (e (f1 fs)))) ∧
  FieldForms .fbcNeg 2 1 (fun ps => enclosePair (minus (p0 ps)).1 (minus (p0 ps)).2)
    (fun fs => Form.exact (-c (f0 fs)) (-a (f0 fs)) (e (f0 fs))) ∧
  FieldForms .fbcMul 2 2 (fun ps => product (p0 ps) (p1 ps)) (fun fs => mulForm (f0 fs) (f1 fs)) ∧
  FieldForms .fbcSqr 2 1
    (fun ps =>
      let m := if leV (p0 ps).l (.zero false) = true ∧ leV (.zero false) (p0 ps).h = true then .zero false
        else exMin (mag (p0 ps).l) (mag (p0 ps).h)
      let n := exMax (mag (p0 ps).l) (mag (p0 ps).h)
      enclosePair (exMul m m) (exMul n n))
    (fun fs => mulForm (f0 fs) (f0 fs)) ∧
  (∀ k, finite32 k = true →
    FieldForms (.fbcAddc k) 6 1 (fun ps => sum (p0 ps) (.point k))
      (fun fs => Form.exact (c (f0 fs) + (valF k).toRat) (a (f0 fs)) (e (f0 fs))) ∧
    FieldForms (.fbcRsubc k) 6 1
      (fun ps => enclosePair (exAdd (valF k) (minus (p0 ps)).1) (exAdd (valF k) (minus (p0 ps)).2))
      (fun fs => Form.exact ((valF k).toRat - c (f0 fs)) (-a (f0 fs)) (e (f0 fs))) ∧
    FieldForms (.fbcMulc k) 6 1 (fun ps => product (p0 ps) (.point k))
      (fun fs => Form.exact (c (f0 fs) * (valF k).toRat) (a (f0 fs) * (valF k).toRat)
        (exMul (r |(valF k).toRat|) (e (f0 fs)))))

/-- R255, R256, R260: the selections of the field bytecode keep an operand whole, give a constant, or mix bounds; and the
other rules of its operations. SIN and COS give the model's trigPair, whose bounds come from fixed-point enclosures (log entry
24); LEN2, LEN3 and MIX give its lengthPair and mixPair. Which zero stands where −0 and +0 tie is the model's choice (log entry
25). -/
def Obligations.FieldSelectionsAndFunctions : Prop :=
  let zero : Val := .zero false
  let le (x y : Val) : Prop := leV x y = true
  FieldGives .fbcMin 2 2 (onTwo fun a b =>
    if le a.h b.l then .keep 0 else if le b.h a.l then .keep 1
    else .pair ⟨if le a.l b.l then a.lo else b.lo, if le a.h b.h then a.hi else b.hi⟩) ∧
  FieldGives .fbcMax 2 2 (onTwo fun a b =>
    if le b.h a.l then .keep 0 else if le a.h b.l then .keep 1
    else .pair ⟨if le a.l b.l then b.lo else a.lo, if le a.h b.h then b.hi else a.hi⟩) ∧
  (∀ k, positive32 k = true →
    FieldGives (.fbcSmin k) 6 2 (onTwo fun a b =>
      if le (exAdd a.h (valF k)) b.l then .keep 0 else if le (exAdd b.h (valF k)) a.l then .keep 1
      else .pair (enclosePair (sminV (valF k) a.l b.l) (sminV (valF k) a.h b.h))) ∧
    FieldGives (.fbcSmax k) 6 2 (onTwo fun a b =>
      if le b.h (exAdd a.l (valF k).negate) then .keep 0 else if le a.h (exAdd b.l (valF k).negate) then .keep 1
      else .pair (enclosePair (smaxV (valF k) a.l b.l) (smaxV (valF k) a.h b.h)))) ∧
  (∀ k, finite32 k = true →
    FieldGives (.fbcMinc k) 6 1 (onOne fun a =>
      if le a.h (valF k) then .keep 0 else if le (valF k) a.l then .point k else .pair ⟨a.lo, k⟩) ∧
    FieldGives (.fbcMaxc k) 6 1 (onOne fun a =>
      if le (valF k) a.l then .keep 0 else if le a.h (valF k) then .point k else .pair ⟨k, a.hi⟩)) ∧
  (∀ l h, finite32 l = true → finite32 h = true → le (valF l) (valF h) →
    FieldGives (.fbcClamp l h) 10 1 (onOne fun a =>
      if le (valF l) a.l ∧ le a.h (valF h) then .keep 0
      else if le a.h (valF l) then .point l
      else if le (valF h) a.l then .point h
      else .pair ⟨if le a.l (valF l) then l else a.lo, if le a.h (valF h) then a.hi else h⟩)) ∧
  let mag (v : Val) : Val := if v.neg then v.negate else v
  FieldGives .fbcDiv 2 2 (onTwo fun a b => .pair
    (if le b.l zero ∧ le zero b.h then ⟨0xFF800000, 0x7F800000⟩ else cornerPair a.l a.h (exInv b.h) (exInv b.l))) ∧
  FieldGives .fbcAbs 2 1 (onOne fun a => .pair (enclosePair
    (if le a.l zero ∧ le zero a.h then zero else exMin (mag a.l) (mag a.h)) (exMax (mag a.l) (mag a.h)))) ∧
  FieldGives .fbcSqrt 2 1 (onOne fun a => .pair
    (if ltV a.h zero = true then ⟨0xFF800000, 0x7F800000⟩ else enclosePair (exSqrt (exMax a.l zero)) (exSqrt a.h))) ∧
  FieldGives .fbcSin 2 1 (onOne fun a => .pair (trigPair false a)) ∧
  FieldGives .fbcCos 2 1 (onOne fun a => .pair (trigPair true a)) ∧
  (∀ k a, a.l.isFinite = false ∨ a.h.isFinite = false → trigPair k a = ⟨0xBF800000, 0x3F800000⟩) ∧
  FieldGives .fbcFloor 2 1 (onOne fun a => .pair (enclosePair (exFloor a.l) (exFloor a.h))) ∧
  FieldGives .fbcFract 2 1 (onOne fun a => .pair
    (if a.l.isFinite = true ∧ a.h.isFinite = true ∧ (exFloor a.l).toRat = (exFloor a.h).toRat then
      enclosePair (exAdd a.l (exFloor a.l).negate) (exAdd a.h (exFloor a.l).negate)
    else ⟨0, 0x3F800000⟩)) ∧
  FieldGives .fbcLen2 2 2 (onTwo fun a b => .pair (lengthPair [a, b])) ∧
  FieldGives .fbcLen3 2 3 (onThree fun a b c => .pair (lengthPair [a, b, c])) ∧
  FieldGives .fbcMix 2 3 (onThree fun a b t => .pair (mixPair a b t))

/-- R251: a field operation without its operands ends its ray with STACKUNDER, and one without room with STACKOVER, before
anything else of it; END with another depth than one gives ENDDEPTH; a ray that waits for a callable runs nothing. -/
def Obligations.FieldStackFaults : Prop :=
  ∀ (i : Instr) (s : State),
    (∀ c x e reads pops pushes, s.evaluating = some (c, x, e) → fieldShape i = some (reads, pops, pushes) →
      (e.stack.length < reads → EndsWith i s x 4) ∧
      (reads ≤ e.stack.length → pushes ≠ 0 → 32 < e.stack.length - pops + pushes → EndsWith i s x 3)) ∧
    (∀ c x e, s.evaluating = some (c, x, e) → e.stack.length ≠ 1 → EndsWith .fbcEnd s x 7) ∧
    (s.evaluating = none → (fieldShape i).isSome = true ∨ i = .fbcEnd ∨ i = .fbcNop ∨ i = .fbcXpop →
      exec i s = .next s)

/-- R262, R263, R367: BRICK pushes the enclosure of a brick at the position; CALLOUT hands its ray with its top entries to
a callable's window; END takes the one entry as the result of the state machine. That the callable table is read from memory at
the CALLOUT is the model's reading (log entry 48). -/
def Obligations.FieldBricksCallsAndEnds : Prop :=
  ∀ (s : State) (c : Cmd) (x : Ray) (e : Eval) (k : Word) (n : Nat),
    s.evaluating = some (c, x, e) →
    let bk := s.ray.1
    let p := s.engine bk 2
    let base := field c.shape 0x08 8
    let bricks := field c.shape 0x04 4
    let va := (base + 1024 * k.toNat) % 2 ^ 57
    let l := s.launch (s.block bk).launch
    let entry := (l.calltab + 8 * k.toNat) % 2 ^ 57
    (e.stack.length < 32 → bricks ≤ k.toNat → EndsWith (.fbcBrick k) s x 10) ∧
    (∀ bs, e.stack.length < 32 → k.toNat < bricks → s.fetchBrick p va = .ok bs →
      ∃ t, exec (.fbcBrick k) s = .next t ∧ (∀ a, t.mem.byte a = s.mem.byte a) ∧
        ((Map.find s.blocks bk).isSome = true → (t.block bk).ray s.ray.2 = some { x with
          eval := some { e with pc := e.pc + 6, stack := brickEntry e.mode bs e.frame :: e.stack } })) ∧
    (n ≤ e.stack.length → e.stack.length - n < 32 → l.regrp = false ∨ l.ncall ≤ k.toNat →
      EndsWith (.fbcCallout n k) s x 11) ∧
    (∀ bs, n ≤ e.stack.length → e.stack.length - n < 32 → l.regrp = true → k.toNat < l.ncall → s.fetch p entry 8 = .ok bs →
      (Map.find s.blocks bk).isSome = true →
      ∃ t, exec (.fbcCallout n k) s = .next t ∧ (∀ a, t.mem.byte a = s.mem.byte a) ∧
        (t.block bk).ray s.ray.2 = some { x with
          eval := some { e with pc := e.pc + 6, stack := e.stack.drop n, called := true } } ∧
        ∃ w ∈ (t.block bk).collator, w.target = BitVec.ofNat 57 (l.entry + leNat bs) ∧
          ∃ h ∈ w.rays, h.ray = s.ray.2 ∧ h.args = e.stack.take n ∧ h.callable = k.toNat) ∧
    (∀ r, e.stack = [r] →
      let q := r.effective
      let d := c.desc
      exec .fbcEnd s = .next (s.setRay (if x.st = .refine then x.refined d q else x.test d q)) ∧
      (x.st = .refine → leV q.l (.zero false) = true → x.refined d q = { x with
        n := 4, st := .done, status := 1, eval := none }) ∧
      (x.st = .test → ltV (valF (mrEps d)) q.l = false → ltV (.zero false) q.l = true ∨ ltV q.h (.zero false) = true →
        x.test d q = Ray.seg { x with tf := x.t1, w := x.twice } (mrMaxit d)))

/-- R255, R256: over values of its operands, ADD, SUB, MUL, DIV, MIN, MAX, NEG, ABS, SQR, FLOOR, FRACT, CLAMP and the forms with
a constant give a pair that holds the exact result. (SMIN, SMAX, SQRT, SIN, COS, LEN2, LEN3 and MIX are not of this statement.) -/
def Obligations.FieldPairsEncloseExactValues : Prop :=
  ∀ (a b : Bounds) (x y : Rat), a.degenerate = false → b.degenerate = false → a.holds x → b.holds y →
    let gives (op : FieldOp) (q : Rat) : Prop := ((op.rule [a, b]).bounds [a, b]).holds q
    gives .add (x + y) ∧ gives .sub (x - y) ∧ gives .mul (x * y) ∧ (y ≠ 0 → gives .div (x / y)) ∧
    gives .min (min x y) ∧ gives .max (max x y) ∧ gives .neg (-x) ∧ gives .abs |x| ∧ gives .sqr (x * x) ∧
    gives .floor ⌊x⌋ ∧ gives .fract (x - ⌊x⌋) ∧
    ∀ k : Word, finite32 k = true →
      let q := (valF k).toRat
      gives (.addc k) (x + q) ∧ gives (.rsubc k) (q - x) ∧ gives (.mulc k) (x * q) ∧
      gives (.minc k) (min x q) ∧ gives (.maxc k) (max x q) ∧
      ∀ h : Word, finite32 h = true → q ≤ (valF h).toRat → gives (.clamp k h) (min (max x q) (valF h).toRat)

/-- R23, R89, R135, R136, R187, R197, R204, R213, R237, R338, R386: the events of warps, each where it is due; one that is
not due leaves the state (log entry 14). The model's readings: W is compared with the live threads of the issue (log entry 22), a
waiting ACQ whose page is denied goes on waiting (log entry 58), and so does a WAITPH whose window has been detached (log entry
95); a warp whose threads have ended stays while reads of theirs are pending (log entry 102). -/
def Obligations.WarpEvents : Prop :=
  (∀ (s : State) (w r : Nat) (l : Fin 32) (x : Warp) (f : Inflight), Map.find s.warps w = some x →
    (x.inflight.find? fun f => f.reg == r && f.due.getLsbD l.val && !f.held.getLsbD l.val) = some f →
    let one := LaneMask.one l
    let arrives (y : State → Warp) (p : State → Prop) : Prop := ∃ t, exec (.longLatencyWriteback w r l.val) s = .next t ∧
      t = { s with warps := t.warps } ∧ (∀ k, k ≠ w → Map.find t.warps k = Map.find s.warps k) ∧ t.warp w = y t ∧
      (∀ n, n ≠ r → (t.warp w).vreg n = x.vreg n) ∧ p t
    (f.due ≠ one →
      arrives (fun t => { x with vregs := (t.warp w).vregs, inflight := (t.warp w).inflight }) fun t =>
        (t.warp w).vreg r = ⟨(x.vreg r).st, (x.vreg r).pend &&& ~~~one⟩ ∧
        { f with due := f.due &&& ~~~one } ∈ (t.warp w).inflight) ∧
    (f.due = one → f.w ≠ 0 → s.slotsFor w x 1 = true →
      arrives (fun t => { x with
        vregs := (t.warp w).vregs, inflight := x.inflight.erase f, kflags := setFlags x.kflags f.flags
        stuck := x.stuck.filter fun q => q != r }) fun t =>
        ((t.warp w).vreg r).pend = (x.vreg r).pend &&& ~~~f.w ∧
        ∀ k : Fin 32, (f.w.getLsbD k.val = true → ((t.warp w).vreg r).st.lane k = f.value.lane k) ∧
          (f.whole = false → f.w.getLsbD k.val = false → ((t.warp w).vreg r).st.lane k = (x.vreg r).st.lane k))) ∧
  (∀ (s : State) (core : Nat), let c := s.core core
    (c.collector ≠ [] → 64 ≤ c.collectorAge ∨ 256 ≤ c.requests → ∃ window later, c.collector = window ++ later ∧
      exec (.collectorWindowClose core) s =
        .next (window.foldl State.collected (s.setCore core { c with collector := later, collectorAge := 0 })) ∧
      (c.requests ≤ 256 → (∀ r ∈ c.collector, r.addrs ≠ []) → later = [])) ∧
    (c.collectorAge < 64 → c.requests < 256 → exec (.collectorWindowClose core) s = .next s)) ∧
  (∀ (s : State) (w : Nat) (x : Warp), Map.find s.warps w = some x →
    (exec (.yieldRelease w) s = .next (if x.aside = 1 ∨ (x.aside ≠ 0 ∧ x.asidePeers = []) then
      s.setWarp w { x with aside := 0, asidePeers := [] } else s)) ∧
    (exec (.sleepEnd w) s = .next (if x.sleep = 1 then s.setWarp w { x with sleep := 0 } else s)) ∧
    (exec (.handlerBudgetExpiry w) s = .next (if x.hndl = true ∧ x.khbudget = 0 then
      s.kill x.blk ⟨0x10, x.kcause.toNat % 256, x.trapMask.lowest.val, x.kepc, x.trapMask, false, x.index⟩ else s)) ∧
    (∀ e, x.log = some e → (∀ k, e.acc.op ≠ .move k) → exec (.operandLogReplay w) s =
      .next (if s.faulted (s.launch (s.block x.blk).launch).ctx (.warp w) then s else s.replay w e)) ∧
    (x.log = none → exec (.operandLogReplay w) s = .next s) ∧
    (∀ (i : Nat) (l : Fin 32) (y : Wait) (a : Nat), x.waits[i]? = some y → y.due.getLsbD l.val = true →
      Map.find y.addrs l.val = some a →
      (∀ b off, y.guard = false → s.sram x.blk a 4 = .ok b off →
        let v := s.sramRead b off 4
        (bitOf v 31 ≠ (y.wanted.get l == 1) → exec (.phaseWaitSatisfied w i l.val) s = .next s) ∧
        (bitOf v 31 = (y.wanted.get l == 1) → exec (.phaseWaitSatisfied w i l.val) s =
          .next ((s.order (slotCore w) y.acquire false false y.scope (b.key off) 4 false).putAnswer w i y l
            (BitVec.ofNat 32 v)))) ∧
      (∀ p t v vs, y.guard = true →
        let u := s.issuer w
        s.way u y.access l.val a = .here p → (s.oneLane u y.access l.val (.here p)).1 = t →
        (s.oneLane u y.access l.val (.here p)).2.1 = some (v :: vs) →
        (acqMeets y.equal v.toNat (y.wanted.get l).toNat = false → exec (.guardWaitSatisfied w i l.val) s =
          .next (s.settle u.party.ctx u.party.who)) ∧
        (acqMeets y.equal v.toNat (y.wanted.get l).toNat = true → exec (.guardWaitSatisfied w i l.val) s =
          .next ((t.putAnswer w i y l v).settle u.party.ctx u.party.who))) ∧
      (∀ v, (∀ p ∈ s.warps, p.2.carried = []) → let z := s.answerWait w i y l v
        (z.over = false → (s.block x.blk).arrivals = 0 → s.putAnswer w i y l v = s.setWarp w z) ∧
        (z.over = true → Map.find (s.putAnswer w i y l v).warps w = none)) ∧
      (∀ v, y.due &&& ~~~LaneMask.one l ≠ 0 → let z := s.answerWait w i y l v
        z.waits = x.waits.set i { y with got := y.got.set l.val v, due := y.due &&& ~~~LaneMask.one l } ∧
        ∀ n, z.vreg n = if n = y.reg then ⟨(x.vreg n).st, (x.vreg n).pend &&& ~~~LaneMask.one l⟩ else x.vreg n))) ∧
  (∀ (s : State) (b target : Nat), let k := s.block b
    let due (w : Window) : Prop := w.closed = false ∧ w.target.toNat = target ∧ 256 ≤ w.age
    (s.launch k.launch).proof = false →
    ((∃ w ∈ k.collator, due w) → exec (.collatorWindowTimeout b target) s = .next (s.setBlock b { k with
      collator := k.collator.map fun (w : Window) => if due w then { w with closed := true } else w })) ∧
    ((¬∃ w ∈ k.collator, due w) → exec (.collatorWindowTimeout b target) s = .next s)) ∧
  (∀ (s : State) (b : Nat),
    ((∀ w ∈ (s.block b).collator, w.closed = false) → exec (.collatorWarpForm b) s = .next s) ∧
    let u := s.askClosed b
    (∀ w ws t v, (u.block b).collator = w :: ws → w.closed = true → u.formFrom b w = some (t, v) →
      exec (.collatorWarpForm b) s = .next (t.setBlock b { t.block b with
        collator := (if v.threads = [] ∧ v.rays = [] then [] else [v]) ++ ws })))

/-- R387, R410 to R414, R419, R426, R427: faults told to the GSC and written to the ring, their answers, answers from
outside, and the control of contexts. The model's choices in it: an event that is not due leaves the state (log entry 14),
answers come with their bytes (log entry 35), the order of MIGERR (log entry 67), the writes that the endpoint holds and whose
they are (log entries 69, 97), and faults of one page that share an answer (log entry 70). -/
def Obligations.FaultsAndContexts : Prop :=
  (∀ (s : State) (i : Nat) (ctx : Nat) (f : PendingFault), let fs := s.allFaults.filter fun p => !p.2.sent
    fs[i]? = some (ctx, f) → (∀ p ∈ fs.take i, clusterOf p.2.core ≠ clusterOf f.core) →
    exec (.faultReport i) s = .next (s.setCtx ctx { s.ctx ctx with
      faults := (s.ctx ctx).faults.map fun g => if g = f then { f with sent := true } else g })) ∧
  (∀ (f : PendingFault) (id head log : Nat), let e := faultEntry f id head log
    e.length = 32 ∧ field e 0 8 = f.line % 2 ^ 57 ∧ field e 8 4 = id % 2 ^ 32 ∧ field e 0x0C 1 = f.kind % 2 ^ 8 ∧
    field e 0x0D 1 = f.reason % 2 ^ 8 ∧ field e 0x0E 2 = f.core % 2 ^ 16 ∧ field e 0x10 2 = f.queue % 2 ^ 16 ∧
    field e 0x12 10 = 0 ∧ field e 0x1C 3 = 0 ∧ field e 0x1F 1 = if head / 2 ^ log % 2 = 1 then 0xA5 else 0x5A) ∧
  (∀ (s : State) (ctx : Nat), let c := s.ctx ctx
    let n := 2 ^ c.ringLog
    (c.faults.find? c.unreported = none → exec (.faultRingWrite ctx) s = .next s) ∧
    (∀ f, c.faults.find? c.unreported = some f →
      ((c.frhead + 2 ^ 16 - c.frtail) % 2 ^ 16 = n → exec (.faultRingWrite ctx) s = .next s) ∧
      (∀ ps, (c.frhead + 2 ^ 16 - c.frtail) % 2 ^ 16 ≠ n →
        s.rangeWalk ctx .write ((c.frbase + 32 * (c.frhead % n)) % 2 ^ 57) 32 = .ok ps →
        let t := (s.putPieces (State.ringParty ctx) ps (faultEntry f c.nextId c.frhead c.ringLog)).setFault ctx f
          { f with id := some c.nextId }
        exec (.faultRingWrite ctx) s = .next ((t.setCtx ctx { t.ctx ctx with
          frhead := (c.frhead + 1) % 2 ^ 16, nextId := nextSerial c.nextId }).signal c.fn 0)) ∧
      (∀ a r, (c.frhead + 2 ^ 16 - c.frtail) % 2 ^ 16 ≠ n →
        s.rangeWalk ctx .write ((c.frbase + 32 * (c.frhead % n)) % 2 ^ 57) 32 = .fault a r →
        exec (.faultRingWrite ctx) s = .next (s.terminate ctx)))) ∧
  (∀ (s : State) (ctx id : Nat), let c := s.ctx ctx
    let gone (f : PendingFault) : State := s.setCtx ctx { c with
      faults := c.faults.filter fun g => g.line / 2 ^ 16 != f.line / 2 ^ 16 }
    let same (f : PendingFault) : List PendingFault := c.faults.filter fun g => g.line / 2 ^ 16 == f.line / 2 ^ 16
    (c.faults.find? (fun f => f.id == some id) = none →
      exec (.frespRetry ctx id) s = .next s ∧ exec (.frespFail ctx id) s = .next s) ∧
    (s.ctxHeld ctx = true → exec (.frespRetry ctx id) s = .next s ∧ exec (.frespFail ctx id) s = .next s) ∧
    (∀ f, s.ctxHeld ctx = false → c.faults.find? (fun f => f.id == some id) = some f →
      exec (.frespRetry ctx id) s = .next { gone f with
        warps := s.warps.map fun p => if (same f).any fun g => g.who == .fetch p.1 then (p.1, { p.2 with fetchFault := false })
          else p } ∧
      exec (.frespFail ctx id) s =
        .next ((same f).foldl (fun t g => t.pageKill g.who ⟨g.run, g.pc, g.lane⟩ g.line (g.kind % 2 == 1)) (gone f)))) ∧
  (∀ (s : State) (i : Nat) (ctx : Nat) (f : PendingFault), i < 512 →
    (s.allFaults.filter fun p => p.2.request)[i]? = some (ctx, f) →
    let c := s.ctx ctx
    (∀ p, s.hostPage ctx f.line = some p →
      let old := ((c.ats.find? fun a => a.1 == p).map Prod.snd).getD 0
      exec (.pageRequestResponse i true) s = .next ((s.setCtx ctx { c with
        ats := (c.ats.filter fun a => a.1 != p) ++ [(p, old ||| if f.kind % 2 = 1 then 3 else 1)] }).answerFault ctx f true)) ∧
    exec (.pageRequestResponse i false) s = .next (s.answerFault ctx f false)) ∧
  (∀ (s : State) (i : Nat) (ok host : Bool) (data : List Byte) (r : ExtReq), r.dev.isNone = host →
    s.ext.find? (fun q => q.id == i && q.data.isNone && q.dev.isNone == host) = some r →
    let ev := if host then Instr.pcieReadCompletion i ok data else Instr.remoteResponse i ok data
    let rest : State := { s with ext := s.ext.filter fun q => q.id != r.id }
    let write := r.kind % 256 != msgRead
    (∀ k, ok = false → r.who = .warp k → exec ev s = .next (rest.threadKill k ⟨r.run, r.pc, r.lane⟩ write false)) ∧
    (ok = false → (∀ k, r.who ≠ .warp k) → exec ev s = .next (rest.pageKill r.who ⟨r.run, r.pc, r.lane⟩ (r.addr / 128 * 128) write)) ∧
    (ok = true → r.parts = [] → exec ev s = .next rest) ∧
    (ok = true → (∃ p ∈ r.parts, p.reg = keptReg) → r.bytes + (if 256 ≤ r.kind then 8 else 0) ≤ data.length →
      exec ev s = .next { s with ext := s.ext.map fun q => if q.id = r.id then { q with data := some data } else q })) ∧
  (∀ (s : State) (ctx : Nat), let c := s.ctx ctx
    (s.ctxHeld ctx = true → exec (.term ctx) s = .next s ∧ exec (.miggo ctx) s = .next s ∧
      ∀ iva n, exec (.invalidation ctx iva n) s = .next s) ∧
    (s.ctxHeld ctx = false → exec (.term ctx) s = .next (s.terminate ctx)) ∧
    (∀ iva n, s.ctxHeld ctx = false → exec (.invalidation ctx iva n) s = .next (s.setCtx ctx (
      if c.invbusy then { c with invHeld := c.invHeld ++ [(s.writer ctx, iva % 2 ^ 57 / 2 ^ 16, n % 2 ^ 16)] }
      else { c with invbusy := true, inv := (iva % 2 ^ 57 / 2 ^ 16, n % 2 ^ 16) }))) ∧
    (c.invbusy = false ∨ s.translatedDone ctx = false → exec (.invalidationComplete ctx) s = .next s) ∧
    (c.invbusy = true → s.translatedDone ctx = true → exec (.invalidationComplete ctx) s =
      .next ((s.setCtx ctx { c with
        tlb := c.tlb.filter fun e => !e.maps c.inv
        invbusy := !c.invHeld.isEmpty, inv := (c.invHeld.map Prod.snd).headD c.inv, invHeld := c.invHeld.tail }).reclaimFrames.signal
          c.fn 2)) ∧
    (∀ va n : Nat, s.hostBusy ctx = false → exec (.atsInvalidationRequest ctx va n) s = .next (s.setCtx ctx { c with
      ats := c.ats.filter fun a => !(decide (va / 2 ^ 16 ≤ a.1) && decide (a.1 < va / 2 ^ 16 + n)) })) ∧
    (c.migbusy = true → exec (.miggo ctx) s = .next s) ∧
    (c.migbusy = false → s.ctxHeld ctx = false → s.migError ctx ≠ 0 →
      exec (.miggo ctx) s = .next (s.setCtx ctx { c with migerr := s.migError ctx })) ∧
    (∀ leaf e large, c.migbusy = false → s.ctxHeld ctx = false → s.migError ctx = 0 →
      s.leafAt ctx c.migva = some (leaf, e, large) →
      ∃ t, exec (.miggo ctx) s = .next t ∧ t.mem = s.mem.write leaf 8 (if e / 2 ^ 9 % 2 = 1 then e else e + 2 ^ 9) ∧
        t.ctx ctx = { c with
          migbusy := true, migerr := 0, migFrom := c.migva, migTo := c.migpte
          migFrames := pageFrames (leafLoc e) (pageBytes large) ++ pageFrames (leafLoc c.migpte) (pageBytes large)
          tlb := c.tlb.filter fun x => x.addr != leaf } ∧
        ∀ k, k ∈ pageFrames (leafLoc e) (pageBytes large) ++ pageFrames (leafLoc c.migpte) (pageBytes large) →
          (t.frame k).copying = true) ∧
    (c.migbusy = true → (∀ p ∈ s.cores, p.2.collector = []) → s.leafAt ctx c.migFrom = none →
      exec (.migrationComplete ctx) s = .next (s.dropMigration ctx 5)) ∧
    (∀ err k, k ∈ c.migFrames → ((s.dropMigration ctx err).frame k).copying = false) ∧
    (∀ leaf e large, c.migbusy = true → (∀ p ∈ s.cores, p.2.collector = []) →
      s.leafAt ctx c.migFrom = some (leaf, e, large) →
      let n := pageBytes large
      (s.pageBusy ctx e n = true → exec (.migrationComplete ctx) s = .next s) ∧
      (s.pageBusy ctx e n = false → s.migShort e c.migTo ≠ 0 →
        exec (.migrationComplete ctx) s = .next ((s.setLeaf leaf (if e / 2 ^ 9 % 2 = 1 then e - 2 ^ 9 else e)).dropMigration ctx
          (s.migShort e c.migTo))) ∧
      (∀ bs, s.pageBusy ctx e n = false → s.migShort e c.migTo = 0 → s.migBytes ctx e n = .ok bs →
        let p := State.migrator ctx
        let t := (s.dropKept p.who).putLoc ctx p.who (leafLoc c.migTo) bs
        exec (.migrationComplete ctx) s = .next (({ t with ext := t.ext.filter fun r =>
          !(r.who == p.who && r.data.isNone && r.kind % 256 == msgRead) }).installPage ctx leaf e c.migTo n))))

/-- R12, R39, R307, R309, R312, R319, R330, R331, R333, R402: blocks are offered, admitted, started, restored and
reported. The model's choices in it: an event that is not due leaves the state (log entry 14), a refusal reported changes
nothing and the ties of an admission (log entry 57), saved blocks wait beside new ones (log entry 88), and what counts as
'later' in R312 (log entry 109). -/
def Obligations.BlocksComeAndGo : Prop :=
  (∀ (s : State) (k cl : Nat) (l : Launch), Map.find s.launches k = some l →
    let first : Prop := ∀ p ∈ s.launches, p.2.offers = true → p.2.prio ≤ l.prio
    let ready : Prop := l.phase = .running ∧ l.cancelled = false ∧ l.devlost = false ∧ l.ended = false
    (∀ n a rs, ready → first → cl < 48 → (s.cluster cl).linkUp = true → l.relaunch = (n, a) :: rs →
      exec (.launchMessage k cl) s = .next (s.setLaunch k { l with
        relaunch := rs, waiting := l.waiting ++ [(n, a, 0)] })) ∧
    (ready → first → cl < 48 → (s.cluster cl).linkUp = true → l.relaunch = [] → l.nextBlock < l.last →
      exec (.launchMessage k cl) s = .next (s.setLaunch k { l with
        nextBlock := l.nextBlock + 1, waiting := l.waiting ++ [(l.nextBlock, 1, 0)] })) ∧
    (¬first ∨ l.offers = false → exec (.launchMessage k cl) s = .next s)) ∧
  (∀ (s : State) (lk n core p0 : Nat) (w : Waiter), s.waiter lk n = some w → w.saved = none →
    let ms := s.groupLeft lk n
    (∀ m ∈ ms, ∃ v ∈ s.waiters, v.launch = lk ∧ v.n = m.1 ∧ v.saved = none) → (s.launch lk).ended = false →
    (∀ c ∈ s.partyCores w core, s.turnOf w c = true) → s.firstCorner lk n core = true →
    (∀ t b, s.admitGroup lk n core p0 = .ok t b → exec (.blockAdmission lk n core p0) s =
      .next (t.setLaunch lk { t.launch lk with
        waiting := (t.launch lk).waiting.filter fun v => !ms.any fun m => m.1 == v.1 })) ∧
    (∀ c ks, s.admitGroup lk n core p0 = .evict c ks → exec (.blockAdmission lk n core p0) s =
      .next (s.evictFirst (s.launch lk).queue (s.launch lk).ctx c .evict ks)) ∧
    (s.admitGroup lk n core p0 = .no → exec (.blockAdmission lk n core p0) s = .next s)) ∧
  (∀ (l : Launch) (b w q : Nat) (trap : Option (Nat × Nat)) (i : Fin 32), let x := freshWarp l b w q trap
    let t := 32 * w + i.val
    x.blk = b ∧ x.index = w ∧ x.seqno = q ∧ x.firstTrap = trap ∧ x.role = l.role w ∧ x.vregs = [] ∧ x.hndl = false ∧
    x.lanes[i].st = (if t < l.threads then .live else .none) ∧ (t < l.threads → x.lanes[i].pc = addrPc (BitVec.ofNat 57 l.entry)) ∧
    x.lanes[i].tx = t % l.dimx ∧ x.lanes[i].ty = t / l.dimx % l.dimy ∧ x.lanes[i].tz = t / (l.dimx * l.dimy)) ∧
  (∀ (s : State) (lk n : Nat), exec (.admissionRefusal lk n) s = .next s) ∧
  (∀ (s : State) (lk n : Nat), exec (.admissionWaitLimit lk n) s = .next s) ∧
  (∀ (s : State) (core : Nat) (o w : Waiter), o ∈ s.waiters → o.before w = true → s.sameParty o w = false →
    s.fitsAt o core = true ∨ (3000000 ≤ o.waited ∧ s.couldUse o core = true) → s.turnOf w core = false) ∧
  (∀ (s : State) (lk n core : Nat) (w : Waiter), s.waiter lk n = some w →
    (w.waited < 75000 → exec (.priorityPreemption lk n core) s = .next s) ∧
    (∀ vs, 75000 ≤ w.waited → s.couldUse w core = true → (∀ c ∈ s.service, s.fitsAt w c = false) →
      s.enough w core (s.victims w.prio core) [] = some vs →
      exec (.priorityPreemption lk n core) s = .next (vs.foldl (fun u v => u.requestSave 0 v) s))) ∧
  (∀ (s : State) (b : Nat) (x : Block), Map.find s.blocks b = some x → s.attachedHere b = true →
    let l := s.launch x.launch
    let p := s.inputParty b
    let numbered := ((s.dropKept p.who).settle p.ctx p.who).numberWarps b
    (x.phase = .restoring → s.blockWarps b ≠ [] →
      exec (.blockStart b) s = .next ((s.setBlock b { x with phase := .running }).checkBarrier b)) ∧
    (x.phase = .starting → l.nin = 0 → l.ltype ≠ 2 → exec (.blockStart b) s = .next (numbered.setBlock b
      { numbered.block b with area := putArea l.areaBytes [] 0 l.args, phase := .running })) ∧
    (x.phase = .running ∨ x.phase = .ended → exec (.blockStart b) s = .next s)) ∧
  (∀ (s : State) (b : Nat) (x : Block), Map.find s.blocks b = some x → s.attachedHere b = false →
    exec (.blockStart b) s = .next s) ∧
  (∀ (s : State) (b : Nat) (x : Block), Map.find s.blocks b = some x →
    (x.phase ≠ .ended → exec (.blockCompletion b) s = .next s) ∧
    (x.phase = .ended → x.flushed = true → x.version = [] → x.matrixQ = [] → x.copyQ = [] → x.marchQ = [] →
      (∀ r ∈ s.ext, r.data = none → ∀ k, r.who ≠ .engine b k) →
      (∀ c ∈ s.collectives, c.issued = true → c.blk = b → c.launch ≠ x.launch) →
      ∃ t, exec (.blockCompletion b) s = .next t ∧ t.blocks = Map.erase s.blocks b ∧
        t.launch x.launch = { s.launch x.launch with done := (s.launch x.launch).done + 1 } ∧
        b ∉ (t.cluster (clusterOf (blockCore b))).order)) ∧
  (∀ (s : State) (k core p0 : Nat) (x : Saved), Map.find s.saved k = some x →
    (s.restoring = false → exec (.blockRestore k core p0) s = .next s) ∧
    (∀ w, (s.waiters.find? fun w => w.saved == some k) = some w → (∀ c ∈ s.partyCores w core, s.turnOf w c = true) →
      s.mss.laylo ≤ x.layout →
      x.layout ≤ s.mss.layhi → (x.blk.source = 1 → core = s.coolest k x) →
      (∀ t b, s.restoreGroup k core p0 = .ok t b →
        exec (.blockRestore k core p0) s = .next (s.restored t (s.savedGroup k))) ∧
      (∀ c ks, s.restoreGroup k core p0 = .evict c ks → exec (.blockRestore k core p0) s =
        .next (s.evictFirst (s.launch x.blk.launch).queue x.ctx c .evict ks)) ∧
      (s.restoreGroup k core p0 = .no → exec (.blockRestore k core p0) s = .next s)))

/-- R314 to R318, R346, R347, R359, R389, R394 to R399, R431, R436: requests and saves, kills ordered by the GSC, hot cores,
and repair. The model's choices in it: an event that is not due leaves the state (log entry 14), where an image is placed
(log entry 61), a request withdrawn (log entry 62), the errors that a scrub pass reports (log entry 71), the entries of a
retirement (log entry 72), and the order and cause of a clearing core's evictions (log entry 103). -/
def Obligations.SavesAndRepair : Prop :=
  (∀ (s : State) (b : Nat) (x : Block), Map.find s.blocks b = some x → s.killSet b = [] →
    let proof := (s.launch x.launch).proof
    let formed (t : State) : State := if proof = true then t.formAll b else t
    (x.pending = true ∨ x.phase = .ended → exec (.preemptionRequest b) s = .next (formed s)) ∧
    (x.pending = false → x.phase ≠ .ended → exec (.preemptionRequest b) s =
      .next (formed { s.setBlock b { x with
          collator := x.collator.map fun w => { w with closed := true }
          pending := true, source := 0, kdeadline := (s.launch x.launch).deadline } with
        warps := s.warps.map fun p => if p.2.blk == b then (p.1, { p.2 with sleep := 0 }) else p })) ∧
    (x.pending = true → x.phase = .running → s.mss.paused = false →
      let late : Prop := x.expired = true ∨ s.atSavePoint b = false
      (¬late → exec (.cooperativeSave b) s = .next (s.beginSave false b)) ∧
      (late → exec (.cooperativeSave b) s = .next s) ∧
      (x.kdeadline ≠ 0 → exec (.deadlineExpiry b) s = .next s) ∧
      (x.kdeadline = 0 → ¬late → exec (.deadlineExpiry b) s = .next (s.beginSave false b)) ∧
      (x.kdeadline = 0 → late → proof = true → exec (.deadlineExpiry b) s = .next s) ∧
      (x.kdeadline = 0 → late → proof = false → s.handling b = true →
        exec (.deadlineExpiry b) s = .next (s.setBlock b { x with expired := true })) ∧
      (x.kdeadline = 0 → late → proof = false → s.handling b = false →
        exec (.deadlineExpiry b) s = .next (s.beginSave true b)) ∧
      (∀ f, proof = false →
        let t := s.setBlock b { x with phase := .saving f, saveAge := 0 }
        let rs := s.saveRecords b
        (s.recordsHere b rs = true → s.imagePlaces (s.launch x.launch).ctx [(t.imageOf b (t.savedOf b)).length]
          (s.imagesOf (s.launch x.launch).ctx) ≠ none) →
        s.beginSave f b = t.askRecords b rs)) ∧
    (∀ f, x.phase = .saving f →
      (2 ^ 24 ≤ x.saveAge → exec (.saveComplete b) s = .next s) ∧
      (s.saveReady b = false → x.saveAge < 2 ^ 24 →
        exec (.saveComplete b) s = .next (s.askRecords b (s.saveRecords b))) ∧
      (∀ a, s.saveReady b = true → x.saveAge < 2 ^ 24 →
        let y := s.savedOf b
        let img := s.imageOf b y
        s.imagePlaces (s.launch x.launch).ctx [img.length] (s.imagesOf (s.launch x.launch).ctx) = some [a] →
        ∃ t, exec (.saveComplete b) s = .next t ∧ Map.find t.saved s.savedNext = some { y with image := a, size := img.length } ∧
          t.savedNext = s.savedNext + 1 ∧ Map.find t.blocks b = none ∧ (∀ p ∈ t.warps, p.2.blk ≠ b) ∧
          t.mem = (((s.keepColls b s.savedNext).removeBlock b).mem).putBytes a img) ∧
      (x.saveAge < 2 ^ 24 → exec (.saveWatchdog b) s = .next s) ∧
      (2 ^ 24 ≤ x.saveAge → exec (.saveWatchdog b) s = .next (s.kill b (Killing.bare 0x14
        (if ∃ p ∈ s.blockWarps b, p.2.callable.isSome = true then 2 else if s.enginesQuiet b = true then 0 else 1)))) )) ∧
  (∀ (s : State) (ctx cl : Nat),
    let here := (s.blocks.filter fun p => clusterOf (blockCore p.1) == cl && (s.launch p.2.launch).ctx == ctx).map Prod.fst
    let u := s.cluster cl
    let left := if ctx ∈ u.leaving then u.leaving else u.leaving ++ [ctx]
    exec (.contextSwitchMessage ctx cl) s =
      .next ((here.foldl (fun u b => u.requestSave 2 b) (s.setCluster cl { u with leaving := left })).switched cl) ∧
    (ctx ∈ u.leaving → ∀ k, k < 16 → (u.slot k).ctx = ctx →
      (((s.switched cl).cluster cl).slot k).valid = if here = [] then false else (u.slot k).valid)) ∧
  (∀ (s : State) (b : Nat), ∃ t : State, s.removeBlock b = t.switched (clusterOf (blockCore b)) ∧ t.blocks = Map.erase s.blocks b) ∧
  (∀ (s : State) (b code detail : Nat), code ∈ [0x07, 0x0F, 0x10, 0x11, 0x14, 0x16] →
    (code = 0x11 → 1 ≤ detail ∧ detail ≤ 6) →
    exec (.killMessage b code detail) s = .next (s.kill b (Killing.bare code detail))) ∧
  (∀ (s : State) (k core : Nat) (x : Saved), Map.find s.saved k = some x → core < 192 → exec (.restoreMessage k core) s =
    .next { s with saved := Map.set s.saved k { x with order := some core } }) ∧
  (∀ (s : State) (b : Nat), (s.core (blockCore b)).hot = true → s.eligible b = true →
    exec (.migrationEligibility b) s = .next (s.requestSave 1 b)) ∧
  (∀ (s : State) (core temp : Nat), core < 192 → temp < 2 ^ 15 → s.mss.tmig < 2 ^ 7 → s.mss.tcrit < 2 ^ 7 →
    let c := s.core core
    let shown (hot : Bool) : State := s.setCore core { c with hot := hot, temp := BitVec.ofNat 16 temp }
    let u := s.sense core temp
    (c.hot = false → 16 * s.mss.tmig ≤ temp →
      let t := (shown true).logEvent 9 core 1 temp
      u = ((t.coreBlocks core).filter fun p => t.eligible p.1).foldl (fun u p => u.requestSave 1 p.1) t) ∧
    (c.hot = true → 5 ≤ s.mss.tmig → temp ≤ 16 * (s.mss.tmig - 5) → u = (shown false).logEvent 9 core 0 temp) ∧
    (c.hot = false → temp < 16 * s.mss.tmig → u = shown false) ∧
    (c.hot = true → 5 ≤ s.mss.tmig → 16 * (s.mss.tmig - 5) < temp → u = shown true) ∧
    (∀ i, i ∈ [Instr.coreHot core temp, .coreCool core temp, .tcritReached core temp] →
      exec i s = .next (if temp < 16 * s.mss.tcrit then u else u.fatal 3))) ∧
  (∀ (s : State) (errs : List (Nat × Nat)), exec (.scrubPass errs) s =
    .next (errs.foldl State.scrubError { s with rowErrors := [] })) ∧
  (∀ (s : State) (x : Store) (row : Nat), let n := Map.getD s.rowErrors (x.rowKey row) 0
    let bank := row / 2 ^ 16
    let used := Map.getD s.spares (x.bankKey bank) 0
    let rest : State := { s with rowErrors := Map.erase s.rowErrors (x.rowKey row) }
    (n < 2 → s.corrected x row = { s with rowErrors := Map.set s.rowErrors (x.rowKey row) (n + 1) }) ∧
    (2 ≤ n → used < x.spareRows → s.corrected x row =
      ({ rest with spares := Map.set rest.spares (x.bankKey bank) (used + 1) }).logEvent 1 x.unit x.code bank) ∧
    (2 ≤ n → x.spareRows ≤ used → s.corrected x row = rest.retireBank x bank)) ∧
  (∀ (s : State) (core : Nat), core < 192 → (s.core core).draining ≠ [] →
    (s.drained core = false → exec (.coreRejoinPlacement core) s = .next (s.clearCore core)) ∧
    (s.drained core = true →
      let t := (s.core core).draining.foldl (fun u r => u.shrinkCore core r) ((s.pinLeaves (768 + core)).foldl State.unpin s)
      exec (.coreRejoinPlacement core) s = .next (t.setCore core { t.core core with draining := [] })))

/-- R293, R294, R320 to R332, R340 to R342: hardware queues. A packet whose checks pass is accepted, and the read pointer
moves behind it; a refused one halts the queue. Accepted packets start and complete; device queues give child launches. The
model's choices in it: an event that is not due leaves the state (log entry 14), SEQ before it is raised (log entry 52), the
halt after the answer (log entry 53), a start refused with DETAIL that stays accepted (log entry 54), whose write a register
event stands for and which BARs are served (log entries 97, 100), and device queues by context (log entry 108). -/
def Obligations.QueuesAndPackets : Prop :=
  (∀ (s : State) (qn type : Nat) (i : Instr), (i, type) ∈ [(Instr.skip qn, 1), (.launch qn, 2), (.signal qn, 3),
      (.wait qn, 4), (.setq qn, 5), (.dqnew qn, 6), (.dqfree qn, 7)] → qn < 1024 → s.accepting qn = true →
    let x := s.queue qn
    let size := 2 ^ x.logsz
    ((s.ctx x.ctx).termd = true → exec i s = .next (s.haltQueue qn 7 0)) ∧
    ((s.ctx x.ctx).termd = false →
      (∀ code detail, s.readHead qn = .halt code detail → exec i s = .next (s.haltQueue qn code detail)) ∧
      (∀ ty cls fs bs, s.readHead qn = .packet ty cls fs bs → ty ≠ type → exec i s = .next s) ∧
      (∀ cls fs bs code detail, s.readHead qn = .packet type cls fs bs → s.checkPacket qn type bs = .halt code detail →
        exec i s = .next (s.haltQueue qn code detail)) ∧
      (∀ cls fs bs, s.readHead qn = .packet type cls fs bs → s.checkPacket qn type bs = .ok →
        let rp := x.slot + bs.length / 256
        let kind : PacketKind := if type = 2 then .launch s.launchNext
          else if type = 3 then .signal (field bs 0 8) (field bs 8 8) (field bs 0x10 1)
          else if type = 4 then .wait (field bs 0 8) (field bs 8 8) (field bs 0x10 1)
          else if type = 5 then .setq (field bs 0 3)
          else if type = 6 then .dqnew (bs.take 0x20)
          else .dqfree (field bs 0 4)
        ∃ t, exec i s = .next t ∧ (∀ a, t.mem.byte a = s.mem.byte a) ∧
          t.queue qn = { x with
            seq := x.seq + 1
            total := x.total + 1
            slot := if size ≤ rp then rp - size else rp
            lap := if size ≤ rp then !x.lap else x.lap
            packets := if type = 1 then x.packets else x.packets ++ [⟨x.total, x.ctx, kind, cls, fs, false⟩] } ∧
          (type ≠ 2 → t.launches = s.launches ∧ t.launchNext = s.launchNext) ∧
          (type = 2 → t.launchNext = s.launchNext + 1 ∧ t.launches = Map.set s.launches s.launchNext { Launch.blank with
            lpb := bs.take 256, queue := qn, ctx := x.ctx, seq := x.seq, prio := x.prio, fscope := fs, phase := .accepted
            inputs := (bs.drop 256).take 128 })))) ∧
  (∀ (s : State) (qn code detail : Nat), let x := s.queue qn
    detail < 2 ^ 16 → (x.halt = false ∨ x.code ≠ code ∨ x.detail ≠ detail) →
    s.haltQueue qn code detail = (s.setQueue qn { x with halt := true, code := code, detail := detail }).signal
      (s.ctx x.ctx).fn 1) ∧
  (∀ (s : State) (qn : Nat), let x := s.queue qn
    let on := { x with en := true, halt := false, code := 0, detail := 0, seq := 0, abandoned := [] }
    let back := (s.setQueue qn { x with halt := false, code := 0, detail := 0, abandoned := [] }).forgetReads qn
    s.ctxHeld x.ctx = false →
    (x.en = true ∨ s.mss.stage ≠ 5 ∨ s.mss.dump ≠ none → exec (.queueEnable qn) s = .next s) ∧
    (s.mss.stage = 5 → s.mss.dump = none → x.en = false → qn < 1024 →
      let t := (s.setQueue qn on).forgetReads qn
      (x.logsz ≤ 16 → x.slot < 2 ^ x.logsz → exec (.queueEnable qn) s = .next t) ∧
      (16 < x.logsz ∨ 2 ^ x.logsz ≤ x.slot → exec (.queueEnable qn) s = .next (t.haltQueue qn 3 0))) ∧
    exec (.queueDisable qn) s =
      .next (if x.en = true then (s.setQueue qn { x with en := false }).forgetReads qn else s) ∧
    (∀ r, r ∈ (s.forgetReads qn).ext ↔ r ∈ s.ext ∧ ¬(r.who = .queue qn ∧ r.kind = msgRead)) ∧
    (x.en = false → exec (.resume qn) s = .next s) ∧
    (x.en = true → back.accepting qn = false → exec (.resume qn) s = .next back) ∧
    (x.en = true → back.accepting qn = true → (back.ctx x.ctx).termd = false →
      (∀ t, back.readHead qn = .none t → exec (.resume qn) s = .next back) ∧
      (∀ code detail, back.readHead qn = .halt code detail → exec (.resume qn) s = .next (back.haltQueue qn code detail)) ∧
      (∀ ty cls fs bs, back.readHead qn = .packet ty cls fs bs → back.checkPacket qn ty bs = .ok →
        exec (.resume qn) s = .next back))) ∧
  (∀ (s : State) (qn seq : Nat) (p : Packet) (before : List Packet), (s.queue qn).packet seq = some (p, before) →
    let x := s.queue qn
    let gone (t : State) : State := t.setQueue qn { t.queue qn with
      packets := (t.queue qn).packets.filter fun k => k.seq != p.seq }
    let begun (t : State) : State := t.setQueue qn { t.queue qn with
      packets := (t.queue qn).packets.map fun k => if k.seq = p.seq then { k with started := true } else k }
    let start (t : State) : Prop := exec (.packetStart qn seq) s = .next t
    (p.started = true ∨ s.starting qn = false ∨ s.classAllows before p = false → start s) ∧
    (p.started = false → s.starting qn = true → s.classAllows before p = true →
      (∀ id t, p.kind = .launch id → s.startLaunch id = .ok t → start (begun t)) ∧
      (∀ id d, p.kind = .launch id → s.startLaunch id = .halt d → start (s.haltQueue qn 5 d)) ∧
      (∀ a v op t, p.kind = .signal a v op → s.signalWord qn p.ctx a v op = .ok t → start (gone t)) ∧
      (∀ a v op, p.kind = .signal a v op → s.signalWord qn p.ctx a v op = .denied → start (s.refuseQueue qn a)) ∧
      (∀ a v c, p.kind = .wait a v c → start (begun s)) ∧
      (∀ area, p.kind = .setq area → start (gone (s.setQueue qn { x with area := area }))) ∧
      (∀ bs t, p.kind = .dqnew bs → s.newDevQueue qn p bs = .ok t → start (gone t)) ∧
      (∀ h q, p.kind = .dqfree h → (s.ctx p.ctx).devQueue h = some q →
        start (begun (s.setCtx p.ctx { s.ctx p.ctx with
          devQueues := Map.set (s.ctx p.ctx).devQueues (h % 1024) { q with freed := true } }))) ∧
      (∀ h, p.kind = .dqfree h → (s.ctx p.ctx).devQueue h = none → start (gone s))) ∧
    (∀ a v c, p.kind = .wait a v c → x.refuses a = true → exec (.waitConditionMet qn seq) s = .next s) ∧
    (∀ a v c, p.kind = .wait a v c → p.started = true → x.gaveUp a 8 = false → x.refuses a = false →
      s.fetch (gsc qn p.ctx) a 8 = .denied → exec (.waitConditionMet qn seq) s = .next (s.refuseQueue qn a)) ∧
    (∀ a v c bs, p.kind = .wait a v c → p.started = true → x.gaveUp a 8 = false → x.refuses a = false →
      s.fetch (gsc qn p.ctx) a 8 = .ok bs →
      let t := s.settleRange (gsc qn p.ctx) a 8
      exec (.waitConditionMet qn seq) s = .next (if (if c = 0 then v ≤ leNat bs else v = leNat bs) then
        t.setQueue qn { t.queue qn with packets := (t.queue qn).packets.filter fun k => k.seq != seq } else t)) ∧
    (∀ id, p.kind = .launch id → s.launchDone id (s.launch id) = true →
      let l := s.launch id
      let done (t : State) : State := { t with
        launches := Map.erase t.launches id
        prims := t.prims.filter fun k => k.launch != id
        marks := t.marks.filter fun m => m.1 != id
        oldCode := t.oldCode.filter fun o => o.launch != id
        collectives := t.collectives.filter fun k => k.launch != id }
      let left (t : State) : State := t.setQueue qn { t.queue qn with
        packets := (t.queue qn).packets.filter fun k => k.seq != seq }
      (l.doneAddr = 0 → exec (.packetCompletion qn seq) s = .next (left (done s))) ∧
      (l.doneAddr ≠ 0 → (s.queue l.queue).refuses l.doneAddr = true → exec (.packetCompletion qn seq) s = .next s) ∧
      (∀ t, l.doneAddr ≠ 0 → (s.queue l.queue).refuses l.doneAddr = false → s.record l.queue l.ctx l.doneAddr (leBytes 4
          (if l.cancelled then 3 else if l.devlost then 2 else if l.failed ≠ 0 then 1 else 0) ++
          leBytes 4 l.failed ++ leBytes 8 l.seq) = .ok t →
        exec (.packetCompletion qn seq) s = .next (left (done t))))) ∧
  (∀ (s : State) (qn va : Nat), ((s.refuseQueue qn va).queue qn).frozen = true → (s.queue qn).frozen = false →
    ((s.refuseQueue qn va).queue qn).refuses va = true) ∧
  (∀ (s : State) (ctx i : Nat) (x : DevQueue) (n : Nat) (e : List Byte) (es : List (Nat × List Byte)),
    let c := s.ctx ctx
    let k := s.launchNext
    let l := childLaunch ctx i x n e
    let u : State := { (s.setCtx ctx { c with
        devQueues := Map.set c.devQueues i { x with entries := es } }).setLaunch k l with launchNext := k + 1 }
    c.dq i = some x → x.entries = (n, e) :: es → c.termd = false → s.mss.paused = false → s.starting x.queue = true →
    (field e 0x10 4 % 2 = 1 → exec (.deviceQueueEntryTake ctx i) s = .next u) ∧
    (field e 0x10 4 % 2 = 0 → exec (.deviceQueueEntryTake ctx i) s = .next (u.startChild k)) ∧
    l.queue = x.queue ∧ l.ctx = ctx ∧ l.seq = n ∧ l.prio = x.prio ∧ l.child = some i ∧
    l.args = (e.drop 0x20).take 32 ∧ l.phase = .accepted) ∧
  (∀ (s : State) (k : Nat) (l : Launch), Map.find s.launches k = some l →
    (l.phase ≠ .accepted ∨ l.child = none → exec (.childLaunchStart k) s = .next s) ∧
    (∀ i t, l.phase = .accepted → l.child = some i → s.starting l.queue = true →
      (l.serial = true → ∀ p ∈ s.launches, p.2.ctx = l.ctx → p.2.child = some i → l.order ≤ p.2.order) →
      s.startLaunch k = .ok t → exec (.childLaunchStart k) s = .next t))

/-- R217, R219, R225 to R231, R351 to R358, R462: the matrix unit and the copy engine start the command that they serve,
run the next ready tile, move drained sets to the unit's 8 writeback buffers, move one row of a copy, write an output block
back, and complete: the status word, then the phase word, and the queue. The model's choices in it: an event that is not due
leaves the state (log entry 14), one row of a copy in a step (log entry 45), a command's ACQ and REL at its steps (log entry
46), refused commands that complete out of their queue's order (log entry 95), and slots without a check of the context (log
entry 104). -/
def Obligations.MatrixAndCopyEvents : Prop :=
  (∀ (s : State) (bk i : Nat) (c : Cmd), let b := s.block bk
    servedCmd b.matrixQ = some (i, c) → c.frozen = false → b.saving = false →
    (c.kind = .mmaq → c.started = false → s.mqBlocked bk c.desc = false →
      exec (.matrixCommandStart bk) s = .next (s.setBlock bk { b with matrixQ := b.matrixQ.set i { c with
        started := true
        refused := mqSlotStatus c.desc ((s.cluster (clusterOf (blockCore bk))).slot (mqSlot c.desc)) } })) ∧
    (∀ cols, c.kind = .wbload → c.started = false → c.reload = false → c.progress = 0 →
      s.fetchAll (fun t n => t.fetchColumn (s.engine bk 0) c.desc c.brec n) (List.range (wbN c.desc)) = (none, cols, false) →
      let bytes := cols.flatMap padColumn
      let cl := clusterOf (blockCore bk)
      s.wbBlocked bk c.desc = false → ∃ t c', exec (.matrixCommandStart bk) s = .next t ∧
        (t.block bk) = { b with matrixQ := b.matrixQ.set i c' } ∧ c' = { c with
          started := true, shape := bytes, progress := 1, refused := c'.refused } ∧
        (t.cluster cl) = (s.cluster cl).setSlot (wbSlot c.desc) { (s.cluster cl).slot (wbSlot c.desc) with valid := false } ∧
        (wbForm c.desc ≠ 2 → wbOff c.desc + bytes.length ≤ (s.cluster cl).wbEnd → c'.refused = none)) ∧
    (∀ cl bks a, c.kind = .mmaq → c.started = true → c.parked = [] → c.progress < mqTiles c.desc →
      s.tileOrder cl = bk :: bks →
      let d := c.desc
      let ob := c.progress / mqGroups d
      let g := mmGroup (mqFa d)
      let k0 := c.progress % mqGroups d * g
      let kn := min g (mqK d - k0)
      let mine := c.sets.find? fun x => x.block == ob && !x.draining
      (mine.isSome = true ∨ c.sets.length < 2 ∧ (s.setsUsed (clusterOf (blockCore bk))).1 < 16 ∧
        (c.sets ≠ [] ∨ (s.setsUsed (clusterOf (blockCore bk))).2 < 8)) →
      s.fetchA bk c ((blockCells d ob).map fun q => (cellAt d ob q).1).dedup k0 kn = .ok a →
      let u := (s.dropKept (.engine bk 0)).settle (s.engine bk 0).ctx (.engine bk 0)
      let r := u.tileOn bk c k0 kn a (mine.getD (u.freshSet bk c ob))
      let t := u.setMatrixCmd bk i { c with
        progress := c.progress + 1
        flags := c.flags ||| r.2
        sets := (c.sets.filter fun x => x.block != ob) ++
          [{ r.1 with draining := decide ((c.progress + 1) % mqGroups d = 0) }] }
      exec (.matrixTile cl) s = .next ((t.setCluster cl { t.cluster cl with lastQueue := matrixQueue bk }).moveSets cl))) ∧
  (∀ (s : State) (bk i : Nat) (c : Cmd) (set : AccSet) (b : Bank) (off : Nat),
    servedCmd (s.block bk).matrixQ = some (i, c) → c.buffers.head? = some set →
    s.sram bk (mqD c.desc) (mqDBytes c.desc) = .ok b off →
    exec (.outputBlockWriteback bk) s = .next (State.moveSets
      ((s.setBank b (set.vals.foldl (fun m (q : Nat × Word) => m.write
        (off + 4 * ((cellAt c.desc set.block q.1).1 * mqDld c.desc + (cellAt c.desc set.block q.1).2)) 4 q.2.toNat)
        (s.bank b))).setMatrixCmd bk i { c with buffers := c.buffers.tail }) (clusterOf (blockCore bk)))) ∧
  (∀ (s : State) (cl : Nat), s.moveSets cl = (s.tileOrder cl).foldl State.moveSet s) ∧
  (∀ (s : State) (bk : Nat) (c : Cmd), let b := s.block bk
    servedCmd b.matrixQ = some (0, c) →
    let ds := (c.sets.filter fun x => x.draining).take (8 - s.buffersUsed (clusterOf (blockCore bk)))
    (ds = [] → s.moveSet bk = s) ∧
    (ds ≠ [] → s.moveSet bk = s.setBlock bk { b with matrixQ := b.matrixQ.set 0 { c with
      sets := c.sets.filter fun x => !ds.contains x, buffers := c.buffers ++ ds } })) ∧
  (∀ (s : State) (bk i : Nat) (c : Cmd),
    (doneCmd true (s.block bk).matrixQ mqFinished = some (i, c) → c.kind = .mmaq →
      exec (.mmaqCompletion bk) s = .next ((((s.popMatrix bk i c).complete bk (mqCompl c.desc) (c.refused.getD 0) c.rel
        c.scope).giveFlags c.warp (if c.refused = none then c.flags else 0)).closeBlock bk)) ∧
    (doneCmd true (s.block bk).matrixQ wbFinished = some (i, c) → c.kind = .wbload →
      let d := c.desc
      let k := clusterOf (blockCore bk)
      let u := s.cluster k
      (∀ st, c.refused = some st → exec (.wbloadCompletion bk) s = .next
        ((((s.setCluster k (u.setSlot (wbSlot d) { u.slot (wbSlot d) with valid := false })).popMatrix bk i c).complete bk
          (wbCompl d) st c.rel c.scope).closeBlock bk)) ∧
      (c.refused = none →
        let v := u.overlapped (wbSlot d) (wbOff d) c.shape.length
        exec (.wbloadCompletion bk) s = .next
          ((((s.setCluster k ({ v with wb := v.wb.putBytes (wbOff d) c.shape }.setSlot (wbSlot d)
            { valid := true, wboff := wbOff d, n := wbN d, k := wbK d, bfmt := wbFmt d, form := wbForm d, sc := wbSc d,
              bytes := c.shape.length, ctx := (s.launch (s.block bk).launch).ctx })).popMatrix bk i c).complete bk
                (wbCompl d) 0 c.rel c.scope).closeBlock bk))) ∧
    (doneCmd (s.engineAcked bk 1) (s.block bk).copyQ cpFinished = some (i, c) →
      let b := s.block bk
      exec (.cpqCompletion bk) s = .next (((s.setBlock bk { b with copyQ := b.copyQ.eraseIdx i }).complete bk
        (cpCompl c.desc) (c.refused.getD 0) c.rel c.scope).closeBlock bk)) ∧
    (∀ b0 bks, s.tilesFirst (blockCore b0) = false →
      s.slotOrder (blockCore b0) (s.core (blockCore b0)).lastCopy = bk :: bks →
      servedCmd (s.block bk).copyQ = some (i, c) → c.progress < cpRows c.desc → c.frozen = false →
      (s.block bk).saving = false →
      let d := c.desc
      let n := c.progress
      let p := s.engine bk 1
      let moved (t : State) : Prop :=
        let u := (t.dropKept p.who).settle p.ctx p.who
        let v := u.setBlock bk { u.block bk with copyQ := (u.block bk).copyQ.set i { c with started := true, progress := n + 1 } }
        exec (.copyCommandStart b0) s = .next (v.setCore (blockCore b0) { v.core (blockCore b0) with lastCopy := bk % 32 })
      (∀ bs, cpDir d = 0 → s.recFetch p c.brec (cpMem d + n * cpMemPitch d) (cpLen d) = .ok bs → moved (s.cpPut bk d n bs)) ∧
      (∀ t, cpDir d = 1 →
        let o := cpMem d + n * cpMemPitch d
        let w := ((recBase c.brec + o) % 2 ^ 57,
          (s.cpRow (s.cpNear bk d) (n * cpSramPitch d) (cpLen d)).take (recExtent c.brec * recStep c.brec - o))
        s.versionFull bk (s.writeLines p.ctx [w]) = false → s.deliver p .write w.1 w.2 = .ok t → moved t) ∧
      (cpDir d = 2 → moved (s.cpPut bk d n (s.cpRow (s.cpSource bk d) (n * cpMemPitch d) (cpLen d)))))) ∧
  (∀ (s : State) (bk a status : Nat) (rel : Bool) (sc : Scope) (b : Bank) (off : Nat), s.sram bk a 8 = .ok b off →
    Map.find s.blocks bk ≠ none →
    (s.complete bk a status rel sc).sramRead b (off + 4) 4 = status % 2 ^ 32 ∧
    (s.complete bk a status rel sc).sramRead b off 4 = arriveWord (s.sramRead b off 4) 1 % 2 ^ 32)

/-- R209, R217, R232, R234, R247, R252, R289, R310, R365, R369, R374, R379, R380, R429: the marcher starts a command, ends
its rays and completes it; collectives take contributions and ring pieces and end; segments finish their moves; the rasteriser
takes primitives in order. The model's choices in it: an event that is not due leaves the state (log entry 14), a segment stays
where it was until its room is there (log entry 42), when a command's ACQ and REL meet its accesses (log entry 46), the
numbering and the messages of collectives (log entry 50), and one step for a primitive or a ray (log entry 81). -/
def Obligations.MarchRenderAndMoveEvents : Prop :=
  (∀ (s : State) (b0 b i : Nat) (c : Cmd), let k := s.block b
    let core := blockCore b0
    (s.slotOrder core (s.core core).lastMarch).findSome? (fun j => (s.block j).nextMarch.map fun q => (j, q)) =
      some (b, i, c) →
    s.raysInFlight core + mrCount c.desc ≤ 512 →
    let d := c.desc
    let header := if mrProgLen d < 18 then [] else leBytes 16 (s.sramNat b (mrProg d) 16)
    let record (r : Nat) : Vector Word 8 :=
      Vector.ofFn fun j => BitVec.ofNat 32 (s.sramNat b (mrRays d + 32 * r + 4 * j.val) 4)
    let t := s.setBlock b { k with marchQ := k.marchQ.set i { c with
      started := true
      shape := header
      rays := (List.range (mrCount d)).map fun r =>
        (r, Ray.start (record r) (headerStatus (mrProgLen d) header) (mrMaxit d)) } }
    exec (.marchCommandStart b0) s = .next (t.setCore core { t.core core with lastMarch := b % 32 })) ∧
  (∀ (s : State) (b ray : Nat) (c : Cmd) (x : Ray),
    (s.block b).marchCmd ray = some c → (s.block b).ray ray = some x → x.st = .done → x.written = false →
    c.frozen = false → c.refused = none →
    let a := mrHits c.desc + 16 * rayIndex ray
    let finish (t : State) : State :=
      let u := t.sramPut b a 16 (x.t.toNat + x.status * 2 ^ 32 + x.iter % 2 ^ 32 * 2 ^ 64)
      u.setBlock b ((u.block b).setRay ray { x with written := true })
    (s.hitUpdate b c ray x = none → exec (.marchRayDone b ray) s = .next (finish s)) ∧
    (∀ va new t, s.hitUpdate b c ray x = some (va, new) → (∀ ls, s.versionFull b ls = false) →
      s.visUpdate (s.engine b 2) (msgVis c.depthTest) (visReplaces c.depthTest) va new = .ok t →
      exec (.marchRayDone b ray) s = .next (finish t))) ∧
  (∀ (s : State) (b i : Nat) (c : Cmd),
    doneCmd (s.engineAcked b 2) (s.block b).marchQ marchDone = some (i, c) →
    exec (.marchCompletion b) s = .next
      ((((s.popMarch b i).complete b (mrCompl c.desc) (c.refused.getD 0) c.rel c.scope).runDetaches b).closeBlock b)) ∧
  (∀ (s : State) (i : Nat) (c : Collective), s.collectives[i]? = some c → c.issued = true → c.frozen = false →
    c.blk < savedBlock →
    let gone : State := { s with collectives := s.collectives.eraseIdx i }
    let finished : Prop := c.covered = true ∧ (c.mismatch = true ∨ c.gatheredAll = true)
    (c.refused = none → Map.find c.parts c.rank = none →
      exec (.collCompletion i) s = .next (if c.dest = .none then gone else s.collSource c)) ∧
    (c.refused = none → Map.find c.parts c.rank ≠ none → ¬finished → exec (.collCompletion i) s = .next s) ∧
    (c.refused ≠ none ∨ Map.find c.parts c.rank ≠ none ∧ finished →
      (c.dest = .none → exec (.collCompletion i) s = .next gone) ∧
      (∀ slot d W b64, c.dest = .regs slot d W b64 →
        exec (.collCompletion i) s = .next ((gone.deliverColl c slot d W b64).closeBlock c.blk)) ∧
      (∀ r, c.dest = .mem r →
        let p := s.collParty c.blk
        let ws := if c.status = 0 then collWrites r (clDst c.desc) c.result else []
        let ends (t : State) (u : State) : Prop := exec (.collCompletion i) t = .next
          (if u.engineAcked c.blk 6 = true then
            ((u.dropColl i).complete c.blk (clCompl c.desc) c.status c.rel c.scope).closeBlock c.blk else u)
        (c.wrote = true → ends s s) ∧
        (∀ t, c.wrote = false → s.versionFull c.blk (s.writeLines p.ctx ws) = false → s.deliverAll p ws = .ok t →
          ends s (((t.dropKept p.who).settle p.ctx p.who).setColl c.launch c.grp c.n fun x => { x with wrote := true }))))) ∧
  (∀ (s : State) (dev launch grp n rank d : Nat) (data : List Byte) (l : Launch) (m : List Nat),
    Map.find s.launches launch = some l → l.group grp = some m → m[rank]? = some d →
    let p := collMsg data
    let me := s.mss.domid
    let c := ((s.collIndex launch grp n).bind fun i => s.collectives[i]?).getD (s.collFresh launch grp n)
    let came (t : State) : Prop := exec (.collectiveContribution dev launch grp n rank data) s = .next t
    let next := (m[(m.idxOf me + 1) % m.length]?).getD me
    let sent (t : State) : State :=
      if next = me then t else t.send next msgColl grp (leBytes 4 n ++ p.bytes)
    let passes : Prop := dev = (m[(m.idxOf me + m.length - 1) % m.length]?).getD me ∧ d ≠ me
    (p.phase = 0 → s.collNew c dev d rank p.level = false → came s) ∧
    (p.phase = 0 → s.collNew c dev d rank p.level = true → came (s.setColl launch grp n fun c => { c with
      parts := Map.set (c.parts.filter fun q => !(decide (rank ≤ q.1) && decide (q.1 < rank + 2 ^ p.level))) rank
        ⟨p.sig, p.data, p.level⟩ })) ∧
    (dev = d → d ≠ me → rank ≠ c.rank → partFor c.parts rank = none → s.collNew c dev d rank 0 = true) ∧
    (p.phase = 1 → ¬passes ∨ m.length ≤ p.chunk ∨ p.chunk = c.rank ∧ Map.find c.pieces rank ≠ none → came s) ∧
    (p.phase = 1 → passes → p.chunk < m.length → p.chunk = c.rank → Map.find c.pieces rank = none →
      came ((s.setColl launch grp n fun c => { c with pieces := Map.set c.pieces rank ⟨p.sig, p.data, 0⟩ }).collAdvance
        launch grp n)) ∧
    (p.phase = 1 → passes → p.chunk < m.length → p.chunk ≠ c.rank → came (sent s)) ∧
    (2 ≤ p.phase → ¬passes ∨ Map.find c.gathered rank ≠ none → came s) ∧
    (2 ≤ p.phase → passes → Map.find c.gathered rank = none →
      let t := s.setColl launch grp n fun c => { c with gathered := Map.set c.gathered rank p.data }
      (next = d → came t) ∧ (next ≠ d → next ≠ me → came (t.send next msgColl grp (leBytes 4 n ++ p.bytes))))) ∧
  (∀ (s : State) (k : Nat) (g : Segment), Map.find s.segs k = some g →
    (∀ core, g.st = .cold → g.goal = some (.reload core) → g.waiter = none →
      let others := s.segs.filter fun p => p.1 != k && p.2.claims core
      s.granulesOf core (fun _ => false) + others.foldl (fun n p => n + p.2.size) 0 + g.size ≤ s.capacity core →
      others.length < 16 →
      let h := { g with st := .moving, loc := core, loading := true }
      let t := s.setSeg k h
      ∀ u, t.fetch (segParty k h) g.backing (4096 * g.size) = .wait u → exec (.segmentReloadEnd k) s = .next u) ∧
    (g.st = .moving →
    (∀ t, g.loading = false → s.deliver (segParty k g) .write g.backing (g.bytes.bytes 0 (4096 * g.size)) = .ok t →
      let u := (t.segSettled k g.ctx).order g.loc false true false .chip (2 ^ 57 + 4 * k) 4 true
      (g.goal = some .evict ∨ (∃ j, g.goal = some (.evictFor j)) → exec (.segmentWritebackEnd k) s =
        .next (u.setSeg k { g with st := .cold, bytes := [], goal := none, loading := false })) ∧
      (∀ core, g.goal = some (.reload core) → exec (.segmentWritebackEnd k) s =
        .next (u.setSeg k { g with st := .cold, bytes := [], loading := true })) ∧
      (g.goal = some .free → g.waiter = none → exec (.segmentWritebackEnd k) s =
        .next { u with segs := Map.erase u.segs k })) ∧
    (∀ bs, g.loading = true → s.fetch (segParty k g) g.backing (4096 * g.size) = .ok bs → g.waiter = none →
      let u := (s.segSettled k g.ctx).order g.loc true false false .chip (2 ^ 57 + 4 * k) 4 false
      exec (.segmentReloadEnd k) s = .next (u.setSeg k { g with
        st := .resident, bytes := Mem.putBytes [] 0 bs, goal := none, loading := false, waiter := none, idleSince := u.clk })))) ∧
  (∀ (s : State) (q : Nat) (l : Launch) (x : Prim) (t : State),
    ((s.queueLaunches q).findSome? fun p => (s.nextPrim p.1).map fun x => (p.2, x)) = some (l, x) →
    s.isFrozen (.queue q) = false → s.maxUpdates (s.gscParty l) (s.primUpdates l x) = .ok t →
    exec (.rasterisePrimitive q) s = .next { t with prims := t.prims.erase x }) ∧
  (∀ (s : State) (dev blk n : Nat) (prim : List Byte) (p : Nat × Launch), s.geometryLaunch dev = some p →
    (p.2.devlost = true → exec (.primitiveForward dev prim) s = .next s) ∧
    (p.2.devlost = false → exec (.primitiveForward dev prim) s = .next { s with prims := s.prims ++ [bytesPrim p.1 dev prim] }) ∧
    exec (.blockEndMark dev blk n) s = .next { s with marks := s.marks ++ [(p.1, dev, blk, n)] }) ∧
  (∀ (s : State) (dev blk n : Nat) (prim : List Byte), s.geometryLaunch dev = none →
    exec (.primitiveForward dev prim) s = .next { s with early := s.early ++ [.prim dev prim] } ∧
    exec (.blockEndMark dev blk n) s = .next { s with early := s.early ++ [.mark dev blk n] })

/-- R403, R413, R415, R416, R418, R420, R431, R432: a host function reads, writes and modifies device memory through BAR2,
unless its frames are protected or it is frozen, and writes registers. The model's choices in it: a write that is held has no
effect yet (log entry 69), what a REGISTER_WRITE changes (log entry 64), the size of BAR2 by BAR number 6 (log entry 98), which
BARs serve in which stage (log entry 100), and the writer of the other rows (log entry 97). -/
def Obligations.HostAccesses : Prop :=
  (∀ (s : State) (fn addr n : Nat), fn ≠ 0 ∨ s.mss.stage = 0 → exec (.hostRead fn addr n) s = .next s ∧
    (∀ data, exec (.hostWrite fn addr data) s = .next s) ∧
    ∀ op v cmp, exec (.hostAtomicop fn addr op n v cmp) s = .next s) ∧
  (∀ (s : State) (fn addr n : Nat), let a := s.mss.wbase / 2 ^ s.mss.bar2 * 2 ^ s.mss.bar2 + addr
    fn = 0 → s.mss.stage ≠ 0 → addr + n ≤ 2 ^ s.mss.bar2 → s.framesBusy a n = false →
    (s.isFrozen (.function fn) = true → exec (.hostRead fn addr n) s =
      .next { s with completions := s.completions ++ [(fn, none)] }) ∧
    (s.isFrozen (.function fn) = false → ∃ bs : List Byte, bs.length = n ∧
      exec (.hostRead fn addr n) s = .next { s with completions := s.completions ++ [(fn, some bs)] } ∧
      ∀ i, i < n → bs[i]? = some (if a + i < deviceEnd ∧ s.frameDiscarded ((a + i) / 2 ^ 16) = none then
        s.mem.byte (a + i) else 0))) ∧
  (∀ (s : State) (fn addr : Nat) (data : List Byte), let a := s.windowed addr
    fn = 0 → s.mss.stage ≠ 0 → addr + data.length ≤ 2 ^ s.mss.bar2 → s.framesBusy a data.length = false →
    s.postedHeld fn = false →
    (s.isFrozen (.function fn) = true → exec (.hostWrite fn addr data) s = .next s) ∧
    (s.isFrozen (.function fn) = false → (framesOf a data.length).any s.protected = true →
      exec (.hostWrite fn addr data) s = .next (s.freeze (.function fn))) ∧
    (s.isFrozen (.function fn) = false → (framesOf a data.length).any s.protected = false →
      (∀ f ∈ framesOf a data.length, s.frameDiscarded f = none) → ∃ m : Mem,
      exec (.hostWrite fn addr data) s = .next { s with mem := m } ∧
      ∀ x, m.byte x = if a ≤ x ∧ x < a + data.length ∧ x < deviceEnd then (data[x - a]?).getD 0 else s.mem.byte x)) ∧
  (∀ (s : State) (fn addr op w v cmp : Nat), let a := s.windowed addr
    fn = 0 → s.mss.stage ≠ 0 → addr + w ≤ 2 ^ s.mss.bar2 → w = 4 ∨ w = 8 → a % w = 0 → op ≤ 2 → s.framesBusy a w = false →
    (s.isFrozen (.function fn) = true → exec (.hostAtomicop fn addr op w v cmp) s = .next (s.reply fn none)) ∧
    (s.isFrozen (.function fn) = false → (framesOf a w).any s.protected = true →
      exec (.hostAtomicop fn addr op w v cmp) s = .next ((s.freeze (.function fn)).reply fn none)) ∧
    (s.isFrozen (.function fn) = false → (framesOf a w).any s.protected = false →
      let old := leNat ((List.range w).map fun i => s.hostByte (a + i))
      let new := if op = 0 then (old + v) % 2 ^ (8 * w) else if op = 1 then v % 2 ^ (8 * w)
        else if old = cmp % 2 ^ (8 * w) then v % 2 ^ (8 * w) else old
      exec (.hostAtomicop fn addr op w v cmp) s = .next ((s.hostPut a (leBytes w new)).reply fn (some (leBytes w old))))) ∧
  (∀ (s : State) (fn : Nat), (∃ p ∈ s.ctxs, ∃ h ∈ p.2.invHeld, h.1 = fn) →
    (∀ (addr : Nat) (data : List Byte), exec (.hostWrite fn addr data) s = .next s) ∧
    (∀ bar off size v, bar ≠ 6 → exec (.registerWrite fn bar off size v) s = .next s)) ∧
  (∀ (s : State) (fn bar off size v : Nat), s.mss.stage = 0 ∧ bar ≠ 6 ∨ s.mss.stage = 7 ∧ (bar = 0 ∨ bar ≠ 6 ∧ 0x1000 ≤ off / 8 * 8) →
    exec (.registerWrite fn bar off size v) s = .next s) ∧
  (∀ (s : State) (off size v : Nat), exec (.registerWrite 0 6 off size v) s =
    .next { s with mss := { s.mss with bar2 := if 10 ≤ v ∧ v ≤ 18 then 20 + v else s.mss.bar2 } }) ∧
  (∀ (s : State) (fn off size v : Nat), fn < 64 → size = 1 ∨ size = 2 ∨ size = 4 ∨ size = 8 → off % 8 + size ≤ 8 →
    s.postedHeld fn = false → s.mss.stage ≠ 0 →
    let word := off / 8 * 8
    let wrote (bar : Nat) (t : State) : Prop := exec (.registerWrite fn bar off size v) s = .next t
    let ones := v % 2 ^ (8 * size) * 2 ^ (8 * (off % 8))
    let x (bar : Nat) := written (s.regWord fn bar word) ones ((2 ^ (8 * size) - 1) * 2 ^ (8 * (off % 8)))
    (fn = 0 → s.mss.stage ≠ 7 ∨ word < 0x1000 → wrote 4 { s with mss := s.mss.put word (x 4) ones }) ∧ (fn ≠ 0 → wrote 4 s) ∧
    (s.mss.stage ≠ 7 →
    (∀ q, word / 0x40 = 0x4000 + q → q < 1024 →
      (s.queueSeen fn q = true → wrote 0 (s.setQueue q ((s.queue q).put (s.ctxSeen fn (bitsOf (x 0) 23 12)) (word % 0x40)
        (x 0)))) ∧
      (s.queueSeen fn q = false → wrote 0 s)) ∧
    (∀ q, word = 0x180000 + 8 * q → q < 1024 → s.queueSeen fn q = true →
      wrote 0 (s.setQueue q { s.queue q with tdesc := bitsOf (x 0) 56 6 * 2 ^ 6 })) ∧
    (∀ q, word = 0x1C0018 + 0x40 * q → q < 1024 → s.queueSeen fn q = true → bitOf ones 63 = true →
      wrote 0 (s.setQueue q { s.queue q with fstat := (s.queue q).fstat &&& 0x7FFFFFFF })) ∧
    (∀ c, word / 0x80 = 0x4000 + c → c < 4096 → s.ctxSeen fn c = true →
      wrote 0 (s.setCtx c ((s.ctx c).put (fn == 0) (word % 0x80) (x 0))))))

/-- R381, R422 to R427, R430, R433, R437, R441: the states of a port, its flits, and the accesses of other devices. The model's
choices in it: the peer and the lanes that training finds (log entry 7), an event that is not due leaves the state (log entry
14), a remote access to a pinned frame (log entry 34), a port that software disables, the report of a discard and one resending
as one replay (log entry 99), and that the fabric registers do not answer in RECOVERY (log entry 100). -/
def Obligations.FabricEvents : Prop :=
  (∀ (s : State) (p : Nat), p < portCount →
    let x := s.port p
    let flits := min x.replay.length 2048
    let late := x.resent.filter fun q => decide (s.clk < q.1 + 1500000)
    let sent := { x with
      replays := min (x.replays + flits) 0xFFFFFFFF, resent := late ++ [(s.clk, flits)], timer := s.clk }
    let took (d : Nat) : Bool := Map.find s.paths d == some p
    let lost (y : Port) (f : State → State) : State :=
      let t := (f (s.setPort p y)).failAll ((f (s.setPort p y)).ext.filter fun r => r.data.isNone && r.dev.any took)
      ((t.collectives.filter fun c => t.collWants c took).foldl State.collKill t).cutPaths
    let trains (y : Port) : Port :=
      { y with st := .retrain, retrains := min (y.retrains + 1) 0xFFFF, down := s.clk, resent := [] }
    (exec (.signalDetected p) s = .next (if x.st = .down then s.setPort p { x with st := .train, since := s.clk } else s)) ∧
    (exec (.trainTimeout p) s = .next (if x.st = .train ∧ x.since + 150000000 ≤ s.clk then
      s.setPort p { x with st := .down, lanes := 0 } else s)) ∧
    (exec (.retrainTrigger p) s = .next (if x.st = .up then s.setPort p (trains x) else s)) ∧
    (x.st ≠ .up ∨ s.clk < x.timer + 3000 → exec (.ackTimeout p) s = .next s) ∧
    (x.st = .up → x.timer + 3000 ≤ s.clk → exec (.ackTimeout p) s = .next (s.setPort p (if flits = 0 then x
      else if 64 ≤ late.length then trains sent else sent))) ∧
    (s.mss.stage ≠ 0 → s.mss.stage ≠ 7 → exec (.portDisable p) s = .next (lost { x with
      st := .disabled, dis := true, lanes := 0, down := if x.st = .up then s.clk else x.down } id)) ∧
    (s.mss.stage = 0 ∨ s.mss.stage = 7 → exec (.portDisable p) s = .next s ∧ exec (.portEnable p) s = .next s) ∧
    (s.mss.stage ≠ 0 → s.mss.stage ≠ 7 → x.dis = true → exec (.portEnable p) s = .next (s.setPort p { x with
      dis := false, st := if s.mss.configured = true ∧ x.st = .disabled then .down else x.st })) ∧
    (x.st = .train ∧ s.clk < x.since + 150000000 ∨ x.st = .dead → ∃ y : Port,
      exec (.trainingSuccess p) s = .next ({ s with draws := s.draws + 1 }.setPort p y).postAll ∧ y.st = .up ∧ y.peer < 2 ^ 14 ∧
      (y.lanes = 1 ∨ y.lanes = 2) ∧ y = { x with
        st := .up, timer := s.clk, peer := y.peer, lanes := y.lanes, lost := false, rxSeq := 0, txSeq := 0, replay := [], resent := [] }) ∧
    (x.st = .retrain → s.clk < x.down + 75000000 → ∃ n,
      exec (.trainingSuccess p) s = .next ({ s with draws := s.draws + 1 }.setPort p { x with
        st := .up, timer := s.clk, lanes := n, lost := false, replays := min (x.replays + flits) 0xFFFFFFFF }).postAll) ∧
    (x.st ≠ .retrain ∨ s.clk < x.down + 75000000 → exec (.retrainTimeout p) s = .next s) ∧
    (x.st = .retrain → x.down + 75000000 ≤ s.clk → exec (.retrainTimeout p) s =
      .next (lost { x with st := .dead, lanes := 0 } fun t => t.logEvent 6 p 0 x.peer)) ∧
    (x.st = .up ∨ s.clk < x.down + 75000000 → exec (.linkDownLimit p) s = .next s) ∧
    (x.st ≠ .up → x.down + 75000000 ≤ s.clk → ∃ t, exec (.linkDownLimit p) s = .next t ∧
      t = { s with ports := t.ports, launches := t.launches, prims := t.prims } ∧ t.port p = { x with lost := true } ∧
      (∀ q ∈ s.launches, (s.setPort p { x with lost := true }).waitsOnPort p q.1 q.2 = true → (q.1, { q.2 with devlost := true }) ∈ t.launches ∧
        ∀ r ∈ t.prims, r.launch ≠ q.1))) ∧
  (∀ (s : State) (p : Nat) (flit : List Byte), let x := s.port p
    let h := leNat (flit.take 4)
    p < portCount → x.st = .up → flit.length = 256 → leNat (flit.drop 248) = (Config.crc64 (flit.take 248)).toNat →
    h % 4096 = x.rxSeq → h / 2 ^ 28 = 0 → h / 2 ^ 24 % 16 < 2 →
    exec (.flitReceive p flit) s = .next (s.setPort p { x with
      rxSeq := (x.rxSeq + 1) % 4096
      replay := ackFlits (h / 2 ^ 12 % 4096) x.replay
      timer := if (ackFlits (h / 2 ^ 12 % 4096) x.replay).length < x.replay.length then s.clk else x.timer
      inbox := if h / 2 ^ 24 % 16 = 1 then x.inbox ++ [(flit.drop 4).take 244] else x.inbox })) ∧
  (∀ (s : State) (p : Nat) (flit : List Byte), let x := s.port p
    let h := leNat (flit.take 4)
    p < portCount → (x.st ≠ .up → exec (.flitReceive p flit) s = .next s) ∧
    (x.st = .up → (leNat (flit.drop 248) ≠ (Config.crc64 (flit.take 248)).toNat ∨ h % 4096 ≠ x.rxSeq) → flit.length = 256 →
      ∃ payload : List Byte, payload.length = 244 ∧ exec (.flitReceive p flit) s = .next (s.setPort p { x with
        txSeq := (x.txSeq + 1) % 4096
        timer := if x.replay = [] then s.clk else x.timer
        replay := x.replay ++ [(x.txSeq, flitOf x.txSeq (x.rxSeq + 4095) 2 payload)] }))) ∧
  (∀ (s : State) (dev kind addr : Nat) (data : List Byte), let n := messageBytes kind data
    (s.mss.stage = 7 → exec (.remoteAccess dev kind addr data) s = .next s) ∧
    (n ≠ 0 → dev ≠ s.mss.domid → s.mss.stage ≠ 7 →
    (s.mss.explim * 2 ^ 16 < addr + n ∨ deviceEnd < addr + n →
      exec (.remoteAccess dev kind addr data) s = .next ((s.logEvent 7 dev 0 addr).send dev msgRefused addr [])) ∧
    (addr + n ≤ s.mss.explim * 2 ^ 16 → addr + n ≤ deviceEnd →
      (∀ i, i < n → (s.frame ((addr + i) / 2 ^ 16)).pin = none) →
      let old := (List.range n).map fun i => s.mem.byte (addr + i)
      let v := { s with draws := s.draws + 1 }
      (kind = msgRead → exec (.remoteAccess dev kind addr data) s = .next (v.send dev msgReply addr old)) ∧
      (kind = msgWrite → ∃ m : Mem,
        exec (.remoteAccess dev kind addr data) s = .next ({ v with mem := m }.send dev msgReply addr []) ∧
        ∀ x, m.byte x = if addr ≤ x ∧ x < addr + n then (data[x - addr]?).getD 0 else s.mem.byte x) ∧
      (∀ op, 64 ≤ kind → kind < 256 → atomOfCode (kind % 16) = op → ∃ m : Mem,
        exec (.remoteAccess dev kind addr data) s = .next ({ v with mem := m }.send dev msgReply addr old) ∧
        m.read addr n = atomNew op (8 * n) (leNat old) (leNat (data.take n)) (leNat ((data.drop n).take n)) % 256 ^ n ∧
        ∀ x, x < addr ∨ addr + n ≤ x → m.byte x = s.mem.byte x))))

/-- R404, R431 to R442: power requests, tokens, firmware commands, attestation, fatal errors, resets and bring-up. The model's
choices in it: keys, digests and images (log entry 5), what the firmware lays out in a dump (log entry 6), an event that is not
due leaves the state (log entry 14), when a command's result is computed and what an ACTIVATE keeps (log entry 73), the form
checks of images and records (log entries 74, 75), when a power state is reached (log entry 76), a fatal error in stages 0 and
6 and bytes beyond device memory (log entry 77), what a reset keeps (log entry 82), held writes of function 0 (log entry 69)
and what serves in each stage (log entry 100). -/
def Obligations.ManagementEvents : Prop :=
  (∀ s : State, let m := s.mss
    exec .powerLimitExceeded s = .next { s with mss := { m with throttled := true } } ∧
    exec .powerLimitCleared s = .next { s with mss := { m with throttled := false } } ∧
    (m.stage ≠ 0 → m.stage ≠ 6 → m.stage ≠ 7 → m.dump = none → s.postedHeld 0 = false →
      (m.busy ≠ none →
        exec .preqActive s = .next { s with mss := { m with preq := 0, preqWaits := some 0 } } ∧
        exec .preqQuiesce s = .next { s with mss := { m with preq := 1, preqWaits := some 1 } } ∧
        exec .preqStandby s = .next { s with mss := { m with preq := 2, preqWaits := some 2 } }) ∧
      (m.busy = none →
        let reached (p n : Nat) (h : Bool) : State :=
          { s with mss := { m with preq := p, goal := n, pstate := n, asleep := decide (n = 2), held := h } }.logEvent 10 0 n 0
        (m.pstate ≠ 0 → exec .preqActive s = .next (reached 0 0 false)) ∧
        (m.pstate = 0 → exec .preqActive s = .next { s with mss := { m with preq := 0, goal := 0, held := false } }) ∧
        (m.pstate ≠ 1 → exec .preqQuiesce s = .next (reached 1 1 m.held)) ∧
        (m.pstate = 1 → exec .preqQuiesce s = .next { s with mss := { m with preq := 1, goal := 1 } }) ∧
        (m.pstate ≠ 2 → exec .preqStandby s = .next
          (s.blocks.foldl (fun t p => t.requestSave 3 p.1) { s with mss := { m with preq := 2, goal := 2, held := true } })) ∧
        (m.pstate = 2 → exec .preqStandby s = .next { s with mss := { m with preq := 2 } }))) ∧
    (m.stage = 0 ∨ m.stage = 6 ∨ m.stage = 7 ∨ m.dump ≠ none ∨ s.postedHeld 0 = true →
      exec .preqActive s = .next s ∧ exec .preqQuiesce s = .next s ∧ exec .preqStandby s = .next s) ∧
    (m.stage = 6 ∨ m.stage = 7 → exec .standbyPowerDown s = .next s) ∧
    (m.stage ≠ 6 → m.stage ≠ 7 → m.goal = 2 → m.pstate ≠ 2 → s.blocks = [] → exec .standbyPowerDown s =
      .next ({ s with mss := { m with pstate := 2, asleep := true } }.logEvent 10 0 2 0)) ∧
    (∀ k, (∀ x, m.stage ≠ 0 → s.postedHeld 0 = false → Map.find m.frozen k = some x → exec (.go k) s = .next (s.thaw k x)) ∧
      (m.stage = 0 ∨ s.postedHeld 0 = true ∨ Map.find m.frozen k = none → exec (.go k) s = .next s)) ∧
    (m.stage = 0 ∨ s.postedHeld 0 = true →
      exec .stage s = .next s ∧ exec .abort s = .next s ∧ exec .activate s = .next s ∧ exec .attgo s = .next s) ∧
    (m.stage ≠ 0 → s.postedHeld 0 = false → m.busy = none →
      (let img := memBlob s.mem m.actaddr
       exec .stage s = .next { s with mss := { m with
         busy := some .stage, pendingRes := img.verify m.svn m.revoked
         staged := if img.verify m.svn m.revoked = 0 then some (img.bytes 0 img.length) else m.staged } }) ∧
      exec .abort s = .next { s with mss := { m with busy := some .abort, pendingRes := 0, staged := none } } ∧
      (m.staged = none → exec .activate s = .next { s with mss := { m with busy := some .activate, pendingRes := 5 } }) ∧
      (∀ img, m.staged = some img → m.stage ≠ 7 →
        exec .activate s = .next { s with mss := { m with busy := some .activate, paused := true } })) ∧
    (∀ img, m.staged = some img → m.busy = some .activate → m.paused = true →
      (∀ p ∈ s.blocks, p.2.saving = false ∧ p.2.phase ≠ .restoring) →
      (s.layoutBars img = true → ∀ ok, exec (.activateTakeover ok) s =
        .next { s with mss := { m with paused := false, pendingRes := 6 } }) ∧
      (s.layoutBars img = false → exec (.activateTakeover false) s =
        .next { s with mss := { m with paused := false, pendingRes := 7 } }) ∧
      (s.layoutBars img = false → exec (.activateTakeover true) s = .next { s with mss := { m with
        paused := false, pendingRes := 0, fwrev := (listBlob img).num 4 1
        laylo := bitsOf ((listBlob img).num 5 1) 3 0, layhi := bitsOf ((listBlob img).num 5 1) 7 4
        bodyHash := (listBlob img).bytes 0x10 32
        flash := if m.current = 0 then (m.flash.1, .written img) else (.written img, m.flash.2) } })) ∧
    (m.busy ≠ none → m.paused = false → m.preqWaits = none ∨ m.stage = 6 ∨ m.stage = 7 ∨ m.dump ≠ none →
      exec .firmwareCommandEnd s = .next ({ s with mss := { m with
        busy := none, res := m.pendingRes, preqWaits := none
        current := if m.busy = some FwCmd.activate ∧ m.pendingRes = 0 then 1 - m.current else m.current } }.logEvent 11 0
          m.pendingRes m.fwrev)) ∧
    (m.stage ≠ 0 → s.postedHeld 0 = false → exec .attgo s = .next { s with mss := { m with attbusy := true } }) ∧
    (m.attbusy = true → exec .attestationReportWritten s = .next { s with
      mem := s.mem.putBytes m.attaddr (m.report.take (deviceEnd - m.attaddr)), mss := { m with attbusy := false } }) ∧
    (exec .gscUncorrectableError s = .next (s.fatal 1) ∧ exec .mssWatchdog s = .next (s.fatal 4) ∧
      (∀ cl, cl < 48 → exec (.commandLinkLoss cl) s =
        .next ((s.setCluster cl { s.cluster cl with linkUp := false }).fatal 2)) ∧
      ∀ core temp, core < 192 → (16 * m.tcrit : Int) ≤ (BitVec.ofNat 16 temp).toInt → m.tcrit < 256 →
        exec (.tcritReached core temp) s = .next ((s.sense core temp).fatal 3)) ∧
    (∀ cause, let finished : Prop := (s.fatal cause).mss.stage = 6 ∧ (s.fatal cause).mss.dumpv = true ∧ (s.fatal cause).mss.dump = none
      (m.stage = 0 ∨ m.stage = 6 → s.fatal cause = s) ∧
      (m.stage ≠ 0 → m.stage ≠ 6 →
        (m.dump ≠ none → finished) ∧
        (m.dump = none → let t := s.stopAll
          (t.mss.dmib = 0 → finished) ∧
          (t.mss.dmib ≠ 0 → ∀ a, (s.fatal cause).mss = { t.mss with
              goal := t.mss.pstate, preqWaits := none, dump := some ⟨cause, t.clk, 0, 64⟩ } ∧
            (a < t.mss.dbase ∨ t.mss.dbase + 64 ≤ a → (s.fatal cause).mem.byte a = t.mem.byte a))))) ∧
    (∀ d, m.dump = some d → d.size ≤ m.dmib * 2 ^ 20 →
      let t := s.dumpOn
      (s.dumpSection d.next = none → t.mss.stage = 6 ∧ t.mss.dumpv = true ∧ t.mss.dump = none) ∧
      (∀ bs, s.dumpSection d.next = some bs →
        (m.dmib * 2 ^ 20 < d.size + bs.length → t.mss.stage = 6 ∧ t.mss.dumpv = true ∧ t.mss.dump = none) ∧
        (d.size + bs.length ≤ m.dmib * 2 ^ 20 →
          t.mss = { m with dump := some { d with next := d.next + 1, size := d.size + bs.length } }))) ∧
    (m.dump = none → s.dumpOn = s) ∧
    (let r := { State.reset with
       agenda := s.agenda, draws := s.draws, hostMem := s.hostMem
       mss := { Mss.reset with
         svn := m.svn, revoked := m.revoked, flash := m.flash, current := m.current, serial := m.serial } }
     exec .powerLoss s = .next r ∧ ∀ k, k < 3 → exec (.reset k) s = .next r) ∧
    (m.stage = 0 → exec .bringupRom s = .next { s with clk := 0, mss := { m with stage := 1 } }) ∧
    (m.stage = 1 →
      let good (k : Nat) : Prop := (m.bank k).verify m.svn m.revoked = 0
      let runs (k : Nat) (n : Mss) : State := { s with mss := { n with
        stage := 2, fwrev := (m.bank k).num 4 1, bodyHash := (m.bank k).bytes 0x10 32
        laylo := bitsOf ((m.bank k).num 5 1) 3 0, layhi := bitsOf ((m.bank k).num 5 1) 7 4 } }
      (good m.current → exec .bringupRom s = .next (runs m.current m)) ∧
      (¬good m.current → good (1 - m.current) →
        exec .bringupRom s = .next (runs (1 - m.current) { m with current := 1 - m.current })) ∧
      (¬good m.current → ¬good (1 - m.current) →
        exec .bringupRom s = .next { s with mss := { m with stage := 7 } })) ∧
    (m.stage = 2 → ∃ t, exec .bringupTest s = .next t ∧ t.mss.stage = 3) ∧
    (m.stage = 3 →
      let b : Blob := Config.configRecord
      (b.recordGood m.revoked m.serial = true → exec .bringupConfig s = .next ({ s with mss := { m with
        stage := 4, configured := true, serial := b.num 0x04 4, domValid := true, domid := b.num 0x08 2, ndev := b.num 0x0A 2
        topo := b.num 0x0C 1, tmig := b.num 0x0D 1, tcrit := b.num 0x0E 1, plim := b.num 0x10 2, dbase := b.num 0x18 8
        dmib := b.num 0x20 2, explim := 0 } }.logEvent 12 0 0 (b.num 0x04 4))) ∧
      (b.recordGood m.revoked m.serial = false → ∃ t, exec .bringupConfig s = .next t ∧ t.mss.stage = 4 ∧
        t.mss.configured = false ∧ t.mss.explim = 0 ∧ ∀ p, p < portCount → (t.port p).st = .disabled)) ∧
    (m.stage = 4 →
      (m.configured = false → exec .bringupFabric s = .next { s with mss := { m with stage := 5 } }) ∧
      (m.configured = true → ∃ t, exec .bringupFabric s = .next t ∧ t = { s with mss := { m with stage := 5 }, ports := t.ports } ∧
        ∀ p, t.port p = if p < portCount ∧ (s.port p).st = .disabled ∧ (s.port p).dis = false then
          { s.port p with st := .down } else s.port p)))

/-- R17, R20, R21, R91, R92, R121: the storage that a result leaves: U and A results of the add, low-product, shift-left and move
classes, recovery, lazy expansion, the want of a compact-file entry, and EXPAND, which stays G. -/
def Obligations.ResultShapes : Prop :=
  ∀ (s : State) (g : Guard) (d : Nat), let W := s.wset g
  (∀ (a b : Src), let us := a.uses 1 ++ b.uses 1
    Ready s W (a.scalar || b.scalar) us [d] →
    let x := s.me.src a
    let y := s.me.src b
    let w := s.me.free (s.frees us [d])
    let room := s.compactFree s.cur.slot (w.setVreg d ⟨.n, (w.vreg d).pend⟩)
    let leaves (i : Instr) (p : Storage → Prop) : Prop := ∃ t, exec i s = .next t ∧ p (t.me.vreg d).st
    (W = 0 → leaves (.iadd g d a b) fun st => st = (s.me.vreg d).st) ∧
    (W ≠ 0 → W ≠ s.me.live → leaves (.iadd g d a b) fun st => st.tag = 3) ∧
    (W ≠ 0 → W = s.me.live →
      (∀ p q, x.affine = some p → y.affine = some q →
        (room = true →
          leaves (.iadd g d a b) (fun st => st = Storage.ofAffine (p.1 + q.1) (p.2 + q.2)) ∧
          leaves (.isub g d a b) (fun st => st = Storage.ofAffine (p.1 - q.1) (p.2 - q.2)) ∧
          (y.isU = true → leaves (.imul g d a b) fun st => st = Storage.ofAffine (p.1 * q.1) (p.2 * q.1)) ∧
          (x.isU = true → leaves (.imul g d a b) fun st => st = Storage.ofAffine (p.1 * q.1) (p.1 * q.2)) ∧
          (y.isU = true →
            leaves (.shl g d a b) fun st => st = Storage.ofAffine (p.1 <<< q.1.toNat) (p.2 <<< q.1.toNat)) ∧
          (x.isU = true → y.isU = true → leaves (.and g d a b) fun st => st = .u (p.1 &&& q.1))) ∧
        (room = false → leaves (.iadd g d a b) fun st => st = .g (Lanes.of fun l => x.lane l + y.lane l))) ∧
      (x.affine = none ∨ y.affine = none →
        let v := Lanes.of fun l => x.lane l + y.lane l
        (room = true → leaves (.iadd g d a b) fun st => st = if W = LaneMask.all then recover v else .g v)))) ∧
  (∀ a : VSrc, Ready s W false (a.uses 1) [d] → W ≠ 0 → W = s.me.live →
    ∃ t, exec (.expand g d a) s = .next t ∧ (t.me.vreg d).st = .g (s.me.vreg a.n).st.lanes) ∧
  ∀ v : Lanes, (∀ l : Fin 32, (recover v).lane l = v[l]) ∧
    ((recover v).tag = 3 ↔ ¬∃ k : Word, ∀ l : Fin 32, v[l] = v[(0 : Fin 32)] + BitVec.ofNat 32 l.val * k)

/-- R389, R390, R391, R393: a killed block leaves its core with its warps; it is offered again while its attempts number
fewer than RETRY + 1, its launch has IDEM or VERS and the kill was not by REPLAY or by its context's end; else it has failed,
and the first of a packet to fail writes the queue's fault record. -/
def Obligations.KilledBlocks : Prop :=
  ∀ (s : State) (bk : Nat) (b : Block) (k : Killing), Map.find s.blocks bk = some b → (b.phase ≠ .ended ∨ b.flushed = false) →
    bk < 32 * 192 →
    let l := s.launch b.launch
    l.nbhd = false → l.proof = false →
    let t := s.kill bk k
    let l' := t.launch b.launch
    let again := (l.idem = true ∨ l.vers = true) ∧ k.code ≠ 0x16 ∧ k.code ≠ 0 ∧ b.attempt < l.retry + 1
    Map.find t.blocks bk = none ∧ (∀ p ∈ t.warps, p.2.blk ≠ bk) ∧ t.mem = s.mem ∧ t.hostMem = s.hostMem ∧
    (∀ j, j ≠ bk → Map.find t.blocks j = Map.find s.blocks j) ∧
    (again → l' = { l with relaunch := l.relaunch ++ [(b.n, b.attempt + 1)] } ∧ t.queues = s.queues) ∧
    (¬again → l' = { l with failed := l.failed + 1, done := l.done + 1 } ∧
      (l.failed ≠ 0 → t.queues = s.queues) ∧
      (l.failed = 0 →
        let q := t.queue l.queue
        let cause := q.fcause.toNat
        let stat := q.fstat.toNat
        q = { s.queue l.queue with fseq := l.seq, fblock := b.n, fcause := q.fcause, fepc := k.epc, flmask := k.lmask,
                                   fstat := q.fstat } ∧
        cause / 2 ^ 16 = k.detail % 2 ^ 16 ∧ cause / 2 ^ 13 % 8 = 0 ∧ cause / 2 ^ 8 % 32 = k.lane % 32 ∧
        cause % 256 = k.code % 256 ∧
        (stat / 2 ^ 31 = 1) ∧ (stat / 2 ^ 30 % 2 = 1 ↔ k.nested = true) ∧ (stat / 2 ^ 29 % 2 = 1 ↔ l.child ≠ none) ∧
        stat / 2 ^ 16 % 2 ^ 13 = bk / 32 ∧ stat / 2 ^ 12 % 16 = min (b.attempt - 1) 15 ∧ stat / 2 ^ 5 % 2 ^ 7 = 0 ∧
        stat % 32 = k.warp % 32))

/-- R42, R58, R98, R248, R251, R337, R343: a step lets time pass, the party that the agenda names moves, and what
depended on paths that are gone ends (State.cutPaths, R427, R430): a warp executes what the bytes at its run's PC decode to,
a ray the operation that its program holds there, and an event is the named one. A warp of a proof-mode launch issues only
as the first of its core, from the position of the last step, that can; any other only where no ready warp of its partition is
chosen before it. A word that does not decode raises ILLOP with DETAIL 0, and one that crosses its fetch block FETCHX. The
model's choices in it: which party moves (log entry 1), how much time passes (log entry 3), a party that cannot move leaves the
state (log entries 14, 15), code written while a launch runs (log entry 21), what counts as ready (log entry 32), and the steps
of proof mode (log entry 84). -/
def Obligations.StepRunsDecoded : Prop :=
  (∀ (s : State) (ts : List Turn) (i : Instr), s.agenda = .event i :: ts →
    step s = andThen (exec i { s with agenda := ts }.upToStep) State.cutPaths) ∧
  (∀ (s : State) (ts : List Turn) (slot : Nat) (w : Warp) (run : LaneMask) (pc : BitVec 55) (bs : List Byte),
    s.agenda = .issue slot :: ts →
    let u := { s with agenda := ts }.upToStep
    u.inRotation slot = true → u.candidate slot = some (w, run, pc) → w.firstTrap = none → u.code slot (pcAddr pc) = .ok bs →
    let v := u.fetched slot
    let a := pcAddr pc
    let lk := (u.block w.blk).launch
    let gives (t : State) : Prop :=
      let rivals := (u.warps.filter fun p => p.1 / 8 == slot / 8 && p.1 != slot && u.ready p.1).map Prod.fst
      let h := (t.hasIssued slot lk).passOver rivals
      (u.moved t slot lk = true →
        step s = .next (if u.slowed (slotCore slot) = true then h.pass 1 else h).cutPaths) ∧
      (u.moved t slot lk = false → (u.launch lk).proof = false → step s = .next t.cutPaths) ∧
      (u.moved t slot lk = false → (u.launch lk).proof = true →
        step s = .next (if u.alike t = true then t.lookAgain lk else t).cutPaths)
    (∀ (i : Instr) (rest : List Byte) (t : State), decode bs = .ok (i, rest) → exec i (v.at' slot run a i.size) = .next t →
      gives t) ∧
    (decode bs = .error .crossesBlock → ∃ t, (v.at' slot run a 0).trap 0x02 0 = .next t ∧ gives t) ∧
    (∀ e, decode bs = .error e → e ≠ .crossesBlock → ∃ t, (v.at' slot run a 0).trap 0x01 0 = .next t ∧ gives t)) ∧
  (∀ (s : State) (ts : List Turn) (slot : Nat), s.agenda = .issue slot :: ts →
    let u := { s with agenda := ts }.upToStep
    let lk := (u.block (u.warp slot).blk).launch
    ((u.launch lk).proof = true → (u.inRotation slot = false ↔ u.stepOver lk slot = false ∨
      ∃ p ∈ u.warps, slotCore p.1 = slotCore slot ∧ u.rotated p < u.rotated (slot, u.warp slot) ∧ u.canIssue p.1 = true)) ∧
    ((u.launch lk).proof = false → (u.inRotation slot = false ↔ ∃ p ∈ u.warps, p.1 ≠ slot ∧ p.1 / 8 = slot / 8 ∧
      u.chosenBefore p (slot, u.warp slot) = true ∧ u.ready p.1 = true)) ∧
    (u.inRotation slot = false → step s = .next u.cutPaths)) ∧
  (∀ (s : State) (slot : Nat) (pc : VAddr) (x : Xlat), let p := s.fetcher slot
    (∀ o ∈ s.oldCode, o.launch ≠ (s.block (s.warp slot).blk).launch) → s.walk p.ctx .exec pc.toNat = .ok x → s.waitsOn p.ctx p.who pc.toNat 1 = false → isExternal x.loc = false →
    s.code slot pc = .ok (leBytes (32 - pc.toNat % 32) (s.readAt [] x (32 - pc.toNat % 32)))) ∧
  (∀ (s : State) (ts : List Turn) (bk r : Nat) (c : Cmd) (x : Ray) (e : Eval), s.agenda = .ray bk r :: ts →
    let u := { { s with agenda := ts }.upToStep with ray := (bk, r) }
    u.evaluating = some (c, x, e) → ∀ (i : Instr) (rest : List Byte), decodeField (u.fieldCode c e) = .ok (i, rest) →
    step s = andThen (exec i u) State.cutPaths)

/-- R41, R50 to R57, R248: words written out from the encodings decode to the instructions that they stand for. -/
def Obligations.DecodedWords : Prop :=
  decode [0x91, 0x15, 0x03, 0x08, 0x54, 0x40, 0x03, 0x00, 0x00, 0x00, 0x00, 0x00] =
    .ok (.ffma ⟨1, false⟩ 3 .rn (.v 4 true false) (.v 5 false true) (.v 6 false false), []) ∧
  decode [0x30, 0x70, 0x02, 0x10, 0x30, 0x00, 0x81, 0x00] =
    .ok (.icmp ⟨7, false⟩ 2 .lt (.v 8 false false) (.s 3), []) ∧
  decode [0x06, 0x76, 0x08, 0x08, 0x04, 0x00, 0x00, 0x01, 0x02, 0x00, 0x00, 0x00, 0x10, 0x00, 0x00, 0x00] =
    .ok (.ld ⟨7, false⟩ 8 .b32 .none false .blk 2 (.v 4 true false) 16, []) ∧
  decode [0x85, 0xB2, 0x00, 0x00, 0x00, 0x00, 0x00, 0x00, 0xC0, 0xFF, 0xFF, 0xFF] =
    .ok (.braU ⟨3, true⟩ 0xFFFFFFC0, []) ∧
  decodeField [0x00, 0x20] = .ok (.fbcAdd, []) ∧
  decodeField [0x00, 0x04, 0x00, 0x00, 0x80, 0x3F] = .ok (.fbcConst 0x3F800000, [])

/-- R41, R49 to R57, R248, R249: the encoding of every well-formed instruction, whatever bytes follow it, decodes to it, and
so does that of every well-formed field operation. -/
def Obligations.EncodingsRoundTrip : Prop :=
  ∀ (i : Instr) (rest : List Byte), WellFormed i = true →
    (i.isSimt = true → decode (encode i ++ rest) = .ok (i, rest)) ∧
    (i.isField = true → decodeField (encode i ++ rest) = .ok (i, rest))

/-- Every step keeps device memory and host memory in canonical form (the model's own invariant, log entry 2), and keeps
the lists of blocks and of segments in the rising order of their slots. -/
def Obligations.StepsKeepMemory : Prop :=
  ∀ s t : State, step s = .next t →
    (s.mem.wf = true → s.hostMem.wf = true → t.mem.wf = true ∧ t.hostMem.wf = true) ∧
    (Map.sorted s.blocks = true → Map.sorted s.segs = true → Map.sorted t.blocks = true ∧ Map.sorted t.segs = true)

/-- R36, R297, R320, R362, R393, R413, R424, R431, R441: the machine right after reset, at the values that the manual gives;
device memory lists nothing (log entry 2). -/
def Obligations.ResetState : Prop :=
  let s := State.reset
  let m := s.mss
  s.mem.wf = true ∧ s.hostMem.wf = true ∧ s.warps = [] ∧ s.blocks = [] ∧ s.launches = [] ∧ s.segs = [] ∧ s.saved = [] ∧
  (∀ q, let x := s.queue q
    x.en = false ∧ x.halt = false ∧ x.code = 0 ∧ x.detail = 0 ∧ x.lap = false ∧ x.slot = 0 ∧ x.seq = 0 ∧ x.packets = [] ∧
    x.base = 0 ∧ x.ctx = 0 ∧ x.prio = 0 ∧ x.logsz = 0 ∧ x.tdesc = 0 ∧ x.fseq = 0 ∧ x.fblock = 0 ∧ x.fcause = 0 ∧
    x.fepc = 0 ∧ x.flmask = 0 ∧ x.fstat = 0) ∧
  (∀ c, let x := s.ctx c
    x.root = 0 ∧ x.en = false ∧ x.privch = false ∧ x.fn = 0 ∧ x.pasid = 0 ∧ x.savebase = 0 ∧ x.savemib = 0 ∧ x.frbase = 0 ∧
    x.frlog = 4 ∧ x.frhead = 0 ∧ x.frtail = 0 ∧ x.termd = false ∧ x.migerr = 0 ∧ x.migbusy = false ∧ x.invbusy = false ∧
    x.migva = 0 ∧ x.migpte = 0) ∧
  (∀ p, (s.port p).st = .down ∧ (s.port p).dis = false ∧ (s.port p).retrains = 0 ∧ (s.port p).replays = 0) ∧
  m.stage = 0 ∧ m.pstate = 0 ∧ m.preq = 0 ∧ m.dumpv = false ∧ m.wbase = 0 ∧ m.plim = 2200 ∧ m.tcrit = 105 ∧ m.tmig = 95 ∧
  m.lbase = 0 ∧ m.llog = 8 ∧ m.lost = 0 ∧ m.head = 0 ∧ m.tail = 0 ∧ m.frozen = [] ∧ m.res = 0 ∧ m.busy = none ∧ m.staged = none ∧
  m.attbusy = false ∧ m.dbase = 0 ∧ m.dmib = 0 ∧ m.domValid = false ∧ m.topo = 0 ∧ m.ndev = 0 ∧ m.domid = 0 ∧ m.explim = 0
end

