-- ==== Sys2Proof/Laws/Field.lean ====
section
/-! SUPPORT. What the shared operations of the field bytecode do (R249, R251, R254, R260). -/

namespace Sys2Proof.Machine

/-- An operation of the evaluating ray goes on, when the stack has its operands and room. -/
theorem State.evaluate_runs {s : State} {size reads pops pushes : Nat} {f : Eval → Evaluated} {c : Cmd} {x : Ray}
    {e e' : Eval} (h : s.evaluating = some (c, x, e)) (hr : reads ≤ e.stack.length)
    (hp : pushes = 0 ∨ e.stack.length - pops + pushes ≤ 32) (hf : f e = .to e') :
    s.evaluate size reads pops pushes f = .next (s.setRay { x with eval := some { e' with pc := e.pc + size } }) := by
  have hs : stackFault e reads pops pushes = none := by
    unfold stackFault
    rw [if_neg (by omega)]
    rcases hp with rfl | hp
    · simp
    · simp; omega
  simp only [State.evaluate, h, hs, hf]

/-- An operation of the evaluating ray ends it, when the stack lacks its operands or room (R251). -/
theorem State.evaluate_faults {s : State} {size reads pops pushes : Nat} {f : Eval → Evaluated} {c : Cmd} {x : Ray}
    {e : Eval} (h : s.evaluating = some (c, x, e)) {n : Nat} (hs : stackFault e reads pops pushes = some n) :
    s.evaluate size reads pops pushes f = .next (s.setRay (x.finish n)) := by
  simp only [State.evaluate, h, hs]

/-- Without an evaluating ray nothing happens. -/
theorem State.evaluate_idle {s : State} {size reads pops pushes : Nat} {f : Eval → Evaluated}
    (h : s.evaluating = none) : s.evaluate size reads pops pushes f = .next s := by
  simp only [State.evaluate, h]

/-- A normalised pair is its own normal form (R78). -/
@[simp] theorem Bounds.norm_norm (p : Bounds) : p.norm.norm = p.norm := by
  unfold Bounds.norm
  by_cases h : p.degenerate = true
  · simp only [h, if_true]; decide +kernel
  · simp only [h, Bool.false_eq_true, if_false]

/-- A normalised form is its own normal form (R79). -/
@[simp] theorem Form.norm_norm (f : Form) : f.norm.norm = f.norm := by
  unfold Form.norm
  split
  · decide +kernel
  · rfl

/-- A form that R259 makes is normal. -/
@[simp] theorem Form.exact_norm (c a : Rat) (e : Val) : (Form.exact c a e).norm = Form.exact c a e := by
  simp only [Form.exact, Form.norm_norm]

/-- A form made of a pair is normal. -/
@[simp] theorem Bounds.form_norm (p : Bounds) : p.form.norm = p.form := by
  unfold Bounds.form
  split
  · decide +kernel
  · simp only [Form.norm_norm]

/-- The result of a field operation is on the stack in place of its operands (R249). -/
theorem State.fieldOp_runs {s : State} {imms : Nat} {op : FieldOp} {c : Cmd} {x : Ray} {e : Eval}
    (h : s.evaluating = some (c, x, e)) (hr : op.arity ≤ e.stack.length) (hp : e.stack.length < 32 + op.arity) :
    s.fieldOp imms op = .next (s.setRay { x with eval := some { e with
      pc := e.pc + (2 + 4 * imms)
      stack := op.apply e.mode (e.stack.take op.arity).reverse :: e.stack.drop op.arity } }) := by
  exact State.evaluate_runs (size := opSize imms) (f := fun e => .to { e with
    stack := op.apply e.mode (e.stack.take op.arity).reverse :: e.stack.drop op.arity }) h hr (.inr (by omega)) rfl

end Sys2Proof.Machine
end

