-- ==== Sys2Proof/Laws/Memory.lean ====
section
/-! SUPPORT. Maps and memories: a read after a write, and the canonical form that every operation keeps. -/

namespace Sys2Proof.Machine

/-! ### Maps -/

theorem Map.find_cons {α : Type} (p : Nat × α) (m : List (Nat × α)) (k : Nat) :
    Map.find (p :: m) k = if p.1 = k then some p.2 else Map.find m k := rfl

theorem Map.find_none_of_all {α : Type} (m : List (Nat × α)) (k : Nat) (h : ∀ p ∈ m, p.1 ≠ k) : Map.find m k = none := by
  induction m with
  | nil => rfl
  | cons p m ih =>
    rw [Map.find_cons, if_neg (h p (by simp))]
    exact ih fun q hq => h q (by simp [hq])

theorem Map.find_erase_same {α : Type} (m : List (Nat × α)) (k : Nat) : Map.find (Map.erase m k) k = none :=
  Map.find_none_of_all _ _ fun p hp => by simpa using (List.mem_filter.mp hp).2

theorem Map.find_erase_other {α : Type} (m : List (Nat × α)) (k j : Nat) (h : j ≠ k) :
    Map.find (Map.erase m k) j = Map.find m j := by
  induction m with
  | nil => rfl
  | cons p m ih =>
    unfold Map.erase at *
    by_cases hp : p.1 = k
    · have : p.1 ≠ j := fun e => h (e.symm.trans hp)
      simp [hp, Map.find_cons, ih, show k ≠ j from fun e => h e.symm]
    · simp [hp, Map.find_cons, ih]

theorem Map.find_ins_same {α : Type} (m : List (Nat × α)) (k : Nat) (v : α) (h : ∀ p ∈ m, p.1 ≠ k) :
    Map.find (Map.ins m k v) k = some v := by
  induction m with
  | nil => simp [Map.ins, Map.find]
  | cons p m ih =>
    simp only [Map.ins]
    split
    · simp [Map.find_cons]
    · rw [Map.find_cons, if_neg (h p (by simp))]
      exact ih fun q hq => h q (by simp [hq])

theorem Map.find_ins_other {α : Type} (m : List (Nat × α)) (k j : Nat) (v : α) (h : j ≠ k) :
    Map.find (Map.ins m k v) j = Map.find m j := by
  induction m with
  | nil => simp [Map.ins, Map.find, h.symm]
  | cons p m ih =>
    simp only [Map.ins]
    split
    · rw [Map.find_cons, if_neg (fun e => h e.symm)]
    · rw [Map.find_cons, Map.find_cons, ih]

theorem Map.mem_erase {α : Type} {m : List (Nat × α)} {k : Nat} {p : Nat × α} (h : p ∈ Map.erase m k) : p ∈ m ∧ p.1 ≠ k := by
  have := List.mem_filter.mp h
  exact ⟨this.1, by simpa using this.2⟩

/-- A read of the key just set. -/
@[simp] theorem Map.find_set_same {α : Type} (m : List (Nat × α)) (k : Nat) (v : α) : Map.find (Map.set m k v) k = some v :=
  Map.find_ins_same _ _ _ fun _ hp => (Map.mem_erase hp).2

/-- A read of another key than the one set. -/
theorem Map.find_set_other {α : Type} (m : List (Nat × α)) (k j : Nat) (v : α) (h : j ≠ k) :
    Map.find (Map.set m k v) j = Map.find m j := by
  rw [Map.set, Map.find_ins_other _ _ _ _ h, Map.find_erase_other _ _ _ h]

@[simp] theorem Map.getD_set_same {α : Type} (m : List (Nat × α)) (k : Nat) (v d : α) :
    Map.getD (Map.set m k v) k d = v := by simp [Map.getD]

theorem Map.getD_set_other {α : Type} (m : List (Nat × α)) (k j : Nat) (v d : α) (h : j ≠ k) :
    Map.getD (Map.set m k v) j d = Map.getD m j d := by simp [Map.getD, Map.find_set_other _ _ _ _ h]

@[simp] theorem Map.getD_put_same {α : Type} [DecidableEq α] (m : List (Nat × α)) (k : Nat) (v d : α) :
    Map.getD (Map.put m k v d) k d = v := by
  unfold Map.put
  split
  · rename_i h; simp [Map.getD, Map.find_erase_same, h]
  · simp

theorem Map.getD_put_other {α : Type} [DecidableEq α] (m : List (Nat × α)) (k j : Nat) (v d : α) (h : j ≠ k) :
    Map.getD (Map.put m k v d) j d = Map.getD m j d := by
  unfold Map.put
  split
  · simp [Map.getD, Map.find_erase_other _ _ _ h]
  · exact Map.getD_set_other _ _ _ _ _ h

theorem Map.find_put_other {α : Type} [DecidableEq α] (m : List (Nat × α)) (k j : Nat) (v d : α) (h : j ≠ k) :
    Map.find (Map.put m k v d) j = Map.find m j := by
  unfold Map.put
  split
  · exact Map.find_erase_other _ _ _ h
  · exact Map.find_set_other _ _ _ _ h

/-! ### The canonical form -/

theorem Map.sorted_iff {α : Type} (m : List (Nat × α)) : Map.sorted m = true ↔ m.Pairwise fun p q => p.1 < q.1 := by
  induction m with
  | nil => simp [Map.sorted]
  | cons p m ih =>
    cases m with
    | nil => simp [Map.sorted]
    | cons q m =>
      rw [Map.sorted, Bool.and_eq_true, decide_eq_true_iff, ih, List.pairwise_cons (a := p)]
      constructor
      · rintro ⟨h, hp⟩
        refine ⟨fun r hr => ?_, hp⟩
        rcases List.mem_cons.mp hr with rfl | hr
        · exact h
        · exact Nat.lt_trans h (List.rel_of_pairwise_cons hp hr)
      · rintro ⟨h, hp⟩
        exact ⟨h q (by simp), hp⟩

theorem Map.mem_ins {α : Type} {m : List (Nat × α)} {k : Nat} {v : α} {p : Nat × α} :
    p ∈ Map.ins m k v ↔ p = (k, v) ∨ p ∈ m := by
  induction m with
  | nil => simp [Map.ins]
  | cons q m ih =>
    simp only [Map.ins]
    split
    · simp
    · simp only [List.mem_cons, ih]; tauto

theorem Map.sorted_ins {α : Type} (m : List (Nat × α)) (k : Nat) (v : α) (hm : Map.sorted m = true)
    (hk : ∀ p ∈ m, p.1 ≠ k) : Map.sorted (Map.ins m k v) = true := by
  rw [Map.sorted_iff] at *
  induction m with
  | nil => simp [Map.ins]
  | cons q m ih =>
    simp only [Map.ins]
    have hq := hk q (by simp)
    split
    · rename_i h
      refine List.Pairwise.cons (fun p hp => ?_) hm
      rcases List.mem_cons.mp hp with rfl | hp
      · exact h
      · exact Nat.lt_trans h (List.rel_of_pairwise_cons hm hp)
    · rename_i h
      refine List.Pairwise.cons (fun p hp => ?_) (ih hm.of_cons fun p hp => hk p (by simp [hp]))
      rcases Map.mem_ins.mp hp with rfl | hp
      · simp only; omega
      · exact List.rel_of_pairwise_cons hm hp

theorem Map.sorted_filter {α : Type} (m : List (Nat × α)) (f : Nat × α → Bool) (hm : Map.sorted m = true) :
    Map.sorted (m.filter f) = true := by
  rw [Map.sorted_iff] at *
  exact hm.filter f

theorem Map.sorted_set {α : Type} (m : List (Nat × α)) (k : Nat) (v : α) (hm : Map.sorted m = true) :
    Map.sorted (Map.set m k v) = true :=
  Map.sorted_ins _ _ _ (Map.sorted_filter _ _ hm) fun _ hp => (Map.mem_erase hp).2

theorem Map.sorted_put {α : Type} [DecidableEq α] (m : List (Nat × α)) (k : Nat) (v d : α) (hm : Map.sorted m = true) :
    Map.sorted (Map.put m k v d) = true := by
  unfold Map.put
  split
  · exact Map.sorted_filter _ _ hm
  · exact Map.sorted_set _ _ _ hm

/-! ### Memories -/

/-- The byte just written. -/
@[simp] theorem Mem.byte_setByte_same (m : Mem) (a : Nat) (b : Byte) : (m.setByte a b).byte a = b :=
  Map.getD_put_same _ _ _ _

/-- Every other byte. -/
theorem Mem.byte_setByte_other (m : Mem) (a x : Nat) (b : Byte) (h : x ≠ a) : (m.setByte a b).byte x = m.byte x :=
  Map.getD_put_other _ _ _ _ _ h

theorem Mem.wf_nil : Mem.wf [] = true := rfl

/-- A written byte keeps the canonical form. -/
theorem Mem.wf_setByte (m : Mem) (a : Nat) (b : Byte) (h : m.wf = true) : (m.setByte a b).wf = true := by
  unfold Mem.wf at *
  rw [Bool.and_eq_true] at *
  refine ⟨Map.sorted_put _ _ _ _ h.1, ?_⟩
  rw [List.all_eq_true]
  have hall := List.all_eq_true.mp h.2
  intro p hp
  unfold Mem.setByte Map.put at hp
  split at hp
  · exact hall p (Map.mem_erase hp).1
  · rename_i hb
    rcases Map.mem_ins.mp hp with rfl | hp
    · simpa using hb
    · exact hall p (Map.mem_erase hp).1

/-- A number written keeps the canonical form. -/
theorem Mem.wf_write (m : Mem) (a n v : Nat) (h : m.wf = true) : (m.write a n v).wf = true := by
  induction n generalizing m a v with
  | zero => exact h
  | succ n ih => exact ih _ _ _ (Mem.wf_setByte _ _ _ h)

/-- Bytes written keep the canonical form. -/
theorem Mem.wf_putBytes (m : Mem) (a : Nat) (bs : List Byte) (h : m.wf = true) : (m.putBytes a bs).wf = true := by
  induction bs generalizing m a with
  | nil => exact h
  | cons b bs ih => exact ih _ _ (Mem.wf_setByte _ _ _ h)

/-- Zeroing keeps the canonical form. -/
theorem Mem.wf_zero (m : Mem) (a n : Nat) (h : m.wf = true) : (m.zero a n).wf = true := by
  unfold Mem.wf at *
  rw [Bool.and_eq_true] at *
  refine ⟨Map.sorted_filter _ _ h.1, List.all_eq_true.mpr fun p hp => List.all_eq_true.mp h.2 p (List.mem_filter.mp hp).1⟩

/-- A number written changes no byte outside its range. -/
theorem Mem.byte_write_other (m : Mem) (a n v x : Nat) (h : x < a ∨ a + n ≤ x) : (m.write a n v).byte x = m.byte x := by
  induction n generalizing m a v with
  | zero => rfl
  | succ n ih =>
    rw [Mem.write, ih _ _ _ (by omega), Mem.byte_setByte_other _ _ _ _ (by omega)]

/-- Byte `i` of a number written. -/
theorem Mem.byte_write_inside (m : Mem) (a n v i : Nat) (h : i < n) :
    (m.write a n v).byte (a + i) = BitVec.ofNat 8 (v / 256 ^ i) := by
  induction n generalizing m a v i with
  | zero => omega
  | succ n ih =>
    rw [Mem.write]
    cases i with
    | zero => rw [Mem.byte_write_other _ _ _ _ _ (by omega)]; simp
    | succ i =>
      rw [show a + (i + 1) = (a + 1) + i by omega, ih _ _ _ _ (by omega), Nat.div_div_eq_div_mul, Nat.pow_succ']

/-- Bytes written change no byte outside their range. -/
theorem Mem.byte_putBytes_other (m : Mem) (a : Nat) (bs : List Byte) (x : Nat) (h : x < a ∨ a + bs.length ≤ x) :
    (m.putBytes a bs).byte x = m.byte x := by
  induction bs generalizing m a with
  | nil => rfl
  | cons b bs ih =>
    simp only [List.length_cons] at h
    rw [Mem.putBytes, ih _ _ (by omega), Mem.byte_setByte_other _ _ _ _ (by omega)]

/-- Two stores that agree on a range read alike there. -/
theorem Mem.read_congr (m k : Mem) (a n : Nat) (h : ∀ i, i < n → m.byte (a + i) = k.byte (a + i)) :
    m.read a n = k.read a n := by
  induction n generalizing a with
  | zero => rfl
  | succ n ih =>
    rw [Mem.read, Mem.read, show m.byte a = k.byte a from h 0 (by omega),
      ih (a + 1) fun i hi => by have := h (i + 1) (by omega); rwa [show a + (i + 1) = a + 1 + i by omega] at this]

/-- The number just written, little-endian (R4). -/
theorem Mem.read_write_same (m : Mem) (a n v : Nat) : (m.write a n v).read a n = v % 256 ^ n := by
  induction n generalizing m a v with
  | zero => simp [Mem.read, Nat.mod_one]
  | succ n ih =>
    rw [Mem.write, Mem.read, ih, Mem.byte_write_other _ _ _ _ _ (by omega), Mem.byte_setByte_same]
    rw [BitVec.toNat_ofNat, show (256 : Nat) ^ (n + 1) = 256 * 256 ^ n from Nat.pow_succ', Nat.mod_mul (a := 256)]

/-- A read elsewhere after a number is written. -/
theorem Mem.read_write_other (m : Mem) (a n v b k : Nat) (h : b + k ≤ a ∨ a + n ≤ b) :
    (m.write a n v).read b k = m.read b k :=
  Mem.read_congr _ _ _ _ fun i hi => Mem.byte_write_other _ _ _ _ _ (by omega)

/-! ### Bytes and numbers -/

@[simp] theorem leBytes_length (n v : Nat) : (leBytes n v).length = n := by
  induction n generalizing v with
  | zero => rfl
  | succ n ih => simp [leBytes, ih]

/-- The number in the n bytes of a number is that number modulo 256ⁿ. -/
theorem leNat_leBytes (n v : Nat) : leNat (leBytes n v) = v % 256 ^ n := by
  induction n generalizing v with
  | zero => simp [leBytes, leNat, Nat.mod_one]
  | succ n ih =>
    rw [leBytes, leNat, ih, Nat.pow_succ, Nat.mul_comm (256 ^ n) 256, Nat.mod_mul]
    simp

end Sys2Proof.Machine
end

