-- ==== Sys2Proof/Laws/State.lean ====
section
/-! SUPPORT. The parts of the state after each update: every field an update leaves alone, and reads of what it writes. -/

namespace Sys2Proof.Machine

variable (s : State)

/-! ### setWarp -/

@[simp] theorem State.setWarp_clk (k : Nat) (x : Warp) : (s.setWarp k x).clk = s.clk := rfl
@[simp] theorem State.setWarp_draws (k : Nat) (x : Warp) : (s.setWarp k x).draws = s.draws := rfl
@[simp] theorem State.setWarp_agenda (k : Nat) (x : Warp) : (s.setWarp k x).agenda = s.agenda := rfl
@[simp] theorem State.setWarp_cur (k : Nat) (x : Warp) : (s.setWarp k x).cur = s.cur := rfl
@[simp] theorem State.setWarp_ray (k : Nat) (x : Warp) : (s.setWarp k x).ray = s.ray := rfl
@[simp] theorem State.setWarp_mem (k : Nat) (x : Warp) : (s.setWarp k x).mem = s.mem := rfl
@[simp] theorem State.setWarp_hostMem (k : Nat) (x : Warp) : (s.setWarp k x).hostMem = s.hostMem := rfl
@[simp] theorem State.setWarp_blocks (k : Nat) (x : Warp) : (s.setWarp k x).blocks = s.blocks := rfl
@[simp] theorem State.setWarp_saved (k : Nat) (x : Warp) : (s.setWarp k x).saved = s.saved := rfl
@[simp] theorem State.setWarp_cores (k : Nat) (x : Warp) : (s.setWarp k x).cores = s.cores := rfl
@[simp] theorem State.setWarp_clusters (k : Nat) (x : Warp) : (s.setWarp k x).clusters = s.clusters := rfl
@[simp] theorem State.setWarp_sliceLoss (k : Nat) (x : Warp) : (s.setWarp k x).sliceLoss = s.sliceLoss := rfl
@[simp] theorem State.setWarp_segs (k : Nat) (x : Warp) : (s.setWarp k x).segs = s.segs := rfl
@[simp] theorem State.setWarp_launches (k : Nat) (x : Warp) : (s.setWarp k x).launches = s.launches := rfl
@[simp] theorem State.setWarp_queues (k : Nat) (x : Warp) : (s.setWarp k x).queues = s.queues := rfl
@[simp] theorem State.setWarp_ctxs (k : Nat) (x : Warp) : (s.setWarp k x).ctxs = s.ctxs := rfl
@[simp] theorem State.setWarp_frames (k : Nat) (x : Warp) : (s.setWarp k x).frames = s.frames := rfl
@[simp] theorem State.setWarp_tags (k : Nat) (x : Warp) : (s.setWarp k x).tags = s.tags := rfl
@[simp] theorem State.setWarp_rowErrors (k : Nat) (x : Warp) : (s.setWarp k x).rowErrors = s.rowErrors := rfl
@[simp] theorem State.setWarp_spares (k : Nat) (x : Warp) : (s.setWarp k x).spares = s.spares := rfl
@[simp] theorem State.setWarp_ports (k : Nat) (x : Warp) : (s.setWarp k x).ports = s.ports := rfl
@[simp] theorem State.setWarp_ext (k : Nat) (x : Warp) : (s.setWarp k x).ext = s.ext := rfl
@[simp] theorem State.setWarp_extNext (k : Nat) (x : Warp) : (s.setWarp k x).extNext = s.extNext := rfl
@[simp] theorem State.setWarp_sent (k : Nat) (x : Warp) : (s.setWarp k x).sent = s.sent := rfl
@[simp] theorem State.setWarp_collectives (k : Nat) (x : Warp) : (s.setWarp k x).collectives = s.collectives := rfl
@[simp] theorem State.setWarp_prims (k : Nat) (x : Warp) : (s.setWarp k x).prims = s.prims := rfl
@[simp] theorem State.setWarp_marks (k : Nat) (x : Warp) : (s.setWarp k x).marks = s.marks := rfl
@[simp] theorem State.setWarp_msix (k : Nat) (x : Warp) : (s.setWarp k x).msix = s.msix := rfl
@[simp] theorem State.setWarp_completions (k : Nat) (x : Warp) : (s.setWarp k x).completions = s.completions := rfl
@[simp] theorem State.setWarp_mss (k : Nat) (x : Warp) : (s.setWarp k x).mss = s.mss := rfl
@[simp] theorem State.setWarp_launchNext (k : Nat) (x : Warp) : (s.setWarp k x).launchNext = s.launchNext := rfl
@[simp] theorem State.setWarp_savedNext (k : Nat) (x : Warp) : (s.setWarp k x).savedNext = s.savedNext := rfl
@[simp] theorem State.setWarp_oldCode (k : Nat) (x : Warp) : (s.setWarp k x).oldCode = s.oldCode := rfl
@[simp] theorem State.setWarp_outbox (k : Nat) (x : Warp) : (s.setWarp k x).outbox = s.outbox := rfl
@[simp] theorem State.setWarp_blockAt (k : Nat) (x : Warp) (j : Nat) : (s.setWarp k x).block j = s.block j := rfl
@[simp] theorem State.setWarp_coreAt (k : Nat) (x : Warp) (j : Nat) : (s.setWarp k x).core j = s.core j := rfl
@[simp] theorem State.setWarp_clusterAt (k : Nat) (x : Warp) (j : Nat) : (s.setWarp k x).cluster j = s.cluster j := rfl
@[simp] theorem State.setWarp_launchAt (k : Nat) (x : Warp) (j : Nat) : (s.setWarp k x).launch j = s.launch j := rfl
@[simp] theorem State.setWarp_queueAt (k : Nat) (x : Warp) (j : Nat) : (s.setWarp k x).queue j = s.queue j := rfl
@[simp] theorem State.setWarp_ctxAt (k : Nat) (x : Warp) (j : Nat) : (s.setWarp k x).ctx j = s.ctx j := rfl
@[simp] theorem State.setWarp_portAt (k : Nat) (x : Warp) (j : Nat) : (s.setWarp k x).port j = s.port j := rfl
@[simp] theorem State.setWarp_frameAt (k : Nat) (x : Warp) (j : Nat) : (s.setWarp k x).frame j = s.frame j := rfl

/-! ### setBlock -/

@[simp] theorem State.setBlock_clk (k : Nat) (x : Block) : (s.setBlock k x).clk = s.clk := rfl
@[simp] theorem State.setBlock_draws (k : Nat) (x : Block) : (s.setBlock k x).draws = s.draws := rfl
@[simp] theorem State.setBlock_agenda (k : Nat) (x : Block) : (s.setBlock k x).agenda = s.agenda := rfl
@[simp] theorem State.setBlock_cur (k : Nat) (x : Block) : (s.setBlock k x).cur = s.cur := rfl
@[simp] theorem State.setBlock_ray (k : Nat) (x : Block) : (s.setBlock k x).ray = s.ray := rfl
@[simp] theorem State.setBlock_mem (k : Nat) (x : Block) : (s.setBlock k x).mem = s.mem := rfl
@[simp] theorem State.setBlock_hostMem (k : Nat) (x : Block) : (s.setBlock k x).hostMem = s.hostMem := rfl
@[simp] theorem State.setBlock_warps (k : Nat) (x : Block) : (s.setBlock k x).warps = s.warps := rfl
@[simp] theorem State.setBlock_saved (k : Nat) (x : Block) : (s.setBlock k x).saved = s.saved := rfl
@[simp] theorem State.setBlock_cores (k : Nat) (x : Block) : (s.setBlock k x).cores = s.cores := rfl
@[simp] theorem State.setBlock_clusters (k : Nat) (x : Block) : (s.setBlock k x).clusters = s.clusters := rfl
@[simp] theorem State.setBlock_sliceLoss (k : Nat) (x : Block) : (s.setBlock k x).sliceLoss = s.sliceLoss := rfl
@[simp] theorem State.setBlock_segs (k : Nat) (x : Block) : (s.setBlock k x).segs = s.segs := rfl
@[simp] theorem State.setBlock_launches (k : Nat) (x : Block) : (s.setBlock k x).launches = s.launches := rfl
@[simp] theorem State.setBlock_queues (k : Nat) (x : Block) : (s.setBlock k x).queues = s.queues := rfl
@[simp] theorem State.setBlock_ctxs (k : Nat) (x : Block) : (s.setBlock k x).ctxs = s.ctxs := rfl
@[simp] theorem State.setBlock_frames (k : Nat) (x : Block) : (s.setBlock k x).frames = s.frames := rfl
@[simp] theorem State.setBlock_tags (k : Nat) (x : Block) : (s.setBlock k x).tags = s.tags := rfl
@[simp] theorem State.setBlock_rowErrors (k : Nat) (x : Block) : (s.setBlock k x).rowErrors = s.rowErrors := rfl
@[simp] theorem State.setBlock_spares (k : Nat) (x : Block) : (s.setBlock k x).spares = s.spares := rfl
@[simp] theorem State.setBlock_ports (k : Nat) (x : Block) : (s.setBlock k x).ports = s.ports := rfl
@[simp] theorem State.setBlock_ext (k : Nat) (x : Block) : (s.setBlock k x).ext = s.ext := rfl
@[simp] theorem State.setBlock_extNext (k : Nat) (x : Block) : (s.setBlock k x).extNext = s.extNext := rfl
@[simp] theorem State.setBlock_sent (k : Nat) (x : Block) : (s.setBlock k x).sent = s.sent := rfl
@[simp] theorem State.setBlock_collectives (k : Nat) (x : Block) : (s.setBlock k x).collectives = s.collectives := rfl
@[simp] theorem State.setBlock_prims (k : Nat) (x : Block) : (s.setBlock k x).prims = s.prims := rfl
@[simp] theorem State.setBlock_marks (k : Nat) (x : Block) : (s.setBlock k x).marks = s.marks := rfl
@[simp] theorem State.setBlock_msix (k : Nat) (x : Block) : (s.setBlock k x).msix = s.msix := rfl
@[simp] theorem State.setBlock_completions (k : Nat) (x : Block) : (s.setBlock k x).completions = s.completions := rfl
@[simp] theorem State.setBlock_mss (k : Nat) (x : Block) : (s.setBlock k x).mss = s.mss := rfl
@[simp] theorem State.setBlock_launchNext (k : Nat) (x : Block) : (s.setBlock k x).launchNext = s.launchNext := rfl
@[simp] theorem State.setBlock_savedNext (k : Nat) (x : Block) : (s.setBlock k x).savedNext = s.savedNext := rfl
@[simp] theorem State.setBlock_oldCode (k : Nat) (x : Block) : (s.setBlock k x).oldCode = s.oldCode := rfl
@[simp] theorem State.setBlock_outbox (k : Nat) (x : Block) : (s.setBlock k x).outbox = s.outbox := rfl
@[simp] theorem State.setBlock_warpAt (k : Nat) (x : Block) (j : Nat) : (s.setBlock k x).warp j = s.warp j := rfl
@[simp] theorem State.setBlock_coreAt (k : Nat) (x : Block) (j : Nat) : (s.setBlock k x).core j = s.core j := rfl
@[simp] theorem State.setBlock_clusterAt (k : Nat) (x : Block) (j : Nat) : (s.setBlock k x).cluster j = s.cluster j := rfl
@[simp] theorem State.setBlock_launchAt (k : Nat) (x : Block) (j : Nat) : (s.setBlock k x).launch j = s.launch j := rfl
@[simp] theorem State.setBlock_queueAt (k : Nat) (x : Block) (j : Nat) : (s.setBlock k x).queue j = s.queue j := rfl
@[simp] theorem State.setBlock_ctxAt (k : Nat) (x : Block) (j : Nat) : (s.setBlock k x).ctx j = s.ctx j := rfl
@[simp] theorem State.setBlock_portAt (k : Nat) (x : Block) (j : Nat) : (s.setBlock k x).port j = s.port j := rfl
@[simp] theorem State.setBlock_frameAt (k : Nat) (x : Block) (j : Nat) : (s.setBlock k x).frame j = s.frame j := rfl

/-! ### setCore -/

@[simp] theorem State.setCore_clk (k : Nat) (x : Core) : (s.setCore k x).clk = s.clk := rfl
@[simp] theorem State.setCore_draws (k : Nat) (x : Core) : (s.setCore k x).draws = s.draws := rfl
@[simp] theorem State.setCore_agenda (k : Nat) (x : Core) : (s.setCore k x).agenda = s.agenda := rfl
@[simp] theorem State.setCore_cur (k : Nat) (x : Core) : (s.setCore k x).cur = s.cur := rfl
@[simp] theorem State.setCore_ray (k : Nat) (x : Core) : (s.setCore k x).ray = s.ray := rfl
@[simp] theorem State.setCore_mem (k : Nat) (x : Core) : (s.setCore k x).mem = s.mem := rfl
@[simp] theorem State.setCore_hostMem (k : Nat) (x : Core) : (s.setCore k x).hostMem = s.hostMem := rfl
@[simp] theorem State.setCore_warps (k : Nat) (x : Core) : (s.setCore k x).warps = s.warps := rfl
@[simp] theorem State.setCore_blocks (k : Nat) (x : Core) : (s.setCore k x).blocks = s.blocks := rfl
@[simp] theorem State.setCore_saved (k : Nat) (x : Core) : (s.setCore k x).saved = s.saved := rfl
@[simp] theorem State.setCore_clusters (k : Nat) (x : Core) : (s.setCore k x).clusters = s.clusters := rfl
@[simp] theorem State.setCore_sliceLoss (k : Nat) (x : Core) : (s.setCore k x).sliceLoss = s.sliceLoss := rfl
@[simp] theorem State.setCore_segs (k : Nat) (x : Core) : (s.setCore k x).segs = s.segs := rfl
@[simp] theorem State.setCore_launches (k : Nat) (x : Core) : (s.setCore k x).launches = s.launches := rfl
@[simp] theorem State.setCore_queues (k : Nat) (x : Core) : (s.setCore k x).queues = s.queues := rfl
@[simp] theorem State.setCore_ctxs (k : Nat) (x : Core) : (s.setCore k x).ctxs = s.ctxs := rfl
@[simp] theorem State.setCore_frames (k : Nat) (x : Core) : (s.setCore k x).frames = s.frames := rfl
@[simp] theorem State.setCore_tags (k : Nat) (x : Core) : (s.setCore k x).tags = s.tags := rfl
@[simp] theorem State.setCore_rowErrors (k : Nat) (x : Core) : (s.setCore k x).rowErrors = s.rowErrors := rfl
@[simp] theorem State.setCore_spares (k : Nat) (x : Core) : (s.setCore k x).spares = s.spares := rfl
@[simp] theorem State.setCore_ports (k : Nat) (x : Core) : (s.setCore k x).ports = s.ports := rfl
@[simp] theorem State.setCore_ext (k : Nat) (x : Core) : (s.setCore k x).ext = s.ext := rfl
@[simp] theorem State.setCore_extNext (k : Nat) (x : Core) : (s.setCore k x).extNext = s.extNext := rfl
@[simp] theorem State.setCore_sent (k : Nat) (x : Core) : (s.setCore k x).sent = s.sent := rfl
@[simp] theorem State.setCore_collectives (k : Nat) (x : Core) : (s.setCore k x).collectives = s.collectives := rfl
@[simp] theorem State.setCore_prims (k : Nat) (x : Core) : (s.setCore k x).prims = s.prims := rfl
@[simp] theorem State.setCore_marks (k : Nat) (x : Core) : (s.setCore k x).marks = s.marks := rfl
@[simp] theorem State.setCore_msix (k : Nat) (x : Core) : (s.setCore k x).msix = s.msix := rfl
@[simp] theorem State.setCore_completions (k : Nat) (x : Core) : (s.setCore k x).completions = s.completions := rfl
@[simp] theorem State.setCore_mss (k : Nat) (x : Core) : (s.setCore k x).mss = s.mss := rfl
@[simp] theorem State.setCore_launchNext (k : Nat) (x : Core) : (s.setCore k x).launchNext = s.launchNext := rfl
@[simp] theorem State.setCore_savedNext (k : Nat) (x : Core) : (s.setCore k x).savedNext = s.savedNext := rfl
@[simp] theorem State.setCore_oldCode (k : Nat) (x : Core) : (s.setCore k x).oldCode = s.oldCode := rfl
@[simp] theorem State.setCore_outbox (k : Nat) (x : Core) : (s.setCore k x).outbox = s.outbox := rfl
@[simp] theorem State.setCore_warpAt (k : Nat) (x : Core) (j : Nat) : (s.setCore k x).warp j = s.warp j := rfl
@[simp] theorem State.setCore_blockAt (k : Nat) (x : Core) (j : Nat) : (s.setCore k x).block j = s.block j := rfl
@[simp] theorem State.setCore_clusterAt (k : Nat) (x : Core) (j : Nat) : (s.setCore k x).cluster j = s.cluster j := rfl
@[simp] theorem State.setCore_launchAt (k : Nat) (x : Core) (j : Nat) : (s.setCore k x).launch j = s.launch j := rfl
@[simp] theorem State.setCore_queueAt (k : Nat) (x : Core) (j : Nat) : (s.setCore k x).queue j = s.queue j := rfl
@[simp] theorem State.setCore_ctxAt (k : Nat) (x : Core) (j : Nat) : (s.setCore k x).ctx j = s.ctx j := rfl
@[simp] theorem State.setCore_portAt (k : Nat) (x : Core) (j : Nat) : (s.setCore k x).port j = s.port j := rfl
@[simp] theorem State.setCore_frameAt (k : Nat) (x : Core) (j : Nat) : (s.setCore k x).frame j = s.frame j := rfl

/-! ### setCluster -/

@[simp] theorem State.setCluster_clk (k : Nat) (x : Cluster) : (s.setCluster k x).clk = s.clk := rfl
@[simp] theorem State.setCluster_draws (k : Nat) (x : Cluster) : (s.setCluster k x).draws = s.draws := rfl
@[simp] theorem State.setCluster_agenda (k : Nat) (x : Cluster) : (s.setCluster k x).agenda = s.agenda := rfl
@[simp] theorem State.setCluster_cur (k : Nat) (x : Cluster) : (s.setCluster k x).cur = s.cur := rfl
@[simp] theorem State.setCluster_ray (k : Nat) (x : Cluster) : (s.setCluster k x).ray = s.ray := rfl
@[simp] theorem State.setCluster_mem (k : Nat) (x : Cluster) : (s.setCluster k x).mem = s.mem := rfl
@[simp] theorem State.setCluster_hostMem (k : Nat) (x : Cluster) : (s.setCluster k x).hostMem = s.hostMem := rfl
@[simp] theorem State.setCluster_warps (k : Nat) (x : Cluster) : (s.setCluster k x).warps = s.warps := rfl
@[simp] theorem State.setCluster_blocks (k : Nat) (x : Cluster) : (s.setCluster k x).blocks = s.blocks := rfl
@[simp] theorem State.setCluster_saved (k : Nat) (x : Cluster) : (s.setCluster k x).saved = s.saved := rfl
@[simp] theorem State.setCluster_cores (k : Nat) (x : Cluster) : (s.setCluster k x).cores = s.cores := rfl
@[simp] theorem State.setCluster_sliceLoss (k : Nat) (x : Cluster) : (s.setCluster k x).sliceLoss = s.sliceLoss := rfl
@[simp] theorem State.setCluster_segs (k : Nat) (x : Cluster) : (s.setCluster k x).segs = s.segs := rfl
@[simp] theorem State.setCluster_launches (k : Nat) (x : Cluster) : (s.setCluster k x).launches = s.launches := rfl
@[simp] theorem State.setCluster_queues (k : Nat) (x : Cluster) : (s.setCluster k x).queues = s.queues := rfl
@[simp] theorem State.setCluster_ctxs (k : Nat) (x : Cluster) : (s.setCluster k x).ctxs = s.ctxs := rfl
@[simp] theorem State.setCluster_frames (k : Nat) (x : Cluster) : (s.setCluster k x).frames = s.frames := rfl
@[simp] theorem State.setCluster_tags (k : Nat) (x : Cluster) : (s.setCluster k x).tags = s.tags := rfl
@[simp] theorem State.setCluster_rowErrors (k : Nat) (x : Cluster) : (s.setCluster k x).rowErrors = s.rowErrors := rfl
@[simp] theorem State.setCluster_spares (k : Nat) (x : Cluster) : (s.setCluster k x).spares = s.spares := rfl
@[simp] theorem State.setCluster_ports (k : Nat) (x : Cluster) : (s.setCluster k x).ports = s.ports := rfl
@[simp] theorem State.setCluster_ext (k : Nat) (x : Cluster) : (s.setCluster k x).ext = s.ext := rfl
@[simp] theorem State.setCluster_extNext (k : Nat) (x : Cluster) : (s.setCluster k x).extNext = s.extNext := rfl
@[simp] theorem State.setCluster_sent (k : Nat) (x : Cluster) : (s.setCluster k x).sent = s.sent := rfl
@[simp] theorem State.setCluster_collectives (k : Nat) (x : Cluster) : (s.setCluster k x).collectives = s.collectives := rfl
@[simp] theorem State.setCluster_prims (k : Nat) (x : Cluster) : (s.setCluster k x).prims = s.prims := rfl
@[simp] theorem State.setCluster_marks (k : Nat) (x : Cluster) : (s.setCluster k x).marks = s.marks := rfl
@[simp] theorem State.setCluster_msix (k : Nat) (x : Cluster) : (s.setCluster k x).msix = s.msix := rfl
@[simp] theorem State.setCluster_completions (k : Nat) (x : Cluster) : (s.setCluster k x).completions = s.completions := rfl
@[simp] theorem State.setCluster_mss (k : Nat) (x : Cluster) : (s.setCluster k x).mss = s.mss := rfl
@[simp] theorem State.setCluster_launchNext (k : Nat) (x : Cluster) : (s.setCluster k x).launchNext = s.launchNext := rfl
@[simp] theorem State.setCluster_savedNext (k : Nat) (x : Cluster) : (s.setCluster k x).savedNext = s.savedNext := rfl
@[simp] theorem State.setCluster_oldCode (k : Nat) (x : Cluster) : (s.setCluster k x).oldCode = s.oldCode := rfl
@[simp] theorem State.setCluster_outbox (k : Nat) (x : Cluster) : (s.setCluster k x).outbox = s.outbox := rfl
@[simp] theorem State.setCluster_warpAt (k : Nat) (x : Cluster) (j : Nat) : (s.setCluster k x).warp j = s.warp j := rfl
@[simp] theorem State.setCluster_blockAt (k : Nat) (x : Cluster) (j : Nat) : (s.setCluster k x).block j = s.block j := rfl
@[simp] theorem State.setCluster_coreAt (k : Nat) (x : Cluster) (j : Nat) : (s.setCluster k x).core j = s.core j := rfl
@[simp] theorem State.setCluster_launchAt (k : Nat) (x : Cluster) (j : Nat) : (s.setCluster k x).launch j = s.launch j := rfl
@[simp] theorem State.setCluster_queueAt (k : Nat) (x : Cluster) (j : Nat) : (s.setCluster k x).queue j = s.queue j := rfl
@[simp] theorem State.setCluster_ctxAt (k : Nat) (x : Cluster) (j : Nat) : (s.setCluster k x).ctx j = s.ctx j := rfl
@[simp] theorem State.setCluster_portAt (k : Nat) (x : Cluster) (j : Nat) : (s.setCluster k x).port j = s.port j := rfl
@[simp] theorem State.setCluster_frameAt (k : Nat) (x : Cluster) (j : Nat) : (s.setCluster k x).frame j = s.frame j := rfl

/-! ### setLaunch -/

@[simp] theorem State.setLaunch_clk (k : Nat) (x : Launch) : (s.setLaunch k x).clk = s.clk := rfl
@[simp] theorem State.setLaunch_draws (k : Nat) (x : Launch) : (s.setLaunch k x).draws = s.draws := rfl
@[simp] theorem State.setLaunch_agenda (k : Nat) (x : Launch) : (s.setLaunch k x).agenda = s.agenda := rfl
@[simp] theorem State.setLaunch_cur (k : Nat) (x : Launch) : (s.setLaunch k x).cur = s.cur := rfl
@[simp] theorem State.setLaunch_ray (k : Nat) (x : Launch) : (s.setLaunch k x).ray = s.ray := rfl
@[simp] theorem State.setLaunch_mem (k : Nat) (x : Launch) : (s.setLaunch k x).mem = s.mem := rfl
@[simp] theorem State.setLaunch_hostMem (k : Nat) (x : Launch) : (s.setLaunch k x).hostMem = s.hostMem := rfl
@[simp] theorem State.setLaunch_warps (k : Nat) (x : Launch) : (s.setLaunch k x).warps = s.warps := rfl
@[simp] theorem State.setLaunch_blocks (k : Nat) (x : Launch) : (s.setLaunch k x).blocks = s.blocks := rfl
@[simp] theorem State.setLaunch_saved (k : Nat) (x : Launch) : (s.setLaunch k x).saved = s.saved := rfl
@[simp] theorem State.setLaunch_cores (k : Nat) (x : Launch) : (s.setLaunch k x).cores = s.cores := rfl
@[simp] theorem State.setLaunch_clusters (k : Nat) (x : Launch) : (s.setLaunch k x).clusters = s.clusters := rfl
@[simp] theorem State.setLaunch_sliceLoss (k : Nat) (x : Launch) : (s.setLaunch k x).sliceLoss = s.sliceLoss := rfl
@[simp] theorem State.setLaunch_segs (k : Nat) (x : Launch) : (s.setLaunch k x).segs = s.segs := rfl
@[simp] theorem State.setLaunch_queues (k : Nat) (x : Launch) : (s.setLaunch k x).queues = s.queues := rfl
@[simp] theorem State.setLaunch_ctxs (k : Nat) (x : Launch) : (s.setLaunch k x).ctxs = s.ctxs := rfl
@[simp] theorem State.setLaunch_frames (k : Nat) (x : Launch) : (s.setLaunch k x).frames = s.frames := rfl
@[simp] theorem State.setLaunch_tags (k : Nat) (x : Launch) : (s.setLaunch k x).tags = s.tags := rfl
@[simp] theorem State.setLaunch_rowErrors (k : Nat) (x : Launch) : (s.setLaunch k x).rowErrors = s.rowErrors := rfl
@[simp] theorem State.setLaunch_spares (k : Nat) (x : Launch) : (s.setLaunch k x).spares = s.spares := rfl
@[simp] theorem State.setLaunch_ports (k : Nat) (x : Launch) : (s.setLaunch k x).ports = s.ports := rfl
@[simp] theorem State.setLaunch_ext (k : Nat) (x : Launch) : (s.setLaunch k x).ext = s.ext := rfl
@[simp] theorem State.setLaunch_extNext (k : Nat) (x : Launch) : (s.setLaunch k x).extNext = s.extNext := rfl
@[simp] theorem State.setLaunch_sent (k : Nat) (x : Launch) : (s.setLaunch k x).sent = s.sent := rfl
@[simp] theorem State.setLaunch_collectives (k : Nat) (x : Launch) : (s.setLaunch k x).collectives = s.collectives := rfl
@[simp] theorem State.setLaunch_prims (k : Nat) (x : Launch) : (s.setLaunch k x).prims = s.prims := rfl
@[simp] theorem State.setLaunch_marks (k : Nat) (x : Launch) : (s.setLaunch k x).marks = s.marks := rfl
@[simp] theorem State.setLaunch_msix (k : Nat) (x : Launch) : (s.setLaunch k x).msix = s.msix := rfl
@[simp] theorem State.setLaunch_completions (k : Nat) (x : Launch) : (s.setLaunch k x).completions = s.completions := rfl
@[simp] theorem State.setLaunch_mss (k : Nat) (x : Launch) : (s.setLaunch k x).mss = s.mss := rfl
@[simp] theorem State.setLaunch_launchNext (k : Nat) (x : Launch) : (s.setLaunch k x).launchNext = s.launchNext := rfl
@[simp] theorem State.setLaunch_savedNext (k : Nat) (x : Launch) : (s.setLaunch k x).savedNext = s.savedNext := rfl
@[simp] theorem State.setLaunch_oldCode (k : Nat) (x : Launch) : (s.setLaunch k x).oldCode = s.oldCode := rfl
@[simp] theorem State.setLaunch_outbox (k : Nat) (x : Launch) : (s.setLaunch k x).outbox = s.outbox := rfl
@[simp] theorem State.setLaunch_warpAt (k : Nat) (x : Launch) (j : Nat) : (s.setLaunch k x).warp j = s.warp j := rfl
@[simp] theorem State.setLaunch_blockAt (k : Nat) (x : Launch) (j : Nat) : (s.setLaunch k x).block j = s.block j := rfl
@[simp] theorem State.setLaunch_coreAt (k : Nat) (x : Launch) (j : Nat) : (s.setLaunch k x).core j = s.core j := rfl
@[simp] theorem State.setLaunch_clusterAt (k : Nat) (x : Launch) (j : Nat) : (s.setLaunch k x).cluster j = s.cluster j := rfl
@[simp] theorem State.setLaunch_queueAt (k : Nat) (x : Launch) (j : Nat) : (s.setLaunch k x).queue j = s.queue j := rfl
@[simp] theorem State.setLaunch_ctxAt (k : Nat) (x : Launch) (j : Nat) : (s.setLaunch k x).ctx j = s.ctx j := rfl
@[simp] theorem State.setLaunch_portAt (k : Nat) (x : Launch) (j : Nat) : (s.setLaunch k x).port j = s.port j := rfl
@[simp] theorem State.setLaunch_frameAt (k : Nat) (x : Launch) (j : Nat) : (s.setLaunch k x).frame j = s.frame j := rfl

/-! ### setQueue -/

@[simp] theorem State.setQueue_clk (k : Nat) (x : Queue) : (s.setQueue k x).clk = s.clk := rfl
@[simp] theorem State.setQueue_draws (k : Nat) (x : Queue) : (s.setQueue k x).draws = s.draws := rfl
@[simp] theorem State.setQueue_agenda (k : Nat) (x : Queue) : (s.setQueue k x).agenda = s.agenda := rfl
@[simp] theorem State.setQueue_cur (k : Nat) (x : Queue) : (s.setQueue k x).cur = s.cur := rfl
@[simp] theorem State.setQueue_ray (k : Nat) (x : Queue) : (s.setQueue k x).ray = s.ray := rfl
@[simp] theorem State.setQueue_mem (k : Nat) (x : Queue) : (s.setQueue k x).mem = s.mem := rfl
@[simp] theorem State.setQueue_hostMem (k : Nat) (x : Queue) : (s.setQueue k x).hostMem = s.hostMem := rfl
@[simp] theorem State.setQueue_warps (k : Nat) (x : Queue) : (s.setQueue k x).warps = s.warps := rfl
@[simp] theorem State.setQueue_blocks (k : Nat) (x : Queue) : (s.setQueue k x).blocks = s.blocks := rfl
@[simp] theorem State.setQueue_saved (k : Nat) (x : Queue) : (s.setQueue k x).saved = s.saved := rfl
@[simp] theorem State.setQueue_cores (k : Nat) (x : Queue) : (s.setQueue k x).cores = s.cores := rfl
@[simp] theorem State.setQueue_clusters (k : Nat) (x : Queue) : (s.setQueue k x).clusters = s.clusters := rfl
@[simp] theorem State.setQueue_sliceLoss (k : Nat) (x : Queue) : (s.setQueue k x).sliceLoss = s.sliceLoss := rfl
@[simp] theorem State.setQueue_segs (k : Nat) (x : Queue) : (s.setQueue k x).segs = s.segs := rfl
@[simp] theorem State.setQueue_launches (k : Nat) (x : Queue) : (s.setQueue k x).launches = s.launches := rfl
@[simp] theorem State.setQueue_ctxs (k : Nat) (x : Queue) : (s.setQueue k x).ctxs = s.ctxs := rfl
@[simp] theorem State.setQueue_frames (k : Nat) (x : Queue) : (s.setQueue k x).frames = s.frames := rfl
@[simp] theorem State.setQueue_tags (k : Nat) (x : Queue) : (s.setQueue k x).tags = s.tags := rfl
@[simp] theorem State.setQueue_rowErrors (k : Nat) (x : Queue) : (s.setQueue k x).rowErrors = s.rowErrors := rfl
@[simp] theorem State.setQueue_spares (k : Nat) (x : Queue) : (s.setQueue k x).spares = s.spares := rfl
@[simp] theorem State.setQueue_ports (k : Nat) (x : Queue) : (s.setQueue k x).ports = s.ports := rfl
@[simp] theorem State.setQueue_ext (k : Nat) (x : Queue) : (s.setQueue k x).ext = s.ext := rfl
@[simp] theorem State.setQueue_extNext (k : Nat) (x : Queue) : (s.setQueue k x).extNext = s.extNext := rfl
@[simp] theorem State.setQueue_sent (k : Nat) (x : Queue) : (s.setQueue k x).sent = s.sent := rfl
@[simp] theorem State.setQueue_collectives (k : Nat) (x : Queue) : (s.setQueue k x).collectives = s.collectives := rfl
@[simp] theorem State.setQueue_prims (k : Nat) (x : Queue) : (s.setQueue k x).prims = s.prims := rfl
@[simp] theorem State.setQueue_marks (k : Nat) (x : Queue) : (s.setQueue k x).marks = s.marks := rfl
@[simp] theorem State.setQueue_msix (k : Nat) (x : Queue) : (s.setQueue k x).msix = s.msix := rfl
@[simp] theorem State.setQueue_completions (k : Nat) (x : Queue) : (s.setQueue k x).completions = s.completions := rfl
@[simp] theorem State.setQueue_mss (k : Nat) (x : Queue) : (s.setQueue k x).mss = s.mss := rfl
@[simp] theorem State.setQueue_launchNext (k : Nat) (x : Queue) : (s.setQueue k x).launchNext = s.launchNext := rfl
@[simp] theorem State.setQueue_savedNext (k : Nat) (x : Queue) : (s.setQueue k x).savedNext = s.savedNext := rfl
@[simp] theorem State.setQueue_oldCode (k : Nat) (x : Queue) : (s.setQueue k x).oldCode = s.oldCode := rfl
@[simp] theorem State.setQueue_outbox (k : Nat) (x : Queue) : (s.setQueue k x).outbox = s.outbox := rfl
@[simp] theorem State.setQueue_warpAt (k : Nat) (x : Queue) (j : Nat) : (s.setQueue k x).warp j = s.warp j := rfl
@[simp] theorem State.setQueue_blockAt (k : Nat) (x : Queue) (j : Nat) : (s.setQueue k x).block j = s.block j := rfl
@[simp] theorem State.setQueue_coreAt (k : Nat) (x : Queue) (j : Nat) : (s.setQueue k x).core j = s.core j := rfl
@[simp] theorem State.setQueue_clusterAt (k : Nat) (x : Queue) (j : Nat) : (s.setQueue k x).cluster j = s.cluster j := rfl
@[simp] theorem State.setQueue_launchAt (k : Nat) (x : Queue) (j : Nat) : (s.setQueue k x).launch j = s.launch j := rfl
@[simp] theorem State.setQueue_ctxAt (k : Nat) (x : Queue) (j : Nat) : (s.setQueue k x).ctx j = s.ctx j := rfl
@[simp] theorem State.setQueue_portAt (k : Nat) (x : Queue) (j : Nat) : (s.setQueue k x).port j = s.port j := rfl
@[simp] theorem State.setQueue_frameAt (k : Nat) (x : Queue) (j : Nat) : (s.setQueue k x).frame j = s.frame j := rfl

/-! ### setCtx -/

@[simp] theorem State.setCtx_clk (k : Nat) (x : Context) : (s.setCtx k x).clk = s.clk := rfl
@[simp] theorem State.setCtx_draws (k : Nat) (x : Context) : (s.setCtx k x).draws = s.draws := rfl
@[simp] theorem State.setCtx_agenda (k : Nat) (x : Context) : (s.setCtx k x).agenda = s.agenda := rfl
@[simp] theorem State.setCtx_cur (k : Nat) (x : Context) : (s.setCtx k x).cur = s.cur := rfl
@[simp] theorem State.setCtx_ray (k : Nat) (x : Context) : (s.setCtx k x).ray = s.ray := rfl
@[simp] theorem State.setCtx_mem (k : Nat) (x : Context) : (s.setCtx k x).mem = s.mem := rfl
@[simp] theorem State.setCtx_hostMem (k : Nat) (x : Context) : (s.setCtx k x).hostMem = s.hostMem := rfl
@[simp] theorem State.setCtx_warps (k : Nat) (x : Context) : (s.setCtx k x).warps = s.warps := rfl
@[simp] theorem State.setCtx_blocks (k : Nat) (x : Context) : (s.setCtx k x).blocks = s.blocks := rfl
@[simp] theorem State.setCtx_saved (k : Nat) (x : Context) : (s.setCtx k x).saved = s.saved := rfl
@[simp] theorem State.setCtx_cores (k : Nat) (x : Context) : (s.setCtx k x).cores = s.cores := rfl
@[simp] theorem State.setCtx_clusters (k : Nat) (x : Context) : (s.setCtx k x).clusters = s.clusters := rfl
@[simp] theorem State.setCtx_sliceLoss (k : Nat) (x : Context) : (s.setCtx k x).sliceLoss = s.sliceLoss := rfl
@[simp] theorem State.setCtx_segs (k : Nat) (x : Context) : (s.setCtx k x).segs = s.segs := rfl
@[simp] theorem State.setCtx_launches (k : Nat) (x : Context) : (s.setCtx k x).launches = s.launches := rfl
@[simp] theorem State.setCtx_queues (k : Nat) (x : Context) : (s.setCtx k x).queues = s.queues := rfl
@[simp] theorem State.setCtx_frames (k : Nat) (x : Context) : (s.setCtx k x).frames = s.frames := rfl
@[simp] theorem State.setCtx_tags (k : Nat) (x : Context) : (s.setCtx k x).tags = s.tags := rfl
@[simp] theorem State.setCtx_rowErrors (k : Nat) (x : Context) : (s.setCtx k x).rowErrors = s.rowErrors := rfl
@[simp] theorem State.setCtx_spares (k : Nat) (x : Context) : (s.setCtx k x).spares = s.spares := rfl
@[simp] theorem State.setCtx_ports (k : Nat) (x : Context) : (s.setCtx k x).ports = s.ports := rfl
@[simp] theorem State.setCtx_ext (k : Nat) (x : Context) : (s.setCtx k x).ext = s.ext := rfl
@[simp] theorem State.setCtx_extNext (k : Nat) (x : Context) : (s.setCtx k x).extNext = s.extNext := rfl
@[simp] theorem State.setCtx_sent (k : Nat) (x : Context) : (s.setCtx k x).sent = s.sent := rfl
@[simp] theorem State.setCtx_collectives (k : Nat) (x : Context) : (s.setCtx k x).collectives = s.collectives := rfl
@[simp] theorem State.setCtx_prims (k : Nat) (x : Context) : (s.setCtx k x).prims = s.prims := rfl
@[simp] theorem State.setCtx_marks (k : Nat) (x : Context) : (s.setCtx k x).marks = s.marks := rfl
@[simp] theorem State.setCtx_msix (k : Nat) (x : Context) : (s.setCtx k x).msix = s.msix := rfl
@[simp] theorem State.setCtx_completions (k : Nat) (x : Context) : (s.setCtx k x).completions = s.completions := rfl
@[simp] theorem State.setCtx_mss (k : Nat) (x : Context) : (s.setCtx k x).mss = s.mss := rfl
@[simp] theorem State.setCtx_launchNext (k : Nat) (x : Context) : (s.setCtx k x).launchNext = s.launchNext := rfl
@[simp] theorem State.setCtx_savedNext (k : Nat) (x : Context) : (s.setCtx k x).savedNext = s.savedNext := rfl
@[simp] theorem State.setCtx_oldCode (k : Nat) (x : Context) : (s.setCtx k x).oldCode = s.oldCode := rfl
@[simp] theorem State.setCtx_outbox (k : Nat) (x : Context) : (s.setCtx k x).outbox = s.outbox := rfl
@[simp] theorem State.setCtx_warpAt (k : Nat) (x : Context) (j : Nat) : (s.setCtx k x).warp j = s.warp j := rfl
@[simp] theorem State.setCtx_blockAt (k : Nat) (x : Context) (j : Nat) : (s.setCtx k x).block j = s.block j := rfl
@[simp] theorem State.setCtx_coreAt (k : Nat) (x : Context) (j : Nat) : (s.setCtx k x).core j = s.core j := rfl
@[simp] theorem State.setCtx_clusterAt (k : Nat) (x : Context) (j : Nat) : (s.setCtx k x).cluster j = s.cluster j := rfl
@[simp] theorem State.setCtx_launchAt (k : Nat) (x : Context) (j : Nat) : (s.setCtx k x).launch j = s.launch j := rfl
@[simp] theorem State.setCtx_queueAt (k : Nat) (x : Context) (j : Nat) : (s.setCtx k x).queue j = s.queue j := rfl
@[simp] theorem State.setCtx_portAt (k : Nat) (x : Context) (j : Nat) : (s.setCtx k x).port j = s.port j := rfl
@[simp] theorem State.setCtx_frameAt (k : Nat) (x : Context) (j : Nat) : (s.setCtx k x).frame j = s.frame j := rfl

/-! ### setPort -/

@[simp] theorem State.setPort_clk (k : Nat) (x : Port) : (s.setPort k x).clk = s.clk := rfl
@[simp] theorem State.setPort_draws (k : Nat) (x : Port) : (s.setPort k x).draws = s.draws := rfl
@[simp] theorem State.setPort_agenda (k : Nat) (x : Port) : (s.setPort k x).agenda = s.agenda := rfl
@[simp] theorem State.setPort_cur (k : Nat) (x : Port) : (s.setPort k x).cur = s.cur := rfl
@[simp] theorem State.setPort_ray (k : Nat) (x : Port) : (s.setPort k x).ray = s.ray := rfl
@[simp] theorem State.setPort_mem (k : Nat) (x : Port) : (s.setPort k x).mem = s.mem := rfl
@[simp] theorem State.setPort_hostMem (k : Nat) (x : Port) : (s.setPort k x).hostMem = s.hostMem := rfl
@[simp] theorem State.setPort_warps (k : Nat) (x : Port) : (s.setPort k x).warps = s.warps := rfl
@[simp] theorem State.setPort_blocks (k : Nat) (x : Port) : (s.setPort k x).blocks = s.blocks := rfl
@[simp] theorem State.setPort_saved (k : Nat) (x : Port) : (s.setPort k x).saved = s.saved := rfl
@[simp] theorem State.setPort_cores (k : Nat) (x : Port) : (s.setPort k x).cores = s.cores := rfl
@[simp] theorem State.setPort_clusters (k : Nat) (x : Port) : (s.setPort k x).clusters = s.clusters := rfl
@[simp] theorem State.setPort_sliceLoss (k : Nat) (x : Port) : (s.setPort k x).sliceLoss = s.sliceLoss := rfl
@[simp] theorem State.setPort_segs (k : Nat) (x : Port) : (s.setPort k x).segs = s.segs := rfl
@[simp] theorem State.setPort_launches (k : Nat) (x : Port) : (s.setPort k x).launches = s.launches := rfl
@[simp] theorem State.setPort_queues (k : Nat) (x : Port) : (s.setPort k x).queues = s.queues := rfl
@[simp] theorem State.setPort_ctxs (k : Nat) (x : Port) : (s.setPort k x).ctxs = s.ctxs := rfl
@[simp] theorem State.setPort_frames (k : Nat) (x : Port) : (s.setPort k x).frames = s.frames := rfl
@[simp] theorem State.setPort_tags (k : Nat) (x : Port) : (s.setPort k x).tags = s.tags := rfl
@[simp] theorem State.setPort_rowErrors (k : Nat) (x : Port) : (s.setPort k x).rowErrors = s.rowErrors := rfl
@[simp] theorem State.setPort_spares (k : Nat) (x : Port) : (s.setPort k x).spares = s.spares := rfl
@[simp] theorem State.setPort_ext (k : Nat) (x : Port) : (s.setPort k x).ext = s.ext := rfl
@[simp] theorem State.setPort_extNext (k : Nat) (x : Port) : (s.setPort k x).extNext = s.extNext := rfl
@[simp] theorem State.setPort_sent (k : Nat) (x : Port) : (s.setPort k x).sent = s.sent := rfl
@[simp] theorem State.setPort_collectives (k : Nat) (x : Port) : (s.setPort k x).collectives = s.collectives := rfl
@[simp] theorem State.setPort_prims (k : Nat) (x : Port) : (s.setPort k x).prims = s.prims := rfl
@[simp] theorem State.setPort_marks (k : Nat) (x : Port) : (s.setPort k x).marks = s.marks := rfl
@[simp] theorem State.setPort_msix (k : Nat) (x : Port) : (s.setPort k x).msix = s.msix := rfl
@[simp] theorem State.setPort_completions (k : Nat) (x : Port) : (s.setPort k x).completions = s.completions := rfl
@[simp] theorem State.setPort_mss (k : Nat) (x : Port) : (s.setPort k x).mss = s.mss := rfl
@[simp] theorem State.setPort_launchNext (k : Nat) (x : Port) : (s.setPort k x).launchNext = s.launchNext := rfl
@[simp] theorem State.setPort_savedNext (k : Nat) (x : Port) : (s.setPort k x).savedNext = s.savedNext := rfl
@[simp] theorem State.setPort_oldCode (k : Nat) (x : Port) : (s.setPort k x).oldCode = s.oldCode := rfl
@[simp] theorem State.setPort_outbox (k : Nat) (x : Port) : (s.setPort k x).outbox = s.outbox := rfl
@[simp] theorem State.setPort_warpAt (k : Nat) (x : Port) (j : Nat) : (s.setPort k x).warp j = s.warp j := rfl
@[simp] theorem State.setPort_blockAt (k : Nat) (x : Port) (j : Nat) : (s.setPort k x).block j = s.block j := rfl
@[simp] theorem State.setPort_coreAt (k : Nat) (x : Port) (j : Nat) : (s.setPort k x).core j = s.core j := rfl
@[simp] theorem State.setPort_clusterAt (k : Nat) (x : Port) (j : Nat) : (s.setPort k x).cluster j = s.cluster j := rfl
@[simp] theorem State.setPort_launchAt (k : Nat) (x : Port) (j : Nat) : (s.setPort k x).launch j = s.launch j := rfl
@[simp] theorem State.setPort_queueAt (k : Nat) (x : Port) (j : Nat) : (s.setPort k x).queue j = s.queue j := rfl
@[simp] theorem State.setPort_ctxAt (k : Nat) (x : Port) (j : Nat) : (s.setPort k x).ctx j = s.ctx j := rfl
@[simp] theorem State.setPort_frameAt (k : Nat) (x : Port) (j : Nat) : (s.setPort k x).frame j = s.frame j := rfl

/-! ### setFrame -/

@[simp] theorem State.setFrame_clk (k : Nat) (x : FrameInfo) : (s.setFrame k x).clk = s.clk := rfl
@[simp] theorem State.setFrame_draws (k : Nat) (x : FrameInfo) : (s.setFrame k x).draws = s.draws := rfl
@[simp] theorem State.setFrame_agenda (k : Nat) (x : FrameInfo) : (s.setFrame k x).agenda = s.agenda := rfl
@[simp] theorem State.setFrame_cur (k : Nat) (x : FrameInfo) : (s.setFrame k x).cur = s.cur := rfl
@[simp] theorem State.setFrame_ray (k : Nat) (x : FrameInfo) : (s.setFrame k x).ray = s.ray := rfl
@[simp] theorem State.setFrame_mem (k : Nat) (x : FrameInfo) : (s.setFrame k x).mem = s.mem := rfl
@[simp] theorem State.setFrame_hostMem (k : Nat) (x : FrameInfo) : (s.setFrame k x).hostMem = s.hostMem := rfl
@[simp] theorem State.setFrame_warps (k : Nat) (x : FrameInfo) : (s.setFrame k x).warps = s.warps := rfl
@[simp] theorem State.setFrame_blocks (k : Nat) (x : FrameInfo) : (s.setFrame k x).blocks = s.blocks := rfl
@[simp] theorem State.setFrame_saved (k : Nat) (x : FrameInfo) : (s.setFrame k x).saved = s.saved := rfl
@[simp] theorem State.setFrame_cores (k : Nat) (x : FrameInfo) : (s.setFrame k x).cores = s.cores := rfl
@[simp] theorem State.setFrame_clusters (k : Nat) (x : FrameInfo) : (s.setFrame k x).clusters = s.clusters := rfl
@[simp] theorem State.setFrame_sliceLoss (k : Nat) (x : FrameInfo) : (s.setFrame k x).sliceLoss = s.sliceLoss := rfl
@[simp] theorem State.setFrame_segs (k : Nat) (x : FrameInfo) : (s.setFrame k x).segs = s.segs := rfl
@[simp] theorem State.setFrame_launches (k : Nat) (x : FrameInfo) : (s.setFrame k x).launches = s.launches := rfl
@[simp] theorem State.setFrame_queues (k : Nat) (x : FrameInfo) : (s.setFrame k x).queues = s.queues := rfl
@[simp] theorem State.setFrame_ctxs (k : Nat) (x : FrameInfo) : (s.setFrame k x).ctxs = s.ctxs := rfl
@[simp] theorem State.setFrame_tags (k : Nat) (x : FrameInfo) : (s.setFrame k x).tags = s.tags := rfl
@[simp] theorem State.setFrame_rowErrors (k : Nat) (x : FrameInfo) : (s.setFrame k x).rowErrors = s.rowErrors := rfl
@[simp] theorem State.setFrame_spares (k : Nat) (x : FrameInfo) : (s.setFrame k x).spares = s.spares := rfl
@[simp] theorem State.setFrame_ports (k : Nat) (x : FrameInfo) : (s.setFrame k x).ports = s.ports := rfl
@[simp] theorem State.setFrame_ext (k : Nat) (x : FrameInfo) : (s.setFrame k x).ext = s.ext := rfl
@[simp] theorem State.setFrame_extNext (k : Nat) (x : FrameInfo) : (s.setFrame k x).extNext = s.extNext := rfl
@[simp] theorem State.setFrame_sent (k : Nat) (x : FrameInfo) : (s.setFrame k x).sent = s.sent := rfl
@[simp] theorem State.setFrame_collectives (k : Nat) (x : FrameInfo) : (s.setFrame k x).collectives = s.collectives := rfl
@[simp] theorem State.setFrame_prims (k : Nat) (x : FrameInfo) : (s.setFrame k x).prims = s.prims := rfl
@[simp] theorem State.setFrame_marks (k : Nat) (x : FrameInfo) : (s.setFrame k x).marks = s.marks := rfl
@[simp] theorem State.setFrame_msix (k : Nat) (x : FrameInfo) : (s.setFrame k x).msix = s.msix := rfl
@[simp] theorem State.setFrame_completions (k : Nat) (x : FrameInfo) : (s.setFrame k x).completions = s.completions := rfl
@[simp] theorem State.setFrame_mss (k : Nat) (x : FrameInfo) : (s.setFrame k x).mss = s.mss := rfl
@[simp] theorem State.setFrame_launchNext (k : Nat) (x : FrameInfo) : (s.setFrame k x).launchNext = s.launchNext := rfl
@[simp] theorem State.setFrame_savedNext (k : Nat) (x : FrameInfo) : (s.setFrame k x).savedNext = s.savedNext := rfl
@[simp] theorem State.setFrame_oldCode (k : Nat) (x : FrameInfo) : (s.setFrame k x).oldCode = s.oldCode := rfl
@[simp] theorem State.setFrame_outbox (k : Nat) (x : FrameInfo) : (s.setFrame k x).outbox = s.outbox := rfl
@[simp] theorem State.setFrame_warpAt (k : Nat) (x : FrameInfo) (j : Nat) : (s.setFrame k x).warp j = s.warp j := rfl
@[simp] theorem State.setFrame_blockAt (k : Nat) (x : FrameInfo) (j : Nat) : (s.setFrame k x).block j = s.block j := rfl
@[simp] theorem State.setFrame_coreAt (k : Nat) (x : FrameInfo) (j : Nat) : (s.setFrame k x).core j = s.core j := rfl
@[simp] theorem State.setFrame_clusterAt (k : Nat) (x : FrameInfo) (j : Nat) : (s.setFrame k x).cluster j = s.cluster j := rfl
@[simp] theorem State.setFrame_launchAt (k : Nat) (x : FrameInfo) (j : Nat) : (s.setFrame k x).launch j = s.launch j := rfl
@[simp] theorem State.setFrame_queueAt (k : Nat) (x : FrameInfo) (j : Nat) : (s.setFrame k x).queue j = s.queue j := rfl
@[simp] theorem State.setFrame_ctxAt (k : Nat) (x : FrameInfo) (j : Nat) : (s.setFrame k x).ctx j = s.ctx j := rfl
@[simp] theorem State.setFrame_portAt (k : Nat) (x : FrameInfo) (j : Nat) : (s.setFrame k x).port j = s.port j := rfl

/-! ### setSeg -/

@[simp] theorem State.setSeg_clk (k : Nat) (x : Segment) : (s.setSeg k x).clk = s.clk := rfl
@[simp] theorem State.setSeg_draws (k : Nat) (x : Segment) : (s.setSeg k x).draws = s.draws := rfl
@[simp] theorem State.setSeg_agenda (k : Nat) (x : Segment) : (s.setSeg k x).agenda = s.agenda := rfl
@[simp] theorem State.setSeg_cur (k : Nat) (x : Segment) : (s.setSeg k x).cur = s.cur := rfl
@[simp] theorem State.setSeg_ray (k : Nat) (x : Segment) : (s.setSeg k x).ray = s.ray := rfl
@[simp] theorem State.setSeg_mem (k : Nat) (x : Segment) : (s.setSeg k x).mem = s.mem := rfl
@[simp] theorem State.setSeg_hostMem (k : Nat) (x : Segment) : (s.setSeg k x).hostMem = s.hostMem := rfl
@[simp] theorem State.setSeg_warps (k : Nat) (x : Segment) : (s.setSeg k x).warps = s.warps := rfl
@[simp] theorem State.setSeg_blocks (k : Nat) (x : Segment) : (s.setSeg k x).blocks = s.blocks := rfl
@[simp] theorem State.setSeg_saved (k : Nat) (x : Segment) : (s.setSeg k x).saved = s.saved := rfl
@[simp] theorem State.setSeg_cores (k : Nat) (x : Segment) : (s.setSeg k x).cores = s.cores := rfl
@[simp] theorem State.setSeg_clusters (k : Nat) (x : Segment) : (s.setSeg k x).clusters = s.clusters := rfl
@[simp] theorem State.setSeg_sliceLoss (k : Nat) (x : Segment) : (s.setSeg k x).sliceLoss = s.sliceLoss := rfl
@[simp] theorem State.setSeg_launches (k : Nat) (x : Segment) : (s.setSeg k x).launches = s.launches := rfl
@[simp] theorem State.setSeg_queues (k : Nat) (x : Segment) : (s.setSeg k x).queues = s.queues := rfl
@[simp] theorem State.setSeg_ctxs (k : Nat) (x : Segment) : (s.setSeg k x).ctxs = s.ctxs := rfl
@[simp] theorem State.setSeg_frames (k : Nat) (x : Segment) : (s.setSeg k x).frames = s.frames := rfl
@[simp] theorem State.setSeg_tags (k : Nat) (x : Segment) : (s.setSeg k x).tags = s.tags := rfl
@[simp] theorem State.setSeg_rowErrors (k : Nat) (x : Segment) : (s.setSeg k x).rowErrors = s.rowErrors := rfl
@[simp] theorem State.setSeg_spares (k : Nat) (x : Segment) : (s.setSeg k x).spares = s.spares := rfl
@[simp] theorem State.setSeg_ports (k : Nat) (x : Segment) : (s.setSeg k x).ports = s.ports := rfl
@[simp] theorem State.setSeg_ext (k : Nat) (x : Segment) : (s.setSeg k x).ext = s.ext := rfl
@[simp] theorem State.setSeg_extNext (k : Nat) (x : Segment) : (s.setSeg k x).extNext = s.extNext := rfl
@[simp] theorem State.setSeg_sent (k : Nat) (x : Segment) : (s.setSeg k x).sent = s.sent := rfl
@[simp] theorem State.setSeg_collectives (k : Nat) (x : Segment) : (s.setSeg k x).collectives = s.collectives := rfl
@[simp] theorem State.setSeg_prims (k : Nat) (x : Segment) : (s.setSeg k x).prims = s.prims := rfl
@[simp] theorem State.setSeg_marks (k : Nat) (x : Segment) : (s.setSeg k x).marks = s.marks := rfl
@[simp] theorem State.setSeg_msix (k : Nat) (x : Segment) : (s.setSeg k x).msix = s.msix := rfl
@[simp] theorem State.setSeg_completions (k : Nat) (x : Segment) : (s.setSeg k x).completions = s.completions := rfl
@[simp] theorem State.setSeg_mss (k : Nat) (x : Segment) : (s.setSeg k x).mss = s.mss := rfl
@[simp] theorem State.setSeg_launchNext (k : Nat) (x : Segment) : (s.setSeg k x).launchNext = s.launchNext := rfl
@[simp] theorem State.setSeg_savedNext (k : Nat) (x : Segment) : (s.setSeg k x).savedNext = s.savedNext := rfl
@[simp] theorem State.setSeg_oldCode (k : Nat) (x : Segment) : (s.setSeg k x).oldCode = s.oldCode := rfl
@[simp] theorem State.setSeg_outbox (k : Nat) (x : Segment) : (s.setSeg k x).outbox = s.outbox := rfl
@[simp] theorem State.setSeg_warpAt (k : Nat) (x : Segment) (j : Nat) : (s.setSeg k x).warp j = s.warp j := rfl
@[simp] theorem State.setSeg_blockAt (k : Nat) (x : Segment) (j : Nat) : (s.setSeg k x).block j = s.block j := rfl
@[simp] theorem State.setSeg_coreAt (k : Nat) (x : Segment) (j : Nat) : (s.setSeg k x).core j = s.core j := rfl
@[simp] theorem State.setSeg_clusterAt (k : Nat) (x : Segment) (j : Nat) : (s.setSeg k x).cluster j = s.cluster j := rfl
@[simp] theorem State.setSeg_launchAt (k : Nat) (x : Segment) (j : Nat) : (s.setSeg k x).launch j = s.launch j := rfl
@[simp] theorem State.setSeg_queueAt (k : Nat) (x : Segment) (j : Nat) : (s.setSeg k x).queue j = s.queue j := rfl
@[simp] theorem State.setSeg_ctxAt (k : Nat) (x : Segment) (j : Nat) : (s.setSeg k x).ctx j = s.ctx j := rfl
@[simp] theorem State.setSeg_portAt (k : Nat) (x : Segment) (j : Nat) : (s.setSeg k x).port j = s.port j := rfl
@[simp] theorem State.setSeg_frameAt (k : Nat) (x : Segment) (j : Nat) : (s.setSeg k x).frame j = s.frame j := rfl

/-! ### setMe -/

@[simp] theorem State.setMe_clk (x : Warp) : (s.setMe x).clk = s.clk := rfl
@[simp] theorem State.setMe_draws (x : Warp) : (s.setMe x).draws = s.draws := rfl
@[simp] theorem State.setMe_agenda (x : Warp) : (s.setMe x).agenda = s.agenda := rfl
@[simp] theorem State.setMe_cur (x : Warp) : (s.setMe x).cur = s.cur := rfl
@[simp] theorem State.setMe_ray (x : Warp) : (s.setMe x).ray = s.ray := rfl
@[simp] theorem State.setMe_mem (x : Warp) : (s.setMe x).mem = s.mem := rfl
@[simp] theorem State.setMe_hostMem (x : Warp) : (s.setMe x).hostMem = s.hostMem := rfl
@[simp] theorem State.setMe_blocks (x : Warp) : (s.setMe x).blocks = s.blocks := rfl
@[simp] theorem State.setMe_saved (x : Warp) : (s.setMe x).saved = s.saved := rfl
@[simp] theorem State.setMe_cores (x : Warp) : (s.setMe x).cores = s.cores := rfl
@[simp] theorem State.setMe_clusters (x : Warp) : (s.setMe x).clusters = s.clusters := rfl
@[simp] theorem State.setMe_sliceLoss (x : Warp) : (s.setMe x).sliceLoss = s.sliceLoss := rfl
@[simp] theorem State.setMe_segs (x : Warp) : (s.setMe x).segs = s.segs := rfl
@[simp] theorem State.setMe_launches (x : Warp) : (s.setMe x).launches = s.launches := rfl
@[simp] theorem State.setMe_queues (x : Warp) : (s.setMe x).queues = s.queues := rfl
@[simp] theorem State.setMe_ctxs (x : Warp) : (s.setMe x).ctxs = s.ctxs := rfl
@[simp] theorem State.setMe_frames (x : Warp) : (s.setMe x).frames = s.frames := rfl
@[simp] theorem State.setMe_tags (x : Warp) : (s.setMe x).tags = s.tags := rfl
@[simp] theorem State.setMe_rowErrors (x : Warp) : (s.setMe x).rowErrors = s.rowErrors := rfl
@[simp] theorem State.setMe_spares (x : Warp) : (s.setMe x).spares = s.spares := rfl
@[simp] theorem State.setMe_ports (x : Warp) : (s.setMe x).ports = s.ports := rfl
@[simp] theorem State.setMe_ext (x : Warp) : (s.setMe x).ext = s.ext := rfl
@[simp] theorem State.setMe_extNext (x : Warp) : (s.setMe x).extNext = s.extNext := rfl
@[simp] theorem State.setMe_sent (x : Warp) : (s.setMe x).sent = s.sent := rfl
@[simp] theorem State.setMe_collectives (x : Warp) : (s.setMe x).collectives = s.collectives := rfl
@[simp] theorem State.setMe_prims (x : Warp) : (s.setMe x).prims = s.prims := rfl
@[simp] theorem State.setMe_marks (x : Warp) : (s.setMe x).marks = s.marks := rfl
@[simp] theorem State.setMe_msix (x : Warp) : (s.setMe x).msix = s.msix := rfl
@[simp] theorem State.setMe_completions (x : Warp) : (s.setMe x).completions = s.completions := rfl
@[simp] theorem State.setMe_mss (x : Warp) : (s.setMe x).mss = s.mss := rfl
@[simp] theorem State.setMe_launchNext (x : Warp) : (s.setMe x).launchNext = s.launchNext := rfl
@[simp] theorem State.setMe_savedNext (x : Warp) : (s.setMe x).savedNext = s.savedNext := rfl
@[simp] theorem State.setMe_oldCode (x : Warp) : (s.setMe x).oldCode = s.oldCode := rfl
@[simp] theorem State.setMe_outbox (x : Warp) : (s.setMe x).outbox = s.outbox := rfl
@[simp] theorem State.setMe_blockAt (x : Warp) (j : Nat) : (s.setMe x).block j = s.block j := rfl
@[simp] theorem State.setMe_coreAt (x : Warp) (j : Nat) : (s.setMe x).core j = s.core j := rfl
@[simp] theorem State.setMe_clusterAt (x : Warp) (j : Nat) : (s.setMe x).cluster j = s.cluster j := rfl
@[simp] theorem State.setMe_launchAt (x : Warp) (j : Nat) : (s.setMe x).launch j = s.launch j := rfl
@[simp] theorem State.setMe_queueAt (x : Warp) (j : Nat) : (s.setMe x).queue j = s.queue j := rfl
@[simp] theorem State.setMe_ctxAt (x : Warp) (j : Nat) : (s.setMe x).ctx j = s.ctx j := rfl
@[simp] theorem State.setMe_portAt (x : Warp) (j : Nat) : (s.setMe x).port j = s.port j := rfl
@[simp] theorem State.setMe_frameAt (x : Warp) (j : Nat) : (s.setMe x).frame j = s.frame j := rfl

/-! ### signal -/

@[simp] theorem State.signal_clk (f v : Nat) : (s.signal f v).clk = s.clk := rfl
@[simp] theorem State.signal_draws (f v : Nat) : (s.signal f v).draws = s.draws := rfl
@[simp] theorem State.signal_agenda (f v : Nat) : (s.signal f v).agenda = s.agenda := rfl
@[simp] theorem State.signal_cur (f v : Nat) : (s.signal f v).cur = s.cur := rfl
@[simp] theorem State.signal_ray (f v : Nat) : (s.signal f v).ray = s.ray := rfl
@[simp] theorem State.signal_mem (f v : Nat) : (s.signal f v).mem = s.mem := rfl
@[simp] theorem State.signal_hostMem (f v : Nat) : (s.signal f v).hostMem = s.hostMem := rfl
@[simp] theorem State.signal_warps (f v : Nat) : (s.signal f v).warps = s.warps := rfl
@[simp] theorem State.signal_blocks (f v : Nat) : (s.signal f v).blocks = s.blocks := rfl
@[simp] theorem State.signal_saved (f v : Nat) : (s.signal f v).saved = s.saved := rfl
@[simp] theorem State.signal_cores (f v : Nat) : (s.signal f v).cores = s.cores := rfl
@[simp] theorem State.signal_clusters (f v : Nat) : (s.signal f v).clusters = s.clusters := rfl
@[simp] theorem State.signal_sliceLoss (f v : Nat) : (s.signal f v).sliceLoss = s.sliceLoss := rfl
@[simp] theorem State.signal_segs (f v : Nat) : (s.signal f v).segs = s.segs := rfl
@[simp] theorem State.signal_launches (f v : Nat) : (s.signal f v).launches = s.launches := rfl
@[simp] theorem State.signal_queues (f v : Nat) : (s.signal f v).queues = s.queues := rfl
@[simp] theorem State.signal_ctxs (f v : Nat) : (s.signal f v).ctxs = s.ctxs := rfl
@[simp] theorem State.signal_frames (f v : Nat) : (s.signal f v).frames = s.frames := rfl
@[simp] theorem State.signal_tags (f v : Nat) : (s.signal f v).tags = s.tags := rfl
@[simp] theorem State.signal_rowErrors (f v : Nat) : (s.signal f v).rowErrors = s.rowErrors := rfl
@[simp] theorem State.signal_spares (f v : Nat) : (s.signal f v).spares = s.spares := rfl
@[simp] theorem State.signal_ports (f v : Nat) : (s.signal f v).ports = s.ports := rfl
@[simp] theorem State.signal_ext (f v : Nat) : (s.signal f v).ext = s.ext := rfl
@[simp] theorem State.signal_extNext (f v : Nat) : (s.signal f v).extNext = s.extNext := rfl
@[simp] theorem State.signal_sent (f v : Nat) : (s.signal f v).sent = s.sent := rfl
@[simp] theorem State.signal_collectives (f v : Nat) : (s.signal f v).collectives = s.collectives := rfl
@[simp] theorem State.signal_prims (f v : Nat) : (s.signal f v).prims = s.prims := rfl
@[simp] theorem State.signal_marks (f v : Nat) : (s.signal f v).marks = s.marks := rfl
@[simp] theorem State.signal_completions (f v : Nat) : (s.signal f v).completions = s.completions := rfl
@[simp] theorem State.signal_mss (f v : Nat) : (s.signal f v).mss = s.mss := rfl
@[simp] theorem State.signal_launchNext (f v : Nat) : (s.signal f v).launchNext = s.launchNext := rfl
@[simp] theorem State.signal_savedNext (f v : Nat) : (s.signal f v).savedNext = s.savedNext := rfl
@[simp] theorem State.signal_oldCode (f v : Nat) : (s.signal f v).oldCode = s.oldCode := rfl
@[simp] theorem State.signal_outbox (f v : Nat) : (s.signal f v).outbox = s.outbox := rfl
@[simp] theorem State.signal_warpAt (f v : Nat) (j : Nat) : (s.signal f v).warp j = s.warp j := rfl
@[simp] theorem State.signal_blockAt (f v : Nat) (j : Nat) : (s.signal f v).block j = s.block j := rfl
@[simp] theorem State.signal_coreAt (f v : Nat) (j : Nat) : (s.signal f v).core j = s.core j := rfl
@[simp] theorem State.signal_clusterAt (f v : Nat) (j : Nat) : (s.signal f v).cluster j = s.cluster j := rfl
@[simp] theorem State.signal_launchAt (f v : Nat) (j : Nat) : (s.signal f v).launch j = s.launch j := rfl
@[simp] theorem State.signal_queueAt (f v : Nat) (j : Nat) : (s.signal f v).queue j = s.queue j := rfl
@[simp] theorem State.signal_ctxAt (f v : Nat) (j : Nat) : (s.signal f v).ctx j = s.ctx j := rfl
@[simp] theorem State.signal_portAt (f v : Nat) (j : Nat) : (s.signal f v).port j = s.port j := rfl
@[simp] theorem State.signal_frameAt (f v : Nat) (j : Nat) : (s.signal f v).frame j = s.frame j := rfl

/-! ### Reads of what was written -/

@[simp] theorem State.warp_setWarp_same (k : Nat) (x : Warp) : (s.setWarp k x).warp k = x := Map.getD_set_same _ _ _ _
theorem State.warp_setWarp_other (k j : Nat) (x : Warp) (h : j ≠ k) : (s.setWarp k x).warp j = s.warp j :=
  Map.getD_set_other _ _ _ _ _ h
@[simp] theorem State.block_setBlock_same (k : Nat) (x : Block) : (s.setBlock k x).block k = x := Map.getD_set_same _ _ _ _
theorem State.block_setBlock_other (k j : Nat) (x : Block) (h : j ≠ k) : (s.setBlock k x).block j = s.block j :=
  Map.getD_set_other _ _ _ _ _ h
@[simp] theorem State.launch_setLaunch_same (k : Nat) (x : Launch) : (s.setLaunch k x).launch k = x := Map.getD_set_same _ _ _ _
theorem State.launch_setLaunch_other (k j : Nat) (x : Launch) (h : j ≠ k) : (s.setLaunch k x).launch j = s.launch j :=
  Map.getD_set_other _ _ _ _ _ h
@[simp] theorem State.core_setCore_same (k : Nat) (x : Core) : (s.setCore k x).core k = x := Map.getD_put_same _ _ _ _
theorem State.core_setCore_other (k j : Nat) (x : Core) (h : j ≠ k) : (s.setCore k x).core j = s.core j :=
  Map.getD_put_other _ _ _ _ _ h
@[simp] theorem State.cluster_setCluster_same (k : Nat) (x : Cluster) : (s.setCluster k x).cluster k = x := Map.getD_put_same _ _ _ _
theorem State.cluster_setCluster_other (k j : Nat) (x : Cluster) (h : j ≠ k) : (s.setCluster k x).cluster j = s.cluster j :=
  Map.getD_put_other _ _ _ _ _ h
@[simp] theorem State.queue_setQueue_same (k : Nat) (x : Queue) : (s.setQueue k x).queue k = x := Map.getD_put_same _ _ _ _
theorem State.queue_setQueue_other (k j : Nat) (x : Queue) (h : j ≠ k) : (s.setQueue k x).queue j = s.queue j :=
  Map.getD_put_other _ _ _ _ _ h
@[simp] theorem State.ctx_setCtx_same (k : Nat) (x : Context) : (s.setCtx k x).ctx k = x := Map.getD_put_same _ _ _ _
theorem State.ctx_setCtx_other (k j : Nat) (x : Context) (h : j ≠ k) : (s.setCtx k x).ctx j = s.ctx j :=
  Map.getD_put_other _ _ _ _ _ h
@[simp] theorem State.port_setPort_same (k : Nat) (x : Port) : (s.setPort k x).port k = x := Map.getD_put_same _ _ _ _
theorem State.port_setPort_other (k j : Nat) (x : Port) (h : j ≠ k) : (s.setPort k x).port j = s.port j :=
  Map.getD_put_other _ _ _ _ _ h
@[simp] theorem State.frame_setFrame_same (k : Nat) (x : FrameInfo) : (s.setFrame k x).frame k = x := Map.getD_put_same _ _ _ _
theorem State.frame_setFrame_other (k j : Nat) (x : FrameInfo) (h : j ≠ k) : (s.setFrame k x).frame j = s.frame j :=
  Map.getD_put_other _ _ _ _ _ h

@[simp] theorem State.me_setMe (w : Warp) : (s.setMe w).me = w := Map.getD_set_same _ _ _ _

/-- Every other warp stays as it is. -/
theorem State.setMe_warp_other (w : Warp) (k : Nat) (h : k ≠ s.cur.slot) : (s.setMe w).warp k = s.warp k :=
  State.warp_setWarp_other s _ _ _ h

end Sys2Proof.Machine
end

