-- ==== Sys2Proof/Laws/Ops.lean ====
section
/-! SUPPORT. What the shared operations do: gates, results, and the instruction of the ordinary form. -/

namespace Sys2Proof.Machine

/-! ### Bits of lane masks -/

theorem LaneMask.getLsbD_of (p : Fin 32 → Bool) (l : Fin 32) : (LaneMask.of p).getLsbD l.val = p l := by
  change BitVec.getLsbD (w := ((List.finRange 32).map p).length) (BitVec.ofBoolListLE ((List.finRange 32).map p)) l.val = p l
  rw [BitVec.getLsbD_ofBoolListLE]
  simp

/-! ### Gates -/

@[simp] theorem Gate.and_go (b : Gate) : Gate.and .go b = b := rfl

@[simp] theorem Gate.and_go_right (a : Gate) : a.and .go = a := by cases a <;> rfl

theorem Gate.trapIf_false (c d : Nat) : Gate.trapIf false c d = .go := rfl

theorem Warp.sourceGate_go (w : Warp) (us : List Use) (h : ∀ u ∈ us, w.full u.n = true) : w.sourceGate us = .go := by
  induction us with
  | nil => rfl
  | cons u us ih =>
    rw [Warp.sourceGate, if_pos (h u (by simp))]
    exact ih fun v hv => h v (by simp [hv])

/-- The sources of a ready instruction let it go on. -/
theorem Ready.readGate {s : State} {W : LaneMask} {scalar : Bool} {us : List Use} {dests : List Nat}
    (h : Ready s W scalar us dests) : s.readGate scalar us = .go := by
  unfold State.readGate
  rw [Warp.sourceGate_go _ _ h.sources]
  cases hs : scalar with
  | false => rfl
  | true => simp [Gate.trapIf, h.converged hs]

/-- Its destinations too. -/
theorem Ready.destGate {s : State} {W : LaneMask} {scalar : Bool} {us : List Use} {dests : List Nat}
    (h : Ready s W scalar us dests) : s.destGate W us dests = .go := by
  unfold State.destGate
  rw [if_pos (List.all_eq_true.mpr h.targets), h.peak]

/-! ### General slots -/

theorem Map.filter_ins {α : Type} (m : List (Nat × α)) (k : Nat) (v : α) (p : Nat × α → Bool) :
    ((Map.ins m k v).filter p).length = (m.filter p).length + if p (k, v) then 1 else 0 := by
  induction m with
  | nil => by_cases h : p (k, v) <;> simp [Map.ins, h]
  | cons q m ih =>
    simp only [Map.ins]
    split
    · by_cases h : p (k, v) <;> simp [h]
    · by_cases h : p q <;> simp [h, ih]; omega

theorem Map.filter_put_le {α : Type} [DecidableEq α] (m : List (Nat × α)) (k : Nat) (v d : α) (p : Nat × α → Bool) :
    ((Map.put m k v d).filter p).length ≤ (m.filter p).length + 1 := by
  have h1 : ((Map.erase m k).filter p).length ≤ (m.filter p).length := by
    unfold Map.erase
    rw [List.filter_filter]
    exact (List.monotone_filter_right m fun q => by simp (config := { contextual := true })).length_le
  unfold Map.put
  split
  · omega
  · rw [Map.set, Map.filter_ins]; split <;> omega

theorem Warp.gHeld_setVreg (w : Warp) (n : Nat) (r : VReg) : (w.setVreg n r).gHeld ≤ w.gHeld + 1 :=
  Map.filter_put_le _ _ _ _ _

theorem State.gHeld_storeRegs (s : State) (w : Warp) (W live : LaneMask) (e : Effect) :
    (s.storeRegs w W live e).gHeld ≤ w.gHeld + e.regs.length := by
  unfold State.storeRegs
  generalize e.regs = rs
  induction rs generalizing w with
  | nil => simp
  | cons r rs ih =>
    simp only [List.foldl_cons, List.length_cons]
    refine (ih _).trans ?_
    have := Warp.gHeld_setVreg w r.1 ⟨(w.vreg r.1).st.write r.2 W (W == live) e.expand
      (s.compactFree s.cur.slot (w.setVreg r.1 ⟨.n, (w.vreg r.1).pend⟩)), (w.vreg r.1).pend⟩
    exact (Nat.add_le_add_right this _).trans (by omega)

/-- Fewer slots fit where more do (R25). -/
theorem State.slotsFor_mono (s : State) (slot : Nat) (w : Warp) (j k : Nat) (h : j ≤ k) (hk : s.slotsFor slot w k = true) :
    s.slotsFor slot w j = true := by
  unfold State.slotsFor at *
  simp only [Bool.or_eq_true, Bool.and_eq_true, decide_eq_true_eq, beq_iff_eq] at *
  rcases hk with hk | hk
  · left; omega
  · by_cases hj : j = 0
    · exact .inl hj
    · refine .inr ⟨by omega, ?_⟩
      rcases hk.2 with h2 | h2
      · exact .inl h2
      · right; omega

/-! ### Shapes and writes (R17, R20, R21) -/

@[simp] theorem Lanes.of_get (f : Fin 32 → Word) (l : Fin 32) : (Lanes.of f)[l.val] = f l := by
  unfold Lanes.of
  simp

@[simp] theorem Storage.lane_u (x : Word) (l : Fin 32) : (Storage.u x).lane l = x := rfl

@[simp] theorem Storage.lane_g (v : Lanes) (l : Fin 32) : (Storage.g v).lane l = v[l.val] := rfl

@[simp] theorem Storage.lanes_get (st : Storage) (l : Fin 32) : st.lanes[l.val] = st.lane l := by
  unfold Storage.lanes
  simp

/-- An affine result holds base and stride by lane, whichever tag it takes (R92). -/
@[simp] theorem Storage.lane_ofAffine (b t : Word) (l : Fin 32) :
    (Storage.ofAffine b t).lane l = b + BitVec.ofNat 32 l.val * t := by
  unfold Storage.ofAffine
  split
  · rename_i h; simp [h]
  · rfl

/-- Recovery changes no lane (R21). -/
theorem lane_recover (v : Lanes) (l : Fin 32) : (recover v).lane l = v[l.val] := by
  unfold recover
  dsimp only
  split
  · rename_i h
    have hall : ∀ k : Fin 31, v[k.val + 1] - v[k.val] = v[1] - v[0] := fun k => by
      simpa using List.all_eq_true.mp h k (List.mem_finRange k)
    rw [Storage.lane_ofAffine]
    have : ∀ k (hk : k < 32), v[k] = v[0] + BitVec.ofNat 32 k * (v[1] - v[0]) := by
      intro k
      induction k with
      | zero => intro _; simp
      | succ k ih =>
        intro hk
        have e := hall ⟨k, by omega⟩
        have e' := ih (by omega)
        have : v[k + 1] = v[k] + (v[1] - v[0]) := by rw [← e]; simp
        rw [this, e', BitVec.ofNat_add, BitVec.add_mul, BitVec.add_assoc, BitVec.one_mul]
    exact (this l.val l.isLt).symm
  · rfl

/-- What a write leaves in a lane (R20): the new value where the lane is written, else the old one. A write of every live
thread says nothing about the lanes without one. -/
theorem Storage.lane_write (old new : Storage) (W : LaneMask) (whole expand compact : Bool) (l : Fin 32)
    (h : whole = true → W.getLsbD l.val = true) :
    (old.write new W whole expand compact).lane l = if W.getLsbD l.val then new.lane l else old.lane l := by
  unfold Storage.write
  split
  · rename_i hW; simp [hW]
  · split
    · rename_i hw
      rw [h hw, if_pos rfl]
      have key : ∀ s : Storage, s.lane l = new.lane l →
          (if (s.isCompact && !compact) = true then Storage.g s.lanes else s).lane l = new.lane l := by
        intro s hs
        split <;> simp [hs]
      dsimp only
      refine key _ ?_
      split
      · split
        · exact lane_recover _ _
        · rfl
      · rfl
    · simp

/-! ### Registers -/

@[simp] theorem Warp.vreg_setVreg_same (w : Warp) (n : Nat) (r : VReg) : (w.setVreg n r).vreg n = r :=
  Map.getD_put_same _ _ _ _

theorem Warp.vreg_setVreg_other (w : Warp) (n k : Nat) (r : VReg) (h : k ≠ n) : (w.setVreg n r).vreg k = w.vreg k :=
  Map.getD_put_other _ _ _ _ _ h

/-- Freed registers are empty and full; others are as before (R27). -/
theorem Warp.vreg_free (w : Warp) (rs : List Nat) (n : Nat) :
    (w.free rs).vreg n = if n ∈ rs then ⟨.n, 0⟩ else w.vreg n := by
  unfold Warp.free
  induction rs generalizing w with
  | nil => simp
  | cons r rs ih =>
    rw [List.foldl_cons, ih]
    by_cases h : n ∈ rs
    · simp [h]
    · by_cases hr : n = r
      · simp [hr]
      · simp [h, hr, Warp.vreg_setVreg_other _ _ _ _ hr]

/-- Freeing changes the vector registers alone. -/
theorem Warp.free_rest (w : Warp) (rs : List Nat) : w.free rs = { w with vregs := (w.free rs).vregs } := by
  unfold Warp.free
  induction rs generalizing w with
  | nil => rfl
  | cons r rs ih => rw [List.foldl_cons, ih]; rfl

theorem State.storeReg_rest (s : State) (slot : Nat) (w : Warp) (W : LaneMask) (whole expand : Bool) (d : Nat) (st : Storage) :
    s.storeReg slot w W whole expand d st = { w with vregs := (s.storeReg slot w W whole expand d st).vregs } := rfl

theorem State.storeRegs_rest (s : State) (w : Warp) (W live : LaneMask) (e : Effect) :
    s.storeRegs w W live e = { w with vregs := (s.storeRegs w W live e).vregs } := by
  unfold State.storeRegs
  generalize e.regs = rs
  induction rs generalizing w with
  | nil => rfl
  | cons r rs ih => rw [List.foldl_cons, ih, State.storeReg_rest]

/-- A register that an effect does not name. -/
theorem State.vreg_storeRegs_other (s : State) (w : Warp) (W live : LaneMask) (e : Effect) (n : Nat)
    (h : n ∉ e.regs.map Prod.fst) : (s.storeRegs w W live e).vreg n = w.vreg n := by
  unfold State.storeRegs
  revert h
  generalize e.regs = rs
  intro h
  induction rs generalizing w with
  | nil => rfl
  | cons r rs ih =>
    simp only [List.map_cons, List.mem_cons, not_or] at h
    rw [List.foldl_cons, ih _ h.2]
    exact Warp.vreg_setVreg_other _ _ _ _ h.1

/-- A register that an effect writes, in a LIVE thread (R20). -/
theorem State.vreg_storeRegs_same (s : State) (w : Warp) (W live : LaneMask) (e : Effect) (r : Nat × Storage)
    (hn : (e.regs.map Prod.fst).Nodup) (hr : r ∈ e.regs) :
    ((s.storeRegs w W live e).vreg r.1).pend = (w.vreg r.1).pend ∧
    ∀ l : Fin 32, live.getLsbD l.val = true → ((s.storeRegs w W live e).vreg r.1).st.lane l =
      if W.getLsbD l.val then r.2.lane l else (w.vreg r.1).st.lane l := by
  unfold State.storeRegs
  revert hn hr
  generalize e.regs = rs
  intro hn hr
  induction rs generalizing w with
  | nil => cases hr
  | cons q rs ih =>
    simp only [List.map_cons, List.nodup_cons] at hn
    rw [List.foldl_cons]
    rcases List.mem_cons.mp hr with rfl | hr
    · have := State.vreg_storeRegs_other s (s.storeReg s.cur.slot w W (W == live) e.expand r.1 r.2) W live
        { e with regs := rs } r.1 hn.1
      unfold State.storeRegs at this
      rw [show (rs.foldl (fun w r => s.storeReg s.cur.slot w W (W == live) e.expand r.1 r.2)
        (s.storeReg s.cur.slot w W (W == live) e.expand r.1 r.2)).vreg r.1 = _ from this]
      unfold State.storeReg
      rw [Warp.vreg_setVreg_same]
      refine ⟨rfl, fun l hl => Storage.lane_write _ _ _ _ _ _ _ fun hw => ?_⟩
      rw [eq_of_beq hw]; exact hl
    · have hne : r.1 ≠ q.1 := fun e => hn.1 (e ▸ List.mem_map_of_mem hr)
      have hv : (s.storeReg s.cur.slot w W (W == live) e.expand q.1 q.2).vreg r.1 = w.vreg r.1 :=
        Warp.vreg_setVreg_other _ _ _ _ hne
      have := ih (s.storeReg s.cur.slot w W (W == live) e.expand q.1 q.2) hn.2 hr
      rw [hv] at this
      exact this

/-- What a write leaves in a predicate register (R20, R30). -/
theorem PReg.bits_write (old : PReg) (W live : LaneMask) (r : PResult) (l : Fin 32) (hl : live.getLsbD l.val = true) :
    (old.write W live r).bits.getLsbD l.val = if W.getLsbD l.val then r.bits.getLsbD l.val else old.bits.getLsbD l.val := by
  unfold PReg.write
  split
  · rename_i h; simp [h]
  · split
    · rename_i h; simp [h, hl]
    · cases h : W.getLsbD l.val <;> simp_all

theorem Warp.preg_setPred_same (w : Warp) (q : Nat) (p : PReg) (h : q < 7) : (w.setPred q p).preg q = p := by
  simp [Warp.setPred, Warp.preg, h]

theorem Warp.preg_setPred_other (w : Warp) (q k : Nat) (p : PReg) (h : k ≠ q) : (w.setPred q p).preg k = w.preg k := by
  unfold Warp.setPred
  split
  · unfold Warp.preg
    split
    · rw [Vector.getElem_set_ne _ _ (fun e => h e.symm)]
    · rfl
  · rfl

theorem Warp.pred_eq (w : Warp) (q : Nat) : w.pred q = (w.preg q).bits := by
  unfold Warp.pred Warp.preg; split <;> rfl

theorem Warp.sreg_setSreg (w : Warp) (n k : Nat) (x : Word) (h : k < 24) :
    (w.setSreg n x).sreg k = if k = n then x else w.sreg k := by
  unfold Warp.setSreg
  split
  · unfold Warp.sreg
    simp only [h, dif_pos]
    rw [Vector.getElem_set]
    simp [eq_comm]
  · rw [if_neg (by omega)]

theorem Warp.breg_setBreg (w : Warp) (n k : Nat) (x : Record) (h : k < 16) :
    (w.setBreg n x).breg k = if k = n then x else w.breg k := by
  unfold Warp.setBreg
  split
  · unfold Warp.breg
    simp only [h, dif_pos]
    rw [Vector.getElem_set]
    simp [eq_comm]
  · rw [if_neg (by omega)]

theorem Warp.setPred_rest (w : Warp) (q : Nat) (p : PReg) : w.setPred q p = { w with pregs := (w.setPred q p).pregs } := by
  unfold Warp.setPred; split <;> rfl

theorem Warp.setSreg_rest (w : Warp) (n : Nat) (x : Word) : w.setSreg n x = { w with sregs := (w.setSreg n x).sregs } := by
  unfold Warp.setSreg; split <;> rfl

theorem Warp.setBreg_rest (w : Warp) (n : Nat) (x : Record) : w.setBreg n x = { w with bregs := (w.setBreg n x).bregs } := by
  unfold Warp.setBreg; split <;> rfl

/-- The predicate that an effect writes. -/
theorem Warp.writeOthers_eq (w : Warp) (W live : LaneMask) (e : Effect) :
    w.writeOthers W live e =
      { w with
        pregs := (w.writeOthers W live e).pregs
        sregs := (w.writeOthers W live e).sregs
        bregs := (w.writeOthers W live e).bregs } := by
  obtain ⟨regs, expand, pred, sreg, breg, flags⟩ := e
  cases pred <;> cases sreg <;> cases breg <;> simp only [Warp.writeOthers] <;> split <;>
    simp [Warp.setPred, Warp.setSreg, Warp.setBreg] <;> split_ifs <;> rfl

theorem Warp.preg_setSreg (w : Warp) (n q : Nat) (x : Word) : (w.setSreg n x).preg q = w.preg q := by
  unfold Warp.setSreg; split <;> rfl

theorem Warp.preg_setBreg (w : Warp) (n q : Nat) (x : Record) : (w.setBreg n x).preg q = w.preg q := by
  unfold Warp.setBreg; split <;> rfl

theorem Warp.sreg_setPred (w : Warp) (q n : Nat) (x : PReg) : (w.setPred q x).sreg n = w.sreg n := by
  unfold Warp.setPred; split <;> rfl

theorem Warp.sreg_setBreg (w : Warp) (q n : Nat) (x : Record) : (w.setBreg q x).sreg n = w.sreg n := by
  unfold Warp.setBreg; split <;> rfl

theorem Warp.breg_setPred (w : Warp) (q n : Nat) (x : PReg) : (w.setPred q x).breg n = w.breg n := by
  unfold Warp.setPred; split <;> rfl

theorem Warp.breg_setSreg (w : Warp) (q n : Nat) (x : Word) : (w.setSreg q x).breg n = w.breg n := by
  unfold Warp.setSreg; split <;> rfl

/-- The predicates after the results that are not vector registers. -/
theorem Warp.preg_writeOthers (w : Warp) (W live : LaneMask) (e : Effect) (q : Nat) :
    (w.writeOthers W live e).preg q =
      (match e.pred with
        | some (p, r) => w.setPred p ((w.preg p).write W live r)
        | none => w).preg q := by
  obtain ⟨regs, expand, pred, sreg, breg, flags⟩ := e
  unfold Warp.writeOthers
  cases pred <;> cases sreg <;> cases breg <;> dsimp only <;> split <;>
    first | rfl | simp only [Warp.preg_setSreg, Warp.preg_setBreg]

theorem Warp.sreg_writeOthers (w : Warp) (W live : LaneMask) (e : Effect) (n : Nat) (h : n < 24) :
    (w.writeOthers W live e).sreg n = match e.sreg with
      | some r => if n = r.1 ∧ W ≠ 0 then r.2 else w.sreg n
      | none => w.sreg n := by
  obtain ⟨regs, expand, pred, sreg, breg, flags⟩ := e
  unfold Warp.writeOthers
  cases pred <;> cases sreg <;> cases breg <;> dsimp only <;> split <;>
    simp_all [Warp.sreg_setPred, Warp.sreg_setBreg, Warp.sreg_setSreg]

theorem Warp.breg_writeOthers (w : Warp) (W live : LaneMask) (e : Effect) (n : Nat) (h : n < 16) :
    (w.writeOthers W live e).breg n = match e.breg with
      | some r => if n = r.1 ∧ W ≠ 0 then r.2 else w.breg n
      | none => w.breg n := by
  obtain ⟨regs, expand, pred, sreg, breg, flags⟩ := e
  unfold Warp.writeOthers
  cases pred <;> cases sreg <;> cases breg <;> dsimp only <;> split <;>
    simp_all [Warp.breg_setPred, Warp.breg_setSreg, Warp.breg_setBreg]

/-! ### Runs -/

/-- Merging runs changes ages alone (R100). -/
theorem Warp.mergeAges_rest (w : Warp) : w.mergeAges = { w with lanes := w.mergeAges.lanes } := rfl

theorem Warp.mergeAges_lane (w : Warp) (l : Fin 32) :
    w.mergeAges.lanes[l.val] = { w.lanes[l.val] with age := w.mergeAges.lanes[l.val].age } := by
  unfold Warp.mergeAges
  simp only [Vector.getElem_ofFn, Fin.eta]
  split <;> rfl

theorem Warp.issued_rest (w : Warp) (run : LaneMask) (pc : Fin 32 → BitVec 55) :
    w.issued run pc = { w with lanes := (w.issued run pc).lanes, waitCount := 0 } := rfl

/-- The threads of an issue move, and every other thread stays (R98). -/
theorem Warp.issued_lane (w : Warp) (run : LaneMask) (pc : Fin 32 → BitVec 55) (l : Fin 32) :
    (w.issued run pc).lanes[l.val] = { w.lanes[l.val] with
      pc := if run.getLsbD l.val then pc l else w.lanes[l.val].pc
      age := (w.issued run pc).lanes[l.val].age } := by
  unfold Warp.issued
  rw [Warp.mergeAges_lane]
  simp only [Vector.getElem_ofFn, Fin.eta]
  split <;> rfl

theorem Warp.issued_vreg (w : Warp) (run : LaneMask) (pc : Fin 32 → BitVec 55) (n : Nat) :
    (w.issued run pc).vreg n = w.vreg n := by
  dsimp only [Warp.vreg, Warp.issued, Warp.mergeAges]

theorem Warp.issued_preg (w : Warp) (run : LaneMask) (pc : Fin 32 → BitVec 55) (n : Nat) :
    (w.issued run pc).preg n = w.preg n := by
  dsimp only [Warp.preg, Warp.issued, Warp.mergeAges]

theorem Warp.issued_sreg (w : Warp) (run : LaneMask) (pc : Fin 32 → BitVec 55) (n : Nat) :
    (w.issued run pc).sreg n = w.sreg n := by
  dsimp only [Warp.sreg, Warp.issued, Warp.mergeAges]

theorem Warp.issued_breg (w : Warp) (run : LaneMask) (pc : Fin 32 → BitVec 55) (n : Nat) :
    (w.issued run pc).breg n = w.breg n := by
  dsimp only [Warp.breg, Warp.issued, Warp.mergeAges]

theorem Warp.flags_vreg (w : Warp) (k : Word) (n : Nat) : ({ w with kflags := k } : Warp).vreg n = w.vreg n := rfl

theorem Warp.flags_preg (w : Warp) (k : Word) (n : Nat) : ({ w with kflags := k } : Warp).preg n = w.preg n := rfl

theorem Warp.flags_sreg (w : Warp) (k : Word) (n : Nat) : ({ w with kflags := k } : Warp).sreg n = w.sreg n := rfl

theorem Warp.flags_breg (w : Warp) (k : Word) (n : Nat) : ({ w with kflags := k } : Warp).breg n = w.breg n := rfl

/-- A warp with other vector registers has the same others. -/
theorem Warp.with_vregs (w : Warp) (v : List (Nat × VReg)) (n : Nat) :
    ({ w with vregs := v } : Warp).preg n = w.preg n ∧ ({ w with vregs := v } : Warp).sreg n = w.sreg n ∧
      ({ w with vregs := v } : Warp).breg n = w.breg n := ⟨rfl, rfl, rfl⟩

theorem Warp.with_others (w : Warp) (p : Vector PReg 7) (x : Vector Word 24) (b : Vector Record 16) (n : Nat) :
    ({ w with pregs := p, sregs := x, bregs := b } : Warp).vreg n = w.vreg n := rfl

/-- Retiring a step touches its launch's count and nothing else (R343). -/
theorem State.retire_rest (s : State) (lk : Nat) : s.retire lk = { s with launches := (s.retire lk).launches } := by
  unfold State.retire
  dsimp only
  split <;> rfl

@[simp] theorem State.retire_warp (s : State) (lk k : Nat) : (s.retire lk).warp k = s.warp k := by
  rw [State.retire_rest]; rfl

@[simp] theorem State.retire_cur (s : State) (lk : Nat) : (s.retire lk).cur = s.cur := by rw [State.retire_rest]

@[simp] theorem State.retire_me (s : State) (lk : Nat) : (s.retire lk).me = s.me := by rw [State.retire_rest]; rfl

/-- A run that has moved: the warp at its new PCs, the step retired. -/
theorem State.moveRun_me (s : State) (pc : Fin 32 → BitVec 55) : (s.moveRun pc).me = s.me.issued s.cur.run pc := by
  unfold State.moveRun
  rw [State.retire_me, State.me_setMe]

/-! ### The instruction of the ordinary form -/

/-- The change that an effect makes. -/
def Effect.change (e : Effect) (W : LaneMask) (frees : List Nat) : Change where
  W := W
  frees := frees
  regs := e.regs.map fun r => (r.1, r.2.lane)
  pred := e.pred.map fun p => (p.1, fun l => p.2.bits.getLsbD l.val)
  sreg := e.sreg
  breg := e.breg
  flags := e.flags.of W

/-- The registers after an instruction's results and its issue. -/
theorem State.result_writes (s : State) (W : LaneMask) (frees : List Nat) (e : Effect) (pc : Fin 32 → BitVec 55) (t : State)
    (hn : (e.regs.map Prod.fst).Nodup) (hf : ∀ r ∈ e.regs, r.1 ∉ frees)
    (ht : t.me = (s.result W frees e).issued s.cur.run pc) : Writes s t (e.change W frees) := by
  have hv : ∀ n, t.me.vreg n = (s.storeRegs (s.me.free frees) W s.me.live e).vreg n := by
    intro n
    rw [ht, Warp.issued_vreg, State.result, Warp.flags_vreg, Warp.writeOthers_eq, Warp.with_others]
  have hp : ∀ q, t.me.preg q = ((s.storeRegs (s.me.free frees) W s.me.live e).writeOthers W s.me.live e).preg q := by
    intro q; rw [ht, Warp.issued_preg, State.result, Warp.flags_preg]
  have hs : ∀ q, t.me.sreg q = ((s.storeRegs (s.me.free frees) W s.me.live e).writeOthers W s.me.live e).sreg q := by
    intro q; rw [ht, Warp.issued_sreg, State.result, Warp.flags_sreg]
  have hb : ∀ q, t.me.breg q = ((s.storeRegs (s.me.free frees) W s.me.live e).writeOthers W s.me.live e).breg q := by
    intro q; rw [ht, Warp.issued_breg, State.result, Warp.flags_breg]
  have h0 : ∀ q, (s.storeRegs (s.me.free frees) W s.me.live e).preg q = s.me.preg q := by
    intro q
    rw [State.storeRegs_rest, (Warp.with_vregs _ _ q).1, Warp.free_rest, (Warp.with_vregs _ _ q).1]
  have h1 : ∀ q, (s.storeRegs (s.me.free frees) W s.me.live e).sreg q = s.me.sreg q := by
    intro q
    rw [State.storeRegs_rest, (Warp.with_vregs _ _ q).2.1, Warp.free_rest, (Warp.with_vregs _ _ q).2.1]
  have h2 : ∀ q, (s.storeRegs (s.me.free frees) W s.me.live e).breg q = s.me.breg q := by
    intro q
    rw [State.storeRegs_rest, (Warp.with_vregs _ _ q).2.2, Warp.free_rest, (Warp.with_vregs _ _ q).2.2]
  have hmap : (e.change W frees).regs.map Prod.fst = e.regs.map Prod.fst := by simp [Effect.change]
  refine ⟨?_, ?_, ?_, ?_, ?_, ?_, ?_, ?_, ?_, ?_⟩
  · intro n h hf'
    rw [hmap] at h
    rw [hv, State.vreg_storeRegs_other _ _ _ _ _ _ h, Warp.vreg_free]; exact if_neg hf'
  · intro n h hf'
    rw [hmap] at h
    rw [hv, State.vreg_storeRegs_other _ _ _ _ _ _ h, Warp.vreg_free]; exact if_pos hf'
  · intro r hr l hl
    obtain ⟨q, hq, rfl⟩ := List.mem_map.mp hr
    have := (State.vreg_storeRegs_same s (s.me.free frees) W s.me.live e q hn hq).2 l hl
    rw [Warp.vreg_free, if_neg (hf q hq)] at this
    rw [hv]; exact this
  · intro r hr
    obtain ⟨q, hq, rfl⟩ := List.mem_map.mp hr
    have := (State.vreg_storeRegs_same s (s.me.free frees) W s.me.live e q hn hq).1
    rw [Warp.vreg_free, if_neg (hf q hq)] at this
    rw [hv]; exact this
  · intro q hq
    rw [hp, Warp.preg_writeOthers]
    cases h : e.pred with
    | none => exact h0 q
    | some r =>
      rw [← h0 q]
      exact Warp.preg_setPred_other _ _ _ _ (hq (r.1, fun l => r.2.bits.getLsbD l.val) (by simp [Effect.change, h]))
  · intro r hr h7 l hl
    cases h : e.pred with
    | none => simp [Effect.change, h] at hr
    | some p =>
      simp only [Effect.change, h, Option.map_some, Option.some.injEq] at hr
      subst hr
      rw [Warp.pred_eq, Warp.pred_eq, hp, Warp.preg_writeOthers, h]
      dsimp only
      rw [Warp.preg_setPred_same _ _ _ h7, h0, PReg.bits_write _ _ _ _ _ hl]
      rfl
  · intro n hn'
    rw [hs, Warp.sreg_writeOthers _ _ _ _ _ hn', h1]; rfl
  · intro n hn'
    rw [hb, Warp.breg_writeOthers _ _ _ _ _ hn', h2]; rfl
  · rw [ht, Warp.issued_rest]
    unfold State.result
    dsimp only
    rw [Warp.writeOthers_eq, State.storeRegs_rest, Warp.free_rest]
    rfl
  · rw [ht, Warp.issued_rest]
    unfold State.result
    dsimp only
    rw [Warp.writeOthers_eq, State.storeRegs_rest, Warp.free_rest]

/-- A run that moves changes its own warp and the count of retired steps alone. -/
theorem State.moveRun_only (s : State) (w : Warp) (pc : Fin 32 → BitVec 55) (hb : w.blk = s.me.blk) :
    OnlyMe s ((s.setMe w).moveRun pc) := by
  have hme : (s.setMe w).me = w := State.me_setMe s w
  have hlk : (s.setMe w).myBlock.launch = s.myBlock.launch := by
    unfold State.myBlock
    rw [hme, hb]; rfl
  have hr : ∀ u : State, u.launches = s.launches →
      u.launch s.myBlock.launch = s.myLaunch := fun u hu => by unfold State.launch State.myLaunch State.launch; rw [hu]
  unfold State.moveRun
  rw [hlk]
  generalize hu : (s.setMe w).setMe ((s.setMe w).me.issued (s.setMe w).cur.run pc) = u
  have hul : u.launches = s.launches := by rw [← hu]; rfl
  have hun : u.launch s.myBlock.launch = s.myLaunch := hr u hul
  refine ⟨?_, ?_, ?_, ?_, ?_, ?_⟩
  · have h1 := State.retire_rest u s.myBlock.launch
    generalize u.retire s.myBlock.launch = r at h1
    rw [h1, ← hu]
    rfl
  · intro k hk
    rw [State.retire_rest, ← hu]
    change Map.find (Map.set (Map.set s.warps s.cur.slot w) s.cur.slot _) k = _
    rw [Map.find_set_other _ _ _ _ hk, Map.find_set_other _ _ _ _ hk]
  · intro k hk
    unfold State.retire
    dsimp only
    split
    · change Map.find (Map.set u.launches _ _) k = _
      rw [Map.find_set_other _ _ _ _ hk, hul]
    · rw [hul]
  · intro hp
    unfold State.retire
    dsimp only
    rw [hun, hp]
    exact hul
  · intro hp
    unfold State.retire
    dsimp only
    rw [hun, if_pos hp]
    exact State.launch_setLaunch_same _ _ _
  · intro a
    rw [State.retire_rest, ← hu]
    rfl

/-- The threads of a run that moves. -/
theorem State.moveRun_moves (s : State) (w : Warp) (pc : Fin 32 → BitVec 55) (hl : w.lanes = s.me.lanes) :
    Moves s ((s.setMe w).moveRun pc) pc := by
  intro l
  rw [State.moveRun_me, State.me_setMe]
  have := Warp.issued_lane w (s.setMe w).cur.run pc l
  rw [hl] at this
  exact this

theorem State.result_blk (s : State) (W : LaneMask) (frees : List Nat) (e : Effect) :
    (s.result W frees e).blk = s.me.blk ∧ (s.result W frees e).lanes = s.me.lanes := by
  unfold State.result
  dsimp only
  rw [Warp.writeOthers_eq, State.storeRegs_rest, Warp.free_rest]
  exact ⟨rfl, rfl⟩

theorem State.frees_not_dest (s : State) (us : List Use) (dests : List Nat) (d : Nat) (h : d ∈ dests) :
    d ∉ s.frees us dests := by
  unfold State.frees
  split
  · simp only [List.mem_dedup, List.mem_map, List.mem_filter, not_exists, not_and, Bool.and_eq_true,
      Bool.not_eq_true', and_imp]
    intro u _ _ hu e
    rw [e] at hu
    simp [h] at hu
  · simp

/-- The flags of W none of which is enabled trap nothing (R88). -/
theorem LaneFlags.trapping_zero (f : LaneFlags) (en : Flags) (W : LaneMask)
    (h : ∀ l : Fin 32, W.getLsbD l.val = true → f[l.val] &&& en = 0) : f.trapping en W = 0 := by
  unfold LaneFlags.trapping
  apply BitVec.eq_of_getLsbD_eq
  intro i hi
  have e := LaneMask.getLsbD_of (fun l => f[l] &&& en != 0) ⟨i, hi⟩
  have := h ⟨i, hi⟩
  simp only at e this
  rw [BitVec.getLsbD_and, e]
  cases hW : W.getLsbD i <;> simp_all

/-- The instruction of the ordinary form: when it is ready and signals no enabled condition, it takes effect whole and
changes nothing else (R20, R24 to R29, R87, R88, R98). -/
theorem State.operate_runs (s : State) (W : LaneMask) (scalar : Bool) (us : List Use) (dests : List Nat) (e : Effect)
    (h : Ready s W scalar us dests) (hd : e.regs.map Prod.fst = dests) (hn : dests.Nodup)
    (hf : NoTrap s W fun l => e.flags[l.val]) :
    ∃ t, s.operate W scalar us .go dests e = .next t ∧ Writes s t (e.change W (s.frees us dests)) ∧
      Moves s t (fun _ => s.cur.next) ∧ OnlyMe s t := by
  have hroom : s.roomFor (s.result W (s.frees us dests) e) (s.frees us dests) = true := by
    unfold State.roomFor
    refine State.slotsFor_mono _ _ _ _ _ ?_ h.room
    have h1 := State.gHeld_storeRegs s (s.me.free (s.frees us dests)) W s.me.live e
    have h2 : (s.result W (s.frees us dests) e).gHeld =
        (s.storeRegs (s.me.free (s.frees us dests)) W s.me.live e).gHeld := by
      unfold State.result Warp.gHeld
      dsimp only
      rw [Warp.writeOthers_eq]
    have h3 : e.regs.length = dests.length := by rw [← hd, List.length_map]
    omega
  have hbad : ¬(e.flags.trapping s.me.enables W ≠ 0 ∧ s.me.hndl = false) := by
    rintro ⟨hb, hh⟩
    rcases hf with hf | hf
    · rw [hf] at hh; cases hh
    · exact hb (LaneFlags.trapping_zero _ _ _ hf)
  refine ⟨((s.setMe (s.result W (s.frees us dests) e)).advance), ?_, ?_, ?_, ?_⟩
  · unfold State.operate State.operateThen
    rw [h.readGate, h.destGate]
    simp only [Gate.and_go_right]
    rw [if_neg hbad, if_pos hroom]
    rfl
  · refine State.result_writes s W _ e (fun _ => s.cur.next) _ (hd ▸ hn) (fun r hr => ?_) ?_
    · exact State.frees_not_dest _ _ _ _ (hd ▸ List.mem_map_of_mem hr)
    · unfold State.advance
      rw [State.moveRun_me, State.me_setMe]
      rfl
  · exact State.moveRun_moves _ _ _ (State.result_blk _ _ _ _).2
  · exact State.moveRun_only _ _ _ (State.result_blk _ _ _ _).1

end Sys2Proof.Machine
end

