-- ==== Sys2Proof/Laws/Forms.lean ====
section
/-! SUPPORT. The forms of result that instructions share: one lemma for each, so that a family's statement rests on what
its meanings compute in a lane. -/

namespace Sys2Proof.Machine

/-! ### Lanes of shaped results (R91, R92) -/

theorem Storage.lane_of_isU (a : Storage) (h : a.isU = true) (l : Fin 32) : a.lane l = a.lane 0 := by
  cases a <;> simp_all [Storage.isU, Storage.lane]

theorem Storage.lane_of_affine (a : Storage) (x : Word × Word) (h : a.affine = some x) (l : Fin 32) :
    a.lane l = x.1 + BitVec.ofNat 32 l.val * x.2 := by
  cases a <;> simp_all [Storage.affine, Storage.lane] <;> subst h <;> simp

@[simp] theorem Storage.lane_map1 (f : Word → Word) (a : Storage) (l : Fin 32) : (a.map1 f).lane l = f (a.lane l) := by
  unfold Storage.map1
  split
  · rename_i h; simp [Storage.lane_of_isU a h l]
  · simp

@[simp] theorem Storage.lane_map2 (f : Word → Word → Word) (a b : Storage) (l : Fin 32) :
    (Storage.map2 f a b).lane l = f (a.lane l) (b.lane l) := by
  unfold Storage.map2
  split
  · rename_i h
    simp only [Bool.and_eq_true] at h
    simp [Storage.lane_of_isU a h.1 l, Storage.lane_of_isU b h.2 l]
  · simp

@[simp] theorem Storage.lane_map3 (f : Word → Word → Word → Word) (a b c : Storage) (l : Fin 32) :
    (Storage.map3 f a b c).lane l = f (a.lane l) (b.lane l) (c.lane l) := by
  unfold Storage.map3
  split
  · rename_i h
    simp only [Bool.and_eq_true] at h
    simp [Storage.lane_of_isU a h.1.1 l, Storage.lane_of_isU b h.1.2 l, Storage.lane_of_isU c h.2 l]
  · simp

@[simp] theorem Storage.lane_sum_add (a b : Storage) (l : Fin 32) :
    (Storage.sum (· + ·) a b).lane l = a.lane l + b.lane l := by
  unfold Storage.sum
  split
  · rename_i x y hx hy
    rw [Storage.lane_ofAffine, Storage.lane_of_affine a x hx, Storage.lane_of_affine b y hy]
    generalize BitVec.ofNat 32 l.val = n
    ring
  · simp

@[simp] theorem Storage.lane_sum_sub (a b : Storage) (l : Fin 32) :
    (Storage.sum (· - ·) a b).lane l = a.lane l - b.lane l := by
  unfold Storage.sum
  split
  · rename_i x y hx hy
    rw [Storage.lane_ofAffine, Storage.lane_of_affine a x hx, Storage.lane_of_affine b y hy]
    generalize BitVec.ofNat 32 l.val = n
    ring
  · simp

@[simp] theorem Storage.lane_negate (a : Storage) (l : Fin 32) : a.negate.lane l = -a.lane l := by
  unfold Storage.negate
  split
  · rename_i x hx
    rw [Storage.lane_ofAffine, Storage.lane_of_affine a x hx]
    generalize BitVec.ofNat 32 l.val = n
    ring
  · simp

theorem Storage.affine_isU (a : Storage) (x : Word × Word) (h : a.affine = some x) (hu : a.isU = true) : x.2 = 0 := by
  cases a <;> simp_all [Storage.affine, Storage.isU] <;> simp [← h]

@[simp] theorem Storage.lane_product (a b : Storage) (l : Fin 32) : (a.product b).lane l = a.lane l * b.lane l := by
  unfold Storage.product
  split
  · rename_i x y hx hy
    split
    · rename_i hu
      rw [Storage.lane_ofAffine, Storage.lane_of_affine a x hx, Storage.lane_of_affine b y hy, Storage.affine_isU b y hy hu]
      generalize BitVec.ofNat 32 l.val = n
      ring
    · split
      · rename_i hu
        rw [Storage.lane_ofAffine, Storage.lane_of_affine a x hx, Storage.lane_of_affine b y hy, Storage.affine_isU a x hx hu]
        generalize BitVec.ofNat 32 l.val = n
        ring
      · simp
  · simp

theorem shiftLeft_eq (x n : Word) : shiftLeft x n = x <<< n.toNat := by
  unfold shiftLeft
  split
  · rfl
  · rw [BitVec.shiftLeft_eq_zero (by omega)]; rfl

theorem shiftLeft_affine (x y n k : Word) : shiftLeft (x + n * y) k = shiftLeft x k + n * shiftLeft y k := by
  rw [shiftLeft_eq, shiftLeft_eq, shiftLeft_eq]
  rw [BitVec.shiftLeft_eq_mul_twoPow, BitVec.shiftLeft_eq_mul_twoPow, BitVec.shiftLeft_eq_mul_twoPow]
  ring

@[simp] theorem Storage.lane_shift (a b : Storage) (l : Fin 32) : (a.shift b).lane l = shiftLeft (a.lane l) (b.lane l) := by
  unfold Storage.shift
  split
  · rename_i x hx hu
    rw [Storage.lane_ofAffine, Storage.lane_of_affine a x hx, shiftLeft_affine, Storage.lane_of_isU b hu l]
  · simp

@[simp] theorem Storage.lane_moved (a : Storage) (l : Fin 32) : a.moved.lane l = a.lane l := by
  cases a <;> rfl

@[simp] theorem Storage.lane_mkAffine (a b : Storage) (l : Fin 32) :
    (a.mkAffine b).lane l = a.lane l + BitVec.ofNat 32 l.val * b.lane l := by
  unfold Storage.mkAffine
  split
  · rename_i h
    simp only [Bool.and_eq_true] at h
    rw [Storage.lane_ofAffine, Storage.lane_of_isU a h.1 l, Storage.lane_of_isU b h.2 l]
  · simp

/-! ### Flags lane by lane -/

theorem LaneFlags.of_eq (f : LaneFlags) (W : LaneMask) : f.of W = flagsOf W fun l => f[l.val] := rfl

@[simp] theorem LaneFlags.zero_get (l : Fin 32) : LaneFlags.zero[l.val] = 0 := by simp [LaneFlags.zero]

/-- A result with flags, lane by lane: one computation serves operands that count as U because they are equal in every
lane (R19). -/
theorem fmap_lane (u : Bool) (f : Fin 32 → FOut) (h : u = true → ∀ l, f l = f 0) (l : Fin 32) :
    (fmap u f).1.lane l = (f l).bits ∧ (fmap u f).2[l.val] = (f l).flags := by
  unfold fmap
  split
  · rename_i hu
    rw [h hu l]
    exact ⟨rfl, by simp [LaneFlags.uniform]⟩
  · simp

theorem dmap_lane (u : Bool) (f : Fin 32 → DOut) (h : u = true → ∀ l, f l = f 0) (l : Fin 32) :
    (dmap u f).1.lane l = (f l).bits.truncate 32 ∧ (dmap u f).2.1.lane l = ((f l).bits >>> 32).truncate 32 ∧
      (dmap u f).2.2[l.val] = (f l).flags := by
  unfold dmap
  split
  · rename_i hu
    rw [h hu l]
    exact ⟨rfl, rfl, by simp [LaneFlags.uniform]⟩
  · simp

theorem pmap_lane (u : Bool) (f : Fin 32 → Bool × Flags) (h : u = true → ∀ l, f l = f 0) (l : Fin 32) :
    (pmap u f).1.bits.getLsbD l.val = (f l).1 ∧ (pmap u f).2[l.val] = (f l).2 := by
  unfold pmap
  split
  · rename_i hu
    rw [h hu l]
    refine ⟨?_, by simp [LaneFlags.uniform]⟩
    dsimp only
    split
    · rename_i hb
      rw [hb]
      change (BitVec.allOnes 32).getLsbD l.val = true
      rw [BitVec.getLsbD_allOnes]
      simp
    · rename_i hb
      simp_all
  · exact ⟨by dsimp only; rw [LaneMask.getLsbD_of]; simp, by simp⟩

/-! ### The forms -/

/-- An instruction whose meaning is `compute` of one vector result. -/
theorem vecResult_of_compute (i : Instr) (s : State) (g : Guard) (scalar : Bool) (us : List Use) (d : Nat)
    (f : Fin 32 → FOut) (st : Storage) (x : Bool) (fl : LaneFlags)
    (hi : exec i s = s.compute g scalar us { Effect.vec d st with expand := x, flags := fl })
    (hl : ∀ l, st.lane l = (f l).bits) (hf : ∀ l : Fin 32, fl[l.val] = (f l).flags) : VecResult i s g scalar us d f := by
  intro hr ht
  obtain ⟨t, h1, h2, h3, h4⟩ := State.operate_runs s (s.wset g) scalar us [d] { Effect.vec d st with expand := x, flags := fl }
    hr rfl (by simp) (by simpa only [hf] using ht)
  refine ⟨t, ?_, ?_, h3, h4⟩
  · rw [hi]; exact h1
  · have hfl : fl.of (s.wset g) = flagsOf (s.wset g) fun l => (f l).flags := by
      rw [LaneFlags.of_eq]; simp only [hf]
    simpa [Effect.change, Effect.vec, Effect.nothing, hfl, funext hl] using h2

/-- An instruction whose meaning is `compute` of a 64-bit result. -/
theorem pairResult_of_compute (i : Instr) (s : State) (g : Guard) (scalar : Bool) (us : List Use) (d : Nat)
    (f : Fin 32 → DOut) (lo hi' : Storage) (fl : LaneFlags)
    (hi : exec i s = s.compute g scalar us { Effect.pair d lo hi' with flags := fl })
    (hl : ∀ l, lo.lane l = (f l).bits.truncate 32) (hh : ∀ l, hi'.lane l = ((f l).bits >>> 32).truncate 32)
    (hf : ∀ l : Fin 32, fl[l.val] = (f l).flags) : PairResult i s g scalar us d f := by
  intro hr ht
  obtain ⟨t, h1, h2, h3, h4⟩ := State.operate_runs s (s.wset g) scalar us [d, d + 1] { Effect.pair d lo hi' with flags := fl }
    hr rfl (by simp) (by simpa only [hf] using ht)
  refine ⟨t, ?_, ?_, h3, h4⟩
  · rw [hi]; exact h1
  · have hfl : fl.of (s.wset g) = flagsOf (s.wset g) fun l => (f l).flags := by
      rw [LaneFlags.of_eq]; simp only [hf]
    have e : Effect.change { Effect.pair d lo hi' with flags := fl } (s.wset g) (s.frees us [d, d + 1]) =
        { W := s.wset g, frees := s.frees us [d, d + 1],
          regs := [(d, fun l => (f l).bits.truncate 32), (d + 1, fun l => ((f l).bits >>> 32).truncate 32)],
          flags := flagsOf (s.wset g) fun l => (f l).flags } := by
      simp only [Effect.change, Effect.pair, Effect.nothing, hfl, List.map_cons, List.map_nil, Option.map_none, funext hl,
        funext hh]
    rw [← e]
    exact h2

/-- An instruction whose meaning is `compute` of a predicate result. -/
theorem predResult_of_compute (i : Instr) (s : State) (g : Guard) (scalar : Bool) (us : List Use) (q : Nat)
    (f : Fin 32 → Bool × Flags) (r : PResult) (fl : LaneFlags)
    (hi : exec i s = s.compute g scalar us { Effect.predicate q r with flags := fl })
    (hl : ∀ l : Fin 32, r.bits.getLsbD l.val = (f l).1) (hf : ∀ l : Fin 32, fl[l.val] = (f l).2) :
    PredResult i s g scalar us q f := by
  intro hr ht
  obtain ⟨t, h1, h2, h3, h4⟩ := State.operate_runs s (s.wset g) scalar us [] { Effect.predicate q r with flags := fl }
    hr rfl (by simp) (by simpa only [hf] using ht)
  refine ⟨t, ?_, ?_, h3, h4⟩
  · rw [hi]; exact h1
  · have hfl : fl.of (s.wset g) = flagsOf (s.wset g) fun l => (f l).2 := by
      rw [LaneFlags.of_eq]; simp only [hf]
    have e : Effect.change { Effect.predicate q r with flags := fl } (s.wset g) (s.frees us []) =
        { W := s.wset g, frees := s.frees us [], pred := some (q, fun l => (f l).1),
          flags := flagsOf (s.wset g) fun l => (f l).2 } := by
      simp only [Effect.change, Effect.predicate, Effect.nothing, hfl, List.map_nil, Option.map_some, funext hl]
    rw [← e]
    exact h2

/-- A scalar-pipe instruction with a scalar result. -/
theorem scalarResult_of_scalarOp (i : Instr) (s : State) (g : Guard) (us : List Use) (d : Nat) (x : Word)
    (hi : exec i s = s.scalarOp g us (Effect.scalar d x)) : ScalarResult i s g us d x := by
  intro hr
  obtain ⟨t, h1, h2, h3, h4⟩ := State.operate_runs s (s.scalarSet g) true us [] (Effect.scalar d x)
    hr rfl (by simp) (.inr fun l _ => by simp [Effect.scalar, Effect.nothing])
  refine ⟨t, by rw [hi]; exact h1, ?_, h3, h4⟩
  have hz : ∀ W, LaneFlags.of LaneFlags.zero W = 0 := by
    intro W
    rw [LaneFlags.of_eq]
    simp only [LaneFlags.zero_get, flagsOf]
    induction LaneMask.lanes W with
    | nil => rfl
    | cons l ls ih => simp
  simpa [Effect.change, Effect.scalar, Effect.nothing, hz] using h2

end Sys2Proof.Machine
end

