-- ==== Sys2Proof/Laws/PerInstr.lean ====
section
/-! SUPPORT. The family `Opcode`: the fields that the encoder gives each instruction name an allocated major opcode and
leave the reserved bits zero (R49, R57). -/

namespace Sys2Proof

/-- What the family says of an instruction. -/
def Laws.Opcode.Statement (i : Instr) : Prop :=
  ∀ f, simtFields i = some f → opAllocated f.op = true ∧ f.rsv = 0

theorem Laws.Opcode.iadd (g : Guard) (d : Nat) (a : Src) (b : Src) : Laws.Opcode.Statement (.iadd g d a b) :=
  fun _ h => Option.some.inj h ▸ ⟨(by decide : opAllocated 0x001 = true), rfl⟩

theorem Laws.Opcode.isub (g : Guard) (d : Nat) (a : Src) (b : Src) : Laws.Opcode.Statement (.isub g d a b) :=
  fun _ h => Option.some.inj h ▸ ⟨(by decide : opAllocated 0x002 = true), rfl⟩

theorem Laws.Opcode.imul (g : Guard) (d : Nat) (a : Src) (b : Src) : Laws.Opcode.Statement (.imul g d a b) :=
  fun _ h => Option.some.inj h ▸ ⟨(by decide : opAllocated 0x003 = true), rfl⟩

theorem Laws.Opcode.imulh (g : Guard) (d : Nat) (a : Src) (b : Src) : Laws.Opcode.Statement (.imulh g d a b) :=
  fun _ h => Option.some.inj h ▸ ⟨(by decide : opAllocated 0x004 = true), rfl⟩

theorem Laws.Opcode.umulh (g : Guard) (d : Nat) (a : Src) (b : Src) : Laws.Opcode.Statement (.umulh g d a b) :=
  fun _ h => Option.some.inj h ▸ ⟨(by decide : opAllocated 0x005 = true), rfl⟩

theorem Laws.Opcode.imin (g : Guard) (d : Nat) (a : Src) (b : Src) : Laws.Opcode.Statement (.imin g d a b) :=
  fun _ h => Option.some.inj h ▸ ⟨(by decide : opAllocated 0x006 = true), rfl⟩

theorem Laws.Opcode.imax (g : Guard) (d : Nat) (a : Src) (b : Src) : Laws.Opcode.Statement (.imax g d a b) :=
  fun _ h => Option.some.inj h ▸ ⟨(by decide : opAllocated 0x007 = true), rfl⟩

theorem Laws.Opcode.umin (g : Guard) (d : Nat) (a : Src) (b : Src) : Laws.Opcode.Statement (.umin g d a b) :=
  fun _ h => Option.some.inj h ▸ ⟨(by decide : opAllocated 0x008 = true), rfl⟩

theorem Laws.Opcode.umax (g : Guard) (d : Nat) (a : Src) (b : Src) : Laws.Opcode.Statement (.umax g d a b) :=
  fun _ h => Option.some.inj h ▸ ⟨(by decide : opAllocated 0x009 = true), rfl⟩

theorem Laws.Opcode.iabs (g : Guard) (d : Nat) (a : Src) : Laws.Opcode.Statement (.iabs g d a) :=
  fun _ h => Option.some.inj h ▸ ⟨(by decide : opAllocated 0x00A = true), rfl⟩

theorem Laws.Opcode.ineg (g : Guard) (d : Nat) (a : Src) : Laws.Opcode.Statement (.ineg g d a) :=
  fun _ h => Option.some.inj h ▸ ⟨(by decide : opAllocated 0x00B = true), rfl⟩

theorem Laws.Opcode.icmp (g : Guard) (q : Nat) (cc : ICond) (a : Src) (b : Src) : Laws.Opcode.Statement (.icmp g q cc a b) :=
  fun _ h => Option.some.inj h ▸ ⟨(by decide : opAllocated 0x00C = true), rfl⟩

theorem Laws.Opcode.ucmp (g : Guard) (q : Nat) (cc : ICond) (a : Src) (b : Src) : Laws.Opcode.Statement (.ucmp g q cc a b) :=
  fun _ h => Option.some.inj h ▸ ⟨(by decide : opAllocated 0x00D = true), rfl⟩

theorem Laws.Opcode.iadd64 (g : Guard) (d : Nat) (a : VSrc) (b : VSrc) : Laws.Opcode.Statement (.iadd64 g d a b) :=
  fun _ h => Option.some.inj h ▸ ⟨(by decide : opAllocated 0x00E = true), rfl⟩

theorem Laws.Opcode.isub64 (g : Guard) (d : Nat) (a : VSrc) (b : VSrc) : Laws.Opcode.Statement (.isub64 g d a b) :=
  fun _ h => Option.some.inj h ▸ ⟨(by decide : opAllocated 0x00F = true), rfl⟩

theorem Laws.Opcode.imul64 (g : Guard) (d : Nat) (a : VSrc) (b : VSrc) : Laws.Opcode.Statement (.imul64 g d a b) :=
  fun _ h => Option.some.inj h ▸ ⟨(by decide : opAllocated 0x010 = true), rfl⟩

theorem Laws.Opcode.lea (g : Guard) (d : Nat) (sh : Nat) (a : Src) (b : Src) : Laws.Opcode.Statement (.lea g d sh a b) :=
  fun _ h => Option.some.inj h ▸ ⟨(by decide : opAllocated 0x011 = true), rfl⟩

theorem Laws.Opcode.idiv (g : Guard) (d : Nat) (a : Src) (b : Src) : Laws.Opcode.Statement (.idiv g d a b) :=
  fun _ h => Option.some.inj h ▸ ⟨(by decide : opAllocated 0x012 = true), rfl⟩

theorem Laws.Opcode.udiv (g : Guard) (d : Nat) (a : Src) (b : Src) : Laws.Opcode.Statement (.udiv g d a b) :=
  fun _ h => Option.some.inj h ▸ ⟨(by decide : opAllocated 0x013 = true), rfl⟩

theorem Laws.Opcode.irem (g : Guard) (d : Nat) (a : Src) (b : Src) : Laws.Opcode.Statement (.irem g d a b) :=
  fun _ h => Option.some.inj h ▸ ⟨(by decide : opAllocated 0x014 = true), rfl⟩

theorem Laws.Opcode.urem (g : Guard) (d : Nat) (a : Src) (b : Src) : Laws.Opcode.Statement (.urem g d a b) :=
  fun _ h => Option.some.inj h ▸ ⟨(by decide : opAllocated 0x015 = true), rfl⟩

theorem Laws.Opcode.iaddi (g : Guard) (d : Nat) (a : Src) (imm : Imm16) : Laws.Opcode.Statement (.iaddi g d a imm) :=
  fun _ h => Option.some.inj h ▸ ⟨(by decide : opAllocated 0x020 = true), rfl⟩

theorem Laws.Opcode.imuli (g : Guard) (d : Nat) (a : Src) (imm : Imm16) : Laws.Opcode.Statement (.imuli g d a imm) :=
  fun _ h => Option.some.inj h ▸ ⟨(by decide : opAllocated 0x021 = true), rfl⟩

theorem Laws.Opcode.icmpi (g : Guard) (q : Nat) (cc : ICond) (a : Src) (imm : Imm16) : Laws.Opcode.Statement (.icmpi g q cc a imm) :=
  fun _ h => Option.some.inj h ▸ ⟨(by decide : opAllocated 0x022 = true), rfl⟩

theorem Laws.Opcode.ucmpi (g : Guard) (q : Nat) (cc : ICond) (a : Src) (imm : Imm16) : Laws.Opcode.Statement (.ucmpi g q cc a imm) :=
  fun _ h => Option.some.inj h ▸ ⟨(by decide : opAllocated 0x023 = true), rfl⟩

theorem Laws.Opcode.movi (g : Guard) (d : Nat) (imm : Imm16) : Laws.Opcode.Statement (.movi g d imm) :=
  fun _ h => Option.some.inj h ▸ ⟨(by decide : opAllocated 0x024 = true), rfl⟩

theorem Laws.Opcode.leai (g : Guard) (d : Nat) (sh : Nat) (a : Src) (imm : Imm16) : Laws.Opcode.Statement (.leai g d sh a imm) :=
  fun _ h => Option.some.inj h ▸ ⟨(by decide : opAllocated 0x025 = true), rfl⟩

theorem Laws.Opcode.andi (g : Guard) (d : Nat) (a : Src) (imm : Imm16) : Laws.Opcode.Statement (.andi g d a imm) :=
  fun _ h => Option.some.inj h ▸ ⟨(by decide : opAllocated 0x026 = true), rfl⟩

theorem Laws.Opcode.ori (g : Guard) (d : Nat) (a : Src) (imm : Imm16) : Laws.Opcode.Statement (.ori g d a imm) :=
  fun _ h => Option.some.inj h ▸ ⟨(by decide : opAllocated 0x027 = true), rfl⟩

theorem Laws.Opcode.xori (g : Guard) (d : Nat) (a : Src) (imm : Imm16) : Laws.Opcode.Statement (.xori g d a imm) :=
  fun _ h => Option.some.inj h ▸ ⟨(by decide : opAllocated 0x028 = true), rfl⟩

theorem Laws.Opcode.shli (g : Guard) (d : Nat) (a : Src) (imm : Imm16) : Laws.Opcode.Statement (.shli g d a imm) :=
  fun _ h => Option.some.inj h ▸ ⟨(by decide : opAllocated 0x029 = true), rfl⟩

theorem Laws.Opcode.shri (g : Guard) (d : Nat) (a : Src) (imm : Imm16) : Laws.Opcode.Statement (.shri g d a imm) :=
  fun _ h => Option.some.inj h ▸ ⟨(by decide : opAllocated 0x02A = true), rfl⟩

theorem Laws.Opcode.sari (g : Guard) (d : Nat) (a : Src) (imm : Imm16) : Laws.Opcode.Statement (.sari g d a imm) :=
  fun _ h => Option.some.inj h ▸ ⟨(by decide : opAllocated 0x02B = true), rfl⟩

theorem Laws.Opcode.bfe (g : Guard) (d : Nat) (sgn : Bool) (a : Src) (pos : Nat) (len : Nat) : Laws.Opcode.Statement (.bfe g d sgn a pos len) :=
  fun _ h => Option.some.inj h ▸ ⟨(by decide : opAllocated 0x02C = true), rfl⟩

theorem Laws.Opcode.saddi (g : Guard) (d : Nat) (a : SSrc) (imm : Imm16) : Laws.Opcode.Statement (.saddi g d a imm) :=
  fun _ h => Option.some.inj h ▸ ⟨(by decide : opAllocated 0x02D = true), rfl⟩

theorem Laws.Opcode.smovi (g : Guard) (d : Nat) (imm : Imm16) : Laws.Opcode.Statement (.smovi g d imm) :=
  fun _ h => Option.some.inj h ▸ ⟨(by decide : opAllocated 0x02E = true), rfl⟩

theorem Laws.Opcode.csrr (g : Guard) (d : Nat) (num : Nat) (hi : Bool) : Laws.Opcode.Statement (.csrr g d num hi) :=
  fun _ h => Option.some.inj h ▸ ⟨(by decide : opAllocated 0x02F = true), rfl⟩

theorem Laws.Opcode.csrw (g : Guard) (num : Nat) (hi : Bool) (a : Src) : Laws.Opcode.Statement (.csrw g num hi a) :=
  fun _ h => Option.some.inj h ▸ ⟨(by decide : opAllocated 0x030 = true), rfl⟩

theorem Laws.Opcode.sysv (g : Guard) (d : Nat) (num : Nat) : Laws.Opcode.Statement (.sysv g d num) :=
  fun _ h => Option.some.inj h ▸ ⟨(by decide : opAllocated 0x031 = true), rfl⟩

theorem Laws.Opcode.sleep (g : Guard) (imm : Imm16) : Laws.Opcode.Statement (.sleep g imm) :=
  fun _ h => Option.some.inj h ▸ ⟨(by decide : opAllocated 0x032 = true), rfl⟩

theorem Laws.Opcode.bkpt (g : Guard) (imm : Imm16) : Laws.Opcode.Statement (.bkpt g imm) :=
  fun _ h => Option.some.inj h ▸ ⟨(by decide : opAllocated 0x033 = true), rfl⟩

theorem Laws.Opcode.trap (g : Guard) (imm : Imm16) : Laws.Opcode.Statement (.trap g imm) :=
  fun _ h => Option.some.inj h ▸ ⟨(by decide : opAllocated 0x034 = true), rfl⟩

theorem Laws.Opcode.detpt (g : Guard) (a : Src) (tag : Imm16) : Laws.Opcode.Statement (.detpt g a tag) :=
  fun _ h => Option.some.inj h ▸ ⟨(by decide : opAllocated 0x035 = true), rfl⟩

theorem Laws.Opcode.and (g : Guard) (d : Nat) (a : Src) (b : Src) : Laws.Opcode.Statement (.and g d a b) :=
  fun _ h => Option.some.inj h ▸ ⟨(by decide : opAllocated 0x040 = true), rfl⟩

theorem Laws.Opcode.or (g : Guard) (d : Nat) (a : Src) (b : Src) : Laws.Opcode.Statement (.or g d a b) :=
  fun _ h => Option.some.inj h ▸ ⟨(by decide : opAllocated 0x041 = true), rfl⟩

theorem Laws.Opcode.xor (g : Guard) (d : Nat) (a : Src) (b : Src) : Laws.Opcode.Statement (.xor g d a b) :=
  fun _ h => Option.some.inj h ▸ ⟨(by decide : opAllocated 0x042 = true), rfl⟩

theorem Laws.Opcode.andn (g : Guard) (d : Nat) (a : Src) (b : Src) : Laws.Opcode.Statement (.andn g d a b) :=
  fun _ h => Option.some.inj h ▸ ⟨(by decide : opAllocated 0x043 = true), rfl⟩

theorem Laws.Opcode.not (g : Guard) (d : Nat) (a : Src) : Laws.Opcode.Statement (.not g d a) :=
  fun _ h => Option.some.inj h ▸ ⟨(by decide : opAllocated 0x044 = true), rfl⟩

theorem Laws.Opcode.shl (g : Guard) (d : Nat) (a : Src) (b : Src) : Laws.Opcode.Statement (.shl g d a b) :=
  fun _ h => Option.some.inj h ▸ ⟨(by decide : opAllocated 0x045 = true), rfl⟩

theorem Laws.Opcode.shr (g : Guard) (d : Nat) (a : Src) (b : Src) : Laws.Opcode.Statement (.shr g d a b) :=
  fun _ h => Option.some.inj h ▸ ⟨(by decide : opAllocated 0x046 = true), rfl⟩

theorem Laws.Opcode.sar (g : Guard) (d : Nat) (a : Src) (b : Src) : Laws.Opcode.Statement (.sar g d a b) :=
  fun _ h => Option.some.inj h ▸ ⟨(by decide : opAllocated 0x047 = true), rfl⟩

theorem Laws.Opcode.rol (g : Guard) (d : Nat) (a : Src) (b : Src) : Laws.Opcode.Statement (.rol g d a b) :=
  fun _ h => Option.some.inj h ▸ ⟨(by decide : opAllocated 0x048 = true), rfl⟩

theorem Laws.Opcode.ror (g : Guard) (d : Nat) (a : Src) (b : Src) : Laws.Opcode.Statement (.ror g d a b) :=
  fun _ h => Option.some.inj h ▸ ⟨(by decide : opAllocated 0x049 = true), rfl⟩

theorem Laws.Opcode.popc (g : Guard) (d : Nat) (a : Src) : Laws.Opcode.Statement (.popc g d a) :=
  fun _ h => Option.some.inj h ▸ ⟨(by decide : opAllocated 0x04A = true), rfl⟩

theorem Laws.Opcode.clz (g : Guard) (d : Nat) (a : Src) : Laws.Opcode.Statement (.clz g d a) :=
  fun _ h => Option.some.inj h ▸ ⟨(by decide : opAllocated 0x04B = true), rfl⟩

theorem Laws.Opcode.ctz (g : Guard) (d : Nat) (a : Src) : Laws.Opcode.Statement (.ctz g d a) :=
  fun _ h => Option.some.inj h ▸ ⟨(by decide : opAllocated 0x04C = true), rfl⟩

theorem Laws.Opcode.brev (g : Guard) (d : Nat) (a : Src) : Laws.Opcode.Statement (.brev g d a) :=
  fun _ h => Option.some.inj h ▸ ⟨(by decide : opAllocated 0x04D = true), rfl⟩

theorem Laws.Opcode.mov (g : Guard) (d : Nat) (a : Src) : Laws.Opcode.Statement (.mov g d a) :=
  fun _ h => Option.some.inj h ▸ ⟨(by decide : opAllocated 0x04E = true), rfl⟩

theorem Laws.Opcode.sel (g : Guard) (d : Nat) (a : Src) (b : Src) (q : Nat) (neg : Bool) : Laws.Opcode.Statement (.sel g d a b q neg) :=
  fun _ h => Option.some.inj h ▸ ⟨(by decide : opAllocated 0x04F = true), rfl⟩

theorem Laws.Opcode.plop (g : Guard) (q : Nat) (op : PlopOp) (qa : Nat) (qb : Nat) : Laws.Opcode.Statement (.plop g q op qa qb) :=
  fun _ h => Option.some.inj h ▸ ⟨(by decide : opAllocated 0x050 = true), rfl⟩

theorem Laws.Opcode.p2v (g : Guard) (d : Nat) (m : Bool) (qa : Nat) : Laws.Opcode.Statement (.p2v g d m qa) :=
  fun _ h => Option.some.inj h ▸ ⟨(by decide : opAllocated 0x051 = true), rfl⟩

theorem Laws.Opcode.v2p (g : Guard) (q : Nat) (a : Src) : Laws.Opcode.Statement (.v2p g q a) :=
  fun _ h => Option.some.inj h ▸ ⟨(by decide : opAllocated 0x052 = true), rfl⟩

theorem Laws.Opcode.shape (g : Guard) (d : Nat) (pend : Bool) (a : VSrc) : Laws.Opcode.Statement (.shape g d pend a) :=
  fun _ h => Option.some.inj h ▸ ⟨(by decide : opAllocated 0x053 = true), rfl⟩

theorem Laws.Opcode.expand (g : Guard) (d : Nat) (a : VSrc) : Laws.Opcode.Statement (.expand g d a) :=
  fun _ h => Option.some.inj h ▸ ⟨(by decide : opAllocated 0x054 = true), rfl⟩

theorem Laws.Opcode.mkaff (g : Guard) (d : Nat) (a : Src) (b : Src) : Laws.Opcode.Statement (.mkaff g d a b) :=
  fun _ h => Option.some.inj h ▸ ⟨(by decide : opAllocated 0x055 = true), rfl⟩

theorem Laws.Opcode.shrr (g : Guard) (d : Nat) (he : Bool) (s16 : Bool) (a : Src) (b : Src) : Laws.Opcode.Statement (.shrr g d he s16 a b) :=
  fun _ h => Option.some.inj h ▸ ⟨(by decide : opAllocated 0x056 = true), rfl⟩

theorem Laws.Opcode.smov (g : Guard) (d : Nat) (a : SSrc) : Laws.Opcode.Statement (.smov g d a) :=
  fun _ h => Option.some.inj h ▸ ⟨(by decide : opAllocated 0x060 = true), rfl⟩

theorem Laws.Opcode.sadd (g : Guard) (d : Nat) (a : SSrc) (b : SSrc) : Laws.Opcode.Statement (.sadd g d a b) :=
  fun _ h => Option.some.inj h ▸ ⟨(by decide : opAllocated 0x061 = true), rfl⟩

theorem Laws.Opcode.ssub (g : Guard) (d : Nat) (a : SSrc) (b : SSrc) : Laws.Opcode.Statement (.ssub g d a b) :=
  fun _ h => Option.some.inj h ▸ ⟨(by decide : opAllocated 0x062 = true), rfl⟩

theorem Laws.Opcode.smul (g : Guard) (d : Nat) (a : SSrc) (b : SSrc) : Laws.Opcode.Statement (.smul g d a b) :=
  fun _ h => Option.some.inj h ▸ ⟨(by decide : opAllocated 0x063 = true), rfl⟩

theorem Laws.Opcode.sand (g : Guard) (d : Nat) (a : SSrc) (b : SSrc) : Laws.Opcode.Statement (.sand g d a b) :=
  fun _ h => Option.some.inj h ▸ ⟨(by decide : opAllocated 0x064 = true), rfl⟩

theorem Laws.Opcode.sor (g : Guard) (d : Nat) (a : SSrc) (b : SSrc) : Laws.Opcode.Statement (.sor g d a b) :=
  fun _ h => Option.some.inj h ▸ ⟨(by decide : opAllocated 0x065 = true), rfl⟩

theorem Laws.Opcode.sxor (g : Guard) (d : Nat) (a : SSrc) (b : SSrc) : Laws.Opcode.Statement (.sxor g d a b) :=
  fun _ h => Option.some.inj h ▸ ⟨(by decide : opAllocated 0x066 = true), rfl⟩

theorem Laws.Opcode.sshl (g : Guard) (d : Nat) (a : SSrc) (b : SSrc) : Laws.Opcode.Statement (.sshl g d a b) :=
  fun _ h => Option.some.inj h ▸ ⟨(by decide : opAllocated 0x067 = true), rfl⟩

theorem Laws.Opcode.sshr (g : Guard) (d : Nat) (a : SSrc) (b : SSrc) : Laws.Opcode.Statement (.sshr g d a b) :=
  fun _ h => Option.some.inj h ▸ ⟨(by decide : opAllocated 0x068 = true), rfl⟩

theorem Laws.Opcode.ssar (g : Guard) (d : Nat) (a : SSrc) (b : SSrc) : Laws.Opcode.Statement (.ssar g d a b) :=
  fun _ h => Option.some.inj h ▸ ⟨(by decide : opAllocated 0x069 = true), rfl⟩

theorem Laws.Opcode.smin (g : Guard) (d : Nat) (u : Bool) (a : SSrc) (b : SSrc) : Laws.Opcode.Statement (.smin g d u a b) :=
  fun _ h => Option.some.inj h ▸ ⟨(by decide : opAllocated 0x06A = true), rfl⟩

theorem Laws.Opcode.smax (g : Guard) (d : Nat) (u : Bool) (a : SSrc) (b : SSrc) : Laws.Opcode.Statement (.smax g d u a b) :=
  fun _ h => Option.some.inj h ▸ ⟨(by decide : opAllocated 0x06B = true), rfl⟩

theorem Laws.Opcode.scmp (g : Guard) (q : Nat) (cc : ICond) (u : Bool) (a : SSrc) (b : SSrc) : Laws.Opcode.Statement (.scmp g q cc u a b) :=
  fun _ h => Option.some.inj h ▸ ⟨(by decide : opAllocated 0x06C = true), rfl⟩

theorem Laws.Opcode.v2s (g : Guard) (d : Nat) (a : VSrc) : Laws.Opcode.Statement (.v2s g d a) :=
  fun _ h => Option.some.inj h ▸ ⟨(by decide : opAllocated 0x06D = true), rfl⟩

theorem Laws.Opcode.brx (g : Guard) (uni : Bool) (a : Src) : Laws.Opcode.Statement (.brx g uni a) :=
  fun _ h => Option.some.inj h ▸ ⟨(by decide : opAllocated 0x080 = true), rfl⟩

theorem Laws.Opcode.calli (g : Guard) (uni : Bool) (a : Src) : Laws.Opcode.Statement (.calli g uni a) :=
  fun _ h => Option.some.inj h ▸ ⟨(by decide : opAllocated 0x081 = true), rfl⟩

theorem Laws.Opcode.ret (g : Guard) : Laws.Opcode.Statement (.ret g) :=
  fun _ h => Option.some.inj h ▸ ⟨(by decide : opAllocated 0x082 = true), rfl⟩

theorem Laws.Opcode.exit (g : Guard) : Laws.Opcode.Statement (.exit g) :=
  fun _ h => Option.some.inj h ▸ ⟨(by decide : opAllocated 0x083 = true), rfl⟩

theorem Laws.Opcode.nop (g : Guard) : Laws.Opcode.Statement (.nop g) :=
  fun _ h => Option.some.inj h ▸ ⟨(by decide : opAllocated 0x084 = true), rfl⟩

theorem Laws.Opcode.rte (g : Guard) : Laws.Opcode.Statement (.rte g) :=
  fun _ h => Option.some.inj h ▸ ⟨(by decide : opAllocated 0x085 = true), rfl⟩

theorem Laws.Opcode.getclk (g : Guard) (d : Nat) : Laws.Opcode.Statement (.getclk g d) :=
  fun _ h => Option.some.inj h ▸ ⟨(by decide : opAllocated 0x086 = true), rfl⟩

theorem Laws.Opcode.getret (g : Guard) (d : Nat) (depth : Bool) : Laws.Opcode.Statement (.getret g d depth) :=
  fun _ h => Option.some.inj h ▸ ⟨(by decide : opAllocated 0x087 = true), rfl⟩

theorem Laws.Opcode.bra (g : Guard) (off : Word) : Laws.Opcode.Statement (.bra g off) :=
  fun _ h => Option.some.inj h ▸ ⟨(by decide : opAllocated 0x0A0 = true), rfl⟩

theorem Laws.Opcode.braU (g : Guard) (off : Word) : Laws.Opcode.Statement (.braU g off) :=
  fun _ h => Option.some.inj h ▸ ⟨(by decide : opAllocated 0x0A1 = true), rfl⟩

theorem Laws.Opcode.call (g : Guard) (off : Word) : Laws.Opcode.Statement (.call g off) :=
  fun _ h => Option.some.inj h ▸ ⟨(by decide : opAllocated 0x0A2 = true), rfl⟩

theorem Laws.Opcode.yield (g : Guard) (off : Word) : Laws.Opcode.Statement (.yield g off) :=
  fun _ h => Option.some.inj h ▸ ⟨(by decide : opAllocated 0x0A3 = true), rfl⟩

theorem Laws.Opcode.phint (g : Guard) (off : Word) : Laws.Opcode.Statement (.phint g off) :=
  fun _ h => Option.some.inj h ▸ ⟨(by decide : opAllocated 0x0A4 = true), rfl⟩

theorem Laws.Opcode.movi32 (g : Guard) (d : Nat) (imm : Word) : Laws.Opcode.Statement (.movi32 g d imm) :=
  fun _ h => Option.some.inj h ▸ ⟨(by decide : opAllocated 0x0A5 = true), rfl⟩

theorem Laws.Opcode.iaddi32 (g : Guard) (d : Nat) (a : Src) (imm : Word) : Laws.Opcode.Statement (.iaddi32 g d a imm) :=
  fun _ h => Option.some.inj h ▸ ⟨(by decide : opAllocated 0x0A6 = true), rfl⟩

theorem Laws.Opcode.imuli32 (g : Guard) (d : Nat) (a : Src) (imm : Word) : Laws.Opcode.Statement (.imuli32 g d a imm) :=
  fun _ h => Option.some.inj h ▸ ⟨(by decide : opAllocated 0x0A7 = true), rfl⟩

theorem Laws.Opcode.andi32 (g : Guard) (d : Nat) (a : Src) (imm : Word) : Laws.Opcode.Statement (.andi32 g d a imm) :=
  fun _ h => Option.some.inj h ▸ ⟨(by decide : opAllocated 0x0A8 = true), rfl⟩

theorem Laws.Opcode.ori32 (g : Guard) (d : Nat) (a : Src) (imm : Word) : Laws.Opcode.Statement (.ori32 g d a imm) :=
  fun _ h => Option.some.inj h ▸ ⟨(by decide : opAllocated 0x0A9 = true), rfl⟩

theorem Laws.Opcode.xori32 (g : Guard) (d : Nat) (a : Src) (imm : Word) : Laws.Opcode.Statement (.xori32 g d a imm) :=
  fun _ h => Option.some.inj h ▸ ⟨(by decide : opAllocated 0x0AA = true), rfl⟩

theorem Laws.Opcode.faddi32 (g : Guard) (d : Nat) (rm : Rm) (a : Src) (imm : Word) : Laws.Opcode.Statement (.faddi32 g d rm a imm) :=
  fun _ h => Option.some.inj h ▸ ⟨(by decide : opAllocated 0x0AB = true), rfl⟩

theorem Laws.Opcode.fmuli32 (g : Guard) (d : Nat) (rm : Rm) (a : Src) (imm : Word) : Laws.Opcode.Statement (.fmuli32 g d rm a imm) :=
  fun _ h => Option.some.inj h ▸ ⟨(by decide : opAllocated 0x0AC = true), rfl⟩

theorem Laws.Opcode.smovi32 (g : Guard) (d : Nat) (imm : Word) : Laws.Opcode.Statement (.smovi32 g d imm) :=
  fun _ h => Option.some.inj h ▸ ⟨(by decide : opAllocated 0x0AD = true), rfl⟩

theorem Laws.Opcode.nopw (g : Guard) : Laws.Opcode.Statement (.nopw g) :=
  fun _ h => Option.some.inj h ▸ ⟨(by decide : opAllocated 0x0AE = true), rfl⟩

theorem Laws.Opcode.fadd (g : Guard) (d : Nat) (rm : Rm) (a : Src) (b : Src) : Laws.Opcode.Statement (.fadd g d rm a b) :=
  fun _ h => Option.some.inj h ▸ ⟨(by decide : opAllocated 0x0C0 = true), rfl⟩

theorem Laws.Opcode.fsub (g : Guard) (d : Nat) (rm : Rm) (a : Src) (b : Src) : Laws.Opcode.Statement (.fsub g d rm a b) :=
  fun _ h => Option.some.inj h ▸ ⟨(by decide : opAllocated 0x0C1 = true), rfl⟩

theorem Laws.Opcode.fmul (g : Guard) (d : Nat) (rm : Rm) (a : Src) (b : Src) : Laws.Opcode.Statement (.fmul g d rm a b) :=
  fun _ h => Option.some.inj h ▸ ⟨(by decide : opAllocated 0x0C2 = true), rfl⟩

theorem Laws.Opcode.fdiv (g : Guard) (d : Nat) (rm : Rm) (a : Src) (b : Src) : Laws.Opcode.Statement (.fdiv g d rm a b) :=
  fun _ h => Option.some.inj h ▸ ⟨(by decide : opAllocated 0x0C3 = true), rfl⟩

theorem Laws.Opcode.fmin (g : Guard) (d : Nat) (a : Src) (b : Src) : Laws.Opcode.Statement (.fmin g d a b) :=
  fun _ h => Option.some.inj h ▸ ⟨(by decide : opAllocated 0x0C4 = true), rfl⟩

theorem Laws.Opcode.fmax (g : Guard) (d : Nat) (a : Src) (b : Src) : Laws.Opcode.Statement (.fmax g d a b) :=
  fun _ h => Option.some.inj h ▸ ⟨(by decide : opAllocated 0x0C5 = true), rfl⟩

theorem Laws.Opcode.fabs (g : Guard) (d : Nat) (a : Src) : Laws.Opcode.Statement (.fabs g d a) :=
  fun _ h => Option.some.inj h ▸ ⟨(by decide : opAllocated 0x0C6 = true), rfl⟩

theorem Laws.Opcode.fneg (g : Guard) (d : Nat) (a : Src) : Laws.Opcode.Statement (.fneg g d a) :=
  fun _ h => Option.some.inj h ▸ ⟨(by decide : opAllocated 0x0C7 = true), rfl⟩

theorem Laws.Opcode.fcmp (g : Guard) (q : Nat) (cc : FCond) (a : Src) (b : Src) : Laws.Opcode.Statement (.fcmp g q cc a b) :=
  fun _ h => Option.some.inj h ▸ ⟨(by decide : opAllocated 0x0C8 = true), rfl⟩

theorem Laws.Opcode.fclass (g : Guard) (d : Nat) (fmt : Fmt) (h1 : Bool) (a : Src) : Laws.Opcode.Statement (.fclass g d fmt h1 a) :=
  fun _ h => Option.some.inj h ▸ ⟨(by decide : opAllocated 0x0C9 = true), rfl⟩

theorem Laws.Opcode.fsqrt (g : Guard) (d : Nat) (rm : Rm) (a : Src) : Laws.Opcode.Statement (.fsqrt g d rm a) :=
  fun _ h => Option.some.inj h ▸ ⟨(by decide : opAllocated 0x0CA = true), rfl⟩

theorem Laws.Opcode.frcp (g : Guard) (d : Nat) (a : Src) : Laws.Opcode.Statement (.frcp g d a) :=
  fun _ h => Option.some.inj h ▸ ⟨(by decide : opAllocated 0x0CB = true), rfl⟩

theorem Laws.Opcode.frsq (g : Guard) (d : Nat) (a : Src) : Laws.Opcode.Statement (.frsq g d a) :=
  fun _ h => Option.some.inj h ▸ ⟨(by decide : opAllocated 0x0CC = true), rfl⟩

theorem Laws.Opcode.fex2 (g : Guard) (d : Nat) (a : Src) : Laws.Opcode.Statement (.fex2 g d a) :=
  fun _ h => Option.some.inj h ▸ ⟨(by decide : opAllocated 0x0CD = true), rfl⟩

theorem Laws.Opcode.flg2 (g : Guard) (d : Nat) (a : Src) : Laws.Opcode.Statement (.flg2 g d a) :=
  fun _ h => Option.some.inj h ▸ ⟨(by decide : opAllocated 0x0CE = true), rfl⟩

theorem Laws.Opcode.fsin (g : Guard) (d : Nat) (a : Src) : Laws.Opcode.Statement (.fsin g d a) :=
  fun _ h => Option.some.inj h ▸ ⟨(by decide : opAllocated 0x0CF = true), rfl⟩

theorem Laws.Opcode.fcos (g : Guard) (d : Nat) (a : Src) : Laws.Opcode.Statement (.fcos g d a) :=
  fun _ h => Option.some.inj h ▸ ⟨(by decide : opAllocated 0x0D0 = true), rfl⟩

theorem Laws.Opcode.ftanh (g : Guard) (d : Nat) (a : Src) : Laws.Opcode.Statement (.ftanh g d a) :=
  fun _ h => Option.some.inj h ▸ ⟨(by decide : opAllocated 0x0D1 = true), rfl⟩

theorem Laws.Opcode.frint (g : Guard) (d : Nat) (rm : Rm) (x : Bool) (a : Src) : Laws.Opcode.Statement (.frint g d rm x a) :=
  fun _ h => Option.some.inj h ▸ ⟨(by decide : opAllocated 0x0D2 = true), rfl⟩

theorem Laws.Opcode.dadd (g : Guard) (d : Nat) (rm : Rm) (a : VSrc) (b : VSrc) : Laws.Opcode.Statement (.dadd g d rm a b) :=
  fun _ h => Option.some.inj h ▸ ⟨(by decide : opAllocated 0x0E0 = true), rfl⟩

theorem Laws.Opcode.dsub (g : Guard) (d : Nat) (rm : Rm) (a : VSrc) (b : VSrc) : Laws.Opcode.Statement (.dsub g d rm a b) :=
  fun _ h => Option.some.inj h ▸ ⟨(by decide : opAllocated 0x0E1 = true), rfl⟩

theorem Laws.Opcode.dmul (g : Guard) (d : Nat) (rm : Rm) (a : VSrc) (b : VSrc) : Laws.Opcode.Statement (.dmul g d rm a b) :=
  fun _ h => Option.some.inj h ▸ ⟨(by decide : opAllocated 0x0E2 = true), rfl⟩

theorem Laws.Opcode.ddiv (g : Guard) (d : Nat) (rm : Rm) (a : VSrc) (b : VSrc) : Laws.Opcode.Statement (.ddiv g d rm a b) :=
  fun _ h => Option.some.inj h ▸ ⟨(by decide : opAllocated 0x0E3 = true), rfl⟩

theorem Laws.Opcode.dmin (g : Guard) (d : Nat) (a : VSrc) (b : VSrc) : Laws.Opcode.Statement (.dmin g d a b) :=
  fun _ h => Option.some.inj h ▸ ⟨(by decide : opAllocated 0x0E4 = true), rfl⟩

theorem Laws.Opcode.dmax (g : Guard) (d : Nat) (a : VSrc) (b : VSrc) : Laws.Opcode.Statement (.dmax g d a b) :=
  fun _ h => Option.some.inj h ▸ ⟨(by decide : opAllocated 0x0E5 = true), rfl⟩

theorem Laws.Opcode.dabs (g : Guard) (d : Nat) (a : VSrc) : Laws.Opcode.Statement (.dabs g d a) :=
  fun _ h => Option.some.inj h ▸ ⟨(by decide : opAllocated 0x0E6 = true), rfl⟩

theorem Laws.Opcode.dneg (g : Guard) (d : Nat) (a : VSrc) : Laws.Opcode.Statement (.dneg g d a) :=
  fun _ h => Option.some.inj h ▸ ⟨(by decide : opAllocated 0x0E7 = true), rfl⟩

theorem Laws.Opcode.dcmp (g : Guard) (q : Nat) (cc : FCond) (a : VSrc) (b : VSrc) : Laws.Opcode.Statement (.dcmp g q cc a b) :=
  fun _ h => Option.some.inj h ▸ ⟨(by decide : opAllocated 0x0E8 = true), rfl⟩

theorem Laws.Opcode.dsqrt (g : Guard) (d : Nat) (rm : Rm) (a : VSrc) : Laws.Opcode.Statement (.dsqrt g d rm a) :=
  fun _ h => Option.some.inj h ▸ ⟨(by decide : opAllocated 0x0E9 = true), rfl⟩

theorem Laws.Opcode.drint (g : Guard) (d : Nat) (rm : Rm) (x : Bool) (a : VSrc) : Laws.Opcode.Statement (.drint g d rm x a) :=
  fun _ h => Option.some.inj h ▸ ⟨(by decide : opAllocated 0x0EA = true), rfl⟩

theorem Laws.Opcode.hadd2 (g : Guard) (d : Nat) (rm : Rm) (a : Src) (b : Src) : Laws.Opcode.Statement (.hadd2 g d rm a b) :=
  fun _ h => Option.some.inj h ▸ ⟨(by decide : opAllocated 0x100 = true), rfl⟩

theorem Laws.Opcode.hmul2 (g : Guard) (d : Nat) (rm : Rm) (a : Src) (b : Src) : Laws.Opcode.Statement (.hmul2 g d rm a b) :=
  fun _ h => Option.some.inj h ▸ ⟨(by decide : opAllocated 0x101 = true), rfl⟩

theorem Laws.Opcode.hmin2 (g : Guard) (d : Nat) (a : Src) (b : Src) : Laws.Opcode.Statement (.hmin2 g d a b) :=
  fun _ h => Option.some.inj h ▸ ⟨(by decide : opAllocated 0x102 = true), rfl⟩

theorem Laws.Opcode.hmax2 (g : Guard) (d : Nat) (a : Src) (b : Src) : Laws.Opcode.Statement (.hmax2 g d a b) :=
  fun _ h => Option.some.inj h ▸ ⟨(by decide : opAllocated 0x103 = true), rfl⟩

theorem Laws.Opcode.hcmp2 (g : Guard) (q : Nat) (cc : FCond) (comb : Comb) (a : Src) (b : Src) : Laws.Opcode.Statement (.hcmp2 g q cc comb a b) :=
  fun _ h => Option.some.inj h ▸ ⟨(by decide : opAllocated 0x104 = true), rfl⟩

theorem Laws.Opcode.badd2 (g : Guard) (d : Nat) (rm : Rm) (a : Src) (b : Src) : Laws.Opcode.Statement (.badd2 g d rm a b) :=
  fun _ h => Option.some.inj h ▸ ⟨(by decide : opAllocated 0x105 = true), rfl⟩

theorem Laws.Opcode.bmul2 (g : Guard) (d : Nat) (rm : Rm) (a : Src) (b : Src) : Laws.Opcode.Statement (.bmul2 g d rm a b) :=
  fun _ h => Option.some.inj h ▸ ⟨(by decide : opAllocated 0x106 = true), rfl⟩

theorem Laws.Opcode.bmin2 (g : Guard) (d : Nat) (a : Src) (b : Src) : Laws.Opcode.Statement (.bmin2 g d a b) :=
  fun _ h => Option.some.inj h ▸ ⟨(by decide : opAllocated 0x107 = true), rfl⟩

theorem Laws.Opcode.bmax2 (g : Guard) (d : Nat) (a : Src) (b : Src) : Laws.Opcode.Statement (.bmax2 g d a b) :=
  fun _ h => Option.some.inj h ▸ ⟨(by decide : opAllocated 0x108 = true), rfl⟩

theorem Laws.Opcode.bcmp2 (g : Guard) (q : Nat) (cc : FCond) (comb : Comb) (a : Src) (b : Src) : Laws.Opcode.Statement (.bcmp2 g q cc comb a b) :=
  fun _ h => Option.some.inj h ▸ ⟨(by decide : opAllocated 0x109 = true), rfl⟩

theorem Laws.Opcode.iadd2 (g : Guard) (d : Nat) (sat : Bool) (u : Bool) (a : Src) (b : Src) : Laws.Opcode.Statement (.iadd2 g d sat u a b) :=
  fun _ h => Option.some.inj h ▸ ⟨(by decide : opAllocated 0x10A = true), rfl⟩

theorem Laws.Opcode.isub2 (g : Guard) (d : Nat) (sat : Bool) (u : Bool) (a : Src) (b : Src) : Laws.Opcode.Statement (.isub2 g d sat u a b) :=
  fun _ h => Option.some.inj h ▸ ⟨(by decide : opAllocated 0x10B = true), rfl⟩

theorem Laws.Opcode.imul2 (g : Guard) (d : Nat) (sat : Bool) (u : Bool) (a : Src) (b : Src) : Laws.Opcode.Statement (.imul2 g d sat u a b) :=
  fun _ h => Option.some.inj h ▸ ⟨(by decide : opAllocated 0x10C = true), rfl⟩

theorem Laws.Opcode.imin2 (g : Guard) (d : Nat) (u : Bool) (a : Src) (b : Src) : Laws.Opcode.Statement (.imin2 g d u a b) :=
  fun _ h => Option.some.inj h ▸ ⟨(by decide : opAllocated 0x10D = true), rfl⟩

theorem Laws.Opcode.imax2 (g : Guard) (d : Nat) (u : Bool) (a : Src) (b : Src) : Laws.Opcode.Statement (.imax2 g d u a b) :=
  fun _ h => Option.some.inj h ▸ ⟨(by decide : opAllocated 0x10E = true), rfl⟩

theorem Laws.Opcode.iabs2 (g : Guard) (d : Nat) (sat : Bool) (a : Src) : Laws.Opcode.Statement (.iabs2 g d sat a) :=
  fun _ h => Option.some.inj h ▸ ⟨(by decide : opAllocated 0x10F = true), rfl⟩

theorem Laws.Opcode.ipack2 (g : Guard) (d : Nat) (u : Bool) (a : Src) (b : Src) : Laws.Opcode.Statement (.ipack2 g d u a b) :=
  fun _ h => Option.some.inj h ▸ ⟨(by decide : opAllocated 0x110 = true), rfl⟩

theorem Laws.Opcode.shrr2 (g : Guard) (d : Nat) (he : Bool) (u : Bool) (a : Src) (b : Src) : Laws.Opcode.Statement (.shrr2 g d he u a b) :=
  fun _ h => Option.some.inj h ▸ ⟨(by decide : opAllocated 0x111 = true), rfl⟩

theorem Laws.Opcode.cvtff (g : Guard) (d : Nat) (rm : Rm) (src : Fmt) (dst : Fmt) (h1 : Bool) (a : Src) (b : Src) : Laws.Opcode.Statement (.cvtff g d rm src dst h1 a b) :=
  fun _ h => Option.some.inj h ▸ ⟨(by decide : opAllocated 0x120 = true), rfl⟩

theorem Laws.Opcode.cvtfi (g : Guard) (d : Nat) (rm : Rm) (src : Fmt) (dst : IntFmt) (h1 : Bool) (a : Src) : Laws.Opcode.Statement (.cvtfi g d rm src dst h1 a) :=
  fun _ h => Option.some.inj h ▸ ⟨(by decide : opAllocated 0x121 = true), rfl⟩

theorem Laws.Opcode.cvtif (g : Guard) (d : Nat) (rm : Rm) (dst : Fmt) (src : IntFmt) (a : Src) (b : Src) : Laws.Opcode.Statement (.cvtif g d rm dst src a b) :=
  fun _ h => Option.some.inj h ▸ ⟨(by decide : opAllocated 0x122 = true), rfl⟩

theorem Laws.Opcode.cvtii (g : Guard) (d : Nat) (src : IntType) (dst : IntType) (idx : Nat) (sat : Bool) (a : Src) : Laws.Opcode.Statement (.cvtii g d src dst idx sat a) :=
  fun _ h => Option.some.inj h ▸ ⟨(by decide : opAllocated 0x123 = true), rfl⟩

theorem Laws.Opcode.cvt8 (g : Guard) (d : Nat) (rm : Rm) (up : Bool) (e5 : Bool) (nosat : Bool) (idx : Nat) (sc : Bool) (a : Src) (b : Src) : Laws.Opcode.Statement (.cvt8 g d rm up e5 nosat idx sc a b) :=
  fun _ h => Option.some.inj h ▸ ⟨(by decide : opAllocated 0x124 = true), rfl⟩

theorem Laws.Opcode.cvt4 (g : Guard) (d : Nat) (rm : Rm) (up : Bool) (idx : Nat) (sc : Bool) (a : Src) (b : Src) : Laws.Opcode.Statement (.cvt4 g d rm up idx sc a b) :=
  fun _ h => Option.some.inj h ▸ ⟨(by decide : opAllocated 0x125 = true), rfl⟩

theorem Laws.Opcode.shfl (g : Guard) (d : Nat) (mode : ShflMode) (logw : Nat) (a : Src) (b : Src) : Laws.Opcode.Statement (.shfl g d mode logw a b) :=
  fun _ h => Option.some.inj h ▸ ⟨(by decide : opAllocated 0x140 = true), rfl⟩

theorem Laws.Opcode.bcast (g : Guard) (d : Nat) (low : Bool) (a : Src) (b : Src) : Laws.Opcode.Statement (.bcast g d low a b) :=
  fun _ h => Option.some.inj h ▸ ⟨(by decide : opAllocated 0x141 = true), rfl⟩

theorem Laws.Opcode.vote (g : Guard) (d : Nat) (mode : VoteMode) (p : Bool) (qa : Nat) : Laws.Opcode.Statement (.vote g d mode p qa) :=
  fun _ h => Option.some.inj h ▸ ⟨(by decide : opAllocated 0x142 = true), rfl⟩

theorem Laws.Opcode.redux (g : Guard) (d : Nat) (rm : Rm) (op : RedOp) (logw : Nat) (a : Src) : Laws.Opcode.Statement (.redux g d rm op logw a) :=
  fun _ h => Option.some.inj h ▸ ⟨(by decide : opAllocated 0x143 = true), rfl⟩

theorem Laws.Opcode.scan (g : Guard) (d : Nat) (rm : Rm) (op : RedOp) (excl : Bool) (a : Src) : Laws.Opcode.Statement (.scan g d rm op excl a) :=
  fun _ h => Option.some.inj h ▸ ⟨(by decide : opAllocated 0x144 = true), rfl⟩

theorem Laws.Opcode.segred (g : Guard) (d : Nat) (rm : Rm) (op : RedOp) (a : Src) (qb : Nat) : Laws.Opcode.Statement (.segred g d rm op a qb) :=
  fun _ h => Option.some.inj h ▸ ⟨(by decide : opAllocated 0x145 = true), rfl⟩

theorem Laws.Opcode.match (g : Guard) (d : Nat) (a : Src) : Laws.Opcode.Statement (.match g d a) :=
  fun _ h => Option.some.inj h ▸ ⟨(by decide : opAllocated 0x146 = true), rfl⟩

theorem Laws.Opcode.intersect (g : Guard) (d : Nat) (a : Src) (b : Src) : Laws.Opcode.Statement (.intersect g d a b) :=
  fun _ h => Option.some.inj h ▸ ⟨(by decide : opAllocated 0x147 = true), rfl⟩

theorem Laws.Opcode.imad (g : Guard) (d : Nat) (a : Src) (b : Src) (c : Src) : Laws.Opcode.Statement (.imad g d a b c) :=
  fun _ h => Option.some.inj h ▸ ⟨(by decide : opAllocated 0x160 = true), rfl⟩

theorem Laws.Opcode.bfi (g : Guard) (d : Nat) (a : Src) (b : Src) (pos : Nat) (len : Nat) : Laws.Opcode.Statement (.bfi g d a b pos len) :=
  fun _ h => Option.some.inj h ▸ ⟨(by decide : opAllocated 0x161 = true), rfl⟩

theorem Laws.Opcode.bitfn (g : Guard) (d : Nat) (t1 : Nat) (t0 : Nat) (a : Src) (b : Src) (c : Src) : Laws.Opcode.Statement (.bitfn g d t1 t0 a b c) :=
  fun _ h => Option.some.inj h ▸ ⟨(by decide : opAllocated 0x162 = true), rfl⟩

theorem Laws.Opcode.bytex (g : Guard) (d : Nat) (codes : Imm16) (a : Src) (b : Src) : Laws.Opcode.Statement (.bytex g d codes a b) :=
  fun _ h => Option.some.inj h ▸ ⟨(by decide : opAllocated 0x163 = true), rfl⟩

theorem Laws.Opcode.ffma (g : Guard) (d : Nat) (rm : Rm) (a : Src) (b : Src) (c : Src) : Laws.Opcode.Statement (.ffma g d rm a b c) :=
  fun _ h => Option.some.inj h ▸ ⟨(by decide : opAllocated 0x164 = true), rfl⟩

theorem Laws.Opcode.dfma (g : Guard) (d : Nat) (rm : Rm) (a : VSrc) (b : VSrc) (c : VSrc) : Laws.Opcode.Statement (.dfma g d rm a b c) :=
  fun _ h => Option.some.inj h ▸ ⟨(by decide : opAllocated 0x165 = true), rfl⟩

theorem Laws.Opcode.hfma2 (g : Guard) (d : Nat) (rm : Rm) (a : Src) (b : Src) (c : Src) : Laws.Opcode.Statement (.hfma2 g d rm a b c) :=
  fun _ h => Option.some.inj h ▸ ⟨(by decide : opAllocated 0x166 = true), rfl⟩

theorem Laws.Opcode.bfma2 (g : Guard) (d : Nat) (rm : Rm) (a : Src) (b : Src) (c : Src) : Laws.Opcode.Statement (.bfma2 g d rm a b c) :=
  fun _ h => Option.some.inj h ▸ ⟨(by decide : opAllocated 0x167 = true), rfl⟩

theorem Laws.Opcode.idp2 (g : Guard) (d : Nat) (ua : Bool) (ub : Bool) (a : Src) (b : Src) (c : Src) : Laws.Opcode.Statement (.idp2 g d ua ub a b c) :=
  fun _ h => Option.some.inj h ▸ ⟨(by decide : opAllocated 0x168 = true), rfl⟩

theorem Laws.Opcode.slide (g : Guard) (d : Nat) (up : Bool) (half : Bool) (fill : Fill) (n : Nat) (a : Src) (b : Src) (c : Src) : Laws.Opcode.Statement (.slide g d up half fill n a b c) :=
  fun _ h => Option.some.inj h ▸ ⟨(by decide : opAllocated 0x169 = true), rfl⟩

theorem Laws.Opcode.prune (g : Guard) (d : Nat) (w : Bool) (op : PruneOp) (a : Src) (b : Src) (c : Src) : Laws.Opcode.Statement (.prune g d w op a b c) :=
  fun _ h => Option.some.inj h ▸ ⟨(by decide : opAllocated 0x16A = true), rfl⟩

theorem Laws.Opcode.brec (g : Guard) (bd : Nat) (op : BrecOp) (bb : Nat) (a : Src) (s : Src) (off : Word) : Laws.Opcode.Statement (.brec g bd op bb a s off) :=
  fun _ h => Option.some.inj h ▸ ⟨(by decide : opAllocated 0x180 = true), rfl⟩

theorem Laws.Opcode.ld (g : Guard) (d : Nat) (wid : Width) (hint : Hint) (acq : Bool) (sc : Scope) (br : Nat) (a : Src) (off : Word) : Laws.Opcode.Statement (.ld g d wid hint acq sc br a off) :=
  fun _ h => Option.some.inj h ▸ ⟨(by decide : opAllocated 0x181 = true), rfl⟩

theorem Laws.Opcode.st (g : Guard) (wid : Width) (hint : Hint) (rel : Bool) (sc : Scope) (br : Nat) (a : Src) (off : Word) (v : Src) : Laws.Opcode.Statement (.st g wid hint rel sc br a off v) :=
  fun _ h => Option.some.inj h ▸ ⟨(by decide : opAllocated 0x182 = true), rfl⟩

theorem Laws.Opcode.lds (g : Guard) (d : Nat) (wid : Width) (a : Src) (off : Word) : Laws.Opcode.Statement (.lds g d wid a off) :=
  fun _ h => Option.some.inj h ▸ ⟨(by decide : opAllocated 0x183 = true), rfl⟩

theorem Laws.Opcode.sts (g : Guard) (wid : Width) (a : Src) (off : Word) (v : Src) : Laws.Opcode.Statement (.sts g wid a off v) :=
  fun _ h => Option.some.inj h ▸ ⟨(by decide : opAllocated 0x184 = true), rfl⟩

theorem Laws.Opcode.gather (g : Guard) (d : Nat) (wid : Width) (hint : Hint) (br : Nat) (a : Src) (off : Word) : Laws.Opcode.Statement (.gather g d wid hint br a off) :=
  fun _ h => Option.some.inj h ▸ ⟨(by decide : opAllocated 0x185 = true), rfl⟩

theorem Laws.Opcode.scatter (g : Guard) (wid : Width) (hint : Hint) (br : Nat) (a : Src) (off : Word) (v : Src) : Laws.Opcode.Statement (.scatter g wid hint br a off v) :=
  fun _ h => Option.some.inj h ▸ ⟨(by decide : opAllocated 0x186 = true), rfl⟩

theorem Laws.Opcode.pref (g : Guard) (keep : Bool) (br : Nat) (a : Src) (off : Word) : Laws.Opcode.Statement (.pref g keep br a off) :=
  fun _ h => Option.some.inj h ▸ ⟨(by decide : opAllocated 0x187 = true), rfl⟩

theorem Laws.Opcode.discard (g : Guard) (br : Nat) (a : Src) (off : Word) : Laws.Opcode.Statement (.discard g br a off) :=
  fun _ h => Option.some.inj h ▸ ⟨(by decide : opAllocated 0x188 = true), rfl⟩

theorem Laws.Opcode.brks (g : Guard) (d : Nat) (br : Nat) (a : Src) (off : Word) (p : VSrc) : Laws.Opcode.Statement (.brks g d br a off p) :=
  fun _ h => Option.some.inj h ▸ ⟨(by decide : opAllocated 0x189 = true), rfl⟩

theorem Laws.Opcode.brkg (g : Guard) (d : Nat) (br : Nat) (a : Src) (off : Word) (p : VSrc) : Laws.Opcode.Statement (.brkg g d br a off p) :=
  fun _ h => Option.some.inj h ▸ ⟨(by decide : opAllocated 0x18A = true), rfl⟩

theorem Laws.Opcode.atom (g : Guard) (d : Nat) (op : AtomOp) (w64 : Bool) (lam : Bool) (acq : Bool) (rel : Bool) (sc : Scope) (br : Nat) (a : Src) (off : Word) (v : Src) : Laws.Opcode.Statement (.atom g d op w64 lam acq rel sc br a off v) :=
  fun _ h => Option.some.inj h ▸ ⟨(by decide : opAllocated 0x1A0 = true), rfl⟩

theorem Laws.Opcode.atoms (g : Guard) (d : Nat) (op : AtomOp) (w64 : Bool) (acq : Bool) (rel : Bool) (sc : Scope) (a : Src) (off : Word) (v : Src) : Laws.Opcode.Statement (.atoms g d op w64 acq rel sc a off v) :=
  fun _ h => Option.some.inj h ▸ ⟨(by decide : opAllocated 0x1A1 = true), rfl⟩

theorem Laws.Opcode.red (g : Guard) (op : AtomOp) (w64 : Bool) (lam : Bool) (acq : Bool) (rel : Bool) (sc : Scope) (br : Nat) (a : Src) (off : Word) (v : Src) : Laws.Opcode.Statement (.red g op w64 lam acq rel sc br a off v) :=
  fun _ h => Option.some.inj h ▸ ⟨(by decide : opAllocated 0x1A2 = true), rfl⟩

theorem Laws.Opcode.acq (g : Guard) (d : Nat) (mode : AcqMode) (sc : Scope) (br : Nat) (v : Src) : Laws.Opcode.Statement (.acq g d mode sc br v) :=
  fun _ h => Option.some.inj h ▸ ⟨(by decide : opAllocated 0x1A3 = true), rfl⟩

theorem Laws.Opcode.rel (g : Guard) (mode : RelMode) (sc : Scope) (br : Nat) (v : Src) : Laws.Opcode.Statement (.rel g mode sc br v) :=
  fun _ h => Option.some.inj h ▸ ⟨(by decide : opAllocated 0x1A4 = true), rfl⟩

theorem Laws.Opcode.fence (g : Guard) (k : FenceKind) (sc : Scope) : Laws.Opcode.Statement (.fence g k sc) :=
  fun _ h => Option.some.inj h ▸ ⟨(by decide : opAllocated 0x1C0 = true), rfl⟩

theorem Laws.Opcode.bar (g : Guard) : Laws.Opcode.Statement (.bar g) :=
  fun _ h => Option.some.inj h ▸ ⟨(by decide : opAllocated 0x1C1 = true), rfl⟩

theorem Laws.Opcode.arrive (g : Guard) (d : Nat) (nr : Bool) (rel : Bool) (sc : Scope) (a : Src) (off : Word) (n : Nat) : Laws.Opcode.Statement (.arrive g d nr rel sc a off n) :=
  fun _ h => Option.some.inj h ▸ ⟨(by decide : opAllocated 0x1C2 = true), rfl⟩

theorem Laws.Opcode.waitph (g : Guard) (d : Nat) (poll : Bool) (acq : Bool) (sc : Scope) (a : Src) (off : Word) (p : Bool) : Laws.Opcode.Statement (.waitph g d poll acq sc a off p) :=
  fun _ h => Option.some.inj h ▸ ⟨(by decide : opAllocated 0x1C3 = true), rfl⟩

theorem Laws.Opcode.segNew (g : Guard) (d : Nat) (a : Src) (off : Word) : Laws.Opcode.Statement (.segNew g d a off) :=
  fun _ h => Option.some.inj h ▸ ⟨(by decide : opAllocated 0x1C4 = true), rfl⟩

theorem Laws.Opcode.segAttach (g : Guard) (d : Nat) (win : Nat) (load : Bool) (name : SegName) : Laws.Opcode.Statement (.segAttach g d win load name) :=
  fun _ h => Option.some.inj h ▸ ⟨(by decide : opAllocated 0x1C5 = true), rfl⟩

theorem Laws.Opcode.segDetach (g : Guard) (d : Nat) (win : Nat) : Laws.Opcode.Statement (.segDetach g d win) :=
  fun _ h => Option.some.inj h ▸ ⟨(by decide : opAllocated 0x1C6 = true), rfl⟩

theorem Laws.Opcode.segFree (g : Guard) (d : Nat) (wb : Bool) (name : SegName) : Laws.Opcode.Statement (.segFree g d wb name) :=
  fun _ h => Option.some.inj h ▸ ⟨(by decide : opAllocated 0x1C7 = true), rfl⟩

theorem Laws.Opcode.segQuery (g : Guard) (d : Nat) (name : SegName) : Laws.Opcode.Statement (.segQuery g d name) :=
  fun _ h => Option.some.inj h ▸ ⟨(by decide : opAllocated 0x1C8 = true), rfl⟩

theorem Laws.Opcode.mmaq (g : Guard) (a : Src) (off : Word) : Laws.Opcode.Statement (.mmaq g a off) :=
  fun _ h => Option.some.inj h ▸ ⟨(by decide : opAllocated 0x1E0 = true), rfl⟩

theorem Laws.Opcode.wbload (g : Guard) (acq : Bool) (rel : Bool) (sc : Scope) (a : Src) (off : Word) (br : Nat) : Laws.Opcode.Statement (.wbload g acq rel sc a off br) :=
  fun _ h => Option.some.inj h ▸ ⟨(by decide : opAllocated 0x1E1 = true), rfl⟩

theorem Laws.Opcode.cpq (g : Guard) (acq : Bool) (rel : Bool) (sc : Scope) (a : Src) (off : Word) (br : Nat) : Laws.Opcode.Statement (.cpq g acq rel sc a off br) :=
  fun _ h => Option.some.inj h ▸ ⟨(by decide : opAllocated 0x1E2 = true), rfl⟩

theorem Laws.Opcode.march (g : Guard) (dt : DepthTest) (acq : Bool) (rel : Bool) (sc : Scope) (a : Src) (off : Word) : Laws.Opcode.Statement (.march g dt acq rel sc a off) :=
  fun _ h => Option.some.inj h ▸ ⟨(by decide : opAllocated 0x1E3 = true), rfl⟩

theorem Laws.Opcode.coll (g : Guard) (d : Nat) (r : Bool) (op : CollOp) (rop : RedOp) (b64 : Bool) (acq : Bool) (rel : Bool) (sc : Scope) (a : Src) (off : Word) (br : Nat) (grp : Word) : Laws.Opcode.Statement (.coll g d r op rop b64 acq rel sc a off br grp) :=
  fun _ h => Option.some.inj h ▸ ⟨(by decide : opAllocated 0x1E4 = true), rfl⟩

theorem Laws.Opcode.enq (g : Guard) (d : Nat) (rel : Bool) (sc : Scope) (a : Src) (off : Word) (h : Word) : Laws.Opcode.Statement (.enq g d rel sc a off h) :=
  fun _ h => Option.some.inj h ▸ ⟨(by decide : opAllocated 0x1E5 = true), rfl⟩

theorem Laws.Opcode.calls (g : Guard) (a : Src) (b : Src) (rec : Word) : Laws.Opcode.Statement (.calls g a b rec) :=
  fun _ h => Option.some.inj h ▸ ⟨(by decide : opAllocated 0x1E6 = true), rfl⟩

theorem Laws.Opcode.emitp (g : Guard) (a : Src) (off : Word) : Laws.Opcode.Statement (.emitp g a off) :=
  fun _ h => Option.some.inj h ▸ ⟨(by decide : opAllocated 0x1E7 = true), rfl⟩

theorem Laws.Opcode.tblend (g : Guard) (op : BlendOp) (a : Src) (b : VSrc) : Laws.Opcode.Statement (.tblend g op a b) :=
  fun _ h => Option.some.inj h ▸ ⟨(by decide : opAllocated 0x1E8 = true), rfl⟩

theorem Laws.Opcode.momacc (g : Guard) (d : Nat) (rec : Bool) (a : Src) (b : Src) : Laws.Opcode.Statement (.momacc g d rec a b) :=
  fun _ h => Option.some.inj h ▸ ⟨(by decide : opAllocated 0x1E9 = true), rfl⟩

theorem Laws.Opcode.fbcConst (c : Word) : Laws.Opcode.Statement (.fbcConst c) :=
  fun _ h => nomatch h

theorem Laws.Opcode.fbcPos (i : Nat) : Laws.Opcode.Statement (.fbcPos i) :=
  fun _ h => nomatch h

theorem Laws.Opcode.fbcXform (m : (Vector Word 12)) : Laws.Opcode.Statement (.fbcXform m) :=
  fun _ h => nomatch h

theorem Laws.Opcode.fbcSmin (k : Word) : Laws.Opcode.Statement (.fbcSmin k) :=
  fun _ h => nomatch h

theorem Laws.Opcode.fbcSmax (k : Word) : Laws.Opcode.Statement (.fbcSmax k) :=
  fun _ h => nomatch h

theorem Laws.Opcode.fbcAddc (k : Word) : Laws.Opcode.Statement (.fbcAddc k) :=
  fun _ h => nomatch h

theorem Laws.Opcode.fbcRsubc (k : Word) : Laws.Opcode.Statement (.fbcRsubc k) :=
  fun _ h => nomatch h

theorem Laws.Opcode.fbcMulc (k : Word) : Laws.Opcode.Statement (.fbcMulc k) :=
  fun _ h => nomatch h

theorem Laws.Opcode.fbcMinc (k : Word) : Laws.Opcode.Statement (.fbcMinc k) :=
  fun _ h => nomatch h

theorem Laws.Opcode.fbcMaxc (k : Word) : Laws.Opcode.Statement (.fbcMaxc k) :=
  fun _ h => nomatch h

theorem Laws.Opcode.fbcClamp (l : Word) (h : Word) : Laws.Opcode.Statement (.fbcClamp l h) :=
  fun _ h => nomatch h

theorem Laws.Opcode.fbcPick (n : Nat) : Laws.Opcode.Statement (.fbcPick n) :=
  fun _ h => nomatch h

theorem Laws.Opcode.fbcBrick (i : Word) : Laws.Opcode.Statement (.fbcBrick i) :=
  fun _ h => nomatch h

theorem Laws.Opcode.fbcCallout (n : Nat) (k : Word) : Laws.Opcode.Statement (.fbcCallout n k) :=
  fun _ h => nomatch h

theorem Laws.Opcode.longLatencyWriteback (w : Nat) (r : Nat) (l : Nat) : Laws.Opcode.Statement (.longLatencyWriteback w r l) :=
  fun _ h => nomatch h

theorem Laws.Opcode.collectorWindowClose (core : Nat) : Laws.Opcode.Statement (.collectorWindowClose core) :=
  fun _ h => nomatch h

theorem Laws.Opcode.yieldRelease (w : Nat) : Laws.Opcode.Statement (.yieldRelease w) :=
  fun _ h => nomatch h

theorem Laws.Opcode.sleepEnd (w : Nat) : Laws.Opcode.Statement (.sleepEnd w) :=
  fun _ h => nomatch h

theorem Laws.Opcode.deadlineExpiry (b : Nat) : Laws.Opcode.Statement (.deadlineExpiry b) :=
  fun _ h => nomatch h

theorem Laws.Opcode.cooperativeSave (b : Nat) : Laws.Opcode.Statement (.cooperativeSave b) :=
  fun _ h => nomatch h

theorem Laws.Opcode.saveComplete (b : Nat) : Laws.Opcode.Statement (.saveComplete b) :=
  fun _ h => nomatch h

theorem Laws.Opcode.saveWatchdog (b : Nat) : Laws.Opcode.Statement (.saveWatchdog b) :=
  fun _ h => nomatch h

theorem Laws.Opcode.handlerBudgetExpiry (w : Nat) : Laws.Opcode.Statement (.handlerBudgetExpiry w) :=
  fun _ h => nomatch h

theorem Laws.Opcode.launchMessage (launch : Nat) (cl : Nat) : Laws.Opcode.Statement (.launchMessage launch cl) :=
  fun _ h => nomatch h

theorem Laws.Opcode.blockCompletion (b : Nat) : Laws.Opcode.Statement (.blockCompletion b) :=
  fun _ h => nomatch h

theorem Laws.Opcode.blockStart (b : Nat) : Laws.Opcode.Statement (.blockStart b) :=
  fun _ h => nomatch h

theorem Laws.Opcode.matrixTile (cl : Nat) : Laws.Opcode.Statement (.matrixTile cl) :=
  fun _ h => nomatch h

theorem Laws.Opcode.copyCommandStart (b : Nat) : Laws.Opcode.Statement (.copyCommandStart b) :=
  fun _ h => nomatch h

theorem Laws.Opcode.cpqCompletion (b : Nat) : Laws.Opcode.Statement (.cpqCompletion b) :=
  fun _ h => nomatch h

theorem Laws.Opcode.collatorWindowTimeout (b : Nat) (target : Nat) : Laws.Opcode.Statement (.collatorWindowTimeout b target) :=
  fun _ h => nomatch h

theorem Laws.Opcode.collatorWarpForm (b : Nat) : Laws.Opcode.Statement (.collatorWarpForm b) :=
  fun _ h => nomatch h

theorem Laws.Opcode.phaseWaitSatisfied (w : Nat) (i : Nat) (l : Nat) : Laws.Opcode.Statement (.phaseWaitSatisfied w i l) :=
  fun _ h => nomatch h

theorem Laws.Opcode.guardWaitSatisfied (w : Nat) (i : Nat) (l : Nat) : Laws.Opcode.Statement (.guardWaitSatisfied w i l) :=
  fun _ h => nomatch h

theorem Laws.Opcode.fbcXpop : Laws.Opcode.Statement .fbcXpop :=
  fun _ h => nomatch h

theorem Laws.Opcode.fbcNop : Laws.Opcode.Statement .fbcNop :=
  fun _ h => nomatch h

theorem Laws.Opcode.fbcAdd : Laws.Opcode.Statement .fbcAdd :=
  fun _ h => nomatch h

theorem Laws.Opcode.fbcSub : Laws.Opcode.Statement .fbcSub :=
  fun _ h => nomatch h

theorem Laws.Opcode.fbcMul : Laws.Opcode.Statement .fbcMul :=
  fun _ h => nomatch h

theorem Laws.Opcode.fbcDiv : Laws.Opcode.Statement .fbcDiv :=
  fun _ h => nomatch h

theorem Laws.Opcode.fbcMin : Laws.Opcode.Statement .fbcMin :=
  fun _ h => nomatch h

theorem Laws.Opcode.fbcMax : Laws.Opcode.Statement .fbcMax :=
  fun _ h => nomatch h

theorem Laws.Opcode.fbcNeg : Laws.Opcode.Statement .fbcNeg :=
  fun _ h => nomatch h

theorem Laws.Opcode.fbcAbs : Laws.Opcode.Statement .fbcAbs :=
  fun _ h => nomatch h

theorem Laws.Opcode.fbcSqrt : Laws.Opcode.Statement .fbcSqrt :=
  fun _ h => nomatch h

theorem Laws.Opcode.fbcSqr : Laws.Opcode.Statement .fbcSqr :=
  fun _ h => nomatch h

theorem Laws.Opcode.fbcSin : Laws.Opcode.Statement .fbcSin :=
  fun _ h => nomatch h

theorem Laws.Opcode.fbcCos : Laws.Opcode.Statement .fbcCos :=
  fun _ h => nomatch h

theorem Laws.Opcode.fbcFloor : Laws.Opcode.Statement .fbcFloor :=
  fun _ h => nomatch h

theorem Laws.Opcode.fbcFract : Laws.Opcode.Statement .fbcFract :=
  fun _ h => nomatch h

theorem Laws.Opcode.fbcLen2 : Laws.Opcode.Statement .fbcLen2 :=
  fun _ h => nomatch h

theorem Laws.Opcode.fbcLen3 : Laws.Opcode.Statement .fbcLen3 :=
  fun _ h => nomatch h

theorem Laws.Opcode.fbcMix : Laws.Opcode.Statement .fbcMix :=
  fun _ h => nomatch h

theorem Laws.Opcode.fbcDup : Laws.Opcode.Statement .fbcDup :=
  fun _ h => nomatch h

theorem Laws.Opcode.fbcDrop : Laws.Opcode.Statement .fbcDrop :=
  fun _ h => nomatch h

theorem Laws.Opcode.fbcSwap : Laws.Opcode.Statement .fbcSwap :=
  fun _ h => nomatch h

theorem Laws.Opcode.fbcOver : Laws.Opcode.Statement .fbcOver :=
  fun _ h => nomatch h

theorem Laws.Opcode.fbcRot : Laws.Opcode.Statement .fbcRot :=
  fun _ h => nomatch h

theorem Laws.Opcode.fbcEnd : Laws.Opcode.Statement .fbcEnd :=
  fun _ h => nomatch h

theorem Laws.Opcode.operandLogReplay (w : Nat) : Laws.Opcode.Statement (.operandLogReplay w) :=
  fun _ h => nomatch h

theorem Laws.Opcode.faultRingWrite (ctx : Nat) : Laws.Opcode.Statement (.faultRingWrite ctx) :=
  fun _ h => nomatch h

theorem Laws.Opcode.frespRetry (ctx : Nat) (id : Nat) : Laws.Opcode.Statement (.frespRetry ctx id) :=
  fun _ h => nomatch h

theorem Laws.Opcode.frespFail (ctx : Nat) (id : Nat) : Laws.Opcode.Statement (.frespFail ctx id) :=
  fun _ h => nomatch h

theorem Laws.Opcode.preemptionRequest (b : Nat) : Laws.Opcode.Statement (.preemptionRequest b) :=
  fun _ h => nomatch h

theorem Laws.Opcode.killMessage (b : Nat) (code : Nat) (detail : Nat) : Laws.Opcode.Statement (.killMessage b code detail) :=
  fun _ h => nomatch h

theorem Laws.Opcode.restoreMessage (sv : Nat) (core : Nat) : Laws.Opcode.Statement (.restoreMessage sv core) :=
  fun _ h => nomatch h

theorem Laws.Opcode.contextSwitchMessage (ctx : Nat) (cl : Nat) : Laws.Opcode.Statement (.contextSwitchMessage ctx cl) :=
  fun _ h => nomatch h

theorem Laws.Opcode.faultReport (i : Nat) : Laws.Opcode.Statement (.faultReport i) :=
  fun _ h => nomatch h

theorem Laws.Opcode.admissionRefusal (launch : Nat) (n : Nat) : Laws.Opcode.Statement (.admissionRefusal launch n) :=
  fun _ h => nomatch h

theorem Laws.Opcode.blockAdmission (launch : Nat) (n : Nat) (core : Nat) (p0 : Nat) : Laws.Opcode.Statement (.blockAdmission launch n core p0) :=
  fun _ h => nomatch h

theorem Laws.Opcode.blockRestore (sv : Nat) (core : Nat) (p0 : Nat) : Laws.Opcode.Statement (.blockRestore sv core p0) :=
  fun _ h => nomatch h

theorem Laws.Opcode.admissionWaitLimit (launch : Nat) (n : Nat) : Laws.Opcode.Statement (.admissionWaitLimit launch n) :=
  fun _ h => nomatch h

theorem Laws.Opcode.priorityPreemption (launch : Nat) (n : Nat) (core : Nat) : Laws.Opcode.Statement (.priorityPreemption launch n core) :=
  fun _ h => nomatch h

theorem Laws.Opcode.skip (q : Nat) : Laws.Opcode.Statement (.skip q) :=
  fun _ h => nomatch h

theorem Laws.Opcode.launch (q : Nat) : Laws.Opcode.Statement (.launch q) :=
  fun _ h => nomatch h

theorem Laws.Opcode.signal (q : Nat) : Laws.Opcode.Statement (.signal q) :=
  fun _ h => nomatch h

theorem Laws.Opcode.wait (q : Nat) : Laws.Opcode.Statement (.wait q) :=
  fun _ h => nomatch h

theorem Laws.Opcode.setq (q : Nat) : Laws.Opcode.Statement (.setq q) :=
  fun _ h => nomatch h

theorem Laws.Opcode.dqnew (q : Nat) : Laws.Opcode.Statement (.dqnew q) :=
  fun _ h => nomatch h

theorem Laws.Opcode.dqfree (q : Nat) : Laws.Opcode.Statement (.dqfree q) :=
  fun _ h => nomatch h

theorem Laws.Opcode.packetStart (q : Nat) (seq : Nat) : Laws.Opcode.Statement (.packetStart q seq) :=
  fun _ h => nomatch h

theorem Laws.Opcode.waitConditionMet (q : Nat) (seq : Nat) : Laws.Opcode.Statement (.waitConditionMet q seq) :=
  fun _ h => nomatch h

theorem Laws.Opcode.packetCompletion (q : Nat) (seq : Nat) : Laws.Opcode.Statement (.packetCompletion q seq) :=
  fun _ h => nomatch h

theorem Laws.Opcode.queueEnable (q : Nat) : Laws.Opcode.Statement (.queueEnable q) :=
  fun _ h => nomatch h

theorem Laws.Opcode.queueDisable (q : Nat) : Laws.Opcode.Statement (.queueDisable q) :=
  fun _ h => nomatch h

theorem Laws.Opcode.resume (q : Nat) : Laws.Opcode.Statement (.resume q) :=
  fun _ h => nomatch h

theorem Laws.Opcode.deviceQueueEntryTake (ctx : Nat) (dq : Nat) : Laws.Opcode.Statement (.deviceQueueEntryTake ctx dq) :=
  fun _ h => nomatch h

theorem Laws.Opcode.childLaunchStart (launch : Nat) : Laws.Opcode.Statement (.childLaunchStart launch) :=
  fun _ h => nomatch h

theorem Laws.Opcode.matrixCommandStart (b : Nat) : Laws.Opcode.Statement (.matrixCommandStart b) :=
  fun _ h => nomatch h

theorem Laws.Opcode.outputBlockWriteback (b : Nat) : Laws.Opcode.Statement (.outputBlockWriteback b) :=
  fun _ h => nomatch h

theorem Laws.Opcode.mmaqCompletion (b : Nat) : Laws.Opcode.Statement (.mmaqCompletion b) :=
  fun _ h => nomatch h

theorem Laws.Opcode.wbloadCompletion (b : Nat) : Laws.Opcode.Statement (.wbloadCompletion b) :=
  fun _ h => nomatch h

theorem Laws.Opcode.marchCommandStart (b : Nat) : Laws.Opcode.Statement (.marchCommandStart b) :=
  fun _ h => nomatch h

theorem Laws.Opcode.marchRayDone (b : Nat) (ray : Nat) : Laws.Opcode.Statement (.marchRayDone b ray) :=
  fun _ h => nomatch h

theorem Laws.Opcode.marchCompletion (b : Nat) : Laws.Opcode.Statement (.marchCompletion b) :=
  fun _ h => nomatch h

theorem Laws.Opcode.collCompletion (i : Nat) : Laws.Opcode.Statement (.collCompletion i) :=
  fun _ h => nomatch h

theorem Laws.Opcode.collectiveContribution (dev : Nat) (launch : Nat) (grp : Nat) (n : Nat) (rank : Nat) (data : (List Byte)) : Laws.Opcode.Statement (.collectiveContribution dev launch grp n rank data) :=
  fun _ h => nomatch h

theorem Laws.Opcode.segmentWritebackEnd (seg : Nat) : Laws.Opcode.Statement (.segmentWritebackEnd seg) :=
  fun _ h => nomatch h

theorem Laws.Opcode.segmentReloadEnd (seg : Nat) : Laws.Opcode.Statement (.segmentReloadEnd seg) :=
  fun _ h => nomatch h

theorem Laws.Opcode.scrubPass (errs : (List (Nat × Nat))) : Laws.Opcode.Statement (.scrubPass errs) :=
  fun _ h => nomatch h

theorem Laws.Opcode.coreRejoinPlacement (core : Nat) : Laws.Opcode.Statement (.coreRejoinPlacement core) :=
  fun _ h => nomatch h

theorem Laws.Opcode.coreHot (core : Nat) (temp : Nat) : Laws.Opcode.Statement (.coreHot core temp) :=
  fun _ h => nomatch h

theorem Laws.Opcode.coreCool (core : Nat) (temp : Nat) : Laws.Opcode.Statement (.coreCool core temp) :=
  fun _ h => nomatch h

theorem Laws.Opcode.powerLimitExceeded : Laws.Opcode.Statement .powerLimitExceeded :=
  fun _ h => nomatch h

theorem Laws.Opcode.powerLimitCleared : Laws.Opcode.Statement .powerLimitCleared :=
  fun _ h => nomatch h

theorem Laws.Opcode.tcritReached (core : Nat) (temp : Nat) : Laws.Opcode.Statement (.tcritReached core temp) :=
  fun _ h => nomatch h

theorem Laws.Opcode.hostRead (fn : Nat) (addr : Nat) (n : Nat) : Laws.Opcode.Statement (.hostRead fn addr n) :=
  fun _ h => nomatch h

theorem Laws.Opcode.hostWrite (fn : Nat) (addr : Nat) (data : (List Byte)) : Laws.Opcode.Statement (.hostWrite fn addr data) :=
  fun _ h => nomatch h

theorem Laws.Opcode.hostAtomicop (fn : Nat) (addr : Nat) (op : Nat) (w : Nat) (v : Nat) (cmp : Nat) : Laws.Opcode.Statement (.hostAtomicop fn addr op w v cmp) :=
  fun _ h => nomatch h

theorem Laws.Opcode.atsInvalidationRequest (ctx : Nat) (va : Nat) (n : Nat) : Laws.Opcode.Statement (.atsInvalidationRequest ctx va n) :=
  fun _ h => nomatch h

theorem Laws.Opcode.pageRequestResponse (i : Nat) (ok : Bool) : Laws.Opcode.Statement (.pageRequestResponse i ok) :=
  fun _ h => nomatch h

theorem Laws.Opcode.term (ctx : Nat) : Laws.Opcode.Statement (.term ctx) :=
  fun _ h => nomatch h

theorem Laws.Opcode.invalidation (ctx : Nat) (iva : Nat) (n : Nat) : Laws.Opcode.Statement (.invalidation ctx iva n) :=
  fun _ h => nomatch h

theorem Laws.Opcode.invalidationComplete (ctx : Nat) : Laws.Opcode.Statement (.invalidationComplete ctx) :=
  fun _ h => nomatch h

theorem Laws.Opcode.miggo (ctx : Nat) : Laws.Opcode.Statement (.miggo ctx) :=
  fun _ h => nomatch h

theorem Laws.Opcode.migrationComplete (ctx : Nat) : Laws.Opcode.Statement (.migrationComplete ctx) :=
  fun _ h => nomatch h

theorem Laws.Opcode.go (token : Nat) : Laws.Opcode.Statement (.go token) :=
  fun _ h => nomatch h

theorem Laws.Opcode.preqActive : Laws.Opcode.Statement .preqActive :=
  fun _ h => nomatch h

theorem Laws.Opcode.preqQuiesce : Laws.Opcode.Statement .preqQuiesce :=
  fun _ h => nomatch h

theorem Laws.Opcode.preqStandby : Laws.Opcode.Statement .preqStandby :=
  fun _ h => nomatch h

theorem Laws.Opcode.standbyPowerDown : Laws.Opcode.Statement .standbyPowerDown :=
  fun _ h => nomatch h

theorem Laws.Opcode.stage : Laws.Opcode.Statement .stage :=
  fun _ h => nomatch h

theorem Laws.Opcode.activate : Laws.Opcode.Statement .activate :=
  fun _ h => nomatch h

theorem Laws.Opcode.abort : Laws.Opcode.Statement .abort :=
  fun _ h => nomatch h

theorem Laws.Opcode.activateTakeover (ok : Bool) : Laws.Opcode.Statement (.activateTakeover ok) :=
  fun _ h => nomatch h

theorem Laws.Opcode.firmwareCommandEnd : Laws.Opcode.Statement .firmwareCommandEnd :=
  fun _ h => nomatch h

theorem Laws.Opcode.attgo : Laws.Opcode.Statement .attgo :=
  fun _ h => nomatch h

theorem Laws.Opcode.attestationReportWritten : Laws.Opcode.Statement .attestationReportWritten :=
  fun _ h => nomatch h

theorem Laws.Opcode.commandLinkLoss (cl : Nat) : Laws.Opcode.Statement (.commandLinkLoss cl) :=
  fun _ h => nomatch h

theorem Laws.Opcode.mssWatchdog : Laws.Opcode.Statement .mssWatchdog :=
  fun _ h => nomatch h

theorem Laws.Opcode.reset (kind : Nat) : Laws.Opcode.Statement (.reset kind) :=
  fun _ h => nomatch h

theorem Laws.Opcode.bringupRom : Laws.Opcode.Statement .bringupRom :=
  fun _ h => nomatch h

theorem Laws.Opcode.bringupTest : Laws.Opcode.Statement .bringupTest :=
  fun _ h => nomatch h

theorem Laws.Opcode.bringupConfig : Laws.Opcode.Statement .bringupConfig :=
  fun _ h => nomatch h

theorem Laws.Opcode.bringupFabric : Laws.Opcode.Statement .bringupFabric :=
  fun _ h => nomatch h

theorem Laws.Opcode.signalDetected (p : Nat) : Laws.Opcode.Statement (.signalDetected p) :=
  fun _ h => nomatch h

theorem Laws.Opcode.trainingSuccess (p : Nat) : Laws.Opcode.Statement (.trainingSuccess p) :=
  fun _ h => nomatch h

theorem Laws.Opcode.trainTimeout (p : Nat) : Laws.Opcode.Statement (.trainTimeout p) :=
  fun _ h => nomatch h

theorem Laws.Opcode.retrainTrigger (p : Nat) : Laws.Opcode.Statement (.retrainTrigger p) :=
  fun _ h => nomatch h

theorem Laws.Opcode.retrainTimeout (p : Nat) : Laws.Opcode.Statement (.retrainTimeout p) :=
  fun _ h => nomatch h

theorem Laws.Opcode.portDisable (p : Nat) : Laws.Opcode.Statement (.portDisable p) :=
  fun _ h => nomatch h

theorem Laws.Opcode.portEnable (p : Nat) : Laws.Opcode.Statement (.portEnable p) :=
  fun _ h => nomatch h

theorem Laws.Opcode.flitReceive (p : Nat) (flit : (List Byte)) : Laws.Opcode.Statement (.flitReceive p flit) :=
  fun _ h => nomatch h

theorem Laws.Opcode.ackTimeout (p : Nat) : Laws.Opcode.Statement (.ackTimeout p) :=
  fun _ h => nomatch h

theorem Laws.Opcode.remoteAccess (dev : Nat) (kind : Nat) (addr : Nat) (data : (List Byte)) : Laws.Opcode.Statement (.remoteAccess dev kind addr data) :=
  fun _ h => nomatch h

theorem Laws.Opcode.remoteResponse (i : Nat) (ok : Bool) (data : (List Byte)) : Laws.Opcode.Statement (.remoteResponse i ok data) :=
  fun _ h => nomatch h

theorem Laws.Opcode.primitiveForward (dev : Nat) (prim : (List Byte)) : Laws.Opcode.Statement (.primitiveForward dev prim) :=
  fun _ h => nomatch h

theorem Laws.Opcode.blockEndMark (dev : Nat) (blk : Nat) (n : Nat) : Laws.Opcode.Statement (.blockEndMark dev blk n) :=
  fun _ h => nomatch h

theorem Laws.Opcode.rasterisePrimitive (q : Nat) : Laws.Opcode.Statement (.rasterisePrimitive q) :=
  fun _ h => nomatch h

theorem Laws.Opcode.linkDownLimit (p : Nat) : Laws.Opcode.Statement (.linkDownLimit p) :=
  fun _ h => nomatch h

theorem Laws.Opcode.registerWrite (fn : Nat) (bar : Nat) (off : Nat) (size : Nat) (v : Nat) : Laws.Opcode.Statement (.registerWrite fn bar off size v) :=
  fun _ h => nomatch h

theorem Laws.Opcode.powerLoss : Laws.Opcode.Statement .powerLoss :=
  fun _ h => nomatch h

theorem Laws.Opcode.gscUncorrectableError : Laws.Opcode.Statement .gscUncorrectableError :=
  fun _ h => nomatch h

theorem Laws.Opcode.pcieReadCompletion (i : Nat) (ok : Bool) (data : (List Byte)) : Laws.Opcode.Statement (.pcieReadCompletion i ok data) :=
  fun _ h => nomatch h

theorem Laws.Opcode.migrationEligibility (b : Nat) : Laws.Opcode.Statement (.migrationEligibility b) :=
  fun _ h => nomatch h

end Sys2Proof
end

