-- ==== Sys2Proof/Tests/Slice0.lean ====
section
/-! SUPPORT. Tests: ill-formed instructions refused, words written out from the encodings decoded, one step of an instruction
on a small state, and a witness for the hypotheses of each statement. -/

namespace Sys2Proof.Tests

set_option Elab.async false

open Sys2Proof Sys2Proof.Machine

/-! ### Ill-formed instructions (R58 step 7, R248) -/

/-- A predicate that is always true, and two registers. -/
def g7 : Guard := ⟨7, false⟩
def v (n : Nat) : Src := .v n false false
def p (n : Nat) : VSrc := ⟨n, false, false⟩

theorem test_wf_accepts : WellFormed (.iadd g7 511 (v 1) (.s 23)) = true := by decide
theorem test_wf_never_guard : WellFormed (.nop ⟨7, true⟩) = false := by decide
theorem test_wf_guard_number : WellFormed (.nop ⟨8, false⟩) = false := by decide
theorem test_wf_vreg : WellFormed (.iadd g7 512 (v 1) (v 2)) = false := by decide
theorem test_wf_source : WellFormed (.iadd g7 0 (v 512) (v 2)) = false := by decide
theorem test_wf_sreg : WellFormed (.smov g7 24 (.s 0)) = false := by decide
theorem test_wf_scalar_source : WellFormed (.smov g7 0 (.s 24)) = false := by decide
theorem test_wf_preg : WellFormed (.icmp g7 8 .eq (v 1) (v 2)) = false := by decide
theorem test_wf_breg : WellFormed (.ld g7 0 .b32 .none false .blk 16 (v 1) 0) = false := by decide
theorem test_wf_pair : WellFormed (.iadd64 g7 2 (p 3) (p 4)) = false := by decide
theorem test_wf_pair_destination : WellFormed (.getclk g7 3) = false := by decide
theorem test_wf_load_group : WellFormed (.ld g7 2 .b128 .none false .blk 0 (v 1) 0) = false := by decide
theorem test_wf_lea_shift : WellFormed (.lea g7 0 32 (v 1) (v 2)) = false := by decide
theorem test_wf_shift_immediate : WellFormed (.shli g7 0 (v 1) 32) = false := by decide
theorem test_wf_bit_field : WellFormed (.bfe g7 0 false (v 1) 1 32) = false := by decide
theorem test_wf_bitfn : WellFormed (.bitfn g7 0 16 0 (v 1) (v 2) (v 3)) = false := by decide
theorem test_wf_bytex : WellFormed (.bytex g7 0 0x000B (v 1) (v 2)) = false := by decide
theorem test_wf_offset : WellFormed (.bra g7 2) = false := by decide
theorem test_wf_csr : WellFormed (.csrr g7 0 0x007 false) = false := by decide
theorem test_wf_csr_high : WellFormed (.csrr g7 0 0x001 true) = false := by decide
theorem test_wf_sysv : WellFormed (.sysv g7 0 12) = false := by decide
theorem test_wf_cvtff_same : WellFormed (.cvtff g7 0 .rn .f32 .f32 false (v 1) Src.none) = false := by decide
theorem test_wf_cvtff_widening : WellFormed (.cvtff g7 0 .rz .f16 .f32 false (v 1) Src.none) = false := by decide
theorem test_wf_cvtii_index : WellFormed (.cvtii g7 0 .s16 .s32 2 false (v 1)) = false := by decide
theorem test_wf_cvt8_scale : WellFormed (.cvt8 g7 0 .rn false false false 0 true (v 4) Src.none) = false := by decide
theorem test_wf_cvt4_index : WellFormed (.cvt4 g7 0 .rn true 8 false (v 4) Src.none) = false := by decide
theorem test_wf_group_width : WellFormed (.shfl g7 0 .xor 6 (v 1) (v 2)) = false := by decide
theorem test_wf_reduction_mode : WellFormed (.redux g7 0 .rz .add 5 (v 1)) = false := by decide
theorem test_wf_slide : WellFormed (.slide g7 0 true false .fz 33 (v 1) Src.none Src.none) = false := by decide
theorem test_wf_vote : WellFormed (.vote g7 0 .cnt true 1) = false := by decide
theorem test_wf_plop : WellFormed (.plop g7 0 .not 1 2) = false := by decide
theorem test_wf_shape : WellFormed (.shape g7 0 true ⟨1, true, false⟩) = false := by decide
theorem test_wf_prune_winner : WellFormed (.prune g7 0 true .add (v 2) (v 4) Src.none) = false := by decide
theorem test_wf_prune_unused : WellFormed (.prune g7 0 false .neg (v 2) (v 4) Src.none) = false := by decide
theorem test_wf_brec_format : WellFormed (.brec g7 0 .fmt 1 Src.none Src.none 0x200) = false := by decide
theorem test_wf_store_signed : WellFormed (.sts g7 .s8 (v 1) 0 (v 2)) = false := by decide
theorem test_wf_atomic_float : WellFormed (.atoms g7 0 .fadd true false false .blk (v 1) 0 (v 2)) = false := by decide
theorem test_wf_atomic_cas : WellFormed (.atoms g7 0 .cas false false false .blk (v 1) 0 (.s 1)) = false := by decide
theorem test_wf_lamport_scope : WellFormed (.red g7 .add false true false false .core 0 (v 1) 0 (v 2)) = false := by decide
theorem test_wf_gather_width : WellFormed (.gather g7 0 .b128 .none 0 (v 1) 0) = false := by decide
theorem test_wf_brick_position : WellFormed (.brks g7 0 0 (v 1) 0 ⟨510, false, false⟩) = false := by decide
theorem test_wf_arrive : WellFormed (.arrive g7 0 false false .blk (v 1) 0 0) = false := by decide
theorem test_wf_arrive_no_result : WellFormed (.arrive g7 1 true false .blk (v 1) 0 1) = false := by decide
theorem test_wf_waitph_poll : WellFormed (.waitph g7 0 true false .blk (v 1) 0 true) = false := by decide
theorem test_wf_seg_name : WellFormed (.segQuery g7 0 (.reg (p 1))) = false := by decide
theorem test_wf_seg_window : WellFormed (.segDetach g7 0 4) = false := by decide
theorem test_wf_coll : WellFormed (.coll g7 0 true .redsc .add false false false .blk (v 1) 0 0 0) = false := by decide
theorem test_wf_momacc : WellFormed (.momacc g7 1 false (v 1) (v 2)) = false := by decide
theorem test_wf_fbc_constant : WellFormed (.fbcConst 0x7F800000) = false := by decide
theorem test_wf_fbc_positive : WellFormed (.fbcSmin 0) = false := by decide
theorem test_wf_fbc_axis : WellFormed (.fbcPos 3) = false := by decide
theorem test_wf_fbc_clamp : WellFormed (.fbcClamp 0x3F800000 0xBF800000) = false := by decide
theorem test_wf_fbc_pick : WellFormed (.fbcPick 32) = false := by decide
theorem test_wf_fbc_callout : WellFormed (.fbcCallout 9 0) = false := by decide

/-! ### Words written out from the encodings (R44, R50 to R57, R248, R249) -/

/-- A word whose fields, at the bit positions that the manual gives them, hold these values. -/
def bits (fs : List (Nat × Nat)) : Nat := fs.foldl (fun n f => n + f.2 * 2 ^ f.1) 0

/-- What the bytes of an instruction of so many bytes decode to, when nothing follows. -/
def reads (n w : Nat) : Option Instr :=
  match decode (leBytes n w) with
  | .ok (i, []) => some i
  | _ => none

/-- The same of a field operation. -/
def readsField (n w : Nat) : Option Instr :=
  match decodeField (leBytes n w) with
  | .ok (i, []) => some i
  | _ => none

/-- R58's example: `(q1) FFMA.rn v3, v4^, v5!, v6`. -/
theorem test_decode_ffma : reads 12 0x000000000003405408031591 =
    some (.ffma ⟨1, false⟩ 3 .rn (.v 4 true false) (.v 5 false true) (v 6)) := by decide
/-- R110's example: `ICMP.lt q2, v8, s3`. -/
theorem test_decode_icmp : reads 8 0x0081003010027030 = some (.icmp g7 2 .lt (v 8) (.s 3)) := by decide
/-- R128's example: `(!q3) BRA.U`. -/
theorem test_decode_bra_u : reads 12 0xFFFFFFC0000000000000B285 = some (.braU ⟨3, true⟩ 0xFFFFFFC0) := by decide
/-- R161's example: `IDP2 v20, v8, v9^, v20`. -/
theorem test_decode_idp2 : reads 12 0x00000000000A2090101475A1 =
    some (.idp2 g7 20 false false (v 8) (.v 9 true false) (v 20)) := by decide
/-- R186's example: `LD.b32 v8, [b2 + v4^ + 16]`. -/
theorem test_decode_ld : reads 16 0x00000010000000020100000408087606 =
    some (.ld g7 8 .b32 .none false .blk 2 (.v 4 true false) 16) := by decide
theorem test_decode_iadd : reads 8 (bits [(2, 0x001), (12, 7), (16, 3), (25, 1), (36, 2)]) =
    some (.iadd g7 3 (v 1) (v 2)) := by decide
theorem test_decode_isub_zs : reads 8 (bits [(2, 0x002), (12, 7), (16, 3), (25, 31), (36, 2), (47, 1)]) =
    some (.isub g7 3 .zs (v 2)) := by decide
theorem test_decode_iaddi : reads 8 (bits [(2, 0x020), (12, 7), (16, 3), (25, 1), (36, 0xFFFF)]) =
    some (.iaddi g7 3 (v 1) 0xFFFF) := by decide
theorem test_decode_and : reads 8 (bits [(2, 0x040), (12, 7), (16, 511), (25, 1), (34, 1), (36, 2), (46, 1)]) =
    some (.and g7 511 (.v 1 true false) (.v 2 false true)) := by decide
theorem test_decode_sadd : reads 8 (bits [(2, 0x061), (12, 7), (16, 23), (25, 31), (36, 2)]) =
    some (.sadd g7 23 .zs (.s 2)) := by decide
theorem test_decode_ret : reads 8 (bits [(2, 0x082), (12, 7)]) = some (.ret g7) := by decide
theorem test_decode_movi32 : reads 12 (bits [(0, 1), (2, 0x0A5), (12, 7), (16, 3), (64, 0x12345678)]) =
    some (.movi32 g7 3 0x12345678) := by decide
theorem test_decode_fadd : reads 8 (bits [(2, 0x0C0), (12, 7), (16, 3), (25, 1), (36, 2), (52, 3)]) =
    some (.fadd g7 3 .ru (v 1) (v 2)) := by decide
theorem test_decode_dadd : reads 8 (bits [(2, 0x0E0), (12, 7), (16, 4), (25, 6), (36, 8), (52, 1)]) =
    some (.dadd g7 4 .rz (p 6) (p 8)) := by decide
theorem test_decode_hadd2 : reads 8 (bits [(2, 0x100), (12, 7), (16, 3), (25, 1), (36, 2), (52, 2)]) =
    some (.hadd2 g7 3 .rd (v 1) (v 2)) := by decide
theorem test_decode_cvtfi : (reads 8 (bits [(2, 0x121), (12, 7), (16, 3), (25, 1), (52, 1)])).isSome = true := by decide
theorem test_decode_shfl : reads 8 (bits [(2, 0x140), (12, 7), (16, 3), (25, 1), (36, 2), (54, 1 + 4 * 3)]) =
    some (.shfl g7 3 .rot 3 (v 1) (v 2)) := by decide
theorem test_decode_sts : reads 16 (bits [(0, 2), (2, 0x184), (12, 7), (25, 1), (36, 2), (54, 4), (96, 0x10)]) =
    some (.sts g7 .b32 (v 1) 0x10 (v 2)) := by decide
theorem test_decode_atom : reads 16 (bits [(0, 2), (2, 0x1A0), (12, 7), (16, 3), (25, 1), (36, 2), (50, 1), (51, 2), (64, 5)]) =
    some (.atom g7 3 .add false false false true .chip 5 (v 1) 0 (v 2)) := by decide
theorem test_decode_arrive : reads 16 (bits [(0, 2), (2, 0x1C2), (12, 7), (16, 3), (25, 1), (96, 7)]) =
    some (.arrive g7 3 false false .blk (v 1) 0 7) := by decide
theorem test_decode_mmaq : reads 16 (bits [(0, 2), (2, 0x1E0), (12, 7), (25, 1), (64, 0x100)]) =
    some (.mmaq g7 (v 1) 0x100) := by decide
theorem test_decode_field_min : readsField 2 0x3000 = some .fbcMin := by decide
theorem test_decode_field_pos : readsField 2 0x0802 = some (.fbcPos 2) := by decide
theorem test_decode_field_clamp : readsField 10 (bits [(0, 0x5400), (16, 0xBF800000), (48, 0x3F800000)]) =
    some (.fbcClamp 0xBF800000 0x3F800000) := by decide
theorem test_decode_field_callout : readsField 6 (bits [(0, 0xC403), (16, 9)]) = some (.fbcCallout 3 9) := by decide

/-! ### Words that are refused (R40, R44, R47 to R49, R57, R248) -/

theorem test_refuse_zeros : reads 8 0 = none := by decide
theorem test_refuse_length : reads 8 3 = none := by decide
theorem test_refuse_unallocated : reads 8 (bits [(2, 0x016), (12, 7)]) = none := by decide
theorem test_refuse_never : reads 8 (bits [(2, 0x001), (12, 15), (16, 3)]) = none := by decide
theorem test_refuse_reserved_bit : reads 8 (bits [(2, 0x001), (12, 7), (16, 3), (49, 1)]) = none := by decide
theorem test_refuse_mode : reads 8 (bits [(2, 0x001), (12, 7), (16, 3), (52, 1)]) = none := by decide
theorem test_refuse_scope : reads 16 (bits [(0, 2), (2, 0x1A0), (12, 7), (16, 3), (51, 5)]) = none := by decide
theorem test_refuse_wrong_length : reads 12 (bits [(0, 1), (2, 0x001), (12, 7)]) = none := by decide
theorem test_crosses_block : decode (leBytes 8 (bits [(0, 1), (2, 0x0A5), (12, 7)])) = .error .crossesBlock := by rfl
theorem test_refuse_field_arg : readsField 2 0x2001 = none := by decide
theorem test_field_program_end : decodeField (leBytes 4 0x0400) = .error .programEnd := by rfl

/-! ### One step on a small state -/

/-- A record of 64 words at 0x100, with a guard word at 0x200, in the page of the laboratory. -/
def labRecord : Record := BitVec.ofNat 256 (0x100 + 64 * 2 ^ 64 + 2 * 2 ^ 128 + 0x200 * 2 ^ 192)

/-- Memory of the laboratory: words 1, 2, 3 from 0x100 on, the guard word 5. -/
def labMem : Mem :=
  Mem.write (Mem.write (Mem.write (Mem.write placedTables 0x10100 4 1) 0x10104 4 2) 0x10108 4 3) 0x10200 4 5

/-- One warp of 32 live threads with some registers filled: integers in v1 to v5, FP32 1.0 and 2.0 in v6 and v7, FP64 1.5
and 2.0 in v8 and v10, lane numbers in v12, FP16 pairs in v14. -/
def labWarp : Warp :=
  { placedWarp with
    vregs := [(1, ⟨.u 7, 0⟩), (2, ⟨.a 0x100 4, 0⟩), (4, ⟨.g (Lanes.of fun l => BitVec.ofNat 32 (l.val * l.val)), 0⟩),
      (5, ⟨.u 0xFFFFFFFF, 0⟩), (6, ⟨.u 0x3F800000, 0⟩), (7, ⟨.u 0x40000000, 0⟩), (8, ⟨.u 0, 0⟩), (9, ⟨.u 0x3FF80000, 0⟩),
      (10, ⟨.u 0, 0⟩), (11, ⟨.u 0x40000000, 0⟩), (12, ⟨.a 0 1, 0⟩), (13, ⟨.u 0x80000000, 0⟩), (14, ⟨.u 0x3C004000, 0⟩)]
    sregs := (Vector.replicate 24 0).set 1 5
    pregs := (Vector.replicate 7 ⟨0, true⟩).set 1 ⟨0xFFFF, false⟩
    bregs := (Vector.replicate 16 0).set 1 labRecord }

/-- The laboratory: that warp about to execute an instruction of 8 bytes at address 0. -/
def lab : State := ({ State.reset.placed labMem (Mem.write [] 0x40 4 9) with
  warps := [(0, labWarp)], mss := { Mss.reset with stage := 5 } }).at' 0 LaneMask.all 0 8

/-- Lane `l` of vector register `r` after an instruction. -/
def lane (i : Instr) (r l : Nat) : Option Word :=
  match exec i lab with
  | .next t => some ((t.me.vreg r).st.lane (Fin.ofNat 32 l))
  | _ => none

/-- Lane `l` of the k-th result in flight after an instruction. -/
def flying (i : Instr) (k l : Nat) : Option Word :=
  match exec i lab with
  | .next t => (t.me.inflight[k]?).map fun f => f.value.lane (Fin.ofNat 32 l)
  | _ => none

/-- Something of the state after an instruction. -/
def after {α : Type} (i : Instr) (s : State) (f : State → α) : Option α :=
  match exec i s with
  | .next t => some (f t)
  | _ => none

theorem test_iadd_wraps : lane (.iadd g7 3 (v 1) (v 5)) 3 0 = some 6 := by decide +kernel
theorem test_iadd_affine : after (.iadd g7 3 (v 1) (v 2)) lab (fun t => (t.me.vreg 3).st) = some (.a 0x107 4) := by decide +kernel
theorem test_iadd_moves_pc : after (.iadd g7 3 (v 1) (v 2)) lab (fun t => t.me.lanes[5].pc) = some 2 := by decide +kernel
theorem test_iadd_frees : after (.iadd g7 3 (.v 1 true false) (v 2)) lab (fun t => (t.me.vreg 1).st) = some .n := by decide +kernel
theorem test_iadd_predicated : lane (.iadd ⟨1, false⟩ 1 (v 1) (v 1)) 1 16 = some 7 := by decide +kernel
theorem test_isub_stride_zero : after (.isub g7 3 (v 2) (v 2)) lab (fun t => (t.me.vreg 3).st) = some (.u 0) := by decide +kernel
theorem test_imul_affine : after (.imul g7 3 (v 2) (.s 1)) lab (fun t => (t.me.vreg 3).st) = some (.a 0x500 0x14) := by
  decide +kernel
theorem test_imulh : lane (.imulh g7 3 (v 5) (v 1)) 3 0 = some 0xFFFFFFFF := by decide +kernel
theorem test_umulh : lane (.umulh g7 3 (v 5) (v 1)) 3 0 = some 6 := by decide +kernel
theorem test_idiv_zero : lane (.idiv g7 3 (v 1) .zs) 3 0 = some 0xFFFFFFFF := by decide +kernel
theorem test_idiv_overflow : lane (.idiv g7 3 (v 13) (v 5)) 3 0 = some 0x80000000 := by decide +kernel
theorem test_irem_sign : lane (.irem g7 3 (v 5) (.s 1)) 3 0 = some 0xFFFFFFFF := by decide +kernel
theorem test_urem_zero : lane (.urem g7 3 (v 1) .zs) 3 0 = some 7 := by decide +kernel
theorem test_lea : lane (.lea g7 3 2 (v 1) (.s 1)) 3 0 = some 27 := by decide +kernel
theorem test_icmp_signed : after (.icmp g7 2 .lt (v 5) (v 1)) lab (fun t => t.me.pred 2) = some 0xFFFFFFFF := by decide +kernel
theorem test_ucmp_unsigned : after (.ucmp g7 2 .lt (v 5) (v 1)) lab (fun t => t.me.pred 2) = some 0 := by decide +kernel
theorem test_iadd64_carry : lane (.iadd64 g7 16 (p 4) (p 4)) 17 0 = some 0xFFFFFFFE := by decide +kernel
theorem test_shl_full_width : lane (.shli g7 3 (v 5) 31) 3 0 = some 0x80000000 := by decide +kernel
theorem test_sar_beyond : lane (.sar g7 3 (v 13) (v 2)) 3 0 = some 0xFFFFFFFF := by decide +kernel
theorem test_bfe_signed : lane (.bfe g7 3 true (v 13) 28 4) 3 0 = some 0xFFFFFFF8 := by decide +kernel
theorem test_bfi : lane (.bfi g7 3 (v 1) (v 5) 4 4) 3 0 = some 0xF7 := by decide +kernel
theorem test_bytex_sign : lane (.bytex g7 3 0xA3A3 (v 13) (v 1)) 3 0 = some 0xFF80FF80 := by decide +kernel
theorem test_popc : lane (.popc g7 3 (v 5)) 3 0 = some 32 := by decide +kernel
theorem test_clz_zero : lane (.clz g7 3 .zs) 3 0 = some 32 := by decide +kernel
theorem test_sel : lane (.sel g7 3 (v 1) (v 5) 1 false) 3 16 = some 0xFFFFFFFF := by decide +kernel
theorem test_p2v_mask : lane (.p2v g7 3 true 1) 3 0 = some 0xFFFFFFFF := by decide +kernel
theorem test_shape_tag : lane (.shape g7 3 false (p 4)) 3 0 = some 3 := by decide +kernel
theorem test_expand : after (.expand g7 3 (p 2)) lab (fun t => (t.me.vreg 3).st.tag) = some 3 := by decide +kernel
theorem test_sadd : after (.sadd g7 2 (.s 1) (.s 1)) lab (fun t => t.me.sreg 2) = some 10 := by decide +kernel
theorem test_v2s : after (.v2s g7 2 (p 2)) lab (fun t => t.me.sreg 2) = some 0x100 := by decide +kernel
theorem test_csrr_flags : lane (.csrr g7 3 0x001 false) 3 0 = some 0 := by decide +kernel
theorem test_csrw_flags : after (.csrw g7 0x001 false (v 5)) lab (fun t => t.me.kflags) = some 0x1F7F := by decide +kernel
theorem test_fadd_inexact_flag : after (.faddi32 g7 3 .rn (v 6) 0x33000000) lab (fun t => ((t.me.vreg 3).st.lane 0, t.me.kflags)) =
    some (0x3F800000, 1) := by decide +kernel
theorem test_fadd_round_up : lane (.faddi32 g7 3 .ru (v 6) 0x33000000) 3 0 = some 0x3F800001 := by decide +kernel
theorem test_ffma : lane (.ffma g7 3 .rn (v 6) (v 7) (v 7)) 3 0 = some 0x40800000 := by decide +kernel
theorem test_fmin_zeros : lane (.fmin g7 3 (v 13) .zs) 3 0 = some 0x80000000 := by decide +kernel
theorem test_fclass_one : lane (.fclass g7 3 .f32 false (v 6)) 3 0 = lane (.fclass g7 3 .f32 false (v 7)) 3 0 := by decide +kernel
theorem test_fcmp_unordered : after (.fcmp g7 2 .eq (v 5) (v 5)) lab (fun t => t.me.pred 2) = some 0 := by decide +kernel
theorem test_fdiv_by_zero : flying (.fdiv g7 3 .rn (v 6) .zs) 0 0 = some 0x7F800000 := by decide +kernel
theorem test_fsqrt : flying (.fsqrt g7 3 .rn (v 7)) 0 0 = some 0x3FB504F3 := by decide +kernel
theorem test_dadd : lane (.dadd g7 16 .rn (p 8) (p 10)) 17 0 = some 0x400C0000 := by decide +kernel
theorem test_hadd2 : lane (.hadd2 g7 3 .rn (v 14) (v 14)) 3 0 = some 0x40004400 := by decide +kernel
theorem test_iadd2_saturates : after (.iadd2 g7 3 true false (v 13) (v 13)) lab (fun t => (t.me.vreg 3).st.lane 0) =
    some 0x80000000 := by decide +kernel
theorem test_idp2_saturates : lane (.idp2 g7 3 false false (v 13) (v 13) (v 1)) 3 0 = some 0x40000007 := by decide +kernel
theorem test_shrr_ties : lane (.shrr g7 3 false false (v 1) (v 6)) 3 0 = some 0 := by decide +kernel
theorem test_cvtfi_truncates : lane (.cvtfi g7 3 .rz .f64 .s32 false (v 8)) 3 0 = some 1 := by decide +kernel
theorem test_cvtif : lane (.cvtif g7 3 .rn .f32 .s32 (v 5) Src.none) 3 0 = some 0xBF800000 := by decide +kernel
theorem test_cvtii_sign : lane (.cvtii g7 3 .s8 .s32 3 false (v 13)) 3 0 = some 0xFFFFFF80 := by decide +kernel
theorem test_cvtff_half : lane (.cvtff g7 3 .rn .f32 .f16 false (v 6) (v 7)) 3 0 = some 0x40003C00 := by decide +kernel
theorem test_shfl_rotates : lane (.shfl g7 3 .rot 3 (v 12) (v 5)) 3 0 = some 7 := by decide +kernel
theorem test_shfl_reverses : lane (.shfl g7 3 .rev 2 (v 12) Src.none) 3 5 = some 6 := by decide +kernel
theorem test_vote_count : lane (.vote g7 3 .cnt false 1) 3 0 = some 16 := by decide +kernel
theorem test_redux_sum : lane (.redux g7 3 .rn .add 5 (v 12)) 3 9 = some 496 := by decide +kernel
theorem test_scan_exclusive : lane (.scan g7 3 .rn .add true (v 12)) 3 5 = some 10 := by decide +kernel
theorem test_segred : lane (.segred g7 3 .rn .add (v 1) 1) 3 31 = some (7 * 17) := by decide +kernel
theorem test_match : lane (.match g7 3 (v 1)) 3 2 = some 0x00200200 := by decide +kernel
theorem test_bra_takes_run : after (.bra ⟨1, false⟩ 0x40) lab (fun t => (t.me.lanes[0].pc, t.me.lanes[31].pc)) =
    some (0x10, 2) := by decide +kernel
theorem test_bra_u_diverges : after (.braU ⟨1, false⟩ 0x40) lab (fun t => Map.find t.blocks 0) = some none := by decide +kernel
theorem test_call_pushes : after (.call g7 0x40) lab (fun t => t.me.lanes[3].stack) = some [⟨2, false⟩] := by decide +kernel
theorem test_ret_empty_kills : after (.ret g7) lab (fun t => (t.launch 0).failed) = some 1 := by decide +kernel
theorem test_exit_ends_warp : after (.exit g7) lab (fun t => Map.find t.warps 0) = some none := by decide +kernel
theorem test_sleep_counts : after (.sleep g7 9) lab (fun t => t.me.sleep) = some 10 := by decide +kernel
theorem test_trap_without_handler : after (.trap g7 3) lab (fun t => (t.queue 0).fcause) = some 0x00030013 := by decide +kernel
theorem test_ld : flying (.ld g7 3 .b32 .none false .blk 1 (v 12) 0) 0 2 = some 3 := by decide +kernel
theorem test_ld_outside : flying (.ld g7 3 .b32 .none false .blk 1 (v 5) 0) 0 0 = some 0 := by decide +kernel
theorem test_st_highest_lane_last : after (.st g7 .b32 .none false .blk 1 (v 1) 0 (v 12)) lab (fun t => t.mem.read 0x1011C 4) =
    some 31 := by decide +kernel
theorem test_lds : flying (.lds g7 3 .b32 .zs 0x40) 0 0 = some 9 := by decide +kernel
theorem test_sts : after (.sts g7 .b32 .zs 0x48 (v 12)) lab (fun t => (t.block 0).area.read 0x48 4) = some 31 := by decide +kernel
theorem test_atom_in_turn : flying (.atom g7 3 .add false false false false .blk 1 .zs 0 (v 1)) 0 3 = some 22 := by decide +kernel
theorem test_red_sum : after (.red g7 .add false false false false .blk 1 .zs 0 (v 1)) lab (fun t => t.mem.read 0x10100 4) =
    some 225 := by decide +kernel
theorem test_atoms : after (.atoms g7 3 .umax false false false .blk .zs 0x40 (v 12)) lab (fun t => (t.block 0).area.read 0x40 4) =
    some 31 := by decide +kernel
theorem test_arrive_flips : after (.arrive ⟨1, false⟩ 3 false false .blk .zs 0x40 5) lab (fun t => (t.block 0).area.read 0x40 4) =
    some (2 ^ 31 + 1) := by decide +kernel
theorem test_acq_plain : flying (.acq g7 3 .plain .chip 1 Src.none) 0 0 = some 5 := by decide +kernel
theorem test_rel_adds : after (.rel g7 .add .chip 1 (v 1)) lab (fun t => t.mem.read 0x10200 4) = some 229 := by decide +kernel
theorem test_brec_sub : after (.brec g7 2 .sub 1 (v 1) (.s 1) 0) lab (fun t => (recBase (t.me.breg 2), recExtent (t.me.breg 2))) =
    some (0x11C, 5) := by decide +kernel
theorem test_bar_waits_for_all : after (.bar ⟨1, false⟩) lab (fun t => ((t.block 0).arrivals, t.me.lanes[0].atBar)) =
    some (16, true) := by decide +kernel
theorem test_bar_completes : after (.bar g7) lab (fun t => ((t.block 0).arrivals, t.me.lanes[0].atBar)) = some (0, false) := by
  decide +kernel
theorem test_seg_query_missing : lane (.segQuery g7 16 (.imm 5)) 16 0 = some 2 := by decide +kernel
theorem test_prune_min_code : lane (.prune g7 3 true .min (v 6) .zs Src.none) 3 0 = some 2 := by decide +kernel
theorem test_step_executes : (match step ({ lab with agenda := [.event (.nop g7)] }) with
    | .next t => some t.me.lanes[0].pc
    | _ => none) = some 2 := by decide +kernel
theorem test_fetch_word : (match step (State.reset.withFetchWord 96 (bits [(0, 1), (2, 0x0A5), (12, 7), (16, 3), (64, 77)])) with
    | .next t => some ((t.warp 0).vreg 3).st
    | _ => none) = some (.u 77) := by decide +kernel

/-! ### Witnesses: states and operands that meet the hypotheses of the statements -/

/-- `Ready`, decided. -/
def readyB (s : State) (W : LaneMask) (scalar : Bool) (us : List Use) (ds : List Nat) : Bool :=
  (!scalar || s.me.converged) && us.all (fun u => s.me.full u.n) && ds.all s.me.full &&
    decide ((s.me.free (s.frees us ds)).peakGate s.myLaunch.regs W ds = .go) &&
    s.slotsFor s.cur.slot (s.me.free (s.frees us ds)) ds.length

theorem ready_of {s : State} {W : LaneMask} {scalar : Bool} {us : List Use} {ds : List Nat}
    (h : readyB s W scalar us ds = true) : Ready s W scalar us ds := by
  simp only [readyB, Bool.and_eq_true, List.all_eq_true, decide_eq_true_eq] at h
  obtain ⟨⟨⟨⟨h1, h2⟩, h3⟩, h4⟩, h5⟩ := h
  refine ⟨fun hs => ?_, h2, h3, h4, h5⟩
  subst hs
  simpa using h1

/-- `Readable`, decided. -/
theorem readable_of {s : State} {scalar : Bool} {us : List Use}
    (h : ((!scalar || s.me.converged) && us.all fun u => s.me.full u.n) = true) : Readable s scalar us := by
  simp only [Bool.and_eq_true, List.all_eq_true] at h
  refine ⟨fun hs => ?_, h.2⟩
  subst hs
  simpa using h.1

/-- With no condition enabled nothing traps. -/
theorem noTrap_of {s : State} {W : LaneMask} {fl : Fin 32 → Flags} (h : s.me.enables = 0) : NoTrap s W fl :=
  Or.inr fun l _ => by rw [h]; exact BitVec.and_zero

/-- A lane's address translates to a page that may be accessed. -/
def mappedB (s : State) (need : Need) (n : Nat) (ls : List (Nat × Nat)) : Bool :=
  ls.all fun q => match s.walk s.myCtx need q.2 with
    | .ok x => decide (x.loc < 2 ^ 38) && !x.disc && !s.waitsOn s.myCtx (.warp s.cur.slot) q.2 n &&
        !s.guardMeets q.1 q.2 n
    | _ => false

theorem mapped_of {s : State} {need : Need} {n : Nat} {ls : List (Nat × Nat)} (h : mappedB s need n ls = true) :
    Mapped s need n ls := by
  intro q hq
  have h := List.all_eq_true.mp h q hq
  split at h
  · rename_i x hx
    simp only [Bool.and_eq_true, decide_eq_true_eq, Bool.not_eq_true'] at h
    exact ⟨x, hx, h.1.1.1, h.1.1.2, h.1.2, h.2⟩
  · cases h

/-- The laboratory with one field of the launch's parameters set. -/
def launchWith (s : State) (off n x : Nat) : State :=
  let l := s.launch 0
  s.setLaunch 0 { l with lpb := l.lpb.take off ++ leBytes n x ++ l.lpb.drop (off + n) }
/-- The laboratory with its warp changed. -/
def meWith (s : State) (f : Warp → Warp) : State := s.setMe (f s.me)
/-- The laboratory with its block changed. -/
def blockWith (s : State) (f : Block → Block) : State := s.setBlock 0 (f (s.block 0))

/-- Inexact and overflow traps enabled. -/
def labEn : State := meWith lab fun w => { w with kflags := 0x1F00 }
/-- A handler named at 0x100. -/
def labVec : State := launchWith lab 8 8 0x100
/-- In a handler. -/
def labIn : State := meWith lab fun w => { w with hndl := true, tmask := true, trapMask := LaneMask.all }
/-- Every return stack full. -/
def labDeep : State := meWith lab fun w => { w with
  lanes := Vector.ofFn fun l => { w.lanes[l] with stack := List.replicate 16 ⟨8, false⟩ } }
/-- Diverged: lane 0 stands elsewhere. -/
def labSplit : State := (meWith lab fun w => { w with
  lanes := Vector.ofFn fun l => if l = 0 then { w.lanes[l] with pc := 100 } else w.lanes[l] }).at' 0 0xFFFFFFFE 0 8

theorem witness_IntegerTwoSourceResults :
    Ready lab (lab.wset g7) false ((v 1).uses 1 ++ (v 5).uses 1) [1] ∧
    Ready lab (lab.wset g7) true ((Src.s 23).uses 1 ++ (v 5).uses 1) [511] ∧
    Ready lab (lab.wset g7) false ((v 1).uses 1 ++ (v 5).uses 1 ++ (v 2).uses 1) [3] ∧ NoTrap lab (lab.wset g7) fun _ => 0 := by
  and_intros <;> first | decide +kernel | exact ready_of (by decide +kernel) | exact noTrap_of (by decide +kernel)
theorem witness_IntegerImmediateResults : Ready lab (lab.wset g7) false ((v 5).uses 1) [3] ∧
    Ready lab (lab.wset g7) false [] [0] ∧ NoTrap lab (lab.wset g7) fun _ => 0 := by
  and_intros <;> first | decide +kernel | exact ready_of (by decide +kernel) | exact noTrap_of (by decide +kernel)
theorem witness_LogicAndShiftResults : Ready lab (lab.wset ⟨1, true⟩) false ((v 2).uses 1 ++ (v 5).uses 1) [3] ∧
    NoTrap lab (lab.wset ⟨1, true⟩) fun _ => 0 :=
  ⟨ready_of (by decide +kernel), noTrap_of (by decide +kernel)⟩
theorem witness_FieldAndSelectResults : Ready lab (lab.wset g7) false ((v 4).uses 1) [3] ∧
    (1 ≤ 32 ∧ 0 + 32 ≤ 32) ∧ (1 ≤ 1 ∧ 31 + 1 ≤ 32) ∧ (15 < 16 ∧ 0 < 16) ∧
    (∀ i, i < 4 → (0xA921 : Imm16).toNat / 16 ^ i % 16 ≤ 10) ∧
    Ready lab (lab.wset g7) false ((v 1).uses 1 ++ (v 5).uses 1) [3] := by
  and_intros <;> first | decide +kernel | exact ready_of (by decide +kernel)
theorem witness_PairArithmeticResults : Ready lab (lab.wset g7) false ((p 4).uses 2 ++ (p 8).uses 2) [16, 17] ∧
    Ready lab (lab.wset g7) false ((p 4).uses 2) [510, 511] ∧ NoTrap lab (lab.wset g7) fun _ => 0 := by
  and_intros <;> first | decide +kernel | exact ready_of (by decide +kernel) | exact noTrap_of (by decide +kernel)
theorem witness_PredicateResults : Ready lab (lab.wset g7) false ((v 1).uses 1 ++ (v 5).uses 1) [] ∧
    Ready lab (lab.wset g7) false [] [3] ∧ Ready lab (lab.scalarSet g7) true [] [] ∧ NoTrap lab (lab.wset g7) fun _ => 0 := by
  and_intros <;> first | decide +kernel | exact ready_of (by decide +kernel) | exact noTrap_of (by decide +kernel)
theorem witness_ScalarPipeResults : Ready lab (lab.scalarSet g7) true [] [] ∧ Ready lab (lab.scalarSet g7) true ((p 2).uses 1) [] ∧
    lab.scalarSet g7 ≠ 0 ∧ lab.scalarSet ⟨7, true⟩ = 0 ∧ lab.me.converged = true ∧
    (let s := meWith lab fun w => { w with vregs := [(2, ⟨.u 7, 1⟩)] }
     s.me.converged = true ∧ s.scalarSet g7 ≠ 0 ∧ s.me.full 2 = false) := by
  and_intros <;> first | decide +kernel | exact ready_of (by decide +kernel)
theorem witness_StateReadResults : Ready lab (lab.wset g7) false ((p 4).uses 1) [3] ∧ Ready lab (lab.wset g7) false [] [3] ∧
    Ready lab (lab.wset g7) false [] [16, 17] ∧ 11 < 12 ∧ 0 < 12 ∧ NoTrap lab (lab.wset g7) fun _ => 0 := by
  and_intros <;> first | decide +kernel | exact ready_of (by decide +kernel) | exact noTrap_of (by decide +kernel)
/-- With every condition enabled an exact sum does not trap; with none enabled nothing does. -/
theorem witness_Fp32Results : Ready labEn (labEn.wset g7) false ((v 6).uses 1 ++ (v 7).uses 1) [3] ∧
    (∀ l : Fin 32, (labEn.wset g7).getLsbD l.val = true →
      (outF .rn (Val.add .rn (valF ((labEn.me.src (v 6)).lane l)) (valF ((labEn.me.src (v 7)).lane l)))).flags &&&
        labEn.me.enables = 0) ∧ NoTrap lab (lab.wset g7) fun _ => 0x1F := by
  and_intros <;> first | decide +kernel | exact ready_of (by decide +kernel) | exact noTrap_of (by decide +kernel)
theorem witness_Fp64Results : Ready lab (lab.wset g7) false ((p 8).uses 2 ++ (p 10).uses 2) [16, 17] ∧
    NoTrap lab (lab.wset g7) fun _ => 0x1F := ⟨ready_of (by decide +kernel), noTrap_of (by decide +kernel)⟩
theorem witness_FloatComparisonResults : Ready lab (lab.wset g7) false ((v 6).uses 1 ++ (v 7).uses 1) [] ∧
    Ready lab (lab.wset g7) false ((p 8).uses 2 ++ (p 10).uses 2) [] ∧ NoTrap lab (lab.wset g7) fun _ => 0x1F := by
  and_intros <;> first | decide +kernel | exact ready_of (by decide +kernel) | exact noTrap_of (by decide +kernel)
theorem witness_PackedFloatResults : Ready lab (lab.wset g7) false ((v 14).uses 1 ++ (v 14).uses 1) [3] ∧
    Ready lab (lab.wset g7) false ((v 14).uses 1 ++ (v 14).uses 1 ++ (v 6).uses 1) [3] ∧ NoTrap lab (lab.wset g7) fun _ => 0x1F := by
  and_intros <;> first | decide +kernel | exact ready_of (by decide +kernel) | exact noTrap_of (by decide +kernel)
theorem witness_PackedIntegerResults : Ready lab (lab.wset g7) false ((v 13).uses 1 ++ (v 13).uses 1) [3] ∧
    NoTrap lab (lab.wset g7) fun _ => flagSAT := ⟨ready_of (by decide +kernel), noTrap_of (by decide +kernel)⟩
theorem witness_SpecialFunctionResults : Ready lab (lab.wset g7) false ((v 6).uses 1 ++ (v 7).uses 1) [3] ∧
    (lab.me.enables = 0 ∧ lab.myLaunch.proof = false) ∧
    Ready labEn (labEn.wset g7) false ((v 6).uses 1 ++ (v 7).uses 1) [3] ∧ labEn.me.enables ≠ 0 ∧
    (∀ l : Fin 32, (labEn.wset g7).getLsbD l.val = true →
      (outF .rn (Val.div (valF ((labEn.me.src (v 6)).lane l)) (valF ((labEn.me.src (v 7)).lane l)))).flags &&&
        labEn.me.enables = 0) ∧
    (launchWith lab 0x2C 4 0x10).myLaunch.proof = true ∧ Ready lab (lab.wset g7) false ((p 8).uses 2 ++ (p 10).uses 2) [16, 17] := by
  and_intros <;> first | decide +kernel | exact ready_of (by decide +kernel)
theorem witness_CrossLaneResults : Ready lab (lab.wset g7) false ((v 12).uses 1 ++ (v 5).uses 1) [3] ∧
    Ready lab (lab.wset g7) false ((v 12).uses 1) [3] ∧ Ready lab (lab.wset g7) false [] [3] ∧
    Ready lab (lab.wset g7) false ((v 12).uses 1 ++ (v 5).uses 1) [16, 17] ∧ NoTrap lab (lab.wset g7) fun _ => 0 := by
  and_intros <;> first | decide +kernel | exact ready_of (by decide +kernel) | exact noTrap_of (by decide +kernel)
theorem witness_ReductionResults : Ready lab (lab.wset ⟨1, false⟩) false ((v 12).uses 1) [3] ∧
    NoTrap lab (lab.wset ⟨1, false⟩) fun _ => 0x1F := ⟨ready_of (by decide +kernel), noTrap_of (by decide +kernel)⟩
theorem witness_ConversionResults : Ready lab (lab.wset g7) false (usesBits 64 (v 8)) [16, 17] ∧
    Ready lab (lab.wset g7) false (usesBits 32 (v 6) ++ usesBits 32 (v 7)) [3] ∧
    Ready lab (lab.wset g7) false ((v 8).uses 8) [3] ∧ NoTrap lab (lab.wset g7) fun _ => 0x1F := by
  and_intros <;> first | decide +kernel | exact ready_of (by decide +kernel) | exact noTrap_of (by decide +kernel)

/-- Runs that agree and one that does not; a uniform source and one that differs; aligned targets and one that is not. -/
theorem witness_Branches : Readable lab false ((v 1).uses 1) ∧ lab.me.predUniform 7 = true ∧ (lab.me.src (v 1)).isU = true ∧
    ¬(lab.me.predUniform 1 = true ∨ lab.wset ⟨1, false⟩ = 0 ∨ lab.wset ⟨1, false⟩ = lab.cur.run) ∧
    ¬((lab.me.src (v 2)).isU = true ∨ ∀ l : Fin 32, (lab.wset g7).getLsbD l.val = true →
      (lab.me.src (v 2)).lane l = (lab.me.src (v 2)).lane (lab.wset g7).lowest) ∧
    (∀ l : Fin 32, (lab.wset g7).getLsbD l.val = true →
      (lab.cur.pc + ((lab.me.src (v 2)).lane l).signExtend 57).toNat % 4 = 0) ∧
    ¬(∀ l : Fin 32, (lab.wset g7).getLsbD l.val = true →
      (lab.cur.pc + ((lab.me.src (v 1)).lane l).signExtend 57).toNat % 4 = 0) ∧
    labVec.myLaunch.tvec ≠ 0 ∧ labVec.me.hndl = false ∧ lab.myLaunch.tvec = 0 := by
  and_intros <;> first | decide +kernel | exact readable_of (by decide +kernel)
theorem witness_CallsAndReturns :
    (LaneMask.lanes (lab.wset g7)).countP (fun l => decide (16 ≤ lab.me.lanes[l].stack.length)) = 0 ∧
    (LaneMask.lanes (labDeep.wset g7)).countP (fun l => decide (16 ≤ labDeep.me.lanes[l].stack.length)) = 32 ∧
    Readable labDeep false ((v 2).uses 1) ∧
    (∀ l : Fin 32, (labDeep.wset g7).getLsbD l.val = true →
      (labDeep.cur.pc + ((labDeep.me.src (v 2)).lane l).signExtend 57).toNat % 4 = 0) ∧
    (LaneMask.of fun l => (labDeep.wset g7).getLsbD l.val && labDeep.me.lanes[l].stack.isEmpty) = 0 ∧
    (LaneMask.of fun l => (labVec.wset g7).getLsbD l.val && labVec.me.lanes[l].stack.isEmpty) ≠ 0 ∧
    (labVec.myLaunch.tvec ≠ 0 ∧ labVec.me.hndl = false ∧ lab.myLaunch.tvec = 0 ∧ labIn.me.hndl = true) ∧
    (labDeep.me.predUniform 7 = true ∧ (labDeep.me.src (v 8)).isU = true ∧ ∀ l : Fin 32, (labDeep.wset g7).getLsbD l.val = true →
      (labDeep.cur.pc + ((labDeep.me.src (v 8)).lane l).signExtend 57).toNat % 4 = 0) := by
  and_intros <;> first | decide +kernel | exact readable_of (by decide +kernel)
theorem witness_WaitsTrapsAndReturns : lab.wset g7 ≠ 0 ∧ lab.parks = false ∧ lab.myLaunch.proof = false ∧
    (launchWith lab 0x2C 4 16).parks = false ∧ lab.wset ⟨7, true⟩ = 0 ∧ (blockWith lab fun b => { b with pending := true }).parks = true ∧
    lab.me.hndl = false ∧ labIn.me.hndl = true ∧ (launchWith lab 0x2C 4 16).myLaunch.proof = true := by
  and_intros <;> decide +kernel
/-- Did an access get its bytes? -/
def gotB (g : Got) : Bool :=
  match g with
  | .ok _ => true
  | _ => false

/-- A wait for a phase word at 0x40, or for the guard word at 0x200, in lanes 0 and 1. -/
def labWait (guard : Bool) (wanted : Word) (a : Nat) : State := meWith lab fun w => { w with waits := [⟨guard, a, 3, true, true, .blk,
  [(0, a), (1, a)], Lanes.of fun _ => wanted, Lanes.of fun _ => 0, 3, 3, false, 0, 3⟩] }

/-- A proof-mode launch with these flags and a replay log of so many bytes at 0x300. -/
def labLog (flags size : Nat) : State := launchWith (launchWith (launchWith lab 0x2C 4 flags) 0xD0 8 0x300) 0xD8 8 size
/-- The log entry of a DETPT with tag 9 of the laboratory's 7 in every lane, but for its words byte. -/
def labEntry : List Byte := leBytes 8 0 ++ leBytes 2 0 ++ [2, 0] ++ leBytes 4 0xFFFFFFFF ++ leBytes 4 9 ++
  shake256 ((List.finRange 32).flatMap fun _ => leBytes 4 7) 8 ++ leBytes 4 0
/-- Is a range of 32 bytes of the log one piece of this device's memory? -/
def logPlaced (s : State) (need : Need) : Bool :=
  (match s.rangeWalk s.myCtx need s.myLaunch.logAddr 32 with
    | .ok [(x, n)] => n == 32 && !isExternal x.loc && !x.disc && x.loc == 0x10300
    | _ => false) && !s.waitsOn s.myCtx (.warp s.cur.slot) s.myLaunch.logAddr 32 && (Map.find s.blocks (2 ^ 40)).isNone

/-- A recording run and a replaying one, each with room in its log and without; the entry that stands there is the one of the
instruction, or one of zeros. -/
theorem witness_DetptInProofMode : Readable (labLog 0x30 32) false ((v 1).uses 1) ∧ (labLog 0x30 32).wset g7 ≠ 0 ∧
    ((labLog 0x30 32).myLaunch.proof = true ∧ (labLog 0x30 32).myLaunch.recording = true ∧ logPlaced (labLog 0x30 32) .write = true ∧
      (labLog 0x30 32).myLaunch.logPos + 32 ≤ (labLog 0x30 32).myLaunch.logSize) ∧
    (labLog 0x30 31).myLaunch.logSize < (labLog 0x30 31).myLaunch.logPos + 32 ∧
    ((labLog 0x10 32).myLaunch.proof = true ∧ (labLog 0x10 32).myLaunch.recording = false ∧ (labLog 0x10 32).myLaunch.replay = false) ∧
    ((labLog 0x50 32).mem.bytes 0x10300 32).take 11 ≠ leBytes 8 0 ++ leBytes 2 0 ++ [2] := by
  and_intros <;> first | decide +kernel | exact readable_of (by decide +kernel)
theorem witness_DetptReplayed :
    (let s := { labLog 0x50 32 with mem := labMem.putBytes 0x10300 labEntry }
     let e := s.mem.bytes 0x10300 32
     s.myLaunch.proof = true ∧ s.myLaunch.recording = false ∧ s.myLaunch.replay = true ∧ logPlaced s .read = true ∧
     e.take 11 = leBytes 8 s.myLaunch.retired ++ leBytes 2 (s.me.blk % 32 * 32 + s.me.index) ++ [2] ∧
     (e.drop 12).take 4 = leBytes 4 (s.wset g7).toNat ∧
     (e.drop 16).take 12 = leBytes 4 9 ++ shake256 ((List.finRange 32).flatMap fun k => leBytes 4 ((s.me.src (v 1)).lane k).toNat) 8 ∧
     (e.drop 16).take 12 ≠ leBytes 4 8 ++ shake256 ((List.finRange 32).flatMap fun k => leBytes 4 ((s.me.src (v 1)).lane k).toNat) 8) := by decide +kernel
theorem witness_ControlRegisterWrites : Readable labIn false ((v 5).uses 1) ∧ (labIn.me.src (v 5)).isU = true ∧
    labIn.wset g7 ≠ 0 ∧ labIn.me.hndl = true ∧ labIn.wset ⟨7, true⟩ = 0 ∧
    ¬((labIn.me.src (v 2)).isU = true ∨ ∀ l : Fin 32, (labIn.wset g7).getLsbD l.val = true →
      (labIn.me.src (v 2)).lane l = (labIn.me.src (v 2)).lane (labIn.wset g7).lowest) ∧
    ¬(0x002 = 0x001 ∨ ((0x002 = 0x002 ∨ 0x002 = 0x003) ∧ lab.me.hndl = true)) ∧ lab.myLaunch.proof = false := by
  and_intros <;> first | decide +kernel | exact readable_of (by decide +kernel)
/-- A diverged warp; an empty source; a full warp of one register; an inexact sum with its trap enabled. -/
theorem witness_ChecksBeforeEffect : labSplit.me.converged = false ∧
    (let s := meWith lab fun w => { w with vregs := [(1, ⟨.u 7, 1⟩)] }
     s.me.full 1 = false ∧ s.me.full 2 = true ∧ Readable s false ((v 2).uses 1)) ∧
    (let s := launchWith (meWith lab fun w => { w with vregs := [(1, ⟨.u 7, 0⟩)] }) 0x22 2 1
     Readable s false ((v 1).uses 1 ++ (v 1).uses 1) ∧ s.me.full 3 = true ∧ s.wset g7 ≠ 0 ∧ s.me.vreg 3 = ⟨.n, 0⟩ ∧
     3 ∉ s.me.promised ∧ s.myLaunch.regs ≤ s.me.allocatedRegs.length + s.me.promised.length) ∧
    (let s := launchWith labEn 8 8 0x100
     Ready s (s.wset g7) true ((v 6).uses 1 ++ (Src.s 1).uses 1) [3] ∧ s.me.hndl = false ∧ s.myLaunch.tvec ≠ 0 ∧
     (LaneMask.of fun l => (s.wset g7).getLsbD l.val && (outF .rn (Val.add .rn (valF ((s.me.src (v 6)).lane l))
       (valF ((s.me.src (.s 1)).lane l)))).flags &&& s.me.enables != 0) ≠ 0) := by
  and_intros <;> first | decide +kernel | exact ready_of (by decide +kernel) | exact readable_of (by decide +kernel)

/-- The accesses of the laboratory's warp through its record, at lane numbers. -/
theorem lab_record_ok (off : Word) (h : off = 0 ∨ off = 32) : RecordOk lab (lab.wset g7) labRecord (v 12) off 4 := by
  rcases h with h | h <;> subst h <;>
    exact ⟨fun _ => by decide +kernel, by unfold Inside; decide +kernel, by unfold Inside; decide +kernel⟩

/-- The last element of the record is in bounds at offset 32. -/
theorem witness_RecordLoads : Readable lab false ((v 12).uses 1) ∧
    lab.memGate (lab.wset g7) (recGuard (lab.me.breg 1)) false = .go ∧ RecordOk lab (lab.wset g7) (lab.me.breg 1) (v 12) 32 4 ∧
    Mapped lab .read 4 (recLanes (lab.me.breg 1) (lab.wset g7) fun l => recIndex ((lab.me.src (v 12)).lane l) 32) ∧
    lab.destGate (lab.wset g7) ((v 12).uses 1) [3] = .go ∧ lab.myLaunch.proof = false :=
  ⟨readable_of (by decide +kernel), by decide +kernel, lab_record_ok 32 (.inr rfl), mapped_of (by decide +kernel),
    by decide +kernel, by decide +kernel⟩
/-- A store of all lanes, in a plain launch and in a versioned one. -/
theorem witness_RecordStores :
    let ls := recLanes (lab.me.breg 1) (lab.wset g7) fun l => recIndex ((lab.me.src (v 12)).lane l) 0
    let s := launchWith lab 0x2C 4 2
    Readable lab false ((v 12).uses 1 ++ (v 12).uses 1) ∧ lab.memGate (lab.wset g7) (recGuard (lab.me.breg 1)) false = .go ∧
    RecordOk lab (lab.wset g7) (lab.me.breg 1) (v 12) 0 4 ∧ Mapped lab .write 4 ls ∧
    lab.releaseGate (lab.wset g7) false = .go ∧
    lab.versionFull lab.me.blk (ls.map fun p => lab.phys .write p.2 / 128) = false ∧
    lab.versioned lab.me.blk = false ∧ Mapped s .write 4 ls ∧ s.versioned s.me.blk = true :=
  ⟨readable_of (by decide +kernel), by decide +kernel, lab_record_ok 0 (.inl rfl), mapped_of (by decide +kernel),
    by decide +kernel, by decide +kernel, by decide +kernel, mapped_of (by decide +kernel), by decide +kernel⟩
theorem witness_CoreSramAccesses : lab.memGate (lab.wset g7) 0 false = .go ∧
    lab.sramGate lab.me.blk (lab.wset g7) (fun _ => 0xFFFC) 4 4 = .go ∧ (Map.find lab.blocks lab.me.blk).isSome = true ∧
    Map.sorted lab.blocks = true ∧ Readable lab true ((Src.s 2).uses 1) ∧ lab.destGate (lab.wset g7) [] [3] = .go ∧
    Readable lab true ((Src.s 2).uses 1 ++ (v 12).uses 1) ∧ lab.myLaunch.proof = false := by
  and_intros <;> first | decide +kernel | exact readable_of (by decide +kernel)
theorem witness_GlobalAtomics : Readable lab false ((v 12).uses 1 ++ (v 1).uses 1) ∧
    lab.memGate (lab.wset g7) (recGuard (lab.me.breg 1)) false = .go ∧ RecordOk lab (lab.wset g7) (lab.me.breg 1) (v 12) 0 4 ∧
    Mapped lab .both 4 (recLanes (lab.me.breg 1) (lab.wset g7) fun l => recIndex ((lab.me.src (v 12)).lane l) 0) ∧
    lab.releaseGate (lab.wset g7) true = .go ∧ lab.versioned lab.me.blk = false ∧ lab.myLaunch.vers = false ∧
    lab.destGate (lab.wset g7) ((v 12).uses 1 ++ (v 1).uses 1) [3] = .go ∧ lab.myLaunch.proof = false :=
  ⟨readable_of (by decide +kernel), by decide +kernel, lab_record_ok 0 (.inl rfl), mapped_of (by decide +kernel),
    by decide +kernel, by decide +kernel, by decide +kernel, by decide +kernel, by decide +kernel⟩
theorem witness_CoreSramSynchronisation : lab.memGate (lab.wset g7) 0 false = .go ∧
    (Map.find lab.blocks lab.me.blk).isSome = true ∧ Map.sorted lab.blocks = true ∧
    lab.sramGate lab.me.blk (lab.wset g7) (fun _ => 0xFFF8) 8 8 = .go ∧
    lab.sramGate lab.me.blk (lab.wset g7) (fun _ => 0x40) 4 4 = .go ∧
    Readable lab true ((Src.s 2).uses 1 ++ (v 12).uses 1) ∧ lab.releaseGate (lab.wset g7) true = .go ∧
    lab.destGate (lab.wset g7) ((v 12).uses 1) [3] = .go ∧ lab.myLaunch.proof = false ∧ lab.wset g7 ≠ 0 ∧
    Ready lab (lab.wset g7) true ((Src.s 2).uses 1) [3] ∧ (1 ≤ 1 ∧ 1 < 2 ^ 14) ∧ (1 ≤ 16383 ∧ 16383 < 2 ^ 14) := by
  and_intros <;> first | decide +kernel | exact ready_of (by decide +kernel) | exact readable_of (by decide +kernel)

/-- A record of bricks at 0x100 with 32 elements of 1,024 bytes, and a brick held for each of its first lanes. -/
def brickRecord : Record := BitVec.ofNat 256 (0x400 + 32 * 2 ^ 64 + 1024 * 2 ^ 96)
def labBrick : State := (meWith lab fun w => { w with bregs := w.bregs.set 2 brickRecord }).setCore 0
  { Core.reset with bricks := (List.range 32).map fun k => (0, 0x400 + 1024 * k, List.replicate 1024 0) }

theorem witness_CollectorDiscardAndBricks :
    (Width.b32 ≠ .b128 ∧ lab.memGate (lab.wset g7) (recGuard (lab.me.breg 1)) true = .go ∧
      RecordOk lab (lab.wset g7) (lab.me.breg 1) (v 12) 0 4 ∧ lab.myLaunch.proof = false ∧ lab.me.role = .any ∧
      (lab.me.src (v 12)).isU = false ∧ lab.versioned lab.me.blk = false ∧ (lab.me.src (v 5)).isU = true) ∧
    (recBad (lab.me.breg 1) = false ∧ lab.discardMoving (recLanes (lab.me.breg 1) (lab.wset g7) fun l =>
      recIndex ((lab.me.src (v 12)).lane l) 0) = false ∧ lab.me.pendings = [] ∧ (lab.core 0).requests + 32 < 256) ∧
    (let s := labBrick
     let r := s.me.breg 2
     let ls := recLanes r (s.wset g7) fun l => recIndex ((s.me.src (v 12)).lane l) 0
     Readable s false ((v 12).uses 1 ++ (p 6).uses 3) ∧ s.memGate (s.wset g7) (recGuard r) false = .go ∧
     (recBad r = false ∧ recStride r ≠ 0 ∧ recStride r % 1024 = 0 ∧ recSwz r = 0) ∧
     (∀ l : Fin 32, (s.wset g7).getLsbD l.val = true → recOobt r = true →
       recInside r (recIndex ((s.me.src (v 12)).lane l) 0) = true) ∧ ls.length = 32 ∧
     (∀ q ∈ ls, s.guardMeets q.1 q.2 1024 = false) ∧
     (∀ q ∈ ls, (s.core s.myCore).bricks.find? (fun b => b.1 == s.myCtx && b.2.1 == q.2) =
       some (s.myCtx, q.2, List.replicate 1024 0)) ∧
     s.destGate (s.wset g7) ((v 12).uses 1 ++ (p 6).uses 3) (regGroup 16 4) = .go) ∧
    (let s := labBrick.setCore 0 Core.reset
     (s.core 0).bricks = [] ∧ (match s.rangeWalk 0 .read 0x400 1024 with | .ok _ => true | _ => false) = true ∧
     s.waitsOn 0 (.warp 0) 0x400 1024 = false ∧ gotB (s.fetch ⟨0, 0, .warp 0, 0, 0, 0⟩ 0x400 1024) = true) :=
  ⟨⟨by decide, by decide +kernel, lab_record_ok 0 (.inl rfl), by decide +kernel, by decide +kernel, by decide +kernel,
    by decide +kernel, by decide +kernel⟩, ⟨by decide +kernel, by decide +kernel, by decide +kernel, by decide +kernel⟩,
    by and_intros <;> first | decide +kernel | exact readable_of (by decide +kernel), by decide +kernel⟩
theorem witness_GuardsAndFences :
    let r := lab.me.breg 1
    let ls := (LaneMask.lanes (lab.wset g7)).map fun l => (l.val, 0x200)
    (recBad r = false ∧ (r.extractLsb' 192 64).toNat = 0x200) ∧ lab.memGate (lab.wset g7) 0x200 false = .go ∧
    Mapped lab .read 4 ls ∧ lab.destGate (lab.wset g7) [] [3] = .go ∧ Readable lab false ((v 1).uses 1) ∧
    lab.destGate (lab.wset g7) ((v 1).uses 1) [3] = .go ∧ lab.wset g7 ≠ 0 ∧ Mapped lab .both 4 ls ∧
    lab.releaseGate (lab.wset g7) true = .go ∧ lab.versioned lab.me.blk = false ∧ lab.memGate (lab.wset g7) 0 false = .go ∧
    lab.outstanding = false ∧ lab.me.waitsDue (lab.wset g7) = false ∧ lab.myLaunch.vers = false ∧ lab.myLaunch.proof = false := by
  and_intros <;> first | decide +kernel | exact readable_of (by decide +kernel) | exact mapped_of (by decide +kernel)
/-- A barrier at which all arrive, one at which half arrive, and one in a handler; an end of all threads and of half of them. -/
theorem witness_BarrierAndExit : lab.me.log = none ∧
    (∀ q ∈ lab.blockWarps 0, q.2.pendings = [] ∧ lab.unanswered q.1 = false ∧ ∀ r ∈ (lab.core (blockCore 0)).collector, r.slot ≠ q.1) ∧
    { lab with ext := [⟨7, none, msgWrite, 0x100, [], 4, .warp 0, 0, [], none, 0, 1, 0⟩] }.unanswered lab.cur.slot = true ∧
    lab.me.pendings = [] ∧ (labWait false 0 0x40).me.pendings ≠ [] ∧ lab.releaseGate (lab.wset g7) true = .go ∧ lab.exitGate = .go ∧
    lab.me.returnReady (lab.wset g7) = true ∧ lab.wset ⟨7, true⟩ = 0 ∧
    (∀ l : Fin 32, (lab.wset g7).getLsbD l.val = true) ∧ ¬(∀ l : Fin 32, (lab.wset ⟨1, false⟩).getLsbD l.val = true) ∧
    lab.me.hndl = false ∧ lab.myLaunch.regrp = false ∧ lab.memGate (lab.wset g7) 0 false = .go ∧
    lab.wset g7 ≠ 0 ∧ (∀ l : Fin 32, lab.me.lanes[l].st = .live) ∧
    (∀ l : Fin 32, lab.me.lanes[l].st ≠ .held ∧
      (lab.me.lanes[l].st = .live → (lab.wset g7).getLsbD l.val = true ∨ lab.me.lanes[l].atBar = true)) ∧
    ((lab.blockWarps 0).filter fun q => q.1 != 0) = [] ∧
    ¬(∀ l : Fin 32, lab.me.lanes[l].st ≠ .held ∧
      (lab.me.lanes[l].st = .live → (lab.wset ⟨1, false⟩).getLsbD l.val = true ∨ lab.me.lanes[l].atBar = true)) ∧
    labIn.me.hndl = true ∧
    (let s := launchWith (meWith lab fun w => { w with
       lanes := Vector.ofFn fun l => { w.lanes[l] with stack := [⟨8, decide (l = 31)⟩] } }) 0x2C 4 1
     s.myLaunch.regrp = true ∧ ∃ l : Fin 32, (s.wset g7).getLsbD l.val = true ∧ ∃ k ∈ s.me.lanes[l].stack, k.mark = true) := by
  and_intros <;> decide +kernel
theorem witness_RecordBuilding : Ready lab (lab.wset g7) true ((Src.s 1).uses 1 ++ (v 1).uses 1) [] ∧
    Ready lab (lab.wset g7) false ((v 6).uses 2) [] ∧ lab.memGate (lab.wset g7) 0 false = .go ∧
    (∀ j, j < 2 → (lab.me.srcAt (v 5) j).isU = true) ∧ recSwz (lab.me.breg 1) = 0 ∧
    lab.sramGate lab.me.blk (lab.wset g7 &&& LaneMask.one (lab.wset g7).lowest) (fun _ => 0xFFE0) 32 32 = .go := by
  and_intros <;> first | decide +kernel | exact ready_of (by decide +kernel)

/-- A segment of one granule, RESIDENT on core 0 or COLD, and its name as an immediate. -/
def seg (st : SegState) (loc attach : Nat) : Segment := ⟨5, 0, 1, 0, 0x1000, st, loc, attach, [], 0, none, 0, false, none, false⟩
def labSeg (g : Segment) : State := lab.setSeg 0 g

/-- A query of a missing name; a descriptor that is good and one that is not; windows that are free and occupied; a segment
resident here, resident elsewhere with and without attachments, cold, and moving. -/
theorem witness_StandingSegments : lab.wset g7 ≠ 0 ∧ lab.memGate (lab.wset g7) 0 false = .go ∧ lab.myLaunch.proof = false ∧
    3 < 4 ∧ Ready lab (lab.wset g7) false (segUses (.imm 5)) [16, 17] ∧ Ready lab (lab.wset g7) true ((Src.s 2).uses 1) [3] ∧
    lab.sramGate 0 (lab.wset g7 &&& LaneMask.one (lab.wset g7).lowest) (fun _ => 0x20) 32 32 = .go ∧
    (let f := field (leBytes 32 ((blockWith lab fun b => { b with area := b.area.putBytes 0x20 (leBytes 8 7 ++
        leBytes 8 0x1000 ++ leBytes 2 192 ++ leBytes 2 191 ++ leBytes 12 0) }).sramNat 0 0x20 32))
     f 8 8 % 4096 = 0 ∧ f 8 8 < 2 ^ 57 ∧ 1 ≤ f 0x10 2 ∧ f 0x10 2 ≤ 192 ∧ f 0x12 2 < 192 ∧ f 0x14 12 = 0) ∧
    ¬(1 ≤ field (leBytes 32 (lab.sramNat 0 0x20 32)) 0x10 2) ∧
    (lab.segs.find? fun q => q.2.ctx == lab.myCtx && q.2.name == 5) = none ∧
    lab.detachGate = .go ∧ (lab.block 0).marches 3 = false ∧ lab.attaching 0 3 = false ∧
    (let s := labSeg (seg .resident 0 0)
     (s.segs.find? fun q => q.2.ctx == s.myCtx && q.2.name == 5) = some (0, seg .resident 0 0) ∧
     Map.find s.segs 0 = some (seg .resident 0 0) ∧ (s.block 0).windows[3]?.join = none) ∧
    (let s := blockWith (labSeg (seg .resident 0 1)) fun b => { b with windows := b.windows.set 0 (some 0) }
     (s.block 0).windows[0]?.join = some 0 ∧ Ready s (s.wset g7) false [] [3] ∧
     0 ∉ ((s.setBlock 0 { s.block 0 with windows := (s.block 0).windows.setIfInBounds 0 none }).block 0).attached) ∧
    (let s := labSeg (seg .cold 0 0)
     Map.sorted s.segs = true ∧ s.roomPlan s.myCtx 0 1 1 [0] = some [] ∧ s.granulesOf 0 (fun _ => false) + 1 ≤ s.capacity 0 ∧
     (s.segs.filter fun h => h.1 != 0 && (h.2.on 0 || (h.2.goal == some (.reload 0) && h.2.waiter.isNone))) = [] ∧ (seg .cold 0 0).ctx = s.myCtx ∧ Ready s (s.wset g7) false [] [3]) ∧
    (let s := ((labSeg (seg .cold 0 0)).setSeg 1 { seg .resident 0 0 with name := 6 }).setCore 0 { Core.reset with banks := 1 }
     s.roomPlan s.myCtx 0 1 1 [0] = none ∧ s.victimSegs s.myCtx 0 [0] ≠ []) ∧
    (let s := (labSeg (seg .cold 0 0)).setCore 0 { Core.reset with banks := 1 }
     s.roomPlan s.myCtx 0 1 1 [0] = none ∧ s.victimSegs s.myCtx 0 [0] = []) ∧
    (seg .moving 0 0).st = .moving ∧ (seg .resident 1 1).loc ≠ 0 ∧ (seg .resident 1 1).attach ≠ 0 := by
  and_intros <;> first | decide +kernel | exact ready_of (by decide +kernel)

/-- The laboratory with these bytes at 0x80 of its block area. -/
def labDesc (bs : List Byte) : State := blockWith lab fun b => { b with area := b.area.putBytes 0x80 bs }
/-- A device queue 0 of generation 1 with room for two entries. -/
def labQueue (entries : List (Nat × List Byte)) : State := lab.setCtx 0 { lab.ctx 0 with
  devQueues := [(0, ⟨1, true, false, 1, 0, [], 0x800, 0, 0, entries, entries.length⟩)] }
/-- A launch that belongs to group 0 of one device. -/
def labGroup : State := lab.setLaunch 0 { lab.launch 0 with groups := [⟨some [0]⟩] }

/-- Descriptors of zeros with a COMPL that can be written and one that cannot; each role; a WBLOAD refused and one that
overflows the buffer. -/
theorem witness_EngineCommands : Readable lab true ((Src.s 2).uses 1) ∧ lab.myLaunch.proof = false ∧ lab.wset g7 ≠ 0 ∧
    lab.memGate (lab.wset g7 &&& LaneMask.one (lab.wset g7).lowest) 0 false = .go ∧
    lab.releaseGate (lab.wset g7 &&& LaneMask.one (lab.wset g7).lowest) true = .go ∧
    lab.sramGate 0 (lab.wset g7 &&& LaneMask.one (lab.wset g7).lowest) (fun _ => 0x80) 64 64 = .go ∧
    (lab.block 0).matrixQ.length < 8 ∧ lab.channelFrozen = false ∧ lab.me.role = .any ∧ lab.complOk 0 0 = true ∧
    lab.complOk 0 4 = false ∧ lab.complOk 0 0x10000 = false ∧
    (let w := meWith lab fun w => { w with role := .vector }
     ¬(w.me.role = .any ∨ w.me.role = .matrix) ∧ ¬(w.me.role = .any ∨ w.me.role = .feed)) ∧
    wbBad (List.replicate 32 0) 0 = true ∧
    (let d := leBytes 8 0 ++ leBytes 4 16 ++ leBytes 4 16 ++ leBytes 2 1 ++ leBytes 1 0 ++ leBytes 1 0 ++ leBytes 4 0 ++
       leBytes 4 (2 ^ 21) ++ leBytes 4 0
     wbBad d labRecord = false ∧
     ¬(wbForm d ≠ 2 ∧ ∃ n, n < wbN d ∧ recOut labRecord (wbSrc d + n * wbColstr d) (wbShape d).fixedBytes = true) ∧
     (lab.cluster 0).wbEnd < wbOff d + wbFixedSize d) := by
  and_intros <;> first | decide +kernel | exact readable_of (by decide +kernel)
/-- A launch without groups and one with a group of one; a root inside and outside it; the memory form with a good
descriptor, a bad one, and one beyond its record. -/
theorem witness_CollectiveCommands : lab.wset g7 ≠ 0 ∧
    lab.releaseGate (lab.wset g7 &&& LaneMask.one (lab.wset g7).lowest) true = .go ∧
    lab.memGate (lab.wset g7 &&& LaneMask.one (lab.wset g7).lowest) 0 false = .go ∧ lab.myLaunch.proof = false ∧ lab.channelFrozen = false ∧
    (Map.find lab.blocks 0).isSome = true ∧ Readable lab false ((v 6).uses 2) ∧ lab.memGate (lab.wset g7) 0 false = .go ∧
    lab.destGate (lab.wset g7) ((v 6).uses 2) [16, 17, 18] = .go ∧
    (lab.myLaunch.groups[0]?).bind Group.members = none ∧ (labGroup.myLaunch.groups[0]?).bind Group.members = some [0] ∧
    ([0] : List Nat).length ≤ (1 : Word).toNat ∧ (0 : Word).toNat < ([0] : List Nat).length ∧
    lab.sramGate 0 (lab.wset g7 &&& LaneMask.one (lab.wset g7).lowest) (fun _ => 0x80) 32 32 = .go ∧
    (let checked : Record := labRecord ||| BitVec.ofNat 256 (2 ^ 136)
     let d (n : Nat) : List Byte := leBytes 16 0 ++ leBytes 4 n ++ leBytes 12 0
     clBad .allred false (d 1) checked 1 = false ∧ clOut .allred false (d 1) checked 1 = false ∧
     clBad .allred false (d 0) checked 1 = true ∧ clBad .allred false (d 65) checked 1 = false ∧
     clOut .allred false (d 65) checked 1 = true) ∧ lab.complOk 0 0 = true ∧ lab.complOk 0 4 = false := by
  and_intros <;> first | decide +kernel | exact readable_of (by decide +kernel)
/-- A queue that is not there, one with room, one that is full, a good entry and a bad one; aligned calls in a launch that
regroups and in one that does not. -/
theorem witness_OffersAndRegroupedCalls : lab.wset g7 ≠ 0 ∧ lab.myLaunch.proof = false ∧ Readable lab true ((Src.s 2).uses 1) ∧
    lab.memGate (lab.wset g7 &&& LaneMask.one (lab.wset g7).lowest) 0 false = .go ∧
    lab.sramGate 0 (lab.wset g7 &&& LaneMask.one (lab.wset g7).lowest) (fun _ => 0x80) 64 64 = .go ∧
    lab.releaseGate (lab.wset g7 &&& LaneMask.one (lab.wset g7).lowest) true = .go ∧
    lab.destGate (lab.wset g7) [] [3] = .go ∧
    (match lab.walk 0 .write 0x800 with | .ok x => decide (x.loc < 2 ^ 38) && !x.disc | _ => false) = true ∧
    lab.waitsOn 0 (.queue 0) 0x800 64 = false ∧ Map.find lab.blocks (2 ^ 40) = none ∧
    Map.find (lab.ctx lab.myCtx).devQueues 0 = none ∧
    (Map.find ((labQueue []).ctx lab.myCtx).devQueues 0).any (fun x => x.inUse && !x.freed &&
      decide ((0x10000 : Word).toNat = x.gen * 2 ^ 16) && decide (x.entries.length < 2 ^ x.logcap)) = true ∧
    (Map.find ((labQueue [(0, []), (1, [])]).ctx lab.myCtx).devQueues 0).any (fun x =>
      decide (2 ^ x.logcap ≤ x.entries.length)) = true ∧
    (let e := leBytes 4 1 ++ leBytes 2 1 ++ leBytes 2 1 ++ leBytes 56 0
     1 ≤ field e 0 4 ∧ 1 ≤ field e 4 2 ∧ 1 ≤ field e 6 2 ∧ field e 0 4 * field e 4 2 * field e 6 2 < 2 ^ 32 ∧
       field e 8 8 % 16 = 0 ∧ field e 0x10 4 < 2 ∧ field e 0x14 12 = 0) ∧
    ¬(1 ≤ field (leBytes 64 (lab.sramNat 0 0x80 64)) 0 4) ∧ lab.myLaunch.regrp = false ∧
    (let s := launchWith lab 0x2C 4 1
     s.myLaunch.regrp = true ∧ Readable s false ((v 2).uses 1 ++ (v 12).uses 1) ∧ s.exitGate = .go ∧
     (Map.find s.warps s.cur.slot).isSome = true ∧ ∀ l : Fin 32, (s.wset g7).getLsbD l.val = true →
       (s.cur.pc + ((s.me.src (v 2)).lane l).signExtend 57).toNat % 4 = 0 ∧ s.me.lanes[l].stack.length < 16) := by
  and_intros <;> first | decide +kernel | exact readable_of (by decide +kernel)

/-- Geometry, rendering and other launches; rendering with a moment target of one pixel's page. -/
def labGeo : State := launchWith lab 0x2C 4 0x10000
def labTile : State := launchWith lab 0x2C 4 0x20000
def labMom : State := labTile.setLaunch 0 { labTile.launch 0 with
  target := some (leBytes 16 0 ++ leBytes 8 0x400 ++ leBytes 8 0 ++ leBytes 2 32 ++ leBytes 2 32 ++ leBytes 8 0 ++ leBytes 4 1024 ++
    leBytes 16 0) }

theorem witness_RenderInstructions : lab.memGate (lab.wset g7) 0 false = .go ∧ (Map.find lab.blocks 0).isSome = true ∧
    labGeo.myLaunch.ltype = 1 ∧ labGeo.myLaunch.owners = 0 ∧ labGeo.myLaunch.devlost = false ∧
    labGeo.outputFull 0 32 = false ∧ Readable labGeo true ((Src.s 2).uses 1) ∧
    labGeo.sramGate 0 (labGeo.wset g7) (fun _ => 0x80) 64 64 = .go ∧
    ¬(4 ≤ field (leBytes 64 (labGeo.sramNat 0 0x80 64)) 0x38 4 ∨ field (leBytes 64 (labGeo.sramNat 0 0x80 64)) 0x3C 4 ≠ 0) ∧
    4 ≤ field (leBytes 64 ((blockWith labGeo fun b => { b with area := b.area.putBytes 0xB8 (leBytes 4 4) }).sramNat 0 0x80 64))
      0x38 4 ∧
    labTile.myLaunch.ltype = 2 ∧ labTile.wset g7 ≠ 0 ∧ Readable labTile true ((Src.s 2).uses 1 ++ (p 6).uses 2) ∧
    labTile.myLaunch.mom = 0 ∧ labTile.versioned 0 = false ∧ labTile.myLaunch.proof = false ∧
    labTile.destGate (labTile.wset g7) [] [3] = .go ∧ labMom.myLaunch.mom ≠ 0 ∧ labMom.myLaunch.ltype = 2 ∧
    Readable labMom true ((Src.s 2).uses 1 ++ (v 6).uses 2) ∧ labMom.versioned 0 = false ∧
    labMom.destGate (labMom.wset g7) [] [3] = .go ∧ labMom.myLaunch.proof = false ∧
    (let sums := (List.range 4).flatMap (fun _ => leBytes 4 0x3F800000) ++ leBytes 4 0
     let m (k : Nat) : Val := fp32.decode (field sums (4 * k) 4)
     [m 0, m 1, m 2, m 3, valF 0].all Val.isFinite = true ∧ ltV (.zero false) (m 0) = true ∧
     (m 2).toRat / (m 0).toRat - (m 1).toRat / (m 0).toRat * ((m 1).toRat / (m 0).toRat) ≤ 1 / 2 ^ 40 ∧
     (valF 0).toRat < (m 1).toRat / (m 0).toRat ∧ transmittance sums 0 = 0x3F800000) ∧
    (match labMom.momGate labMom.me' [⟨momAddr labMom.myLaunch 31 31, 0, 0, 31⟩] with
      | .ok t => decide (t = labMom)
      | _ => false) = true ∧
    (match labMom.rangeWalk 0 .both (momAddr labMom.myLaunch 31 31) 20, labMom.fetch labMom.me'
        (momAddr labMom.myLaunch 31 31) 20 with
      | .ok [(x, n)], .ok _ => decide (n = 20) && !isExternal x.loc
      | _, _ => false) = true ∧ lab.myLaunch.ltype ≠ 1 ∧
    lab.myLaunch.ltype ≠ 2 := by
  and_intros <;> first | decide +kernel | exact readable_of (by decide +kernel)
theorem witness_PruneResults : Ready lab (lab.wset g7) false ((v 6).uses 2 ++ (v 8).uses 2) [16, 17] ∧
    Ready lab (lab.wset g7) false ((v 6).uses 2) [3] ∧ lab.myLaunch.proof = false ∧
    (launchWith lab 0x2C 4 0x10).myLaunch.proof = true ∧ (valF (0x3F800000 : Word)).isFinite = true ∧
    ltV (.zero false) (valF (0x3F800000 : Word)) = true ∧ (valF (0x7F800000 : Word)).isFinite = false := by
  and_intros <;> first | decide +kernel | exact ready_of (by decide +kernel)

/-- A ray in the middle of its program, with so many operands and saved frames. -/
def fieldAt (n frames : Nat) (mode : EvalMode) : State :=
  let t := (State.reset.placeField []).setBlock 0 { (State.reset.placeField []).block 0 with marchQ := [{ placedMarch with
    rays := [(0, { placedRay with eval := some ⟨mode, 16, List.replicate n ⟨0, 0x3F800000, some ⟨0, 0, 0⟩⟩,
      List.replicate frames zeroFrame, zeroFrame, false⟩ })] }] }
  { t with ray := (0, 0) }

/-- Operands and frames of the ray whose turn it is. -/
def depthOf (s : State) : Option (Nat × Nat) := s.evaluating.map fun q => (q.2.2.stack.length, q.2.2.frames.length)

/-- Stacks of 0, 3, 31 and 32 entries; no frame, and eight. -/
theorem witness_FieldStackOperations : depthOf (fieldAt 3 0 .point) = some (3, 0) ∧ depthOf (fieldAt 31 8 .affine) = some (31, 8) ∧
    depthOf (fieldAt 32 1 .interval) = some (32, 1) ∧ depthOf (fieldAt 0 7 .point) = some (0, 7) ∧ finite32 0 = true := by
  decide +kernel
theorem witness_FieldLinearOperations : (2 ≤ 32 ∧ 32 < 32 + 2) ∧ depthOf (fieldAt 32 0 .affine) = some (32, 0) ∧
    finite32 0x7F7FFFFF = true := by decide +kernel
theorem witness_FieldSelectionsAndFunctions : depthOf (fieldAt 3 0 .affine) = some (3, 0) ∧ positive32 0x00000001 = true ∧
    finite32 0x80000000 = true ∧ leV (valF 0x80000000) (valF 0) = true ∧
    ((valF 0xFF800000).isFinite = false ∨ (valF 0x7F800000).isFinite = false) := by decide +kernel
/-- Too few operands, too many, an end at depth two, and no evaluation. -/
theorem witness_FieldStackFaults : depthOf (fieldAt 1 0 .point) = some (1, 0) ∧ fieldShape .fbcAdd = some (2, 2, 1) ∧
    depthOf (fieldAt 32 0 .point) = some (32, 0) ∧ fieldShape .fbcDup = some (1, 0, 1) ∧ 32 < 32 - 0 + 1 ∧
    depthOf (fieldAt 2 0 .point) = some (2, 0) ∧ lab.evaluating = none ∧ (fieldShape .fbcRot).isSome = true := by decide +kernel
/-- No brick; a brick held; a launch without callables and one with a table that can be read; an end at depth one. -/
theorem witness_FieldBricksCallsAndEnds : depthOf (fieldAt 1 0 .interval) = some (1, 0) ∧
    (let s := fieldAt 31 0 .point
     depthOf s = some (31, 0) ∧ field placedMarch.shape 0x04 4 ≤ (0 : Word).toNat ∧ (s.launch 0).regrp = false ∧
     gotB ((s.setCore 0 { s.core 0 with bricks := [(0, 0, List.replicate 1024 0)] }).fetchBrick (s.engine 0 2) 0) = true) ∧
    (let s := launchWith (launchWith (launchWith (fieldAt 31 0 .point) 0x2C 4 1) 0xB0 4 1) 0xA8 8 0x800
     (s.launch (s.block 0).launch).regrp = true ∧ (0 : Word).toNat < (s.launch 0).ncall ∧ (Map.find s.blocks 0).isSome = true ∧
     gotB (s.fetch (s.engine 0 2) 0x800 8) = true) ∧
    ltV (valF (mrEps placedMarch.desc)) (valF 0) = false ∧ leV (valF 0) (.zero false) = true ∧
    ltV (.zero false) (valF 0x3F800000) = true := by
  and_intros <;> decide +kernel
theorem witness_FieldPairsEncloseExactValues : (⟨0, 0x3F800000⟩ : Bounds).degenerate = false ∧
    (leV (⟨0, 0x3F800000⟩ : Bounds).l (.ofRat false 1) = true ∧ leV (.ofRat false 1) (⟨0, 0x3F800000⟩ : Bounds).h = true) ∧
    (1 : Rat) ≠ 0 ∧ finite32 0x3F800000 = true := by decide +kernel

/-- A result of two lanes in flight, and one of a last lane. -/
def labFlight (due : LaneMask) : State := meWith lab fun w => { w with
  vregs := [(3, ⟨.u 0, due⟩)], inflight := [⟨3, due, 0, .u 5, due, false, 0⟩] }
/-- A collector with one request that has waited so long. -/
def labCollector (age : Nat) : State := lab.setCore 0 { Core.reset with
  collector := [⟨0, none, 4, false, [(0, ⟨0x10100, 0x5000, 0x1003D, 0, 0x10000, 0x100⟩)], [(0, 1)], 1, false, false⟩], collectorAge := age }
/-- A collator window of one held thread. -/
def labWindow (age : Nat) (closed : Bool) : State := blockWith lab fun b => { b with
  collator := [⟨0x100, [], [⟨0, 0, 0x100, 7, 0⟩], age, closed⟩] }

/-- A lane that arrives before the last and the last; a window at 64 cycles and at 63; a YIELD at its end; a phase word and a
guard word that show what is wanted and that do not; a collator window at its limit, an open one, and a closed one that
forms a warp. -/
theorem witness_WarpEvents :
    ((labFlight 3).warp 0).inflight.find? (fun f => f.reg == 3 && f.due.getLsbD 0 && !f.held.getLsbD 0) =
      some ⟨3, 3, 0, .u 5, 3, false, 0⟩ ∧ (3 : LaneMask) ≠ LaneMask.one 0 ∧
    ((labFlight 1).warp 0).inflight.find? (fun f => f.reg == 3 && f.due.getLsbD 0 && !f.held.getLsbD 0) =
      some ⟨3, 1, 0, .u 5, 1, false, 0⟩ ∧ (1 : LaneMask) = LaneMask.one 0 ∧ (labFlight 1).slotsFor 0 ((labFlight 1).warp 0) 1 = true ∧
    ((labCollector 64).core 0).collector ≠ [] ∧ 64 ≤ ((labCollector 64).core 0).collectorAge ∧
    ((labCollector 63).core 0).collectorAge < 64 ∧ ((labCollector 63).core 0).requests < 256 ∧
    (((labCollector 64).core 0).requests ≤ 256 ∧ ∀ r ∈ ((labCollector 64).core 0).collector, r.addrs ≠ []) ∧
    ((∀ q ∈ (labWait false 0 0x40).warps, q.2.carried = []) ∧ ((labWait false 0 0x40).block 0).arrivals = 0 ∧
      (match ((labWait false 0 0x40).warp 0).waits with
        | y :: _ => !((labWait false 0 0x40).answerWait 0 0 y 0 7).over
        | [] => false) = true) ∧
    (let s := meWith (labWait false 0 0x40) fun w => { w with
       lanes := Vector.ofFn fun l => { w.lanes[l] with st := .exited }, waits := w.waits.map fun y => { y with due := 1 } }
     (match (s.warp 0).waits with
      | y :: _ => (s.answerWait 0 0 y 0 7).over
      | [] => false) = true) ∧
    (Map.find lab.warps 0).isSome = true ∧ (lab.warp 0).log = none ∧
    ((labWait false 0 0x40).warp 0).waits.length = 1 ∧ lab.sram 0 0x40 4 = .ok (.area 0) 0x40 ∧
    bitOf (lab.sramRead (.area 0) 0x40 4) 31 = false ∧
    (match ((labWait false 0 0x40).warp 0).waits with
      | y :: _ => y.due.getLsbD 0 && !y.guard && decide (y.due &&& ~~~LaneMask.one 0 ≠ 0)
      | [] => false) = true ∧
    (match ((labWait true 5 0x200).warp 0).waits with
      | y :: _ => y.guard && acqMeets y.equal 5 (y.wanted.get 0).toNat && !acqMeets y.equal 6 (y.wanted.get 0).toNat &&
          (match lab.way (lab.issuer 0) y.access 0 0x200 with
            | .here p => decide ((lab.oneLane (lab.issuer 0) y.access 0 (.here p)).2.1 = some [5])
            | _ => false)
      | [] => false) = true ∧
    (lab.launch (lab.block 0).launch).proof = false ∧
    (∃ w ∈ ((labWindow 256 false).block 0).collator, w.closed = false ∧ w.target.toNat = 0x100 ∧ 256 ≤ w.age) ∧
    (¬∃ w ∈ ((labWindow 255 false).block 0).collator, w.closed = false ∧ w.target.toNat = 0x100 ∧ 256 ≤ w.age) ∧
    (∀ w ∈ ((labWindow 255 false).block 0).collator, w.closed = false) ∧
    (match ((labWindow 0 true).block 0).collator with
      | w :: _ => w.closed && ((labWindow 0 true).formFrom 0 w).isSome
      | [] => false) = true := by
  and_intros <;> decide +kernel

/-- A context with a fault at 0x1000 of the laboratory's warp, and a fault ring at 0x800. -/
def labFault (id : Option Nat) (request sent : Bool) (head : Nat) (base : Nat) : State := lab.setCtx 0 { lab.ctx 0 with
  frbase := base, frhead := head, faults := [⟨0x20000, 1, 2, 0, 0, id, request, sent, .warp 0, 0, 0, 0⟩] }
/-- A request outside the device, with the parts of its answer. -/
def labExt (dev : Option Nat) (parts : List ExtPart) : State := { lab with
  ext := [⟨7, dev, msgRead, 0x100, [], 4, .warp 0, 0, parts, none, 0, 1, 0⟩] }
/-- A migration of the page to another frame. -/
def labMig (busy : Bool) : State := lab.setCtx 0 { lab.ctx 0 with
  migva := 0, migpte := 0x20000 + 0x3D, migFrom := 0, migTo := 0x20000 + 0x3D, migbusy := busy }

/-- An invalidation of function 0 that waits for another, whichever of the two the writes stand for. -/
theorem witness_ContextHeld : (lab.setCtx 0 { lab.ctx 0 with invHeld := [(0, 1, 0)] }).ctxHeld 0 = true := by
  have h : ∀ b : Bool, let s := lab.setCtx 0 { lab.ctx 0 with invHeld := [(0, 1, 0)] }
      (s.postedHeld (if b = true then 0 else (s.ctx 0).fn) || !s.serves 0) = true := by decide +kernel
  exact h _
theorem witness_FaultsAndContexts :
    (((labFault none false false 0 0x800).allFaults.filter fun q => !q.2.sent)[0]?).isSome = true ∧
    ((labFault none false true 0 0x800).ctx 0).faults.find? ((labFault none false true 0 0x800).ctx 0).unreported ≠ none ∧
    (lab.ctx 0).faults.find? (lab.ctx 0).unreported = none ∧
    (let c := (labFault none false true 16 0x800).ctx 0
     (c.frhead + 2 ^ 16 - c.frtail) % 2 ^ 16 = 2 ^ c.ringLog) ∧
    (let s := labFault none false true 0 0x800
     ((s.ctx 0).frhead + 2 ^ 16 - (s.ctx 0).frtail) % 2 ^ 16 ≠ 2 ^ (s.ctx 0).ringLog ∧
     (match s.rangeWalk 0 .write 0x800 32 with | .ok _ => true | _ => false) = true ∧
     (match s.rangeWalk 0 .write 0x20000 32 with | .fault _ _ => true | _ => false) = true) ∧
    ((labFault (some 1) false true 0 0x800).ctx 0).faults.find? (fun f => f.id == some 1) ≠ none ∧
    ((lab.ctx 0).faults.find? fun f => f.id == some 1) = none ∧
    (((labFault none true true 0 0x800).allFaults.filter fun q => q.2.request)[0]?).isSome = true ∧
    ((labExt none []).ext.find? fun q => q.id == 7 && q.data.isNone && q.dev.isNone == true).isSome = true ∧
    ((labExt (some 3) [keptPart 0]).ext.find? fun q => q.id == 7 && q.data.isNone && q.dev.isNone == false).isSome = true ∧
    (∃ q ∈ [keptPart 0], q.reg = keptReg) ∧
    (let s := lab.setCtx 0 { lab.ctx 0 with invbusy := true, termd := true }
     (s.ctx 0).invbusy = true ∧ s.translatedDone 0 = true ∧ (s.ctx 0).termd = true) ∧
    lab.ctxHeld 0 = false ∧
    (lab.hostPage 0 0x80).isSome = true ∧
    (lab.ctx 0).invbusy = false ∧ lab.hostBusy 0 = false ∧ ((labMig true).ctx 0).migbusy = true ∧
    ((labMig false).ctx 0).migbusy = false ∧ (labMig false).migError 0 = 0 ∧ ((labMig false).leafAt 0 0).isSome = true ∧
    (lab.setCtx 0 { lab.ctx 0 with migva := 2 ^ 40 }).migError 0 ≠ 0 ∧ lab.cores = [] ∧
    (let s := lab.setCtx 0 { (labMig true).ctx 0 with migFrom := 2 ^ 40, migFrames := [1] }
     s.leafAt 0 (s.ctx 0).migFrom = none ∧ 1 ∈ (s.ctx 0).migFrames) ∧
    (match (labMig true).leafAt 0 0 with
      | some (_, e, large) => !(labMig true).pageBusy 0 e (pageBytes large) && (labMig true).migShort e (0x20000 + 0x3D) == 0 &&
          gotB ((labMig true).migBytes 0 e (pageBytes large))
      | none => false) = true := by
  and_intros <;> decide +kernel

/-- A launch with a block to offer, one waiting so long, and one to offer again. -/
def labOffer (relaunch : List (Nat × Nat)) (waiting : List (Nat × Nat × Nat)) (next : Nat) : State :=
  lab.setLaunch 0 { lab.launch 0 with relaunch := relaunch, waiting := waiting, nextBlock := next }
/-- Was room found? -/
def admitB (a : Admit) : Nat :=
  match a with
  | .ok _ _ => 0
  | .evict _ _ => 1
  | .no => 2
/-- Only core 0 in service, where a launch of higher priority needs all granules. -/
def labUrgent : State :=
  let s : State := { lab with cores := (List.range 192).map fun c => (c, { Core.reset with inService := decide (c = 0) }) }
  s.setLaunch 1 { placedLaunch with
    prio := 1, waiting := [(0, 1, 75000)]
    lpb := placedLaunch.lpb.take 0x30 ++ leBytes 4 (4096 * s.capacity 0) ++ placedLaunch.lpb.drop 0x34 }
/-- A saved block. -/
def labSaved : State := { lab with saved := [(0, ⟨Block.blank, [(0, placedWarp)], none, [], Vector.replicate 4 none, false, 0x2000,
  0x100, 1, 0, 0, 0, 0, none⟩)] }

theorem witness_BlocksComeAndGo :
    (∀ q ∈ lab.launches, q.2.offers = true → q.2.prio ≤ (lab.launch 0).prio) ∧
    ((lab.launch 0).phase = .running ∧ (lab.launch 0).cancelled = false ∧ (lab.launch 0).devlost = false ∧
      (lab.launch 0).ended = false) ∧ 47 < 48 ∧ (lab.cluster 47).linkUp = true ∧
    ((labOffer [(0, 2)] [] 1).launch 0).relaunch = [(0, 2)] ∧
    (((labOffer [] [] 0).launch 0).nextBlock < ((labOffer [] [] 0).launch 0).last ∧ ((labOffer [] [] 0).launch 0).relaunch = []) ∧
    (lab.launch 0).offers = false ∧
    (let s := labOffer [] [(0, 1, 0)] 1
     let w : Waiter := ⟨0, 0, none, (s.launch 0).prio, s.clk, 0⟩
     s.waiter 0 0 = some w ∧ (∀ m ∈ s.groupLeft 0 0, ∃ v ∈ s.waiters, v.launch = 0 ∧ v.n = m.1 ∧ v.saved = none) ∧
     (s.launch 0).ended = false ∧ (∀ c ∈ s.partyCores w 0, s.turnOf w c = true) ∧ s.firstCorner 0 0 0 = true ∧
     admitB (s.admitGroup 0 0 0 1) = 0 ∧
     admitB (((s.setCore 0 { Core.reset with banks := 8 }).setSeg 0 { seg .resident 0 0 with size := 48 }).admitGroup 0 0 0 1) = 1 ∧
     admitB ((s.setCore 0 { Core.reset with banks := 0 }).admitGroup 0 0 0 1) = 2) ∧
    (let s := (labOffer [] [(0, 1, 0)] 1).setLaunch 1 { placedLaunch with prio := 1 }
     ¬(∀ q ∈ s.launches, q.2.offers = true → q.2.prio ≤ 0) ∨ s.launches.length = 2) ∧
    (let s := (labOffer [] [(0, 1, 0)] 1).setLaunch 1 { placedLaunch with prio := 1, waiting := [(0, 1, 0)] }
     let o : Waiter := ⟨1, 0, none, 1, s.clk, 0⟩
     let w : Waiter := ⟨0, 0, none, 0, s.clk, 0⟩
     o ∈ s.waiters ∧ o.before w = true ∧ s.sameParty o w = false ∧ s.fitsAt o 0 = true) ∧
    (let s := (labOffer [] [(0, 1, 3000000)] 1).setCore 0 { Core.reset with banks := 192 }
     (s.waiter 0 0).any (fun w => decide (3000000 ≤ w.waited) && s.couldUse w 0) = true) ∧
    (let s := (labOffer [] [(0, 1, 74999)] 1)
     (s.waiter 0 0).any (fun w => decide (w.waited < 75000)) = true) ∧
    (let s := labUrgent
     (s.waiter 1 0).any (fun w => decide (75000 ≤ w.waited) && s.couldUse w 0 && s.service.all (fun c => !s.fitsAt w c) &&
       s.enough w 0 (s.victims w.prio 0) [] == some [0]) = true) ∧
    (Map.find lab.blocks 0).isSome = true ∧ lab.attachedHere 0 = true ∧ (lab.block 0).phase = .running ∧
    (let s := blockWith lab fun b => { b with phase := .restoring }
     (s.block 0).phase = .restoring ∧ s.blockWarps 0 ≠ []) ∧
    (let s := blockWith lab fun b => { b with phase := .starting }
     (s.block 0).phase = .starting ∧ (s.launch 0).nin = 0 ∧ (s.launch 0).ltype ≠ 2) ∧
    (blockWith (labSeg (seg .cold 0 1)) fun b => { b with windows := b.windows.set 0 (some 0) }).attachedHere 0 = false ∧
    (let s := blockWith lab fun b => { b with phase := .ended, flushed := true }
     (s.block 0).phase = .ended ∧ (s.block 0).flushed = true ∧ (s.block 0).version = [] ∧ s.ext = [] ∧ (s.block 0).matrixQ = [] ∧ (s.block 0).copyQ = [] ∧
     (s.block 0).marchQ = [] ∧ s.collectives = []) ∧
    (let s := labSaved
     (Map.find s.saved 0).isSome = true ∧ s.restoring = true ∧ s.mss.laylo ≤ 1 ∧ 1 ≤ s.mss.layhi ∧
     (s.waiters.find? fun w => w.saved == some 0).any (fun w => (s.partyCores w 0).all fun c => s.turnOf w c) = true ∧
     admitB (s.restoreGroup 0 0 1) = 0 ∧
     admitB (((s.setCore 0 { Core.reset with banks := 8 }).setSeg 0 { seg .resident 0 0 with size := 48 }).restoreGroup 0 0 1) = 1) := by
  and_intros <;> decide +kernel

/-- A pending request, its deadline at hand or past, in a handler or parked. -/
def labPending (deadline : Nat) (parked handler : Bool) : State := meWith (blockWith lab fun b => { b with
  pending := true, kdeadline := deadline }) fun w => { w with
  hndl := handler, tmask := handler
  lanes := Vector.ofFn fun l => { w.lanes[l] with parked := parked } }
/-- A block being saved, for so long, with a save region that holds it. -/
def labSaving (age mib : Nat) : State := (blockWith (labPending 0 true false) fun b => { b with
  phase := .saving false, saveAge := age }).setCtx 0 { lab.ctx 0 with savebase := 0x100000, savemib := mib }

theorem witness_SavesAndRepair :
    (Map.find lab.blocks 0).isSome = true ∧ lab.killSet 0 = [] ∧ (lab.block 0).pending = false ∧ (lab.block 0).phase ≠ .ended ∧
    (labPending 5 true false).clk = 0 ∧ ((labPending 5 true false).block 0).expired = false ∧
    (let s := blockWith (labPending 0 true false) fun b => { b with expired := true }
     (s.block 0).expired = true ∧ (s.block 0).kdeadline = 0) ∧
    (lab.blocks.filter fun q => clusterOf (blockCore q.1) == 47 && (lab.launch q.2.launch).ctx == 0) = [] ∧
    (let s := lab.setCluster 0 { lab.cluster 0 with leaving := [0] }
     0 ∈ (s.cluster 0).leaving ∧ ((s.cluster 0).slot 3).ctx = 0) ∧
    ((labPending 5 true false).block 0).pending = true ∧ lab.mss.paused = false ∧ (labPending 5 true false).atSavePoint 0 = true ∧
    (labPending 5 false false).atSavePoint 0 = false ∧ ((labPending 5 false false).block 0).kdeadline ≠ 0 ∧
    ((labPending 0 false true).block 0).kdeadline = 0 ∧ (labPending 0 false true).atSavePoint 0 = false ∧
    (labPending 0 false true).handling 0 = true ∧ (labPending 0 false false).handling 0 = false ∧
    (labPending 0 false false).atSavePoint 0 = false ∧ (lab.launch 0).proof = false ∧
    (let s := labSaving (2 ^ 24) 1
     s.saveReady 0 = true ∧ 2 ^ 24 ≤ (s.block 0).saveAge ∧
     ((s.imagePlaces 0 [(s.imageOf 0 (s.savedOf 0)).length] (s.imagesOf 0)).isSome = true)) ∧
    (labSaving (2 ^ 24 - 1) 0).imagePlaces 0 [1] [] = none ∧ ((labSaving (2 ^ 24 - 1) 0).block 0).saveAge < 2 ^ 24 ∧
    (0x16 ∈ [0x07, 0x0F, 0x10, 0x11, 0x14, 0x16]) ∧ (Map.find labSaved.saved 0).isSome = true ∧ 191 < 192 ∧
    (let s := (blockWith lab fun b => { b with ran := waitLimit }).setCore 0 { Core.reset with hot := true }
     (s.core (blockCore 0)).hot = true ∧ s.eligible 0 = true) ∧
    (16 * lab.mss.tmig ≤ 1520 ∧ 1520 < 2 ^ 15 ∧ lab.mss.tmig < 2 ^ 7 ∧ lab.mss.tcrit < 2 ^ 7 ∧ 1679 < 16 * lab.mss.tcrit ∧
      16 * lab.mss.tcrit ≤ 1680 ∧ 1519 < 16 * lab.mss.tmig ∧ 5 ≤ lab.mss.tmig ∧
      1440 ≤ 16 * (lab.mss.tmig - 5) ∧ 16 * (lab.mss.tmig - 5) < 1441) ∧
    (let s := lab.setCore 5 { Core.reset with draining := [(0, 3)] }
     (s.core 5).draining ≠ [] ∧ s.drained 5 = true) ∧
    (let s := lab.setCore 0 { Core.reset with draining := [(0, 3)] }
     (s.core 0).draining ≠ [] ∧ s.drained 0 = false) := by
  and_intros <;> decide +kernel

/-- A save that can begin, and one that waits for a copy. -/
theorem witness_SaveBegins :
    (let s := (labPending 0 true false).setCtx 0 { lab.ctx 0 with savebase := 0x100000, savemib := 1 }
     let t := s.setBlock 0 { s.block 0 with phase := .saving false, saveAge := 0 }
     s.recordsHere 0 (s.saveRecords 0) = true ∧
     (s.imagePlaces 0 [(t.imageOf 0 (t.savedOf 0)).length] (s.imagesOf 0)).isSome = true) ∧
    (let s := blockWith (labSaving 0 1) fun b => { b with copyQ := [{ Cmd.fresh .cpq [] 0 0 0 false false .blk none with started := true }] }
     s.saveReady 0 = false ∧ (s.block 0).saveAge < 2 ^ 24) := by decide +kernel

/-- A queue of two slots whose ring at 0x400 in the page holds this slot header and payload. -/
def labRing (slot : List Byte) : State :=
  { lab with mem := lab.mem.putBytes 0x10400 slot, mss := { lab.mss with stage := 5 } }.setQueue 0 { Queue.reset with
    base := 0x400, en := true, logsz := 1 }
/-- A queue with one accepted packet. -/
def labPacket (k : PacketKind) (started : Bool) : State :=
  { lab with mss := { lab.mss with stage := 5 } }.setQueue 0 { Queue.reset with en := true, packets := [⟨0, 0, k, 0, 0, started⟩] }

/-- A slot whose payload begins so, with a trailer of this type. -/
def slotOf (payload : List Byte) (type : Nat) : List Byte :=
  payload ++ List.replicate (252 - payload.length) 0 ++ leBytes 4 (0x5A000000 + type * 2 ^ 16)
/-- What a queue finds, as a number: nothing, a halt, a packet of a type, or something else. -/
def headB (h : Head) : Nat :=
  match h with
  | .none _ => 0
  | .halt _ _ => 1
  | .packet type _ _ _ => 2 + type
  | _ => 100
def checkB (c : Check) : Bool :=
  match c with
  | .ok => true
  | _ => false
def putB (x : Put) : Bool :=
  match x with
  | .ok _ => true
  | _ => false
/-- A device queue with one entry, of a concurrent or a serial child. -/
def labChild (flags : Nat) : State :=
  let s := labQueue [(0, leBytes 4 1 ++ leBytes 2 1 ++ leBytes 2 1 ++ leBytes 8 0 ++ leBytes 4 flags ++ leBytes 44 0)]
  { s with mss := { s.mss with stage := 5 } }
/-- A child launch that has been taken. -/
def labTaken : State := { lab with mss := { lab.mss with stage := 5 } }.setLaunch 1
  { placedLaunch with phase := .accepted, child := some 0, serial := true }

theorem witness_QueuesAndPackets :
    (labRing (slotOf [] 1)).accepting 0 = true ∧ headB ((labRing (slotOf [] 1)).readHead 0) = 3 ∧
    ((labRing []).ctx 0).termd = false ∧ headB ((labRing []).readHead 0) = 0 ∧ headB ((labRing (slotOf [] 0)).readHead 0) = 1 ∧
    headB ((labRing (slotOf [] 5)).readHead 0) = 7 ∧ checkB ((labRing []).checkPacket 0 5 (slotOf [] 5)) = true ∧
    checkB ((labRing []).checkPacket 0 3 (slotOf [1] 3)) = false ∧
    headB ((labRing (slotOf [] 3)).readHead 0) = 5 ∧ checkB ((labRing []).checkPacket 0 3 (slotOf [] 3)) = true ∧
    (let s := (labRing []).setCtx 0 { lab.ctx 0 with termd := true }
     s.accepting 0 = true ∧ (s.ctx 0).termd = true) ∧ 7 < 2 ^ 16 ∧
    lab.mss.dump = none ∧ { lab.mss with dump := some ⟨1, 0, 0, 64⟩ }.dump ≠ none ∧
    (let s := labPacket (.wait 0x200 5 0) true
     (s.queue 0).refuses 0x200 = false ∧
       ((s.setQueue 0 { s.queue 0 with frozen := true, refused := [0x200] }).queue 0).refuses 0x200 = true) ∧
    ((lab.refuseQueue 0 0x200).queue 0).frozen = true ∧ (lab.queue 0).frozen = false ∧
    (let q := lab.queue 1023
     q.en = false ∧ 1023 < 1024 ∧ q.logsz ≤ 16 ∧ q.slot < 2 ^ q.logsz) ∧
    (let q := (lab.setQueue 0 { Queue.reset with logsz := 17 }).queue 0
     q.en = false ∧ 16 < q.logsz) ∧
    (let s := (labRing (slotOf [] 5)).setQueue 0 { (labRing []).queue 0 with halt := true }
     let x := s.queue 0
     let back := (s.setQueue 0 { x with halt := false, code := 0, detail := 0, abandoned := [] }).forgetReads 0
     s.ctxHeld x.ctx = false ∧ x.en = true ∧ back.accepting 0 = true ∧ (back.ctx x.ctx).termd = false ∧ headB (back.readHead 0) = 7) ∧
    (((labPacket (.setq 0x400) false).queue 0).packet 0).isSome = true ∧ (labPacket (.setq 0x400) false).starting 0 = true ∧
    (labPacket (.setq 0x400) false).classAllows [] ⟨0, 0, .setq 0x400, 0, 0, false⟩ = true ∧
    (((labPacket (.wait 0x200 5 0) true).queue 0).packet 0).isSome = true ∧
    gotB ((labPacket (.wait 0x200 5 0) true).fetch (gsc 0 0) 0x200 8) = true ∧ ((labRing []).queue 0).gaveUp 0x200 8 = false ∧
    putB (lab.signalWord 0 0 0x200 1 0) = true ∧ putB (lab.signalWord 0 0 0x200 1 1) = true ∧
    putB (lab.newDevQueue 0 ⟨0, 0, .dqnew [], 0, 0, false⟩ (leBytes 2 0 ++ leBytes 6 0 ++ leBytes 8 0x1000 ++ leBytes 8 0 ++
      leBytes 8 0x800)) = true ∧
    ((labQueue []).ctx 0).devQueue 0x10000 ≠ none ∧ ((lab.ctx 0).devQueue 0x10000) = none ∧
    (let s := (labPacket (.launch 0) true).setLaunch 0 { placedLaunch with done := 1 }
     let u := { s with blocks := [], warps := [] }
     u.launchDone 0 (u.launch 0) = true ∧ (u.launch 0).doneAddr = 0) ∧
    (match (labPacket (.launch 0) false).startLaunch 0 with | .ok _ => true | _ => false) = true ∧
    (let s := labChild 1
     ((s.ctx 0).dq 0).any (fun x => x.entries.length == 1) = true ∧ (s.ctx 0).termd = false ∧ s.mss.paused = false ∧
     s.starting 0 = true) ∧
    (let s := labTaken
     (s.launch 1).phase = .accepted ∧ (s.launch 1).child = some 0 ∧ s.starting (s.launch 1).queue = true ∧
     (match s.startLaunch 1 with | .ok _ => true | _ => false) = true) := by
  and_intros <;> decide +kernel

/-- A command in a queue of the block. -/
def cmdOf (k : CmdKind) (d : List Byte) (f : Cmd → Cmd) : Cmd := f { Cmd.fresh k d 0 0 0 false false .blk none with accepted := true }
def labMatrix (c : Cmd) : State := blockWith lab fun b => { b with matrixQ := [c] }
def labCopy (c : Cmd) : State := blockWith lab fun b => { b with copyQ := [c] }
/-- Descriptors: 4 × 4 × 4 of INT8, four columns of 16 bytes, one row of 16 bytes in each direction, one ray. -/
def mmaDesc : List Byte := leBytes 4 0x100 ++ leBytes 4 0x1000 ++ leBytes 4 16 ++ leBytes 4 16 ++ leBytes 4 4 ++ leBytes 4 4 ++
  leBytes 4 4 ++ leBytes 1 0x66 ++ leBytes 35 0
def wbDesc : List Byte := leBytes 8 0 ++ leBytes 4 16 ++ leBytes 4 4 ++ leBytes 2 4 ++ leBytes 1 6 ++ leBytes 13 0
def cpDesc (dir : Nat) : List Byte := leBytes 8 0 ++ leBytes 4 0x100 ++ leBytes 4 16 ++ leBytes 2 1 ++ leBytes 1 dir ++ leBytes 1 0 ++
  leBytes 4 16 ++ leBytes 4 16 ++ leBytes 4 0

theorem witness_MatrixAndCopyEvents :
    (let c := cmdOf .mmaq mmaDesc id
     let s := labMatrix c
     servedCmd (s.block 0).matrixQ = some (0, c) ∧ c.frozen = false ∧ (s.block 0).saving = false ∧ c.started = false ∧
     s.mqBlocked 0 c.desc = false) ∧
    (let c := cmdOf .wbload wbDesc fun c => { c with brec := labRecord }
     let s := labMatrix c
     let r := s.fetchAll (fun t n => t.fetchColumn (s.engine 0 0) c.desc c.brec n) (List.range (wbN c.desc))
     servedCmd (s.block 0).matrixQ = some (0, c) ∧ r.1.isNone = true ∧ r.2.2 = false ∧ r.2.1.length = 4 ∧
     s.wbBlocked 0 c.desc = false ∧ c.reload = false ∧ c.progress = 0 ∧ wbForm c.desc ≠ 2 ∧
     wbOff c.desc + (r.2.1.flatMap padColumn).length ≤ (s.cluster 0).wbEnd) ∧
    (let c := cmdOf .mmaq mmaDesc fun c => { c with started := true }
     let s := labMatrix c
     c.parked = [] ∧ c.progress < mqTiles c.desc ∧ s.tileOrder 0 = [0] ∧ c.sets.length < 2 ∧ (s.setsUsed 0).1 < 16 ∧ (s.setsUsed 0).2 < 8 ∧
     (match s.fetchA 0 c ((blockCells c.desc 0).map fun q => (cellAt c.desc 0 q).1).dedup 0 4 with | .ok _ => true | _ => false) =
       true) ∧
    (let c := cmdOf .mmaq mmaDesc fun c => { c with started := true, progress := 1, sets := [⟨0, [(0, 7)], true⟩] }
     let s := labMatrix c
     (c.sets.filter fun x => x.draining).take (8 - s.buffersUsed 0) ≠ [] ∧ servedCmd (s.block 0).matrixQ = some (0, c)) ∧
    (let c := cmdOf .mmaq mmaDesc fun c => { c with started := true, progress := 1, buffers := [⟨0, [(0, 7)], true⟩] }
     servedCmd ((labMatrix c).block 0).matrixQ = some (0, c) ∧ c.buffers.head?.isSome = true ∧
     (match lab.sram 0 (mqD c.desc) (mqDBytes c.desc) with | .ok _ _ => true | _ => false) = true) ∧
    (let c := cmdOf .mmaq mmaDesc fun c => { c with started := true, progress := 1 }
     doneCmd true [c] mqFinished = some (0, c)) ∧
    (let c := cmdOf .wbload wbDesc fun c => { c with started := true, refused := some 4 }
     doneCmd true [c] wbFinished = some (0, c) ∧ c.refused = some 4) ∧
    (let c := cmdOf .wbload wbDesc fun c => { c with started := true, progress := 1 }
     doneCmd true [c] wbFinished = some (0, c) ∧ c.refused = none) ∧
    (let c := cmdOf .cpq (cpDesc 2) fun c => { c with started := true, progress := 1 }
     doneCmd (lab.engineAcked 0 1) [c] cpFinished = some (0, c)) ∧
    (let c := cmdOf .cpq (cpDesc 0) fun c => { c with brec := labRecord }
     let s := labCopy c
     s.tilesFirst 0 = false ∧ s.slotOrder 0 (s.core 0).lastCopy = [0] ∧ servedCmd (s.block 0).copyQ = some (0, c) ∧
     c.progress < cpRows c.desc ∧ (s.block 0).saving = false ∧
     gotB (s.recFetch (s.engine 0 1) c.brec (cpMem c.desc) (cpLen c.desc)) = true ∧ cpDir c.desc = 0) ∧
    (let c := cmdOf .cpq (cpDesc 1) fun c => { c with brec := labRecord }
     let s := labCopy c
     let w := ((recBase c.brec + cpMem c.desc) % 2 ^ 57, (s.cpRow (s.cpNear 0 c.desc) 0 (cpLen c.desc)).take
       (recExtent c.brec * recStep c.brec - cpMem c.desc))
     cpDir c.desc = 1 ∧ s.versionFull 0 (s.writeLines (s.engine 0 1).ctx [w]) = false ∧
       putB (s.deliver (s.engine 0 1) .write w.1 w.2) = true) ∧
    cpDir (cpDesc 2) = 2 ∧ lab.sram 0 0xFFF8 8 = .ok (.area 0) 0xFFF8 ∧ (Map.find lab.blocks 0).isSome = true := by
  and_intros <;> decide +kernel

def marchDesc : List Byte := leBytes 4 0x100 ++ leBytes 2 512 ++ leBytes 2 0 ++ leBytes 4 0x1000 ++ leBytes 4 80 ++ leBytes 4 0x200 ++
  leBytes 44 0
def labMarch (c : Cmd) : State := blockWith lab fun b => { b with marchQ := [c] }
def rayDone : Ray := { placedRay with st := .done, eval := none }
/-- A collective of one member that has its part, or has not. -/
def collOf (parts : List (Nat × CollPart)) (dest : CollDest) : Collective :=
  ⟨0, 0, 0, 0, 1, true, 0, [0, 0, 0, 1, 0], List.replicate 32 0, false, .blk, dest, parts, [], [], none, false, false⟩

theorem witness_MarchRenderAndMoveEvents :
    (let c := cmdOf (.march .none) marchDesc id
     ((labMarch c).slotOrder 0 ((labMarch c).core 0).lastMarch).findSome?
       (fun j => ((labMarch c).block j).nextMarch.map fun q => (j, q)) = some (0, 0, c) ∧ (labMarch c).raysInFlight 0 + mrCount c.desc ≤ 512) ∧
    (let c := cmdOf (.march .none) marchDesc fun c => { c with started := true, rays := [(0, rayDone)] }
     let s := labMarch c
     (s.block 0).marchCmd 0 = some c ∧ (s.block 0).ray 0 = some rayDone ∧ rayDone.st = .done ∧ rayDone.written = false ∧
     s.hitUpdate 0 c 0 rayDone = none) ∧
    (let d := leBytes 4 0x100 ++ leBytes 2 1 ++ leBytes 2 0 ++ leBytes 4 0x1000 ++ leBytes 4 80 ++ leBytes 4 0x200 ++ leBytes 4 0x300 ++
       leBytes 40 0
     let x := { rayDone with status := 1, t := 0x3F800000 }
     let c := cmdOf (.march .none) d fun c => { c with started := true, rays := [(0, x)] }
     let s := labMom.setBlock 0 { lab.block 0 with marchQ := [c] }
     (s.hitUpdate 0 c 0 x).isSome = true ∧ (match s.hitUpdate 0 c 0 x with
       | some (va, new) => putB (s.visUpdate (s.engine 0 2) (msgVis c.depthTest) (visReplaces c.depthTest) va new)
       | none => false) = true) ∧
    (let c := cmdOf (.march .none) marchDesc fun c => { c with started := true, rays := [(0, { rayDone with written := true })] }
     doneCmd (lab.engineAcked 0 2) [c] marchDone = some (0, c)) ∧
    (Map.find (collOf [] .none).parts 0 = none ∧ (collOf [] .none).refused = none ∧ (collOf [] .none).issued = true ∧
      (collOf [] .none).blk < savedBlock) ∧
    (let c := collOf [(0, ⟨[0, 0, 0, 1, 0], [1, 0, 0, 0], 0⟩)] (.mem labRecord)
     Map.find c.parts c.rank ≠ none ∧ c.covered = true ∧ c.gatheredAll = true ∧ c.mismatch = false ∧ c.wrote = false ∧
     lab.versionFull c.blk (lab.writeLines 0 (collWrites labRecord (clDst c.desc) c.result)) = false ∧
     putB (lab.deliverAll (lab.collParty c.blk) (collWrites labRecord (clDst c.desc) c.result)) = true) ∧
    (let s := lab.setLaunch 0 { lab.launch 0 with groups := [⟨some [0, 7]⟩] }
     let part (phase chunk : Nat) : CollMsg := collMsg (CollMsg.bytes ⟨phase, 0, chunk, [0, 0, 0, 65, 0], [1]⟩)
     let c := s.collFresh 0 0 0
     (s.launch 0).group 0 = some [0, 7] ∧ ([0, 7] : List Nat)[1]? = some 7 ∧ 7 ≠ s.mss.domid ∧
     (s.collIndex 0 0 0).isNone = true ∧ (part 0 0).phase = 0 ∧ (part 0 0).level = 0 ∧ 1 ≠ c.rank ∧ partFor c.parts 1 = none ∧
     s.collNew c 7 7 1 0 = true ∧ s.collNew c 0 7 1 0 = false ∧
     (part 1 0).phase = 1 ∧ (part 1 0).chunk = c.rank ∧ (part 1 1).chunk ≠ c.rank ∧ (part 1 1).chunk < 2 ∧ 2 ≤ (part 1 2).chunk ∧
     Map.find c.pieces 1 = none ∧ 2 ≤ (part 2 0).phase ∧ Map.find c.gathered 1 = none ∧
     ([0, 7] : List Nat)[(([0, 7] : List Nat).idxOf s.mss.domid + 1) % 2]? = some 7) ∧
    (let g : Segment := { seg .moving 0 0 with goal := some .evict, backing := 0 }
     let s := labSeg g
     g.st = .moving ∧ g.loading = false ∧ putB (s.deliver (segParty 0 g) .write g.backing [1]) = true) ∧
    (let g : Segment := { seg .moving 0 0 with goal := some (.reload 0), backing := 0, loading := true }
     let s := labSeg g
     gotB (s.fetch (segParty 0 g) 0 4096) = true ∧ g.waiter = none) ∧
    (let g : Segment := { seg .cold 0 0 with goal := some (.reload 0), backing := 0x40000, loading := true }
     let h : Segment := { g with st := .moving }
     let s := labSeg g
     let others := s.segs.filter fun p => p.1 != 0 && p.2.claims 0
     s.granulesOf 0 (fun _ => false) + others.foldl (fun n p => n + p.2.size) 0 + g.size ≤ s.capacity 0 ∧ others.length < 16 ∧
     (match (labSeg h).fetch (segParty 0 h) g.backing 4096 with | .wait _ => true | _ => false) = true) ∧
    (let x : Prim := ⟨0, 0, 0, 0, Vector.replicate 3 0, Vector.replicate 3 0, Vector.replicate 3 0, 0, 0, true⟩
     let s := { labGeo with prims := [x] }.setLaunch 0 { labGeo.launch 0 with queue := 0, target := labMom.myLaunch.target }
     ((s.queueLaunches 0).findSome? fun q => (s.nextPrim q.1).map fun x => (q.2, x)) = some (s.launch 0, x) ∧
     s.isFrozen (.queue 0) = false ∧ putB (s.maxUpdates (s.gscParty (s.launch 0)) (s.primUpdates (s.launch 0) x)) = true) ∧
    (let s := labGeo.setLaunch 0 { labGeo.launch 0 with
       groups := [⟨some [0, 7]⟩], target := some (leBytes 0x30 0 ++ leBytes 8 0x800 ++ leBytes 8 0) }
     (s.geometryLaunch 7).any (fun q => !q.2.devlost) = true) ∧
    (let s := labGeo.setLaunch 0 { labGeo.launch 0 with
       devlost := true, groups := [⟨some [0, 7]⟩], target := some (leBytes 0x30 0 ++ leBytes 8 0x800 ++ leBytes 8 0) }
     (s.geometryLaunch 7).any (fun q => q.2.devlost) = true) ∧ lab.geometryLaunch 7 = none := by
  and_intros <;> decide +kernel

/-- Function 0 frozen. -/
def labFrozen : State := { lab with mss := { lab.mss with frozen := [(0, .function 0)] } }
/-- A context of function 63 with a save region of 1 MiB and an invalidation that waits for another. -/
def labRegion : State := lab.setCtx 4095 { Context.reset with
  en := true, fn := 63, savebase := 0x100000, savemib := 1, invbusy := true, invHeld := [(63, 1, 0)] }

theorem witness_HostAccesses : 2 ^ 38 - 4 + 4 ≤ 2 ^ lab.mss.bar2 ∧ lab.framesBusy 0x10100 8 = false ∧
    labFrozen.isFrozen (.function 0) = true ∧ lab.isFrozen (.function 0) = false ∧
    (framesOf (lab.windowed 0x10100) 4).any lab.protected = false ∧
    (∀ f ∈ framesOf (lab.windowed 0x10100) 4, lab.frameDiscarded f = none) ∧
    lab.windowed 0x10100 % 8 = 0 ∧ lab.windowed 0x10104 % 4 = 0 ∧
    (4 % 8 + 4 ≤ 8 ∧ 7 % 8 + 1 ≤ 8) ∧ (0x100000 / 8 * 8 / 0x40 = 0x4000 + 0 ∧ 0x10FFF8 / 8 * 8 / 0x40 = 0x4000 + 1023) ∧
    lab.queueSeen 0 1023 = true ∧ lab.queueSeen 63 0 = false ∧ lab.ctxSeen 0 4095 = true ∧
    ((framesOf (labRegion.windowed 0x1FFFF8) 8).any labRegion.protected = true ∧ labRegion.isFrozen (.function 0) = false) ∧
    (labRegion.postedHeld 0 = false ∧ lab.postedHeld 63 = false ∧ ∃ p ∈ labRegion.ctxs, ∃ h ∈ p.2.invHeld, h.1 = 63) := by
  and_intros <;> decide +kernel

/-- A port in a state. -/
def labPort (st : PortState) : State := lab.setPort 95 { Port.reset with st := st, dis := decide (st = .disabled) }
/-- A flit sealed by its CRC. -/
def sealedFlit (body : List Byte) : List Byte := body ++ leBytes 8 (Config.crc64 body).toNat

theorem witness_FabricEvents : portCount = 96 ∧ ((labPort .down).port 95).st = .down ∧ ((labPort .train).port 95).st = .train ∧
    ((labPort .up).port 95).st = .up ∧ ((labPort .retrain).port 95).st = .retrain ∧ ((labPort .dead).port 95).st = .dead ∧
    ((labPort .disabled).port 95).dis = true ∧
    (let s := { labPort .up with clk := 3000 }
     (s.port 95).timer + 3000 ≤ s.clk ∧ lab.clk < (lab.port 95).timer + 3000 ∧ (lab.mss.stage ≠ 0 ∧ lab.mss.stage ≠ 7)) ∧
    (messageBytes msgRead [4, 0, 0, 0, 0, 0, 0, 0] ≠ 0 ∧ 1 ≠ lab.mss.domid) ∧
    (let s := { lab with mss := { lab.mss with explim := 2 } }
     0x1FFFC + 4 ≤ s.mss.explim * 2 ^ 16 ∧ s.mss.explim * 2 ^ 16 < 0x1FFFD + 4 ∧ 0x1FFFC + 4 ≤ deviceEnd ∧
     (∀ i, i < 4 → (s.frame ((0x1FFFC + i) / 2 ^ 16)).pin = none)) := by
  and_intros <;> decide +kernel
theorem witness_FlitReceive (body : List Byte) (h : body.length = 248) : (sealedFlit body).length = 256 ∧
    leNat ((sealedFlit body).drop 248) = (Config.crc64 ((sealedFlit body).take 248)).toNat ∧
    (sealedFlit body).take 4 = body.take 4 := by
  refine ⟨by simp [sealedFlit, h], ?_, by simp [sealedFlit, List.take_append, h]⟩
  rw [sealedFlit, List.drop_left' h, List.take_left' h, leNat_leBytes]
  exact Nat.mod_eq_of_lt (Config.crc64 body).isLt

/-- The management subsystem in a stage and a state of a firmware command. -/
def labMss (f : Mss → Mss) : State := { lab with mss := f { lab.mss with stage := 5 } }

/-- What the flash banks and the configuration record hold is the maker's, so the bring-up clauses about them have a case
each way and no witness here. -/
theorem witness_ManagementEvents : (labMss id).mss.busy = none ∧ (labMss id).mss.stage ≠ 0 ∧ (labMss id).postedHeld 0 = false ∧ (labMss id).mss.stage ≠ 6 ∧ (labMss id).mss.stage ≠ 7 ∧
    (labMss fun m => { m with busy := some .stage }).mss.busy ≠ none ∧ (labMss fun m => { m with pstate := 2 }).mss.pstate = 2 ∧
    (labMss fun m => { m with pstate := 1 }).mss.pstate = 1 ∧ (labMss id).mss.pstate = 0 ∧
    (labMss fun m => { m with stage := 7 }).mss.stage = 7 ∧ (labMss id).mss.dump = none ∧
    (let d : Dump := ⟨1, 0, 0, 64⟩
     let s := labMss fun m => { m with dmib := 1, dump := some d }
     s.mss.dump = some d ∧ d.size ≤ s.mss.dmib * 2 ^ 20 ∧ (s.dumpSection 0).isSome = true ∧ (s.dumpSection 51).isNone = true) ∧
    ((labMss fun m => { m with dmib := 1 }).mss.dmib ≠ 0) ∧
    (labMss fun m => { m with stage := 6, preqWaits := some 0 }).mss.preqWaits ≠ none ∧
    (let s := { labMss fun m => { m with goal := 2 } with blocks := [] }
     s.mss.goal = 2 ∧ s.mss.pstate ≠ 2 ∧ s.blocks = []) ∧
    Map.find labFrozen.mss.frozen 0 = some (.function 0) ∧ Map.find lab.mss.frozen 0 = none ∧ (labMss id).mss.staged = none ∧
    (let s := labMss fun m => { m with staged := some [], busy := some .activate, paused := true }
     s.mss.staged = some [] ∧ s.mss.busy = some .activate ∧ s.mss.paused = true ∧
     ∀ q ∈ s.blocks, q.2.saving = false ∧ q.2.phase ≠ .restoring) ∧
    (labMss fun m => { m with attbusy := true }).mss.attbusy = true ∧ (191 < 192 ∧ 47 < 48) ∧
    ((16 * lab.mss.tcrit : Int) ≤ (BitVec.ofNat 16 1680).toInt ∧ lab.mss.tcrit < 256) ∧
    State.reset.mss.stage = 0 ∧ (labMss fun m => { m with stage := 1 }).mss.stage = 1 ∧ (labMss fun m => { m with stage := 2 }).mss.stage = 2 ∧
    (labMss fun m => { m with stage := 4 }).mss.configured = false ∧
    (labMss fun m => { m with stage := 4, configured := true }).mss.configured = true := by
  and_intros <;> decide +kernel
theorem witness_ResultShapes : Ready lab (lab.wset g7) false ((v 1).uses 1 ++ (v 2).uses 1) [3] ∧ lab.wset g7 ≠ 0 ∧
    lab.wset g7 = lab.me.live ∧ lab.wset ⟨1, false⟩ ≠ lab.me.live ∧ lab.wset ⟨7, true⟩ = 0 ∧
    (lab.me.src (v 1)).affine = some (7, 0) ∧ (lab.me.src (v 2)).affine = some (0x100, 4) ∧ (lab.me.src (v 4)).affine = none ∧
    (lab.me.src (v 1)).isU = true ∧ lab.compactFree 0 (lab.me.setVreg 3 ⟨.n, 0⟩) = true ∧
    Ready lab (lab.wset g7) false ((p 2).uses 1) [3] := by
  and_intros <;> first | decide +kernel | exact ready_of (by decide +kernel)
/-- A block that may be offered again, one that has used its attempts, and one of a launch without IDEM or VERS. -/
theorem witness_KilledBlocks :
    (let s := launchWith (launchWith lab 0x2C 4 4) 0x3B 1 1
     (Map.find s.blocks 0).isSome = true ∧ (s.block 0).phase ≠ .ended ∧ 0 < 32 * 192 ∧ (s.launch 0).nbhd = false ∧
     (s.launch 0).proof = false ∧ (s.launch 0).idem = true ∧ (s.block 0).attempt < (s.launch 0).retry + 1) ∧
    (let s := blockWith (launchWith (launchWith lab 0x2C 4 4) 0x3B 1 1) fun b => { b with attempt := 2 }
     ¬((s.block 0).attempt < (s.launch 0).retry + 1) ∧ (s.launch 0).failed = 0) ∧
    ((lab.launch 0).idem = false ∧ (lab.launch 0).vers = false) := by decide +kernel

/-- A warp whose bytes decode, two warps of a proof-mode launch of which the second is not due, and a ray. -/
theorem witness_StepRunsDecoded :
    (let s := State.reset.withFetchWord 64 (bits [(0, 7)])
     let t := launchWith s 0x2C 4 0x10
     let t := { t with warps := t.warps ++ [(8, t.warp 0)] }
     (t.launch (t.block (t.warp 8).blk).launch).proof = true ∧ t.inRotation 0 = true ∧ t.inRotation 8 = false) ∧
    (let s := State.reset.withFetchWord 64 (bits [(0, 7)])
     let t := { s with warps := s.warps ++ [(1, { s.warp 0 with seqno := (s.warp 0).seqno + 1 })] }
     (t.launch (t.block (t.warp 1).blk).launch).proof = false ∧ t.inRotation 0 = true ∧ t.inRotation 1 = false ∧
     s.agenda = [.issue 0] ∧ s.inRotation 0 = true ∧ (s.candidate 0).isSome = true ∧ (match s.candidate 0 with
       | some (w, _, pc) => decide (w.firstTrap = none) && gotB (s.code 0 (pcAddr pc))
       | none => false) = true) ∧
    (let s := State.reset.withFetchWord 16 (bits [(8, 0x20)])
     s.agenda = [.ray 0 0] ∧ ({ s with ray := (0, 0) }.evaluating).isSome = true) := by decide +kernel
theorem witness_EncodingsRoundTrip : WellFormed (.iadd g7 511 (v 1) (.s 23)) = true ∧
    (Instr.iadd g7 511 (v 1) (.s 23)).isSimt = true ∧ WellFormed (.fbcConst 0x7F7FFFFF) = true ∧
    (Instr.fbcConst 0x7F7FFFFF).isField = true := by decide
theorem witness_StepsKeepMemory : lab.mem.wf = true ∧ lab.hostMem.wf = true ∧ Map.sorted lab.blocks = true ∧
    Map.sorted lab.segs = true ∧
    (match step { lab with agenda := [.event (.nop g7)] } with | .next _ => true | _ => false) = true := by decide +kernel

end Sys2Proof.Tests
end

/-! PROOFS. The rules for instructions that write no register (what they leave of their warp, the trap that they raise), for
writes of control registers and for the replay log, and O21, which follows from them. -/

namespace Sys2Proof.Machine

/-! ### The executing warp written (State.setMe) -/

theorem Map.erase_ins_same {α : Type} (m : List (Nat × α)) (k : Nat) (v : α) :
    Map.erase (Map.ins m k v) k = Map.erase m k := by
  induction m with
  | nil => simp [Map.ins, Map.erase]
  | cons p m ih =>
    simp only [Map.ins]
    split
    · simp [Map.erase]
    · simp only [Map.erase, List.filter_cons] at ih ⊢
      rw [ih]

/-- Of two writes of one key the later one stays. -/
theorem Map.set_set_same {α : Type} (m : List (Nat × α)) (k : Nat) (v w : α) :
    Map.set (Map.set m k v) k w = Map.set m k w := by
  have he : Map.erase (Map.erase m k) k = Map.erase m k := by simp [Map.erase]
  simp only [Map.set, Map.erase_ins_same, he]

@[simp] theorem State.setMe_setMe (s : State) (v w : Warp) : (s.setMe v).setMe w = s.setMe w := by
  change { s with warps := Map.set (Map.set s.warps s.cur.slot v) s.cur.slot w } = s.setMe w
  rw [Map.set_set_same]
  rfl

section
variable {s : State} {w : Warp}

theorem State.myBlock_setMe (hb : w.blk = s.me.blk) : (s.setMe w).myBlock = s.myBlock := by
  unfold State.myBlock
  rw [State.me_setMe, hb]
  rfl

theorem State.myLaunch_setMe (hb : w.blk = s.me.blk) : (s.setMe w).myLaunch = s.myLaunch := by
  unfold State.myLaunch
  rw [State.myBlock_setMe hb]
  rfl

theorem State.myCtx_setMe (hb : w.blk = s.me.blk) : (s.setMe w).myCtx = s.myCtx := by
  unfold State.myCtx
  rw [State.myLaunch_setMe hb]

end

@[simp] theorem Warp.free_blk (w : Warp) (rs : List Nat) : (w.free rs).blk = w.blk := by rw [Warp.free_rest]
@[simp] theorem Warp.free_index (w : Warp) (rs : List Nat) : (w.free rs).index = w.index := by rw [Warp.free_rest]
@[simp] theorem Warp.free_lanes (w : Warp) (rs : List Nat) : (w.free rs).lanes = w.lanes := by rw [Warp.free_rest]
@[simp] theorem Warp.free_kepc (w : Warp) (rs : List Nat) : (w.free rs).kepc = w.kepc := by rw [Warp.free_rest]

/-! ### A step of the run -/

/-- An instruction that leaves its warp as `w` and moves its run on, and does nothing else. -/
theorem steps_of_advance {i : Instr} {s : State} {w : Warp} (hi : exec i s = .next (s.setMe w).advance)
    (hb : w.blk = s.me.blk) (hl : w.lanes = s.me.lanes) : Steps i s w (s.laneAt fun _ => s.cur.next) := by
  refine ⟨_, hi, ?_, ?_, State.moveRun_only s w _ hb⟩
  · rw [State.advance, State.moveRun_me, State.me_setMe]
    rfl
  · exact State.moveRun_moves s w _ hl

/-! ### Traps (R35, R383, R384) -/

/-- The fields of KCAUSE after a trap (R35). -/
theorem causeWord_fields {code detail lane : Nat} (hc : code < 2 ^ 8) (hl : lane < 2 ^ 5) (hd : detail < 2 ^ 16) :
    (causeWord code detail lane).toNat % 2 ^ 8 = code ∧ (causeWord code detail lane).toNat / 2 ^ 8 % 2 ^ 5 = lane ∧
      (causeWord code detail lane).toNat / 2 ^ 13 % 2 ^ 3 = 0 ∧ (causeWord code detail lane).toNat / 2 ^ 16 = detail := by
  unfold causeWord
  rw [BitVec.toNat_ofNat]
  omega

/-- A trap of the executing instruction enters the handler where one is named and none runs (R384). -/
theorem State.trapAt_entered {s : State} {code detail : Nat} (hc : code < 2 ^ 8) (hd : detail < 2 ^ 16)
    (hv : s.myLaunch.tvec ≠ 0) (hh : s.me.hndl = false) :
    Entered s (s.trapAt s.cur.slot s.cur.run s.cur.run.lowest.val s.cur.pc code detail) s.cur.run s.cur.run (fun _ => 0)
      (fun l => s.me.lanes[l]) s.cur.run.lowest.val s.cur.pc code detail := by
  have hg : ¬((decide (s.myLaunch.tvec = 0) || s.me.hndl) = true) := by simp [hv, hh]
  have ht : s.trapAt s.cur.slot s.cur.run s.cur.run.lowest.val s.cur.pc code detail =
      s.setMe (Warp.issued { s.me with
        kcause := causeWord code detail s.cur.run.lowest.val
        kepc := s.cur.pc
        trapMask := s.cur.run
        hndl := true
        tmask := true
        khbudget := 65536
        firstTrap := none } s.cur.run fun l =>
          if s.cur.run.getLsbD l.val then addrPc (BitVec.ofNat 57 s.myLaunch.tvec) else 0) := if_neg hg
  rw [ht]
  generalize hw : Warp.issued _ s.cur.run _ = w
  constructor
  · rw [State.me_setMe, ← hw]
    exact causeWord_fields hc s.cur.run.lowest.isLt hd
  · rw [State.me_setMe, ← hw]; rfl
  · rw [State.me_setMe, ← hw]; rfl
  · rw [State.me_setMe, ← hw]; exact ⟨rfl, rfl, rfl⟩
  · intro l
    rw [State.me_setMe, ← hw]
    exact Warp.issued_lane _ _ _ l
  · rw [State.me_setMe, ← hw]; rfl
  · rfl
  · intro k hk
    exact Map.find_set_other _ _ _ _ hk
  · intro a
    rfl

/-- An instruction whose meaning is a trap of delivery H (R382 to R384). -/
theorem raises_of_trap {i : Instr} {s : State} {code detail : Nat} (hi : exec i s = s.trap code detail)
    (hc : code < 2 ^ 8) (hd : detail < 2 ^ 16) : Raises i s code detail := by
  refine ⟨fun hv hh => ⟨_, hi, State.trapAt_entered hc hd hv hh⟩, fun h => ?_⟩
  have hg : (decide (s.myLaunch.tvec = 0) || s.me.hndl) = true := by simpa using h
  rw [hi]
  exact congrArg Host.Outcome.next (if_pos hg)

/-! ### Instructions that write no register (State.perform, State.stageOne) -/

/-- The state once LR has freed the sources of an instruction that writes no register (R27). -/
def State.freed (s : State) (us : List Use) : State := s.setMe (s.me.free (s.frees us []))

@[simp] theorem State.freed_me (s : State) (us : List Use) : (s.freed us).me = s.me.free (s.frees us []) := State.me_setMe s _

@[simp] theorem State.setMe_freed (s : State) (us : List Use) (w : Warp) : (s.freed us).setMe w = s.setMe w :=
  State.setMe_setMe s _ w

@[simp] theorem State.freed_cur (s : State) (us : List Use) : (s.freed us).cur = s.cur := rfl

@[simp] theorem State.freed_mem (s : State) (us : List Use) : (s.freed us).mem = s.mem := rfl

@[simp] theorem State.freed_myBlock (s : State) (us : List Use) : (s.freed us).myBlock = s.myBlock :=
  State.myBlock_setMe (Warp.free_blk _ _)

@[simp] theorem State.freed_myLaunch (s : State) (us : List Use) : (s.freed us).myLaunch = s.myLaunch :=
  State.myLaunch_setMe (Warp.free_blk _ _)

@[simp] theorem State.freed_myCtx (s : State) (us : List Use) : (s.freed us).myCtx = s.myCtx :=
  State.myCtx_setMe (Warp.free_blk _ _)

theorem Readable.readGate {s : State} {scalar : Bool} {us : List Use} (h : Readable s scalar us) :
    s.readGate scalar us = .go := by
  unfold State.readGate
  rw [Warp.sourceGate_go _ _ h.sources]
  cases hs : scalar with
  | false => rfl
  | true => simp [Gate.trapIf, h.converged hs]

section
variable {s : State} {scalar : Bool} {us : List Use}

theorem State.perform_go {f : State → Res} (h : Readable s scalar us) : s.perform scalar us .go f = f (s.freed us) := by
  unfold State.perform
  rw [h.readGate]
  rfl

theorem State.perform_trap {f : State → Res} {code detail : Nat} (h : Readable s scalar us) :
    s.perform scalar us (.trap code detail) f = s.trap code detail := by
  unfold State.perform
  rw [h.readGate]
  rfl

theorem State.stageOne_go {f : Res} (h : scalar = true → s.me.converged = true) : s.stageOne scalar .go f = f := by
  have hg : (scalar && !s.me.converged) = false := by cases scalar <;> simp_all
  unfold State.stageOne
  rw [hg]
  rfl

theorem State.stageOne_trap {f : Res} {code detail : Nat} (h : scalar = true → s.me.converged = true) :
    s.stageOne scalar (.trap code detail) f = s.trap code detail := by
  have hg : (scalar && !s.me.converged) = false := by cases scalar <;> simp_all
  unfold State.stageOne
  rw [hg]
  rfl

end

/-! ### Control registers (R32 to R35, R241) -/

theorem LaneMask.mem_lanes {m : LaneMask} {l : Fin 32} : l ∈ LaneMask.lanes m ↔ m.getLsbD l.val = true := by
  simp [LaneMask.lanes]

theorem Warp.csrWritable_iff {w : Warp} {num : Nat} :
    w.csrWritable num = true ↔ num = 0x001 ∨ ((num = 0x002 ∨ num = 0x003) ∧ w.hndl = true) := by
  simp [Warp.csrWritable]

/-- An operand that does not differ within W has one shape for all lanes, or the value of the lowest lane in each (R241). -/
theorem Warp.differs_eq_false_iff {w : Warp} {a : Src} {W : LaneMask} :
    w.differs a W = false ↔
      (w.src a).isU = true ∨ ∀ l : Fin 32, W.getLsbD l.val = true → (w.src a).lane l = (w.src a).lane W.lowest := by
  cases hu : (w.src a).isU <;> simp [Warp.differs, LaneMask.mem_lanes, hu]

theorem Warp.differs_empty (w : Warp) (a : Src) : w.differs a 0 = false :=
  Warp.differs_eq_false_iff.mpr (.inr fun l h => by simp at h)

theorem Warp.setCsr_kflags (w : Warp) (hi : Bool) (x : Word) :
    w.setCsr 0x001 hi x = { w with kflags := x &&& 0x1F7F } := rfl

theorem Warp.setCsr_kcause (w : Warp) (hi : Bool) (x : Word) :
    w.setCsr 0x002 hi x = { w with kcause := x &&& 0xFFFF1FFF } := rfl

/-- The low half of KEPC written: its upper 25 bits stay. -/
theorem Warp.setCsr_kepc_low (w : Warp) (x : Word) :
    w.setCsr 0x003 false x = { w with kepc := w.kepc.extractLsb' 32 25 ++ x } := by
  have he : BitVec.ofNat 57 (w.kepc.toNat / 2 ^ 32 * 2 ^ 32 + x.toNat) = w.kepc.extractLsb' 32 25 ++ x := by
    apply BitVec.eq_of_toNat_eq
    rw [BitVec.toNat_append, ← Nat.shiftLeft_add_eq_or_of_lt x.isLt, Nat.shiftLeft_eq]
    simp only [BitVec.toNat_ofNat, BitVec.extractLsb'_toNat, Nat.shiftRight_eq_div_pow]
    have := w.kepc.isLt
    omega
  exact congrArg (fun e => { w with kepc := e }) he

/-- The high half of KEPC written: its lower 32 bits stay. -/
theorem Warp.setCsr_kepc_high (w : Warp) (x : Word) :
    w.setCsr 0x003 true x = { w with kepc := x.truncate 25 ++ w.kepc.truncate 32 } := by
  have he : BitVec.ofNat 57 (x.toNat % 2 ^ 25 * 2 ^ 32 + w.kepc.toNat % 2 ^ 32) =
      x.truncate 25 ++ w.kepc.truncate 32 := by
    apply BitVec.eq_of_toNat_eq
    rw [BitVec.toNat_append, ← Nat.shiftLeft_add_eq_or_of_lt (w.kepc.truncate 32).isLt, Nat.shiftLeft_eq]
    simp only [BitVec.toNat_ofNat, BitVec.truncate_eq_setWidth, BitVec.toNat_setWidth]
    omega
  exact congrArg (fun e => { w with kepc := e }) he

/-- A write of a control register touches neither the threads of a warp nor its block. -/
theorem Warp.setCsr_frame (w : Warp) (num : Nat) (hi : Bool) (x : Word) :
    (w.setCsr num hi x).blk = w.blk ∧ (w.setCsr num hi x).lanes = w.lanes := by
  unfold Warp.setCsr
  split <;> exact ⟨rfl, rfl⟩

section
variable {s : State} {g : Guard} {num : Nat} {hi : Bool} {a : Src}

theorem exec_csrw (g : Guard) (num : Nat) (hi : Bool) (a : Src) (s : State) :
    exec (.csrw g num hi a) s = execCsrw g num hi a s := rfl

/-- A control register written by threads that agree (R241). -/
theorem exec_csrw_writes (hr : Readable s a.scalar (a.uses 1)) (hm : s.me.csrWritable num = true)
    (hd : s.me.differs a (s.wset g) = false) (hW : s.wset g ≠ 0) :
    exec (.csrw g num hi a) s = .next (s.setMe ((s.me.free (s.frees (a.uses 1) [])).setCsr num hi
      ((s.me.src a).lane (s.wset g).lowest))).advance := by
  simp only [exec_csrw, execCsrw, hm, hd, Bool.not_true, Gate.trapIf_false]
  rw [State.stageOne_go hr.converged, State.perform_go hr, if_neg hW, State.freed_me, State.setMe_freed]

/-- With an empty W a writable register is read for and not written. -/
theorem exec_csrw_empty (hr : Readable s a.scalar (a.uses 1)) (hm : s.me.csrWritable num = true) (hW : s.wset g = 0) :
    exec (.csrw g num hi a) s = .next (s.freed (a.uses 1)).advance := by
  simp only [exec_csrw, execCsrw, hm, hW, Warp.differs_empty, Bool.not_true, Gate.trapIf_false, if_true]
  rw [State.stageOne_go hr.converged, State.perform_go hr]

theorem exec_csrw_differs (hr : Readable s a.scalar (a.uses 1)) (hm : s.me.csrWritable num = true)
    (hd : s.me.differs a (s.wset g) = true) : exec (.csrw g num hi a) s = s.trap 0x03 3 := by
  simp only [exec_csrw, execCsrw, hm, hd, Bool.not_true, Gate.trapIf_false]
  rw [State.stageOne_go hr.converged]
  exact State.perform_trap hr

theorem exec_csrw_protected (hc : a.scalar = true → s.me.converged = true) (hm : s.me.csrWritable num = false) :
    exec (.csrw g num hi a) s = s.trap 0x08 5 := by
  simp only [exec_csrw, execCsrw, hm]
  exact State.stageOne_trap hc

/-- A control register written, its warp's threads moved on. -/
theorem csrw_steps (hr : Readable s a.scalar (a.uses 1)) (hm : s.me.csrWritable num = true)
    (hd : s.me.differs a (s.wset g) = false) (hW : s.wset g ≠ 0) :
    Steps (.csrw g num hi a) s ((s.me.free (s.frees (a.uses 1) [])).setCsr num hi
      ((s.me.src a).lane (s.wset g).lowest)) (s.laneAt fun _ => s.cur.next) := by
  have hf := Warp.setCsr_frame (s.me.free (s.frees (a.uses 1) [])) num hi ((s.me.src a).lane (s.wset g).lowest)
  exact steps_of_advance (exec_csrw_writes hr hm hd hW) (hf.1.trans (Warp.free_blk _ _)) (hf.2.trans (Warp.free_lanes _ _))

end

/-! ### Bytes -/

@[simp] theorem Mem.bytes_length (m : Mem) (a n : Nat) : (m.bytes a n).length = n := by
  induction n generalizing a with
  | zero => rfl
  | succ n ih => simp [Mem.bytes, ih]

/-- Bytes survive the passage through the number that they make (R4). -/
theorem leBytes_leNat (bs : List Byte) : leBytes bs.length (leNat bs) = bs := by
  induction bs with
  | nil => rfl
  | cons b bs ih =>
    have hb : b.toNat < 256 := b.isLt
    have hlow : BitVec.ofNat 8 (b.toNat + 256 * leNat bs) = b := by
      apply BitVec.eq_of_toNat_eq
      rw [BitVec.toNat_ofNat]
      omega
    have hhigh : (b.toNat + 256 * leNat bs) / 256 = leNat bs := by omega
    rw [List.length_cons, leBytes, leNat, hlow, hhigh, ih]

theorem Mem.bytes_eq_map (m : Mem) (a n : Nat) : m.bytes a n = (List.range n).map fun i => m.byte (a + i) := by
  induction n generalizing a with
  | zero => rfl
  | succ n ih =>
    rw [Mem.bytes, ih, List.range_succ_eq_map, List.map_cons, List.map_map]
    congr 2
    funext i
    exact congrArg m.byte (by simp; omega)

/-- A read outside every version, of a page that is not discarded, is a read of memory (R191). -/
theorem State.leBytes_readAt (s : State) {x : Xlat} (hd : x.disc = false) (n : Nat) :
    leBytes n (s.readAt [] x n) = s.mem.bytes x.loc n := by
  have hb : ((List.range n).map fun i => s.locByte [] (s.discarded x) (x.loc + i)) = s.mem.bytes x.loc n := by
    simp [Mem.bytes_eq_map, State.locByte, Map.find, State.discarded, hd]
  have := leBytes_leNat (s.mem.bytes x.loc n)
  rw [Mem.bytes_length] at this
  rw [State.readAt, hb, this]

theorem shake256_length (bs : List Byte) {n : Nat} (h : n ≤ 200) : (shake256 bs n).length = n := by
  unfold shake256
  dsimp only
  rw [List.length_take, List.length_flatMap]
  simp
  omega

@[simp] theorem detDigest_length (tag : Imm16) (W : LaneMask) (st : Storage) : (detDigest tag W st).length = 12 := by
  simp [detDigest, shake256_length]

@[simp] theorem State.logHeader_length (s : State) (kind words : Nat) (W : LaneMask) :
    (s.logHeader kind words W).length = 16 := by
  simp [State.logHeader]

/-- The 28 bytes of an entry with a payload of 12 are padded by one zero word (R345). -/
theorem pad16_entry {bs : List Byte} (h : bs.length = 28) : pad16 bs = bs ++ leBytes 4 0 := by
  rw [pad16, h]
  rfl

/-- The part of an entry header before its words byte (R345). -/
def State.logFront (s : State) (kind : Nat) : List Byte :=
  leBytes 8 s.myLaunch.retired ++ leBytes 2 (s.me.blk % 32 * 32 + s.me.index) ++ leBytes 1 kind

@[simp] theorem State.logFront_length (s : State) (kind : Nat) : (s.logFront kind).length = 11 := by
  simp [State.logFront]

theorem State.logHeader_eq (s : State) (kind words : Nat) (W : LaneMask) :
    s.logHeader kind words W = s.logFront kind ++ leBytes 1 words ++ leBytes 4 W.toNat := rfl

/-- What the comparison of R345 sees of a header. -/
theorem compared_header (s : State) (kind words : Nat) (W : LaneMask) :
    compared (s.logHeader kind words W) = s.logFront kind ++ leBytes 4 W.toNat := by
  have htake : (s.logFront kind ++ leBytes 1 words ++ leBytes 4 W.toNat).take 11 = s.logFront kind := by
    rw [List.append_assoc]
    exact List.take_left' (s.logFront_length kind)
  have hdrop : (s.logFront kind ++ leBytes 1 words ++ leBytes 4 W.toNat).drop 12 = leBytes 4 W.toNat :=
    List.drop_left' (by simp)
  rw [compared, State.logHeader_eq, htake, hdrop]

/-- An entry agrees with a header where its front and its mask do (R345). -/
theorem compared_entry_iff (s : State) {e : List Byte} (he : e.length = 32) (kind words : Nat) (W : LaneMask) :
    compared (e.take 16) = compared (s.logHeader kind words W) ↔
      e.take 11 = s.logFront kind ∧ (e.drop 12).take 4 = leBytes 4 W.toNat := by
  rw [compared_header, compared, List.take_take, List.drop_take]
  exact List.append_eq_append_iff_of_size_eq_left (by simp [he])

/-! ### The replay log (R345) -/

/-- The next 32 bytes of the log lie in one piece of this device's memory that the executing warp may use now: no page of
them is discarded, no fault on them waits for an answer, and no block has the key under which the log is accessed. -/
structure LogPlaced (s : State) (need : Need) (x : Xlat) : Prop where
  fits : s.myLaunch.logPos + 32 ≤ s.myLaunch.logSize
  walk : s.rangeWalk s.myCtx need (s.myLaunch.logAddr + s.myLaunch.logPos) 32 = .ok [(x, 32)]
  near : isExternal x.loc = false
  kept : x.disc = false
  answered : s.waitsOn s.myCtx (.warp s.cur.slot) (s.myLaunch.logAddr + s.myLaunch.logPos) 32 = false
  nobody : Map.find s.blocks (2 ^ 40) = none

/-- The place of the log does not depend on the registers of the executing warp. -/
theorem LogPlaced.freed {s : State} {need : Need} {x : Xlat} (h : LogPlaced s need x) (us : List Use) :
    LogPlaced (s.freed us) need x where
  fits := by rw [State.freed_myLaunch]; exact h.fits
  walk := by rw [State.freed_myLaunch, State.freed_myCtx]; exact h.walk
  near := h.near
  kept := h.kept
  answered := by rw [State.freed_myLaunch, State.freed_myCtx]; exact h.answered
  nobody := h.nobody

@[simp] theorem State.logFront_freed (s : State) (us : List Use) (kind : Nat) :
    (s.freed us).logFront kind = s.logFront kind := by
  simp [State.logFront]

@[simp] theorem State.logHeader_freed (s : State) (us : List Use) (kind words : Nat) (W : LaneMask) :
    (s.freed us).logHeader kind words W = s.logHeader kind words W := by
  simp [State.logHeader_eq]

section
variable {s : State} {kind words : Nat} {W : LaneMask} {p : List Byte} {x : Xlat}

/-- The state with bytes of device memory written. -/
def State.putMem (s : State) (loc : Nat) (bs : List Byte) : State := { s with mem := s.mem.putBytes loc bs }

@[simp] theorem State.putMem_me (loc : Nat) (bs : List Byte) : (s.putMem loc bs).me = s.me := rfl

@[simp] theorem State.putMem_cur (loc : Nat) (bs : List Byte) : (s.putMem loc bs).cur = s.cur := rfl

@[simp] theorem State.putMem_mem (loc : Nat) (bs : List Byte) : (s.putMem loc bs).mem = s.mem.putBytes loc bs := rfl

@[simp] theorem State.putMem_myBlock (loc : Nat) (bs : List Byte) : (s.putMem loc bs).myBlock = s.myBlock := rfl

@[simp] theorem State.putMem_myLaunch (loc : Nat) (bs : List Byte) : (s.putMem loc bs).myLaunch = s.myLaunch := rfl

/-- A key that no block has keeps no version. -/
theorem State.versioned_of_find_none {bk : Nat} (h : Map.find s.blocks bk = none) : s.versioned bk = false := by
  simp [State.versioned, h]

/-- A write outside every version to a page of this device that is not discarded changes memory alone. -/
theorem State.writeAt_here {ctx bk : Nat} {who : FaultWho} (hn : isExternal x.loc = false) (hk : x.disc = false)
    (hb : Map.find s.blocks bk = none) (bs : List Byte) :
    s.writeAt ctx bk who x bs = s.putMem x.loc bs := by
  have hloc : x.loc < deviceEnd := by simpa [isExternal] using hn
  have hr : s.reinstate ctx who x = s := by simp [State.reinstate, hk]
  simp [State.writeAt, State.versioned_of_find_none hb, State.putAt, hr, State.putLoc, hloc, State.ownWrite, hb,
    State.putMem]

theorem State.logAppend_full (hp : p.length = 12) (hf : s.myLaunch.logSize < s.myLaunch.logPos + 32) :
    s.logAppend kind words W p = .kill 0xFFFE := by
  have he := pad16_entry (bs := s.logHeader kind words W ++ p) (by simp [hp])
  unfold State.logAppend
  dsimp only
  rw [he, if_pos (by simpa [hp] using hf)]

/-- An entry appended to the log: it stands in memory after the last one (R345). -/
theorem State.logAppend_placed (hp : p.length = 12) (h : LogPlaced s .write x) :
    s.logAppend kind words W p =
      .ok ((s.putMem x.loc (s.logHeader kind words W ++ p ++ leBytes 4 0)).logMoved 32) p := by
  have hl : (s.logHeader kind words W ++ p ++ leBytes 4 0).length = 32 := by simp [hp]
  have hd : s.deliver s.logger .write (s.myLaunch.logAddr + s.myLaunch.logPos)
      (s.logHeader kind words W ++ p ++ leBytes 4 0) =
      .ok (s.putMem x.loc (s.logHeader kind words W ++ p ++ leBytes 4 0)) := by
    have hw : s.rangeWalk s.logger.ctx .write (s.myLaunch.logAddr + s.myLaunch.logPos) 32 = .ok [(x, 32)] := h.walk
    have ha : s.waitsOn s.logger.ctx s.logger.who (s.myLaunch.logAddr + s.myLaunch.logPos) 32 = false := h.answered
    have ht : (s.logHeader kind words W ++ p ++ leBytes 4 0).take 32 = s.logHeader kind words W ++ p ++ leBytes 4 0 :=
      List.take_of_length_le hl.le
    simp only [State.deliver, hl, hw, ha, State.putPieces, ht, Bool.false_eq_true, if_false]
    exact congrArg Put.ok (State.writeAt_here h.near h.kept h.nobody _)
  unfold State.logAppend
  dsimp only
  rw [pad16_entry (by simp [hp]), hl, if_neg (by have := h.fits; omega), hd]

theorem State.logNext_full (hf : s.myLaunch.logSize < s.myLaunch.logPos + 32) :
    s.logNext kind words W 12 = .kill 0xFFFE := if_pos hf

/-- The next entry of the log, compared with what the executing instruction would have recorded (R345). -/
theorem State.logNext_placed (h : LogPlaced s .read x) :
    s.logNext kind words W 12 =
      if (s.mem.bytes x.loc 32).take 11 = s.logFront kind ∧ ((s.mem.bytes x.loc 32).drop 12).take 4 = leBytes 4 W.toNat
      then .ok (s.logMoved 32) (((s.mem.bytes x.loc 32).drop 16).take 12) else .kill 0xFFFF := by
  have hf : s.fetch s.logger (s.myLaunch.logAddr + s.myLaunch.logPos) 32 = .ok (s.mem.bytes x.loc 32) := by
    have hw : s.rangeWalk s.logger.ctx .read (s.myLaunch.logAddr + s.myLaunch.logPos) 32 = .ok [(x, 32)] := h.walk
    have ha : s.waitsOn s.logger.ctx s.logger.who (s.myLaunch.logAddr + s.myLaunch.logPos) 32 = false := h.answered
    have hv : s.version s.logger.bk = [] := by
      have : s.versioned s.logger.bk = false := State.versioned_of_find_none h.nobody
      simp [State.version, this]
    simp [State.fetch, hw, ha, State.pieceBytes, h.near, hv, State.leBytes_readAt s h.kept]
  have hc := compared_entry_iff s (Mem.bytes_length s.mem x.loc 32) kind words W
  unfold State.logNext
  dsimp only
  rw [if_neg (by have := h.fits; omega), hf]
  exact if_congr hc rfl rfl

end

@[simp] theorem State.logMoved_me (s : State) (n : Nat) : (s.logMoved n).me = s.me := rfl
@[simp] theorem State.logMoved_cur (s : State) (n : Nat) : (s.logMoved n).cur = s.cur := rfl
@[simp] theorem State.logMoved_mem (s : State) (n : Nat) : (s.logMoved n).mem = s.mem := rfl
@[simp] theorem State.logMoved_myBlock (s : State) (n : Nat) : (s.logMoved n).myBlock = s.myBlock := rfl

theorem State.logMoved_myLaunch (s : State) (n : Nat) :
    (s.logMoved n).myLaunch = { s.myLaunch with logPos := s.myLaunch.logPos + n } :=
  State.launch_setLaunch_same _ _ _

theorem State.advance_mem (s : State) : s.advance.mem = s.mem := by
  rw [State.advance, State.moveRun, State.retire_rest]
  rfl

/-- A step of a proof-mode launch is retired (R343). -/
theorem State.advance_launch {s : State} (hp : s.myLaunch.proof = true) :
    s.advance.launch s.myBlock.launch = { s.myLaunch with retired := s.myLaunch.retired + 1 } := by
  have hr : ∀ u : State, u.launches = s.launches →
      (u.retire s.myBlock.launch).launch s.myBlock.launch = { s.myLaunch with retired := s.myLaunch.retired + 1 } := by
    intro u hu
    have hl : u.launch s.myBlock.launch = s.myLaunch := by rw [State.launch, hu]; rfl
    unfold State.retire
    dsimp only
    rw [hl, if_pos hp]
    exact State.launch_setLaunch_same _ _ _
  exact hr _ rfl

/-- A run that has moved on past its entry of the log: its warp is `w`, its launch has an entry and a step more. -/
theorem State.advance_logMoved {s u : State} {w : Warp} (n : Nat) (hme : u.me = w) (hcur : u.cur = s.cur)
    (hblk : u.myBlock = s.myBlock) (hlch : u.myLaunch = s.myLaunch) (hl : w.lanes = s.me.lanes)
    (hp : s.myLaunch.proof = true) :
    Moves s (u.logMoved n).advance (fun _ => s.cur.next) ∧
      (u.logMoved n).advance.me = { w with lanes := (u.logMoved n).advance.me.lanes, waitCount := 0 } ∧
      (u.logMoved n).advance.launch s.myBlock.launch =
        { s.myLaunch with logPos := s.myLaunch.logPos + n, retired := s.myLaunch.retired + 1 } := by
  have ha : (u.logMoved n).advance.me = w.issued s.cur.run fun _ => s.cur.next := by
    rw [State.advance, State.moveRun_me, State.logMoved_me, State.logMoved_cur, hme, hcur]
  refine ⟨fun l => ?_, ?_, ?_⟩
  · rw [ha]
    have hi := Warp.issued_lane w s.cur.run (fun _ => s.cur.next) l
    rwa [hl] at hi
  · rw [ha]
    rfl
  · have hr := State.advance_launch (s := u.logMoved n) (by rw [State.logMoved_myLaunch, hlch]; exact hp)
    rwa [State.logMoved_myBlock, State.logMoved_myLaunch, hblk, hlch] at hr

/-! ### DETPT (R245, R345) -/

section
variable {s : State} {g : Guard} {a : Src} {tag : Imm16} {x : Xlat}

theorem exec_detpt (g : Guard) (a : Src) (tag : Imm16) (s : State) :
    exec (.detpt g a tag) s = execDetpt g a tag s := rfl

/-- Outside a recording or replaying run DETPT has no effect, and with an empty W none in such a run either. -/
theorem exec_detpt_off (hr : Readable s a.scalar (a.uses 1))
    (h : s.myLaunch.proof = false ∨ s.wset g = 0 ∨ (s.myLaunch.recording = false ∧ s.myLaunch.replay = false)) :
    exec (.detpt g a tag) s = .next (s.freed (a.uses 1)).advance := by
  simp only [exec_detpt, execDetpt, State.perform_go hr]
  rcases h with hp | hW | ⟨hrec, hrep⟩
  · simp [hp]
  · simp [hW]
  · simp [hrec, hrep]

section
variable (hr : Readable s a.scalar (a.uses 1)) (hp : s.myLaunch.proof = true) (hW : s.wset g ≠ 0)
include hr hp hW

/-- A recording run goes on with its entry appended, or is ended (R345). -/
theorem exec_detpt_recording (hrec : s.myLaunch.recording = true) :
    let act := (s.freed (a.uses 1)).logAppend 2 detWords (s.wset g) (detDigest tag (s.wset g) (s.me.src a))
    (∀ u q, act = .ok u q → exec (.detpt g a tag) s = .next u.advance) ∧
      ∀ d, act = .kill d → exec (.detpt g a tag) s = s.trapKill 0x16 d := by
  have hW' : (s.wset g == 0) = false := by simpa using hW
  simp only [exec_detpt, execDetpt, State.perform_go hr, hp, hW', hrec, Bool.not_true, Bool.or_false,
    Bool.false_eq_true, if_false, if_true]
  exact ⟨fun u q h => by rw [h], fun d h => by rw [h]⟩

/-- A replaying run compares the payload of its entry with its own, or is ended (R345). -/
theorem exec_detpt_replaying (hrec : s.myLaunch.recording = false) (hrep : s.myLaunch.replay = true) :
    let act := (s.freed (a.uses 1)).logNext 2 detWords (s.wset g) 12
    (∀ u q, act = .ok u q → exec (.detpt g a tag) s =
      if q = detDigest tag (s.wset g) (s.me.src a) then .next u.advance else s.trapKill 0x16 tag.toNat) ∧
      ∀ d, act = .kill d → exec (.detpt g a tag) s = s.trapKill 0x16 d := by
  have hW' : (s.wset g == 0) = false := by simpa using hW
  simp only [exec_detpt, execDetpt, State.perform_go hr, hp, hW', hrec, hrep, detDigest_length, Bool.not_true,
    Bool.or_false, Bool.false_eq_true, if_false, if_true]
  exact ⟨fun u q h => by rw [h], fun d h => by rw [h]⟩

/-- A log without room for the entry ends the launch. -/
theorem exec_detpt_full (hl : s.myLaunch.recording = true ∨ s.myLaunch.replay = true)
    (hf : s.myLaunch.logSize < s.myLaunch.logPos + 32) : exec (.detpt g a tag) s = s.trapKill 0x16 0xFFFE := by
  have hf' : (s.freed (a.uses 1)).myLaunch.logSize < (s.freed (a.uses 1)).myLaunch.logPos + 32 := by
    rwa [State.freed_myLaunch]
  cases hrec : s.myLaunch.recording with
  | true => exact (exec_detpt_recording hr hp hW hrec).2 _ (State.logAppend_full (detDigest_length _ _ _) hf')
  | false =>
    have hrep : s.myLaunch.replay = true := by simpa [hrec] using hl
    exact (exec_detpt_replaying hr hp hW hrec hrep).2 _ (State.logNext_full hf')

/-- The state of a recording run that has written its entry and moved past it. -/
theorem exec_detpt_recorded (hrec : s.myLaunch.recording = true) (hx : LogPlaced s .write x) :
    exec (.detpt g a tag) s =
      .next (((s.freed (a.uses 1)).putMem x.loc
        (s.logHeader 2 detWords (s.wset g) ++ detDigest tag (s.wset g) (s.me.src a) ++ leBytes 4 0)).logMoved 32).advance := by
  have h := State.logAppend_placed (kind := 2) (words := detWords) (W := s.wset g)
    (detDigest_length tag (s.wset g) (s.me.src a)) (hx.freed (a.uses 1))
  rw [State.logHeader_freed] at h
  exact (exec_detpt_recording hr hp hW hrec).1 _ _ h

section
variable (hrec : s.myLaunch.recording = false) (hrep : s.myLaunch.replay = true) (hx : LogPlaced s .read x)
include hrec hrep hx

/-- An entry of another step, warp, kind or mask ends the launch. -/
theorem exec_detpt_other_header (h : ¬((s.mem.bytes x.loc 32).take 11 = s.logFront 2 ∧
    ((s.mem.bytes x.loc 32).drop 12).take 4 = leBytes 4 (s.wset g).toNat)) :
    exec (.detpt g a tag) s = s.trapKill 0x16 0xFFFF := by
  have hn := State.logNext_placed (kind := 2) (words := detWords) (W := s.wset g) (hx.freed (a.uses 1))
  rw [State.logFront_freed, State.freed_mem, if_neg h] at hn
  exact (exec_detpt_replaying hr hp hW hrec hrep).2 _ hn

/-- The entry of this step passes where its tag and digest agree, and else ends the launch with the tag. -/
theorem exec_detpt_replayed (h : (s.mem.bytes x.loc 32).take 11 = s.logFront 2 ∧
    ((s.mem.bytes x.loc 32).drop 12).take 4 = leBytes 4 (s.wset g).toNat) :
    exec (.detpt g a tag) s =
      if ((s.mem.bytes x.loc 32).drop 16).take 12 = detDigest tag (s.wset g) (s.me.src a)
      then .next ((s.freed (a.uses 1)).logMoved 32).advance else s.trapKill 0x16 tag.toNat := by
  have hn := State.logNext_placed (kind := 2) (words := detWords) (W := s.wset g) (hx.freed (a.uses 1))
  rw [State.logFront_freed, State.freed_mem, if_pos h] at hn
  exact (exec_detpt_replaying hr hp hW hrec hrep).1 _ _ hn

end
end
end

/-! ### The statement -/

/-- Settles O21: CSRW by the register written, DETPT by what the launch does with its log. -/
theorem controlRegisterWrites : Obligations.ControlRegisterWrites := by
  intro s g num hi a tag
  dsimp only
  have hfl := Warp.free_lanes s.me (s.frees (a.uses 1) [])
  have hfb := Warp.free_blk s.me (s.frees (a.uses 1) [])
  refine ⟨fun hr hone hW => ?_, fun hr hm hW => ?_, fun hr hm hone => ?_, fun hc hm => ?_, fun hr h => ?_,
    fun hr hp hW => ?_⟩
  · have hd : s.me.differs a (s.wset g) = false := Warp.differs_eq_false_iff.mpr hone
    have hkepc := Warp.free_kepc s.me (s.frees (a.uses 1) [])
    refine ⟨?_, fun hh => ⟨?_, ?_, ?_⟩⟩
    · rw [← Warp.setCsr_kflags _ hi]
      exact csrw_steps hr (Warp.csrWritable_iff.mpr (.inl rfl)) hd hW
    · rw [← Warp.setCsr_kcause _ hi]
      exact csrw_steps hr (Warp.csrWritable_iff.mpr (.inr ⟨.inl rfl, hh⟩)) hd hW
    · rw [← hkepc, ← Warp.setCsr_kepc_low]
      exact csrw_steps hr (Warp.csrWritable_iff.mpr (.inr ⟨.inr rfl, hh⟩)) hd hW
    · rw [← hkepc, ← Warp.setCsr_kepc_high]
      exact csrw_steps hr (Warp.csrWritable_iff.mpr (.inr ⟨.inr rfl, hh⟩)) hd hW
  · exact steps_of_advance (exec_csrw_empty hr (Warp.csrWritable_iff.mpr hm) hW) hfb hfl
  · have hd : s.me.differs a (s.wset g) = true := by
      rw [← Bool.not_eq_false, Warp.differs_eq_false_iff]
      exact hone
    exact raises_of_trap (exec_csrw_differs hr (Warp.csrWritable_iff.mpr hm) hd) (by decide) (by decide)
  · have hm' : s.me.csrWritable num = false := by
      rw [← Bool.not_eq_true, Warp.csrWritable_iff]
      exact hm
    exact raises_of_trap (exec_csrw_protected hc hm') (by decide) (by decide)
  · exact steps_of_advance (exec_detpt_off hr h) hfb hfl
  · refine ⟨exec_detpt_full hr hp hW, fun hrec x ⟨hfit, hwalk, hnear, hkept, hans, hnone⟩ => ?_,
      fun hrec hrep x ⟨hfit, hwalk, hnear, hkept, hans, hnone⟩ => ?_⟩
    · have hx : LogPlaced s .write x := ⟨hfit, hwalk, hnear, hkept, hans, hnone⟩
      exact ⟨_, exec_detpt_recorded hr hp hW hrec hx,
        State.advance_logMoved 32 (by simp) (by simp) (by simp) (by simp) hfl hp, State.advance_mem _⟩
    · have hx : LogPlaced s .read x := ⟨hfit, hwalk, hnear, hkept, hans, hnone⟩
      refine ⟨fun hs he => ?_, fun hs he => ?_, exec_detpt_other_header hr hp hW hrec hrep hx⟩
      · exact ⟨_, (exec_detpt_replayed hr hp hW hrec hrep hx hs).trans (if_pos he),
          State.advance_logMoved 32 (by simp) (by simp) (by simp) (by simp) hfl hp, State.advance_mem _⟩
      · exact (exec_detpt_replayed hr hp hW hrec hrep hx hs).trans (if_neg he)

end Sys2Proof.Machine

/-! PROOFS. The machine after reset (O60), and the checks before an effect (O22): the detail of a trap record holds 16 bits. -/

namespace Sys2Proof.Machine

/-! ### The machine after reset (R441) -/

theorem State.queue_reset (q : Nat) : State.reset.queue q = Queue.reset := rfl
theorem State.ctx_reset (c : Nat) : State.reset.ctx c = Context.reset := rfl
theorem State.port_reset (p : Nat) : State.reset.port p = Port.reset := rfl

/-- Settles O60: no table lists an entry, so every queue, context and port reads as its reset value. -/
theorem resetState : Obligations.ResetState := by
  unfold Obligations.ResetState
  refine ⟨rfl, rfl, rfl, rfl, rfl, rfl, rfl, fun q => ?_, fun c => ?_, fun p => ?_, by decide⟩
  · rw [State.queue_reset]
    decide
  · rw [State.ctx_reset]
    decide
  · rw [State.port_reset]
    decide

/-! ### The detail of a trap record (R35) -/

/-- A handler finds at most 16 bits of detail in KCAUSE. -/
theorem Entered.detail_lt {s t : State} {run moved : LaneMask} {pc : Fin 32 → BitVec 55} {h : Fin 32 → Lane} {lane : Nat}
    {epc : VAddr} {code detail : Nat} (he : Entered s t run moved pc h lane epc code detail) : detail < 2 ^ 16 := by
  obtain ⟨-, -, -, hd⟩ := he.cause
  have := t.me.kcause.isLt
  omega

/-- A warp that waits for register 65536, in a launch with a handler. -/
def farRegisterState : State :=
  { State.reset with
    warps := [(0, { Warp.blank with vregs := [(65536, ⟨.n, 1⟩)] })]
    launches := [(0, { Launch.blank with lpb := List.replicate 8 0 ++ [1] })] }

/-- Refutes O22: the statement lets a source name any register number, and an empty register 65536 read with TE raises
EMPTYREAD with a detail that the 16 bits of KCAUSE cannot hold. -/
theorem not_checksBeforeEffect : ¬ Obligations.ChecksBeforeEffect := by
  intro h
  obtain ⟨-, -, hempty, -⟩ := h farRegisterState ⟨7, false⟩ 0 (.v 65536 false true) .zs .rn .zs .zs
  obtain ⟨hraise, -⟩ := hempty (by decide) ⟨65536, false, true⟩ (by decide) (by decide) (by decide)
  obtain ⟨t, -, he⟩ := (hraise rfl).1 (by decide) (by decide)
  exact absurd he.detail_lt (by decide)

end Sys2Proof.Machine

/-! PROOFS. What an instruction of the ordinary form leaves in a vector register, and O54, which follows from it. -/

namespace Sys2Proof.Machine

/-! ### The next state of a ready instruction -/

theorem LaneFlags.zero_trapping (en : Flags) (W : LaneMask) : LaneFlags.zero.trapping en W = 0 :=
  LaneFlags.trapping_zero _ _ _ fun l _ => by simp

theorem State.roomFor_of_ready {s : State} {W : LaneMask} {scalar : Bool} {us : List Use} {dests : List Nat} {e : Effect}
    (h : Ready s W scalar us dests) (hd : e.regs.map Prod.fst = dests) :
    s.roomFor (s.result W (s.frees us dests) e) (s.frees us dests) = true := by
  have hstore := State.gHeld_storeRegs s (s.me.free (s.frees us dests)) W s.me.live e
  have hresult : (s.result W (s.frees us dests) e).gHeld =
      (s.storeRegs (s.me.free (s.frees us dests)) W s.me.live e).gHeld := by
    unfold State.result Warp.gHeld
    dsimp only
    rw [Warp.writeOthers_eq]
  have hlen : e.regs.length = dests.length := by rw [← hd, List.length_map]
  exact State.slotsFor_mono _ _ _ _ _ (by omega) h.room

/-- A ready instruction without flags writes its results beside its effect outside the warp (R20, R24 to R29). -/
theorem State.operateThen_next {s : State} {W : LaneMask} {scalar : Bool} {us : List Use} {dests : List Nat} {e : Effect}
    (f : State → State) (h : Ready s W scalar us dests) (hd : e.regs.map Prod.fst = dests) (he : e.flags = LaneFlags.zero) :
    s.operateThen W scalar us .go dests e f = .next ((f s).setMe (s.result W (s.frees us dests) e)).advance := by
  unfold State.operateThen
  rw [h.readGate, h.destGate, he]
  simp only [Gate.and_go_right, LaneFlags.zero_trapping, ne_eq, not_true_eq_false, false_and, if_false]
  exact if_pos (State.roomFor_of_ready h hd)

/-! ### Storage written (R20, R21) -/

@[simp] theorem Storage.write_empty (old new : Storage) (whole x c : Bool) : old.write new 0 whole x c = old := if_pos rfl

theorem Storage.write_partial (old new : Storage) {W : LaneMask} (x c : Bool) (hW : W ≠ 0) :
    old.write new W false x c = .g (Lanes.of fun l => if W.getLsbD l.val then new.lane l else old.lane l) := if_neg hW

theorem Storage.isCompact_ofAffine (b t : Word) : (Storage.ofAffine b t).isCompact = true := by
  unfold Storage.ofAffine
  split <;> rfl

/-- A whole write of a shape that is compact stays so where an entry is free, and else takes a general slot. -/
theorem Storage.write_compact (old new : Storage) {W : LaneMask} (x c : Bool) (hW : W ≠ 0) (hn : new.isCompact = true) :
    old.write new W true x c = if c then new else .g new.lanes := by
  unfold Storage.write
  rw [if_neg hW, if_pos rfl]
  cases new with
  | n => cases hn
  | g v => cases hn
  | u y => cases c <;> simp [Storage.isCompact, Storage.tag]
  | a b k => cases c <;> simp [Storage.isCompact, Storage.tag]

/-- A whole write of general lanes is recovered when it covers all 32 lanes, unless EXPAND makes it (R21, R121). -/
theorem Storage.write_lanes (old : Storage) (v : Lanes) {W : LaneMask} (x : Bool) (hW : W ≠ 0) :
    old.write (.g v) W true x true = if W = LaneMask.all ∧ x = false then recover v else .g v := by
  unfold Storage.write
  rw [if_neg hW, if_pos rfl]
  by_cases hall : W = LaneMask.all <;> cases x <;> simp [hall]

theorem Storage.write_expand (old : Storage) (v : Lanes) {W : LaneMask} (c : Bool) (hW : W ≠ 0) :
    old.write (.g v) W true true c = .g v := by
  unfold Storage.write
  rw [if_neg hW, if_pos rfl]
  simp [Storage.isCompact, Storage.tag]

/-- Recovery leaves a general slot to the lanes that are no arithmetic progression (R21). -/
theorem recover_tag (v : Lanes) :
    (recover v).tag = 3 ↔ ¬∃ k : Word, ∀ l : Fin 32, v[l] = v[(0 : Fin 32)] + BitVec.ofNat 32 l.val * k := by
  have hlane := lane_recover v
  unfold recover at hlane ⊢
  dsimp only at hlane ⊢
  split at hlane
  next hall =>
    have htag : (Storage.ofAffine v[0] (v[1] - v[0])).tag ≠ 3 := by
      unfold Storage.ofAffine
      split <;> simp [Storage.tag]
    rw [if_pos hall]
    refine ⟨fun h => absurd h htag, fun h => absurd ⟨v[1] - v[0], fun l => ?_⟩ h⟩
    have := hlane l
    rw [Storage.lane_ofAffine] at this
    exact this.symm
  next hall =>
    rw [if_neg hall]
    refine ⟨fun _ ⟨k, hk⟩ => hall (List.all_eq_true.mpr fun l _ => ?_), fun _ => rfl⟩
    have hstep : ∀ n (h : n + 1 < 32), v[n + 1] - v[n] = k := by
      intro n h
      have h1 : v[n + 1] = v[0] + BitVec.ofNat 32 (n + 1) * k := hk ⟨n + 1, h⟩
      have h0 : v[n] = v[0] + BitVec.ofNat 32 n * k := hk ⟨n, by omega⟩
      rw [h1, h0, BitVec.ofNat_add, BitVec.add_mul, BitVec.one_mul]
      ring
    rw [hstep l.val (by omega), hstep 0 (by omega)]
    exact beq_self_eq_true _

/-! ### The storage that an instruction leaves -/

/-- Is a compact-file entry free for the result in register `d`, once LR has freed the sources? (R20, R27) -/
def State.compactRoom (s : State) (us : List Use) (d : Nat) : Bool :=
  let w := s.me.free (s.frees us [d])
  s.compactFree s.cur.slot (w.setVreg d ⟨.n, (w.vreg d).pend⟩)

/-- A ready instruction of one vector result leaves what R20 writes. -/
theorem leaves_of_compute {i : Instr} {s : State} {g : Guard} {scalar : Bool} {us : List Use} {d : Nat} {st : Storage}
    {x : Bool} (hi : exec i s = s.compute g scalar us { Effect.vec d st with expand := x })
    (hr : Ready s (s.wset g) scalar us [d]) :
    ∃ t, exec i s = .next t ∧ (t.me.vreg d).st =
      (s.me.vreg d).st.write st (s.wset g) (s.wset g == s.me.live) x (s.compactRoom us d) := by
  refine ⟨_, hi.trans (State.operateThen_next (e := { Effect.vec d st with expand := x }) id hr rfl rfl), ?_⟩
  have hfree : (s.me.free (s.frees us [d])).vreg d = s.me.vreg d := by
    rw [Warp.vreg_free, if_neg (State.frees_not_dest _ _ _ _ (List.mem_singleton_self d))]
  rw [State.advance, State.moveRun_me, Warp.issued_vreg, State.me_setMe, State.result, Warp.flags_vreg, Warp.writeOthers_eq,
    Warp.with_others]
  change ((s.storeReg s.cur.slot (s.me.free (s.frees us [d])) (s.wset g) (s.wset g == s.me.live) x d st).vreg d).st = _
  rw [State.storeReg, Warp.vreg_setVreg_same, hfree, State.compactRoom, hfree]

section
variable {i : Instr} {s : State} {g : Guard} {scalar : Bool} {us : List Use} {d : Nat} {st : Storage}
  (hi : exec i s = s.compute g scalar us (Effect.vec d st)) (hr : Ready s (s.wset g) scalar us [d])
include hi hr

theorem leaves_empty (hW : s.wset g = 0) : ∃ t, exec i s = .next t ∧ (t.me.vreg d).st = (s.me.vreg d).st := by
  obtain ⟨t, ht, hst⟩ := leaves_of_compute (x := false) hi hr
  exact ⟨t, ht, by rw [hst, hW, Storage.write_empty]⟩

theorem leaves_partial (hW : s.wset g ≠ 0) (hlive : s.wset g ≠ s.me.live) :
    ∃ t, exec i s = .next t ∧ (t.me.vreg d).st.tag = 3 := by
  obtain ⟨t, ht, hst⟩ := leaves_of_compute (x := false) hi hr
  refine ⟨t, ht, ?_⟩
  rw [hst, beq_false_of_ne hlive, Storage.write_partial _ _ _ _ hW]
  rfl

variable (hW : s.wset g ≠ 0) (hlive : s.wset g = s.me.live)
include hW hlive

theorem leaves_compact {new : Storage} (hst : st = new) (hn : new.isCompact = true) (hroom : s.compactRoom us d = true) :
    ∃ t, exec i s = .next t ∧ (t.me.vreg d).st = new := by
  obtain ⟨t, ht, he⟩ := leaves_of_compute (x := false) hi hr
  exact ⟨t, ht, by rw [he, beq_iff_eq.mpr hlive, hst, Storage.write_compact _ _ _ _ hW hn, hroom, if_pos rfl]⟩

theorem leaves_affine {b k : Word} (hst : st = Storage.ofAffine b k) (hroom : s.compactRoom us d = true) :
    ∃ t, exec i s = .next t ∧ (t.me.vreg d).st = Storage.ofAffine b k :=
  leaves_compact hi hr hW hlive hst (Storage.isCompact_ofAffine b k) hroom

theorem leaves_spilled (hn : st.isCompact = true) (hroom : s.compactRoom us d = false) :
    ∃ t, exec i s = .next t ∧ (t.me.vreg d).st = .g st.lanes := by
  obtain ⟨t, ht, hst⟩ := leaves_of_compute (x := false) hi hr
  refine ⟨t, ht, ?_⟩
  rw [hst, beq_iff_eq.mpr hlive, Storage.write_compact _ _ _ _ hW hn, hroom]
  rfl

theorem leaves_lanes {v : Lanes} (hn : st = .g v) (hroom : s.compactRoom us d = true) :
    ∃ t, exec i s = .next t ∧ (t.me.vreg d).st = if s.wset g = LaneMask.all then recover v else .g v := by
  obtain ⟨t, ht, hst⟩ := leaves_of_compute (x := false) hi hr
  refine ⟨t, ht, ?_⟩
  rw [hst, beq_iff_eq.mpr hlive, hn, hroom, Storage.write_lanes _ _ _ hW]
  simp

end

/-! ### U and A results (R91, R92) -/

section
variable {x y : Storage} {p q : Word × Word}

theorem Storage.sum_of_affine (f : Word → Word → Word) (hx : x.affine = some p) (hy : y.affine = some q) :
    Storage.sum f x y = Storage.ofAffine (f p.1 q.1) (f p.2 q.2) := by
  simp only [Storage.sum, hx, hy]

theorem Storage.sum_of_general (f : Word → Word → Word) (h : x.affine = none ∨ y.affine = none) :
    Storage.sum f x y = .g (Lanes.of fun l => f (x.lane l) (y.lane l)) := by
  unfold Storage.sum
  split
  · rename_i p q hp hq
    simp [hp, hq] at h
  · rfl

/-- A shape that counts as U holds its base in every lane. -/
theorem Storage.lane_of_uniform (hx : x.affine = some p) (hu : x.isU = true) (l : Fin 32) : x.lane l = p.1 := by
  rw [Storage.lane_of_affine x p hx, Storage.affine_isU x p hx hu]
  simp

theorem Storage.product_uniform_right (hx : x.affine = some p) (hy : y.affine = some q) (hu : y.isU = true) :
    x.product y = Storage.ofAffine (p.1 * q.1) (p.2 * q.1) := by
  simp only [Storage.product, hx, hy, hu, if_true]

theorem Storage.product_uniform_left (hx : x.affine = some p) (hy : y.affine = some q) (hu : x.isU = true) :
    x.product y = Storage.ofAffine (p.1 * q.1) (p.1 * q.2) := by
  simp only [Storage.product, hx, hy, hu, if_true]
  split
  next hv => simp [Storage.affine_isU x p hx hu, Storage.affine_isU y q hy hv]
  next => rfl

theorem Storage.shift_uniform (hx : x.affine = some p) (hy : y.affine = some q) (hu : y.isU = true) :
    x.shift y = Storage.ofAffine (p.1 <<< q.1.toNat) (p.2 <<< q.1.toNat) := by
  simp only [Storage.shift, hx, hu, Storage.lane_of_uniform hy hu, shiftLeft_eq]

theorem Storage.map2_uniform (f : Word → Word → Word) (hx : x.affine = some p) (hy : y.affine = some q) (hu : x.isU = true)
    (hv : y.isU = true) : Storage.map2 f x y = .u (f p.1 q.1) := by
  simp only [Storage.map2, hu, hv, Bool.and_self, if_true, Storage.lane_of_uniform hx hu, Storage.lane_of_uniform hy hv]

theorem Storage.lanes_sum_add (x y : Storage) :
    (Storage.sum (· + ·) x y).lanes = Lanes.of fun l => x.lane l + y.lane l :=
  congrArg Lanes.of (funext (Storage.lane_sum_add x y))

end

/-- Settles O54: each result by the shape of its operands, written as R20 and R21 have it. -/
theorem resultShapes : Obligations.ResultShapes := by
  intro s g d W
  refine ⟨fun a b => ?_, fun a hr hW hlive => ?_, fun v => ⟨fun l => lane_recover v l, recover_tag v⟩⟩
  intro us hr x y w room leaves
  refine ⟨?_, ?_, fun hW hlive => ⟨fun p q hx hy => ⟨fun hroom => ?_, fun hroom => ?_⟩, fun hnone => ?_⟩⟩
  · exact leaves_empty (i := .iadd g d a b) rfl hr
  · exact leaves_partial (i := .iadd g d a b) rfl hr
  · refine ⟨?_, ?_, fun hu => ?_, fun hu => ?_, fun hu => ?_, fun hu hv => ?_⟩
    · exact leaves_affine (i := .iadd g d a b) rfl hr hW hlive (Storage.sum_of_affine _ hx hy) hroom
    · exact leaves_affine (i := .isub g d a b) rfl hr hW hlive (Storage.sum_of_affine _ hx hy) hroom
    · exact leaves_affine (i := .imul g d a b) rfl hr hW hlive (Storage.product_uniform_right hx hy hu) hroom
    · exact leaves_affine (i := .imul g d a b) rfl hr hW hlive (Storage.product_uniform_left hx hy hu) hroom
    · exact leaves_affine (i := .shl g d a b) rfl hr hW hlive (Storage.shift_uniform hx hy hu) hroom
    · exact leaves_compact (i := .and g d a b) rfl hr hW hlive (Storage.map2_uniform _ hx hy hu hv) rfl hroom
  · rw [← Storage.lanes_sum_add]
    exact leaves_spilled (i := .iadd g d a b) rfl hr hW hlive
      (by rw [Storage.sum_of_affine _ hx hy]; exact Storage.isCompact_ofAffine _ _) hroom
  · intro v hroom
    exact leaves_lanes (i := .iadd g d a b) rfl hr hW hlive (Storage.sum_of_general _ hnone) hroom
  · obtain ⟨t, ht, hst⟩ := leaves_of_compute (i := .expand g d a) (x := true) rfl hr
    refine ⟨t, ht, ?_⟩
    rw [hst, beq_iff_eq.mpr hlive, Storage.write_expand _ _ _ hW]

end Sys2Proof.Machine

/-! PROOFS. O8: each instruction that reports the machine's own state is one of the ordinary form, and delivers a value that
signals nothing. -/

namespace Sys2Proof.Machine

/-! ### Results without flags -/

section
variable {i : Instr} {s : State} {g : Guard} {scalar : Bool} {us : List Use} {d : Nat}

theorem vecResult_plain {st : Storage} {f : Fin 32 → Word} (hi : exec i s = s.compute g scalar us (Effect.vec d st))
    (hl : ∀ l, st.lane l = f l) : VecResult i s g scalar us d fun l => plain (f l) :=
  vecResult_of_compute i s g scalar us d _ st false LaneFlags.zero hi hl LaneFlags.zero_get

theorem pairResult_plain {lo hi : Storage} {f : Fin 32 → Dword} (hx : exec i s = s.compute g scalar us (Effect.pair d lo hi))
    (hl : ∀ l, lo.lane l = (f l).truncate 32) (hh : ∀ l, hi.lane l = (f l >>> 32).truncate 32) :
    PairResult i s g scalar us d fun l => plain64 (f l) :=
  pairResult_of_compute i s g scalar us d _ lo hi LaneFlags.zero hx hl hh LaneFlags.zero_get

end

/-! ### SHAPE.pend (R120) -/

/-- Where an instruction without sources is ready, a result written at once is a result of the ordinary form. -/
theorem State.computeNow_eq_compute {s : State} {g : Guard} {d : Nat} {st : Storage}
    (h : Ready s (s.wset g) false [] [d]) :
    s.computeNow (s.wset g) (Effect.vec d st) = s.compute g false [] (Effect.vec d st) := by
  have hnone : s.frees [] [d] = [] := by simp [State.frees]
  have hpeak : s.me.peakGate s.myLaunch.regs (s.wset g) [d] = .go := by
    have := h.peak
    rwa [hnone] at this
  have hroom : s.roomFor (s.result (s.wset g) [] (Effect.vec d st)) [] = true := by
    have := State.roomFor_of_ready (e := Effect.vec d st) h rfl
    rwa [hnone] at this
  have hnext : s.compute g false [] (Effect.vec d st) = .next (s.setMe (s.result (s.wset g) [] (Effect.vec d st))).advance := by
    have := State.operateThen_next (e := Effect.vec d st) id h rfl rfl
    rw [hnone] at this
    exact this
  rw [hnext, State.computeNow]
  simp only [Effect.vec, List.map_cons, List.map_nil, hpeak]
  exact if_pos hroom

/-! ### Control registers, system values and links (R28, R241 to R243) -/

section
variable {s : State} {g : Guard} {d num : Nat} {hi : Bool}

theorem csrr_result {x : Word} (h : s.csr num hi = x) : VecResult (.csrr g d num hi) s g false [] d fun _ => plain x :=
  vecResult_plain (st := .u (s.csr num hi)) rfl fun _ => h

theorem State.csr_kepc_low : s.csr 0x003 false = s.me.kepc.truncate 32 := rfl

theorem State.csr_kepc_high : s.csr 0x003 true = (s.me.kepc >>> 32).truncate 32 := by
  apply BitVec.eq_of_toNat_eq
  simp [State.csr, Nat.shiftRight_eq_div_pow]

theorem State.csr_tvec_low : s.csr 0x004 false = BitVec.ofNat 32 s.myLaunch.tvec := by
  apply BitVec.eq_of_toNat_eq
  simp only [State.csr, Bool.false_eq_true, if_false, BitVec.toNat_ofNat]
  omega

/-- The twelve system values in the order of their numbers (R28). -/
theorem State.systemValue_eq (hn : num < 12) (l : Fin 32) :
    s.systemValue num l =
      [s.me.lanes[l].tx, s.me.lanes[l].ty, s.me.lanes[l].tz, (s.myLaunch.bid s.myBlock.n).1,
        (s.myLaunch.bid s.myBlock.n).2.1, (s.myLaunch.bid s.myBlock.n).2.2, l.val, s.me.index, s.myBlock.n, s.myCore,
        clusterOf s.myCore, s.rank s.myLaunch][num]! := by
  interval_cases num <;> rfl

/-- The top link of a thread as GETRET delivers it: its byte address, or all ones (R243). -/
def topLink (x : Lane) : Dword :=
  match x.stack with
  | [] => 0xFFFFFFFFFFFFFFFF
  | k :: _ => BitVec.ofNat 64 (4 * k.pc.toNat)

theorem zeroExtend_pcAddr (pc : BitVec 55) : (pcAddr pc).zeroExtend 64 = BitVec.ofNat 64 (4 * pc.toNat) := by
  apply BitVec.eq_of_toNat_eq
  have := pc.isLt
  simp only [pcAddr, BitVec.zeroExtend, BitVec.toNat_setWidth, BitVec.toNat_shiftLeft, BitVec.toNat_ofNat,
    Nat.shiftLeft_eq]
  omega

theorem topLink_eq (x : Lane) :
    (match x.stack.head? with
      | some k => (pcAddr k.pc).zeroExtend 64
      | none => BitVec.allOnes 64) = topLink x := by
  unfold topLink
  cases x.stack with
  | nil => rfl
  | cons k ks => exact zeroExtend_pcAddr k.pc

theorem getret_result : PairResult (.getret g d false) s g false [] d fun l => plain64 (topLink s.me.lanes[l]) :=
  pairResult_plain rfl
    (fun l => (Lanes.of_get _ l).trans (congrArg (BitVec.truncate 32) (topLink_eq _)))
    fun l => (Lanes.of_get _ l).trans (congrArg (fun x : Dword => (x >>> 32).truncate 32) (topLink_eq _))

end

theorem ofNat_high_half (n : Nat) : BitVec.ofNat 32 (n / 2 ^ 32) = ((BitVec.ofNat 64 n) >>> 32).truncate 32 := by
  apply BitVec.eq_of_toNat_eq
  simp only [BitVec.truncate_eq_setWidth, BitVec.toNat_setWidth, BitVec.toNat_ushiftRight, BitVec.toNat_ofNat,
    Nat.shiftRight_eq_div_pow]
  omega

theorem ofNat_low_half (n : Nat) : BitVec.ofNat 32 n = (BitVec.ofNat 64 n).truncate 32 := by
  apply BitVec.eq_of_toNat_eq
  simp only [BitVec.truncate_eq_setWidth, BitVec.toNat_setWidth, BitVec.toNat_ofNat]
  omega

/-- Settles O8: by the value that each instruction computes. -/
theorem stateReadResults : Obligations.StateReadResults := by
  refine ⟨fun s g d a => ?_, fun s g d a hr => ?_, fun s g d a => ?_, fun s g d num hn => ?_, fun s g d hi => csrr_result rfl,
    fun s g d hi => csrr_result rfl, fun s g d hi => csrr_result rfl, fun s g d => csrr_result State.csr_kepc_low,
    fun s g d => csrr_result State.csr_kepc_high, fun s g d hi => csrr_result rfl, fun s g d hi => csrr_result rfl,
    fun s g d => csrr_result State.csr_tvec_low, fun s g d => csrr_result rfl, fun s g d hi => csrr_result rfl,
    fun s g d hi => csrr_result rfl, fun s g d => ?_, fun s g d => ?_, fun s g d => getret_result⟩
  · refine vecResult_plain (st := .u (BitVec.ofNat 32 (s.me.vreg a.n).st.tag)) rfl fun _ => ?_
    cases (s.me.vreg a.n).st <;> rfl
  · exact vecResult_plain (State.computeNow_eq_compute hr) (fun _ => rfl) hr
  · exact vecResult_of_compute _ s g false (a.uses 1) d _ (.g (s.me.vreg a.n).st.lanes) true LaneFlags.zero rfl
      (Storage.lanes_get _) LaneFlags.zero_get
  · refine vecResult_plain rfl fun l => ?_
    rw [lane_recover, Lanes.of_get, State.systemValue_eq hn]
  · exact pairResult_plain (f := fun _ => BitVec.ofNat 64 s.clock) rfl (fun _ => ofNat_low_half _) fun _ => ofNat_high_half _
  · refine vecResult_plain rfl fun l => ?_
    rw [Storage.lane_g, Lanes.of_get]

end Sys2Proof.Machine

/-! PROOFS. Runs whose threads move apart, traps of a part of a run, and O19, which follows from them. -/

namespace Sys2Proof.Machine

/-! ### Runs that move thread by thread (R98) -/

/-- An instruction that rewrites the lanes of its warp alone and moves its run on. -/
theorem steps_of_moveRun {i : Instr} {s : State} {w v : Warp} {pc : Fin 32 → BitVec 55} {h : Fin 32 → Lane}
    (hi : exec i s = .next ((s.setMe v).moveRun pc)) (hv : v = { w with lanes := v.lanes }) (hb : w.blk = s.me.blk)
    (hl : ∀ l : Fin 32, h l = { v.lanes[l] with pc := if s.cur.run.getLsbD l.val then pc l else v.lanes[l].pc }) :
    Steps i s w h := by
  have hblk : v.blk = s.me.blk := by rw [hv, hb]
  have hme : ((s.setMe v).moveRun pc).me = v.issued s.cur.run pc := by
    rw [State.moveRun_me, State.me_setMe]
    rfl
  refine ⟨_, hi, ?_, fun l => ?_, State.moveRun_only s v pc hblk⟩
  · rw [hme, Warp.issued_rest, hv]
  · rw [hme, hl l]
    exact Warp.issued_lane v s.cur.run pc l

theorem addrPc_eq (a : VAddr) : addrPc a = a.extractLsb' 2 55 := by
  apply BitVec.eq_of_toNat_eq
  simp [addrPc, Nat.shiftRight_eq_div_pow]

/-! ### Links pushed and popped (R13, R131, R132) -/

theorem Warp.push_lane (w : Warp) (W : LaneMask) (k : Link) (l : Fin 32) :
    (w.push W k).lanes[l] = if W.getLsbD l.val then { w.lanes[l] with stack := k :: w.lanes[l].stack } else w.lanes[l] := by
  simp [Warp.push]

theorem Warp.pop_lane (w : Warp) (W : LaneMask) (l : Fin 32) :
    (w.pop W).lanes[l] = if W.getLsbD l.val then { w.lanes[l] with stack := w.lanes[l].stack.tail } else w.lanes[l] := by
  simp [Warp.pop]

section
variable {s : State} {g : Guard} {a : Src} {us : List Use}

/-- A thread after a call: moved, and with its link where it is of W (R131). -/
def State.calledLane (s : State) (W : LaneMask) (f : Fin 32 → VAddr) (l : Fin 32) : Lane :=
  let k := s.laneAt (fun l => if W.getLsbD l.val then (f l).extractLsb' 2 55 else s.cur.next) l
  if W.getLsbD l.val then { k with stack := ⟨s.cur.next, false⟩ :: s.me.lanes[l].stack } else k

theorem State.calledLane_eq (W : LaneMask) (f : Fin 32 → VAddr) {w : Warp} (hw : w.lanes = s.me.lanes) (l : Fin 32) :
    s.calledLane W f l = { (w.push W ⟨s.cur.next, false⟩).lanes[l] with
      pc := if s.cur.run.getLsbD l.val then (if W.getLsbD l.val then addrPc (f l) else s.cur.next)
        else (w.push W ⟨s.cur.next, false⟩).lanes[l].pc } := by
  rw [Warp.push_lane, addrPc_eq, hw]
  unfold State.calledLane State.laneAt
  dsimp only
  cases W.getLsbD l.val <;> simp

/-- The state once a call has passed its checks. -/
theorem State.freed_call (f : Fin 32 → VAddr) :
    (s.freed us).call (s.wset g) f =
      (s.setMe ((s.me.free (s.frees us [])).push (s.wset g) ⟨s.cur.next, false⟩)).moveRun
        fun l => if (s.wset g).getLsbD l.val then addrPc (f l) else s.cur.next := by
  unfold State.call State.jump
  rw [State.freed_me, State.setMe_freed]
  rfl

/-- An instruction whose meaning is a call. -/
theorem steps_of_call {i : Instr} (f : Fin 32 → VAddr) (hi : exec i s = .next ((s.freed us).call (s.wset g) f)) :
    Steps i s (s.me.free (s.frees us [])) (s.calledLane (s.wset g) f) :=
  steps_of_moveRun (hi.trans (congrArg Host.Outcome.next (State.freed_call f))) rfl (Warp.free_blk _ _)
    (State.calledLane_eq _ f (Warp.free_lanes _ _))

@[simp] theorem State.frees_nothing (s : State) (dests : List Nat) : s.frees [] dests = [] := by simp [State.frees]

@[simp] theorem Warp.free_nothing (w : Warp) : w.free [] = w := rfl

/-! ### The checks of calls (R15, R128 to R131) -/

theorem State.fullStacks_eq (W : LaneMask) :
    s.fullStacks W = (LaneMask.lanes W).countP fun l => decide (16 ≤ s.me.lanes[l].stack.length) :=
  List.countP_eq_length_filter.symm

theorem LaneMask.lanes_length_le (W : LaneMask) : (LaneMask.lanes W).length ≤ 32 :=
  (List.length_filter_le _ _).trans (by simp)

theorem State.fullStacks_lt (W : LaneMask) : s.fullStacks W < 2 ^ 16 := by
  have := (List.length_filter_le (fun l => decide (16 ≤ s.me.lanes[l].stack.length)) (LaneMask.lanes W)).trans
    (LaneMask.lanes_length_le W)
  unfold State.fullStacks
  omega

theorem State.callGate_go {W : LaneMask} (h : s.fullStacks W = 0) : s.callGate W = .go := by
  simp [State.callGate, h, Gate.trapIf]

theorem State.callGate_full {W : LaneMask} (h : s.fullStacks W ≠ 0) : s.callGate W = .trap 0x15 (s.fullStacks W) := by
  simp [State.callGate, h, Gate.trapIf]

theorem State.guardDiffers_eq_false (h : s.me.predUniform g.q = true ∨ s.wset g = 0 ∨ s.wset g = s.cur.run) :
    s.guardDiffers g = false := by
  unfold State.guardDiffers
  rcases h with h | h | h <;> simp [h]

/-- Aligned targets, and under `.uni` one guard and one target, pass the checks of a jump (R129, R130). -/
theorem State.jumpGate_go {uni : Bool}
    (ha : ∀ l : Fin 32, (s.wset g).getLsbD l.val = true → (s.regTarget a l).toNat % 4 = 0)
    (hu : uni = true → (s.me.predUniform g.q = true ∨ s.wset g = 0 ∨ s.wset g = s.cur.run) ∧
      ((s.me.src a).isU = true ∨
        ∀ l : Fin 32, (s.wset g).getLsbD l.val = true → (s.me.src a).lane l = (s.me.src a).lane (s.wset g).lowest)) :
    s.jumpGate g uni a = .go := by
  have halign : ((LaneMask.lanes (s.wset g)).any fun l => (s.regTarget a l).toNat % 4 != 0) = false := by
    simpa [LaneMask.mem_lanes] using ha
  have hguard : (uni && s.guardDiffers g) = false := by
    cases uni with
    | false => rfl
    | true => exact State.guardDiffers_eq_false (hu rfl).1
  have hone : (uni && !(s.me.src a).isU &&
      (LaneMask.lanes (s.wset g)).any fun l => (s.me.src a).lane l != (s.me.src a).lane (s.wset g).lowest) = false := by
    cases uni with
    | false => rfl
    | true => simpa [Warp.differs] using Warp.differs_eq_false_iff.mpr (hu rfl).2
  unfold State.jumpGate
  dsimp only
  rw [halign, hguard, hone]
  rfl

theorem exec_call (g : Guard) (off : Word) (s : State) : exec (.call g off) s = execCall g off s := rfl
theorem exec_calli (g : Guard) (uni : Bool) (a : Src) (s : State) : exec (.calli g uni a) s = execCalli g uni a s := rfl

theorem readable_nothing (s : State) : Readable s false [] := ⟨by simp, by simp⟩

theorem call_steps {off : Word} (h : s.fullStacks (s.wset g) = 0) :
    exec (.call g off) s = .next ((s.freed []).call (s.wset g) fun _ => relTarget s.cur.pc off) := by
  rw [exec_call, execCall, State.callGate_go h, State.perform_go (readable_nothing s)]

theorem call_full {off : Word} (h : s.fullStacks (s.wset g) ≠ 0) :
    exec (.call g off) s = s.trap 0x15 (s.fullStacks (s.wset g)) := by
  rw [exec_call, execCall, State.callGate_full h, State.perform_trap (readable_nothing s)]

section
variable {uni : Bool} (hr : Readable s a.scalar (a.uses 1)) (hj : s.jumpGate g uni a = .go)
include hr hj

theorem calli_steps (h : s.fullStacks (s.wset g) = 0) :
    exec (.calli g uni a) s = .next ((s.freed (a.uses 1)).call (s.wset g) (s.regTarget a)) := by
  rw [exec_calli, execCalli, hj, State.callGate_go h, Gate.and_go, State.perform_go hr]

theorem calli_full (h : s.fullStacks (s.wset g) ≠ 0) :
    exec (.calli g uni a) s = s.trap 0x15 (s.fullStacks (s.wset g)) := by
  rw [exec_calli, execCalli, hj, State.callGate_full h, Gate.and_go, State.perform_trap hr]

end

end

/-! ### A trap of a part of a run (R384) -/

section
variable {s : State} {v : Warp} {run moved : LaneMask} {pc : Fin 32 → BitVec 55} {lane : Fin 32} {epc : VAddr}
  {code detail : Nat} (hv : v = { s.me with lanes := v.lanes })
include hv

/-- With a handler named and none running, the trapping threads enter it and the others go where they are sent. -/
theorem State.trapEnter_entered (hc : code < 2 ^ 8) (hd : detail < 2 ^ 16) (ht : s.myLaunch.tvec ≠ 0)
    (hh : s.me.hndl = false) :
    Entered s ((s.setMe v).trapEnter s.cur.slot run moved pc lane.val epc code detail) run moved pc (fun l => v.lanes[l])
      lane.val epc code detail := by
  have hblk : v.blk = s.me.blk := by rw [hv]
  have hhndl : v.hndl = s.me.hndl := by rw [hv]
  have hme : (s.setMe v).warp s.cur.slot = v := State.me_setMe s v
  have hmine : (s.setMe v).launch ((s.setMe v).block v.blk).launch = s.myLaunch := by rw [hblk]; rfl
  have henter : (s.setMe v).trapEnter s.cur.slot run moved pc lane.val epc code detail =
      s.setMe (Warp.issued { v with
        kcause := causeWord code detail lane.val
        kepc := epc
        trapMask := run
        hndl := true
        tmask := true
        khbudget := 65536
        firstTrap := none } moved fun l =>
          if run.getLsbD l.val then addrPc (BitVec.ofNat 57 s.myLaunch.tvec) else pc l) := by
    unfold State.trapEnter
    simp only [hme, hmine, hhndl, hh, ht, decide_false, Bool.or_false, Bool.false_eq_true, if_false]
    exact State.setMe_setMe s v _
  rw [henter]
  generalize hw : Warp.issued _ moved _ = w
  constructor
  · rw [State.me_setMe, ← hw]
    exact causeWord_fields hc lane.isLt hd
  · rw [State.me_setMe, ← hw]; rfl
  · rw [State.me_setMe, ← hw]; rfl
  · rw [State.me_setMe, ← hw]; exact ⟨rfl, rfl, rfl⟩
  · intro l
    rw [State.me_setMe, ← hw]
    exact Warp.issued_lane _ _ _ l
  · rw [State.me_setMe, ← hw, Warp.issued_rest]
    rw [hv]
  · rfl
  · intro k hk
    exact Map.find_set_other _ _ _ _ hk
  · intro a
    rfl

/-- Without a handler, or within one, the block is killed. -/
theorem State.trapEnter_killed (h : s.myLaunch.tvec = 0 ∨ s.me.hndl = true) :
    (s.setMe v).trapEnter s.cur.slot run moved pc lane.val epc code detail =
      (s.setMe v).kill s.me.blk ⟨code, detail, lane.val, epc, run, s.me.hndl, s.me.index⟩ := by
  have hme : (s.setMe v).warp s.cur.slot = v := State.me_setMe s v
  have hg : (decide (s.myLaunch.tvec = 0) || s.me.hndl) = true := by simpa using h
  unfold State.trapEnter
  simp only [hme]
  rw [hv]
  exact if_pos hg

end

/-! ### Returns (R132) -/

section
variable {s : State} {g : Guard}

theorem State.emptyStacks_eq (W : LaneMask) :
    s.emptyStacks W = LaneMask.of fun l => W.getLsbD l.val && s.me.lanes[l].stack.isEmpty := by
  apply BitVec.eq_of_getLsbD_eq
  intro k hk
  have hof (p : Fin 32 → Bool) : (LaneMask.of p).getLsbD k = p ⟨k, hk⟩ := LaneMask.getLsbD_of p ⟨k, hk⟩
  rw [State.emptyStacks, BitVec.getLsbD_and, hof, hof]

/-- The warp of a return: the top links of the threads of W that have one are popped. -/
def State.returned (s : State) (W : LaneMask) : Warp := s.me.pop (W &&& ~~~s.emptyStacks W)

theorem State.returned_lane (W : LaneMask) (l : Fin 32) :
    (s.returned W).lanes[l] = if W.getLsbD l.val && !(s.emptyStacks W).getLsbD l.val
      then { s.me.lanes[l] with stack := s.me.lanes[l].stack.tail } else s.me.lanes[l] := by
  rw [State.returned, Warp.pop_lane, BitVec.getLsbD_and, BitVec.getLsbD_not]
  simp

theorem State.returned_pc (W : LaneMask) (l : Fin 32) : (s.returned W).lanes[l].pc = s.me.lanes[l].pc := by
  rw [State.returned_lane]
  split <;> rfl

/-- Where a return sends a thread of the run (R132). -/
def State.returnPc (s : State) (W : LaneMask) (l : Fin 32) : BitVec 55 :=
  if W.getLsbD l.val then (match s.me.lanes[l].stack with
    | k :: _ => k.pc
    | [] => 0) else s.cur.next

theorem exec_ret (g : Guard) (s : State) :
    exec (.ret g) s = .next (if s.emptyStacks (s.wset g) = 0
      then (s.setMe (s.returned (s.wset g))).moveRun (s.returnPc (s.wset g))
      else (s.setMe (s.returned (s.wset g))).trapEnter s.cur.slot (s.emptyStacks (s.wset g)) s.cur.run
        (s.returnPc (s.wset g)) (s.emptyStacks (s.wset g)).lowest.val s.cur.pc 0x0A
        (LaneMask.count (s.emptyStacks (s.wset g)))) := by
  have hpc : (fun l : Fin 32 => if (s.wset g).getLsbD l.val
      then ((s.me.lanes[l].stack.head?).map Link.pc).getD 0 else s.cur.next) = s.returnPc (s.wset g) := by
    funext l
    unfold State.returnPc
    cases s.me.lanes[l].stack <;> rfl
  change execRet g s = _
  unfold execRet
  dsimp only
  rw [hpc]
  split <;> rfl

end

/-- Settles O19: calls by the checks that they pass or fail, returns by whether a thread of W has no link. -/
theorem callsAndReturns : Obligations.CallsAndReturns := by
  intro s g off a W rel x called full agrees one aligned E back popped
  have hfull : s.fullStacks W = full := State.fullStacks_eq W
  have hE : s.emptyStacks W = E := State.emptyStacks_eq W
  have hpop (l : Fin 32) : (s.returned W).lanes[l] = popped l := by rw [State.returned_lane, hE]
  have hcount : LaneMask.count E < 2 ^ 16 := (LaneMask.lanes_length_le E).trans_lt (by decide)
  have hret := exec_ret g s
  rw [hE] at hret
  refine ⟨fun h => ?_, fun h => ?_, fun hr ha h => ⟨?_, fun hag ho => ?_⟩, fun hr ha h => ⟨?_, fun hag ho => ?_⟩,
    fun h => ?_, fun h ht hh => ⟨_, hret.trans (congrArg _ (if_neg h)), ?_⟩,
    fun h hk => ⟨s.setMe (s.returned W), rfl, hret.trans (congrArg _ ((if_neg h).trans (State.trapEnter_killed rfl hk)))⟩⟩
  · have := steps_of_call _ (call_steps (off := off) (hfull.trans h))
    rwa [State.frees_nothing, Warp.free_nothing] at this
  · rw [← hfull] at h ⊢
    exact raises_of_trap (call_full h) (by decide) (State.fullStacks_lt W)
  · exact steps_of_call _ (calli_steps hr (State.jumpGate_go ha (by simp)) (hfull.trans h))
  · exact steps_of_call _ (calli_steps hr (State.jumpGate_go ha fun _ => ⟨hag, ho⟩) (hfull.trans h))
  · rw [← hfull] at h ⊢
    exact raises_of_trap (calli_full hr (State.jumpGate_go ha (by simp)) h) (by decide) (State.fullStacks_lt W)
  · rw [← hfull] at h ⊢
    exact raises_of_trap (calli_full hr (State.jumpGate_go ha fun _ => ⟨hag, ho⟩) h) (by decide) (State.fullStacks_lt W)
  · refine steps_of_moveRun (hret.trans (congrArg _ (if_pos h))) rfl rfl fun l => ?_
    rw [State.returned_pc, hpop]
    rfl
  · have := State.trapEnter_entered (s := s) (v := s.returned W) (run := E) (moved := s.cur.run) (pc := s.returnPc W)
      (lane := E.lowest) (epc := s.cur.pc) (code := 0x0A) rfl (by decide) hcount ht hh
    rwa [funext hpop] at this

end Sys2Proof.Machine

/-! PROOFS. Core SRAM: where an address lies after a write, what a bank then holds, and what else may have changed
(R37, R180, R181). -/

namespace Sys2Proof.Machine

/-! ### An entry rewritten in place -/

theorem Map.mem_of_find {α : Type} {m : List (Nat × α)} {k : Nat} {x : α} (h : Map.find m k = some x) : (k, x) ∈ m := by
  induction m with
  | nil => cases h
  | cons p m ih =>
    rw [Map.find_cons] at h
    split at h
    next hp => exact List.mem_cons.mpr (.inl (by rw [← hp, ← Option.some.inj h]))
    next => exact List.mem_cons_of_mem _ (ih h)

theorem Map.find_isSome_of_mem {α : Type} {m : List (Nat × α)} {p : Nat × α} (h : p ∈ m) :
    (Map.find m p.1).isSome = true := by
  induction m with
  | nil => cases h
  | cons q m ih =>
    rw [Map.find_cons]
    split
    next => rfl
    next hq => exact ih ((List.mem_cons.mp h).resolve_left fun e => hq (by rw [e]))

theorem Map.erase_of_absent {α : Type} {m : List (Nat × α)} {k : Nat} (h : ∀ p ∈ m, p.1 ≠ k) : Map.erase m k = m :=
  List.filter_eq_self.mpr fun p hp => by simpa using h p hp

theorem Map.ins_of_lt {α : Type} {m : List (Nat × α)} {k : Nat} (v : α) (h : ∀ p ∈ m, k < p.1) :
    Map.ins m k v = (k, v) :: m := by
  cases m with
  | nil => rfl
  | cons p m => rw [Map.ins, if_pos (h p (by simp))]

/-- In a map whose keys rise, a key that is listed is written where it stands. -/
theorem Map.set_eq_map {α : Type} {m : List (Nat × α)} {k : Nat} {x : α} (f : α → α) (hm : Map.sorted m = true)
    (h : Map.find m k = some x) : Map.set m k (f x) = m.map fun p => (p.1, if p.1 = k then f p.2 else p.2) := by
  rw [Map.sorted_iff] at hm
  induction m with
  | nil => cases h
  | cons p m ih =>
    have hlt : ∀ q ∈ m, p.1 < q.1 := fun q hq => List.rel_of_pairwise_cons hm hq
    rw [Map.find_cons] at h
    split at h
    next hp =>
      subst hp
      obtain rfl := Option.some.inj h
      have hne : ∀ q ∈ m, q.1 ≠ p.1 := fun q hq => Nat.ne_of_gt (hlt q hq)
      have herase : Map.erase (p :: m) p.1 = m := by
        simpa [Map.erase] using Map.erase_of_absent hne
      have hrest : (m.map fun q => (q.1, if q.1 = p.1 then f q.2 else q.2)) = m :=
        (List.map_congr_left fun q hq => by rw [if_neg (hne q hq)]).trans (List.map_id' m)
      rw [Map.set, herase, Map.ins_of_lt _ hlt, List.map_cons, if_pos rfl, hrest]
    next hp =>
      have hk : p.1 < k := hlt _ (Map.mem_of_find h)
      have herase : Map.erase (p :: m) k = p :: Map.erase m k := by
        simp [Map.erase, hp]
      rw [Map.set, herase, Map.ins, if_neg (by omega), List.map_cons, if_neg hp, ← ih hm.of_cons h, Map.set]

/-! ### Banks -/

/-- Is there a store behind a bank: its block or segment is listed? -/
def State.hasBank (s : State) (b : Bank) : Prop :=
  match b with
  | .area bk => (Map.find s.blocks bk).isSome = true
  | .seg k => (Map.find s.segs k).isSome = true
  | .galley _ _ => True

/-- A bank written, and every other bank. -/
theorem State.bank_setBank {s : State} {b : Bank} (h : s.hasBank b) (m : Mem) (c : Bank) :
    (s.setBank b m).bank c = if c = b then m else s.bank c := by
  cases b with
  | area bk =>
    obtain ⟨x, hx⟩ := Option.isSome_iff_exists.mp h
    simp only [State.setBank, hx]
    cases c with
    | area j =>
      by_cases hj : j = bk
      · subst hj
        simp [State.bank]
      · simp [State.bank, hj, State.block_setBlock_other _ _ _ _ hj]
    | seg k => simp [State.bank, State.setBlock]
    | galley co lk => simp [State.bank]
  | seg k =>
    obtain ⟨x, hx⟩ := Option.isSome_iff_exists.mp h
    simp only [State.setBank, hx]
    cases c with
    | area j => simp [State.bank]
    | seg j =>
      by_cases hj : j = k
      · subst hj
        simp [State.bank, State.setSeg]
      · simp [State.bank, State.setSeg, hj, Map.find_set_other _ _ _ _ hj]
    | galley co lk => simp [State.bank]
  | galley co lk =>
    simp only [State.setBank]
    cases c with
    | area j => simp [State.bank]
    | seg j => simp [State.bank]
    | galley cj lj =>
      by_cases hc : cj = co
      · subst hc
        by_cases hl : lj = lk
        · subst hl
          simp [State.bank]
        · simp [State.bank, hl, Map.getD_set_other _ _ _ _ _ hl]
      · simp [State.bank, hc, State.core_setCore_other _ _ _ _ hc]

/-! ### Where an address lies -/

theorem State.block_setBank (s : State) (b : Bank) (m : Mem) (j : Nat) :
    (s.setBank b m).block j = { s.block j with area := ((s.setBank b m).block j).area } := by
  cases b with
  | area bk =>
    simp only [State.setBank]
    split
    next x hx =>
      by_cases hj : j = bk
      · subst hj
        rw [State.block_setBlock_same]
        simp [State.block, Map.getD, hx]
      · rw [State.block_setBlock_other _ _ _ _ hj]
    next => rfl
  | seg k =>
    simp only [State.setBank]
    split <;> rfl
  | galley co lk => rfl

theorem State.find_segs_setBank (s : State) (b : Bank) (m : Mem) (k : Nat) :
    (Map.find (s.setBank b m).segs k).map Segment.size = (Map.find s.segs k).map Segment.size := by
  cases b with
  | area bk =>
    simp only [State.setBank]
    split <;> rfl
  | seg j =>
    simp only [State.setBank]
    split
    next x hx =>
      by_cases hk : k = j
      · subst hk
        simp [State.setSeg, hx]
      · simp [State.setSeg, Map.find_set_other _ _ _ _ hk]
    next => rfl
  | galley co lk => rfl

theorem State.launches_setBank (s : State) (b : Bank) (m : Mem) : (s.setBank b m).launches = s.launches := by
  cases b with
  | area bk => simp only [State.setBank]; split <;> rfl
  | seg k => simp only [State.setBank]; split <;> rfl
  | galley co lk => rfl

/-- The blocks after a bank is written: each with its fields, its area apart, in the same place. -/
theorem State.blocks_setBank {s : State} (hs : Map.sorted s.blocks = true) (b : Bank) (m : Mem) :
    ∃ f : Nat × Block → Mem, (s.setBank b m).blocks = s.blocks.map fun p => (p.1, { p.2 with area := f p }) := by
  have hsame : s.blocks = s.blocks.map fun p => (p.1, { p.2 with area := p.2.area }) := (List.map_id' _).symm
  cases b with
  | area bk =>
    cases hx : Map.find s.blocks bk with
    | none => exact ⟨fun p => p.2.area, by simpa only [State.setBank, hx] using hsame⟩
    | some x =>
      refine ⟨fun p => if p.1 = bk then m else p.2.area, ?_⟩
      simp only [State.setBank, hx, State.setBlock, Map.set_eq_map (fun x => { x with area := m }) hs hx]
      refine List.map_congr_left fun p _ => ?_
      by_cases hp : p.1 = bk <;> simp [hp]
  | seg k => exact ⟨fun p => p.2.area, by simp only [State.setBank]; split <;> exact hsame⟩
  | galley co lk => exact ⟨fun p => p.2.area, hsame⟩

theorem State.sorted_setBank {s : State} (hs : Map.sorted s.blocks = true) (b : Bank) (m : Mem) :
    Map.sorted (s.setBank b m).blocks = true := by
  obtain ⟨f, hf⟩ := State.blocks_setBank hs b m
  rw [Map.sorted_iff] at hs ⊢
  rw [hf, List.pairwise_map]
  exact hs

theorem State.member_setBank {s : State} (hs : Map.sorted s.blocks = true) (b : Bank) (m : Mem) (bk j : Nat) :
    (s.setBank b m).member bk j = s.member bk j := by
  obtain ⟨f, hf⟩ := State.blocks_setBank hs b m
  have hfind (l n : Nat) : (((s.setBank b m).launchBlocks l).find? fun p => p.2.n == n).map Prod.fst =
      ((s.launchBlocks l).find? fun p => p.2.n == n).map Prod.fst := by
    simp only [State.launchBlocks, hf, List.find?_filter, List.find?_map, Option.map_map]
    rfl
  have hl (k : Nat) : (s.setBank b m).launch k = s.launch k := by rw [State.launch, State.launches_setBank]; rfl
  obtain ⟨x, hx⟩ : ∃ x, (s.setBank b m).block bk = { s.block bk with area := x } := ⟨_, State.block_setBank s b m bk⟩
  unfold State.member
  simp only [hx, hl, hfind]

/-- A write of core SRAM moves no address (R37). -/
theorem State.sram_setBank {s : State} (hs : Map.sorted s.blocks = true) (b : Bank) (m : Mem) (bk addr n : Nat) :
    (s.setBank b m).sram bk addr n = s.sram bk addr n := by
  have hl (k : Nat) : (s.setBank b m).launch k = s.launch k := by rw [State.launch, State.launches_setBank]; rfl
  obtain ⟨x, hx⟩ : ∃ x, (s.setBank b m).block bk = { s.block bk with area := x } := ⟨_, State.block_setBank s b m bk⟩
  unfold State.sram
  simp only [hx, hl, State.member_setBank hs, State.find_segs_setBank]

theorem State.hasBank_setBank {s : State} {b c : Bank} (m : Mem) (h : s.hasBank c) : (s.setBank b m).hasBank c := by
  have hset {α : Type} (l : List (Nat × α)) (j k : Nat) (v : α) (hk : (Map.find l k).isSome = true) :
      (Map.find (Map.set l j v) k).isSome = true := by
    by_cases hj : k = j
    · subst hj
      simp
    · rwa [Map.find_set_other _ _ _ _ hj]
  cases b with
  | area bk =>
    simp only [State.setBank]
    split
    next =>
      cases c with
      | area _ => exact hset _ _ _ _ h
      | seg _ => exact h
      | galley _ _ => exact h
    next => exact h
  | seg k =>
    simp only [State.setBank]
    split
    next =>
      cases c with
      | area _ => exact h
      | seg _ => exact hset _ _ _ _ h
      | galley _ _ => exact h
    next => exact h
  | galley co lk => cases c <;> exact h

theorem within_ok {b c : Bank} {off o n limit : Nat} (h : within b off n limit = .ok c o) : b = c ∧ off + n ≤ limit := by
  unfold within at h
  split at h
  next hle => exact ⟨(Sram.ok.inj h).1, by omega⟩
  next => cases h

theorem State.member_listed {s : State} {bk j m : Nat} (h : s.member bk j = some m) : (Map.find s.blocks m).isSome = true := by
  unfold State.member at h
  dsimp only at h
  split at h
  next =>
    obtain ⟨p, hp, rfl⟩ := Option.map_eq_some_iff.mp h
    have hmem : p ∈ s.blocks := (List.mem_filter.mp (List.mem_of_find?_eq_some hp)).1
    exact Map.find_isSome_of_mem hmem
  next => cases h

/-- What lies at an address of core SRAM is listed (R37). -/
theorem State.hasBank_of_sram {s : State} {bk addr n : Nat} {b : Bank} {off : Nat} (hn : 1 ≤ n)
    (hbk : (Map.find s.blocks bk).isSome = true) (h : s.sram bk addr n = .ok b off) : s.hasBank b := by
  unfold State.sram at h
  dsimp only at h
  split at h
  next => exact (within_ok h).1 ▸ hbk
  next =>
    split at h
    next => cases h
    next =>
      split at h
      next k _ =>
        obtain ⟨rfl, hle⟩ := within_ok h
        cases hk : Map.find s.segs k with
        | none => simp [hk] at hle; omega
        | some x => exact Option.isSome_iff_exists.mpr ⟨x, hk⟩
      next => cases h
  next =>
    split at h
    next => cases h
    next =>
      split at h
      next m hm => exact (within_ok h).1 ▸ State.member_listed hm
      next => cases h
  next => exact (within_ok h).1 ▸ trivial
  next => cases h

/-! ### Lanes that store in turn (R180) -/

/-- One lane's turn in the stores of core SRAM, at the place that its address has in `s`. -/
def State.bankStep (s : State) (bk n : Nat) (addr : Fin 32 → Nat) (f : Fin 32 → Nat → Nat) (m : Bank → Mem) (l : Fin 32) :
    Bank → Mem :=
  match s.sram bk (addr l) n with
  | .ok b off => fun c => if c = b then (m b).write off n (f l ((m b).read off n)) else m c
  | _ => m

theorem State.banksAfter_eq (s : State) (bk n : Nat) (addr : Fin 32 → Nat) (f : Fin 32 → Nat → Nat) (ls : List (Fin 32)) :
    s.banksAfter bk n addr f ls = ls.foldl (s.bankStep bk n addr f) s.bank := rfl

/-- Stores of core SRAM written by lanes in order hold what the lanes leave one after another. -/
theorem State.bank_sramPuts {s : State} {bk n : Nat} (hn : 1 ≤ n) (hbk : (Map.find s.blocks bk).isSome = true)
    (hs : Map.sorted s.blocks = true) (addr v : Fin 32 → Nat) (ls : List (Fin 32)) :
    (ls.foldl (fun t l => t.sramPut bk (addr l) n (v l)) s).bank = s.banksAfter bk n addr (fun l _ => v l) ls := by
  suffices h : ∀ (t : State) (m : Bank → Mem), Map.sorted t.blocks = true →
      (∀ a k, t.sram bk a k = s.sram bk a k) → (∀ b, s.hasBank b → t.hasBank b) → t.bank = m →
      (ls.foldl (fun t l => t.sramPut bk (addr l) n (v l)) t).bank = ls.foldl (s.bankStep bk n addr fun l _ => v l) m from
    h s s.bank hs (fun _ _ => rfl) (fun _ h => h) rfl
  induction ls with
  | nil => intro t m _ _ _ hm; exact hm
  | cons l ls ih =>
    intro t m ht hsram hbank hm
    rw [List.foldl_cons, List.foldl_cons]
    unfold State.sramPut State.bankStep
    rw [hsram]
    cases hx : s.sram bk (addr l) n with
    | ok b off =>
      have hb : t.hasBank b := hbank b (State.hasBank_of_sram hn hbk hx)
      refine ih _ _ (State.sorted_setBank ht _ _) (fun a k => (State.sram_setBank ht _ _ _ _ _).trans (hsram a k))
        (fun c hc => State.hasBank_setBank _ (hbank c hc)) ?_
      funext c
      rw [← hm]
      exact State.bank_setBank hb _ c
    | prot => exact ih _ _ ht hsram hbank hm
    | out => exact ih _ _ ht hsram hbank hm

/-! ### What a store leaves unchanged -/

/-- Everything but the bytes of core SRAM is as before. -/
structure SramWritten (s t : State) : Prop where
  rest : t = { s with cores := t.cores, blocks := t.blocks, segs := t.segs }
  cores : ∀ c, t.core c = { s.core c with galleys := (t.core c).galleys }
  blocks : ∀ b, t.block b = { s.block b with area := (t.block b).area }

theorem SramWritten.refl (s : State) : SramWritten s s := ⟨rfl, fun _ => rfl, fun _ => rfl⟩

theorem SramWritten.trans {s t u : State} (h : SramWritten s t) (k : SramWritten t u) : SramWritten s u :=
  ⟨by rw [k.rest, h.rest], fun c => by rw [k.cores, h.cores], fun b => by rw [k.blocks, h.blocks]⟩

theorem State.setBank_written (s : State) (b : Bank) (m : Mem) : SramWritten s (s.setBank b m) := by
  refine ⟨?_, ?_, State.block_setBank s b m⟩
  · cases b with
    | area bk => simp only [State.setBank]; split <;> rfl
    | seg k => simp only [State.setBank]; split <;> rfl
    | galley co lk => rfl
  · intro c
    cases b with
    | area bk => simp only [State.setBank]; split <;> rfl
    | seg k => simp only [State.setBank]; split <;> rfl
    | galley co lk =>
      by_cases hc : c = co
      · subst hc
        simp [State.setBank]
      · simp [State.setBank, State.core_setCore_other _ _ _ _ hc]

theorem State.sramPut_written (s : State) (bk addr n v : Nat) : SramWritten s (s.sramPut bk addr n v) := by
  unfold State.sramPut
  split
  next => exact State.setBank_written s _ _
  next => exact SramWritten.refl s

theorem State.sramPuts_written (s : State) (bk n : Nat) (addr v : Fin 32 → Nat) (ls : List (Fin 32)) :
    SramWritten s (ls.foldl (fun t l => t.sramPut bk (addr l) n (v l)) s) := by
  induction ls generalizing s with
  | nil => exact SramWritten.refl s
  | cons l ls ih => exact (State.sramPut_written s _ _ _ _).trans (ih _)

end Sys2Proof.Machine

/-! PROOFS. Long-latency producers that have issued, and loads and stores of core SRAM (O25). -/

namespace Sys2Proof.Machine

/-! ### The threads of a run that has moved -/

theorem moves_of_me {s t : State} {v : Warp} {pc : Fin 32 → BitVec 55} (ht : t.me = v.issued s.cur.run pc)
    (hl : v.lanes = s.me.lanes) : Moves s t pc := by
  intro l
  rw [ht]
  have := Warp.issued_lane v s.cur.run pc l
  rwa [hl] at this

theorem State.advance_me (s : State) (w : Warp) : ((s.setMe w).advance).me = w.issued s.cur.run fun _ => s.cur.next := by
  rw [State.advance, State.moveRun_me, State.me_setMe]
  rfl

/-! ### Results in flight (R23) -/

section
variable (w : Warp) (W held : LaneMask) (whole : Bool)

theorem Warp.launchReg_vreg (flags : Flags) (d : Nat) (st : Storage) (n : Nat) :
    (w.launchReg W held whole flags d st).vreg n =
      if n = d then ⟨(w.vreg n).st, (w.vreg n).pend ||| W⟩ else w.vreg n := by
  change (w.setVreg d { w.vreg d with pend := (w.vreg d).pend ||| W }).vreg n = _
  by_cases h : n = d
  · subst h
    rw [Warp.vreg_setVreg_same, if_pos rfl]
  · rw [Warp.vreg_setVreg_other _ _ _ _ h, if_neg h]

theorem Warp.foldl_launchReg (rs : List (Nat × Storage)) :
    rs.foldl (fun w r => w.launchReg W held whole 0 r.1 r.2) w =
      { w with
        vregs := (rs.foldl (fun w r => w.launchReg W held whole 0 r.1 r.2) w).vregs
        inflight := w.inflight ++ rs.map fun r => ⟨r.1, W, held, r.2, W, whole, 0⟩ } := by
  induction rs generalizing w with
  | nil => simp
  | cons r rs ih =>
    rw [List.foldl_cons, ih]
    simp [Warp.launchReg, Warp.setVreg]

theorem Warp.foldl_launchReg_vreg (rs : List (Nat × Storage)) (n : Nat) :
    (rs.foldl (fun w r => w.launchReg W held whole 0 r.1 r.2) w).vreg n =
      if n ∈ rs.map Prod.fst then ⟨(w.vreg n).st, (w.vreg n).pend ||| W⟩ else w.vreg n := by
  induction rs generalizing w with
  | nil => simp
  | cons r rs ih =>
    rw [List.foldl_cons, ih, Warp.launchReg_vreg]
    by_cases hn : n = r.1 <;> by_cases hr : n ∈ rs.map Prod.fst <;> simp [hn, hr, BitVec.or_assoc]

/-- The warp after a producer has issued: its registers and its results in flight have changed. -/
theorem Warp.launchRegs_rest (flags : Flags) (rs : List (Nat × Storage)) :
    w.launchRegs W held whole flags rs =
      { w with
        vregs := (w.launchRegs W held whole flags rs).vregs
        inflight := w.inflight ++ rs.mapIdx fun k r => ⟨r.1, W, held, r.2, W, whole, if k = 0 then flags else 0⟩ } := by
  cases rs with
  | nil => simp [Warp.launchRegs]
  | cons r rs =>
    rw [Warp.launchRegs, Warp.foldl_launchReg]
    have hrest : (rs.mapIdx fun k r => (⟨r.1, W, held, r.2, W, whole, if k + 1 = 0 then flags else 0⟩ : Inflight)) =
        rs.map fun r => ⟨r.1, W, held, r.2, W, whole, 0⟩ := List.ext_getElem (by simp) (by simp)
    rw [List.mapIdx_cons, hrest]
    simp [Warp.launchReg, Warp.setVreg]

theorem Warp.launchRegs_vreg (flags : Flags) (rs : List (Nat × Storage)) (n : Nat) :
    (w.launchRegs W held whole flags rs).vreg n =
      if n ∈ rs.map Prod.fst then ⟨(w.vreg n).st, (w.vreg n).pend ||| W⟩ else w.vreg n := by
  cases rs with
  | nil => simp [Warp.launchRegs]
  | cons r rs =>
    rw [Warp.launchRegs, Warp.foldl_launchReg_vreg, Warp.launchReg_vreg]
    by_cases hn : n = r.1 <;> by_cases hr : n ∈ rs.map Prod.fst <;> simp [hn, hr, BitVec.or_assoc]

end

section
variable {i : Instr} {s u : State} {W held : LaneMask} {us : List Use} {regs : List (Nat × Storage)}
  {rs : List (Nat × (Fin 32 → Word))} {flags : Flags} {frame : State → Prop}

/-- The warp of a long-latency producer once it has issued: LR has freed its sources, and its results are in flight. -/
def State.launched (s : State) (W held : LaneMask) (us : List Use) (regs : List (Nat × Storage)) (flags : Flags) : Warp :=
  let w := s.me.free (s.frees us (regs.map Prod.fst))
  if W = 0 then w else w.launchRegs W held (W == s.me.live) flags regs

theorem State.launched_rest :
    s.launched W held us regs flags = { s.me with
      vregs := (s.launched W held us regs flags).vregs
      inflight := s.me.inflight ++ (if W = 0 then [] else
        regs.mapIdx fun k r => ⟨r.1, W, held, r.2, W, W == s.me.live, if k = 0 then flags else 0⟩) } := by
  unfold State.launched
  dsimp only
  split
  next => rw [List.append_nil, Warp.free_rest]
  next => rw [Warp.launchRegs_rest, Warp.free_rest]

theorem State.launched_vreg (n : Nat) :
    (s.launched W held us regs flags).vreg n =
      if n ∈ regs.map Prod.fst then ⟨(s.me.vreg n).st, (s.me.vreg n).pend ||| W⟩
      else if n ∈ s.frees us (regs.map Prod.fst) then ⟨.n, 0⟩ else s.me.vreg n := by
  have hfree : n ∈ regs.map Prod.fst → n ∉ s.frees us (regs.map Prod.fst) := State.frees_not_dest s us _ n
  unfold State.launched
  dsimp only
  split
  next hW =>
    rw [Warp.vreg_free, hW]
    by_cases hd : n ∈ regs.map Prod.fst
    · simp [hfree hd, hd]
    · rw [if_neg hd]
  next =>
    rw [Warp.launchRegs_vreg, Warp.vreg_free]
    by_cases hd : n ∈ regs.map Prod.fst
    · rw [if_neg (hfree hd)]
    · simp only [hd, if_false]

/-- A producer that leaves its warp with its results in flight, `u` being the machine beside it. -/
theorem inFlight_of_launched (hi : exec i s = .next (u.setMe (s.launched W held us regs flags)).advance) (hcur : u.cur = s.cur)
    (hfst : rs.map Prod.fst = regs.map Prod.fst)
    (hlane : ∀ k (h : k < rs.length) (h' : k < regs.length) (l : Fin 32), W.getLsbD l.val = true → held.getLsbD l.val = false →
      regs[k].2.lane l = rs[k].2 l)
    (hframe : frame (u.setMe (s.launched W held us regs flags)).advance) :
    InFlight i s W held (s.frees us (rs.map Prod.fst)) rs flags frame := by
  have hlen : rs.length = regs.length := by simpa using congrArg List.length hfst
  have hme : (u.setMe (s.launched W held us regs flags)).advance.me =
      (s.launched W held us regs flags).issued s.cur.run fun _ => s.cur.next := by rw [State.advance_me, hcur]
  have hvreg (n : Nat) : (u.setMe (s.launched W held us regs flags)).advance.me.vreg n =
      (s.launched W held us regs flags).vreg n := by rw [hme, Warp.issued_vreg]
  refine ⟨_, regs.map Prod.snd, hi, moves_of_me hme (by rw [State.launched_rest]), hframe, by simp [hlen],
    fun k h h' l hW hh => ?_, ?_, fun n hn => ?_, fun r hr => ?_, ?_⟩
  · rw [List.getElem_map]
    exact hlane k h (hlen ▸ h) l hW hh
  · rw [hme, Warp.issued_rest, State.launched_rest]
  · rw [hfst] at hn ⊢
    rw [hvreg, State.launched_vreg, if_neg hn]
  · have hr' : r.1 ∈ regs.map Prod.fst := hfst ▸ List.mem_map_of_mem hr
    rw [hvreg, State.launched_vreg, if_pos hr']
  · have hzip : ((rs.zip (regs.map Prod.snd)).mapIdx fun k p =>
        (⟨p.1.1, W, held, p.2, W, W == s.me.live, if k = 0 then flags else 0⟩ : Inflight)) =
        regs.mapIdx fun k r => ⟨r.1, W, held, r.2, W, W == s.me.live, if k = 0 then flags else 0⟩ := by
      refine List.ext_getElem (by simp [hlen]) fun k h h' => ?_
      have hk : (rs.map Prod.fst)[k]'(by simpa [hlen] using h) = (regs.map Prod.fst)[k]'(by simpa using h') := by simp only [hfst]
      simpa using hk
    rw [hme, Warp.issued_rest, State.launched_rest, hzip]

theorem State.deliverRegs_launched {fl : LaneFlags} (hp : s.myLaunch.proof = false) (hu : u.me = s.me) :
    s.deliverRegs u W held us regs fl = .next (u.setMe (s.launched W held us regs (fl.of W))).advance := by
  unfold State.deliverRegs State.launched
  simp only [hp, hu, Bool.false_eq_true, if_false]

end

theorem LaneFlags.of_zero (W : LaneMask) : LaneFlags.zero.of W = 0 := by
  rw [LaneFlags.of_eq]
  simp only [LaneFlags.zero_get, flagsOf]
  induction LaneMask.lanes W with
  | nil => rfl
  | cons l ls ih => simp

/-! ### The lowest thread of a mask -/

theorem finRange_filter_eq : ∀ a : Fin 32, (List.finRange 32).filter (fun l => l == a) = [a] := by decide

theorem LaneMask.lowest_mem {W : LaneMask} (h : W ≠ 0) : W.getLsbD W.lowest.val = true := by
  refine LaneMask.mem_lanes.mp ?_
  unfold LaneMask.lowest
  cases hls : LaneMask.lanes W with
  | nil =>
    refine absurd (BitVec.eq_of_getLsbD_eq fun i hi => ?_) h
    have : (⟨i, hi⟩ : Fin 32) ∉ LaneMask.lanes W := by simp [hls]
    simpa [LaneMask.mem_lanes] using this
  | cons k ks => simp

theorem LaneMask.lanes_lowest {W : LaneMask} (h : W ≠ 0) : LaneMask.lanes (W &&& LaneMask.one W.lowest) = [W.lowest] := by
  rw [← finRange_filter_eq]
  refine List.filter_congr fun l _ => ?_
  rw [BitVec.getLsbD_and, LaneMask.one, LaneMask.getLsbD_of]
  by_cases hl : l = W.lowest
  · rw [hl, LaneMask.lowest_mem h]
    rfl
  · simp [hl]

theorem LaneMask.lanes_empty (m : LaneMask) : LaneMask.lanes (0 &&& m) = [] := by
  simp [LaneMask.lanes]

/-! ### LDS and STS (R184 to R186) -/

theorem Width.bytes_pos (wid : Width) : 1 ≤ widthBytes wid := by cases wid <;> decide

theorem Warp.sramAt_eq (w : Warp) (a : Src) (off : Word) :
    w.sramAt a off = fun l => (((w.src a).lane l).toNat + off.toNat) % 2 ^ 32 :=
  funext fun _ => BitVec.toNat_add _ _

/-- A lane reads what stands at its address when no lane has stored. -/
theorem State.bankBefore_none (s : State) (bk n : Nat) (addr : Fin 32 → Nat) (f : Fin 32 → Nat → Nat) (l : Fin 32) :
    s.bankBefore bk n addr f 0 l = s.sramNat bk (addr l) n := rfl

theorem loadWord_eq (wid : Width) (v k : Nat) :
    loadWord wid v k = loadedWord (wid == .s8 || wid == .s16) (widthBytes wid) v k := by
  cases wid <;> rfl

theorem regGroup_eq (d : Nat) (wid : Width) {β : Type} (f : Nat → β) :
    ((List.range wid.regs).map fun k => (d + k, f k)).map Prod.fst = regGroup d wid.regs := by
  rw [List.map_map]
  rfl

section
variable {s : State} {g : Guard} {d : Nat} {wid : Width} {a v : Src} {off : Word}

/-- The words that a load of core SRAM puts in flight, one storage for each destination. -/
def State.sramLoaded (s : State) (W : LaneMask) (d : Nat) (wid : Width) (a : Src) (off : Word) : List (Nat × Storage) :=
  (List.range wid.regs).map fun k =>
    let word (l : Fin 32) : Word :=
      if W.getLsbD l.val then loadWord wid (s.sramNat s.me.blk (s.me.sramAt a off l) (widthBytes wid)) k else 0
    (d + k, if (s.me.src a).isU then .u (word W.lowest) else .g (Lanes.of word))

theorem exec_lds (g : Guard) (d : Nat) (wid : Width) (a : Src) (off : Word) (s : State) :
    exec (.lds g d wid a off) s = s.produceThen (s.wset g) a.scalar (a.uses 1)
      ((s.memGate (s.wset g) 0 false).and
        (s.sramGate s.me.blk (s.wset g) (s.me.sramAt a off) (widthBytes wid) (widthBytes wid)))
      (s.sramLoaded (s.wset g) d wid a off) id := rfl

theorem exec_sts (g : Guard) (wid : Width) (a : Src) (off : Word) (v : Src) (s : State) :
    exec (.sts g wid a off v) s = execSts g wid a off v s := rfl

/-- A thread of W gets the word at its own address, also where one value serves all lanes. -/
theorem State.sramLoaded_lane {W : LaneMask} {k : Nat} (h : k < (s.sramLoaded W d wid a off).length) {l : Fin 32}
    (hl : W.getLsbD l.val = true) :
    (s.sramLoaded W d wid a off)[k].2.lane l =
      loadWord wid (s.sramNat s.me.blk (s.me.sramAt a off l) (widthBytes wid)) k := by
  have hlow : W.getLsbD W.lowest.val = true := by
    refine LaneMask.lowest_mem fun h => ?_
    rw [h] at hl
    simp at hl
  simp only [State.sramLoaded, List.getElem_map, List.getElem_range]
  by_cases hu : (s.me.src a).isU = true
  · have haddr : s.me.sramAt a off W.lowest = s.me.sramAt a off l := by
      simp only [Warp.sramAt, Storage.lane_of_isU _ hu W.lowest, Storage.lane_of_isU _ hu l]
    rw [if_pos hu, Storage.lane_u, if_pos hlow, haddr]
  · rw [if_neg hu, Storage.lane_g, Lanes.of_get, if_pos hl]

section
variable (hmem : s.memGate (s.wset g) 0 false = .go)
  (hsram : s.sramGate s.me.blk (s.wset g) (s.me.sramAt a off) (widthBytes wid) (widthBytes wid) = .go)
include hmem hsram

theorem lds_next (hr : Readable s a.scalar (a.uses 1)) (hd : s.destGate (s.wset g) (a.uses 1) (regGroup d wid.regs) = .go)
    (hp : s.myLaunch.proof = false) :
    exec (.lds g d wid a off) s =
      .next (s.setMe (s.launched (s.wset g) 0 (a.uses 1) (s.sramLoaded (s.wset g) d wid a off) 0)).advance := by
  have hd' : s.destGate (s.wset g) (a.uses 1) ((s.sramLoaded (s.wset g) d wid a off).map Prod.fst) = .go := by
    rw [State.sramLoaded, regGroup_eq, hd]
  rw [exec_lds, State.produceThen, hr.readGate, hmem, hsram, hd']
  exact (State.deliverRegs_launched hp rfl).trans (by rw [LaneFlags.of_zero])

/-- The machine once the lanes of a store of core SRAM have had their turns. -/
def State.stored (s : State) (W : LaneMask) (wid : Width) (a : Src) (off : Word) (v : Src) (us : List Use) : State :=
  (LaneMask.lanes W).foldl (fun t l =>
    t.sramPut s.me.blk (s.me.sramAt a off l) (widthBytes wid) (wordsAt (s.me.words v wid.regs) l.val)) (s.freed us)

theorem sts_next (hr : Readable s (a.scalar || v.scalar) (a.uses 1 ++ v.uses wid.regs)) :
    exec (.sts g wid a off v) s = .next (s.stored (s.wset g) wid a off v (a.uses 1 ++ v.uses wid.regs)).advance := by
  simp only [exec_sts, execSts, hmem, hsram, Gate.and_go, State.perform_go hr]
  rfl

end
end

/-! ### What an access of core SRAM leaves (SramAccess) -/

theorem SramWritten.me {s t : State} (h : SramWritten s t) : t.me = s.me := by
  rw [h.rest]
  rfl

theorem SramWritten.cur {s t : State} (h : SramWritten s t) : t.cur = s.cur := by rw [h.rest]

theorem Core.clock_of_galleys {x y : Core} (h : x = { y with galleys := x.galleys }) :
    x = { y with lamport := x.lamport, galleys := x.galleys } := by
  have hl : x.lamport = y.lamport := by rw [h]
  rw [hl]
  exact h

/-- A run that moves changes its own warp, and of launches their counts. -/
theorem State.advance_setMe_eq (x : State) (v : Warp) : ∃ y ls, (x.setMe v).advance = { x.setMe y with launches := ls } := by
  rw [State.advance, State.moveRun, State.setMe_setMe, State.retire_rest]
  exact ⟨_, _, rfl⟩

/-- A machine that differs from `s` in its executing warp alone, then in bytes of core SRAM, and has moved its run. -/
theorem SramWritten.access {s u x : State} (h : SramWritten u x) (hu : u = { s with warps := u.warps })
    (hk : ∀ k, k ≠ s.cur.slot → Map.find u.warps k = Map.find s.warps k) (v : Warp) :
    SramAccess s (x.setMe v).advance := by
  obtain ⟨ws, rfl⟩ : ∃ ws, u = { s with warps := ws } := ⟨_, hu⟩
  obtain ⟨co, bl, sg, rfl⟩ : ∃ co bl sg, x = { s with warps := ws, cores := co, blocks := bl, segs := sg } :=
    ⟨_, _, _, h.rest⟩
  obtain ⟨y, ls, hadv⟩ := State.advance_setMe_eq { s with warps := ws, cores := co, blocks := bl, segs := sg } v
  rw [hadv]
  refine ⟨rfl, fun k hk' => ?_, fun c => ?_, fun b => h.blocks b, fun a => rfl⟩
  · exact (Map.find_set_other _ _ _ _ hk').trans (hk k hk')
  · exact Core.clock_of_galleys (h.cores c)

theorem State.advance_setMe_me (s : State) : (s.setMe s.me).advance = s.advance := by
  unfold State.advance State.moveRun
  rw [State.setMe_setMe, State.me_setMe, State.myBlock_setMe rfl]
  rfl

theorem State.bank_advance (s : State) : s.advance.bank = s.bank := by
  have hr := State.retire_rest (s.setMe (s.me.issued s.cur.run fun _ => s.cur.next)) s.myBlock.launch
  change (State.retire _ _).bank = s.bank
  rw [hr]
  funext b
  cases b <;> rfl

theorem State.bank_setMe (s : State) (w : Warp) : (s.setMe w).bank = s.bank := by
  funext b
  cases b <;> rfl

theorem State.banksAfter_setMe (s : State) (w : Warp) (bk n : Nat) (addr : Fin 32 → Nat) (f : Fin 32 → Nat → Nat)
    (ls : List (Fin 32)) : (s.setMe w).banksAfter bk n addr f ls = s.banksAfter bk n addr f ls := by
  rw [State.banksAfter_eq, State.banksAfter_eq, State.bank_setMe]
  rfl

theorem State.find_warps_setMe (s : State) (w : Warp) (k : Nat) (hk : k ≠ s.cur.slot) :
    Map.find (s.setMe w).warps k = Map.find s.warps k := Map.find_set_other _ _ _ _ hk

/-- Settles O25: a load reads its lanes' addresses as they stand, a store writes them lane after lane. -/
theorem coreSramAccesses : Obligations.CoreSramAccesses := by
  intro s g d wid a off v W n addr us ds kept hmem hsram hbk hs
  have haddr : s.me.sramAt a off = addr := Warp.sramAt_eq _ _ _
  rw [← haddr] at hsram ⊢
  refine ⟨fun hr hd hp => ?_, fun hr => ?_⟩
  · have hfst {β : Type} (f : Nat → β) : ((List.range wid.regs).map fun k => (d + k, f k)).map Prod.fst = ds := regGroup_eq d wid f
    have := inFlight_of_launched (frame := OnlyMe s)
      (rs := (List.range wid.regs).map fun k => (d + k, fun l =>
        loadedWord (wid == .s8 || wid == .s16) n (s.bankBefore s.me.blk n (s.me.sramAt a off) kept 0 l) k))
      (lds_next hmem hsram hr hd hp) rfl (by rw [hfst, State.sramLoaded, hfst])
      (fun k h h' l hl _ => by
        rw [State.sramLoaded_lane h' hl, loadWord_eq]
        simp only [List.getElem_map, List.getElem_range, State.bankBefore_none, n])
      (State.moveRun_only s _ _ (by rw [State.launched_rest]))
    rwa [hfst] at this
  · have hw : SramWritten (s.freed us) (s.stored W wid a off v us) := State.sramPuts_written _ _ _ _ _ _
    have hme : (s.stored W wid a off v us).me = s.me.free (s.frees us []) := hw.me.trans (State.freed_me s us)
    have hcur : (s.stored W wid a off v us).cur = s.cur := hw.cur
    have hnext : (s.stored W wid a off v us).advance.me = (s.me.free (s.frees us [])).issued s.cur.run fun _ => s.cur.next := by
      rw [← State.advance_setMe_me, State.advance_me, hme, hcur]
    refine ⟨_, sts_next hmem hsram hr, ?_, moves_of_me hnext (Warp.free_lanes _ _), ?_, fun b => ?_⟩
    · rw [← State.advance_setMe_me]
      exact hw.access rfl (State.find_warps_setMe s _) _
    · rw [hnext, Warp.issued_rest]
    · rw [State.bank_advance]
      unfold State.stored
      rw [State.bank_sramPuts (Width.bytes_pos wid) (by exact hbk) (by exact hs)]
      exact congrFun (State.banksAfter_setMe s _ _ _ _ _ _) b

end Sys2Proof.Machine

/-! PROOFS. Fields of buffer records, read and replaced (R31), and O31, which follows from them. -/

namespace Sys2Proof.Machine

/-! ### Bits of numbers and of records (R9, R31) -/

theorem testBit_bitsOf (v hi lo j : Nat) :
    (bitsOf v hi lo).testBit j = (decide (j < hi + 1 - lo) && v.testBit (lo + j)) := by
  rw [bitsOf, Nat.testBit_mod_two_pow, Nat.testBit_div_two_pow, Nat.add_comm j lo]

/-- A number cut at two places. -/
theorem bitsOf_split (x : Nat) {hi lo : Nat} (h : lo ≤ hi + 1) :
    x = x / 2 ^ (hi + 1) * 2 ^ (hi + 1) + bitsOf x hi lo * 2 ^ lo + x % 2 ^ lo := by
  have hpow : 2 ^ (hi + 1) = 2 ^ lo * 2 ^ (hi + 1 - lo) := by
    rw [← Nat.pow_add, Nat.add_sub_cancel' h]
  have hlow := Nat.div_add_mod x (2 ^ lo)
  have hmid := Nat.div_add_mod (x / 2 ^ lo) (2 ^ (hi + 1 - lo))
  rw [Nat.div_div_eq_div_mul, ← hpow] at hmid
  calc x = 2 ^ lo * (2 ^ (hi + 1 - lo) * (x / 2 ^ (hi + 1)) + bitsOf x hi lo) + x % 2 ^ lo := by
        rw [bitsOf, hmid, hlow]
    _ = x / 2 ^ (hi + 1) * (2 ^ lo * 2 ^ (hi + 1 - lo)) + bitsOf x hi lo * 2 ^ lo + x % 2 ^ lo := by ring
    _ = _ := by rw [hpow]

/-- A field replaced, the parts above and below it as they were. -/
theorem recSet_eq (r : Record) (v : Nat) {hi lo : Nat} (h : lo ≤ hi + 1) :
    recSet r hi lo v = BitVec.ofNat 256
      (r.toNat / 2 ^ (hi + 1) * 2 ^ (hi + 1) + v % 2 ^ (hi + 1 - lo) * 2 ^ lo + r.toNat % 2 ^ lo) := by
  have := bitsOf_split r.toNat h
  unfold recSet
  dsimp only
  generalize bitsOf r.toNat hi lo * 2 ^ lo = field at this ⊢
  generalize r.toNat / 2 ^ (hi + 1) * 2 ^ (hi + 1) = above at this ⊢
  generalize v % 2 ^ (hi + 1 - lo) * 2 ^ lo = new
  generalize r.toNat % 2 ^ lo = below at this ⊢
  rw [show r.toNat - field + new = above + new + below by omega]

/-- Bit by bit: the field takes the new value. -/
theorem getLsbD_recSet (r : Record) (v : Nat) {hi lo i : Nat} (h : lo ≤ hi + 1) (hi' : i < 256) :
    (recSet r hi lo v).getLsbD i = if lo ≤ i ∧ i ≤ hi then v.testBit (i - lo) else r.getLsbD i := by
  have hpow : 2 ^ (hi + 1) = 2 ^ lo * 2 ^ (hi + 1 - lo) := by
    rw [← Nat.pow_add, Nat.add_sub_cancel' h]
  have hsum : r.toNat / 2 ^ (hi + 1) * 2 ^ (hi + 1) + v % 2 ^ (hi + 1 - lo) * 2 ^ lo + r.toNat % 2 ^ lo =
      2 ^ lo * (2 ^ (hi + 1 - lo) * (r.toNat / 2 ^ (hi + 1)) + v % 2 ^ (hi + 1 - lo)) + r.toNat % 2 ^ lo := by
    generalize r.toNat / 2 ^ (hi + 1) = q
    rw [hpow]
    ring
  rw [recSet_eq r v h, hsum, BitVec.getLsbD_ofNat, decide_eq_true hi', Bool.true_and,
    Nat.testBit_two_pow_mul_add _ (Nat.mod_lt _ (by positivity)), Nat.testBit_two_pow_mul_add _ (Nat.mod_lt _ (by positivity)),
    Nat.testBit_mod_two_pow, Nat.testBit_mod_two_pow, Nat.testBit_div_two_pow]
  by_cases hlo : i < lo
  · rw [if_pos hlo, if_neg (by omega), decide_eq_true hlo]
    rfl
  · by_cases hin : i - lo < hi + 1 - lo
    · rw [if_neg hlo, if_pos hin, if_pos (by omega), decide_eq_true hin]
      rfl
    · rw [if_neg hlo, if_neg hin, if_neg (by omega), show i - lo - (hi + 1 - lo) + (hi + 1) = i by omega]
      rfl

theorem testBit_recSet (r : Record) (v : Nat) {hi lo i : Nat} (h : lo ≤ hi + 1) (hi' : i < 256) :
    (recSet r hi lo v).toNat.testBit i = if lo ≤ i ∧ i ≤ hi then v.testBit (i - lo) else r.toNat.testBit i :=
  getLsbD_recSet r v h hi'

section
variable {r : Record} {v hi lo : Nat}

/-- The field replaced reads as its new value. -/
theorem bitsOf_recSet_same (h : lo ≤ hi + 1) (hh : hi < 256) : bitsOf (recSet r hi lo v).toNat hi lo = v % 2 ^ (hi + 1 - lo) := by
  apply Nat.eq_of_testBit_eq
  intro j
  rw [testBit_bitsOf, Nat.testBit_mod_two_pow]
  by_cases hj : j < hi + 1 - lo
  · rw [testBit_recSet r v h (by omega), if_pos (by omega), Nat.add_sub_cancel_left]
  · simp [hj]

/-- Every field beside it reads as before. -/
theorem bitsOf_recSet_other {a b : Nat} (h : lo ≤ hi + 1) (ha : a < 256) (hd : a < lo ∨ hi < b) :
    bitsOf (recSet r hi lo v).toNat a b = bitsOf r.toNat a b := by
  apply Nat.eq_of_testBit_eq
  intro j
  rw [testBit_bitsOf, testBit_bitsOf]
  by_cases hj : j < a + 1 - b
  · rw [testBit_recSet r v h (by omega), if_neg (by omega)]
  · simp [hj]

theorem extract_recSet_other {a n : Nat} (h : lo ≤ hi + 1) (ha : a + n ≤ 256) (hd : a + n ≤ lo ∨ hi < a) :
    (recSet r hi lo v).extractLsb' a n = r.extractLsb' a n := by
  apply BitVec.eq_of_getLsbD_eq
  intro i hi'
  rw [BitVec.getLsbD_extractLsb', BitVec.getLsbD_extractLsb', getLsbD_recSet r v h (by omega), if_neg (by omega)]

end

theorem bitOf_eq_testBit (v n : Nat) : bitOf v n = v.testBit n := by
  rw [bitOf, Nat.testBit_eq_decide_div_mod_eq]
  rfl

/-- The mask of the bits of a record that are not reserved (R31). -/
def recordMask : Record := BitVec.ofNat 256 (2 ^ 256 - 1 - (2 ^ 192 - 2 ^ 165) - (2 ^ 160 - 2 ^ 137) - (2 ^ 64 - 2 ^ 57))

theorem getLsbD_recClear (r : Record) {i : Nat} (hi : i < 256) : (recClear r).getLsbD i =
    if 57 ≤ i ∧ i ≤ 63 then false else if 137 ≤ i ∧ i ≤ 159 then false else if 165 ≤ i ∧ i ≤ 191 then false
    else r.getLsbD i := by
  rw [recClear, getLsbD_recSet _ _ (by decide) hi, getLsbD_recSet _ _ (by decide) hi, getLsbD_recSet _ _ (by decide) hi,
    Nat.zero_testBit, Nat.zero_testBit, Nat.zero_testBit]

theorem recClear_allOnes : recClear (BitVec.allOnes 256) = recordMask := by decide

theorem recClear_eq (r : Record) : recClear r = r &&& recordMask := by
  apply BitVec.eq_of_getLsbD_eq
  intro i hi
  rw [← recClear_allOnes, BitVec.getLsbD_and, getLsbD_recClear _ hi, getLsbD_recClear _ hi, BitVec.getLsbD_allOnes,
    decide_eq_true hi]
  split_ifs <;> simp

/-! ### BREC (R183) -/

theorem Effect.change_breg (d : Nat) (x : Record) (W : LaneMask) (frees : List Nat) :
    Effect.change { Effect.nothing with breg := some (d, x) } W frees = { W := W, frees := frees, breg := some (d, x) } := by
  simp only [Effect.change, Effect.nothing, LaneFlags.of_zero, List.map_nil, Option.map_none]

theorem setFlags_zero (k : Word) : setFlags k 0 = k := by
  simp [setFlags]

theorem State.result_nothing (s : State) (W : LaneMask) (frees : List Nat) :
    s.result W frees Effect.nothing = s.me.free frees := by
  have hothers : (s.me.free frees).writeOthers W s.me.live Effect.nothing = s.me.free frees := by
    unfold Warp.writeOthers
    exact ite_self _
  unfold State.result State.storeRegs
  simp only [Effect.nothing, List.foldl_nil, LaneFlags.of_zero, setFlags_zero] at hothers ⊢
  rw [hothers]

theorem Warp.groupDiffers_eq_false {w : Warp} {a : Src} {k : Nat} {W : LaneMask}
    (h : ∀ j, j < k → (w.srcAt a j).isU = true ∨
      ∀ l : Fin 32, W.getLsbD l.val = true → (w.srcAt a j).lane l = (w.srcAt a j).lane W.lowest) :
    w.groupDiffers a k W = false := by
  unfold Warp.groupDiffers
  rw [List.any_eq_false]
  intro j hj
  rcases h j (List.mem_range.mp hj) with hu | hl
  · simp [hu]
  · simpa [LaneMask.mem_lanes] using fun _ => hl

section
variable {s : State} {g : Guard} {bd bb : Nat} {op : BrecOp} {a v : Src} {off : Word}

theorem exec_brec (g : Guard) (bd : Nat) (op : BrecOp) (bb : Nat) (a v : Src) (off : Word) (s : State) :
    exec (.brec g bd op bb a v off) s = execBrec g bd op bb a v off s := rfl

/-- The registers that BREC reads. -/
def brecUses (op : BrecOp) (a v : Src) : List Use := a.uses (brecA op) ++ v.uses (if op == .sub then 1 else 0)

/-- Does BREC read a scalar register? -/
def brecScalar (op : BrecOp) (a v : Src) : Bool :=
  (brecA op != 0 && a.scalar) || ((if op == .sub then 1 else 0) != 0 && v.scalar)

/-- The address of a record in core SRAM, from the lowest thread of W. -/
def State.brecAddr (s : State) (W : LaneMask) (a : Src) (off : Word) : Nat := sramAddr (s.me.once a 0 W) off

/-- The record that the executing BREC builds. -/
def State.brecRecord (s : State) (W : LaneMask) (op : BrecOp) (bb : Nat) (a v : Src) (off : Word) : Record :=
  brecValue op (s.me.breg bb) (s.me.once a 0 W).toNat (s.me.once a 1 W).toNat (s.me.once v 0 W).toNat off
    (s.sramNat s.me.blk (s.brecAddr W a off) 32)

section
variable (hr : Ready s (s.wset g) (brecScalar op a v) (brecUses op a v) []) (hmem : s.memGate (s.wset g) 0 false = .go)
  (ha : s.me.groupDiffers a (brecA op) (s.wset g) = false)
  (hv : s.me.groupDiffers v (if op == .sub then 1 else 0) (s.wset g) = false)
  (hswz : op = .sub → recSwz (s.me.breg bb) = 0)
  (hsram : op = .lds ∨ op = .sts → s.sramGate s.me.blk (s.wset g &&& LaneMask.one (s.wset g).lowest)
    (fun _ => s.brecAddr (s.wset g) a off) 32 32 = .go)
include hr hmem ha hv hswz hsram

/-- A BREC that has passed its checks is an instruction of the ordinary form, with a store beside it under `.sts`. -/
theorem exec_brec_checked : exec (.brec g bd op bb a v off) s =
    s.operateThen (s.wset g) (brecScalar op a v) (brecUses op a v) .go []
      (if op == .sts then Effect.nothing
        else { Effect.nothing with breg := some (bd, s.brecRecord (s.wset g) op bb a v off) })
      fun t => if op == .sts && s.wset g != 0
        then t.sramPut s.me.blk (s.brecAddr (s.wset g) a off) 32 (s.me.breg bb).toNat else t := by
  have hfixed : (op == .sub && recSwz (s.me.breg bb) != 0) = false := by
    by_cases hop : op = .sub
    · simp [hswz hop]
    · simp [hop]
  have hbank : (if (op == .lds || op == .sts) = true then s.sramGate s.me.blk (s.wset g &&& LaneMask.one (s.wset g).lowest)
      (fun _ => s.brecAddr (s.wset g) a off) 32 32 else .go) = .go := by
    split
    next h => exact hsram (by simpa using h)
    next => rfl
  rw [exec_brec, execBrec]
  dsimp only
  rw [hfixed, ha, hv, hmem]
  exact (State.stageOne_go hr.converged).trans (congrArg (fun c => State.operateThen s _ _ _ c _ _ _) hbank)

theorem brec_builds (hop : op ≠ .sts) : Runs (.brec g bd op bb a v off) s
    { W := s.wset g, frees := s.frees (brecUses op a v) [], breg := some (bd, s.brecRecord (s.wset g) op bb a v off) } := by
  have hne : (op == .sts) = false := by simpa using hop
  obtain ⟨t, ht, hw, hm, ho⟩ := State.operate_runs s (s.wset g) (brecScalar op a v) (brecUses op a v) []
    { Effect.nothing with breg := some (bd, s.brecRecord (s.wset g) op bb a v off) } hr rfl (by simp)
    (.inr fun l _ => by simp [Effect.nothing])
  refine ⟨t, ?_, Effect.change_breg bd _ _ _ ▸ hw, hm, ho⟩
  rw [exec_brec_checked hr hmem ha hv hswz hsram, hne]
  exact ht

/-- The machine beside its warp once BREC.sts has stored its record. -/
def State.recordStored (s : State) (W : LaneMask) (bb : Nat) (a : Src) (off : Word) : State :=
  if W != 0 then s.sramPut s.me.blk (s.brecAddr W a off) 32 (s.me.breg bb).toNat else s

theorem brec_stores (hop : op = .sts) : exec (.brec g bd op bb a v off) s =
    .next ((s.recordStored (s.wset g) bb a off).setMe (s.me.free (s.frees (brecUses op a v) []))).advance := by
  subst hop
  rw [exec_brec_checked hr hmem ha hv hswz hsram]
  refine (State.operateThen_next _ hr rfl rfl).trans ?_
  rw [beq_self_eq_true, if_pos rfl, State.result_nothing]
  rfl

end

theorem State.recordStored_written (W : LaneMask) : SramWritten s (s.recordStored W bb a off) := by
  unfold State.recordStored
  split
  next => exact State.sramPut_written s _ _ _ _
  next => exact SramWritten.refl s

/-- The bank of the record holds it, every other bank is as before. -/
theorem State.recordStored_bank (W : LaneMask) (hbk : (Map.find s.blocks s.me.blk).isSome = true)
    (hs : Map.sorted s.blocks = true) :
    (s.recordStored W bb a off).bank = s.banksAfter s.me.blk 32 (fun _ => s.brecAddr W a off)
      (fun _ _ => (s.me.breg bb).toNat) (LaneMask.lanes (W &&& LaneMask.one W.lowest)) := by
  unfold State.recordStored
  by_cases hW : W = 0
  · rw [hW, LaneMask.lanes_empty]
    rfl
  · rw [LaneMask.lanes_lowest hW, if_pos (by simpa using hW)]
    exact State.bank_sramPuts (by decide) hbk hs (fun _ => s.brecAddr W a off) (fun _ => (s.me.breg bb).toNat) [W.lowest]

end

/-! ### What BREC builds (R31) -/

section
variable (r : Record)

theorem brecValue_fmt (x y z : Nat) (off : Word) (m : Nat) : let q := brecValue .fmt r x y z off m
    q.extractLsb' 0 128 = r.extractLsb' 0 128 ∧ q.extractLsb' 192 64 = r.extractLsb' 192 64 ∧
      recEsize q = off.toNat % 16 ∧ recSwz q = off.toNat / 16 % 16 ∧ recOobt q = off.getLsbD 8 ∧
      recSwlog q = off.toNat / 2 ^ 16 % 32 := by
  have hext {a n : Nat} (ha : a + n ≤ 256) (hd : a + n ≤ 128 ∨ 164 < a) :
      (brecValue .fmt r x y z off m).extractLsb' a n = r.extractLsb' a n := by
    simp only [brecValue]
    rw [extract_recSet_other (by decide) ha (by omega), extract_recSet_other (by decide) ha (by omega),
      extract_recSet_other (by decide) ha (by omega), extract_recSet_other (by decide) ha (by omega)]
  refine ⟨hext (by decide) (by decide), hext (by decide) (by decide), ?_, ?_, ?_, ?_⟩
  · simp only [brecValue, recEsize]
    rw [bitsOf_recSet_other (by decide) (by decide) (by decide), bitsOf_recSet_other (by decide) (by decide) (by decide),
      bitsOf_recSet_other (by decide) (by decide) (by decide), bitsOf_recSet_same (by decide) (by decide)]
    simp [bitsOf]
  · simp only [brecValue, recSwz]
    rw [bitsOf_recSet_other (by decide) (by decide) (by decide), bitsOf_recSet_other (by decide) (by decide) (by decide),
      bitsOf_recSet_same (by decide) (by decide)]
    simp [bitsOf]
  · simp only [brecValue, recOobt]
    rw [bitOf_eq_testBit, testBit_recSet _ _ (by decide) (by decide), testBit_recSet _ _ (by decide) (by decide)]
    simp only [show ¬(160 ≤ 136 ∧ 136 ≤ 164) by decide, if_false, show (136 ≤ 136 ∧ 136 ≤ 136) by decide, testBit_bitsOf]
    rfl
  · simp only [brecValue, recSwlog]
    rw [bitsOf_recSet_same (by decide) (by decide)]
    simp [bitsOf]

theorem extract_base_eq : (r.extractLsb' 0 57).toNat = recBase r := by
  simp [recBase, bitsOf]

theorem extract_extent_eq : (r.extractLsb' 64 32).toNat = recExtent r := by
  simp [recExtent, bitsOf, Nat.shiftRight_eq_div_pow]

theorem brecValue_sub (x y : Nat) (z : Word) (off : Word) (m : Nat) : let q := brecValue .sub r x y z.toNat off m
    q.extractLsb' 96 160 = r.extractLsb' 96 160 ∧ recBase q = (recBase r + x * recStep r) % 2 ^ 57 ∧
      recExtent q = if x < recExtent r then min (recExtent r - x) z.toNat else 0 := by
  refine ⟨?_, ?_, ?_⟩
  · simp only [brecValue]
    rw [extract_recSet_other (by decide) (by decide) (by decide), extract_recSet_other (by decide) (by decide) (by decide)]
  · change bitsOf (recSet _ 95 64 _).toNat 56 0 = _
    rw [bitsOf_recSet_other (by decide) (by decide) (by decide), bitsOf_recSet_same (by decide) (by decide)]
  · change bitsOf (recSet _ 95 64 _).toNat 95 64 = _
    rw [bitsOf_recSet_same (by decide) (by decide)]
    have := z.isLt
    split <;> omega

end

/-- Settles O31: the record built or stored by each operation of BREC. -/
theorem recordBuilding : Obligations.RecordBuilding := by
  intro s g bd bb op a v off W r word k ks us addr scalar put base extent same hr hmem ha hv hswz hsram built
  have haddr : s.brecAddr W a off = addr := BitVec.toNat_add _ _
  have hga : s.me.groupDiffers a k W = false := Warp.groupDiffers_eq_false ha
  have hgv : s.me.groupDiffers v ks W = false := Warp.groupDiffers_eq_false hv
  rw [← haddr] at hsram
  have hput {hi lo x : Nat} (h : lo ≤ hi + 1) : put hi lo x = recSet r hi lo x := (recSet_eq r x h).symm
  have hbuilt (hop : op ≠ .sts) : built (s.brecRecord W op bb a v off) := brec_builds hr hmem hga hgv hswz hsram hop
  refine ⟨?_, ?_, ?_, ?_, ?_, ?_, ?_, ?_, fun hop => ?_⟩
  · rintro rfl
    exact hbuilt (by decide)
  · rintro rfl
    rw [hput (by decide)]
    exact hbuilt (by decide)
  · rintro rfl
    rw [hput (by decide)]
    exact hbuilt (by decide)
  · rintro rfl
    rw [hput (by decide)]
    exact hbuilt (by decide)
  · rintro rfl
    rw [hput (by decide)]
    exact hbuilt (by decide)
  · rintro rfl
    exact ⟨_, hbuilt (by decide), brecValue_fmt r _ _ _ _ _⟩
  · rintro rfl
    rw [show extent = recExtent r from extract_extent_eq r, show base = recBase r from extract_base_eq r]
    exact ⟨_, hbuilt (by decide), brecValue_sub r _ _ _ _ _⟩
  · rintro rfl
    rw [← haddr]
    exact recClear_eq _ ▸ hbuilt (by decide)
  · have hme : ((s.recordStored W bb a off).setMe (s.me.free (s.frees us []))).advance.me =
        (s.me.free (s.frees us [])).issued s.cur.run fun _ => s.cur.next := by
      rw [State.advance_me, (State.recordStored_written W).cur]
    have hnext : exec (.brec g bd op bb a v off) s =
        .next ((s.recordStored W bb a off).setMe (s.me.free (s.frees us []))).advance :=
      brec_stores hr hmem hga hgv hswz hsram hop
    refine ⟨_, hnext, moves_of_me hme (Warp.free_lanes _ _),
      (State.recordStored_written W).access rfl (fun _ _ => rfl) _, ?_, fun hbk hs b => ?_⟩
    · rw [hme, Warp.issued_rest]
    · rw [State.bank_advance, State.bank_setMe, State.recordStored_bank W hbk hs, haddr]

end Sys2Proof.Machine

/-! PROOFS. The issue of SEG instructions: a status delivered in the step, a wait, a trap, and a move that is set off
(R206, R208). -/

namespace Sys2Proof.Machine

/-! ### Machines that differ in standing segments and windows -/

/-- Segments and blocks apart the machine is as before, and every block belongs to its launch. -/
structure Staged (s u : State) : Prop where
  rest : u = { s with segs := u.segs, blocks := u.blocks }
  launch : ∀ b, (u.block b).launch = (s.block b).launch

theorem Staged.refl (s : State) : Staged s s := ⟨rfl, fun _ => rfl⟩

theorem Staged.setSeg {s u : State} (h : Staged s u) (k : Nat) (x : Segment) : Staged s (u.setSeg k x) :=
  ⟨by rw [h.rest]; rfl, h.launch⟩

theorem Staged.setBlock {s u : State} (h : Staged s u) {b : Nat} {x : Block} (hx : x.launch = (s.block b).launch) :
    Staged s (u.setBlock b x) := by
  refine ⟨by rw [h.rest]; rfl, fun j => ?_⟩
  by_cases hj : j = b
  · rw [hj, State.block_setBlock_same, hx]
  · rw [State.block_setBlock_other _ _ _ _ hj, h.launch]

section
variable {s u : State} (h : Staged s u)
include h

theorem Staged.me : u.me = s.me := by rw [h.rest]; rfl

theorem Staged.cur : u.cur = s.cur := by rw [h.rest]

theorem Staged.warps : u.warps = s.warps := by rw [h.rest]

theorem Staged.myLaunch : u.myLaunch = s.myLaunch := by
  unfold State.myLaunch State.myBlock
  rw [h.me, h.launch, h.rest]
  rfl

theorem Staged.result (W : LaneMask) (frees : List Nat) (e : Effect) : u.result W frees e = s.result W frees e := by
  rw [h.rest]
  rfl

theorem Staged.slotsFor (slot : Nat) (w : Warp) (k : Nat) : u.slotsFor slot w k = s.slotsFor slot w k := by
  obtain ⟨sg, bl, rfl⟩ : ∃ sg bl, u = { s with segs := sg, blocks := bl } := ⟨_, _, h.rest⟩
  have hregs (b : Nat) : (State.launch { s with segs := sg, blocks := bl }
      (State.block { s with segs := sg, blocks := bl } b).launch).regs = (s.launch (s.block b).launch).regs := by
    rw [h.launch]
    rfl
  unfold State.slotsFor
  simp only [hregs]
  rfl

end

/-! ### A status that is there in the step -/

theorem State.advance_of_unproved {u : State} {w : Warp} (hp : u.myLaunch.proof = false) (hb : w.blk = u.me.blk) :
    (u.setMe w).advance = u.setMe (w.issued u.cur.run fun _ => u.cur.next) := by
  have hl : (u.setMe w).launch (u.setMe w).myBlock.launch = u.myLaunch := by
    rw [State.myBlock_setMe hb]
    rfl
  unfold State.advance State.moveRun State.retire
  simp only [State.me_setMe, State.setMe_setMe]
  rw [show ∀ x y, (u.setMe x).launch y = (u.setMe w).launch y from fun _ _ => rfl, hl, hp]
  rfl

/-- The storages of a list of results, each the same in every lane. -/
def uniformRegs (rs : List (Nat × Word)) : List (Nat × Storage) := rs.map fun r => (r.1, .u r.2)

theorem uniformRegs_fst (rs : List (Nat × Word)) : (uniformRegs rs).map Prod.fst = rs.map Prod.fst := by
  simp [uniformRegs]

section
variable {i : Instr} {s u : State} {W : LaneMask} {scalar : Bool} {us : List Use} {rs : List (Nat × Word)}

/-- An instruction whose results are written in its step, the machine beside its warp being `u`. -/
theorem answers_of_segDone (hu : Staged s u) (hp : s.myLaunch.proof = false) (hn : (rs.map Prod.fst).Nodup)
    (hr : Ready s W scalar us (rs.map Prod.fst)) (hi : exec i s = s.segDone u W us (uniformRegs rs)) :
    Answers i s u W us rs := by
  let e : Effect := { Effect.nothing with regs := uniformRegs rs }
  have hblk : (s.result W (s.frees us (rs.map Prod.fst)) e).blk = u.me.blk := by rw [(State.result_blk _ _ _ _).1, hu.me]
  have hroom : u.roomFor (s.result W (s.frees us (rs.map Prod.fst)) e) (s.frees us (rs.map Prod.fst)) = true := by
    have := State.roomFor_of_ready (e := e) hr (uniformRegs_fst rs)
    unfold State.roomFor at this ⊢
    rwa [hu.slotsFor, hu.me, hu.cur]
  have hnext : exec i s = .next (u.setMe (s.result W (s.frees us (rs.map Prod.fst)) e)).advance := by
    rw [hi, State.segDone, uniformRegs_fst]
    dsimp only
    rw [hu.result, if_pos hroom]
  have hme : ((u.setMe (s.result W (s.frees us (rs.map Prod.fst)) e)).advance).me =
      (s.result W (s.frees us (rs.map Prod.fst)) e).issued s.cur.run fun _ => s.cur.next := by rw [State.advance_me, hu.cur]
  have hadv := State.advance_of_unproved (hu.myLaunch ▸ hp) hblk
  have hchange : e.change W (s.frees us (rs.map Prod.fst)) =
      { W := W, frees := s.frees us (rs.map Prod.fst), regs := rs.map fun r => (r.1, fun _ => r.2) } := by
    simp only [e, Effect.change, Effect.nothing, uniformRegs, LaneFlags.of_zero, List.map_map, Option.map_none]
    rfl
  refine ⟨_, hnext, moves_of_me hme (State.result_blk _ _ _ _).2, hchange ▸ State.result_writes s W _ e _ _ ?_ ?_ hme, ?_,
    fun k hk => ?_⟩
  · rw [show e.regs = uniformRegs rs from rfl, uniformRegs_fst]
    exact hn
  · intro r hr'
    exact State.frees_not_dest _ _ _ _ (uniformRegs_fst rs ▸ List.mem_map_of_mem hr')
  · rw [hadv]
    rfl
  · rw [hadv]
    change Map.find (Map.set u.warps u.cur.slot _) k = _
    rw [hu.cur, hu.warps, Map.find_set_other _ _ _ _ hk]

end

/-! ### The issue of a SEG instruction (R206) -/

section
variable {i : Instr} {s : State} {g : Guard} {d n : Nat} {scalar : Bool} {us : List Use} {own : Gate} {win : Nat}
  {more : List (Nat × Storage)} {act : SegAct}

/-- What the sources of a SEG instruction and its own checks have let through (R24, R180). -/
structure SegReady (s : State) (g : Guard) (d n : Nat) (scalar : Bool) (us : List Use) (own : Gate) : Prop where
  nonempty : s.wset g ≠ 0
  memory : s.memGate (s.wset g) 0 false = .go
  own : own = .go
  ready : Ready s (s.wset g) scalar us (regGroup d n)
  unproved : s.myLaunch.proof = false

section
variable (h : SegReady s g d n scalar us own)
include h

theorem SegReady.done (t : State) (status : Nat) : s.segOp g d n scalar us own (.done t status) more win =
    s.segDone t (s.wset g) us ((d, .u (BitVec.ofNat 32 status)) :: more) := by
  unfold State.segOp
  simp only [h.ready.readGate, h.memory, h.own, h.ready.destGate, Gate.and_go, h.nonempty, if_false]

theorem SegReady.hold : s.segOp g d n scalar us own .hold more win = .next s := by
  unfold State.segOp
  simp only [h.ready.readGate, h.memory, h.own, Gate.and_go, h.nonempty, if_false]
  rfl

theorem SegReady.miss : s.segOp g d n scalar us own .miss more win = s.trap 0x09 (win + 4) := by
  unfold State.segOp
  simp only [h.ready.readGate, h.memory, h.own, Gate.and_go, h.nonempty, if_false]
  rfl

/-- The record of the instruction at the segment that it moves (R206). -/
def State.segWaiter (s : State) (g : Guard) (d win : Nat) : SegWaiter :=
  ⟨s.cur.slot, s.me.blk, d, win, s.wset g, s.wset g == s.me.live, s.cur.pc, s.cur.run⟩

theorem SegReady.move {t : State} {k : Nat} {x : Segment} (hx : Map.find t.segs k = some x) :
    s.segOp g d n scalar us own (.move t k) more win =
      s.deliverRegs (t.setSeg k { x with waiter := some (s.segWaiter g d win) }) (s.wset g) (s.wset g) us [(d, .u 0)]
        LaneFlags.zero := by
  unfold State.segOp
  simp only [h.ready.readGate, h.memory, h.own, h.ready.destGate, Gate.and_go, h.nonempty, if_false, hx, h.unproved,
    Bool.false_eq_true]
  rfl

end

/-- A SEG instruction that answers in its step. -/
theorem answers_of_done {u : State} {status : Nat} {more : List (Nat × Word)}
    (h : SegReady s g d (1 + more.length) scalar us own) (hu : Staged s u)
    (hfst : regGroup d (1 + more.length) = d :: more.map Prod.fst) (hn : (d :: more.map Prod.fst).Nodup)
    (hi : exec i s = s.segOp g d (1 + more.length) scalar us own act (uniformRegs more) win) (hact : act = .done u status) :
    Answers i s u (s.wset g) us ((d, BitVec.ofNat 32 status) :: more) := by
  subst hact
  exact answers_of_segDone hu h.unproved hn (hfst ▸ h.ready) (hi.trans (h.done u status))

/-- The common case: the status is all that it answers. -/
theorem answers_status {u : State} {status : Nat} (h : SegReady s g d 1 scalar us own) (hu : Staged s u)
    (hi : exec i s = s.segOp g d 1 scalar us own act [] win) (hact : act = .done u status) :
    Answers i s u (s.wset g) us [(d, BitVec.ofNat 32 status)] :=
  answers_of_done (more := []) h hu rfl (by simp) hi hact

theorem waits_of_hold (h : SegReady s g d n scalar us own) (hi : exec i s = s.segOp g d n scalar us own act more win)
    (hact : act = .hold) : exec i s = .next s := by
  subst hact
  exact hi.trans h.hold

theorem raises_of_miss (h : SegReady s g d n scalar us own) (hw : win < 4)
    (hi : exec i s = s.segOp g d n scalar us own act more win) (hact : act = .miss) : Raises i s 0x09 (win + 4) := by
  subst hact
  exact raises_of_trap (hi.trans h.miss) (by decide) (by omega)

/-- A SEG instruction that sets off the move of segment `k` and waits for it. -/
theorem movesSegment_of_move {u : State} {k : Nat} {x : Segment} (h : SegReady s g d 1 scalar us own) (hu : Staged s u)
    (hi : exec i s = s.segOp g d 1 scalar us own act more win) (hact : act = .move (u.setSeg k x) k) :
    MovesSegment i s u (s.wset g) us d k { x with waiter := some (s.segWaiter g d win) } := by
  subst hact
  let y : Segment := { x with waiter := some (s.segWaiter g d win) }
  let v : State := (u.setSeg k x).setSeg k y
  have hv : Staged s v := (hu.setSeg k x).setSeg k y
  have hnext : exec i s = .next (v.setMe (s.launched (s.wset g) (s.wset g) us [(d, .u 0)] 0)).advance := by
    rw [hi, h.move (x := x) (Map.find_set_same _ _ _), State.deliverRegs_launched h.unproved hv.me, LaneFlags.of_zero]
  have hblk : (s.launched (s.wset g) (s.wset g) us [(d, .u 0)] 0).blk = v.me.blk := by
    rw [State.launched_rest, hv.me]
  have hadv := State.advance_of_unproved (hv.myLaunch ▸ h.unproved) hblk
  refine inFlight_of_launched (rs := [(d, fun _ => 0)]) hnext hv.cur rfl (fun j hj hj' l hl hl' => ?_) ⟨?_, fun j => ?_, fun j hj => ?_⟩
  · rw [hl] at hl'
    cases hl'
  · rw [hadv]
    rfl
  · rw [hadv]
    change Map.find (Map.set (Map.set u.segs k x) k y) j = _
    split
    next hj => rw [hj, Map.find_set_same]
    next hj => rw [Map.find_set_other _ _ _ _ hj, Map.find_set_other _ _ _ _ hj]
  · rw [hadv]
    change Map.find (Map.set u.warps v.cur.slot _) j = _
    rw [hv.cur, hu.warps, Map.find_set_other _ _ _ _ hj]

end

end Sys2Proof.Machine

/-! PROOFS. What each SEG instruction comes to by the segment that it names, and O32 (R206 to R211). -/

namespace Sys2Proof.Machine

/-! ### SEG.FREE and SEG.ATTACH by the segment found (R208, R210) -/

/-- A segment is busy while it moves or waits for the room of a reload. -/
theorem Segment.busy_iff {x : Segment} : x.busy = true ↔ x.st = .moving ∨ x.goal.isSome = true := by
  simp [Segment.busy]

section
variable {s : State} {bk win ctx name k q : Nat} {load wb : Bool} {x : Segment}

theorem State.segFreeAct_absent (h : s.segNamed ctx name = none) : s.segFreeAct q ctx name wb = .done s 2 := by
  simp only [State.segFreeAct, h]

theorem State.segAttachAct_absent (h : s.segNamed ctx name = none) : s.segAttachAct bk win ctx name load = .done s 2 := by
  simp only [State.segAttachAct, h]

variable (h : s.segNamed ctx name = some (k, x))
include h

theorem State.segFreeAct_busy (hb : x.busy = true) : s.segFreeAct q ctx name wb = .hold := by
  simp only [State.segFreeAct, h, hb, if_true]

theorem State.segAttachAct_busy (hb : x.busy = true) : s.segAttachAct bk win ctx name load = .hold := by
  simp only [State.segAttachAct, h, hb, if_true]

variable (hb : x.busy = false)
include hb

theorem State.segFreeAct_attached (ha : x.attach ≠ 0) : s.segFreeAct q ctx name wb = .done s 6 := by
  simp [State.segFreeAct, h, hb, ha]

theorem State.segFreeAct_drop (ha : x.attach = 0) (hw : wb = false ∨ x.st = .cold) :
    s.segFreeAct q ctx name wb = .done { s with segs := Map.erase s.segs k } 0 := by
  have hkeep : (wb && x.st == .resident) = false := by
    rcases hw with hw | hw <;> simp [hw]
  simp [State.segFreeAct, h, hb, ha, hkeep]

theorem State.segFreeAct_write (hf : Map.find s.segs k = some x) (ha : x.attach = 0) (hst : x.st = .resident) :
    s.segFreeAct q ctx name true =
      .move (s.setSeg k { x with st := .moving, goal := some .free, queue := q, loading := false }) k := by
  simp [State.segFreeAct, h, hb, ha, hst, State.startEvict, hf]

theorem State.segAttachAct_taken (hw : ((s.block bk).windows[win]?.join).isSome = true ∨ s.attaching bk win = true) :
    s.segAttachAct bk win ctx name load = .done s 7 := by
  simp only [State.segAttachAct, h, hb, Bool.false_eq_true, if_false]
  rw [if_pos (by simpa using hw)]

variable (hw : (s.block bk).windows[win]?.join = none) (hat : s.attaching bk win = false)
include hw hat

theorem State.segAttachAct_here (hst : x.st = .resident) (hl : x.loc = blockCore bk) :
    s.segAttachAct bk win ctx name load = .done (s.attach k bk win) 0 := by
  simp [State.segAttachAct, h, hb, hw, hat, hst, hl]

theorem State.segAttachAct_elsewhere (hst : x.st = .resident) (hl : x.loc ≠ blockCore bk) (ha : x.attach ≠ 0) :
    s.segAttachAct bk win ctx name load = .done s 9 := by
  simp [State.segAttachAct, h, hb, hw, hat, hst, hl, ha]

/-- A segment that is not at the block's core, with nothing attached to it elsewhere, has to be brought there. -/
theorem State.segAttachAct_away (hx : x.st = .cold ∨ (x.loc ≠ blockCore bk ∧ x.attach = 0)) :
    s.segAttachAct bk win ctx name load =
      if load then s.segBring (s.launch (s.block bk).launch).queue k x (blockCore bk) else .miss := by
  have hhere : (x.st == .resident && x.loc == blockCore bk) = false := by
    rcases hx with hx | ⟨hx, -⟩ <;> simp [hx]
  have helse : (x.st == .resident && x.attach != 0) = false := by
    rcases hx with hx | ⟨-, hx⟩ <;> simp [hx]
  cases load <;> simp [State.segAttachAct, h, hb, hw, hat, hhere, helse]

end

/-! ### Evictions that begin (R310, R313) -/

theorem State.startEvict_rest (s : State) (q k : Nat) (goal : SegGoal) :
    s.startEvict q k goal = { s with segs := (s.startEvict q k goal).segs } := by
  unfold State.startEvict
  split <;> rfl

theorem State.evictFirst_rest (s : State) (q ctx c : Nat) (goal : SegGoal) (ks : List Nat) :
    s.evictFirst q ctx c goal ks = { s with segs := (s.evictFirst q ctx c goal ks).segs } := by
  unfold State.evictFirst
  generalize s.firstVictims ctx c ks = js
  induction js generalizing s with
  | nil => rfl
  | cons j js ih =>
    rw [List.foldl_cons, ih, State.startEvict_rest]

theorem State.evictFirst_staged (s : State) (q ctx c : Nat) (goal : SegGoal) (ks : List Nat) :
    Staged s (s.evictFirst q ctx c goal ks) := by
  have h := State.evictFirst_rest s q ctx c goal ks
  refine ⟨?_, fun b => ?_⟩
  · conv_lhs => rw [h]
    rw [h]
  · rw [h]
    rfl

/-! ### The room of a reload (R307, R310) -/

@[simp] theorem State.setSeg_setSeg (s : State) (k : Nat) (x y : Segment) : (s.setSeg k x).setSeg k y = s.setSeg k y := by
  change { s with segs := Map.set (Map.set s.segs k x) k y } = s.setSeg k y
  rw [Map.set_set_same]
  rfl

theorem Map.erase_set_same {α : Type} (m : List (Nat × α)) (k : Nat) (v : α) : Map.erase (Map.set m k v) k = Map.erase m k := by
  rw [Map.set, Map.erase_ins_same]
  simp [Map.erase]

/-- The entries of a map beside one key are as before when that key is set. -/
theorem Map.filter_set_other {α : Type} (m : List (Nat × α)) (k : Nat) (v : α) (p : Nat × α → Bool) :
    (Map.set m k v).filter (fun h => h.1 != k && p h) = m.filter fun h => h.1 != k && p h := by
  have hsplit (l : List (Nat × α)) : l.filter (fun h => h.1 != k && p h) = (Map.erase l k).filter p := by
    rw [Map.erase, List.filter_filter]
    exact List.filter_congr fun h _ => Bool.and_comm _ _
  rw [hsplit, hsplit, Map.erase_set_same]

theorem List.foldl_add_eq_sum {α : Type} (f : α → Nat) (l : List α) (a : Nat) :
    l.foldl (fun n h => n + f h) a = a + (l.map f).sum := by
  induction l generalizing a with
  | nil => simp
  | cons h l ih => rw [List.foldl_cons, ih, List.map_cons, List.sum_cons, Nat.add_assoc]

/-- The other segments that leave a core no room: those there, and those to be reloaded there for blocks already admitted. -/
def State.claimants (u : State) (k core : Nat) : List (Nat × Segment) :=
  u.segs.filter fun h => h.1 != k && (h.2.on core || (h.2.goal == some (.reload core) && h.2.waiter.isNone))

theorem Segment.claims_eq (x : Segment) (c : Nat) :
    x.claims c = (x.on c || (x.goal == some (.reload c) && x.waiter.isNone)) := by
  unfold Segment.claims Segment.takes
  cases x.on c <;> rfl

theorem State.granulesOf_none (u : State) (k c : Nat) (x : Segment) :
    (u.setSeg k x).granulesOf c (fun _ => false) = u.granulesOf c fun _ => false := by
  have hzero (l : List (Nat × Segment)) (a : Nat) :
      l.foldl (fun n p => n + if (fun _ : Segment => false) p.2 = true then p.2.size else 0) a = a := by
    induction l generalizing a with
    | nil => rfl
    | cons p l ih => exact ih _
  unfold State.granulesOf
  simp only [hzero]
  rfl

/-- Has a core room for segment `k` beside the others? -/
def State.enters (u : State) (k core size : Nat) : Prop :=
  u.granulesOf core (fun _ => false) + ((u.claimants k core).map fun h => h.2.size).sum + size ≤ u.capacity core ∧
    (u.claimants k core).length < 16

/-- A COLD segment with a reload to make enters MOVING where there is room, and else waits. -/
theorem State.segEnter_eq {u : State} {k core : Nat} {x : Segment} (hst : x.st = .cold) (hg : x.goal = some (.reload core)) :
    (u.enters k core x.size → (u.setSeg k x).segEnter k =
      u.setSeg k { x with st := .moving, loc := core, loading := true }) ∧
    (¬u.enters k core x.size → (u.setSeg k x).segEnter k = u.setSeg k x) := by
  have hd : x.dest = core := by
    unfold Segment.dest
    rw [hg]
  have hothers : ((u.setSeg k x).segs.filter fun h => h.1 != k && h.2.claims core) = u.claimants k core := by
    simp only [Segment.claims_eq]
    exact Map.filter_set_other _ _ _ _
  have hcond : (x.st == .cold && x.goal.isSome && decide ((u.setSeg k x).granulesOf core (fun _ => false) +
      (u.claimants k core).foldl (fun n h => n + h.2.size) 0 + x.size ≤ (u.setSeg k x).capacity core) &&
      decide ((u.claimants k core).length < 16)) = true ↔ u.enters k core x.size := by
    rw [State.granulesOf_none, List.foldl_add_eq_sum (fun h : Nat × Segment => h.2.size), Nat.zero_add]
    simp only [hst, hg, beq_self_eq_true, Option.isSome_some, Bool.and_true, Bool.true_and, Bool.and_eq_true,
      decide_eq_true_eq]
    exact Iff.rfl
  have henter : (u.setSeg k x).segEnter k = if (x.st == .cold && x.goal.isSome &&
      decide ((u.setSeg k x).granulesOf core (fun _ => false) +
        (u.claimants k core).foldl (fun n h => n + h.2.size) 0 + x.size ≤ (u.setSeg k x).capacity core) &&
      decide ((u.claimants k core).length < 16)) = true
      then (u.setSeg k x).setSeg k { x with st := .moving, loc := core, loading := true } else u.setSeg k x := by
    have hfind : Map.find (u.setSeg k x).segs k = some x := Map.find_set_same _ _ _
    unfold State.segEnter
    simp only [hfind, hd, hothers]
  rw [henter]
  refine ⟨fun h => ?_, fun h => if_neg (fun hc => h (hcond.mp hc))⟩
  rw [if_pos (hcond.mpr h), State.setSeg_setSeg]

section
variable {s : State} {q k core : Nat} {x : Segment}

theorem State.segBring_nospace (hp : s.roomPlan x.ctx core x.size 1 [k] = none) (hv : s.victimSegs x.ctx core [k] = []) :
    s.segBring q k x core = .done s 10 := by
  simp only [State.segBring, hp, hv]

theorem State.segBring_evicts (hp : s.roomPlan x.ctx core x.size 1 [k] = none) (hv : s.victimSegs x.ctx core [k] ≠ []) :
    s.segBring q k x core =
      .move ((s.evictFirst q x.ctx core (.evictFor k) ((s.victimSegs x.ctx core [k]).map Prod.fst)).setSeg k
        { x with goal := some (.reload core), queue := q }) k := by
  unfold State.segBring
  dsimp only
  rw [hp]
  split
  next h => exact absurd h hv
  next => rfl
  next h => cases h

variable {ks : List Nat} (hp : s.roomPlan x.ctx core x.size 1 [k] = some ks)
include hp

theorem State.segBring_moves (hst : x.st = .resident) :
    s.segBring q k x core = .move ((s.evictFirst q x.ctx core (.evictFor k) ks).setSeg k
      { x with st := .moving, loading := false, goal := some (.reload core), queue := q }) k := by
  simp only [State.segBring, hp, hst]
  rfl

theorem State.segBring_loads (hst : x.st = .cold) :
    s.segBring q k x core = .move (((s.evictFirst q x.ctx core (.evictFor k) ks).setSeg k
      { x with loading := true, goal := some (.reload core), queue := q }).segEnter k) k := by
  simp only [State.segBring, hp, hst]
  rfl

end

/-! ### SEG.NEW (R207) -/

theorem segDescOk_iff {bs : List Byte} : segDescOk bs = true ↔ field bs 8 8 % 4096 = 0 ∧ field bs 8 8 < 2 ^ 57 ∧
    1 ≤ field bs 0x10 2 ∧ field bs 0x10 2 ≤ 192 ∧ field bs 0x12 2 < 192 ∧ field bs 0x14 12 = 0 := by
  simp only [segDescOk, Bool.and_eq_true, beq_iff_eq, decide_eq_true_eq, and_assoc]
  rw [show field bs 0x12 2 ≤ 191 ↔ field bs 0x12 2 < 192 from Nat.lt_succ_iff.symm]

section
variable {s : State} {ctx : Nat} {bs : List Byte}

theorem State.segNewAct_malformed (h : segDescOk bs = false) : s.segNewAct ctx bs = .done s 5 := by
  simp [State.segNewAct, State.segCreate, h]

theorem State.segNewAct_new (h : s.segNamed ctx (field bs 0 8) = none) :
    s.segNewAct ctx bs = .done (s.segCreate ctx bs).1 (s.segCreate ctx bs).2 := by
  simp [State.segNewAct, h]

variable (hok : segDescOk bs = true)
include hok

theorem State.segNewAct_busy {p : Nat × Segment} (h : s.segNamed ctx (field bs 0 8) = some p) (hb : p.2.busy = true) :
    s.segNewAct ctx bs = .hold := by
  simp [State.segNewAct, hok, h, hb]

theorem State.segNewAct_named {p : Nat × Segment} (h : s.segNamed ctx (field bs 0 8) = some p) (hb : p.2.busy = false) :
    s.segNewAct ctx bs = .done s 1 := by
  simp [State.segNewAct, State.segCreate, hok, h, hb]

variable (h : s.segNamed ctx (field bs 0 8) = none)
include h

theorem State.segCreate_quota (hm : 256 ≤ (s.segs.filter fun p => p.2.ctx == ctx).length) : s.segCreate ctx bs = (s, 4) := by
  simp [State.segCreate, hok, h, hm]

variable (hm : (s.segs.filter fun p => p.2.ctx == ctx).length < 256)
include hm

theorem State.segCreate_full (hf : ∀ k, k < 4096 → (Map.find s.segs k).isSome = true) : s.segCreate ctx bs = (s, 3) := by
  have hfree : s.freeEntry = none := by
    refine List.find?_eq_none.mpr fun k hk => ?_
    simpa [Option.isSome_iff_ne_none] using hf k (List.mem_range.mp hk)
  simp [State.segCreate, hok, h, Nat.not_le.mpr hm, hfree]

/-- The entry of a new segment is the lowest free one of the name table. -/
theorem State.segCreate_entry {k : Nat} (hk : k < 4096) (hn : Map.find s.segs k = none)
    (hl : ∀ j, j < k → (Map.find s.segs j).isSome = true) :
    s.segCreate ctx bs = (s.setSeg k ⟨field bs 0 8, ctx, field bs 0x10 2, field bs 0x12 2, field bs 8 8, .cold,
      field bs 0x12 2, 0, [], s.clk, none, 0, false, none, false⟩, 0) := by
  have hfree : s.freeEntry = some k := by
    refine List.find?_range_eq_some.mpr ⟨by simp [hn], List.mem_range.mpr hk, fun j hj => ?_⟩
    simpa [Option.isSome_iff_ne_none] using hl j hj
  simp [State.segCreate, hok, h, Nat.not_le.mpr hm, hfree]

end

/-! ### SEG.DETACH and SEG.QUERY (R209, R211) -/

section
variable {s : State} {bk win : Nat}

theorem State.segRelease_empty (h : (s.block bk).windows[win]?.join = none) : s.segRelease bk win = (s, 8) := by
  simp only [State.segRelease, h]

variable {k : Nat} {x : Segment} (h : (s.block bk).windows[win]?.join = some k)
include h

/-- A segment that the block holds at another window too stays attached. -/
theorem State.segRelease_held (hk : k ∈ ((s.setBlock bk { s.block bk with
      windows := (s.block bk).windows.setIfInBounds win none }).block bk).attached) :
    s.segRelease bk win = (s.setBlock bk { s.block bk with windows := (s.block bk).windows.setIfInBounds win none }, 0) := by
  simp only [State.segRelease, h, List.contains_iff_mem, hk, if_true]

theorem State.segRelease_last (hx : Map.find s.segs k = some x) (hk : k ∉ ((s.setBlock bk { s.block bk with
      windows := (s.block bk).windows.setIfInBounds win none }).block bk).attached) :
    s.segRelease bk win = ((s.setBlock bk { s.block bk with
      windows := (s.block bk).windows.setIfInBounds win none }).setSeg k { x with
        attach := x.attach - 1, idleSince := if x.attach ≤ 1 then s.clk else x.idleSince }, 0) := by
  have hfind : Map.find (s.setBlock bk { s.block bk with
      windows := (s.block bk).windows.setIfInBounds win none }).segs k = some x := hx
  simp only [State.segRelease, h, List.contains_iff_mem, hk, if_false, State.detach, hfind]
  rfl

end

/-- A segment attached to a window of a block (R208). -/
theorem State.attach_eq {s : State} {k bk win : Nat} {x : Segment} (h : Map.find s.segs k = some x) :
    s.attach k bk win = (s.setSeg k { x with
      attach := if k ∈ (s.block bk).attached then x.attach else x.attach + 1, faulted := false }).setBlock bk
        { s.block bk with windows := (s.block bk).windows.setIfInBounds win (some k) } := by
  simp only [State.attach, h, List.contains_iff_mem]

theorem segInfo_eq (x : Segment) : segInfo x =
    (if x.st = .cold then 255 else x.loc) * 2 ^ 24 + x.size * 2 ^ 16 +
      (if x.st = .resident then 1 else if x.st = .cold then 2 else 3) * 2 ^ 14 + x.attach % 2 ^ 11 := by
  unfold segInfo
  cases x.st <;> rfl

/-! ### The statement -/

section
variable {s : State} {g : Guard} {d win : Nat} {load wb : Bool} {name : SegName}

/-- SEG.QUERY delivers its status and what it found beside it (R211). -/
theorem segQuery_answers (h : SegReady s g d 2 false (segUses name) .go) :
    Answers (.segQuery g d name) s s (s.wset g) (segUses name)
      (match s.segNamed s.myCtx (s.me.segHash name (s.wset g)) with
        | none => [(d, 2), (d + 1, 0)]
        | some (_, x) => [(d, 0), (d + 1, BitVec.ofNat 32 ((if x.st = .cold then 255 else x.loc) * 2 ^ 24 + x.size * 2 ^ 16 +
            (if x.st = .resident then 1 else if x.st = .cold then 2 else 3) * 2 ^ 14 + x.attach % 2 ^ 11))]) := by
  have hanswers {status : Nat} {info : Word} (hi : exec (.segQuery g d name) s =
      s.segOp g d 2 false (segUses name) .go (.done s status) [(d + 1, .u info)] 0) :
      Answers (.segQuery g d name) s s (s.wset g) (segUses name) [(d, BitVec.ofNat 32 status), (d + 1, info)] :=
    answers_of_segDone (Staged.refl s) h.unproved (by simp) h.ready (hi.trans (h.done s status))
  have hexec : exec (.segQuery g d name) s = execSegQuery g d name s := rfl
  cases hp : s.segNamed s.myCtx (s.me.segHash name (s.wset g)) with
  | none =>
    have hnone : exec (.segQuery g d name) s =
        s.segOp g d 2 false (segUses name) .go (.done s 2) [(d + 1, .u 0)] 0 := by
      rw [hexec]
      unfold execSegQuery
      rw [hp]
      rfl
    exact hanswers hnone
  | some p =>
    have hsome : exec (.segQuery g d name) s =
        s.segOp g d 2 false (segUses name) .go (.done s 0) [(d + 1, .u (BitVec.ofNat 32 (segInfo p.2)))] 0 := by
      rw [hexec]
      unfold execSegQuery
      rw [hp]
      rfl
    have := hanswers hsome
    rwa [segInfo_eq] at this

theorem exec_segNew {a : Src} {off : Word} {addr : Nat} (haddr : s.me.sramAt a off (s.wset g).lowest = addr) :
    exec (.segNew g d a off) s = s.segOp g d 1 a.scalar (a.uses 1)
      (s.sramGate s.me.blk (s.wset g &&& LaneMask.one (s.wset g).lowest) (fun _ => addr) 32 32)
      (s.segNewAct s.myCtx (leBytes 32 (s.sramNat s.me.blk addr 32))) [] 0 := by
  subst haddr
  change execSegNew g d a off s = _
  unfold execSegNew
  rfl

/-- SEG.NEW by its descriptor and by the names in use (R207). -/
theorem segNew_answers {a : Src} {off : Word} {u : State} {status : Nat} {addr : Nat}
    (haddr : s.me.sramAt a off (s.wset g).lowest = addr)
    (h : SegReady s g d 1 a.scalar (a.uses 1)
      (s.sramGate s.me.blk (s.wset g &&& LaneMask.one (s.wset g).lowest) (fun _ => addr) 32 32)) (hu : Staged s u)
    (hact : s.segNewAct s.myCtx (leBytes 32 (s.sramNat s.me.blk addr 32)) = .done u status) :
    Answers (.segNew g d a off) s u (s.wset g) (a.uses 1) [(d, BitVec.ofNat 32 status)] := by
  exact answers_status h hu (exec_segNew haddr) hact

theorem segNew_waits {a : Src} {off : Word} {addr : Nat} (haddr : s.me.sramAt a off (s.wset g).lowest = addr)
    (h : SegReady s g d 1 a.scalar (a.uses 1)
      (s.sramGate s.me.blk (s.wset g &&& LaneMask.one (s.wset g).lowest) (fun _ => addr) 32 32))
    (hact : s.segNewAct s.myCtx (leBytes 32 (s.sramNat s.me.blk addr 32)) = .hold) :
    exec (.segNew g d a off) s = .next s := by
  exact waits_of_hold h (exec_segNew haddr) hact

theorem segDetach_answers {u : State} {status : Nat} (h : SegReady s g d 1 false [] s.detachGate)
    (hm : (s.block s.me.blk).marches win = false) (hu : Staged s u) (hact : s.segRelease s.me.blk win = (u, status)) :
    Answers (.segDetach g d win) s u (s.wset g) [] [(d, BitVec.ofNat 32 status)] := by
  refine answers_status (win := win) (act := .done u status) h hu ?_ rfl
  change execSegDetach g d win s = _
  simp only [execSegDetach, hm, hact, Bool.false_eq_true, if_false]

section
variable (h : SegReady s g d 1 false (segUses name) .go)
include h

theorem segAttach_answers {u : State} {status : Nat} (hu : Staged s u)
    (hact : s.segAttachAct s.me.blk win s.myCtx (s.me.segHash name (s.wset g)) load = .done u status) :
    Answers (.segAttach g d win load name) s u (s.wset g) (segUses name) [(d, BitVec.ofNat 32 status)] :=
  answers_status h hu rfl hact

theorem segFree_answers {u : State} {status : Nat} (hu : Staged s u)
    (hact : s.segFreeAct s.myLaunch.queue s.myCtx (s.me.segHash name (s.wset g)) wb = .done u status) :
    Answers (.segFree g d wb name) s u (s.wset g) (segUses name) [(d, BitVec.ofNat 32 status)] :=
  answers_status h hu rfl hact

theorem segAttach_moves {u : State} {k : Nat} {x : Segment} (hu : Staged s u)
    (hact : s.segAttachAct s.me.blk win s.myCtx (s.me.segHash name (s.wset g)) load = .move (u.setSeg k x) k) :
    MovesSegment (.segAttach g d win load name) s u (s.wset g) (segUses name) d k
      { x with waiter := some (s.segWaiter g d win) } :=
  movesSegment_of_move h hu rfl hact

end
end

/-- Settles O32: each SEG instruction by the segment that it names, its window, and the room at its core. -/
theorem standingSegments : Obligations.StandingSegments := by
  intro s g d win load wb name a off W us bk core b named found here waiter moving hW hmem hp hwin hsorted
  have hseg {n : Nat} {scalar : Bool} {vs : List Use} {own : Gate} (hown : own = .go)
      (hr : Ready s W scalar vs (regGroup d n)) : SegReady s g d n scalar vs own := ⟨hW, hmem, hown, hr, hp⟩
  have hmoving {x : Segment} : moving x ↔ x.busy = true := Segment.busy_iff.symm
  have hidle {x : Segment} (h : ¬moving x) : x.busy = false := by
    rwa [hmoving, Bool.not_eq_true] at h
  refine ⟨fun hr => segQuery_answers (hseg (n := 2) rfl hr), ?_, ?_, ?_⟩
  · intro addr desc f ok mine new hr hsram
    have haddr : s.me.sramAt a off W.lowest = addr := BitVec.toNat_add _ _
    have h := hseg (n := 1) hsram hr
    have hok : ok ↔ segDescOk desc = true := segDescOk_iff.symm
    refine ⟨fun hn => ?_, fun ho k x hx => ⟨fun hm => ?_, fun hm => ?_⟩, fun ho hx hq => ?_, fun ho hx hq hfull => ?_,
      fun k ho hx hq hk hnone hlow => ?_⟩
    · exact segNew_answers haddr h (Staged.refl s) (State.segNewAct_malformed (by rwa [hok, Bool.not_eq_true] at hn))
    · exact segNew_answers haddr h (Staged.refl s) (State.segNewAct_named (hok.mp ho) hx (hidle hm))
    · exact segNew_waits haddr h (State.segNewAct_busy (hok.mp ho) hx (hmoving.mp hm))
    · refine segNew_answers (status := 4) haddr h (Staged.refl s) ((State.segNewAct_new hx).trans ?_)
      rw [State.segCreate_quota (hok.mp ho) hx hq]
    · refine segNew_answers (status := 3) haddr h (Staged.refl s) ((State.segNewAct_new hx).trans ?_)
      rw [State.segCreate_full (hok.mp ho) hx hq hfull]
    · refine segNew_answers (status := 0) haddr h ((Staged.refl s).setSeg k _) ((State.segNewAct_new hx).trans ?_)
      rw [State.segCreate_entry (hok.mp ho) hx hq hk hnone hlow]
  · intro hr hgate hmarch gone detach
    have h := hseg (n := 1) hgate hr
    have hgone : Staged s gone := (Staged.refl s).setBlock rfl
    exact ⟨fun hnone => segDetach_answers h hmarch (Staged.refl s) (State.segRelease_empty hnone),
      fun k x hk hx => ⟨fun hin => segDetach_answers h hmarch hgone (State.segRelease_held hk hin),
        fun hout => segDetach_answers h hmarch (hgone.setSeg k _) (State.segRelease_last hk hx hout)⟩⟩
  · intro hr attach free
    have h := hseg (n := 1) (own := .go) rfl hr
    refine ⟨fun hnone => ⟨segAttach_answers h (Staged.refl s) (State.segAttachAct_absent hnone),
      segFree_answers h (Staged.refl s) (State.segFreeAct_absent hnone)⟩, fun k x hf hx => ⟨fun hm => ⟨?_, ?_⟩,
      fun hm hw => ?_, fun hm ha => ?_, fun hm ha hw => ?_, fun hm hst ha hw => ?_, fun hm hnone hat => ⟨fun hst hl => ?_,
        fun hst hl ha => ?_, fun haway => ?_⟩⟩⟩
    · exact waits_of_hold h rfl (State.segAttachAct_busy hf (hmoving.mp hm))
    · exact waits_of_hold h rfl (State.segFreeAct_busy hf (hmoving.mp hm))
    · exact segAttach_answers h (Staged.refl s) (State.segAttachAct_taken hf (hidle hm) hw)
    · exact segFree_answers h (Staged.refl s) (State.segFreeAct_attached hf (hidle hm) ha)
    · exact segFree_answers h ⟨rfl, fun _ => rfl⟩ (State.segFreeAct_drop hf (hidle hm) ha hw)
    · subst hw
      exact movesSegment_of_move h (Staged.refl s) rfl (State.segFreeAct_write hf (hidle hm) hx ha hst)
    · exact segAttach_answers h (((Staged.refl s).setSeg k _).setBlock rfl)
        ((State.segAttachAct_here hf (hidle hm) hnone hat hst hl).trans (by rw [State.attach_eq hx]))
    · exact segAttach_answers h (Staged.refl s) (State.segAttachAct_elsewhere hf (hidle hm) hnone hat hst hl ha)
    · have hact := State.segAttachAct_away (load := load) hf (hidle hm) hnone hat haway
      refine ⟨fun hl => ?_, ?_⟩
      · exact raises_of_miss h hwin rfl (hact.trans (by rw [hl]; rfl))
      intro queue victims
      have hbring (hl : load = true) : s.segAttachAct s.me.blk win s.myCtx (s.me.segHash name W) load =
          s.segBring queue k x core := by
        rw [hact, hl]
        rfl
      refine ⟨fun hl hroom => ⟨fun hv => ?_, fun hv => ?_⟩, ?_⟩
      · exact segAttach_answers h (Staged.refl s) ((hbring hl).trans (State.segBring_nospace hroom hv))
      · exact segAttach_moves h (State.evictFirst_staged _ _ _ _ _ _) ((hbring hl).trans (State.segBring_evicts hroom hv))
      intro ks hl hroom hk u others enters waits
      have hu : Staged s u := State.evictFirst_staged _ _ _ _ _ _
      refine ⟨fun hst => ?_, fun hst hin => ?_, fun hst hout => ?_⟩
      · have := segAttach_moves h hu ((hbring hl).trans (State.segBring_moves hroom hst))
        rw [show (false : Bool) = (x.st == .cold) by rw [hst]; rfl] at this
        exact this
      all_goals
        have hloads := (hbring hl).trans (State.segBring_loads hroom hst)
        have henter := State.segEnter_eq (u := u) (k := k) (core := core)
          (x := { x with loading := true, goal := some (.reload core), queue := queue }) hst rfl
        have hwaits (st : SegState) (loc : Nat) (h : MovesSegment (.segAttach g d win load name) s u W us d k
            { x with st := st, loc := loc, goal := some (.reload core), queue := queue, loading := true,
                     waiter := some waiter }) : waits st loc := by
          rw [show true = (x.st == .cold) by rw [hst]; rfl] at h
          exact h
      · exact hwaits _ _ (segAttach_moves h hu (hloads.trans (by rw [henter.1 hin])))
      · rw [← hst]
        exact hwaits _ _ (segAttach_moves h hu (hloads.trans (by rw [henter.2 hout])))

end Sys2Proof.Machine

/-! PROOFS. What a block's end leaves of the warps, and the results that come back to a warp (R14, R20, R23). -/

namespace Sys2Proof.Machine

/-! ### The end of a block leaves every warp of another block (R209, R277, R290) -/

section
variable (s : State)

theorem List.foldl_warps {α : Type} {f : State → α → State} (h : ∀ s x, (f s x).warps = s.warps) (l : List α) :
    ∀ s : State, (l.foldl f s).warps = s.warps := by
  induction l with
  | nil => exact fun _ => rfl
  | cons x l ih => exact fun s => (ih _).trans (h s x)

theorem State.detachAll_warps (bk : Nat) : (s.detachAll bk).warps = s.warps := by
  refine List.foldl_warps (fun s k => ?_) _ s
  unfold State.detach
  split <;> rfl

theorem State.dropGalley_warps (core lk : Nat) : (s.dropGalley core lk).warps = s.warps := by
  unfold State.dropGalley
  split <;> rfl

theorem State.post_warps (m : Nat × Nat × Nat × List Byte) : (s.post m).warps = s.warps := by
  unfold State.post
  split <;> rfl

theorem State.send_warps (d kind a : Nat) (bs : List Byte) : (s.send d kind a bs).warps = s.warps := State.post_warps _ _

theorem State.request_warps (r : ExtReq) : (s.request r).warps = s.warps := by
  unfold State.request
  split
  · exact State.send_warps _ _ _ _ _
  · rfl

theorem State.putLoc_warps (ctx : Nat) (who : FaultWho) (loc : Nat) (bs : List Byte) : (s.putLoc ctx who loc bs).warps = s.warps := by
  unfold State.putLoc
  split
  · rfl
  · split
    · split <;> rfl
    · exact State.request_warps _ _

theorem State.zeroAway_warps (ctx : Nat) (who : FaultWho) (x : Xlat) : (s.zeroAway ctx who x).warps = s.warps := by
  unfold State.zeroAway
  split
  · rfl
  · exact State.putLoc_warps _ _ _ _ _

theorem State.dropEntry_warps (a : Nat) : (s.dropEntry a).warps = s.warps := by
  unfold State.dropEntry
  split <;> rfl

theorem State.reinstate_warps (ctx : Nat) (who : FaultWho) (x : Xlat) : (s.reinstate ctx who x).warps = s.warps := by
  unfold State.reinstate
  split
  · refine (State.dropEntry_warps _ _).trans ?_
    change State.warps (if _ then _ else _) = _
    split
    · exact State.zeroAway_warps _ _ _ _
    · rfl
  · rfl

theorem State.ownWrite_warps (bk loc n : Nat) : (s.ownWrite bk loc n).warps = s.warps := by
  unfold State.ownWrite
  split <;> rfl

theorem State.putAt_warps (ctx bk : Nat) (who : FaultWho) (x : Xlat) (bs : List Byte) :
    (s.putAt ctx bk who x bs).warps = s.warps :=
  (State.ownWrite_warps _ _ _ _).trans ((State.putLoc_warps _ _ _ _ _).trans (State.reinstate_warps _ _ _ _))

theorem State.commitRun_warps (ctx bk : Nat) (who : FaultWho) (lines : List (Nat × Nat)) (r : Nat × List Byte) :
    (s.commitRun ctx bk who lines r).warps = s.warps := by
  unfold State.commitRun
  split
  · exact State.putAt_warps _ _ _ _ _ _
  · exact (State.ownWrite_warps _ _ _ _).trans (State.putLoc_warps _ _ _ _ _)

theorem State.sendRelease_warps (ctx core : Nat) (who : FaultWho) (loc : Nat) (bs : List Byte) :
    (s.sendRelease ctx core who loc bs).warps = s.warps := by
  unfold State.sendRelease
  split
  · exact State.request_warps _ _
  · rfl

theorem State.commitVersion_warps (ctx bk core : Nat) (who : FaultWho) : (s.commitVersion ctx bk core who).warps = s.warps := by
  have hput (v : List (Nat × Byte)) (lines : List (Nat × Nat)) :
      ((versionRuns v).foldl (fun t r => t.commitRun ctx bk who lines r) s).warps = s.warps :=
    List.foldl_warps (fun t r => State.commitRun_warps t ctx bk who lines r) _ s
  unfold State.commitVersion
  dsimp only
  split
  · rfl
  split
  · exact hput _ _
  split
  · rfl
  split
  · split <;> exact hput _ _
  split
  · rfl
  · exact List.foldl_warps (fun t r => State.sendRelease_warps t _ _ _ _ _) _ s

theorem State.flushTile_warps (bk : Nat) : (s.flushTile bk).warps = s.warps := by
  unfold State.flushTile
  dsimp only
  split
  · rfl
  split
  · rfl
  split
  · rfl
  split
  · rfl
  · rfl
  · refine List.foldl_warps (fun t w => ?_) _ _
    split
    · exact State.putAt_warps _ _ _ _ _ _
    · rfl

theorem State.sendMarks_warps (bk : Nat) : (s.sendMarks bk).warps = s.warps := by
  unfold State.sendMarks State.sendMarksOf
  dsimp only
  split
  · rfl
  split
  · rfl
  · exact List.foldl_warps (fun t d => State.send_warps t _ _ _ _) _ _

theorem State.endBlock_warps (bk : Nat) : (s.endBlock bk).warps = s.warps := by
  unfold State.endBlock
  dsimp only
  rw [State.sendMarks_warps, State.flushTile_warps, State.dropGalley_warps, State.commitVersion_warps, State.setBlock_warps,
    State.detachAll_warps]

theorem State.closeBlock_warps (bk : Nat) : (s.closeBlock bk).warps = s.warps := by
  unfold State.closeBlock
  split
  · split
    · exact State.endBlock_warps _ _
    · rfl
  · rfl

/-! ### The end of a warp (R14, R200) -/

/-- A key that a list does not name is not found in a list of the same keys. -/
theorem Map.find_none_of_keys {α : Type} {m n : List (Nat × α)} {k : Nat} (h : Map.find m k = none)
    (hk : n.map Prod.fst = m.map Prod.fst) : Map.find n k = none := by
  refine Map.find_none_of_all n k fun p hp hpk => ?_
  obtain ⟨q, hq, hqp⟩ := List.mem_map.mp (hk ▸ List.mem_map_of_mem (f := Prod.fst) hp)
  have hfound := Map.find_isSome_of_mem hq
  rw [hqp, hpk, h] at hfound
  cases hfound

theorem State.checkBarrier_keys (bk : Nat) : (s.checkBarrier bk).warps.map Prod.fst = s.warps.map Prod.fst := by
  unfold State.checkBarrier
  split
  · change ((s.warps).map _).map _ = _
    rw [List.map_map]
    refine List.map_congr_left fun p _ => ?_
    simp only [Function.comp_apply]
    split <;> rfl
  · rfl

theorem Warp.checkHandler_over (w : Warp) : w.checkHandler.over = w.over := by
  unfold Warp.checkHandler
  split <;> rfl

/-- What follows the end of a warp brings back none that is gone. -/
theorem State.find_blockAfterWarp {k : Nat} (bk : Nat) (h : Map.find s.warps k = none) :
    Map.find (if (s.blockWarps bk).isEmpty then s.closeBlock bk else s.checkBarrier bk).warps k = none := by
  split
  · rw [State.closeBlock_warps, h]
  · exact Map.find_none_of_keys h (State.checkBarrier_keys _ _)

/-- A warp that is over has left its slot after its exit. -/
theorem State.find_afterExit {slot : Nat} (h : (s.warp slot).over = true) : Map.find (s.afterExit slot).warps slot = none := by
  have hend : Map.find (s.endWarp slot).warps slot = none := Map.find_erase_same _ _
  unfold State.afterExit
  simp only [Warp.checkHandler_over, h, if_true]
  refine State.find_blockAfterWarp _ _ ?_
  split <;> exact hend

end

/-! ### Results written back (R20, R23, R89) -/

/-- Of two writes of one register the later one stays. -/
theorem Warp.setVreg_setVreg (w : Warp) (n : Nat) (r q : VReg) : (w.setVreg n r).setVreg n q = w.setVreg n q := by
  have herase : Map.erase (Map.put w.vregs n r ⟨.n, 0⟩) n = Map.erase w.vregs n := by
    unfold Map.put
    split
    · simp [Map.erase]
    · exact Map.erase_set_same _ _ _
  change { w with vregs := Map.put (Map.put w.vregs n r ⟨.n, 0⟩) n q ⟨.n, 0⟩ } = w.setVreg n q
  have hput : Map.put (Map.put w.vregs n r ⟨.n, 0⟩) n q ⟨.n, 0⟩ = Map.put w.vregs n q ⟨.n, 0⟩ := by
    rw [Map.put, herase, Map.set, herase]
    rfl
  rw [hput]
  rfl

section
variable (s : State) (slot : Nat) (w : Warp) (f : Inflight)

theorem State.landed_rest : s.landed slot w f = { w with
    vregs := (s.landed slot w f).vregs, inflight := w.inflight.erase f, kflags := setFlags w.kflags f.flags
    stuck := w.stuck.filter fun q => q != f.reg } := rfl

/-- The register of a producer after its last result (R20). -/
theorem State.landed_vregs : ∃ compact, (s.landed slot w f).vregs = (w.setVreg f.reg
    ⟨(w.vreg f.reg).st.write f.value f.w f.whole false compact, (w.vreg f.reg).pend &&& ~~~f.w⟩).vregs := by
  refine ⟨s.compactFree slot (w.setVreg f.reg ⟨.n, (w.vreg f.reg).pend⟩), ?_⟩
  have hstore : (s.storeReg slot w f.w f.whole false f.reg f.value).vreg f.reg = _ := Warp.vreg_setVreg_same _ _ _
  change ((s.storeReg slot w f.w f.whole false f.reg f.value).setVreg f.reg
    { (s.storeReg slot w f.w f.whole false f.reg f.value).vreg f.reg with
      pend := ((s.storeReg slot w f.w f.whole false f.reg f.value).vreg f.reg).pend &&& ~~~f.w }).vregs = _
  rw [hstore]
  exact congrArg Warp.vregs (Warp.setVreg_setVreg _ _ _ _)

theorem Warp.vreg_congr {v w : Warp} (h : v.vregs = w.vregs) (n : Nat) : v.vreg n = w.vreg n := by
  unfold Warp.vreg
  rw [h]

theorem State.landed_vreg_other {n : Nat} (hn : n ≠ f.reg) : (s.landed slot w f).vreg n = w.vreg n := by
  obtain ⟨_, hv⟩ := s.landed_vregs slot w f
  exact (Warp.vreg_congr hv n).trans (Warp.vreg_setVreg_other _ _ _ _ hn)

/-- The lanes of the producer's write set hold its results; where it was not of every live thread the others are as before. -/
theorem State.landed_vreg_same : ((s.landed slot w f).vreg f.reg).pend = (w.vreg f.reg).pend &&& ~~~f.w ∧ ∀ k : Fin 32,
    (f.w.getLsbD k.val = true → ((s.landed slot w f).vreg f.reg).st.lane k = f.value.lane k) ∧
    (f.whole = false → f.w.getLsbD k.val = false →
      ((s.landed slot w f).vreg f.reg).st.lane k = (w.vreg f.reg).st.lane k) := by
  obtain ⟨_, hv⟩ := s.landed_vregs slot w f
  rw [Warp.vreg_congr hv, Warp.vreg_setVreg_same]
  refine ⟨rfl, fun k => ⟨fun hk => ?_, fun hwhole hk => ?_⟩⟩
  · exact (Storage.lane_write _ _ _ _ _ _ _ fun _ => hk).trans (if_pos hk)
  · refine (Storage.lane_write _ _ _ _ _ _ _ fun hc => ?_).trans (if_neg (ne_true_of_eq_false hk))
    rw [hwhole] at hc
    cases hc

/-- A late write takes one general slot at most (R25). -/
theorem State.landRoom_of_slotsFor (h : s.slotsFor slot w 1 = true) : s.landRoom slot w f = true := by
  refine State.slotsFor_mono _ _ _ _ _ ?_ h
  obtain ⟨c, hc⟩ := s.landed_vregs slot w f
  have hheld : (s.landed slot w f).gHeld ≤ w.gHeld + 1 := by
    unfold Warp.gHeld
    rw [hc]
    exact Warp.gHeld_setVreg w _ _
  omega

end

section
variable {s : State} {w r : Nat} {l : Fin 32} {x : Warp} {f : Inflight} (hx : Map.find s.warps w = some x)
  (hf : (x.inflight.find? fun f => f.reg == r && f.due.getLsbD l.val && !f.held.getLsbD l.val) = some f)

theorem exec_longLatencyWriteback : exec (.longLatencyWriteback w r l.val) s = execLongLatencyWriteback w r l.val s := rfl

include hx hf

theorem writeback_arrives (hd : f.due ≠ LaneMask.one l) :
    exec (.longLatencyWriteback w r l.val) s = .next (s.setWarp w (x.arrived f l)) := by
  rw [exec_longLatencyWriteback, execLongLatencyWriteback, hx]
  simp only [hf, Fin.ofNat_val_eq_self, hd, if_false]

theorem writeback_lands (hd : f.due = LaneMask.one l) (hroom : s.slotsFor w x 1 = true) :
    exec (.longLatencyWriteback w r l.val) s = .next (s.setWarp w (s.landed w x f)) := by
  rw [exec_longLatencyWriteback, execLongLatencyWriteback, hx]
  simp only [hf, Fin.ofNat_val_eq_self, hd, if_true, State.landRoom_of_slotsFor s w x f hroom]

end

end Sys2Proof.Machine

/-! PROOFS. The events of warps: windows of the collector and of the collator, the ends of waits, replay; and O44 (R135,
R187, R197, R204, R213, R338). -/

namespace Sys2Proof.Machine

/-! ### The collector's window (R187) -/

theorem splitWindow_append : ∀ (n : Nat) (rs : List CollectReq), (splitWindow n rs).1 ++ (splitWindow n rs).2 = rs
  | _, [] => by simp [splitWindow]
  | 0, r :: rs => rfl
  | n + 1, r :: rs => congrArg (r :: ·) (splitWindow_append (n + 1 - r.addrs.length) rs)

/-- A window takes all of its requests where their lanes fit. -/
theorem splitWindow_all : ∀ (n : Nat) (rs : List CollectReq), (rs.map fun r => r.addrs.length).sum ≤ n →
    (∀ r ∈ rs, r.addrs ≠ []) → (splitWindow n rs).2 = []
  | _, [], _, _ => by simp [splitWindow]
  | 0, r :: rs, h, hne => by
    have := List.length_pos_of_ne_nil (hne r (by simp))
    simp only [List.map_cons, List.sum_cons] at h
    omega
  | n + 1, r :: rs, h, hne => by
    simp only [List.map_cons, List.sum_cons] at h
    exact splitWindow_all (n + 1 - r.addrs.length) rs (by omega) fun q hq => hne q (by simp [hq])

theorem Core.requests_eq (c : Core) : c.requests = (c.collector.map fun r => r.addrs.length).sum := by
  unfold Core.requests
  rw [List.foldl_add_eq_sum (fun r : CollectReq => r.addrs.length), Nat.zero_add]

section
variable {s : State} {core : Nat}

theorem exec_collectorWindowClose : exec (.collectorWindowClose core) s = execCollectorWindowClose core s := rfl

theorem collectorWindow_closes (hc : (s.core core).collector ≠ [])
    (hdue : 64 ≤ (s.core core).collectorAge ∨ 256 ≤ (s.core core).requests) :
    exec (.collectorWindowClose core) s = .next (s.closeWindow core) := by
  rw [exec_collectorWindowClose, execCollectorWindowClose]
  refine if_neg ?_
  simp only [Bool.or_eq_true, List.isEmpty_iff, hc, Bool.and_eq_true, decide_eq_true_eq, false_or]
  omega

theorem collectorWindow_stays (ha : (s.core core).collectorAge < 64) (hr : (s.core core).requests < 256) :
    exec (.collectorWindowClose core) s = .next s := by
  rw [exec_collectorWindowClose, execCollectorWindowClose]
  simp only [ha, hr, decide_true, Bool.and_self, Bool.or_true, if_true]

end

/-! ### Waits that end (R135, R136, R386), replay (R213) -/

section
variable {s : State} {w : Nat} {x : Warp} (hx : Map.find s.warps w = some x)
include hx

theorem State.warp_of_find : s.warp w = x := by
  unfold State.warp Map.getD
  rw [hx]
  rfl

theorem exec_yieldRelease : exec (.yieldRelease w) s = .next (if x.aside = 1 ∨ (x.aside ≠ 0 ∧ x.asidePeers = []) then
    s.setWarp w { x with aside := 0, asidePeers := [] } else s) := by
  change execYieldRelease w s = _
  rw [execYieldRelease, hx]
  exact (apply_ite (fun t => (.next t : Res)) _ _ _).symm

theorem exec_sleepEnd : exec (.sleepEnd w) s = .next (if x.sleep = 1 then s.setWarp w { x with sleep := 0 } else s) := by
  change execSleepEnd w s = _
  rw [execSleepEnd, hx]
  exact (apply_ite (fun t => (.next t : Res)) _ _ _).symm

theorem exec_handlerBudgetExpiry : exec (.handlerBudgetExpiry w) s = .next (if x.hndl = true ∧ x.khbudget = 0 then
    s.kill x.blk ⟨0x10, x.kcause.toNat % 256, x.trapMask.lowest.val, x.kepc, x.trapMask, false, x.index⟩ else s) := by
  change execHandlerBudgetExpiry w s = _
  rw [execHandlerBudgetExpiry, hx]
  simp only [Bool.and_eq_true, beq_iff_eq]
  exact (apply_ite (fun t => (.next t : Res)) _ _ _).symm

theorem operandLogReplay_replays {e : LogEntry} (he : x.log = some e) (hm : ∀ k, e.acc.op ≠ .move k) :
    exec (.operandLogReplay w) s =
      .next (if s.faulted (s.launch (s.block x.blk).launch).ctx (.warp w) then s else s.replay w e) := by
  change execOperandLogReplay w s = _
  rw [execOperandLogReplay, hx, Option.bind_some, he, State.warp_of_find hx]
  dsimp only
  split
  next k hk => exact absurd hk (hm k)
  next => rfl

theorem operandLogReplay_stays (he : x.log = none) : exec (.operandLogReplay w) s = .next s := by
  change execOperandLogReplay w s = _
  rw [execOperandLogReplay, hx, Option.bind_some, he]

end

/-! ### Answers to waits (R14, R204, R237) -/

section
variable {s : State} {w i : Nat} {l : Fin 32} {x : Warp} {y : Wait} {a : Nat} (hx : Map.find s.warps w = some x)
  (hy : x.waits[i]? = some y) (hdue : y.due.getLsbD l.val = true) (ha : Map.find y.addrs l.val = some a)
include hx

section
include hy hdue ha

theorem exec_phaseWaitSatisfied {b : Bank} {off : Nat} (hg : y.guard = false) (hs : s.sram x.blk a 4 = .ok b off) :
    exec (.phaseWaitSatisfied w i l.val) s =
      if bitOf (s.sramRead b off 4) 31 != (y.wanted.get l == 1) then .next s
      else .next ((s.order (slotCore w) y.acquire false false y.scope (b.key off) 4 false).putAnswer w i y l
        (BitVec.ofNat 32 (s.sramRead b off 4))) := by
  change execPhaseWaitSatisfied w i l.val s = _
  rw [execPhaseWaitSatisfied, hx, Option.bind_some, hy]
  simp only [ha, hg, hdue, State.warp_of_find hx, hs, Fin.ofNat_val_eq_self]
  rfl

theorem exec_guardWaitSatisfied {p : Xlat} (hg : y.guard = true) (hway : s.way (s.issuer w) y.access l.val a = .here p) :
    exec (.guardWaitSatisfied w i l.val) s =
      .next ((s.guardSeen w i l.val y (.here p) s).settle (s.issuer w).party.ctx (s.issuer w).party.who) := by
  change execGuardWaitSatisfied w i l.val s = _
  rw [execGuardWaitSatisfied, hx, Option.bind_some, hy]
  simp only [ha, hg, hdue, hway]
  rfl

end

/-- A warp of a machine without carried reads keeps none when a wait of it is answered. -/
theorem State.answerWait_carried (v : Word) : (s.answerWait w i y l v).carried = x.carried := by
  unfold State.answerWait Warp.stick
  rw [State.warp_of_find hx]
  dsimp only
  split
  · split
    · rfl
    · split <;> rfl
  · rfl

theorem State.putAnswer_arrived (hc : ∀ p ∈ s.warps, p.2.carried = []) (v : Word) :
    s.putAnswer w i y l v =
      if (s.answerWait w i y l v).over then (s.setWarp w (s.answerWait w i y l v)).afterExit w
      else if (s.block x.blk).arrivals = 0 then s.setWarp w (s.answerWait w i y l v)
      else (s.setWarp w (s.answerWait w i y l v)).checkBarrier x.blk := by
  have hdrop : (s.setWarp w (s.answerWait w i y l v)).dropCarried w y.reg l = s.setWarp w (s.answerWait w i y l v) := by
    refine if_neg ?_
    simp only [List.any_eq_true, not_exists, not_and]
    intro p hp
    have hcarried : p.2.carried = [] := by
      rcases Map.mem_ins.mp hp with hp | hp
      · rw [hp]
        exact (State.answerWait_carried hx v).trans (hc _ (Map.mem_of_find hx))
      · exact hc _ (Map.mem_erase hp).1
    simp [hcarried]
  unfold State.putAnswer
  simp only [hdrop, State.warp_setWarp_same, State.warp_of_find hx]

theorem State.answerWait_pending {v : Word} (hd : y.due &&& ~~~LaneMask.one l ≠ 0) : s.answerWait w i y l v =
    { x.setVreg y.reg { x.vreg y.reg with pend := (x.vreg y.reg).pend &&& ~~~LaneMask.one l } with
      waits := x.waits.set i { y with got := y.got.set l.val v, due := y.due &&& ~~~LaneMask.one l } } := by
  unfold State.answerWait
  rw [State.warp_of_find hx]
  exact if_neg hd

end

/-! ### The word of a waiting ACQ (R197) -/

section
variable {s t : State} {w i : Nat} {l : Fin 32} {y : Wait} {way : Way} {v : Word} {vs : List Word}
  (hv : (s.oneLane (s.issuer w) y.access l.val way).2.1 = some (v :: vs))
include hv

theorem State.guardSeen_unmet (h : acqMeets y.equal v.toNat (y.wanted.get l).toNat = false) :
    s.guardSeen w i l.val y way s = s := by
  unfold State.guardSeen
  simp only [hv, Fin.ofNat_val_eq_self, h, Bool.not_false, if_true]

theorem State.guardSeen_met (h : acqMeets y.equal v.toNat (y.wanted.get l).toNat = true) :
    s.guardSeen w i l.val y way s = (s.oneLane (s.issuer w) y.access l.val way).1.putAnswer w i y l v := by
  unfold State.guardSeen
  simp only [hv, Fin.ofNat_val_eq_self, h, Bool.not_true, Bool.false_eq_true, if_false]

end

/-! ### Windows of the collator (R338) -/

section
variable {s : State} {b target : Nat}

theorem collatorWindowTimeout_closes (hp : (s.launch (s.block b).launch).proof = false) :
    exec (.collatorWindowTimeout b target) s =
      if ∃ w ∈ (s.block b).collator, w.closed = false ∧ w.target.toNat = target ∧ 256 ≤ w.age then
        .next (s.setBlock b { s.block b with collator := (s.block b).collator.map fun (w : Window) =>
          if w.closed = false ∧ w.target.toNat = target ∧ 256 ≤ w.age then { w with closed := true } else w })
      else .next s := by
  change execCollatorWindowTimeout b target s = _
  rw [execCollatorWindowTimeout]
  simp only [hp, Bool.not_false, Bool.true_and, List.any_eq_true, Bool.and_eq_true, Bool.not_eq_true', beq_iff_eq,
    decide_eq_true_eq, and_assoc]

theorem exec_collatorWarpForm :
    exec (.collatorWarpForm b) s = .next ((s.askClosed b).formFirst b [] ((s.askClosed b).block b).collator) := rfl

theorem State.askClosed_open (h : ∀ w ∈ (s.block b).collator, w.closed = false) : s.askClosed b = s := by
  have hnone : (s.block b).collator.filter Window.closed = [] :=
    List.filter_eq_nil_iff.mpr fun w hw => by simp [h w hw]
  unfold State.askClosed
  rw [hnone]
  rfl

theorem State.formFirst_open (before : List Window) {ws : List Window} (h : ∀ w ∈ ws, w.closed = false) :
    s.formFirst b before ws = s := by
  induction ws generalizing before with
  | nil => rfl
  | cons w ws ih =>
    unfold State.formFirst
    simp only [h w (by simp), Bool.false_eq_true, if_false]
    exact ih _ fun v hv => h v (by simp [hv])

theorem State.formFirst_forms {w v : Window} {ws : List Window} {t : State} (hc : w.closed = true)
    (hf : s.formFrom b w = some (t, v)) : s.formFirst b [] (w :: ws) = t.setBlock b { t.block b with
      collator := (if v.threads = [] ∧ v.rays = [] then [] else [v]) ++ ws } := by
  unfold State.formFirst
  simp only [hc, if_true, hf, List.nil_append, Bool.and_eq_true, List.isEmpty_iff]

end

/-! ### The statement -/

/-- Settles O44: each event of a warp where it is due, and none where it is not. -/
theorem warpEvents : Obligations.WarpEvents := by
  refine ⟨fun s w r l x f hx hf => ?_, fun s core => ?_, fun s w x hx => ?_, fun s b target => ?_, fun s b => ?_⟩
  · intro one arrives
    have hreg : f.reg = r := by
      have := List.find?_some hf
      simp only [Bool.and_eq_true, beq_iff_eq, and_assoc] at this
      exact this.1
    have hmem : f ∈ x.inflight := List.mem_of_find?_eq_some hf
    have harrives {z : Warp} {y : State → Warp} {p : State → Prop}
        (hi : exec (.longLatencyWriteback w r l.val) s = .next (s.setWarp w z)) (hy : z = y (s.setWarp w z))
        (hn : ∀ n, n ≠ r → z.vreg n = x.vreg n) (hp : p (s.setWarp w z)) : arrives y p := by
      refine ⟨_, hi, rfl, fun k hk => Map.find_set_other _ _ _ _ hk, ?_, ?_, hp⟩
      · rw [State.warp_setWarp_same, ← hy]
      · rw [State.warp_setWarp_same]
        exact hn
    refine ⟨fun hd => ?_, fun hd hw hroom => ?_⟩
    · refine harrives (writeback_arrives hx hf hd) ?_ (fun n hn => ?_) ?_
      · rw [State.warp_setWarp_same]
        rfl
      · exact Warp.vreg_setVreg_other _ _ _ _ (hreg ▸ hn)
      · rw [State.warp_setWarp_same, ← hreg]
        exact ⟨Warp.vreg_setVreg_same _ _ _, List.mem_map.mpr ⟨f, hmem, if_pos rfl⟩⟩
    · refine harrives (writeback_lands hx hf hd hroom) ?_ (fun n hn => State.landed_vreg_other _ _ _ _ (hreg ▸ hn)) ?_
      · rw [State.warp_setWarp_same, State.landed_rest, hreg]
      · rw [State.warp_setWarp_same, ← hreg]
        exact State.landed_vreg_same s w x f
  · intro c
    refine ⟨fun hc hdue => ⟨_, _, (splitWindow_append 256 c.collector).symm, collectorWindow_closes hc hdue, fun hr hne => ?_⟩,
      collectorWindow_stays⟩
    exact splitWindow_all 256 c.collector (by rwa [← Core.requests_eq]) hne
  · refine ⟨exec_yieldRelease hx, exec_sleepEnd hx, exec_handlerBudgetExpiry hx, fun e => operandLogReplay_replays hx,
      operandLogReplay_stays hx, fun i l y a hy hdue ha => ⟨?_, ?_, ?_, ?_⟩⟩
    · intro b off hg hs v
      rw [exec_phaseWaitSatisfied hx hy hdue ha hg hs]
      exact ⟨fun h => if_pos (by simpa using h), fun h => if_neg (by simpa using h)⟩
    · intro p t v vs hg u hway ht hv
      have hexec := exec_guardWaitSatisfied hx hy hdue ha hg hway
      refine ⟨fun h => ?_, fun h => ?_⟩
      · rw [hexec, State.guardSeen_unmet hv h]
      · rw [hexec, State.guardSeen_met hv h, ht]
    · intro v hc z
      have hput := State.putAnswer_arrived (i := i) (l := l) (y := y) hx hc v
      refine ⟨fun ho hb => ?_, fun ho => ?_⟩
      · rw [hput, if_neg (by simpa using ho), if_pos hb]
      · rw [hput, if_pos ho]
        exact State.find_afterExit _ (by rwa [State.warp_setWarp_same])
    · intro v hd z
      have hz : z = _ := State.answerWait_pending hx hd
      rw [hz]
      refine ⟨rfl, fun n => ?_⟩
      split
      next hn => rw [hn]; exact Warp.vreg_setVreg_same _ _ _
      next hn => exact Warp.vreg_setVreg_other _ _ _ _ hn
  · intro k due hp
    rw [collatorWindowTimeout_closes hp]
    exact ⟨fun h => if_pos h, fun h => if_neg h⟩
  · refine ⟨fun h => ?_, fun w ws t v hws hc hf => ?_⟩
    · rw [exec_collatorWarpForm, State.askClosed_open h, State.formFirst_open _ h]
    · rw [exec_collatorWarpForm, hws, State.formFirst_forms hc hf]

end Sys2Proof.Machine

/-! PROOFS. Blocks that come and go: offers, the order of admission, starts, completions, restores; and O46 (R12, R312,
R330, R333, R402). -/

namespace Sys2Proof.Machine

/-! ### Offers (R330, R390) -/

section
variable {s : State} {k cl : Nat} {l : Launch} (hl : Map.find s.launches k = some l)

/-- A launch with a block left that runs, and is neither cancelled, lost nor ended, has one to offer. -/
theorem Launch.offers_of_ready (h : l.phase = .running ∧ l.cancelled = false ∧ l.devlost = false ∧ l.ended = false)
    (hb : l.relaunch ≠ [] ∨ l.nextBlock < l.last) : l.offers = true := by
  obtain ⟨hphase, hcancelled, hlost, hended⟩ := h
  unfold Launch.offers
  simpa [hphase, hcancelled, hlost, hended] using hb

include hl

theorem launchMessage_offers (ho : l.offers = true) (hfirst : ∀ p ∈ s.launches, p.2.offers = true → p.2.prio ≤ l.prio)
    (hcl : cl < 48) (hup : (s.cluster cl).linkUp = true) : exec (.launchMessage k cl) s = .next (s.setLaunch k l.offer) := by
  change execLaunchMessage k cl s = _
  rw [execLaunchMessage, hl]
  refine if_neg ?_
  simp only [ho, hup, Nat.not_le.mpr hcl, Bool.not_true, decide_false, Bool.or_self, Bool.false_or, List.any_eq_true,
    Bool.and_eq_true, decide_eq_true_eq, not_exists, not_and, Nat.not_lt]
  exact hfirst

theorem launchMessage_stays (h : (¬∀ p ∈ s.launches, p.2.offers = true → p.2.prio ≤ l.prio) ∨ l.offers = false) :
    exec (.launchMessage k cl) s = .next s := by
  change execLaunchMessage k cl s = _
  rw [execLaunchMessage, hl]
  refine if_pos ?_
  rcases h with h | h
  · have hlater : (s.launches.any fun p => p.2.offers && decide (l.prio < p.2.prio)) = true := by
      simpa using h
    rw [hlater, Bool.or_true]
  · simp [h]

end

/-! ### Admission (R307, R312, R334) -/

section
variable {s : State} {lk n core p0 : Nat} {w : Waiter}

/-- The attempt to admit a waiting block whose turn it is. -/
theorem exec_blockAdmission (hw : s.waiter lk n = some w) (hfresh : w.saved = none)
    (hall : ∀ m ∈ s.groupLeft lk n, ∃ v ∈ s.waiters, v.launch = lk ∧ v.n = m.1 ∧ v.saved = none)
    (hended : (s.launch lk).ended = false) (hturn : ∀ c ∈ s.partyCores w core, s.turnOf w c = true)
    (hcorner : s.firstCorner lk n core = true) : exec (.blockAdmission lk n core p0) s =
      match s.admitGroup lk n core p0 with
      | .no => .next s
      | .evict c ks => .next (s.evictFirst (s.launch lk).queue (s.launch lk).ctx c .evict ks)
      | .ok t _ => .next (t.setLaunch lk { t.launch lk with
          waiting := (t.launch lk).waiting.filter fun v => !(s.groupLeft lk n).any fun m => m.1 == v.1 }) := by
  have hmembers : ((s.groupLeft lk n).all fun m =>
      s.waiters.any fun w => w.launch == lk && w.n == m.1 && w.saved.isNone) = true := by
    simpa [and_assoc] using hall
  have hat : s.turnAt w core = true := List.all_eq_true.mpr hturn
  change execBlockAdmission lk n core p0 s = _
  rw [execBlockAdmission, hw]
  simp only [hfresh, hmembers, hended, hat, hcorner]
  rfl

/-- A block does not go before one that comes before it and fits there, or has waited too long for it (R312). -/
theorem State.turnOf_false {o : Waiter} (ho : o ∈ s.waiters) (hb : o.before w = true) (hp : s.sameParty o w = false)
    (h : s.fitsAt o core = true ∨ (3000000 ≤ o.waited ∧ s.couldUse o core = true)) : s.turnOf w core = false := by
  refine List.all_eq_false.mpr ⟨o, List.mem_filter.mpr ⟨ho, by rw [hb, hp]; rfl⟩, ?_⟩
  rcases h with h | ⟨h, hc⟩
  · simp [h]
  · have hl : waitLimit ≤ o.waited := h
    simp [hl, hc]

theorem priorityPreemption_early (hw : s.waiter lk n = some w) (h : w.waited < 75000) :
    exec (.priorityPreemption lk n core) s = .next s := by
  change execPriorityPreemption lk n core s = _
  rw [execPriorityPreemption, hw]
  exact if_pos (.inl h)

theorem priorityPreemption_requests (hw : s.waiter lk n = some w) (h : 75000 ≤ w.waited) (hc : s.couldUse w core = true)
    (hf : ∀ c ∈ s.service, s.fitsAt w c = false) {vs : List Nat}
    (hv : s.enough w core (s.victims w.prio core) [] = some vs) :
    exec (.priorityPreemption lk n core) s = .next (vs.foldl (fun u v => u.requestSave 0 v) s) := by
  have hdue : ¬(w.waited < preemptWait ∨ (!s.couldUse w core) = true ∨ (s.service.any fun c => s.fitsAt w c) = true) := by
    have hnone : (s.service.any fun c => s.fitsAt w c) = false := List.any_eq_false.mpr fun c hc => by simp [hf c hc]
    have hlate : ¬w.waited < preemptWait := Nat.not_lt.mpr h
    simp [hc, hnone, hlate]
  change execPriorityPreemption lk n core s = _
  rw [execPriorityPreemption, hw]
  refine (if_neg hdue).trans ?_
  rw [hv]

end

/-! ### A fresh warp (R12, R39) -/

theorem freshWarp_lane (l : Launch) (b w q : Nat) (trap : Option (Nat × Nat)) (i : Fin 32) :
    let x := (freshWarp l b w q trap).lanes[i]
    let t := 32 * w + i.val
    x.st = (if t < l.threads then .live else .none) ∧ (t < l.threads → x.pc = addrPc (BitVec.ofNat 57 l.entry)) ∧
    x.tx = t % l.dimx ∧ x.ty = t / l.dimx % l.dimy ∧ x.tz = t / (l.dimx * l.dimy) := by
  intro x t
  have hx : x = if t < l.threads then
        { Lane.none with
          pc := addrPc (BitVec.ofNat 57 l.entry), st := .live
          tx := t % l.dimx, ty := t / l.dimx % l.dimy, tz := t / (l.dimx * l.dimy) }
      else { Lane.none with tx := t % l.dimx, ty := t / l.dimx % l.dimy, tz := t / (l.dimx * l.dimy) } :=
    Vector.getElem_ofFn _
  rw [hx]
  split
  next h => exact ⟨rfl, fun _ => rfl, rfl, rfl, rfl⟩
  next h => exact ⟨rfl, fun h' => absurd h' h, rfl, rfl, rfl⟩

/-! ### The start of a block (R39, R331, R402) -/

section
variable {s : State} {b : Nat} {x : Block} (hx : Map.find s.blocks b = some x)
include hx

theorem blockStart_restored (ha : s.attachedHere b = true) (hp : x.phase = .restoring) (hw : s.blockWarps b ≠ []) :
    exec (.blockStart b) s = .next ((s.setBlock b { x with phase := .running }).checkBarrier b) := by
  have hsome : ((s.setBlock b { x with phase := .running }).blockWarps b).isEmpty = false :=
    List.isEmpty_eq_false_iff.mpr hw
  change execBlockStart b s = _
  rw [execBlockStart, hx]
  simp only [hp, ha, hsome]
  rfl

theorem blockStart_starts (ha : s.attachedHere b = true) (hp : x.phase = .starting) (hn : (s.launch x.launch).nin = 0)
    (ht : (s.launch x.launch).ltype ≠ 2) :
    let p := s.inputParty b
    let numbered := ((s.dropKept p.who).settle p.ctx p.who).numberWarps b
    exec (.blockStart b) s = .next (numbered.setBlock b { numbered.block b with
      area := putArea (s.launch x.launch).areaBytes [] 0 (s.launch x.launch).args, phase := .running }) := by
  have hcopies : (s.launch x.launch).copies x.n = [] := by
    unfold Launch.copies
    rw [hn]
    rfl
  have htype : ((s.launch x.launch).ltype == 2) = false := beq_eq_false_iff_ne.mpr ht
  intro p numbered
  change execBlockStart b s = _
  rw [execBlockStart, hx]
  simp only [hp, ha, hcopies, htype]
  rfl

theorem blockStart_begun (hp : x.phase = .running ∨ x.phase = .ended) : exec (.blockStart b) s = .next s := by
  change execBlockStart b s = _
  rw [execBlockStart, hx]
  rcases hp with hp | hp <;> simp only [hp] <;> rfl

theorem blockStart_unattached (ha : s.attachedHere b = false) : exec (.blockStart b) s = .next s := by
  change execBlockStart b s = _
  rw [execBlockStart, hx]
  simp only [ha, Bool.and_false, Bool.not_false, Bool.or_true, Bool.false_eq_true, if_false, if_true]

/-! ### The completion of a block (R294, R319) -/

theorem blockCompletion_early (hp : x.phase ≠ .ended) : exec (.blockCompletion b) s = .next s := by
  change execBlockCompletion b s = _
  rw [execBlockCompletion, hx]
  exact if_pos (by simpa using hp)

theorem State.block_of_find : s.block b = x := by
  unfold State.block Map.getD
  rw [hx]
  rfl

theorem State.flushTile_flushed (hf : x.flushed = true) : s.flushTile b = s := by
  unfold State.flushTile
  rw [State.block_of_find hx]
  exact if_pos hf

theorem blockCompletion_completes (hp : x.phase = .ended) (hf : x.flushed = true) (hv : x.version = [])
    (hover : s.blockOver b x = true) (hdone : s.enginesDone b = true) :
    exec (.blockCompletion b) s = .next (State.switched { (s.setLaunch x.launch { s.launch x.launch with
        done := (s.launch x.launch).done + 1 }).setCluster (clusterOf (blockCore b))
          { s.cluster (clusterOf (blockCore b)) with
            order := (s.cluster (clusterOf (blockCore b))).order.filter fun k => k != b } with
      ext := s.ext.filter fun r => !s.partyOf b r.who
      blocks := Map.erase s.blocks b } (clusterOf (blockCore b))) := by
  change execBlockCompletion b s = _
  rw [execBlockCompletion, hx]
  simp only [State.flushTile_flushed hx hf, ite_self, State.block_of_find hx, hp, hv, hover, hdone]
  rfl

end

theorem State.blockOver_of_quiet {s : State} {b : Nat} {x : Block} (hp : x.phase = .ended) (hf : x.flushed = true)
    (hv : x.version = []) (he : ∀ r ∈ s.ext, r.data = none → ∀ k, r.who ≠ .engine b k) : s.blockOver b x = true := by
  have hquiet : (s.ext.any fun r => r.data.isNone && (match r.who with
      | .engine k _ => k == b
      | _ => false)) = false := by
    refine List.any_eq_false.mpr fun r hr => ?_
    rw [Bool.and_eq_true, Option.isNone_iff_eq_none]
    rintro ⟨hd, hw⟩
    split at hw
    next k j hk => exact he r hr hd j (hk.trans (by rw [beq_iff_eq.mp hw]))
    next => cases hw
  unfold State.blockOver
  rw [hp, hf, hv]
  exact congrArg (!·) hquiet

theorem State.enginesDone_of_idle {s : State} {b : Nat} {x : Block} (hx : Map.find s.blocks b = some x) (hm : x.matrixQ = [])
    (hc : x.copyQ = []) (hr : x.marchQ = [])
    (hcoll : ∀ c ∈ s.collectives, c.issued = true → c.blk = b → c.launch ≠ x.launch) : s.enginesDone b = true := by
  unfold State.enginesDone
  rw [State.block_of_find hx]
  simp only [hm, hc, hr, List.isEmpty_nil, Bool.true_and, Bool.not_eq_true', List.any_eq_false, Bool.and_eq_true, beq_iff_eq]
  rintro c hmem ⟨⟨⟨hi, hb⟩, hl⟩, -⟩
  exact hcoll c hmem hi hb hl

theorem State.switched_rest (s : State) (cl : Nat) : (s.switched cl).blocks = s.blocks ∧
    (∀ k, (s.switched cl).launch k = s.launch k) ∧ ((s.switched cl).cluster cl).order = (s.cluster cl).order := by
  refine ⟨rfl, fun _ => rfl, ?_⟩
  unfold State.switched
  rw [State.cluster_setCluster_same]

/-! ### Restores (R402) -/

section
variable {s : State} {k core p0 : Nat} {x : Saved} (hx : Map.find s.saved k = some x)
include hx

theorem blockRestore_paused (h : s.restoring = false) : exec (.blockRestore k core p0) s = .next s := by
  have hnone : (s.waiters.find? fun w => w.saved == some k) = none := by
    refine List.find?_eq_none.mpr fun w hw => ?_
    unfold State.waiters at hw
    rw [h] at hw
    simp only [Bool.false_eq_true, if_false, List.append_nil, List.mem_flatMap, List.mem_map] at hw
    obtain ⟨p, -, v, -, rfl⟩ := hw
    exact Bool.false_ne_true
  change execBlockRestore k core p0 s = _
  rw [execBlockRestore, hx]
  simp only [hnone]
  rfl

theorem exec_blockRestore {w : Waiter} (hw : (s.waiters.find? fun w => w.saved == some k) = some w)
    (hturn : ∀ c ∈ s.partyCores w core, s.turnOf w c = true) (hlo : s.mss.laylo ≤ x.layout) (hhi : x.layout ≤ s.mss.layhi)
    (hcool : x.blk.source = 1 → core = s.coolest k x) : exec (.blockRestore k core p0) s =
      match s.restoreGroup k core p0 with
      | .no => .next s
      | .evict c ks => .next (s.evictFirst (s.launch x.blk.launch).queue x.ctx c .evict ks)
      | .ok t _ => .next (s.restored t (s.savedGroup k)) := by
  have hat : s.turnAt w core = true := List.all_eq_true.mpr hturn
  have hright : (x.blk.source == 1 && core != s.coolest k x) = false := by
    simpa [bne] using hcool
  change execBlockRestore k core p0 s = _
  rw [execBlockRestore, hx]
  simp only [hw, Option.any_some, hat, hright, Nat.not_lt.mpr hlo, Nat.not_lt.mpr hhi, decide_false]
  rfl

end

/-! ### The statement -/

/-- Settles O46: offers, admissions, starts, completions and restores, each where it is due. -/
theorem blocksComeAndGo : Obligations.BlocksComeAndGo := by
  refine ⟨fun s k cl l hl => ?_, fun s lk n core p0 w hw hfresh => ?_, fun l b w q trap i => ?_, fun _ _ _ => rfl,
    fun _ _ _ => rfl, fun _ _ _ _ => State.turnOf_false, fun s lk n core w hw => ⟨priorityPreemption_early hw,
      fun vs h hc hf => priorityPreemption_requests hw h hc hf⟩, fun s b x hx ha => ⟨blockStart_restored hx ha,
      blockStart_starts hx ha, blockStart_begun hx⟩, fun s b x hx => blockStart_unattached hx,
    fun s b x hx => ⟨blockCompletion_early hx, ?_⟩, fun s k core p0 x hx => ⟨blockRestore_paused hx, ?_⟩⟩
  · intro first ready
    refine ⟨fun n a rs hr hf hcl hup hb => ?_, fun hr hf hcl hup hb hn => ?_, launchMessage_stays hl⟩
    · rw [launchMessage_offers hl (Launch.offers_of_ready hr (.inl (by rw [hb]; exact List.cons_ne_nil _ _))) hf hcl hup,
        Launch.offer, hb]
    · rw [launchMessage_offers hl (Launch.offers_of_ready hr (.inr hn)) hf hcl hup, Launch.offer, hb]
  · intro ms hall hended hturn hcorner
    have h := exec_blockAdmission (p0 := p0) hw hfresh hall hended hturn hcorner
    exact ⟨fun t b ht => by rw [h, ht], fun c ks he => by rw [h, he], fun hno => by rw [h, hno]⟩
  · obtain ⟨hst, hpc, htx, hty, htz⟩ := freshWarp_lane l b w q trap i
    exact ⟨rfl, rfl, rfl, rfl, rfl, rfl, rfl, hst, hpc, htx, hty, htz⟩
  · intro hp hf hv hm hc hr he hcoll
    obtain ⟨hblocks, hlaunches, horder⟩ := State.switched_rest _ (clusterOf (blockCore b))
    refine ⟨_, blockCompletion_completes hx hp hf hv (State.blockOver_of_quiet hp hf hv he)
      (State.enginesDone_of_idle hx hm hc hr hcoll), hblocks, ?_, ?_⟩
    · exact (hlaunches _).trans (State.launch_setLaunch_same s _ _)
    · rw [horder]
      have hcluster := State.cluster_setCluster_same s (clusterOf (blockCore b)) { s.cluster (clusterOf (blockCore b)) with
        order := (s.cluster (clusterOf (blockCore b))).order.filter fun k => k != b }
      intro hb
      have hkept := congrArg Cluster.order hcluster ▸ hb
      simp at hkept
  · intro w hw hturn hlo hhi hcool
    have h := exec_blockRestore (p0 := p0) hx hw hturn hlo hhi hcool
    exact ⟨fun t b ht => by rw [h, ht], fun c ks he => by rw [h, he], fun hno => by rw [h, hno]⟩

end Sys2Proof.Machine

/-! PROOFS. The fields of an instruction word: fields side by side (R41), the parts and codes of a modifier, and operand
fields with their bounds (R44 to R48). -/

namespace Sys2Proof

open Sys2Proof.Machine (bitOf)

/-! ### Fields side by side -/

theorem pack_lt (ps : List (Nat × Nat)) : pack ps < 2 ^ (ps.map Prod.fst).sum := by
  induction ps with
  | nil => exact Nat.one_pos
  | cons p ps ih =>
    rw [pack, List.map_cons, List.sum_cons, Nat.pow_add]
    calc p.2 % 2 ^ p.1 + 2 ^ p.1 * pack ps
        < 2 ^ p.1 * (pack ps + 1) := by
          have := Nat.mod_lt p.2 (Nat.two_pow_pos p.1)
          rw [Nat.mul_succ]
          omega
      _ ≤ 2 ^ p.1 * 2 ^ (ps.map Prod.fst).sum := Nat.mul_le_mul_left _ ih

theorem unpack_pack (ps : List (Nat × Nat)) (h : ∀ p ∈ ps, p.2 < 2 ^ p.1) :
    unpack (ps.map Prod.fst) (pack ps) = ps.map Prod.snd := by
  induction ps with
  | nil => rfl
  | cons p ps ih =>
    obtain ⟨hp, hps⟩ := List.forall_mem_cons.mp h
    simp only [List.map_cons, unpack, pack, Nat.add_mul_mod_self_left, Nat.mod_eq_of_lt hp,
      Nat.add_mul_div_left _ _ (Nat.two_pow_pos p.1), Nat.div_eq_of_lt hp, Nat.zero_add, ih hps]

/-! ### The parts of a modifier field -/

section
variable {x y m k j n : Nat} {b : Bool}

theorem part_low (h : k ∣ m) : (x + m * y) % k = x % k := by
  obtain ⟨c, rfl⟩ := h
  rw [Nat.mul_assoc, Nat.add_mul_mod_self_left]

theorem part_mid (h : k * j ∣ m) : (x + m * y) / k % j = x / k % j := by
  rw [← Nat.mod_mul_right_div_self, ← Nat.mod_mul_right_div_self, part_low h]

theorem part_high (h : x < m) : (x + m * y) / m = y := by
  rw [Nat.add_mul_div_left _ _ (Nat.zero_lt_of_lt h), Nat.div_eq_of_lt h, Nat.zero_add]

theorem parts_lt (hx : x < m) (hy : y < n / m) : x + m * y < n := by
  have h := Nat.mul_le_of_le_div _ _ _ hy
  rw [Nat.succ_mul, Nat.mul_comm y m] at h
  omega

theorem part_lt (h : y < n / m) : m * y < n := by
  have hm : 0 < m := Nat.pos_of_ne_zero fun h0 => by simp [h0] at h
  simpa using parts_lt (x := 0) hm h

@[simp] theorem flagBit_lt (h : 1 < n) : flagBit b < n := by
  cases b
  · exact Nat.zero_lt_of_lt h
  · exact h

@[simp] theorem flagBit_le_one : flagBit b ≤ 1 := Nat.lt_succ_iff.mp (flagBit_lt (by decide))

@[simp] theorem flagBit_mod_two_beq_one : (flagBit b % 2 == 1) = b := by cases b <;> rfl

@[simp] theorem bitOf_flagBit : bitOf (flagBit b) 0 = b := by cases b <;> rfl

/-- The rules of the parts of a modifier, together for `simp`. -/
theorem part_rules :
    (∀ {x y m k : Nat}, k ∣ m → (x + m * y) % k = x % k) ∧
      (∀ {x y m k j : Nat}, k * j ∣ m → (x + m * y) / k % j = x / k % j) ∧
      (∀ {x y m : Nat}, x < m → (x + m * y) / m = y) ∧
      (∀ {x y m n : Nat}, x < m → y < n / m → x + m * y < n) ∧ ∀ {y m n : Nat}, y < n / m → m * y < n :=
  ⟨part_low, part_mid, part_high, parts_lt, part_lt⟩

@[simp] theorem bitOf_low (h : 2 ^ (n + 1) ∣ m) : bitOf (x + m * y) n = bitOf x n := by
  unfold bitOf
  rw [part_mid (k := 2 ^ n) h]

@[simp] theorem bitOf_high (hm : 2 ^ n = m) (h : x < m) : bitOf (x + m * flagBit b) n = b := by
  unfold bitOf
  rw [hm, part_high h, flagBit_mod_two_beq_one]

@[simp] theorem bitOf_mul_flagBit (hm : 2 ^ n = m) : bitOf (m * flagBit b) n = b := by
  simpa using bitOf_high (x := 0) (b := b) hm (hm ▸ Nat.two_pow_pos n)

end

/-! ### Codes: each fits the bits that the decoder takes for it, and reads back -/

section
variable {n : Nat}

@[simp] theorem Rm.code_lt (c : Rm) (h : 4 ≤ n) : c.code < n := Nat.lt_of_lt_of_le (by cases c <;> decide) h
@[simp] theorem Scope.code_lt (c : Scope) (h : 8 ≤ n) : c.code < n := Nat.lt_of_lt_of_le (by cases c <;> decide) h
@[simp] theorem ICond.code_lt (c : ICond) (h : 8 ≤ n) : c.code < n := Nat.lt_of_lt_of_le (by cases c <;> decide) h
@[simp] theorem FCond.code_lt (c : FCond) (h : 8 ≤ n) : c.code < n := Nat.lt_of_lt_of_le (by cases c <;> decide) h
@[simp] theorem Fmt.code_lt (c : Fmt) (h : 4 ≤ n) : c.code < n := Nat.lt_of_lt_of_le (by cases c <;> decide) h
@[simp] theorem IntFmt.code_lt (c : IntFmt) (h : 4 ≤ n) : c.code < n := Nat.lt_of_lt_of_le (by cases c <;> decide) h
@[simp] theorem IntType.code_lt (c : IntType) (h : 8 ≤ n) : c.code < n := Nat.lt_of_lt_of_le (by cases c <;> decide) h
@[simp] theorem Comb.code_lt (c : Comb) (h : 4 ≤ n) : c.code < n := Nat.lt_of_lt_of_le (by cases c <;> decide) h
@[simp] theorem PlopOp.code_lt (c : PlopOp) (h : 16 ≤ n) : c.code < n := Nat.lt_of_lt_of_le (by cases c <;> decide) h
@[simp] theorem ShflMode.code_lt (c : ShflMode) (h : 4 ≤ n) : c.code < n := Nat.lt_of_lt_of_le (by cases c <;> decide) h
@[simp] theorem VoteMode.code_lt (c : VoteMode) (h : 8 ≤ n) : c.code < n := Nat.lt_of_lt_of_le (by cases c <;> decide) h
@[simp] theorem RedOp.code_lt (c : RedOp) (h : 16 ≤ n) : c.code < n := Nat.lt_of_lt_of_le (by cases c <;> decide) h
@[simp] theorem Fill.code_lt (c : Fill) (h : 4 ≤ n) : c.code < n := Nat.lt_of_lt_of_le (by cases c <;> decide) h
@[simp] theorem Width.code_lt (c : Width) (h : 8 ≤ n) : c.code < n := Nat.lt_of_lt_of_le (by cases c <;> decide) h
@[simp] theorem Hint.code_lt (c : Hint) (h : 4 ≤ n) : c.code < n := Nat.lt_of_lt_of_le (by cases c <;> decide) h
@[simp] theorem AtomOp.code_lt (c : AtomOp) (h : 16 ≤ n) : c.code < n := Nat.lt_of_lt_of_le (by cases c <;> decide) h
@[simp] theorem AcqMode.code_lt (c : AcqMode) (h : 4 ≤ n) : c.code < n := Nat.lt_of_lt_of_le (by cases c <;> decide) h
@[simp] theorem RelMode.code_lt (c : RelMode) (h : 4 ≤ n) : c.code < n := Nat.lt_of_lt_of_le (by cases c <;> decide) h
@[simp] theorem FenceKind.code_lt (c : FenceKind) (h : 4 ≤ n) : c.code < n := Nat.lt_of_lt_of_le (by cases c <;> decide) h
@[simp] theorem DepthTest.code_lt (c : DepthTest) (h : 4 ≤ n) : c.code < n := Nat.lt_of_lt_of_le (by cases c <;> decide) h
@[simp] theorem CollOp.code_lt (c : CollOp) (h : 8 ≤ n) : c.code < n := Nat.lt_of_lt_of_le (by cases c <;> decide) h
@[simp] theorem BlendOp.code_lt (c : BlendOp) (h : 8 ≤ n) : c.code < n := Nat.lt_of_lt_of_le (by cases c <;> decide) h
@[simp] theorem BrecOp.code_lt (c : BrecOp) (h : 16 ≤ n) : c.code < n := Nat.lt_of_lt_of_le (by cases c <;> decide) h
@[simp] theorem PruneOp.code_lt (c : PruneOp) (h : 64 ≤ n) : c.code < n := Nat.lt_of_lt_of_le (by cases c <;> decide) h

end

@[simp] theorem Rm.ofCode_code (c : Rm) : Rm.ofCode (c.code % 4) = Option.some c := by cases c <;> rfl
@[simp] theorem Scope.ofCode_code (c : Scope) : Scope.ofCode (c.code % 8) = Option.some c := by cases c <;> rfl
@[simp] theorem ICond.ofCode_code (c : ICond) : ICond.ofCode (c.code % 8) = Option.some c := by cases c <;> rfl
@[simp] theorem FCond.ofCode_code (c : FCond) : FCond.ofCode (c.code % 8) = Option.some c := by cases c <;> rfl
@[simp] theorem Fmt.ofCode_code (c : Fmt) : Fmt.ofCode (c.code % 4) = Option.some c := by cases c <;> rfl
@[simp] theorem IntFmt.ofCode_code (c : IntFmt) : IntFmt.ofCode (c.code % 4) = Option.some c := by cases c <;> rfl
@[simp] theorem IntType.ofCode_code (c : IntType) : IntType.ofCode (c.code % 8) = Option.some c := by cases c <;> rfl
@[simp] theorem Comb.ofCode_code (c : Comb) : Comb.ofCode (c.code % 4) = Option.some c := by cases c <;> rfl
@[simp] theorem PlopOp.ofCode_code (c : PlopOp) : PlopOp.ofCode (c.code % 16) = Option.some c := by cases c <;> rfl
@[simp] theorem ShflMode.ofCode_code (c : ShflMode) : ShflMode.ofCode (c.code % 4) = Option.some c := by cases c <;> rfl
@[simp] theorem VoteMode.ofCode_code (c : VoteMode) : VoteMode.ofCode (c.code % 8) = Option.some c := by cases c <;> rfl
@[simp] theorem RedOp.ofCode_code (c : RedOp) : RedOp.ofCode (c.code % 16) = Option.some c := by cases c <;> rfl
@[simp] theorem Fill.ofCode_code (c : Fill) : Fill.ofCode (c.code % 4) = Option.some c := by cases c <;> rfl
@[simp] theorem Width.ofCode_code (c : Width) : Width.ofCode (c.code % 8) = Option.some c := by cases c <;> rfl
@[simp] theorem Hint.ofCode_code (c : Hint) : Hint.ofCode (c.code % 4) = Option.some c := by cases c <;> rfl
@[simp] theorem AtomOp.ofCode_code (c : AtomOp) : AtomOp.ofCode (c.code % 16) = Option.some c := by cases c <;> rfl
@[simp] theorem AcqMode.ofCode_code (c : AcqMode) : AcqMode.ofCode (c.code % 4) = Option.some c := by cases c <;> rfl
@[simp] theorem RelMode.ofCode_code (c : RelMode) : RelMode.ofCode (c.code % 4) = Option.some c := by cases c <;> rfl
@[simp] theorem FenceKind.ofCode_code (c : FenceKind) : FenceKind.ofCode (c.code % 4) = Option.some c := by cases c <;> rfl
@[simp] theorem DepthTest.ofCode_code (c : DepthTest) : DepthTest.ofCode (c.code % 4) = Option.some c := by cases c <;> rfl
@[simp] theorem CollOp.ofCode_code (c : CollOp) : CollOp.ofCode (c.code % 8) = Option.some c := by cases c <;> rfl
@[simp] theorem BlendOp.ofCode_code (c : BlendOp) : BlendOp.ofCode (c.code % 8) = Option.some c := by cases c <;> rfl
@[simp] theorem BrecOp.ofCode_code (c : BrecOp) : BrecOp.ofCode (c.code % 16) = Option.some c := by cases c <;> rfl
@[simp] theorem PruneOp.ofCode_code (c : PruneOp) : PruneOp.ofCode (c.code % 64) = Option.some c := by cases c <;> rfl

/-! ### Operand fields -/

@[simp] theorem Guard.field_lt {g : Guard} (h : g.ok = true) : g.field < 15 := by
  obtain ⟨q, neg⟩ := g
  cases neg <;> simp [Guard.ok, Guard.field, flagBit] at h ⊢ <;> omega

@[simp] theorem Guard.ofField_field {g : Guard} (h : g.ok = true) : Guard.ofField g.field = g := by
  obtain ⟨q, neg⟩ := g
  have hq : q < 8 := by simp [Guard.ok] at h; exact h.1
  cases neg <;> simp [Guard.ofField, Guard.field, flagBit] <;> omega

theorem VSrc.ok_of_pairOk {a : VSrc} (h : a.pairOk = true) : a.ok = true := by
  simp only [VSrc.pairOk, vgroupOk, Bool.and_eq_true] at h
  exact h.1

@[simp] theorem VSrc.field_lt {a : VSrc} (h : a.ok = true) : a.field < 2048 := by
  have hn : a.n < 512 := of_decide_eq_true h
  have hl : flagBit a.lr < 2 := flagBit_lt (by decide)
  have ht : flagBit a.te < 2 := flagBit_lt (by decide)
  rw [VSrc.field]
  omega

@[simp] theorem VSrc.ofField_field {a : VSrc} (h : a.ok = true) : VSrc.ofField a.field = a := by
  obtain ⟨n, lr, te⟩ := a
  have hn : n < 512 := of_decide_eq_true h
  cases lr <;> cases te <;> simp [VSrc.ofField, VSrc.field, flagBit] <;> omega

@[simp] theorem SSrc.field_lt {a : SSrc} (h : a.ok = true) : a.field < 2048 := by
  cases a with
  | s n => exact Nat.lt_trans (of_decide_eq_true h) (by decide)
  | zs => exact (by decide : 31 < 2048)

@[simp] theorem SSrc.ofField_field {a : SSrc} (h : a.ok = true) : SSrc.ofField a.field = a := by
  cases a with
  | s n =>
    have hn : n ≠ 31 := by rintro rfl; exact absurd h (by decide)
    simp [SSrc.ofField, SSrc.field, hn]
  | zs => rfl

@[simp] theorem Src.field_lt {a : Src} (h : a.ok = true) : a.field < 2048 := by
  cases a with
  | v n lr te => exact VSrc.field_lt (a := ⟨n, lr, te⟩) h
  | s n => exact SSrc.field_lt (a := .s n) h
  | zs => exact SSrc.field_lt (a := .zs) h

@[simp] theorem Src.kind_le_one (a : Src) : a.kind ≤ 1 := by cases a <;> simp [Src.kind]

@[simp] theorem Src.ofField_field {a : Src} (h : a.ok = true) : Src.ofField a.field a.kind = a := by
  cases a with
  | v n lr te =>
    have hv := VSrc.ofField_field (a := ⟨n, lr, te⟩) h
    simp only [VSrc.ofField, VSrc.mk.injEq] at hv
    simp [Src.ofField, Src.field, Src.kind, hv]
  | s n =>
    have hn : n ≠ 31 := by rintro rfl; exact absurd h (by decide)
    simp [Src.ofField, Src.field, Src.kind, hn]
  | zs => rfl

/-! ### Register numbers, and the operands of the classes with checks of their own -/

theorem vregOk_lt {n : Nat} (h : vregOk n = true) : n < 512 := of_decide_eq_true h
theorem sregOk_lt {n : Nat} (h : sregOk n = true) : n < 512 := Nat.lt_trans (of_decide_eq_true h) (by decide)

theorem pregOk_lt {n m : Nat} (h : pregOk n = true) (hm : 8 ≤ m) : n < m :=
  Nat.lt_of_lt_of_le (of_decide_eq_true h) hm

theorem bregOk_lt {n m : Nat} (h : bregOk n = true) (hm : 16 ≤ m) : n < m :=
  Nat.lt_of_lt_of_le (of_decide_eq_true h) hm

theorem logwOk_lt {n m : Nat} (h : logwOk n = true) (hm : 6 ≤ m) : n < m := by
  simp only [logwOk, Bool.and_eq_true, decide_eq_true_eq] at h
  omega

theorem vgroupOk_lt {k n : Nat} (h : vgroupOk k n = true) : n < 512 := by
  simp only [vgroupOk, Bool.and_eq_true] at h
  exact of_decide_eq_true h.1

/-- The bounds of register numbers and immediates, together for `simp`. -/
theorem operand_bounds :
    (∀ {n : Nat}, vregOk n = true → n < 512) ∧ (∀ {n : Nat}, vgroupOk 2 n = true → n < 512) ∧
      (∀ {n : Nat}, sregOk n = true → n < 512) ∧ (∀ {n m : Nat}, pregOk n = true → 8 ≤ m → n < m) ∧
      (∀ {n m : Nat}, bregOk n = true → 16 ≤ m → n < m) ∧ (∀ {n m : Nat}, logwOk n = true → 6 ≤ m → n < m) ∧
      (∀ {a : VSrc}, a.pairOk = true → a.ok = true) ∧ (∀ x : Imm16, x.toNat < 65536) ∧ ∀ x : Word, x.toNat < 4294967296 :=
  ⟨vregOk_lt, vgroupOk_lt, sregOk_lt, pregOk_lt, bregOk_lt, logwOk_lt, VSrc.ok_of_pairOk, fun x => x.isLt,
    fun x => x.isLt⟩

theorem Src.ok_of_groupOk {k : Nat} {a : Src} (h : a.groupOk k = true) : a.ok = true := by
  cases a with
  | v n lr te => exact decide_eq_true (vgroupOk_lt h)
  | s n => cases h
  | zs => rfl

theorem Src.ok_of_bitsOk {n : Nat} {a : Src} (h : a.bitsOk n = true) : a.ok = true := by
  unfold Src.bitsOk at h
  split at h
  · exact Src.ok_of_groupOk h
  · exact h

theorem Src.ok_of_beq_none {a : Src} (h : (a == Src.none) = true) : a.ok = true := by
  rw [eq_of_beq h]
  rfl

theorem vdstOk_lt {bits n : Nat} (h : vdstOk bits n = true) : n < 512 := by
  unfold vdstOk at h
  split at h
  · exact vgroupOk_lt h
  · exact vregOk_lt h

theorem loadDstOk_lt {wid : Width} {d : Nat} (h : loadDstOk wid d = true) : d < 512 := vgroupOk_lt h

theorem bitFieldOk_lt {pos len : Nat} (h : bitFieldOk pos len = true) : pos < 32 ∧ len < 64 := by
  simp only [bitFieldOk, Bool.and_eq_true, decide_eq_true_eq] at h
  omega

theorem csrHiOk_lt {num : Nat} {hi : Bool} (h : csrHiOk num hi = true) : num < 4096 := by
  simp only [csrHiOk, csrOk, Bool.and_eq_true, List.contains_iff_mem, List.mem_cons, List.not_mem_nil, or_false] at h
  omega

section
variable {a b c : Src} {rm : Rm} {idx d n : Nat}

theorem cvtffOk_srcs {src dst : Fmt} {h1 : Bool} (h : cvtffOk rm src dst h1 a b = true) : a.ok = true ∧ b.ok = true := by
  simp only [cvtffOk, Bool.and_eq_true] at h
  obtain ⟨⟨-, ha⟩, hb⟩ := h
  refine ⟨Src.ok_of_bitsOk ha, ?_⟩
  split at hb
  · exact Src.ok_of_bitsOk hb
  · exact Src.ok_of_beq_none hb

theorem ite_src_ok {p : Prop} [Decidable p] (h : (if p then b.ok else b == Src.none) = true) : b.ok = true := by
  split at h
  · exact h
  · exact Src.ok_of_beq_none h

theorem ite_none_src_ok {p : Prop} [Decidable p] (h : (if p then b == Src.none else b.ok) = true) : b.ok = true := by
  split at h
  · exact Src.ok_of_beq_none h
  · exact h

theorem scale_ok {sc : Bool} (h : (if sc then b.ok else rm == .rn && b == Src.none) = true) : b.ok = true := by
  split at h
  · exact h
  · exact Src.ok_of_beq_none (Bool.and_eq_true_iff.mp h).2

theorem cvt8Ok_operands {up e5 nosat sc : Bool} (h : cvt8Ok d rm up e5 nosat idx sc a b = true) :
    d < 512 ∧ idx < 4 ∧ a.ok = true ∧ b.ok = true := by
  simp only [cvt8Ok, Bool.and_eq_true, decide_eq_true_eq] at h
  obtain ⟨⟨hd, hidx⟩, hsrcs⟩ := h
  refine ⟨vregOk_lt hd, hidx, ?_⟩
  split at hsrcs <;> simp only [Bool.and_eq_true] at hsrcs
  · obtain ⟨⟨-, ha⟩, hb⟩ := hsrcs
    exact ⟨ha, scale_ok hb⟩
  · obtain ⟨⟨-, ha⟩, hb⟩ := hsrcs
    exact ⟨Src.ok_of_groupOk ha, Src.ok_of_beq_none hb⟩

theorem cvt4Ok_operands {up sc : Bool} (h : cvt4Ok d rm up idx sc a b = true) :
    d < 512 ∧ idx < 8 ∧ a.ok = true ∧ b.ok = true := by
  simp only [cvt4Ok, Bool.and_eq_true, decide_eq_true_eq] at h
  obtain ⟨⟨hd, hidx⟩, hsrcs⟩ := h
  refine ⟨vregOk_lt hd, hidx, ?_⟩
  split at hsrcs <;> simp only [Bool.and_eq_true] at hsrcs
  · obtain ⟨ha, hb⟩ := hsrcs
    exact ⟨ha, scale_ok hb⟩
  · obtain ⟨⟨-, ha⟩, hb⟩ := hsrcs
    exact ⟨Src.ok_of_groupOk ha, Src.ok_of_beq_none hb⟩

theorem slideOk_operands {half : Bool} {fill : Fill} (h : slideOk half fill n b c = true) :
    n < 65536 ∧ b.ok = true ∧ c.ok = true := by
  simp only [slideOk, Bool.and_eq_true, decide_eq_true_eq] at h
  obtain ⟨⟨hn, hb⟩, hc⟩ := h
  refine ⟨?_, ite_src_ok hb, ite_src_ok hc⟩
  split at hn <;> omega

theorem pruneSrcOk_ok {op : PruneOp} (h : pruneSrcOk op n a = true) : a.ok = true := by
  unfold pruneSrcOk at h
  split at h
  · exact Src.ok_of_groupOk h
  · exact ite_src_ok h

theorem brecOk_operands {bd bb : Nat} {op : BrecOp} {off : Word} (h : brecOk bd op bb a b off = true) :
    bd < 16 ∧ bb < 16 ∧ a.ok = true ∧ b.ok = true := by
  simp only [brecOk, Bool.and_eq_true] at h
  obtain ⟨⟨hbd, hbb⟩, hop⟩ := h
  refine ⟨bregOk_lt hbd le_rfl, bregOk_lt hbb le_rfl, ?_⟩
  cases op <;> simp only [Bool.and_eq_true] at hop
  case sub => exact hop.1
  all_goals obtain ⟨⟨ha, hb⟩, -⟩ := hop
  case base | guard => exact ⟨Src.ok_of_groupOk ha, Src.ok_of_beq_none hb⟩
  case copy | fmt => exact ⟨Src.ok_of_beq_none ha, Src.ok_of_beq_none hb⟩
  all_goals exact ⟨ha, Src.ok_of_beq_none hb⟩

theorem storeSrcOk_ok {wid : Width} (h : storeSrcOk wid a = true) : a.ok = true := by
  simp only [storeSrcOk, Bool.and_eq_true] at h
  obtain ⟨-, ha⟩ := h
  split at ha
  · exact ha
  · exact Src.ok_of_groupOk ha

theorem atomSrcOk_ok {op : AtomOp} {w64 : Bool} (h : atomSrcOk op w64 a = true) : a.ok = true := by
  cases a with
  | v m lr te =>
    simp only [atomSrcOk, Bool.and_eq_true] at h
    exact decide_eq_true (vgroupOk_lt h.1)
  | s m =>
    simp only [atomSrcOk, Bool.and_eq_true] at h
    obtain ⟨⟨hm, -⟩, -⟩ := h
    exact hm
  | zs => rfl

theorem collOk_operands {r b64 : Bool} {op : CollOp} {rop : RedOp} {off : Word} {br : Nat}
    (h : collOk d r op rop b64 a off br = true) : d < 512 ∧ br < 2048 ∧ a.ok = true := by
  simp only [collOk, Bool.and_eq_true] at h
  obtain ⟨-, h⟩ := h
  split at h <;> simp only [Bool.and_eq_true] at h
  · obtain ⟨⟨⟨-, hbr⟩, -⟩, hda⟩ := h
    refine ⟨?_, eq_of_beq hbr ▸ by decide, ?_⟩ <;> split at hda <;> simp only [Bool.and_eq_true] at hda
    · exact vgroupOk_lt hda.1
    · exact vgroupOk_lt hda.1
    · exact Src.ok_of_groupOk hda.2
    · exact hda.2
  · obtain ⟨⟨hd, hbr⟩, ha⟩ := h
    exact ⟨eq_of_beq hd ▸ by decide, bregOk_lt hbr (by decide), ha⟩

theorem momacc_operands {rec : Bool}
    (h : (if rec then vregOk d && b.ok else d == 0 && b.groupOk 2) = true) : d < 512 ∧ b.ok = true := by
  split at h <;> simp only [Bool.and_eq_true] at h
  · exact ⟨vregOk_lt h.1, h.2⟩
  · exact ⟨eq_of_beq h.1 ▸ by decide, Src.ok_of_groupOk h.2⟩

end

section
variable {name : SegName}

theorem SegName.pair_lt (h : name.ok = true) : name.pair < 2048 := by
  cases name with
  | imm k => exact (by decide : 0 < 2048)
  | reg a => exact VSrc.field_lt (VSrc.ok_of_pairOk h)

@[simp] theorem SegName.low_lt : name.low < 4294967296 := by
  cases name with
  | imm k => exact Nat.mod_lt _ (by decide)
  | reg a => exact (by decide : 0 < 4294967296)

@[simp] theorem SegName.high_lt : name.high < 4294967296 := by
  cases name with
  | imm k => exact Nat.div_lt_of_lt_mul k.isLt
  | reg a => exact (by decide : 0 < 4294967296)

theorem SegName.ofFields_pack {op pred vd m : Nat} (h : name.ok = true) (hm : bitOf m 3 = name.isReg) :
    SegName.ofFields { op, pred, vd, a := name.pair, mod := m, imm := name.low, ximm := name.high } = name := by
  rw [SegName.ofFields, hm]
  cases name with
  | imm k =>
    simp only [SegName.isReg, SegName.low, SegName.high, Bool.false_eq_true, if_false, Nat.mod_add_div, BitVec.ofNat_toNat,
      BitVec.setWidth_eq]
  | reg a => exact congrArg SegName.reg (VSrc.ofField_field (VSrc.ok_of_pairOk h))

end

end Sys2Proof

/-! PROOFS. The word of a format (R50 to R55): its fields are the ones that it was made of, when they fit. -/

namespace Sys2Proof

/-- The bits of a format's modifier (R50 to R55). -/
@[simp] def Format.modBits : Format → Nat
  | .f64i => 8
  | .f96r | .f96i => 16
  | .f64a | .f128m | .f128e => 10

/-- The bits of a format's immediate, where it has one. -/
@[simp] def Format.immBits : Format → Nat
  | .f64i => 16
  | .f64a | .f96r | .f96i | .f128m | .f128e => 32

/-- The bits of a format's second immediate, where it has one. -/
@[simp] def Format.ximmBits : Format → Nat
  | .f96r => 16
  | .f64a | .f64i | .f96i | .f128m | .f128e => 32

/-- Nothing stands in the fields that a format lacks, nor in its reserved bits. -/
def Fields.Within (f : Fields) : Format → Prop
  | .f64a => f = { op := f.op, pred := f.pred, vd := f.vd, a := f.a, ak := f.ak, b := f.b, bk := f.bk,
                   rm := f.rm, mod := f.mod }
  | .f64i => f = { op := f.op, pred := f.pred, vd := f.vd, a := f.a, ak := f.ak, rm := f.rm, mod := f.mod, imm := f.imm }
  | .f96r => f = { op := f.op, pred := f.pred, vd := f.vd, a := f.a, ak := f.ak, b := f.b, bk := f.bk, c := f.c, ck := f.ck,
                   rm := f.rm, mod := f.mod, ximm := f.ximm }
  | .f96i => f = { op := f.op, pred := f.pred, vd := f.vd, a := f.a, ak := f.ak, rm := f.rm, mod := f.mod, imm := f.imm }
  | .f128m => f = { op := f.op, pred := f.pred, vd := f.vd, a := f.a, ak := f.ak, b := f.b, bk := f.bk, mod := f.mod,
                    imm := f.imm, scope := f.scope, rel := f.rel, acq := f.acq, breg := f.breg }
  | .f128e => f = { op := f.op, pred := f.pred, vd := f.vd, a := f.a, ak := f.ak, b := f.b, bk := f.bk, mod := f.mod,
                    imm := f.imm, ximm := f.ximm, scope := f.scope, rel := f.rel, acq := f.acq }

/-- Every field fits the bits that it has in a format, and the predicate is not never. -/
def Fields.Bounded (f : Fields) (fmt : Format) : Prop :=
  f.op < 1024 ∧ f.pred < 15 ∧ f.vd < 512 ∧ f.a < 2048 ∧ f.ak ≤ 1 ∧ f.b < 2048 ∧ f.bk ≤ 1 ∧ f.c < 2048 ∧ f.ck ≤ 1 ∧
    f.rm < 4 ∧ f.mod < 2 ^ fmt.modBits ∧ f.imm < 2 ^ fmt.immBits ∧ f.ximm < 2 ^ fmt.ximmBits ∧
    f.scope < 8 ∧ f.rel ≤ 1 ∧ f.acq ≤ 1 ∧ f.breg < 16

/-- A format holds the fields. -/
structure Fields.Fits (f : Fields) (fmt : Format) : Prop where
  within : f.Within fmt
  bounded : f.Bounded fmt

section
variable {f : Fields} {fmt : Format}

theorem Fields.Within.rsv_eq_zero (h : f.Within fmt) : f.rsv = 0 := by
  cases fmt <;> exact (congrArg Fields.rsv h :)

theorem Fields.Fits.values_lt (h : f.Fits fmt) : ∀ p ∈ fmt.widths.zip (f.values fmt), p.2 < 2 ^ p.1 := by
  obtain ⟨hw, hop, hpred, hvd, ha, hak, hb, hbk, hc, hck, hrm, hmod, himm, hximm, hscope, hrel, hacq, hbreg⟩ := h
  have hrsv := hw.rsv_eq_zero
  cases fmt <;> simp [Format.widths, Fields.values] at hmod himm hximm ⊢ <;> omega

theorem Fields.values_length (f : Fields) (fmt : Format) : (f.values fmt).length = fmt.widths.length := by
  cases fmt <;> rfl

theorem Format.widths_sum (fmt : Format) : fmt.widths.sum = 8 * lenBytes fmt.len := by cases fmt <;> rfl

theorem Fields.word_lt (f : Fields) (fmt : Format) : f.word fmt < 256 ^ lenBytes fmt.len := by
  have h := pack_lt (fmt.widths.zip (f.values fmt))
  rwa [List.map_fst_zip (f.values_length fmt).ge, Format.widths_sum, Nat.pow_mul] at h

theorem Fields.exists_word_eq (f : Fields) (fmt : Format) :
    ∃ r, f.word fmt = fmt.len + 4 * (f.op % 1024 + 1024 * (f.pred % 16 + 16 * r)) := by
  cases fmt <;> exact ⟨_, rfl⟩

theorem Fields.unpack_word (h : f.Fits fmt) : unpack fmt.widths (f.word fmt) = f.values fmt := by
  have hl := f.values_length fmt
  have hp := unpack_pack _ h.values_lt
  rwa [List.map_fst_zip hl.ge, List.map_snd_zip hl.le] at hp

theorem Format.fields_word (h : f.Fits fmt) : fmt.fields (f.word fmt) = f := by
  have hw := h.within
  have hrsv := hw.rsv_eq_zero
  cases fmt <;> simp only [Format.fields, Fields.unpack_word h, Fields.values, hrsv] <;> exact hw.symm

end

end Sys2Proof

/-! PROOFS. Row by row of the opcode map (R57), the fields of a well-formed instruction fit their format and read back as
the instruction. Where a class has a check or a composite modifier of its own, its case states what the check bounds. -/

namespace Sys2Proof

section
variable {f : Fields} {i : Instr}

/-- Integer arithmetic, logic and bits (rows 0x00 and 0x02). -/
theorem integer_encodes (hwf : WellFormed i = true) (h : simtFields i = some f)
    (hr : f.op / 32 = 0x00 ∨ f.op / 32 = 0x02) : f.Fits .f64a ∧ f.instr = some i := by
  cases i
  all_goals cases h
  all_goals simp only [Nat.reduceDiv, Nat.reduceEqDiff, or_false, false_or, or_self] at hr
  all_goals simp only [WellFormed, Bool.and_eq_true, decide_eq_true_eq] at hwf
  case' lea g d sh a b => have hsh : sh < 1024 := by omega
  all_goals refine ⟨⟨rfl, ?_⟩, ?_⟩
  all_goals simp [Fields.Bounded, Fields.instr, Fields.row00, Fields.row02, part_rules, operand_bounds, *]

/-- The scalar pipe and control (rows 0x03 and 0x04). -/
theorem scalar_control_encodes (hwf : WellFormed i = true) (h : simtFields i = some f)
    (hr : f.op / 32 = 0x03 ∨ f.op / 32 = 0x04) : f.Fits .f64a ∧ f.instr = some i := by
  cases i
  all_goals cases h
  all_goals simp only [Nat.reduceDiv, Nat.reduceEqDiff, or_false, false_or, or_self] at hr
  all_goals simp only [WellFormed, Bool.and_eq_true] at hwf
  case' getret g d depth => have hd : d < 512 := by cases depth <;> simp_all [operand_bounds]
  all_goals refine ⟨⟨rfl, ?_⟩, ?_⟩
  all_goals simp [Fields.Bounded, Fields.instr, Fields.row03, Fields.row04, part_rules, operand_bounds, *]

/-- FP32 and FP64 (rows 0x06 and 0x07). -/
theorem float_encodes (hwf : WellFormed i = true) (h : simtFields i = some f)
    (hr : f.op / 32 = 0x06 ∨ f.op / 32 = 0x07) : f.Fits .f64a ∧ f.instr = some i := by
  cases i
  all_goals cases h
  all_goals simp only [Nat.reduceDiv, Nat.reduceEqDiff, or_false, false_or, or_self] at hr
  all_goals simp only [WellFormed, Bool.and_eq_true] at hwf
  case' fclass => have ha := Src.ok_of_bitsOk hwf.2
  all_goals refine ⟨⟨rfl, ?_⟩, ?_⟩
  all_goals simp [Fields.Bounded, Fields.instr, Fields.row06, Fields.row07, part_rules, operand_bounds, *]

/-- Packed arithmetic, conversions and operations across lanes (rows 0x08 to 0x0A). -/
theorem packed_encodes (hwf : WellFormed i = true) (h : simtFields i = some f)
    (hr : f.op / 32 = 0x08 ∨ f.op / 32 = 0x09 ∨ f.op / 32 = 0x0A) : f.Fits .f64a ∧ f.instr = some i := by
  cases i
  all_goals cases h
  all_goals simp only [Nat.reduceDiv, Nat.reduceEqDiff, or_false, false_or, or_self] at hr
  all_goals simp only [WellFormed, Bool.and_eq_true, decide_eq_true_eq] at hwf
  case' cvtff g d rm src dst h1 a b =>
    obtain ⟨⟨hg, hd⟩, hsrcs⟩ := hwf
    have hd := vdstOk_lt hd
    obtain ⟨ha, hb⟩ := cvtffOk_srcs hsrcs
    have hmod : src.code + 4 * dst.code < 16 := by simp [part_rules]
  case' cvtfi g d rm src dst h1 a =>
    obtain ⟨⟨⟨hg, hd⟩, -⟩, ha⟩ := hwf
    have hd := vdstOk_lt hd
    have ha := Src.ok_of_bitsOk ha
    have hmod : src.code + 4 * dst.code < 16 := by simp [part_rules]
  case' cvtif g d rm dst src a b =>
    obtain ⟨⟨⟨hg, hd⟩, ha⟩, hb⟩ := hwf
    have hd := vdstOk_lt hd
    have ha := Src.ok_of_bitsOk ha
    have hb : b.ok = true := by
      split at hb
      · exact Src.ok_of_bitsOk hb
      · exact Src.ok_of_beq_none hb
  case' cvtii g d src dst idx sat a =>
    obtain ⟨⟨⟨hg, hd⟩, ha⟩, hidx⟩ := hwf
    have hd := vdstOk_lt hd
    have ha := Src.ok_of_bitsOk ha
    have hidx : idx < 4 := by split_ifs at hidx <;> omega
    have hlow : src.code + 8 * dst.code < 64 := by simp [part_rules]
    have hmod : src.code + 8 * dst.code + 64 * idx < 256 := parts_lt hlow hidx
  case' cvt8 g d rm up e5 nosat idx sc a b =>
    obtain ⟨hg, hops⟩ := hwf
    obtain ⟨hd, hidx, ha, hb⟩ := cvt8Ok_operands hops
    have hflags : flagBit up + 2 * flagBit e5 < 4 := by simp [part_rules]
    have hlow : flagBit up + 2 * flagBit e5 + 4 * flagBit nosat < 8 := by simp [part_rules, hflags]
    have hmod : flagBit up + 2 * flagBit e5 + 4 * flagBit nosat + 8 * idx < 32 := parts_lt hlow hidx
  case' cvt4 g d rm up idx sc a b =>
    obtain ⟨hg, hops⟩ := hwf
    obtain ⟨hd, hidx, ha, hb⟩ := cvt4Ok_operands hops
    have hmod : flagBit up + 2 * idx < 16 := parts_lt (flagBit_lt Nat.one_lt_two) hidx
  case' shfl | bcast => have hb := ite_none_src_ok hwf.2
  case' vote g d mode p qa => have hd : d < 512 := by cases p <;> simp_all [operand_bounds]
  all_goals refine ⟨⟨rfl, ?_⟩, ?_⟩
  all_goals simp [Fields.Bounded, Fields.instr, Fields.row08, Fields.row09, Fields.row0A, part_rules, operand_bounds, *]

/-- Immediates of 16 bits (row 0x01). -/
theorem immediate16_encodes (hwf : WellFormed i = true) (h : simtFields i = some f)
    (hr : f.op / 32 = 0x01) : f.Fits .f64i ∧ f.instr = some i := by
  cases i
  all_goals cases h
  all_goals simp only [Nat.reduceDiv, Nat.reduceEqDiff] at hr
  all_goals simp only [WellFormed, Bool.and_eq_true, decide_eq_true_eq] at hwf
  case' leai g d sh a imm => have hsh : sh < 256 := by omega
  case' bfe g d sgn a pos len =>
    obtain ⟨hpos, hlen⟩ := bitFieldOk_lt hwf.2
    have himm : pos + 32 * len < 65536 := by omega
  case' csrr | csrw => have hnum := csrHiOk_lt hwf.2
  case' sysv g d num => have hnum : num < 65536 := by omega
  all_goals refine ⟨⟨rfl, ?_⟩, ?_⟩
  all_goals simp [Fields.Bounded, Fields.instr, Fields.row01, part_rules, operand_bounds, *]

/-- Immediates of 32 bits (row 0x05). -/
theorem immediate32_encodes (hwf : WellFormed i = true) (h : simtFields i = some f)
    (hr : f.op / 32 = 0x05) : f.Fits .f96i ∧ f.instr = some i := by
  cases i
  all_goals cases h
  all_goals simp only [Nat.reduceDiv, Nat.reduceEqDiff] at hr
  all_goals simp only [WellFormed, Bool.and_eq_true] at hwf
  all_goals refine ⟨⟨rfl, ?_⟩, ?_⟩
  all_goals simp [Fields.Bounded, Fields.instr, Fields.row05, operand_bounds, *]

/-- Three sources (row 0x0B). -/
theorem ternary_encodes (hwf : WellFormed i = true) (h : simtFields i = some f)
    (hr : f.op / 32 = 0x0B) : f.Fits .f96r ∧ f.instr = some i := by
  cases i
  all_goals cases h
  all_goals simp only [Nat.reduceDiv, Nat.reduceEqDiff] at hr
  all_goals simp only [WellFormed, Bool.and_eq_true, decide_eq_true_eq] at hwf
  case' bfi g d a b pos len =>
    obtain ⟨hpos, hlen⟩ := bitFieldOk_lt hwf.2
    have himm : pos + 32 * len < 65536 := by omega
  case' bitfn g d t1 t0 a b c =>
    have hmod : t0 + 16 * t1 < 65536 := by omega
    rw [Nat.add_comm]
  case' slide => obtain ⟨hn, hb, hc⟩ := slideOk_operands hwf.2
  case' prune g d w op a b c =>
    obtain ⟨⟨⟨⟨hg, hd⟩, ha⟩, hb⟩, hc⟩ := hwf
    have hd : d < 512 := by cases w <;> simp_all [operand_bounds]
    have ha := pruneSrcOk_ok ha
    have hb := pruneSrcOk_ok hb
    have hc := pruneSrcOk_ok hc
    rw [Nat.add_comm]
  all_goals refine ⟨⟨rfl, ?_⟩, ?_⟩
  all_goals simp [Fields.Bounded, Fields.instr, Fields.row0B, part_rules, operand_bounds, *]

/-- Device memory, core SRAM and atomics (rows 0x0C and 0x0D). -/
theorem memory_encodes (hwf : WellFormed i = true) (h : simtFields i = some f)
    (hr : f.op / 32 = 0x0C ∨ f.op / 32 = 0x0D) : f.Fits .f128m ∧ f.instr = some i := by
  cases i
  all_goals cases h
  all_goals simp only [Nat.reduceDiv, Nat.reduceEqDiff, or_false, false_or, or_self] at hr
  all_goals simp only [WellFormed, Bool.and_eq_true, decide_eq_true_eq] at hwf
  case' brec =>
    obtain ⟨hbd, hbb, ha, hs⟩ := brecOk_operands hwf.2
    have hbd := hbd.trans (by decide : 16 < 512)
  case' ld =>
    obtain ⟨⟨⟨hg, hd⟩, hbr⟩, ha⟩ := hwf
    have hd := loadDstOk_lt hd
  case' lds =>
    obtain ⟨⟨hg, hd⟩, ha⟩ := hwf
    have hd := loadDstOk_lt hd
  case' gather =>
    obtain ⟨⟨⟨⟨hg, hd⟩, hbr⟩, ha⟩, -⟩ := hwf
    have hd := loadDstOk_lt hd
  case' st | sts => have hv := storeSrcOk_ok hwf.2
  case' scatter =>
    obtain ⟨⟨⟨⟨hg, hbr⟩, ha⟩, hv⟩, -⟩ := hwf
    have hv := storeSrcOk_ok hv
  case' brks g d br a off p => have hp : p.ok = true := decide_eq_true (by omega)
  case' brkg g d br a off p =>
    obtain ⟨⟨⟨⟨hg, hd⟩, hbr⟩, ha⟩, hp⟩ := hwf
    have hd := vgroupOk_lt hd
    have hp : p.ok = true := decide_eq_true (by omega)
  case' atom g d op w64 lam acq rel sc br a off v =>
    obtain ⟨⟨⟨⟨⟨⟨hg, hd⟩, hbr⟩, ha⟩, hv⟩, -⟩, -⟩ := hwf
    have hd := vdstOk_lt hd
    have hv := atomSrcOk_ok hv
    have hmod : op.code + 16 * flagBit w64 < 32 := by simp [part_rules]
  case' atoms g d op w64 acq rel sc a off v =>
    obtain ⟨⟨⟨⟨hg, hd⟩, ha⟩, hv⟩, -⟩ := hwf
    have hd := vdstOk_lt hd
    have hv := atomSrcOk_ok hv
  case' red g op w64 lam acq rel sc br a off v =>
    obtain ⟨⟨⟨⟨⟨⟨⟨hg, hbr⟩, ha⟩, hv⟩, -⟩, -⟩, -⟩, -⟩ := hwf
    have hv := atomSrcOk_ok hv
    have hmod : op.code + 16 * flagBit w64 < 32 := by simp [part_rules]
  case' acq => have hv := ite_none_src_ok hwf.2
  all_goals refine ⟨⟨rfl, ?_⟩, ?_⟩
  all_goals simp [Fields.Bounded, Fields.instr, Fields.row0C, Fields.row0D, part_rules, operand_bounds, *]

/-- Fences, barriers, segments, engines and rendering (rows 0x0E and 0x0F). -/
theorem engine_encodes (hwf : WellFormed i = true) (h : simtFields i = some f)
    (hr : f.op / 32 = 0x0E ∨ f.op / 32 = 0x0F) : f.Fits .f128e ∧ f.instr = some i := by
  cases i
  all_goals cases h
  all_goals simp only [Nat.reduceDiv, Nat.reduceEqDiff, or_false, false_or, or_self] at hr
  all_goals simp only [WellFormed, Bool.and_eq_true, decide_eq_true_eq] at hwf
  case' arrive g d nr rel sc a off n =>
    obtain ⟨⟨⟨⟨hg, hd⟩, ha⟩, -⟩, hn⟩ := hwf
    have hd : d < 512 := by cases nr <;> simp_all [operand_bounds]
    have hn : n < 16384 := hn
    have hximm : n < 4294967296 := by omega
  case' segAttach g d win load name =>
    obtain ⟨⟨hd, hwin⟩, hname⟩ := hwf
    have hlow : win + 4 * flagBit load < 8 := parts_lt hwin (flagBit_lt (by decide))
    have hpair := SegName.pair_lt hname
  case' segDetach g d win => have hmod : win < 1024 := by omega
  case' segFree g d wb name =>
    obtain ⟨hd, hname⟩ := hwf
    have hlow : 4 * flagBit wb < 8 := by simp [part_rules]
    have hpair := SegName.pair_lt hname
  case' segQuery g d name => have hpair := SegName.pair_lt hwf.2
  case' coll g d r op rop b64 acq rel sc a off br grp =>
    obtain ⟨hg, hops⟩ := hwf
    obtain ⟨hd, hbr, ha⟩ := collOk_operands hops
    rw [Nat.add_comm (8 * flagBit r)]
    have hlow : op.code + 8 * flagBit r < 16 := by simp [part_rules]
    have hmod : op.code + 8 * flagBit r + 16 * rop.code < 256 := by simp [part_rules, hlow]
  case' momacc g d rec a b =>
    obtain ⟨⟨hg, ha⟩, hdb⟩ := hwf
    obtain ⟨hd, hb⟩ := momacc_operands hdb
  all_goals refine ⟨⟨rfl, ?_⟩, ?_⟩
  all_goals simp [Fields.Bounded, Fields.instr, Fields.row0E, Fields.row0F, part_rules, operand_bounds,
    SegName.ofFields_pack, *]

end

end Sys2Proof

/-! PROOFS. The decoder on the encoding of an instruction, and O58 and O57, which follow (R41, R49 to R57, R248, R249). -/

namespace Sys2Proof

open Sys2Proof.Machine (leBytes leNat leBytes_length leNat_leBytes)

section
variable {f : Fields} {fmt : Format} {i : Instr}

/-- The family `Opcode` for every instruction. -/
theorem Laws.Opcode.all (i : Instr) : Laws.Opcode.Statement i := by
  intro f h
  cases i
  all_goals cases h
  all_goals exact ⟨by dsimp only; decide, rfl⟩

theorem lt_sixteen_of_opAllocated {op : Nat} (h : opAllocated op = true) : op / 32 < 16 := by
  simp only [opAllocated, Bool.and_eq_true, decide_eq_true_eq] at h
  obtain ⟨-, h⟩ := h
  by_contra hrow
  rw [rowColumns.eq_def] at h
  split at h <;> omega

theorem isSimt_eq_false (h : simtFields i = none) : i.isSimt = false := by
  cases i
  all_goals cases h
  all_goals rfl

theorem isField_eq_false (h : fieldWords i = none) : i.isField = false := by
  cases i
  all_goals cases h
  all_goals rfl

theorem simtFields_of_fieldWords {p : Nat × List Word} (h : fieldWords i = some p) : simtFields i = none := by
  cases i
  all_goals cases h
  all_goals rfl

/-- The fields of a well-formed SIMT instruction fit the format of their row and read back as it. -/
theorem simtFields_encodes (hwf : WellFormed i = true) (h : simtFields i = some f) :
    ∃ fmt, rowFormat (f.op / 32) = some fmt ∧ f.Fits fmt ∧ f.instr = some i := by
  have hrow := lt_sixteen_of_opAllocated (Laws.Opcode.all i f h).1
  generalize hr : f.op / 32 = row at hrow
  interval_cases row
  · exact ⟨_, rfl, integer_encodes hwf h (.inl hr)⟩
  · exact ⟨_, rfl, immediate16_encodes hwf h hr⟩
  · exact ⟨_, rfl, integer_encodes hwf h (.inr hr)⟩
  · exact ⟨_, rfl, scalar_control_encodes hwf h (.inl hr)⟩
  · exact ⟨_, rfl, scalar_control_encodes hwf h (.inr hr)⟩
  · exact ⟨_, rfl, immediate32_encodes hwf h hr⟩
  · exact ⟨_, rfl, float_encodes hwf h (.inl hr)⟩
  · exact ⟨_, rfl, float_encodes hwf h (.inr hr)⟩
  · exact ⟨_, rfl, packed_encodes hwf h (.inl hr)⟩
  · exact ⟨_, rfl, packed_encodes hwf h (.inr (.inl hr))⟩
  · exact ⟨_, rfl, packed_encodes hwf h (.inr (.inr hr))⟩
  · exact ⟨_, rfl, ternary_encodes hwf h hr⟩
  · exact ⟨_, rfl, memory_encodes hwf h (.inl hr)⟩
  · exact ⟨_, rfl, memory_encodes hwf h (.inr hr)⟩
  · exact ⟨_, rfl, engine_encodes hwf h (.inl hr)⟩
  · exact ⟨_, rfl, engine_encodes hwf h (.inr hr)⟩

theorem decodeWord_word (hwf : WellFormed i = true) (h : simtFields i = some f) (hfmt : rowFormat (f.op / 32) = some fmt)
    (hfits : f.Fits fmt) (hinstr : f.instr = some i) : decodeWord (f.word fmt) = .ok i := by
  obtain ⟨halloc, -⟩ := Laws.Opcode.all i f h
  obtain ⟨hop, hpred, -⟩ := hfits.bounded
  obtain ⟨r, hr⟩ := f.exists_word_eq fmt
  have hlen : fmt.len < 3 := by cases fmt <;> decide
  have hw : f.word fmt % 4 = fmt.len := by omega
  have hwop : f.word fmt / 4 % 1024 = f.op := by omega
  have hwpred : f.word fmt / 2 ^ 12 % 16 = f.pred := by omega
  simp only [decodeWord, hw, hwop, hwpred, halloc, hfmt, Format.fields_word hfits, hinstr, Fields.check, h, hwf, hlen.ne,
    hpred.ne, ne_eq, not_true_eq_false, if_false, beq_self_eq_true, Bool.and_self, if_true, Bool.true_eq_false]

theorem head?_leBytes_append {n : Nat} (hn : 0 < n) (w : Nat) (rest : List Byte) :
    (leBytes n w ++ rest).head? = some (BitVec.ofNat 8 w) := by
  cases n with
  | zero => exact absurd hn (Nat.lt_irrefl 0)
  | succ n => rfl

theorem decode_leBytes {n w : Nat} (hn : n = lenBytes (w % 4)) (h3 : w % 4 ≠ 3) (hw : w < 256 ^ n) (rest : List Byte) :
    decode (leBytes n w ++ rest) = (decodeWord w).map fun i => (i, rest) := by
  have hpos : 0 < n := by rw [hn, lenBytes]; omega
  have hbyte : (BitVec.ofNat 8 w).toNat % 4 = w % 4 := by rw [BitVec.toNat_ofNat]; omega
  have hlen : (leBytes n w ++ rest).length = n + rest.length := by rw [List.length_append, leBytes_length]
  have htake : leNat ((leBytes n w ++ rest).take n) = w := by
    rw [List.take_left' (leBytes_length n w), leNat_leBytes, Nat.mod_eq_of_lt hw]
  rw [decode, head?_leBytes_append hpos, Option.bind_some, instrBytes, hbyte, if_neg h3, ← hn]
  simp only [hlen, htake, List.drop_left' (leBytes_length n w), Nat.not_lt.mpr (Nat.le_add_right n _), if_false]
  cases decodeWord w <;> rfl

theorem decode_encode (hs : i.isSimt = true) (hwf : WellFormed i = true) (rest : List Byte) :
    decode (encode i ++ rest) = .ok (i, rest) := by
  obtain ⟨f, hf⟩ := Option.ne_none_iff_exists'.mp fun hn => Bool.false_ne_true ((isSimt_eq_false hn).symm.trans hs)
  obtain ⟨fmt, hfmt, hfits, hinstr⟩ := simtFields_encodes hwf hf
  obtain ⟨r, hr⟩ := f.exists_word_eq fmt
  have hlen : fmt.len < 3 := by cases fmt <;> decide
  have hw : f.word fmt % 4 = fmt.len := by omega
  have henc : encode i = leBytes (lenBytes fmt.len) (f.word fmt) := by rw [encode, hf]; simp only [hfmt]
  rw [henc, decode_leBytes (by rw [hw]) (by omega) (f.word_lt fmt), decodeWord_word hwf hf hfmt hfits hinstr]
  rfl

/-! ### Field operations (R248, R249) -/

theorem ofFn_getD_toList {α : Type} {n : Nat} (v : Vector α n) (d : α) :
    (Vector.ofFn fun k : Fin n => v.toList.getD k.val d) = v := by
  ext k hk
  simp

/-- The word of a field operation with an argument splits into its OPC and its ARG. -/
theorem fieldWord_split {opc arg : Nat} (h : arg < 1024) :
    (opc * 1024 + arg) / 1024 = opc ∧ (opc * 1024 + arg) % 1024 = arg := by
  omega

theorem fieldWords_reads {w : Nat} {im : List Word} (hwf : WellFormed i = true) (h : fieldWords i = some (w, im)) :
    w < 256 ^ 2 ∧ fieldImmediates (w / 1024) = some im.length ∧ fieldInstr (w / 1024) (w % 1024) im = some i := by
  cases i
  all_goals cases h
  case fbcPos n =>
    have hn : n < 3 := of_decide_eq_true hwf
    obtain ⟨hopc, harg⟩ := fieldWord_split (opc := 0x02) (hn.trans (by decide))
    exact ⟨by omega, by rw [hopc]; rfl, by rw [hopc, harg]; rfl⟩
  case fbcPick n =>
    have hn : n < 32 := of_decide_eq_true hwf
    obtain ⟨hopc, harg⟩ := fieldWord_split (opc := 0x2D) (hn.trans (by decide))
    exact ⟨by omega, by rw [hopc]; rfl, by rw [hopc, harg]; rfl⟩
  case fbcCallout n k =>
    have hn : n < 9 := of_decide_eq_true hwf
    obtain ⟨hopc, harg⟩ := fieldWord_split (opc := 0x31) (hn.trans (by decide))
    exact ⟨by omega, by rw [hopc]; rfl, by rw [hopc, harg]; rfl⟩
  case fbcXform m =>
    exact ⟨by decide, congrArg some m.length_toList.symm, congrArg (some ∘ Instr.fbcXform) (ofFn_getD_toList m 0)⟩
  all_goals exact ⟨by decide, rfl, rfl⟩

/-- The bytes of immediates. -/
def wordBytes (im : List Word) : List Byte := im.flatMap fun k => leBytes 4 k.toNat

theorem wordBytes_cons (k : Word) (im : List Word) : wordBytes (k :: im) = leBytes 4 k.toNat ++ wordBytes im := rfl

theorem wordBytes_length (im : List Word) : (wordBytes im).length = 4 * im.length := by
  induction im with
  | nil => rfl
  | cons k im ih => rw [wordBytes_cons, List.length_append, ih, leBytes_length, List.length_cons, Nat.mul_succ, Nat.add_comm]

theorem immediates_wordBytes (im : List Word) (rest : List Byte) : immediates im.length (wordBytes im ++ rest) = im := by
  induction im with
  | nil => rfl
  | cons k im ih =>
    have hk : leNat (leBytes 4 k.toNat) = k.toNat := (leNat_leBytes 4 _).trans (Nat.mod_eq_of_lt k.isLt)
    rw [List.length_cons, wordBytes_cons, List.append_assoc, immediates, List.take_left' (leBytes_length 4 _),
      List.drop_left' (leBytes_length 4 _), ih, hk, BitVec.ofNat_toNat, BitVec.setWidth_eq]

theorem decodeField_encode (hs : i.isField = true) (hwf : WellFormed i = true) (rest : List Byte) :
    decodeField (encode i ++ rest) = .ok (i, rest) := by
  obtain ⟨⟨w, im⟩, hwords⟩ :=
    Option.ne_none_iff_exists'.mp fun hn => Bool.false_ne_true ((isField_eq_false hn).symm.trans hs)
  obtain ⟨hw, him, hinstr⟩ := fieldWords_reads hwf hwords
  generalize hbs : encode i ++ rest = bs
  have henc : bs = leBytes 2 w ++ (wordBytes im ++ rest) := by
    rw [← hbs, encode, simtFields_of_fieldWords hwords, hwords, ← List.append_assoc]
    rfl
  have hlen : bs.length = 2 + 4 * im.length + rest.length := by
    rw [henc, List.length_append, List.length_append, leBytes_length, wordBytes_length, Nat.add_assoc]
  have hword : leNat (bs.take 2) = w := by
    rw [henc, List.take_left' (leBytes_length 2 w), leNat_leBytes, Nat.mod_eq_of_lt hw]
  have himm : immediates im.length (bs.drop 2) = im := by
    rw [henc, List.drop_left' (leBytes_length 2 w), immediates_wordBytes]
  have hrest : bs.drop (2 + 4 * im.length) = rest := by
    rw [henc, ← List.append_assoc, List.drop_left' (by rw [List.length_append, leBytes_length, wordBytes_length])]
  rw [decodeField, hword, him, if_neg (by omega)]
  simp only [himm, hinstr, hwords, hwf, hrest, and_self, if_true]
  rw [if_neg (by omega)]

end

/-- Settles O58: an encoding decodes to its instruction, since the fields of its word fit their format and read back. -/
theorem encodingsRoundTrip : Obligations.EncodingsRoundTrip :=
  fun _ rest hwf => ⟨fun hs => decode_encode hs hwf rest, fun hs => decodeField_encode hs hwf rest⟩

/-- Settles O57 by evaluating the decoder on each word. -/
theorem decodedWords : Obligations.DecodedWords := by
  unfold Obligations.DecodedWords
  decide

end Sys2Proof

/-! PROOFS. What the turns of a step come to, and O56, which follows (R42, R58, R98, R248, R251, R337, R343). -/

namespace Sys2Proof.Machine

/-! ### What a turn comes to -/

section
variable {s : State} {ts : List Turn} {slot : Nat}

theorem step_turn {t : Turn} (h : s.agenda = t :: ts) :
    step s = andThen ({ s with agenda := ts }.upToStep.turn t) State.cutPaths := by
  rw [step, h]

theorem State.find_of_candidate {w : Warp} {run : LaneMask} {pc : BitVec 55} (h : s.candidate slot = some (w, run, pc)) :
    Map.find s.warps slot = some w := by
  unfold State.candidate at h
  split at h
  next x hx =>
    split at h
    · obtain ⟨r, -, hr⟩ := Option.map_eq_some_iff.mp h
      rw [hx, (Prod.mk.inj hr).1]
    · cases h
  next => cases h

/-- A warp without a trap that was due before runs the bytes at its run's PC. -/
theorem State.issue_of_code {w : Warp} {run : LaneMask} {pc : BitVec 55} {bs : List Byte}
    (hc : s.candidate slot = some (w, run, pc)) (hf : w.firstTrap = none) (hb : s.code slot (pcAddr pc) = .ok bs) :
    s.issue slot = (s.fetched slot).run slot run (pcAddr pc) bs := by
  rw [State.issue, hc]
  simp only [State.issueRun, hf, hb]

theorem State.run_of_decode {run : LaneMask} {pc : VAddr} {bs rest : List Byte} {i : Instr} (h : decode bs = .ok (i, rest)) :
    s.run slot run pc bs = exec i (s.at' slot run pc i.size) := by
  rw [State.run, h]

theorem State.run_crossing {run : LaneMask} {pc : VAddr} {bs : List Byte} (h : decode bs = .error .crossesBlock) :
    s.run slot run pc bs = (s.at' slot run pc 0).trap 0x02 0 := by
  rw [State.run, h]

theorem State.run_undecoded {run : LaneMask} {pc : VAddr} {bs : List Byte} {e : DecodeError} (h : decode bs = .error e)
    (he : e ≠ .crossesBlock) : s.run slot run pc bs = (s.at' slot run pc 0).trap 0x01 0 := by
  rw [State.run, h]
  cases e
  case crossesBlock => exact absurd rfl he
  all_goals rfl

/-- The state that the turn of a warp leaves, by what its instruction left. -/
def State.afterIssue (s t : State) (slot : Nat) : State :=
  let lk := (s.block (s.warp slot).blk).launch
  if s.moved t slot lk then
    let rivals := (s.warps.filter fun p => p.1 / 8 == slot / 8 && p.1 != slot && s.ready p.1).map Prod.fst
    let u := (t.hasIssued slot lk).passOver rivals
    if s.slowed (slotCore slot) then u.pass 1 else u
  else if (s.launch lk).proof && s.alike t then t.lookAgain lk
  else t

theorem State.issueTurn_of_issue {t : State} (h : s.issue slot = .next t) : s.issueTurn slot = .next (s.afterIssue t slot) := by
  rw [State.issueTurn, h]
  rfl

theorem State.inRotation_proof (hp : (s.launch (s.block (s.warp slot).blk).launch).proof = true) :
    s.inRotation slot = false ↔ s.stepOver (s.block (s.warp slot).blk).launch slot = false ∨
      ∃ p ∈ s.warps, slotCore p.1 = slotCore slot ∧ s.rotated p < s.rotated (slot, s.warp slot) ∧ s.canIssue p.1 = true := by
  simp only [State.inRotation, hp, if_true, Bool.and_eq_false_iff, Bool.not_eq_false', List.any_eq_true, Bool.and_eq_true,
    beq_iff_eq, decide_eq_true_eq, and_assoc]

theorem State.inRotation_other (hp : (s.launch (s.block (s.warp slot).blk).launch).proof = false) :
    s.inRotation slot = false ↔ ∃ p ∈ s.warps, p.1 ≠ slot ∧ p.1 / 8 = slot / 8 ∧
      s.chosenBefore p (slot, s.warp slot) = true ∧ s.ready p.1 = true := by
  simp only [State.inRotation, hp, Bool.false_eq_true, if_false, Bool.not_eq_false', List.any_eq_true, Bool.and_eq_true,
    beq_iff_eq, bne_iff_ne, ne_eq, and_assoc]

theorem State.asBegun_of_fresh {va loc : Nat} (bs : List Byte)
    (h : ∀ o ∈ s.oldCode, o.launch ≠ (s.block (s.warp slot).blk).launch) : s.asBegun slot va loc bs = bs := by
  have hnone : s.oldCode.find? (fun o => o.launch == (s.block (s.warp slot).blk).launch) = none :=
    List.find?_eq_none.mpr fun o ho => by simpa using h o ho
  simp only [State.asBegun, hnone]

theorem State.pieceBytes_of_inside {p : Party} {ver : List (Nat × Byte)} {x : Xlat} (n : Nat) (h : isExternal x.loc = false) :
    s.pieceBytes p ver x n = some (leBytes n (s.readAt ver x n)) := by
  rw [State.pieceBytes, h]
  rfl

theorem State.code_of_walk {pc : VAddr} {x : Xlat} (ho : ∀ o ∈ s.oldCode, o.launch ≠ (s.block (s.warp slot).blk).launch)
    (hw : s.walk (s.fetcher slot).ctx .exec pc.toNat = .ok x)
    (hf : s.waitsOn (s.fetcher slot).ctx (s.fetcher slot).who pc.toNat 1 = false) (hx : isExternal x.loc = false) :
    s.code slot pc = .ok (leBytes (32 - pc.toNat % 32) (s.readAt [] x (32 - pc.toNat % 32))) := by
  simp only [State.code, hw, hf, State.pieceBytes_of_inside _ hx, State.asBegun_of_fresh _ ho, Bool.false_eq_true, if_false]

theorem State.rayTurn_of_decode {bk r : Nat} {c : Cmd} {x : Ray} {e : Eval} {i : Instr} {rest : List Byte}
    (he : { s with ray := (bk, r) }.evaluating = some (c, x, e))
    (hd : decodeField ({ s with ray := (bk, r) }.fieldCode c e) = .ok (i, rest)) :
    s.rayTurn bk r = exec i { s with ray := (bk, r) } := by
  simp only [State.rayTurn, he, hd]

end

/-- Settles O56: a step is the turn that the agenda names, and a turn runs what the bytes at its place decode to. -/
theorem stepRunsDecoded : Obligations.StepRunsDecoded := by
  refine ⟨fun s ts i h => step_turn h, fun s ts slot w run pc bs h => ?_, fun s ts slot h => ?_,
    fun s slot pc x ho hw hf hx => State.code_of_walk ho hw hf hx, fun s ts bk r c x e h => ?_⟩
  · intro u hturn hcand hfirst hcode v a lk gives
    have hlk : lk = (u.block (u.warp slot).blk).launch := by
      rw [State.warp_of_find (State.find_of_candidate hcand)]
    have hgives {t : State} (ht : v.run slot run a bs = .next t) : gives t := by
      have hstep : step s = .next (u.afterIssue t slot).cutPaths := by
        rw [step_turn h, State.turn]
        change andThen (if u.inRotation slot = true then u.issueTurn slot else .next u) _ = _
        rw [if_pos hturn, State.issueTurn_of_issue ((State.issue_of_code hcand hfirst hcode).trans ht), andThen]
      rw [State.afterIssue, ← hlk] at hstep
      refine ⟨fun hm => ?_, fun hm hp => ?_, fun hm hp => ?_⟩
      · rw [hstep, if_pos hm]
      · rw [hstep, hm, hp]
        rfl
      · rw [hstep, hm, hp]
        rfl
    exact ⟨fun i rest t hd ht => hgives ((State.run_of_decode hd).trans ht),
      fun hd => ⟨_, rfl, hgives (State.run_crossing hd)⟩,
      fun e hd he => ⟨_, rfl, hgives (State.run_undecoded hd he)⟩⟩
  · refine ⟨State.inRotation_proof, State.inRotation_other, fun hturn => ?_⟩
    rw [step_turn h, State.turn, hturn]
    rfl
  · intro u he i rest hd
    rw [step_turn h, State.turn, State.rayTurn_of_decode he hd]

end Sys2Proof.Machine

/-! PROOFS. Results that carry flags: floating results of one, two or three sources, predicates and pairs, and results of so
many bits, each from what its meaning computes in a lane; and O9, O11 and O12, which follow. -/

namespace Sys2Proof.Machine

/-! ### Operands that count as U are equal in every lane (R19) -/

section
variable {w : Warp} (l : Fin 32)

theorem Warp.pair_of_pairU {a : VSrc} (h : w.pairU a = true) : w.pair a l = w.pair a 0 := by
  obtain ⟨hlo, hhi⟩ := Bool.and_eq_true_iff.mp h
  rw [Warp.pair, Warp.pair, pairLane, pairLane, Storage.lane_of_isU _ hlo l, Storage.lane_of_isU _ hhi l]

theorem Warp.src_of_uniformBits {bits : Nat} {a : Src} (h : w.uniformBits bits a = true) :
    (w.src a).lane l = (w.src a).lane 0 := by
  have hsrc : w.srcAt a 0 = w.src a := by cases a <;> rfl
  obtain ⟨hlo, -⟩ := Bool.and_eq_true_iff.mp h
  exact Storage.lane_of_isU _ (hsrc ▸ hlo) l

theorem Warp.pairLane_of_uniformBits {a : Src} (h : w.uniformBits 64 a = true) :
    pairLane (w.srcAt a 0) (w.srcAt a 1) l = pairLane (w.srcAt a 0) (w.srcAt a 1) 0 := by
  obtain ⟨hlo, hhi⟩ := Bool.and_eq_true_iff.mp h
  rw [pairLane, pairLane, Storage.lane_of_isU _ hlo l, Storage.lane_of_isU _ (by simpa using hhi) l]

theorem Warp.bitsLane_of_uniformBits {bits : Nat} {a : Src} (h : w.uniformBits bits a = true) :
    w.bitsLane bits a l = w.bitsLane bits a 0 := by
  unfold Warp.bitsLane
  split
  next hb => rw [Warp.pairLane_of_uniformBits l (hb ▸ h)]
  next => rw [Warp.src_of_uniformBits l h]

theorem Warp.element_of_uniformBits {f : Fmt} {a : Src} (h : w.uniformBits f.bits a = true) (h1 : Bool) :
    w.element f h1 a l = w.element f h1 a 0 := by
  unfold Warp.element
  split
  next => rw [Warp.src_of_uniformBits l h]
  next =>
    split
    next hb => rw [Warp.pairLane_of_uniformBits l (hb ▸ h)]
    next => rw [Warp.src_of_uniformBits l h]

end

/-! ### Results that a meaning computes with flags (R19, R91) -/

section
variable {i : Instr} {s : State} {g : Guard} {scalar : Bool} {us : List Use} {d q bits : Nat} {u : Bool}

theorem vecResult_of_fmap {f : Fin 32 → FOut}
    (hi : exec i s = s.compute g scalar us ((Effect.vec d (fmap u f).1).withFlags (fmap u f).2))
    (hu : u = true → ∀ l, f l = f 0) : VecResult i s g scalar us d f :=
  vecResult_of_compute i s g scalar us d f _ false _ hi (fun l => (fmap_lane u f hu l).1) fun l => (fmap_lane u f hu l).2

theorem pairResult_of_dmap {f : Fin 32 → DOut}
    (hi : exec i s = s.compute g scalar us ((Effect.pair d (dmap u f).1 (dmap u f).2.1).withFlags (dmap u f).2.2))
    (hu : u = true → ∀ l, f l = f 0) : PairResult i s g scalar us d f :=
  pairResult_of_compute i s g scalar us d f _ _ _ hi (fun l => (dmap_lane u f hu l).1) (fun l => (dmap_lane u f hu l).2.1)
    fun l => (dmap_lane u f hu l).2.2

theorem predResult_of_pmap {f : Fin 32 → Bool × Flags}
    (hi : exec i s = s.compute g scalar us ((Effect.predicate q (pmap u f).1).withFlags (pmap u f).2))
    (hu : u = true → ∀ l, f l = f 0) : PredResult i s g scalar us q f :=
  predResult_of_compute i s g scalar us q f _ _ hi (fun l => (pmap_lane u f hu l).1) fun l => (pmap_lane u f hu l).2

theorem bitsResult_of_computeBits {f : Fin 32 → Rounded} (hi : exec i s = s.computeBits g d bits scalar us u f)
    (hu : u = true → ∀ l, f l = f 0) : BitsResult bits i s g scalar us d f := by
  unfold State.computeBits at hi
  unfold BitsResult
  split
  next hb =>
    rw [if_pos hb] at hi
    exact pairResult_of_dmap hi fun h l => congrArg Rounded.out64 (hu h l)
  next hb =>
    rw [if_neg hb] at hi
    exact vecResult_of_fmap hi fun h l => congrArg Rounded.out (hu h l)

theorem vecResult_of_computeBits {f : Fin 32 → Rounded} (hi : exec i s = s.computeBits g d 32 scalar us u f)
    (hu : u = true → ∀ l, f l = f 0) : VecResult i s g scalar us d fun l => (f l).out :=
  vecResult_of_fmap hi fun h l => congrArg Rounded.out (hu h l)

end

/-! ### Floating results of one, two and three sources -/

section
variable {i : Instr} {s : State} {g : Guard} {d q : Nat} {a b c : Src}

theorem vecResult_of_float1 {f : Word → FOut} (hi : exec i s = s.float1 g d a f) :
    VecResult i s g a.scalar (a.uses 1) d fun l => f ((s.me.src a).lane l) :=
  vecResult_of_fmap hi fun h l => by rw [Storage.lane_of_isU _ h l]

theorem vecResult_of_float2 {f : Word → Word → FOut} (hi : exec i s = s.float2 g d a b f) :
    VecResult i s g (a.scalar || b.scalar) (a.uses 1 ++ b.uses 1) d
      fun l => f ((s.me.src a).lane l) ((s.me.src b).lane l) :=
  vecResult_of_fmap hi fun h l => by
    obtain ⟨ha, hb⟩ := Bool.and_eq_true_iff.mp h
    rw [Storage.lane_of_isU _ ha l, Storage.lane_of_isU _ hb l]

theorem vecResult_of_float3 {f : Word → Word → Word → FOut} (hi : exec i s = s.float3 g d a b c f) :
    VecResult i s g (a.scalar || b.scalar || c.scalar) (a.uses 1 ++ b.uses 1 ++ c.uses 1) d
      fun l => f ((s.me.src a).lane l) ((s.me.src b).lane l) ((s.me.src c).lane l) :=
  vecResult_of_fmap hi fun h l => by
    obtain ⟨hab, hc⟩ := Bool.and_eq_true_iff.mp h
    obtain ⟨ha, hb⟩ := Bool.and_eq_true_iff.mp hab
    rw [Storage.lane_of_isU _ ha l, Storage.lane_of_isU _ hb l, Storage.lane_of_isU _ hc l]

theorem gives1_of_float1 {j : Guard → Nat → Src → Instr} {f : Word → FOut}
    (hj : ∀ s g d a, exec (j g d a) s = s.float1 g d a f) : Gives1 j f :=
  fun s g d a => vecResult_of_float1 (hj s g d a)

theorem gives2_of_float2 {j : Guard → Nat → Src → Src → Instr} {f : Word → Word → FOut}
    (hj : ∀ s g d a b, exec (j g d a b) s = s.float2 g d a b f) : Gives2 j f :=
  fun s g d a b => vecResult_of_float2 (hj s g d a b)

theorem gives3_of_float3 {j : Guard → Nat → Src → Src → Src → Instr} {f : Word → Word → Word → FOut}
    (hj : ∀ s g d a b c, exec (j g d a b c) s = s.float3 g d a b c f) : Gives3 j f :=
  fun s g d a b c => vecResult_of_float3 (hj s g d a b c)

theorem predResult_of_fcmp2 {f : Word → Word → Bool × Flags} (hi : exec i s = s.fcmp2 g q a b f) :
    PredResult i s g (a.scalar || b.scalar) (a.uses 1 ++ b.uses 1) q
      fun l => f ((s.me.src a).lane l) ((s.me.src b).lane l) :=
  predResult_of_pmap hi fun h l => by
    obtain ⟨ha, hb⟩ := Bool.and_eq_true_iff.mp h
    rw [Storage.lane_of_isU _ ha l, Storage.lane_of_isU _ hb l]

end

theorem fclass_result (s : State) (g : Guard) (d : Nat) (fmt : Fmt) (h1 : Bool) (a : Src) :
    VecResult (.fclass g d fmt h1 a) s g a.scalar (usesBits fmt.bits a) d fun l =>
      plain (BitVec.ofNat 32 (2 ^ (fmtOf fmt).classOf (s.me.element fmt h1 a l))) :=
  vecResult_plain rfl fun l =>
    (fmap_lane (s.me.uniformBits fmt.bits a)
      (fun l => plain (BitVec.ofNat 32 (2 ^ (fmtOf fmt).classOf (s.me.element fmt h1 a l))))
      (fun h l => by rw [Warp.element_of_uniformBits l h]) l).1

/-- Settles O9: each operation computes its own function of its sources' lanes, one computation serving operands that are
equal in every lane. -/
theorem fp32Results : Obligations.Fp32Results :=
  ⟨fun _ => gives2_of_float2 fun _ _ _ _ _ => rfl, fun _ => gives2_of_float2 fun _ _ _ _ _ => rfl,
    fun _ => gives2_of_float2 fun _ _ _ _ _ => rfl, fun _ _ => gives1_of_float1 fun _ _ _ _ => rfl,
    fun _ _ => gives1_of_float1 fun _ _ _ _ => rfl, fun _ => gives3_of_float3 fun _ _ _ _ _ _ => rfl,
    gives2_of_float2 fun _ _ _ _ _ => rfl, gives2_of_float2 fun _ _ _ _ _ => rfl,
    fun _ _ => gives1_of_float1 fun _ _ _ _ => rfl, fclass_result⟩

/-! ### Comparisons (R145, R150, R152) -/

theorem compares2_of_fcmp2 {j : Guard → Nat → Src → Src → Instr} {f : Word → Word → Bool × Flags}
    (hj : ∀ s g q a b, exec (j g q a b) s = s.fcmp2 g q a b f) : Compares2 j f :=
  fun s g q a b => predResult_of_fcmp2 (hj s g q a b)

theorem dcmp_result (s : State) (g : Guard) (q : Nat) (cc : FCond) (a b : VSrc) :
    PredResult (.dcmp g q cc a b) s g false (a.uses 2 ++ b.uses 2) q fun l =>
      fcondHolds cc (valD (s.me.pair a l)) (valD (s.me.pair b l)) :=
  predResult_of_pmap (u := s.me.pairU a && s.me.pairU b) rfl fun h l => by
    obtain ⟨ha, hb⟩ := Bool.and_eq_true_iff.mp h
    rw [Warp.pair_of_pairU l ha, Warp.pair_of_pairU l hb]

/-- The conditions of the two elements of a lane, combined (R152). -/
def packedCond (f : FloatFormat) (flush : Bool) (cc : FCond) (comb : Comb) (x y : Word) : Bool × Flags :=
  let r (hi : Bool) : Bool × Flags := fcondHolds cc (elemVal f flush x hi) (elemVal f flush y hi)
  (match comb with
    | .lo => (r false).1
    | .hi => (r true).1
    | .and => (r false).1 && (r true).1
    | .or => (r false).1 || (r true).1, (r false).2 ||| (r true).2)

theorem predResult_of_halfCmp {i : Instr} {s : State} {g : Guard} {q : Nat} {f : FloatFormat} {cc : FCond} {comb : Comb}
    {a b : Src} (hi : exec i s = s.halfCmp g q f cc comb a b) :
    PredResult i s g (a.scalar || b.scalar) (a.uses 1 ++ b.uses 1) q
      fun l => packedCond f s.flush16 cc comb ((s.me.src a).lane l) ((s.me.src b).lane l) :=
  predResult_of_fcmp2 (f := packedCond f s.flush16 cc comb) hi

/-- Settles O11: a comparison computes its condition of the lanes' values; a packed one combines those of two elements. -/
theorem floatComparisonResults : Obligations.FloatComparisonResults :=
  ⟨fun _ => compares2_of_fcmp2 fun _ _ _ _ _ => rfl, dcmp_result,
    fun _ _ _ cc comb _ _ =>
      ⟨predResult_of_halfCmp (f := fp16) (cc := cc) (comb := comb) rfl,
        predResult_of_halfCmp (f := bf16) (cc := cc) (comb := comb) rfl⟩⟩

/-! ### Packed arithmetic (R151) -/

/-- An operation on each element of two lanes apart, its results packed. -/
def packedArith (f : FloatFormat) (rm : Rm) (flush : Bool) (op : Val → Val → Exact) (x y : Word) : FOut :=
  packOut ((op (elemVal f flush x false) (elemVal f flush y false)).round f rm flush)
    ((op (elemVal f flush x true) (elemVal f flush y true)).round f rm flush)

/-- The fused multiply-add of each element of three lanes apart. -/
def packedFma (f : FloatFormat) (rm : Rm) (flush : Bool) (x y z : Word) : FOut :=
  packOut ((Val.fma rm (elemVal f flush x false) (elemVal f flush y false) (elemVal f flush z false)).round f rm flush)
    ((Val.fma rm (elemVal f flush x true) (elemVal f flush y true) (elemVal f flush z true)).round f rm flush)

/-- The minimum or maximum of each element of two lanes apart. -/
def packedMinMax (f : FloatFormat) (flush mx : Bool) (x y : Word) : FOut :=
  packOut (f.minmax flush mx (elem x false) (elem y false)) (f.minmax flush mx (elem x true) (elem y true))

section
variable {i : Instr} {s : State} {g : Guard} {d : Nat} {f : FloatFormat} {rm : Rm} {mx : Bool} {a b c : Src}

theorem vecResult_of_half2 {op : Val → Val → Exact} (hi : exec i s = s.half2 g d f rm a b op) :
    VecResult i s g (a.scalar || b.scalar) (a.uses 1 ++ b.uses 1) d
      fun l => packedArith f rm s.flush16 op ((s.me.src a).lane l) ((s.me.src b).lane l) :=
  vecResult_of_float2 (f := packedArith f rm s.flush16 op) hi

theorem vecResult_of_half3 (hi : exec i s = s.half3 g d f rm a b c) :
    VecResult i s g (a.scalar || b.scalar || c.scalar) (a.uses 1 ++ b.uses 1 ++ c.uses 1) d
      fun l => packedFma f rm s.flush16 ((s.me.src a).lane l) ((s.me.src b).lane l) ((s.me.src c).lane l) :=
  vecResult_of_float3 (f := packedFma f rm s.flush16) hi

theorem vecResult_of_halfMinMax (hi : exec i s = s.halfMinMax g d f mx a b) :
    VecResult i s g (a.scalar || b.scalar) (a.uses 1 ++ b.uses 1) d
      fun l => packedMinMax f s.flush16 mx ((s.me.src a).lane l) ((s.me.src b).lane l) :=
  vecResult_of_float2 (f := packedMinMax f s.flush16 mx) hi

end

/-- Settles O12: a packed operation is a function of its sources' lanes that treats each element apart. -/
theorem packedFloatResults : Obligations.PackedFloatResults :=
  fun _ _ _ _ _ _ _ =>
    ⟨vecResult_of_half2 rfl, vecResult_of_half2 rfl, vecResult_of_halfMinMax rfl, vecResult_of_halfMinMax rfl,
      vecResult_of_half3 rfl, vecResult_of_half2 rfl, vecResult_of_half2 rfl, vecResult_of_halfMinMax rfl,
      vecResult_of_halfMinMax rfl, vecResult_of_half3 rfl⟩

end Sys2Proof.Machine

/-! PROOFS. Conversions, each by the shared operation that its instruction comes to; and O17, which follows (R153 to R158). -/

namespace Sys2Proof.Machine

section
variable {i : Instr} {s : State} {g : Guard} {d : Nat} {rm : Rm} {a b : Src}

/-! ### Between formats (R153) -/

section
variable {src dst : Fmt} {h1 : Bool}

theorem exec_cvtff_two (hd : dst.half = true) (hs : src.half = false) :
    exec (.cvtff g d rm src dst h1 a b) s =
      s.computeBits g d 32 (a.scalar || b.scalar) (usesBits src.bits a ++ usesBits src.bits b)
        (s.me.uniformBits src.bits a && s.me.uniformBits src.bits b)
        fun l => packRounded (convertFloat src dst rm s.flush16 (s.me.element src false a l))
          (convertFloat src dst rm s.flush16 (s.me.element src false b l)) :=
  if_pos (by rw [hd, hs]; rfl)

theorem exec_cvtff_packed (hd : dst.half = true) (hs : src.half = true) :
    exec (.cvtff g d rm src dst h1 a b) s =
      s.computeBits g d 32 a.scalar (usesBits src.bits a) (s.me.uniformBits src.bits a)
        fun l => packRounded (convertFloat src dst rm s.flush16 (s.me.element src false a l))
          (convertFloat src dst rm s.flush16 (s.me.element src true a l)) :=
  (if_neg (by simp [hs])).trans (if_pos hd)

theorem exec_cvtff_one (hd : dst.half = false) :
    exec (.cvtff g d rm src dst h1 a b) s =
      s.computeBits g d dst.bits a.scalar (usesBits src.bits a) (s.me.uniformBits src.bits a)
        fun l => convertFloat src dst rm s.flush16 (s.me.element src h1 a l) :=
  (if_neg (by simp [hd])).trans (if_neg (by simp [hd]))

theorem cvtff_two_result (hd : dst.half = true) (hs : src.half = false) :
    VecResult (.cvtff g d rm src dst h1 a b) s g (a.scalar || b.scalar) (usesBits src.bits a ++ usesBits src.bits b) d
      fun l => (packRounded (convertFloat src dst rm s.flush16 (s.me.element src false a l))
        (convertFloat src dst rm s.flush16 (s.me.element src false b l))).out :=
  vecResult_of_computeBits (exec_cvtff_two hd hs) fun h l => by
    obtain ⟨ha, hb⟩ := Bool.and_eq_true_iff.mp h
    rw [Warp.element_of_uniformBits l ha, Warp.element_of_uniformBits l hb]

theorem cvtff_packed_result (hd : dst.half = true) (hs : src.half = true) :
    VecResult (.cvtff g d rm src dst h1 a b) s g a.scalar (usesBits src.bits a) d
      fun l => (packRounded (convertFloat src dst rm s.flush16 (s.me.element src false a l))
        (convertFloat src dst rm s.flush16 (s.me.element src true a l))).out :=
  vecResult_of_computeBits (exec_cvtff_packed hd hs) fun h l => by
    rw [Warp.element_of_uniformBits l h, Warp.element_of_uniformBits l h]

theorem cvtff_one_result (hd : dst.half = false) :
    BitsResult dst.bits (.cvtff g d rm src dst h1 a b) s g a.scalar (usesBits src.bits a) d
      fun l => convertFloat src dst rm s.flush16 (s.me.element src h1 a l) :=
  bitsResult_of_computeBits (exec_cvtff_one hd) fun h l => by rw [Warp.element_of_uniformBits l h]

end

/-! ### To integers, and between integers (R154, R156) -/

theorem cvtfi_result (src : Fmt) (dst : IntFmt) (h1 : Bool) :
    BitsResult dst.bits (.cvtfi g d rm src dst h1 a) s g a.scalar (usesBits src.bits a) d fun l =>
      ((fmtOf src).flushIn (s.flush16 && src.half) ((fmtOf src).decode (s.me.element src h1 a l))).toInteger rm
        (intFmtSigned dst) dst.bits :=
  bitsResult_of_computeBits (u := s.me.uniformBits src.bits a) rfl fun h l => by rw [Warp.element_of_uniformBits l h]

theorem cvtii_result (src dst : IntType) (idx : Nat) (sat : Bool) :
    BitsResult dst.bits (.cvtii g d src dst idx sat a) s g a.scalar (usesBits src.bits a) d fun l =>
      placeInt (intTypeSigned dst) sat dst.bits
        (intOf (intTypeSigned src) src.bits (s.me.bitsLane src.bits a l / 2 ^ (src.bits * idx))) :=
  bitsResult_of_computeBits (u := s.me.uniformBits src.bits a) rfl fun h l => by rw [Warp.bitsLane_of_uniformBits l h]

/-! ### From integers (R155) -/

section
variable {dst : Fmt} {src : IntFmt}

/-- The integer of a lane converted to a format. -/
def State.fromInt (s : State) (rm : Rm) (dst : Fmt) (src : IntFmt) (a : Src) (l : Fin 32) : Rounded :=
  (fmtOf dst).round rm true (s.flush16 && dst.half)
    (Val.ofInt (intOf (intFmtSigned src) src.bits (s.me.bitsLane src.bits a l)))

theorem State.fromInt_uniform (h : s.me.uniformBits src.bits a = true) (l : Fin 32) :
    s.fromInt rm dst src a l = s.fromInt rm dst src a 0 := by
  rw [State.fromInt, State.fromInt, Warp.bitsLane_of_uniformBits l h]

theorem exec_cvtif_two (hd : dst.half = true) :
    exec (.cvtif g d rm dst src a b) s =
      s.computeBits g d 32 (a.scalar || b.scalar) (usesBits src.bits a ++ usesBits src.bits b)
        (s.me.uniformBits src.bits a && s.me.uniformBits src.bits b)
        fun l => packRounded (s.fromInt rm dst src a l) (s.fromInt rm dst src b l) :=
  if_pos hd

theorem exec_cvtif_one (hd : dst.half = false) :
    exec (.cvtif g d rm dst src a b) s =
      s.computeBits g d dst.bits a.scalar (usesBits src.bits a) (s.me.uniformBits src.bits a) (s.fromInt rm dst src a) :=
  if_neg (by simp [hd])

theorem cvtif_two_result (hd : dst.half = true) :
    VecResult (.cvtif g d rm dst src a b) s g (a.scalar || b.scalar) (usesBits src.bits a ++ usesBits src.bits b) d
      fun l => (packRounded (s.fromInt rm dst src a l) (s.fromInt rm dst src b l)).out :=
  vecResult_of_computeBits (exec_cvtif_two hd) fun h l => by
    obtain ⟨ha, hb⟩ := Bool.and_eq_true_iff.mp h
    rw [State.fromInt_uniform ha, State.fromInt_uniform hb]

theorem cvtif_one_result (hd : dst.half = false) :
    BitsResult dst.bits (.cvtif g d rm dst src a b) s g a.scalar (usesBits src.bits a) d (s.fromInt rm dst src a) :=
  bitsResult_of_computeBits (exec_cvtif_one hd) State.fromInt_uniform

end

/-! ### Narrow formats (R157, R158) -/

section
variable {f : FloatFormat} {idx : Nat}

theorem vecResult_of_packNarrow {sat : Bool} {n : Nat} (hi : exec i s = s.packNarrow g d f rm sat n a) :
    VecResult i s g a.scalar (a.uses n) d fun l =>
      (packMany f.width ((List.range n).map fun k => f.round rm sat false (valF ((s.me.srcAt a k).lane l)))).out :=
  vecResult_of_computeBits hi fun h l => by
    refine congrArg (packMany f.width) (List.map_congr_left fun k hk => ?_)
    rw [Storage.lane_of_isU _ (List.all_eq_true.mp h k hk) l]

theorem State.unpackWide_plain : s.unpackWide g d f rm idx false a b =
    s.computeBits g d 32 a.scalar (a.uses 1) (s.me.src a).isU
      fun l => fp32.round rm true false (f.decode (((s.me.src a).lane l).toNat / 2 ^ (f.width * idx) % 2 ^ f.width)) := by
  rw [State.unpackWide, if_neg Bool.false_ne_true]

theorem State.unpackWide_scaled : s.unpackWide g d f rm idx true a b =
    s.computeBits g d 32 (a.scalar || b.scalar) (a.uses 1 ++ b.uses 1) ((s.me.src a).isU && (s.me.src b).isU)
      fun l => scaleElement rm (f.decode (((s.me.src a).lane l).toNat / 2 ^ (f.width * idx) % 2 ^ f.width))
        ((s.me.src b).lane l).toNat := by
  rw [State.unpackWide, if_pos rfl]

theorem vecResult_of_unpackWide (hi : exec i s = s.unpackWide g d f rm idx false a b) :
    VecResult i s g a.scalar (a.uses 1) d fun l =>
      (fp32.round rm true false (f.decode (((s.me.src a).lane l).toNat / 2 ^ (f.width * idx) % 2 ^ f.width))).out :=
  vecResult_of_computeBits (hi.trans State.unpackWide_plain) fun h l => by rw [Storage.lane_of_isU _ h l]

theorem vecResult_of_unpackWide_scaled (hi : exec i s = s.unpackWide g d f rm idx true a b) :
    VecResult i s g (a.scalar || b.scalar) (a.uses 1 ++ b.uses 1) d fun l =>
      (scaleElement rm (f.decode (((s.me.src a).lane l).toNat / 2 ^ (f.width * idx) % 2 ^ f.width))
        ((s.me.src b).lane l).toNat).out :=
  vecResult_of_computeBits (hi.trans State.unpackWide_scaled) fun h l => by
    obtain ⟨ha, hb⟩ := Bool.and_eq_true_iff.mp h
    rw [Storage.lane_of_isU _ ha l, Storage.lane_of_isU _ hb l]

end

/-- The format of CVT8 (R157). -/
def fp8 (e5 : Bool) : FloatFormat := if e5 then e5m2 else e4m3

theorem width_fp8 (e5 : Bool) : (fp8 e5).width = 8 := by cases e5 <;> rfl

theorem exec_cvt8_pack (e5 nosat : Bool) (idx : Nat) (sc : Bool) :
    exec (.cvt8 g d rm false e5 nosat idx sc a b) s = s.packNarrow g d (fp8 e5) rm (!nosat) 4 a := by
  change execCvt8 g d rm false e5 nosat idx sc a b s = _
  rw [execCvt8, if_neg Bool.false_ne_true, fp8]

theorem exec_cvt8_unpack (e5 nosat : Bool) (idx : Nat) (sc : Bool) :
    exec (.cvt8 g d rm true e5 nosat idx sc a b) s = s.unpackWide g d (fp8 e5) rm idx sc a b := by
  change execCvt8 g d rm true e5 nosat idx sc a b s = _
  rw [execCvt8, if_pos rfl, fp8]

theorem exec_cvt4_pack (idx : Nat) (sc : Bool) :
    exec (.cvt4 g d rm false idx sc a b) s = s.packNarrow g d e2m1 rm true 8 a := by
  change execCvt4 g d rm false idx sc a b s = _
  rw [execCvt4, if_neg Bool.false_ne_true]

theorem exec_cvt4_unpack (idx : Nat) (sc : Bool) :
    exec (.cvt4 g d rm true idx sc a b) s = s.unpackWide g d e2m1 rm idx sc a b := by
  change execCvt4 g d rm true idx sc a b s = _
  rw [execCvt4, if_pos rfl]

theorem cvt8_pack_result (e5 nosat : Bool) (idx : Nat) (sc : Bool) :
    VecResult (.cvt8 g d rm false e5 nosat idx sc a b) s g a.scalar (a.uses 4) d fun l =>
      (packMany 8 ((List.range 4).map fun k =>
        (fp8 e5).round rm (!nosat) false (valF ((s.me.srcAt a k).lane l)))).out :=
  width_fp8 e5 ▸ vecResult_of_packNarrow (exec_cvt8_pack e5 nosat idx sc)

theorem cvt8_unpack_result (e5 nosat : Bool) (idx : Nat) :
    VecResult (.cvt8 g d rm true e5 nosat idx false a b) s g a.scalar (a.uses 1) d fun l =>
      (fp32.round rm true false ((fp8 e5).decode (((s.me.src a).lane l).toNat / 2 ^ (8 * idx) % 2 ^ 8))).out :=
  width_fp8 e5 ▸ vecResult_of_unpackWide (exec_cvt8_unpack e5 nosat idx false)

theorem cvt8_scaled_result (e5 nosat : Bool) (idx : Nat) :
    VecResult (.cvt8 g d rm true e5 nosat idx true a b) s g (a.scalar || b.scalar) (a.uses 1 ++ b.uses 1) d fun l =>
      (scaleElement rm ((fp8 e5).decode (((s.me.src a).lane l).toNat / 2 ^ (8 * idx) % 2 ^ 8))
        ((s.me.src b).lane l).toNat).out :=
  width_fp8 e5 ▸ vecResult_of_unpackWide_scaled (exec_cvt8_unpack e5 nosat idx true)

end

/-- Settles O17: a conversion rounds the value of its operand once; what its destination packs, it computes apart. -/
theorem conversionResults : Obligations.ConversionResults :=
  fun _ _ _ _ _ b =>
    ⟨fun _ _ _ => ⟨cvtff_two_result, cvtff_packed_result, cvtff_one_result⟩, cvtfi_result,
      fun _ _ => ⟨cvtif_two_result, cvtif_one_result⟩, cvtii_result, cvt8_pack_result,
      fun idx sc => vecResult_of_packNarrow (exec_cvt4_pack idx sc),
      fun e5 nosat idx => ⟨cvt8_unpack_result (b := b) e5 nosat idx, cvt8_scaled_result e5 nosat idx⟩,
      fun idx => ⟨vecResult_of_unpackWide (exec_cvt4_unpack (b := b) idx false),
        vecResult_of_unpackWide_scaled (exec_cvt4_unpack idx true)⟩⟩

end Sys2Proof.Machine


/-! PROOFS. Special-function operations: written at once as every instruction is, or in flight; and O14, which follows (R89,
R148 to R150). -/

namespace Sys2Proof.Machine

section
variable {i : Instr} {s : State} {W : LaneMask} {g : Guard} {scalar : Bool} {us : List Use} {regs : List (Nat × Storage)}
  {flags : LaneFlags} {fl : Fin 32 → Flags} {rs : List (Nat × (Fin 32 → Word))}

/-! ### At once, or in flight (R89) -/

/-- What a special-function operation writes. -/
def Effect.ofRegs (regs : List (Nat × Storage)) (flags : LaneFlags) : Effect :=
  { Effect.nothing with regs := regs, flags := flags }

theorem State.special_at_once (h : s.me.enables ≠ 0 ∨ s.myLaunch.proof = true) :
    s.special W scalar us regs flags = s.operate W scalar us .go (regs.map Prod.fst) (Effect.ofRegs regs flags) := by
  unfold State.special
  split
  next he => rw [State.produce, if_pos (h.resolve_left (· he)), Effect.ofRegs]
  next => rfl

theorem State.special_in_flight (he : s.me.enables = 0) (hp : s.myLaunch.proof = false)
    (hr : Ready s W scalar us (regs.map Prod.fst)) :
    s.special W scalar us regs flags = .next (s.setMe (s.launched W 0 us regs (flags.of W))).advance := by
  rw [State.special, if_pos he, State.produce, if_neg (by simp [hp])]
  rw [hr.readGate, hr.destGate]
  exact State.deliverRegs_launched hp rfl

theorem State.launched_only (s : State) (W held : LaneMask) (us : List Use) (regs : List (Nat × Storage)) (fl : Flags) :
    OnlyMe s (s.setMe (s.launched W held us regs fl)).advance :=
  State.moveRun_only s _ _ (by rw [State.launched_rest])

theorem LaneFlags.of_congr (hf : ∀ l : Fin 32, flags[l.val] = fl l) : flags.of W = flagsOf W fl := by
  rw [LaneFlags.of_eq]
  simp only [hf]

theorem runs_of_operate (hi : exec i s = s.operate W scalar us .go (regs.map Prod.fst) (Effect.ofRegs regs flags))
    (hr : Ready s W scalar us (regs.map Prod.fst)) (hn : (regs.map Prod.fst).Nodup)
    (hf : ∀ l : Fin 32, flags[l.val] = fl l) (ht : NoTrap s W fl) :
    Runs i s { W := W, frees := s.frees us (regs.map Prod.fst), regs := regs.map fun r => (r.1, r.2.lane),
               flags := flagsOf W fl } := by
  obtain ⟨t, hnext, hwrites, hmoves, honly⟩ := State.operate_runs s W scalar us (regs.map Prod.fst)
    (Effect.ofRegs regs flags) hr rfl hn (by simpa only [Effect.ofRegs, hf] using ht)
  exact ⟨t, hi.trans hnext, LaneFlags.of_congr hf ▸ hwrites, hmoves, honly⟩

/-- A special-function operation whose results have these values in the lanes. -/
theorem specialResult_of_special (hi : exec i s = s.special (s.wset g) scalar us regs flags)
    (hl : (regs.map fun r => (r.1, r.2.lane)) = rs) (hn : (regs.map Prod.fst).Nodup)
    (hf : ∀ l : Fin 32, flags[l.val] = fl l) : SpecialResult i s g scalar us rs fl := by
  subst hl
  have hfst : (regs.map fun r => (r.1, r.2.lane)).map Prod.fst = regs.map Prod.fst := by simp
  unfold SpecialResult
  rw [hfst]
  refine fun hr => ⟨fun h ht => runs_of_operate (hi.trans (State.special_at_once h)) hr hn hf ht, fun he hp => ?_⟩
  have hnext := hi.trans (State.special_in_flight he hp hr)
  rw [LaneFlags.of_congr hf] at hnext
  rw [← hfst]
  exact inFlight_of_launched hnext rfl hfst (fun k _ _ l _ _ => by simp) (State.launched_only s _ _ us regs _)

end

/-! ### FP32 and FP64 results -/

section
variable {i : Instr} {s : State} {g : Guard} {scalar : Bool} {us : List Use} {d : Nat} {u : Bool} {a : Src}

theorem specialResult_of_fmap {f : Fin 32 → FOut}
    (hi : exec i s = s.special (s.wset g) scalar us [(d, (fmap u f).1)] (fmap u f).2)
    (hu : u = true → ∀ l, f l = f 0) :
    SpecialResult i s g scalar us [(d, fun l => (f l).bits)] fun l => (f l).flags :=
  specialResult_of_special hi (by simp [funext fun l => (fmap_lane u f hu l).1]) (by simp)
    fun l => (fmap_lane u f hu l).2

theorem specialResult_of_dmap {f : Fin 32 → DOut}
    (hi : exec i s = s.special (s.wset g) scalar us [(d, (dmap u f).1), (d + 1, (dmap u f).2.1)] (dmap u f).2.2)
    (hu : u = true → ∀ l, f l = f 0) :
    SpecialResult i s g scalar us
      [(d, fun l => (f l).bits.truncate 32), (d + 1, fun l => ((f l).bits >>> 32).truncate 32)] fun l => (f l).flags :=
  specialResult_of_special hi
    (by rw [← funext fun l => (dmap_lane u f hu l).1, ← funext fun l => (dmap_lane u f hu l).2.1]; rfl) (by simp)
    fun l => (dmap_lane u f hu l).2.2

end

theorem special1_of_sfu1 {j : Guard → Nat → Src → Instr} {f : Word → FOut}
    (hj : ∀ s g d a, exec (j g d a) s = s.sfu1 g d a f) : Special1 j f :=
  fun s g d a => specialResult_of_fmap (hj s g d a) fun h l => by rw [Storage.lane_of_isU _ h l]

theorem fdiv_result (s : State) (g : Guard) (d : Nat) (rm : Rm) (a b : Src) :
    let f (l : Fin 32) : FOut := outF rm (Val.div (valF ((s.me.src a).lane l)) (valF ((s.me.src b).lane l)))
    SpecialResult (.fdiv g d rm a b) s g (a.scalar || b.scalar) (a.uses 1 ++ b.uses 1) [(d, fun l => (f l).bits)]
      fun l => (f l).flags :=
  specialResult_of_fmap (u := (s.me.src a).isU && (s.me.src b).isU) rfl fun h l => by
    obtain ⟨ha, hb⟩ := Bool.and_eq_true_iff.mp h
    rw [Storage.lane_of_isU _ ha l, Storage.lane_of_isU _ hb l]

theorem ddiv_result (s : State) (g : Guard) (d : Nat) (rm : Rm) (a b : VSrc) :
    let f (l : Fin 32) : DOut := outD rm (Val.div (valD (s.me.pair a l)) (valD (s.me.pair b l)))
    SpecialResult (.ddiv g d rm a b) s g false (a.uses 2 ++ b.uses 2)
      [(d, fun l => (f l).bits.truncate 32), (d + 1, fun l => ((f l).bits >>> 32).truncate 32)] fun l => (f l).flags :=
  specialResult_of_dmap (u := s.me.pairU a && s.me.pairU b) rfl fun h l => by
    obtain ⟨ha, hb⟩ := Bool.and_eq_true_iff.mp h
    rw [Warp.pair_of_pairU l ha, Warp.pair_of_pairU l hb]

theorem dsqrt_result (s : State) (g : Guard) (d : Nat) (rm : Rm) (a : VSrc) :
    let f (l : Fin 32) : DOut := outD rm (Val.sqrt (valD (s.me.pair a l)))
    SpecialResult (.dsqrt g d rm a) s g false (a.uses 2)
      [(d, fun l => (f l).bits.truncate 32), (d + 1, fun l => ((f l).bits >>> 32).truncate 32)] fun l => (f l).flags :=
  specialResult_of_dmap (u := s.me.pairU a) rfl fun h l => by rw [Warp.pair_of_pairU l h]

/-- Settles O14: each special function computes its result in every lane, which is written at once where an enable bit is
set or a log is kept, and is in flight otherwise. -/
theorem specialFunctionResults : Obligations.SpecialFunctionResults :=
  ⟨fdiv_result, fun _ => special1_of_sfu1 fun _ _ _ _ => rfl, special1_of_sfu1 fun _ _ _ _ => rfl,
    special1_of_sfu1 fun _ _ _ _ => rfl, special1_of_sfu1 fun _ _ _ _ => rfl, special1_of_sfu1 fun _ _ _ _ => rfl,
    special1_of_sfu1 fun _ _ _ _ => rfl, special1_of_sfu1 fun _ _ _ _ => rfl, special1_of_sfu1 fun _ _ _ _ => rfl,
    ddiv_result, dsqrt_result⟩

end Sys2Proof.Machine

/-! PROOFS. Reductions: the tree level by level, scans and segments one thread at a time in ascending lane order, and whom a
step's flags go to; and O16, which follows (R88, R168 to R170). -/

namespace Sys2Proof.Machine

/-! ### Folds that one element alone changes -/

section
variable {α β : Type} {g : β → α → β} {a : α} {ls : List α}

theorem foldl_of_not_mem (hg : ∀ b k, k ≠ a → g b k = b) (h : a ∉ ls) (b : β) : ls.foldl g b = b := by
  induction ls with
  | nil => rfl
  | cons k ks ih =>
    simp only [List.mem_cons, not_or] at h
    rw [List.foldl_cons, hg b k (Ne.symm h.1), ih h.2]

theorem foldl_of_mem (hg : ∀ b k, k ≠ a → g b k = b) (hn : ls.Nodup) (h : a ∈ ls) (b : β) : ls.foldl g b = g b a := by
  obtain ⟨before, after, rfl⟩ := List.append_of_mem h
  have hparts := List.nodup_middle.mp hn
  simp only [List.nodup_cons, List.mem_append, not_or] at hparts
  rw [List.foldl_append, List.foldl_cons, foldl_of_not_mem hg hparts.1.1, foldl_of_not_mem hg hparts.1.2]

end

/-! ### Values and signals by lane -/

/-- The flags of a lane once a signal has reached it or passed it by. -/
def signalTo (l : Fin 32) (acc : Flags) (p : Nat × Flags) : Flags := if p.1 = l.val then acc ||| p.2 else acc

theorem signalsOf_get (fs : List (Nat × Flags)) (l : Fin 32) : (signalsOf fs)[l.val] = fs.foldl (signalTo l) 0 := by
  simp only [signalsOf, Vector.getElem_ofFn]
  rfl

theorem lanesOf_get (vs : List (Nat × Word × Flags)) (l : Fin 32) :
    (lanesOf vs)[l.val] = ((vs.find? fun p => p.1 == l.val).map fun p => p.2.1).getD 0 := by
  rw [lanesOf, Lanes.of_get]

section
variable (ls : List (Fin 32)) (v : Fin 32 → Word) (fl : Fin 32 → Flags) (l : Fin 32)

theorem lanesOf_map : (lanesOf (ls.map fun k => (k.val, v k, fl k)))[l.val] = if l ∈ ls then v l else 0 := by
  rw [lanesOf_get]
  induction ls with
  | nil => simp
  | cons k ks ih =>
    by_cases hk : k = l
    · simp [hk]
    · have hv : (k.val == l.val) = false := by simpa [Fin.ext_iff] using hk
      rw [List.map_cons, List.find?_cons_of_neg (by simp [hv]), ih]
      simp [Ne.symm hk]

theorem signalsOf_map (hn : ls.Nodup) : (signalsOf (ls.map fun k => (k.val, fl k)))[l.val] = if l ∈ ls then fl l else 0 := by
  have hpass : ∀ (acc : Flags) (k : Fin 32), k ≠ l → signalTo l acc (k.val, fl k) = acc :=
    fun acc k hk => if_neg fun e => hk (Fin.ext e)
  rw [signalsOf_get, List.foldl_map]
  split
  next hl =>
    rw [foldl_of_mem hpass hn hl, signalTo, if_pos rfl]
    exact BitVec.zero_or
  next hl => exact foldl_of_not_mem hpass hl 0

end

theorem LaneMask.lanes_sorted (W : LaneMask) : (LaneMask.lanes W).Pairwise (· < ·) :=
  (List.pairwise_lt_finRange 32).filter _

/-! ### One thread at a time (R169) -/

section
variable (rm : Rm) (op : RedOp) (x : Fin 32 → Word)

/-- What threads combine to, one at a time, from a value. -/
def combined (acc : Word) (ls : List (Fin 32)) : Word := ls.foldl (fun acc k => (redOp rm op acc (x k)).bits) acc

/-- What the threads before lane `l` combine to. -/
def combinedBefore (acc : Word) (ls : List (Fin 32)) (l : Fin 32) : Word :=
  combined rm op x acc (ls.filter fun k => decide (k < l))

/-- In ascending order each thread finds what the threads before it combine to. -/
theorem scanLanes_eq (excl : Bool) (acc : Word) {ls : List (Fin 32)} (hs : ls.Pairwise (· < ·)) :
    scanLanes rm op excl x acc ls = ls.map fun l =>
      (l.val, if excl then combinedBefore rm op x acc ls l else (redOp rm op (combinedBefore rm op x acc ls l) (x l)).bits,
        (redOp rm op (combinedBefore rm op x acc ls l) (x l)).flags) := by
  induction ls generalizing acc with
  | nil => rfl
  | cons l ls ih =>
    obtain ⟨hl, hs⟩ := List.pairwise_cons.mp hs
    have hhead : combinedBefore rm op x acc (l :: ls) l = acc := by
      have : (l :: ls).filter (fun k => decide (k < l)) = [] := by
        simpa using fun k hk => (hl k hk).le
      rw [combinedBefore, this]
      rfl
    have htail : ∀ m ∈ ls, combinedBefore rm op x acc (l :: ls) m =
        combinedBefore rm op x (redOp rm op acc (x l)).bits ls m := fun m hm => by
      rw [combinedBefore, List.filter_cons_of_pos (by simpa using hl m hm)]
      rfl
    rw [scanLanes, ih _ hs, List.map_cons, hhead]
    refine congrArg (List.cons _) (List.map_congr_left fun m hm => ?_)
    rw [htail m hm]

/-- The last thread finds what all of them combine to. -/
theorem scanLanes_last (acc : Word) (l : Fin 32) (ls : List (Fin 32)) :
    (scanLanes rm op false x acc (l :: ls)).getLast?.map (fun p => p.2.1) = some (combined rm op x acc (l :: ls)) := by
  induction ls generalizing acc l with
  | nil => rfl
  | cons k ks ih =>
    have h := ih (redOp rm op acc (x l)).bits k
    rw [scanLanes, scanLanes, List.getLast?_cons_cons, ← scanLanes]
    exact h

end

/-! ### Segments (R170) -/

/-- Do two threads belong to one segment: does no head of `hs` lie between? -/
def sameSegment (hs : List (Fin 32)) (k l : Fin 32) : Bool :=
  hs.all fun m => !(decide (min k l < m) && decide (m ≤ max k l))

theorem segmentOf_eq (W heads : LaneMask) (l : Fin 32) :
    segmentOf W heads l = (LaneMask.lanes W).filter fun k => sameSegment (LaneMask.lanes (W &&& heads)) k l := rfl

theorem LaneMask.lanes_and (W heads : LaneMask) :
    LaneMask.lanes (W &&& heads) = (LaneMask.lanes W).filter fun l => heads.getLsbD l.val := by
  rw [LaneMask.lanes, LaneMask.lanes, List.filter_filter]
  exact List.filter_congr fun l _ => by rw [BitVec.getLsbD_and, Bool.and_comm]

theorem sameSegment_iff {hs : List (Fin 32)} {k l : Fin 32} :
    sameSegment hs k l = true ↔ ∀ m ∈ hs, m ≤ min k l ∨ max k l < m := by
  simp only [sameSegment, List.all_eq_true, Bool.not_eq_true', Bool.and_eq_false_iff, decide_eq_false_iff_not, not_lt, not_le]

theorem sameSegment_comm (hs : List (Fin 32)) (k l : Fin 32) : sameSegment hs k l = sameSegment hs l k := by
  rw [sameSegment, sameSegment, min_comm, max_comm]

theorem sameSegment_self (hs : List (Fin 32)) (l : Fin 32) : sameSegment hs l l = true :=
  sameSegment_iff.mpr fun m _ => by
    rw [min_self, max_self]
    exact le_or_gt m l

section
variable (p : LaneMask)

/-- The heads among some threads. -/
def headsIn (ls : List (Fin 32)) : List (Fin 32) := ls.filter fun l => p.getLsbD l.val

/-- A thread below both of two others does not part them. -/
theorem sameSegment_cons {l k m : Fin 32} (ls : List (Fin 32)) (hk : l ≤ k) (hm : l ≤ m) :
    sameSegment (headsIn p (l :: ls)) k m = sameSegment (headsIn p ls) k m := by
  rw [headsIn, List.filter_cons]
  split
  next =>
    rw [Bool.eq_iff_iff, sameSegment_iff, sameSegment_iff, List.forall_mem_cons]
    exact and_iff_right (.inl (le_min hk hm))
  next => rfl

/-- A thread belongs to the segment of the one just below the others when it belongs to the next one's, and that is no
head. -/
theorem sameSegment_next {l f k : Fin 32} {ls : List (Fin 32)} (hs : (l :: f :: ls).Pairwise (· < ·)) (hk : k ∈ f :: ls) :
    sameSegment (headsIn p (f :: ls)) k l = (!p.getLsbD f.val && sameSegment (headsIn p (f :: ls)) k f) := by
  obtain ⟨hl, hs⟩ := List.pairwise_cons.mp hs
  have hf : ∀ m ∈ f :: ls, f ≤ m := List.forall_mem_cons.mpr ⟨le_rfl, fun m hm => (List.pairwise_cons.mp hs).1 m hm |>.le⟩
  rw [Bool.eq_iff_iff, Bool.and_eq_true, Bool.not_eq_true', sameSegment_iff, sameSegment_iff, min_eq_right (hl k hk).le,
    max_eq_left (hl k hk).le, min_eq_right (hf k hk), max_eq_left (hf k hk)]
  simp only [headsIn, List.mem_filter, and_imp]
  constructor
  · intro h
    have habove : ∀ m ∈ f :: ls, p.getLsbD m.val = true → k < m := fun m hm hp => (h m hm hp).resolve_left (hl m hm).not_ge
    refine ⟨?_, fun m hm hp => .inr (habove m hm hp)⟩
    rw [← Bool.not_eq_true]
    exact fun hp => (habove f (by simp) hp).not_ge (hf k hk)
  · rintro ⟨hnf, h⟩ m hm hp
    refine (h m hm hp).imp_left fun hmf => ?_
    rw [le_antisymm hmf (hf m hm), hnf] at hp
    cases hp

/-- The first segment begins with the first thread. -/
theorem segmentsOf_cons (l : Fin 32) (ls : List (Fin 32)) : ∃ u ts, segmentsOf p (l :: ls) = (l :: u) :: ts := by
  rw [segmentsOf]
  split
  next => exact ⟨_, _, rfl⟩
  next =>
    split
    next => exact ⟨_, _, rfl⟩
    next => exact ⟨_, _, rfl⟩

/-- A thread before another opens a segment where that one is a head, and else joins its segment. -/
theorem segmentsOf_cons_cons {l f : Fin 32} {ls u : List (Fin 32)} {ts : List (List (Fin 32))}
    (h : segmentsOf p (f :: ls) = (f :: u) :: ts) :
    segmentsOf p (l :: f :: ls) = if p.getLsbD f.val then [l] :: (f :: u) :: ts else (l :: f :: u) :: ts := by
  rw [segmentsOf, h]
  rfl

theorem flatten_segmentsOf (ls : List (Fin 32)) : (segmentsOf p ls).flatten = ls := by
  induction ls with
  | nil => rfl
  | cons l ls ih =>
    rcases ls with _ | ⟨f, ls⟩
    · rfl
    · obtain ⟨u, ts, hu⟩ := segmentsOf_cons p f ls
      rw [hu] at ih
      rw [segmentsOf_cons_cons p hu]
      split <;> simpa using ih

theorem segmentsOf_ne_nil (ls : List (Fin 32)) : ∀ t ∈ segmentsOf p ls, t ≠ [] := by
  induction ls with
  | nil => simp [segmentsOf]
  | cons l ls ih =>
    rcases ls with _ | ⟨f, ls⟩
    · simp [segmentsOf]
    · obtain ⟨u, ts, hu⟩ := segmentsOf_cons p f ls
      rw [hu, List.forall_mem_cons] at ih
      rw [segmentsOf_cons_cons p hu]
      split <;> simpa using ih.2

/-- The threads of the segment of `k`, when a thread comes before the others: that one if it belongs there, and those of
the others. -/
theorem filter_sameSegment_cons {l k : Fin 32} {ls : List (Fin 32)} (hs : (l :: ls).Pairwise (· < ·)) (hk : k ∈ l :: ls) :
    (l :: ls).filter (fun m => sameSegment (headsIn p (l :: ls)) m k) =
      (if sameSegment (headsIn p ls) k l then [l] else []) ++ ls.filter fun m => sameSegment (headsIn p ls) m k := by
  have hall : ∀ m ∈ l :: ls, l ≤ m :=
    List.forall_mem_cons.mpr ⟨le_rfl, fun m hm => ((List.pairwise_cons.mp hs).1 m hm).le⟩
  rw [List.filter_congr fun m hm => sameSegment_cons p ls (hall m hm) (hall k hk), List.filter_cons, sameSegment_comm _ l k]
  split <;> rfl

theorem mem_of_mem_segment {ls t : List (Fin 32)} {k : Fin 32} (ht : t ∈ segmentsOf p ls) (hk : k ∈ t) : k ∈ ls := by
  rw [← flatten_segmentsOf p ls]
  exact List.mem_flatten_of_mem ht hk

/-- No thread of a later segment is in the first. -/
theorem not_mem_first_segment {ls t t' : List (Fin 32)} {ts : List (List (Fin 32))} {k : Fin 32}
    (hs : ls.Pairwise (· < ·)) (h : segmentsOf p ls = t :: ts) (ht' : t' ∈ ts) (hk : k ∈ t') : k ∉ t := by
  have hn : (t :: ts).flatten.Nodup := by
    rw [← h, flatten_segmentsOf]
    exact hs.imp ne_of_lt
  exact fun hkt => (List.pairwise_cons.mp (List.nodup_flatten.mp hn).2).1 t' ht' hkt hk

/-- A segment holds the threads that no head parts from any one of its threads. -/
theorem filter_sameSegment {ls t : List (Fin 32)} {k : Fin 32} (hs : ls.Pairwise (· < ·)) (ht : t ∈ segmentsOf p ls)
    (hk : k ∈ t) : ls.filter (fun m => sameSegment (headsIn p ls) m k) = t := by
  induction ls generalizing t k with
  | nil => cases ht
  | cons l ls ih =>
    rw [filter_sameSegment_cons p hs (mem_of_mem_segment p ht hk)]
    rcases ls with _ | ⟨f, ls⟩
    · obtain rfl := List.mem_singleton.mp ht
      rw [List.mem_singleton.mp hk, sameSegment_self]
      rfl
    · have hs' := (List.pairwise_cons.mp hs).2
      obtain ⟨u, ts, hu⟩ := segmentsOf_cons p f ls
      have hin {t : List (Fin 32)} (ht : t ∈ (f :: u) :: ts) {k : Fin 32} (hk : k ∈ t) : k ∈ f :: ls :=
        mem_of_mem_segment p (hu ▸ ht) hk
      rw [segmentsOf_cons_cons p hu] at ht
      rw [hu] at ih
      cases hp : p.getLsbD f.val with
      | true =>
        rw [hp, if_pos rfl] at ht
        have hopen {m : Fin 32} (hm : m ∈ f :: ls) : sameSegment (headsIn p (f :: ls)) m l = false := by
          rw [sameSegment_next p hs hm, hp]
          rfl
        rcases List.mem_cons.mp ht with rfl | ht
        · rw [List.mem_singleton.mp hk, sameSegment_self, List.filter_eq_nil_iff.mpr fun m hm => by simp [hopen hm]]
          rfl
        · rw [hopen (hin ht hk), ih hs' ht hk]
          rfl
      | false =>
        rw [hp, if_neg Bool.false_ne_true] at ht
        have hjoin {m : Fin 32} (hm : m ∈ f :: ls) :
            sameSegment (headsIn p (f :: ls)) m l = sameSegment (headsIn p (f :: ls)) m f := by
          rw [sameSegment_next p hs hm, hp]
          rfl
        have hfirst := ih hs' (t := f :: u) (k := f) (by simp) (by simp)
        have hmem {m : Fin 32} (hm : m ∈ f :: ls) : sameSegment (headsIn p (f :: ls)) m f = true ↔ m ∈ f :: u := by
          rw [← hfirst, List.mem_filter, and_iff_right hm]
        rcases List.mem_cons.mp ht with rfl | ht
        · rcases List.mem_cons.mp hk with rfl | hk
          · rw [sameSegment_self, List.filter_congr fun m hm => hjoin hm, hfirst]
            rfl
          · have hkf := hin (by simp) hk
            rw [hjoin hkf, if_pos ((hmem hkf).mpr hk), ih hs' (by simp) hk]
            rfl
        · have hkf := hin (List.mem_cons_of_mem _ ht) hk
          rw [hjoin hkf, if_neg fun h => not_mem_first_segment p hs' hu ht hk ((hmem hkf).mp h),
            ih hs' (List.mem_cons_of_mem _ ht) hk]
          rfl

end

/-! ### SCAN and SEGRED (R169, R170) -/

section
variable {i : Instr} {s : State} {g : Guard} {scalar : Bool} {us : List Use} {d : Nat}

/-- An instruction that delivers a value and flags to each thread of W, and 0 elsewhere. -/
theorem vecResult_of_lanes {v : Fin 32 → Word} {fl : Fin 32 → Flags} {vs : List (Nat × Word × Flags)}
    (hi : exec i s = s.compute g scalar us
      ((Effect.vec d (.g (lanesOf vs))).withFlags (signalsOf (vs.map fun p => (p.1, p.2.2)))))
    (hv : vs = (LaneMask.lanes (s.wset g)).map fun k => (k.val, v k, fl k)) :
    VecResult i s g scalar us d fun l => if (s.wset g).getLsbD l.val then ⟨v l, fl l⟩ else plain 0 := by
  subst hv
  refine vecResult_of_compute i s g scalar us d _ _ false _ hi (fun l => ?_) fun l => ?_
  · rw [Storage.lane_g, lanesOf_map]
    simp only [LaneMask.mem_lanes]
    split <;> rfl
  · rw [List.map_map]
    refine (signalsOf_map _ fl l ((LaneMask.lanes_sorted _).imp ne_of_lt)).trans ?_
    simp only [LaneMask.mem_lanes]
    split <;> rfl

end

section
variable (rm : Rm) (op : RedOp) (x : Fin 32 → Word)

/-- What SEGRED delivers to the threads of a segment. -/
def segmentValues (t : List (Fin 32)) : List (Nat × Word × Flags) :=
  let rs := scanLanes rm op false x (redIdentity op) t
  rs.map fun p => (p.1, (rs.getLast?.map fun p => p.2.1).getD 0, p.2.2)

theorem segmentValues_eq {t : List (Fin 32)} (hs : t.Pairwise (· < ·)) (hne : t ≠ []) :
    segmentValues rm op x t = t.map fun k =>
      (k.val, combined rm op x (redIdentity op) t, (redOp rm op (scanBefore rm op x t k) (x k)).flags) := by
  obtain ⟨l, ls, rfl⟩ := List.exists_cons_of_ne_nil hne
  rw [segmentValues, scanLanes_last, scanLanes_eq rm op x false _ hs, List.map_map]
  rfl

/-- Every thread of W gets the value of its own segment. -/
theorem flatMap_segmentValues (W heads : LaneMask) :
    (segmentsOf heads (LaneMask.lanes W)).flatMap (segmentValues rm op x) = (LaneMask.lanes W).map fun k =>
      (k.val, combined rm op x (redIdentity op) (segmentOf W heads k),
        (redOp rm op (scanBefore rm op x (segmentOf W heads k) k) (x k)).flags) := by
  have hs := LaneMask.lanes_sorted W
  have hflat := flatten_segmentsOf heads (LaneMask.lanes W)
  conv_rhs => rw [← hflat]
  rw [List.map_flatten, List.flatMap_def]
  refine congrArg List.flatten (List.map_congr_left fun t ht => ?_)
  have hsorted : t.Pairwise (· < ·) := hs.sublist (hflat ▸ List.sublist_flatten_of_mem ht)
  rw [segmentValues_eq rm op x hsorted (segmentsOf_ne_nil heads _ t ht)]
  refine List.map_congr_left fun k hk => ?_
  rw [segmentOf_eq, LaneMask.lanes_and, ← headsIn, filter_sameSegment heads hs ht hk]

end

theorem scan_result (s : State) (g : Guard) (d : Nat) (rm : Rm) (op : RedOp) (excl : Bool) (a : Src) :
    VecResult (.scan g d rm op excl a) s g a.scalar (a.uses 1) d fun l =>
      let acc := scanBefore rm op (s.me.liveLane a) (LaneMask.lanes (s.wset g)) l
      let r := redOp rm op acc (s.me.liveLane a l)
      if (s.wset g).getLsbD l.val then ⟨if excl then acc else r.bits, r.flags⟩ else plain 0 :=
  vecResult_of_lanes rfl (scanLanes_eq rm op _ excl _ (LaneMask.lanes_sorted _))

theorem segred_result (s : State) (g : Guard) (d : Nat) (rm : Rm) (op : RedOp) (a : Src) (qb : Nat) :
    VecResult (.segred g d rm op a qb) s g a.scalar (a.uses 1) d fun l =>
      let seg := segmentOf (s.wset g) (s.me.pred qb) l
      if (s.wset g).getLsbD l.val then
        ⟨combined rm op (s.me.liveLane a) (redIdentity op) seg,
          (redOp rm op (scanBefore rm op (s.me.liveLane a) seg l) (s.me.liveLane a l)).flags⟩
      else plain 0 :=
  vecResult_of_lanes rfl (flatMap_segmentValues rm op (s.me.liveLane a) (s.wset g) (s.me.pred qb))

/-! ### The tree (R168) -/

section
variable (rm : Rm) (op : RedOp)

/-- Two neighbours of a level combined. -/
def RedNode.combine (p q : RedNode) : RedNode := ⟨(redOp rm op p.x q.x).bits, p.low.or q.low⟩

/-- The signals of a level of `n` steps over nodes `N`. -/
def levelSignals (N : Nat → RedNode) (n : Nat) : List (Nat × Flags) :=
  (List.range n).flatMap fun i =>
    ((N (2 * i)).low.or (N (2 * i + 1)).low).toList.map fun l => (l, (redOp rm op (N (2 * i)).x (N (2 * i + 1)).x).flags)

theorem redLevel_cons (p q : RedNode) (ns : List RedNode) :
    redLevel rm op (p :: q :: ns) = (RedNode.combine rm op p q :: (redLevel rm op ns).1,
      ((p.low.or q.low).toList.map fun l => (l, (redOp rm op p.x q.x).flags)) ++ (redLevel rm op ns).2) := by
  rw [redLevel, RedNode.combine]
  cases p.low.or q.low <;> rfl

theorem redLevel_range (N : Nat → RedNode) (n : Nat) :
    redLevel rm op ((List.range (n * 2)).map N) =
      ((List.range n).map fun i => RedNode.combine rm op (N (2 * i)) (N (2 * i + 1)), levelSignals rm op N n) := by
  induction n generalizing N with
  | zero => rfl
  | succ n ih =>
    have hN : (List.range ((n + 1) * 2)).map N = N 0 :: N 1 :: (List.range (n * 2)).map fun i => N (i + 2) := by
      rw [Nat.succ_mul, List.range_succ_eq_map, List.range_succ_eq_map]
      simp only [List.map_cons, List.map_map]
      rfl
    rw [hN, redLevel_cons, ih, levelSignals, levelSignals, List.range_succ_eq_map]
    simp only [List.map_cons, List.map_map, List.flatMap_cons, List.flatMap_map]
    rfl

section
variable {N : Nat → Nat → RedNode} (hN : ∀ j i, N (j + 1) i = RedNode.combine rm op (N j (2 * i)) (N j (2 * i + 1)))
include hN

theorem redTree_succ (k j m : Nat) :
    redTree rm op (k + 1) ((List.range (m * 2 ^ (k + 1))).map (N j)) =
      ((redTree rm op k ((List.range (m * 2 ^ k)).map (N (j + 1)))).1,
        levelSignals rm op (N j) (m * 2 ^ k) ++ (redTree rm op k ((List.range (m * 2 ^ k)).map (N (j + 1)))).2) := by
  rw [redTree, pow_succ, ← mul_assoc, redLevel_range, ← funext (hN j)]

theorem redTree_nodes (k j m : Nat) :
    (redTree rm op k ((List.range (m * 2 ^ k)).map (N j))).1 = (List.range m).map (N (j + k)) := by
  induction k generalizing j with
  | zero => rw [redTree, pow_zero, mul_one, add_zero]
  | succ k ih => rw [redTree_succ rm op hN, ih, Nat.add_right_comm, add_assoc]

theorem redTree_signals {l : Fin 32} {step : Nat → Flags → Flags} {k j m : Nat}
    (hstep : ∀ p n acc, j ≤ p → n * 2 ^ (p + 1) = m * 2 ^ (j + k) →
      (levelSignals rm op (N p) n).foldl (signalTo l) acc = step p acc) (acc : Flags) :
    (redTree rm op k ((List.range (m * 2 ^ k)).map (N j))).2.foldl (signalTo l) acc =
      (List.range k).foldl (fun acc p => step (j + p) acc) acc := by
  induction k generalizing j acc with
  | zero => rfl
  | succ k ih =>
    rw [redTree_succ rm op hN, List.foldl_append, hstep j _ acc le_rfl (by ring), List.range_succ_eq_map, List.foldl_cons,
      List.foldl_map, ih fun p n acc hp hn => hstep p n acc (by omega) (by rw [hn]; ring)]
    simp only [Nat.succ_eq_add_one, add_zero, Nat.add_right_comm j 1, add_assoc]

end

end

/-! ### Whom the flags of a step go to (R88) -/

section
variable (W : LaneMask)

/-- The lowest thread of W under node `i` of level `j`. -/
def lowLane (j i : Nat) : Option Nat := ((LaneMask.lanes W).find? fun m => m.val / 2 ^ j == i).map Fin.val

theorem lowLane_eq_some {j i : Nat} {l : Fin 32} :
    lowLane W j i = some l.val ↔ (LaneMask.lanes W).find? (fun m => m.val / 2 ^ j == i) = some l :=
  (Option.map_injective Fin.val_injective).eq_iff (b := some l)

/-- A thread lies under one node of a level. -/
theorem eq_div_of_lowLane {j i : Nat} {l : Fin 32} (h : lowLane W j i = some l.val) : i = l.val / 2 ^ j :=
  (beq_iff_eq.mp (List.find?_some ((lowLane_eq_some W).mp h) :)).symm

theorem lowLane_zero (l : Fin 32) : lowLane W 0 l.val = if W.getLsbD l.val then some l.val else none := by
  have hleaf : (fun m : Fin 32 => m.val / 2 ^ 0 == l.val) = fun m => m == l := by
    funext m
    rw [pow_zero, Nat.div_one, Bool.eq_iff_iff, beq_iff_eq, beq_iff_eq, Fin.ext_iff]
  rw [lowLane, hleaf]
  cases hf : (LaneMask.lanes W).find? (fun m => m == l) with
  | none => exact (if_neg fun hl => List.find?_eq_none.mp hf l (LaneMask.mem_lanes.mpr hl) (beq_self_eq_true l)).symm
  | some m =>
    obtain rfl : m = l := eq_of_beq (List.find?_some hf :)
    exact (if_pos (LaneMask.mem_lanes.mp (List.mem_of_find?_eq_some hf))).symm

/-- Of the elements that meet one of two conditions the first is the first of the earlier kind. -/
theorem find?_or {α : Type} {q r : α → Bool} {ls : List α} (h : ls.Pairwise fun a b => r a = true → q b = false) :
    ls.find? (fun a => q a || r a) = (ls.find? q).or (ls.find? r) := by
  induction ls with
  | nil => rfl
  | cons a ls ih =>
    obtain ⟨ha, hls⟩ := List.pairwise_cons.mp h
    cases hq : q a with
    | true => simp [hq]
    | false =>
      cases hr : r a with
      | true =>
        have hnone : ls.find? q = none := List.find?_eq_none.mpr fun b hb => by simp [ha b hb hr]
        simp [hq, hr, hnone]
      | false => simp [hq, hr, ih hls]

theorem lowLane_succ (j i : Nat) : lowLane W (j + 1) i = (lowLane W j (2 * i)).or (lowLane W j (2 * i + 1)) := by
  have hunder : (fun m : Fin 32 => m.val / 2 ^ (j + 1) == i) =
      fun m => m.val / 2 ^ j == 2 * i || m.val / 2 ^ j == 2 * i + 1 := by
    funext m
    rw [pow_succ, ← Nat.div_div_eq_div_mul, Bool.eq_iff_iff]
    simp only [Bool.or_eq_true, beq_iff_eq]
    omega
  have hsorted : (LaneMask.lanes W).Pairwise fun a b : Fin 32 =>
      (a.val / 2 ^ j == 2 * i + 1) = true → (b.val / 2 ^ j == 2 * i) = false :=
    (LaneMask.lanes_sorted W).imp fun {a b} hab ha => by
      have := Nat.div_le_div_right (c := 2 ^ j) (Fin.le_def.mp hab.le)
      simp only [beq_iff_eq, beq_eq_false_iff_ne] at ha ⊢
      omega
  rw [lowLane, hunder, find?_or hsorted, Option.map_or]
  rfl

end

section
variable (rm : Rm) (op : RedOp) (W : LaneMask) (x : Fin 32 → Word)

/-- The value of a node of the tree over the threads of W, every other leaf the identity. -/
def redValue (j i : Nat) : Word :=
  treeNode (fun x y => (redOp rm op x y).bits) (fun i => if W.getLsbD i then x (Fin.ofNat 32 i) else redIdentity op) j i

/-- A node of the tree over the threads of W. -/
def redNode (j i : Nat) : RedNode := ⟨redValue rm op W x j i, lowLane W j i⟩

/-- The flags of the step that makes a node. -/
def redFlags (j i : Nat) : Flags := (redOp rm op (redValue rm op W x j (2 * i)) (redValue rm op W x j (2 * i + 1))).flags

theorem redNode_succ (j i : Nat) : redNode rm op W x (j + 1) i =
    RedNode.combine rm op (redNode rm op W x j (2 * i)) (redNode rm op W x j (2 * i + 1)) := by
  rw [redNode, lowLane_succ]
  rfl

theorem leaves_eq :
    ((List.finRange 32).map fun l : Fin 32 =>
      if W.getLsbD l.val then (⟨x l, some l.val⟩ : RedNode) else ⟨redIdentity op, none⟩) =
      (List.range 32).map (redNode rm op W x 0) := by
  rw [← List.map_coe_finRange_eq_range, List.map_map]
  refine List.map_congr_left fun l _ => ?_
  rw [Function.comp_apply, redNode, lowLane_zero, redValue, treeNode]
  split <;> simp

/-- A level's flags reach the lowest thread of W under the node of its step. -/
theorem foldl_levelSignals {j n : Nat} (l : Fin 32) (acc : Flags) (h : l.val / 2 ^ (j + 1) < n) :
    (levelSignals rm op (redNode rm op W x j) n).foldl (signalTo l) acc =
      if lowLane W (j + 1) (l.val / 2 ^ (j + 1)) = some l.val then acc ||| redFlags rm op W x j (l.val / 2 ^ (j + 1))
      else acc := by
  have hstep (acc : Flags) (i : Nat) :
      (((redNode rm op W x j (2 * i)).low.or (redNode rm op W x j (2 * i + 1)).low).toList.map fun k =>
        (k, (redOp rm op (redNode rm op W x j (2 * i)).x (redNode rm op W x j (2 * i + 1)).x).flags)).foldl (signalTo l) acc =
      if lowLane W (j + 1) i = some l.val then acc ||| redFlags rm op W x j i else acc := by
    change ((((lowLane W j (2 * i)).or (lowLane W j (2 * i + 1))).toList).map fun k =>
      (k, redFlags rm op W x j i)).foldl (signalTo l) acc = _
    rw [← lowLane_succ]
    cases lowLane W (j + 1) i with
    | none => rfl
    | some k => simp [signalTo]
  simp only [levelSignals, List.foldl_flatMap, hstep]
  exact foldl_of_mem (fun b i hi => if_neg fun e => hi (eq_div_of_lowLane W e)) List.nodup_range (List.mem_range.mpr h) acc

end

section
variable (s : State) (g : Guard) (d : Nat) (rm : Rm) (op : RedOp) (k : Nat) (a : Src)

/-- The tree of REDUX: its nodes of level `k`, and its signals. -/
def State.reduxTree : List RedNode × List (Nat × Flags) :=
  redTree rm op k ((List.range 32).map (redNode rm op (s.wset g) (s.me.liveLane a) 0))

/-- What REDUX delivers to a lane. -/
def State.reduxAt (l : Fin 32) : Word := (((s.reduxTree g rm op k a).1[l.val / 2 ^ k]?).map RedNode.x).getD 0

theorem exec_redux : exec (.redux g d rm op k a) s = s.compute g a.scalar (a.uses 1)
    ((Effect.vec d (if k = 5 then .u (s.reduxAt g rm op k a 0) else .g (Lanes.of (s.reduxAt g rm op k a)))).withFlags
      (signalsOf (s.reduxTree g rm op k a).2)) := by
  unfold State.reduxAt State.reduxTree
  rw [← leaves_eq]
  rfl

variable {k} (hk : k ≤ 5)
include hk

theorem two_pow_five_sub_mul : 2 ^ (5 - k) * 2 ^ k = 32 := by
  rw [← pow_add, Nat.sub_add_cancel hk]
  rfl

theorem State.reduxTree_eq : s.reduxTree g rm op k a =
    redTree rm op k ((List.range (2 ^ (5 - k) * 2 ^ k)).map (redNode rm op (s.wset g) (s.me.liveLane a) 0)) := by
  rw [two_pow_five_sub_mul hk, State.reduxTree]

theorem State.reduxAt_eq (l : Fin 32) :
    s.reduxAt g rm op k a l = redValue rm op (s.wset g) (s.me.liveLane a) k (l.val / 2 ^ k) := by
  have hl : l.val / 2 ^ k < 2 ^ (5 - k) := by
    rw [Nat.div_lt_iff_lt_mul (Nat.two_pow_pos k), two_pow_five_sub_mul hk]
    exact l.isLt
  rw [State.reduxAt, State.reduxTree_eq s g rm op a hk, redTree_nodes rm op (redNode_succ rm op _ _), List.getElem?_map,
    List.getElem?_range hl, zero_add]
  rfl

theorem State.reduxTree_signals (l : Fin 32) :
    (signalsOf (s.reduxTree g rm op k a).2)[l.val] = (List.range k).foldl (fun acc j =>
      if (LaneMask.lanes (s.wset g)).find? (fun m => m.val / 2 ^ (j + 1) == l.val / 2 ^ (j + 1)) = some l then
        acc ||| redFlags rm op (s.wset g) (s.me.liveLane a) j (l.val / 2 ^ (j + 1))
      else acc) 0 := by
  rw [signalsOf_get, State.reduxTree_eq s g rm op a hk, redTree_signals rm op (redNode_succ rm op _ _)
    (step := fun j acc => if lowLane (s.wset g) (j + 1) (l.val / 2 ^ (j + 1)) = some l.val then
      acc ||| redFlags rm op (s.wset g) (s.me.liveLane a) j (l.val / 2 ^ (j + 1)) else acc)
    fun j n acc _ hn => foldl_levelSignals rm op _ _ l acc ?_]
  · simp only [zero_add, lowLane_eq_some]
  · rw [Nat.div_lt_iff_lt_mul (Nat.two_pow_pos _), hn, zero_add, two_pow_five_sub_mul hk]
    exact l.isLt

end

theorem redux_result (s : State) (g : Guard) (d : Nat) (rm : Rm) (op : RedOp) (a : Src) {k : Nat} (hk : k ≤ 5) :
    VecResult (.redux g d rm op k a) s g a.scalar (a.uses 1) d fun l =>
      ⟨redValue rm op (s.wset g) (s.me.liveLane a) k (l.val / 2 ^ k), (List.range k).foldl (fun acc j =>
        if (LaneMask.lanes (s.wset g)).find? (fun m => m.val / 2 ^ (j + 1) == l.val / 2 ^ (j + 1)) = some l then
          acc ||| redFlags rm op (s.wset g) (s.me.liveLane a) j (l.val / 2 ^ (j + 1))
        else acc) 0⟩ := by
  refine vecResult_of_compute _ s g _ _ d _ _ false _ (exec_redux s g d rm op k a) (fun l => ?_)
    (State.reduxTree_signals s g rm op a hk)
  rw [← State.reduxAt_eq s g rm op a hk]
  split
  next h5 =>
    have h0 : l.val / 2 ^ k = (0 : Fin 32).val / 2 ^ k := by
      rw [h5]
      exact (Nat.div_eq_of_lt l.isLt).trans rfl
    rw [Storage.lane_u, State.reduxAt, State.reduxAt, h0]
  next => rw [Storage.lane_g, Lanes.of_get]

/-- Settles O16: REDUX by the nodes and signals of its tree level by level, SCAN and SEGRED by what each thread finds when
the threads of its list have combined in order. -/
theorem reductionResults : Obligations.ReductionResults :=
  fun s g d rm op a =>
    ⟨fun _ _ hk => redux_result s g d rm op a hk, fun excl => scan_result s g d rm op excl a,
      fun qb => segred_result s g d rm op a qb⟩

end Sys2Proof.Machine

/-! PROOFS. Integer arithmetic: instructions of one, two and three sources by what they compute in a lane, words as the
integers that they stand for, and O1 and O2, which follow. -/

namespace Sys2Proof.Machine

/-! ### One, two and three sources (R103) -/

section
variable {F : Storage → Storage} {F2 : Storage → Storage → Storage} {F3 : Storage → Storage → Storage → Storage}
  {f : Word → Word} {f2 : Word → Word → Word} {f3 : Word → Word → Word → Word}

theorem gives1_of_alu1 {j : Guard → Nat → Src → Instr} (hj : ∀ s g d a, exec (j g d a) s = s.alu1 g d a F)
    (hF : ∀ x l, (F x).lane l = f (x.lane l)) : Gives1 j fun a => plain (f a) :=
  fun s g d a => vecResult_plain (hj s g d a) fun l => hF _ l

theorem gives2_of_alu2 {j : Guard → Nat → Src → Src → Instr} (hj : ∀ s g d a b, exec (j g d a b) s = s.alu2 g d a b F2)
    (hF : ∀ x y l, (F2 x y).lane l = f2 (x.lane l) (y.lane l)) : Gives2 j fun a b => plain (f2 a b) :=
  fun s g d a b => vecResult_plain (hj s g d a b) fun l => hF _ _ l

theorem gives3_of_alu3 {j : Guard → Nat → Src → Src → Src → Instr}
    (hj : ∀ s g d a b c, exec (j g d a b c) s = s.alu3 g d a b c F3)
    (hF : ∀ x y z l, (F3 x y z).lane l = f3 (x.lane l) (y.lane l) (z.lane l)) : Gives3 j fun a b c => plain (f3 a b c) :=
  fun s g d a b c => vecResult_plain (hj s g d a b c) fun l => hF _ _ _ l

/-- An instruction that applies a function of words to each lane, told by another function of equal values. -/
theorem gives1_of_map1 {j : Guard → Nat → Src → Instr} {w : Word → Word}
    (hj : ∀ s g d a, exec (j g d a) s = s.alu1 g d a (Storage.map1 w)) (hw : ∀ x, w x = f x) :
    Gives1 j fun a => plain (f a) :=
  gives1_of_alu1 hj fun x l => (Storage.lane_map1 w x l).trans (hw _)

theorem gives2_of_map2 {j : Guard → Nat → Src → Src → Instr} {w : Word → Word → Word}
    (hj : ∀ s g d a b, exec (j g d a b) s = s.alu2 g d a b (Storage.map2 w)) (hw : ∀ x y, w x y = f2 x y) :
    Gives2 j fun a b => plain (f2 a b) :=
  gives2_of_alu2 hj fun x y l => (Storage.lane_map2 w x y l).trans (hw _ _)

end

/-! ### Words as integers (R72, R104, R105) -/

section
variable (a b : Word)

theorem word_add_eq : a + b = BitVec.ofInt 32 (a.toInt + b.toInt) := by
  rw [BitVec.ofInt_add, BitVec.ofInt_toInt, BitVec.ofInt_toInt]

theorem word_neg_eq : -a = BitVec.ofInt 32 (-a.toInt) := by
  rw [BitVec.ofInt_neg, BitVec.ofInt_toInt]

theorem word_sub_eq : a - b = BitVec.ofInt 32 (a.toInt - b.toInt) := by
  rw [Int.sub_eq_add_neg, BitVec.ofInt_add, BitVec.ofInt_neg, BitVec.ofInt_toInt, BitVec.ofInt_toInt, BitVec.sub_eq_add_neg]

theorem word_mul_eq : a * b = BitVec.ofInt 32 (a.toInt * b.toInt) := by
  rw [BitVec.ofInt_mul, BitVec.ofInt_toInt, BitVec.ofInt_toInt]

theorem ofInt_high_half (x : Int) : (BitVec.ofInt 64 x >>> 32).truncate 32 = BitVec.ofInt 32 (x / 2 ^ 32) := by
  apply BitVec.eq_of_toNat_eq
  simp only [BitVec.truncate_eq_setWidth, BitVec.toNat_setWidth, BitVec.toNat_ushiftRight, BitVec.toNat_ofInt,
    Nat.shiftRight_eq_div_pow]
  omega

theorem mulHigh_eq : mulHigh a b = BitVec.ofInt 32 (a.toInt * b.toInt / 2 ^ 32) := by
  have hwide (x : Word) : x.signExtend 64 = BitVec.ofInt 64 x.toInt := by
    rw [← BitVec.toInt_signExtend_of_le (show 32 ≤ 64 by decide), BitVec.ofInt_toInt]
  rw [mulHigh, hwide, hwide, ← BitVec.ofInt_mul, ofInt_high_half]

theorem umulHigh_eq : umulHigh a b = BitVec.ofNat 32 (a.toNat * b.toNat / 2 ^ 32) := by
  rw [ofNat_high_half, BitVec.ofNat_mul, BitVec.ofNat_toNat, BitVec.ofNat_toNat]
  rfl

theorem smin32_eq : smin32 a b = BitVec.ofInt 32 (min a.toInt b.toInt) := by
  simp only [smin32, BitVec.slt_eq_decide, min_def_lt, apply_ite (BitVec.ofInt 32), BitVec.ofInt_toInt, decide_eq_true_eq]

theorem smax32_eq : smax32 a b = BitVec.ofInt 32 (max a.toInt b.toInt) := by
  simp only [smax32, BitVec.slt_eq_decide, max_def_lt, apply_ite (BitVec.ofInt 32), BitVec.ofInt_toInt, decide_eq_true_eq]

theorem umin32_eq : umin32 a b = BitVec.ofNat 32 (min a.toNat b.toNat) := by
  simp only [umin32, BitVec.ult_eq_decide, min_def_lt, apply_ite (BitVec.ofNat 32), BitVec.ofNat_toNat, BitVec.setWidth_eq,
    decide_eq_true_eq]

theorem umax32_eq : umax32 a b = BitVec.ofNat 32 (max a.toNat b.toNat) := by
  simp only [umax32, BitVec.ult_eq_decide, max_def_lt, apply_ite (BitVec.ofNat 32), BitVec.ofNat_toNat, BitVec.setWidth_eq,
    decide_eq_true_eq]

theorem abs32_eq : abs32 a = BitVec.ofInt 32 |a.toInt| := by
  rw [abs32, BitVec.slt_eq_decide]
  split
  next h => rw [abs_of_neg (by simpa using h), BitVec.ofInt_neg, BitVec.ofInt_toInt]
  next h => rw [abs_of_nonneg (by simpa using h), BitVec.ofInt_toInt]

theorem quot_eq : quot a b = if b = 0 then 0xFFFFFFFF else BitVec.ofInt 32 (a.toInt.tdiv b.toInt) := by
  have hdiv : a.sdiv b = BitVec.ofInt 32 (a.toInt.tdiv b.toInt) := by
    apply BitVec.eq_of_toInt_eq
    rw [BitVec.toInt_sdiv, BitVec.toInt_ofInt]
  rw [quot, hdiv]
  rfl

theorem uquot_eq : uquot a b = if b = 0 then 0xFFFFFFFF else BitVec.ofNat 32 (a.toNat / b.toNat) := by
  rw [uquot, ← BitVec.toNat_udiv, BitVec.ofNat_toNat, BitVec.setWidth_eq]
  rfl

theorem srem32_eq : srem32 a b = if b = 0 then a else BitVec.ofInt 32 (a.toInt.tmod b.toInt) := by
  rw [srem32, ← BitVec.toInt_srem, BitVec.ofInt_toInt]

theorem urem32_eq : urem32 a b = if b = 0 then a else BitVec.ofNat 32 (a.toNat % b.toNat) := by
  rw [urem32, ← BitVec.toNat_umod, BitVec.ofNat_toNat, BitVec.setWidth_eq]

/-- A shift by an amount that fits multiplies by a power of two (R107, R113). -/
theorem shiftLeft_ofNat {n : Nat} (hn : n < 32) : shiftLeft a (BitVec.ofNat 32 n) = BitVec.ofNat 32 (a.toNat * 2 ^ n) := by
  apply BitVec.eq_of_toNat_eq
  rw [shiftLeft_eq, BitVec.toNat_shiftLeft, BitVec.toNat_ofNat, BitVec.toNat_ofNat, Nat.shiftLeft_eq,
    Nat.mod_eq_of_lt (show n < 2 ^ 32 by omega)]

theorem sext16_eq (i : Imm16) : sext16 i = BitVec.ofInt 32 i.toInt := by
  rw [← BitVec.toInt_signExtend_of_le (show 16 ≤ 32 by decide), BitVec.ofInt_toInt, sext16]

theorem toInt_sext16 (i : Imm16) : (sext16 i).toInt = i.toInt := BitVec.toInt_signExtend_of_le (by decide)

end

/-! ### The statements -/

/-- Settles O1: in each lane the operation is that of the integers, wrapped. -/
theorem integerTwoSourceResults : Obligations.IntegerTwoSourceResults := by
  refine ⟨gives2_of_alu2 (fun _ _ _ _ _ => rfl) fun x y l => ?_, gives2_of_alu2 (fun _ _ _ _ _ => rfl) fun x y l => ?_,
    gives2_of_alu2 (fun _ _ _ _ _ => rfl) fun x y l => ?_, gives2_of_map2 (fun _ _ _ _ _ => rfl) mulHigh_eq,
    gives2_of_map2 (fun _ _ _ _ _ => rfl) umulHigh_eq, gives2_of_map2 (fun _ _ _ _ _ => rfl) smin32_eq,
    gives2_of_map2 (fun _ _ _ _ _ => rfl) smax32_eq, gives2_of_map2 (fun _ _ _ _ _ => rfl) umin32_eq,
    gives2_of_map2 (fun _ _ _ _ _ => rfl) umax32_eq, gives2_of_map2 (fun _ _ _ _ _ => rfl) quot_eq,
    gives2_of_map2 (fun _ _ _ _ _ => rfl) uquot_eq, gives2_of_map2 (fun _ _ _ _ _ => rfl) srem32_eq,
    gives2_of_map2 (fun _ _ _ _ _ => rfl) urem32_eq,
    fun sh hsh => gives2_of_alu2 (F2 := fun x y => Storage.sum (· + ·) x (y.shift (.u (BitVec.ofNat 32 sh))))
      (fun _ _ _ _ _ => rfl) fun x y l => ?_,
    gives3_of_alu3 (F3 := fun x y z => Storage.sum (· + ·) (x.product y) z) (fun _ _ _ _ _ _ => rfl) fun x y z l => ?_⟩
  · rw [Storage.lane_sum_add, word_add_eq]
  · rw [Storage.lane_sum_sub, word_sub_eq]
  · rw [Storage.lane_product, word_mul_eq]
  · rw [Storage.lane_sum_add, Storage.lane_shift, Storage.lane_u, shiftLeft_ofNat _ hsh]
  · rw [Storage.lane_sum_add, Storage.lane_product, BitVec.ofInt_add, ← word_mul_eq, BitVec.ofInt_toInt]

/-- Settles O2: an immediate is a uniform operand of the same operations. -/
theorem integerImmediateResults : Obligations.IntegerImmediateResults := by
  refine ⟨gives1_of_map1 (fun _ _ _ _ => rfl) abs32_eq, gives1_of_alu1 (fun _ _ _ _ => rfl) fun x l => ?_,
    gives1_of_alu1 (fun _ _ _ _ => rfl) Storage.lane_moved,
    fun imm => gives1_of_alu1 (F := fun x => Storage.sum (· + ·) x (.u (sext16 imm))) (fun _ _ _ _ => rfl) fun x l => ?_,
    fun imm => gives1_of_alu1 (F := fun x => x.product (.u (sext16 imm))) (fun _ _ _ _ => rfl) fun x l => ?_,
    fun imm => gives1_of_alu1 (F := fun x => Storage.sum (· + ·) x (.u imm)) (fun _ _ _ _ => rfl) fun x l => ?_,
    fun imm => gives1_of_alu1 (F := fun x => x.product (.u imm)) (fun _ _ _ _ => rfl) fun x l => ?_,
    fun sh imm hsh => gives1_of_alu1
      (F := fun x => Storage.sum (· + ·) (x.shift (.u (BitVec.ofNat 32 sh))) (.u (sext16 imm)))
      (fun _ _ _ _ => rfl) fun x l => ?_,
    fun s g d imm => vecResult_plain rfl fun _ => sext16_eq imm, fun s g d imm => vecResult_plain rfl fun _ => rfl⟩
  · rw [Storage.lane_negate, word_neg_eq]
  · rw [Storage.lane_sum_add, Storage.lane_u, word_add_eq, toInt_sext16]
  · rw [Storage.lane_product, Storage.lane_u, word_mul_eq, toInt_sext16]
  · rw [Storage.lane_sum_add, Storage.lane_u, word_add_eq]
  · rw [Storage.lane_product, Storage.lane_u, word_mul_eq]
  · rw [Storage.lane_sum_add, Storage.lane_shift, Storage.lane_u, Storage.lane_u, shiftLeft_ofNat _ hsh, sext16_eq,
      BitVec.ofInt_add, ← BitVec.ofInt_natCast]
    push_cast
    rfl

end Sys2Proof.Machine

/-! PROOFS. Words bit by bit, and O3, which follows: logic, shifts by any amount, rotations and bit counts. -/

namespace Sys2Proof.Machine

/-! ### Words given by their bits -/

theorem getLsbD_wordOf (f : Nat → Bool) {i : Nat} (hi : i < 32) : (wordOf f).getLsbD i = f i := by
  change BitVec.getLsbD (w := ((List.range 32).map f).length) (BitVec.ofBoolListLE ((List.range 32).map f)) i = f i
  rw [BitVec.getLsbD_ofBoolListLE]
  simp [hi]

/-- A word is what its 32 bits say. -/
theorem eq_wordOf {x : Word} {f : Nat → Bool} (h : ∀ i, i < 32 → x.getLsbD i = f i) : x = wordOf f :=
  BitVec.eq_of_getLsbD_eq fun i hi => (h i hi).trans (getLsbD_wordOf f hi).symm

/-! ### Shifts and rotations (R111, R113) -/

section
variable (a b : Word)

theorem shiftLeft_bits : shiftLeft a b = wordOf fun i => decide (b.toNat ≤ i) && a.getLsbD (i - b.toNat) :=
  eq_wordOf fun i hi => by
    simp only [shiftLeft_eq, BitVec.getLsbD_shiftLeft, hi, decide_true, Bool.true_and, ← decide_not, not_lt]

theorem shiftRight_bits : shiftRight a b = wordOf fun i => a.getLsbD (i + b.toNat) :=
  eq_wordOf fun i hi => by
    unfold shiftRight
    split
    next => rw [BitVec.getLsbD_ushiftRight, Nat.add_comm]
    next hb => exact BitVec.getLsbD_zero.trans (BitVec.getLsbD_of_ge a _ (by omega)).symm

/-- Past the word the sign bit comes in, whatever the amount. -/
theorem shiftArith_bits : shiftArith a b = wordOf fun i => a.getLsbD (min (i + b.toNat) 31) :=
  eq_wordOf fun i hi => by
    have hbit (n : Nat) (hn : n = b.toNat ∨ (32 ≤ b.toNat ∧ n = 31)) :
        (a.sshiftRight n).getLsbD i = a.getLsbD (min (i + b.toNat) 31) := by
      rw [BitVec.getLsbD_sshiftRight, decide_eq_false (by omega), BitVec.msb_eq_getLsbD_last]
      simp only [Bool.not_false, Bool.true_and]
      split
      next hlt => congr 1; omega
      next hge => congr 1; omega
    unfold shiftArith
    split
    next => exact hbit _ (.inl rfl)
    next hb => exact hbit _ (.inr ⟨by omega, rfl⟩)

theorem rol32_bits : rol32 a b = wordOf fun i => a.getLsbD ((i + 32 - b.toNat % 32) % 32) :=
  eq_wordOf fun i hi => by
    rw [rol32, BitVec.getLsbD_rotateLeft, Nat.mod_mod]
    have hr := Nat.mod_lt b.toNat (show 0 < 32 by decide)
    by_cases h : i < b.toNat % 32
    · rw [decide_eq_true h, cond_true]
      congr 1
      omega
    · rw [decide_eq_false h, cond_false, decide_eq_true hi, Bool.true_and]
      congr 1
      omega

theorem ror32_bits : ror32 a b = wordOf fun i => a.getLsbD ((i + b.toNat) % 32) :=
  eq_wordOf fun i hi => by
    rw [ror32, BitVec.getLsbD_rotateRight, Nat.mod_mod]
    have hr := Nat.mod_lt b.toNat (show 0 < 32 by decide)
    by_cases h : i < 32 - b.toNat % 32
    · rw [decide_eq_true h, cond_true]
      congr 1
      omega
    · rw [decide_eq_false h, cond_false, decide_eq_true hi, Bool.true_and]
      congr 1
      omega

end

theorem toNat_zext16 (i : Imm16) : (zext16 i).toNat = i.toNat := by
  have := i.isLt
  simp only [zext16, BitVec.zeroExtend, BitVec.toNat_setWidth]
  omega

theorem getLsbD_zext16 (x : Imm16) {i : Nat} (hi : i < 32) : (zext16 x).getLsbD i = x.getLsbD i := by
  simp [zext16, hi]

/-! ### Bit counts (R111) -/

theorem popc32_count (a : Word) : popc32 a = BitVec.ofNat 32 ((List.range 32).countP fun i => a.getLsbD i) := by
  rw [popc32, List.countP_eq_length_filter]

/-- As many numbers from `k` on fail a test as the first to meet it has before it, or all `n`. -/
theorem length_takeWhile_range' (f : Nat → Bool) (k n : Nat) :
    k + ((List.range' k n).takeWhile fun i => !f i).length = ((List.range' k n).find? f).getD (k + n) := by
  induction n generalizing k with
  | zero => rfl
  | succ n ih =>
    rw [List.range'_succ, List.takeWhile_cons, List.find?_cons]
    cases f k with
    | true => rfl
    | false =>
      have := ih (k + 1)
      simp only [Bool.not_false, if_true, List.length_cons]
      rw [show k + (n + 1) = k + 1 + n by omega, ← this]
      omega

theorem length_takeWhile_eq_firstOne (f : Nat → Bool) : ((List.range 32).takeWhile fun i => !f i).length = firstOne f := by
  have := length_takeWhile_range' f 0 32
  rwa [Nat.zero_add, ← List.range_eq_range'] at this

theorem clz32_firstOne (a : Word) : clz32 a = BitVec.ofNat 32 (firstOne fun i => a.getLsbD (31 - i)) := by
  rw [clz32, length_takeWhile_eq_firstOne fun i => a.getLsbD (31 - i)]

theorem ctz32_firstOne (a : Word) : ctz32 a = BitVec.ofNat 32 (firstOne fun i => a.getLsbD i) := by
  rw [ctz32, length_takeWhile_eq_firstOne fun i => a.getLsbD i]

/-! ### The statement -/

/-- Settles O3: each operation bit by bit of its result. -/
theorem logicAndShiftResults : Obligations.LogicAndShiftResults := by
  refine ⟨gives2_of_map2 (fun _ _ _ _ _ => rfl) fun x y => eq_wordOf fun i _ => BitVec.getLsbD_and,
    gives2_of_map2 (fun _ _ _ _ _ => rfl) fun x y => eq_wordOf fun i _ => BitVec.getLsbD_or,
    gives2_of_map2 (fun _ _ _ _ _ => rfl) fun x y => eq_wordOf fun i _ => BitVec.getLsbD_xor,
    gives2_of_map2 (fun _ _ _ _ _ => rfl) fun x y => eq_wordOf fun i hi => by simp [hi],
    gives1_of_map1 (fun _ _ _ _ => rfl) fun x => eq_wordOf fun i hi => by simp [hi],
    fun imm => gives1_of_map1 (fun _ _ _ _ => rfl) fun x => eq_wordOf fun i hi => ?_,
    fun imm => gives1_of_map1 (fun _ _ _ _ => rfl) fun x => eq_wordOf fun i hi => ?_,
    fun imm => gives1_of_map1 (fun _ _ _ _ => rfl) fun x => eq_wordOf fun i hi => ?_,
    fun imm => gives1_of_map1 (fun _ _ _ _ => rfl) fun x => eq_wordOf fun i _ => BitVec.getLsbD_and,
    fun imm => gives1_of_map1 (fun _ _ _ _ => rfl) fun x => eq_wordOf fun i _ => BitVec.getLsbD_or,
    fun imm => gives1_of_map1 (fun _ _ _ _ => rfl) fun x => eq_wordOf fun i _ => BitVec.getLsbD_xor,
    gives2_of_alu2 (fun _ _ _ _ _ => rfl) fun x y l => ?_,
    gives2_of_map2 (fun _ _ _ _ _ => rfl) shiftRight_bits, gives2_of_map2 (fun _ _ _ _ _ => rfl) shiftArith_bits,
    fun imm => gives1_of_alu1 (F := fun x => x.shift (.u (zext16 imm))) (fun _ _ _ _ => rfl) fun x l => ?_,
    fun imm => gives1_of_map1 (fun _ _ _ _ => rfl) fun x => ?_, fun imm => gives1_of_map1 (fun _ _ _ _ => rfl) fun x => ?_,
    gives2_of_map2 (fun _ _ _ _ _ => rfl) rol32_bits, gives2_of_map2 (fun _ _ _ _ _ => rfl) ror32_bits,
    gives1_of_map1 (fun _ _ _ _ => rfl) popc32_count, gives1_of_map1 (fun _ _ _ _ => rfl) clz32_firstOne,
    gives1_of_map1 (fun _ _ _ _ => rfl) ctz32_firstOne, gives1_of_map1 (fun _ _ _ _ => rfl) fun x => rfl⟩
  · rw [BitVec.getLsbD_and, getLsbD_zext16 imm hi]
  · rw [BitVec.getLsbD_or, getLsbD_zext16 imm hi]
  · rw [BitVec.getLsbD_xor, getLsbD_zext16 imm hi]
  · rw [Storage.lane_shift, shiftLeft_bits]
  · rw [Storage.lane_shift, Storage.lane_u, shiftLeft_bits, toNat_zext16]
  · rw [shiftRight_bits, toNat_zext16]
  · rw [shiftArith_bits, toNat_zext16]

end Sys2Proof.Machine

/-! PROOFS. 64-bit arithmetic of pairs, the sign bits of floating formats, and O5, which follows. -/

namespace Sys2Proof.Machine

/-! ### Pairs (R18, R106, R150) -/

/-- One computation serves pairs whose halves all count as U. -/
theorem givesD2_of_alu64 {j : Guard → Nat → VSrc → VSrc → Instr} {w f : Dword → Dword → Dword}
    (hj : ∀ s g d a b, exec (j g d a b) s = s.alu64 g d a b w) (hw : ∀ x y, w x y = f x y) :
    GivesD2 j fun a b => plain64 (f a b) := by
  intro s g d a b
  have hu : (s.me.pairU a && (s.me.vreg b.n).st.isU && (s.me.vreg (b.n + 1)).st.isU) = true →
      ∀ l, w (s.me.pair a l) (s.me.pair b l) = w (s.me.pair a 0) (s.me.pair b 0) := by
    intro h l
    simp only [Bool.and_eq_true] at h
    obtain ⟨⟨ha, hlo⟩, hhi⟩ := h
    rw [Warp.pair_of_pairU l ha, Warp.pair_of_pairU (a := b) l (Bool.and_eq_true_iff.mpr ⟨hlo, hhi⟩)]
  have hlane := dmap_lane _ (fun l => plain64 (w (s.me.pair a l) (s.me.pair b l))) fun h l => congrArg plain64 (hu h l)
  simp only [← hw]
  exact pairResult_plain (hj s g d a b) (fun l => (hlane l).1) fun l => (hlane l).2.1

theorem givesD1_of_double1 {j : Guard → Nat → VSrc → Instr} {w f : Dword → Dword}
    (hj : ∀ s g d a, exec (j g d a) s = s.double1 g d a fun x => plain64 (w x)) (hw : ∀ x, w x = f x) :
    GivesD1 j fun a => plain64 (f a) := by
  obtain rfl : w = f := funext hw
  exact fun s g d a => pairResult_of_dmap (hj s g d a) fun h l => by rw [Warp.pair_of_pairU l h]

section
variable (a b : Dword)

theorem dword_add_eq : a + b = BitVec.ofNat 64 (a.toNat + b.toNat) := by
  rw [BitVec.ofNat_add, BitVec.ofNat_toNat, BitVec.ofNat_toNat, BitVec.setWidth_eq, BitVec.setWidth_eq]

theorem dword_mul_eq : a * b = BitVec.ofNat 64 (a.toNat * b.toNat) := by
  rw [BitVec.ofNat_mul, BitVec.ofNat_toNat, BitVec.ofNat_toNat, BitVec.setWidth_eq, BitVec.setWidth_eq]

theorem dword_sub_eq : a - b = BitVec.ofInt 64 (a.toNat - b.toNat) := by
  rw [Int.sub_eq_add_neg, BitVec.ofInt_add, BitVec.ofInt_neg, BitVec.ofInt_natCast, BitVec.ofInt_natCast, BitVec.ofNat_toNat,
    BitVec.ofNat_toNat, BitVec.setWidth_eq, BitVec.setWidth_eq, BitVec.sub_eq_add_neg]

end

/-! ### Sign bits (R144, R150) -/

/-- A mask of all bits but the sign leaves the magnitude. -/
theorem and_magnitude {n : Nat} (x : BitVec (n + 1)) :
    x &&& BitVec.ofNat (n + 1) (2 ^ n - 1) = BitVec.ofNat (n + 1) (x.toNat % 2 ^ n) := by
  apply BitVec.eq_of_getLsbD_eq
  intro i hi
  rw [BitVec.getLsbD_and, BitVec.getLsbD_ofNat, BitVec.getLsbD_ofNat, Nat.testBit_two_pow_sub_one, Nat.testBit_mod_two_pow,
    decide_eq_true hi, Bool.true_and, Bool.true_and, Bool.and_comm]
  rfl

/-- Flipping the sign bit adds its weight, wrapped. -/
theorem xor_sign {n : Nat} (x : BitVec (n + 1)) :
    x ^^^ BitVec.ofNat (n + 1) (2 ^ n) = BitVec.ofNat (n + 1) ((x.toNat + 2 ^ n) % 2 ^ (n + 1)) := by
  apply BitVec.eq_of_getLsbD_eq
  intro i hi
  rw [BitVec.getLsbD_xor, BitVec.getLsbD_ofNat, BitVec.getLsbD_ofNat, Nat.testBit_mod_two_pow, decide_eq_true hi,
    Bool.true_and, Bool.true_and, Bool.true_and, Nat.testBit_two_pow, Nat.add_comm x.toNat, BitVec.getLsbD]
  rcases Nat.lt_succ_iff_lt_or_eq.mp hi with hlt | rfl
  · rw [Nat.testBit_two_pow_add_gt hlt, decide_eq_false (by omega), Bool.xor_false]
  · rw [Nat.testBit_two_pow_add_eq, decide_eq_true rfl, Bool.xor_true]

/-- Settles O5: pairs compute as 64-bit words, and absolute value and negation rewrite the sign bit. -/
theorem pairArithmeticResults : Obligations.PairArithmeticResults :=
  ⟨givesD2_of_alu64 (fun _ _ _ _ _ => rfl) dword_add_eq, givesD2_of_alu64 (fun _ _ _ _ _ => rfl) dword_sub_eq,
    givesD2_of_alu64 (fun _ _ _ _ _ => rfl) dword_mul_eq,
    givesD1_of_double1 (w := (· &&& 0x7FFFFFFFFFFFFFFF)) (fun _ _ _ _ => rfl) fun x => and_magnitude (n := 63) x,
    givesD1_of_double1 (w := (· ^^^ 0x8000000000000000)) (fun _ _ _ _ => rfl) fun x => xor_sign (n := 63) x,
    gives1_of_map1 (w := (· &&& 0x7FFFFFFF)) (fun _ _ _ _ => rfl) fun x => and_magnitude (n := 31) x,
    gives1_of_map1 (w := (· ^^^ 0x80000000)) (fun _ _ _ _ => rfl) fun x => xor_sign (n := 31) x⟩

end Sys2Proof.Machine

/-! PROOFS. Branches (O18), and waits, parking, software traps and returns from a handler (O20). -/

namespace Sys2Proof.Machine

/-! ### Branches (R126 to R130) -/

theorem State.moveRun_setMe_me (s : State) (pc : Fin 32 → BitVec 55) : (s.setMe s.me).moveRun pc = s.moveRun pc := by
  unfold State.moveRun
  rw [State.setMe_setMe, State.me_setMe, State.myBlock_setMe rfl]
  rfl

section
variable {i : Instr} {s : State} {g : Guard} {a : Src} {us : List Use} {uni : Bool} {off : Word}

/-- An instruction whose meaning is a jump of the threads of W. -/
theorem steps_of_jump {W : LaneMask} (f : Fin 32 → VAddr) (hi : exec i s = .next ((s.freed us).jump W f)) :
    Steps i s (s.me.free (s.frees us []))
      (s.laneAt fun l => if W.getLsbD l.val then (f l).extractLsb' 2 55 else s.cur.next) := by
  refine steps_of_moveRun hi rfl (Warp.free_blk _ _) fun l => ?_
  rw [Warp.free_lanes, addrPc_eq]
  rfl

theorem State.freed_nothing_jump {W : LaneMask} {f : Fin 32 → VAddr} : (s.freed []).jump W f = s.jump W f := by
  rw [State.freed, State.frees_nothing, Warp.free_nothing]
  exact State.moveRun_setMe_me s _

/-- A jump that reads no register. -/
theorem steps_of_jump_relative {W : LaneMask} (f : Fin 32 → VAddr) (hi : exec i s = .next (s.jump W f)) :
    Steps i s s.me (s.laneAt fun l => if W.getLsbD l.val then (f l).extractLsb' 2 55 else s.cur.next) := by
  rw [← State.freed_nothing_jump] at hi
  have := steps_of_jump f hi
  rwa [State.frees_nothing, Warp.free_nothing] at this

theorem exec_braU (g : Guard) (off : Word) (s : State) :
    exec (.braU g off) s = if s.guardDiffers g then s.trap 0x03 1 else s.branch g off := rfl

theorem brx_steps (hr : Readable s a.scalar (a.uses 1)) (hj : s.jumpGate g uni a = .go) :
    exec (.brx g uni a) s = .next ((s.freed (a.uses 1)).jump (s.wset g) (s.regTarget a)) := by
  change execBrx g uni a s = _
  rw [execBrx, hj, State.perform_go hr]

theorem brx_traps {code detail : Nat} (hr : Readable s a.scalar (a.uses 1)) (hj : s.jumpGate g uni a = .trap code detail) :
    exec (.brx g uni a) s = s.trap code detail := by
  change execBrx g uni a s = _
  rw [execBrx, hj, State.perform_trap hr]

theorem State.guardDiffers_eq_true (h : ¬(s.me.predUniform g.q = true ∨ s.wset g = 0 ∨ s.wset g = s.cur.run)) :
    s.guardDiffers g = true := by
  rw [not_or, not_or] at h
  obtain ⟨hu, hzero, hrun⟩ := h
  simpa [State.guardDiffers, hu, hrun] using hzero

/-- UNIFORM before everything else where the guard differs (R130). -/
theorem State.jumpGate_differs (hg : s.guardDiffers g = true) : s.jumpGate g true a = .trap 0x03 1 := by
  unfold State.jumpGate
  dsimp only
  rw [hg]
  rfl

/-- UNIFORM where the guard agrees and the targets differ (R130). -/
theorem State.jumpGate_targets (hg : s.guardDiffers g = false)
    (ho : ¬((s.me.src a).isU = true ∨
      ∀ l : Fin 32, (s.wset g).getLsbD l.val = true → (s.me.src a).lane l = (s.me.src a).lane (s.wset g).lowest)) :
    s.jumpGate g true a = .trap 0x03 2 := by
  rw [← Warp.differs_eq_false_iff, Bool.not_eq_false, Warp.differs] at ho
  unfold State.jumpGate
  dsimp only
  rw [hg, Bool.true_and, Bool.true_and, ho]
  rfl

/-- ALIGN where a target of W is misaligned (R129). -/
theorem State.jumpGate_misaligned
    (ha : ¬∀ l : Fin 32, (s.wset g).getLsbD l.val = true → (s.regTarget a l).toNat % 4 = 0) :
    s.jumpGate g false a = .trap 0x0E 0 := by
  have halign : ((LaneMask.lanes (s.wset g)).any fun l => (s.regTarget a l).toNat % 4 != 0) = true := by
    simpa [LaneMask.mem_lanes] using ha
  unfold State.jumpGate
  dsimp only
  rw [halign]
  rfl

/-- An instruction that moves its run on and does nothing else. -/
theorem steps_of_advance_alone (hi : exec i s = .next s.advance) : Steps i s s.me (s.laneAt fun _ => s.cur.next) :=
  steps_of_advance (hi.trans (congrArg Host.Outcome.next (State.advance_setMe_me s).symm)) rfl rfl

end

/-- Settles O18: BRA and BRA.U as jumps to one target, BRX by the checks that it passes or fails. -/
theorem branches : Obligations.Branches := by
  intro s g off a W rel goes direct x agrees one aligned
  have hbra : Steps (.bra g off) s s.me direct := steps_of_jump_relative _ rfl
  refine ⟨hbra, fun hag => ?_, fun hag => ?_, fun hr => ⟨fun ha => ?_, fun hag ho ha => ?_, fun hag => ?_, fun hag ho => ?_,
    fun ha => ?_⟩, steps_of_advance_alone rfl, steps_of_advance_alone rfl⟩
  · refine steps_of_jump_relative _ ((exec_braU g off s).trans ?_)
    rw [State.guardDiffers_eq_false hag]
    rfl
  · refine raises_of_trap ((exec_braU g off s).trans ?_) (by decide) (by decide)
    rw [State.guardDiffers_eq_true hag]
    rfl
  · exact steps_of_jump _ (brx_steps hr (State.jumpGate_go ha (by simp)))
  · exact steps_of_jump _ (brx_steps hr (State.jumpGate_go ha fun _ => ⟨hag, ho⟩))
  · exact raises_of_trap (brx_traps hr (State.jumpGate_differs (State.guardDiffers_eq_true hag))) (by decide) (by decide)
  · exact raises_of_trap (brx_traps hr (State.jumpGate_targets (State.guardDiffers_eq_false hag) ho)) (by decide)
      (by decide)
  · exact raises_of_trap (brx_traps hr (State.jumpGate_misaligned ha)) (by decide) (by decide)

/-! ### A run that has moved, its warp then rewritten -/

section
variable {i : Instr} {s t : State} {w v : Warp} {h : Fin 32 → Lane}

theorem OnlyMe.setMe (ho : OnlyMe s t) (v : Warp) : OnlyMe s (t.setMe v) := by
  obtain ⟨ws, ls, rfl⟩ : ∃ ws ls, t = { s with warps := ws, launches := ls } := ⟨_, _, ho.rest⟩
  exact ⟨rfl, fun k hk => (Map.find_set_other _ _ _ _ hk).trans (ho.warps k hk), ho.launches, ho.mine, ho.retired, ho.bytes⟩

theorem State.advance_only (s : State) : OnlyMe s s.advance := by
  rw [← State.advance_setMe_me]
  exact State.moveRun_only s s.me _ rfl

theorem State.advance_warp (s : State) : s.advance.me = s.me.issued s.cur.run fun _ => s.cur.next := by
  rw [← State.advance_setMe_me, State.advance_me]

theorem State.advance_rest (s : State) : s.advance.me = { s.me with lanes := s.advance.me.lanes, waitCount := 0 } := by
  rw [State.advance_warp]
  exact Warp.issued_rest _ _ _

/-- The threads of a run that has moved on (R98). -/
theorem State.advance_lane (s : State) (l : Fin 32) :
    s.advance.me.lanes[l] = { s.laneAt (fun _ => s.cur.next) l with age := s.advance.me.lanes[l].age } := by
  rw [State.advance_warp]
  exact Warp.issued_lane s.me s.cur.run _ l

/-- An instruction that moves its run on and then rewrites its warp. -/
theorem steps_of_advance_setMe (hi : exec i s = .next (s.advance.setMe v)) (hv : v = { w with lanes := v.lanes, waitCount := 0 })
    (hl : ∀ l : Fin 32, v.lanes[l] = { h l with age := v.lanes[l].age }) : Steps i s w h := by
  refine ⟨_, hi, ?_, ?_, (State.advance_only s).setMe v⟩
  · rw [State.me_setMe]
    exact hv
  · rw [State.me_setMe]
    exact hl

end

/-! ### Parking (R135) -/

section
variable {i : Instr} {s : State} {g : Guard} {off : Word} {imm : Imm16}

theorem Warp.park_lane (w : Warp) (W : LaneMask) (r : VAddr) (l : Fin 32) :
    (w.park W r).lanes[l] = if W.getLsbD l.val then { w.lanes[l] with parked := true, lrec := r } else w.lanes[l] := by
  simp [Warp.park]

theorem steps_of_park {W : LaneMask} {r : VAddr} (hi : exec i s = .next (s.advance.setMe (s.advance.me.park W r))) :
    Steps i s s.me fun l => if W.getLsbD l.val
      then { s.laneAt (fun _ => s.cur.next) l with parked := true, lrec := r } else s.laneAt (fun _ => s.cur.next) l := by
  refine steps_of_advance_setMe hi ?_ fun l => ?_
  · obtain ⟨ls, hls⟩ : ∃ ls, s.advance.me = { s.me with lanes := ls, waitCount := 0 } := ⟨_, s.advance_rest⟩
    rw [hls]
    rfl
  · rw [Warp.park_lane]
    cases W.getLsbD l.val with
    | false => exact State.advance_lane s l
    | true => exact congrArg (fun x : Lane => { x with parked := true, lrec := r }) (State.advance_lane s l)

/-- An instruction that moves its run on and sets a part of its warp aside from its lanes. -/
theorem steps_of_advance_aside {w v : Warp} (hi : exec i s = .next (s.advance.setMe v))
    (hv : v = { w with lanes := s.advance.me.lanes, waitCount := 0 }) :
    Steps i s w (s.laneAt fun _ => s.cur.next) := by
  subst hv
  exact steps_of_advance_setMe hi rfl fun l => State.advance_lane s l

theorem exec_yield (g : Guard) (off : Word) (s : State) : exec (.yield g off) s =
    if s.parks then .next (s.advance.setMe (s.advance.me.park (s.wset g) (recordAddr s.cur.pc off)))
    else if s.myLaunch.proof then .next s.advance
    else .next (s.advance.setMe { s.advance.me with aside := 33, asidePeers := s.asidePeers }) := rfl

theorem exec_phint (g : Guard) (off : Word) (s : State) : exec (.phint g off) s =
    if s.parks then .next (s.advance.setMe (s.advance.me.park (s.wset g) (recordAddr s.cur.pc off)))
    else .next s.advance := rfl

theorem exec_sleep (g : Guard) (imm : Imm16) (s : State) : exec (.sleep g imm) s =
    if s.wset g = 0 ∨ imm = 0 ∨ s.myLaunch.proof = true then .next s.advance
    else .next (s.advance.setMe { s.advance.me with sleep := imm.toNat + 1 }) := rfl

theorem exec_bkpt (g : Guard) (imm : Imm16) (s : State) :
    exec (.bkpt g imm) s = if s.wset g = 0 then .next s.advance else s.trap 0x12 imm.toNat := rfl

theorem exec_trap (g : Guard) (imm : Imm16) (s : State) :
    exec (.trap g imm) s = if s.wset g = 0 then .next s.advance else s.trap 0x13 imm.toNat := rfl

theorem exec_rte (g : Guard) (s : State) : exec (.rte g) s =
    if !s.me.hndl then s.trap 0x08 6 else .next (s.advance.setMe s.advance.me.returnFromTrap) := rfl

/-! ### The return from a handler (R246, R386) -/

/-- A thread as RTE leaves it, its age apart: at KEPC where it is LIVE and of the trap record's mask. -/
def Warp.resumedLane (w : Warp) (l : Fin 32) : Lane :=
  if w.trapMask.getLsbD l.val && w.lanes[l].st == .live then { w.lanes[l] with pc := addrPc w.kepc, age := 0 } else w.lanes[l]

theorem Warp.returnFromTrap_eq (w : Warp) :
    w.returnFromTrap = Warp.mergeAges { w.endHandler with lanes := Vector.ofFn w.resumedLane } := rfl

theorem Warp.returnFromTrap_lane (w : Warp) (l : Fin 32) :
    w.returnFromTrap.lanes[l] = { w.resumedLane l with age := w.returnFromTrap.lanes[l].age } := by
  rw [Warp.returnFromTrap_eq]
  refine (Warp.mergeAges_lane _ l).trans ?_
  simp only [Vector.getElem_ofFn, Fin.eta]
  rfl

theorem State.resumedLane_advance (s : State) (l : Fin 32) (n : Nat) :
    { s.advance.me.resumedLane l with age := n } =
      { (if s.me.trapMask.getLsbD l.val && s.me.lanes[l].st == .live
        then { s.me.lanes[l] with pc := s.me.kepc.extractLsb' 2 55 } else s.laneAt (fun _ => s.cur.next) l) with age := n } := by
  have hlane := s.advance_lane l
  have hmask : s.advance.me.trapMask = s.me.trapMask := by rw [State.advance_rest]
  have hkepc : s.advance.me.kepc = s.me.kepc := by rw [State.advance_rest]
  have hst : s.advance.me.lanes[l].st = s.me.lanes[l].st := by rw [hlane]; rfl
  unfold Warp.resumedLane
  rw [hmask, hkepc, hst, addrPc_eq]
  cases s.me.trapMask.getLsbD l.val && s.me.lanes[l].st == .live with
  | false => exact congrArg (fun x : Lane => { x with age := n }) hlane
  | true => exact congrArg (fun x : Lane => { x with pc := s.me.kepc.extractLsb' 2 55, age := n }) hlane

theorem steps_of_return (hi : exec i s = .next (s.advance.setMe s.advance.me.returnFromTrap)) :
    Steps i s { s.me with hndl := false, tmask := false, khbudget := 65536 } fun l =>
      if s.me.trapMask.getLsbD l.val && s.me.lanes[l].st == .live
      then { s.me.lanes[l] with pc := s.me.kepc.extractLsb' 2 55 } else s.laneAt (fun _ => s.cur.next) l := by
  refine steps_of_advance_setMe hi ?_ fun l => ?_
  · obtain ⟨ls, hls⟩ : ∃ ls, s.advance.me = { s.me with lanes := ls, waitCount := 0 } := ⟨_, s.advance_rest⟩
    rw [hls]
    rfl
  · exact (Warp.returnFromTrap_lane _ l).trans (s.resumedLane_advance l _)

end

/-- Settles O20: each instruction by the branch of its meaning that the case takes. -/
theorem waitsTrapsAndReturns : Obligations.WaitsTrapsAndReturns := by
  intro s g off imm W on rec' parked
  refine ⟨fun hp => ?_, fun hp hproof => ?_, fun hp hproof => ?_, fun hp => ?_, fun hp => ?_, fun h => ?_,
    fun hW himm hproof => ?_, fun hW => ⟨?_, ?_⟩, fun hW => ⟨?_, ?_⟩, fun hh => ?_, fun hh => ?_⟩
  · exact steps_of_park ((exec_yield g off s).trans (if_pos hp))
  · exact steps_of_advance_alone ((exec_yield g off s).trans (by rw [hp, hproof]; rfl))
  · refine steps_of_advance_aside ((exec_yield g off s).trans (by rw [hp, hproof]; rfl)) ?_
    rw [State.advance_rest]
  · exact steps_of_park ((exec_phint g off s).trans (if_pos hp))
  · exact steps_of_advance_alone ((exec_phint g off s).trans (by rw [hp]; rfl))
  · exact steps_of_advance_alone ((exec_sleep g imm s).trans (if_pos h))
  · refine steps_of_advance_aside ((exec_sleep g imm s).trans (if_neg ?_)) ?_
    · rintro (h | h | h)
      · exact hW h
      · exact himm h
      · exact absurd h (by simp [hproof])
    · rw [State.advance_rest]
  · exact steps_of_advance_alone ((exec_bkpt g imm s).trans (if_pos hW))
  · exact steps_of_advance_alone ((exec_trap g imm s).trans (if_pos hW))
  · exact raises_of_trap ((exec_bkpt g imm s).trans (if_neg hW)) (by decide) imm.isLt
  · exact raises_of_trap ((exec_trap g imm s).trans (if_neg hW)) (by decide) imm.isLt
  · exact raises_of_trap ((exec_rte g s).trans (by rw [hh]; rfl)) (by decide) (by decide)
  · exact steps_of_return ((exec_rte g s).trans (by rw [hh]; rfl))

end Sys2Proof.Machine

/-! PROOFS. The refutations of O4 and O6, whose statements let a predicate register be tagged U though its bits differ, and of
O7, whose statement lets V2S name any register number. -/

namespace Sys2Proof.Machine

/-! ### A register after an instruction -/

/-- A lane of a vector register of the executing warp after an instruction. -/
def State.laneAfter (s : State) (i : Instr) (n : Nat) (l : Fin 32) : Option Word :=
  match exec i s with
  | .next t => some ((t.me.vreg n).st.lane l)
  | _ => none

/-- What a vector result leaves in a live thread of W. -/
theorem laneAfter_of_vecResult {i : Instr} {s : State} {g : Guard} {scalar : Bool} {us : List Use} {d : Nat}
    {f : Fin 32 → Word} (h : VecResult i s g scalar us d fun l => plain (f l)) (hr : Ready s (s.wset g) scalar us [d])
    {l : Fin 32} (hl : s.me.live.getLsbD l.val = true) (hW : (s.wset g).getLsbD l.val = true) :
    s.laneAfter i d l = some (f l) := by
  obtain ⟨t, hexec, hwrites, -, -⟩ := h hr (.inr fun _ _ => BitVec.zero_and)
  have hlane := hwrites.results _ (List.mem_singleton_self _) l hl
  rw [State.laneAfter, hexec]
  exact congrArg some (hlane.trans (if_pos hW))

/-! ### A tag that its bits belie -/

/-- Two live threads, q0 true in the first alone but tagged U, v0 uniform, v65536 empty, in a launch with a handler. -/
def tornState : State :=
  { State.reset with
    warps := [(0, { Warp.blank with
      lanes := ((Vector.replicate 32 Lane.none).set 0 { Lane.none with st := .live }).set 1 { Lane.none with st := .live }
      vregs := [(0, ⟨.u 5, 0⟩), (65536, ⟨.n, 1⟩)]
      pregs := (Vector.replicate 7 ⟨0, true⟩).set 0 ⟨1, true⟩ })]
    launches := [(0, { Launch.blank with lpb := List.replicate 8 0 ++ [1] })]
    cur := ⟨0, 3, 0, 8⟩ }

/-- Refutes O4: under a predicate tagged U the model selects once for all lanes, by the bit of lane 0 (R91), so that where
lane 1 holds another bit SEL gives it 5 and not the 0 that the statement asks for. -/
theorem not_fieldAndSelectResults : ¬ Obligations.FieldAndSelectResults := by
  rintro ⟨-, -, -, -, hsel, -⟩
  have hr : Ready tornState (tornState.wset ⟨7, false⟩) false [⟨0, false, false⟩] [0] :=
    ⟨by decide, by decide, by decide, by decide, by decide⟩
  have hlane := laneAfter_of_vecResult (hsel tornState ⟨7, false⟩ 0 (.v 0 false false) .zs 0 false) hr (l := 1) (by decide)
    (by decide)
  exact absurd hlane (by decide)

/-- Refutes O6: P2V too (R119) computes once for all lanes under a predicate tagged U, so that lane 1, whose bit is false, gets
the 1 of lane 0. -/
theorem not_predicateResults : ¬ Obligations.PredicateResults := by
  rintro ⟨-, -, -, -, -, -, hp2v, -⟩
  have hr : Ready tornState (tornState.wset ⟨7, false⟩) false [] [0] :=
    ⟨by decide, by decide, by decide, by decide, by decide⟩
  have hlane := laneAfter_of_vecResult (hp2v tornState ⟨7, false⟩ 0 false 0) hr (l := 1) (by decide) (by decide)
  exact absurd hlane (by decide)

/-- Refutes O7: V2S of the empty register 65536 raises EMPTYREAD with a detail that the 16 bits of KCAUSE cannot hold. -/
theorem not_scalarPipeResults : ¬ Obligations.ScalarPipeResults := by
  rintro ⟨-, -, -, -, -, -, -, -, -, -, -, -, -, -, -, hv2s⟩
  obtain ⟨-, -, hempty⟩ := hv2s tornState ⟨7, false⟩ 0 ⟨65536, false, true⟩
  obtain ⟨hraise, -⟩ := (hempty (by decide) (by decide) (by decide)).1 rfl
  obtain ⟨t, -, he⟩ := hraise (by decide) (by decide)
  exact absurd he.detail_lt (by decide)

end Sys2Proof.Machine

/-! PROOFS. FP64 results of one, two and three pairs; and O10, which follows (R150). -/

namespace Sys2Proof.Machine

theorem givesD1_of_flagged {j : Guard → Nat → VSrc → Instr} {f : Dword → DOut}
    (hj : ∀ s g d a, exec (j g d a) s = s.double1 g d a f) : GivesD1 j f :=
  fun s g d a => pairResult_of_dmap (hj s g d a) fun h l => by rw [Warp.pair_of_pairU l h]

theorem givesD2_of_double2 {j : Guard → Nat → VSrc → VSrc → Instr} {f : Dword → Dword → DOut}
    (hj : ∀ s g d a b, exec (j g d a b) s = s.double2 g d a b f) : GivesD2 j f :=
  fun s g d a b => pairResult_of_dmap (hj s g d a b) fun h l => by
    obtain ⟨ha, hb⟩ := Bool.and_eq_true_iff.mp h
    rw [Warp.pair_of_pairU l ha, Warp.pair_of_pairU l hb]

theorem dfma_result (rm : Rm) :
    GivesD3 (fun g d a b c => .dfma g d rm a b c) fun x y z => outD rm (Val.fma rm (valD x) (valD y) (valD z)) :=
  fun s _ _ a b c => pairResult_of_dmap (u := s.me.pairU a && s.me.pairU b && s.me.pairU c) rfl fun h l => by
    obtain ⟨hab, hc⟩ := Bool.and_eq_true_iff.mp h
    obtain ⟨ha, hb⟩ := Bool.and_eq_true_iff.mp hab
    rw [Warp.pair_of_pairU l ha, Warp.pair_of_pairU l hb, Warp.pair_of_pairU l hc]

/-- Settles O10: each operation computes its own function of its sources' pairs, one computation serving pairs that are
equal in every lane. -/
theorem fp64Results : Obligations.Fp64Results :=
  ⟨fun _ => givesD2_of_double2 fun _ _ _ _ _ => rfl, fun _ => givesD2_of_double2 fun _ _ _ _ _ => rfl,
    fun _ => givesD2_of_double2 fun _ _ _ _ _ => rfl, dfma_result, givesD2_of_double2 fun _ _ _ _ _ => rfl,
    givesD2_of_double2 fun _ _ _ _ _ => rfl, fun _ _ => givesD1_of_flagged fun _ _ _ _ => rfl⟩

end Sys2Proof.Machine

/-! PROOFS. Integers placed in elements, rounding shifts, and O13, which follows (R159 to R163). -/

namespace Sys2Proof.Machine

/-! ### Integers in and out of elements (R72, R73, R75) -/

theorem elem_lt (x : Word) (hi : Bool) : elem x hi < 2 ^ 16 := Nat.mod_lt _ (by decide)

theorem intOf_elem (u : Bool) (x : Word) (hi : Bool) : intOf (!u) 16 (elem x hi) = intElem u x hi := by
  have := elem_lt x hi
  simp only [intOf, intElem, Nat.mod_eq_of_lt this]
  cases u
  · simp only [Bool.not_false, Bool.true_and, Bool.false_or, decide_eq_true_eq, ← not_lt, ite_not]
  · rfl

/-- An integer as it is placed: clamped under `sat` to the range of its type. -/
def placed (signed sat : Bool) (n : Nat) (x : Int) : Int :=
  if sat then max (intMin signed n) (min (intMax signed n) x) else x

theorem clampInt_eq {lo hi : Int} (h : lo ≤ hi) (x : Int) :
    clampInt lo hi x = (max lo (min hi x), max lo (min hi x) != x) := by
  unfold clampInt
  split
  next hlo =>
    have : max lo (min hi x) = lo := by omega
    rw [this, bne_iff_ne.mpr hlo.ne']
  next hlo =>
    split
    next hhi =>
      have : max lo (min hi x) = hi := by omega
      rw [this, bne_iff_ne.mpr hhi.ne]
    next hhi =>
      have : max lo (min hi x) = x := by omega
      rw [this, bne_self_eq_false]

theorem intMin_le_intMax (signed : Bool) (n : Nat) : intMin signed n ≤ intMax signed n := by
  have hpos (k : Nat) : (0 : Int) < 2 ^ k := by positivity
  have := hpos n
  have := hpos (n - 1)
  unfold intMin intMax
  split <;> omega

/-- SAT tells of a clamp that changed the value (R73). -/
theorem placeInt_eq (signed sat : Bool) (n : Nat) (x : Int) :
    placeInt signed sat n x = ⟨wrapInt n (placed signed sat n x), if placed signed sat n x = x then 0 else flagSAT⟩ := by
  cases sat
  · simp [placeInt, placed]
  · simp only [placeInt, placed, clampInt_eq (intMin_le_intMax signed n), if_true, flagIf, bne_iff_ne, ite_not]

theorem packOut_placeInt (u sat : Bool) (f : Bool → Int) :
    packOut (placeInt (!u) sat 16 (f false)) (placeInt (!u) sat 16 (f true)) = packInts u sat f := by
  have hc (h : Bool) : placed (!u) sat 16 (f h) =
      if sat then max (if u then 0 else -2 ^ 15) (min (if u then 2 ^ 16 - 1 else 2 ^ 15 - 1) (f h)) else f h := by
    cases u <;> rfl
  have hw (x : Int) : wrapInt 16 x % 2 ^ 16 = (x % 2 ^ 16).toNat := by
    unfold wrapInt
    omega
  simp only [packOut, packInts, placeInt_eq, hw, ← hc]
  congr 1
  cases sat
  · simp [placed]
  · by_cases h0 : placed (!u) true 16 (f false) = f false <;> by_cases h1 : placed (!u) true 16 (f true) = f true <;>
      simp [h0, h1]

theorem wrapped_packOut (u : Bool) (f : Bool → Int) :
    packOut ⟨wrapInt 16 (f false), 0⟩ ⟨wrapInt 16 (f true), 0⟩ = packInts u false f :=
  packOut_placeInt u false f

/-! ### Rounding shifts (R162, R163) -/

/-- Half of the divisor added rounds to the nearest, ties up. -/
theorem add_half_div (x : Int) {h : Int} (hpos : 0 < h) :
    (x + h) / (2 * h) = if x % (2 * h) < h then x / (2 * h) else x / (2 * h) + 1 := by
  have hr := Int.emod_nonneg x (show 2 * h ≠ 0 by omega)
  have hlt := Int.emod_lt_of_pos x (show 0 < 2 * h by omega)
  have hx : x + h = x % (2 * h) + h + 2 * h * (x / (2 * h)) := by
    have := Int.emod_add_mul_ediv x (2 * h)
    omega
  rw [hx, Int.add_mul_ediv_left _ _ (by omega)]
  split
  next hlow => rw [Int.ediv_eq_zero_of_lt (by omega) (by omega), Int.zero_add]
  next hhigh =>
    have : x % (2 * h) + h = (x % (2 * h) - h) + 2 * h * 1 := by ring
    rw [this, Int.add_mul_ediv_left _ _ (by omega), Int.ediv_eq_zero_of_lt (by omega) (by omega)]
    ring

theorem roundShift_eq (he : Bool) (width : Nat) (x : Int) (n : Nat) :
    roundShift he width x n = roundedShift he width x n := by
  cases n with
  | zero => rfl
  | succ k =>
    have hpos : (0 : Int) < 2 ^ k := by positivity
    have htwo : (2 : Int) ^ (k + 1) = 2 * 2 ^ k := by ring
    unfold roundShift roundedShift
    simp only [Nat.add_sub_cancel, htwo, add_half_div x hpos]
    generalize (2 : Int) ^ k = h at *
    generalize x / (2 * h) = q
    generalize x % (2 * h) = r
    split
    next => rfl
    split
    next => rfl
    rcases lt_trichotomy r h with hr | rfl | hr
    · simp [hr, hr.ne]
    · cases he
      · simp
      · rcases Int.emod_two_eq_zero_or_one q with hq | hq
        · have : (q + 1) % 2 = 1 := by omega
          simp [hq, this]
        · have : (q + 1) % 2 = 0 := by omega
          simp [hq, this]
    · simp [hr.not_gt, hr.ne', hr]

/-! ### What the instructions compute in a lane -/

theorem gives2_of_packed2 {j : Guard → Nat → Src → Src → Instr} {sat u : Bool} {op : Int → Int → Int}
    (hj : ∀ s g d a b, exec (j g d a b) s = s.packed2 g d sat u a b op) :
    Gives2 j fun a b => packInts u sat fun h => op (intElem u a h) (intElem u b h) :=
  gives2_of_float2 fun s g d a b => (hj s g d a b).trans <| congrArg (s.float2 g d a b) <| funext₂ fun x y => by
    simp only [← packOut_placeInt, ← intOf_elem]

/-- The sum of products clamped to a word, and SAT where that changed it (R161). -/
theorem dotProduct_eq (ua ub : Bool) (a b c : Word) :
    let v := c.toInt + intElem ua a false * intElem ub b false + intElem ua a true * intElem ub b true
    let w := max (-2 ^ 31) (min (2 ^ 31 - 1) v)
    dotProduct ua ub a b c = ⟨BitVec.ofInt 32 w, if w = v then 0 else flagSAT⟩ := by
  intro v w
  have hbits (x : Int) : BitVec.ofNat 32 (wrapInt 32 x) = BitVec.ofInt 32 x := by
    apply BitVec.eq_of_toNat_eq
    rw [BitVec.toNat_ofNat, BitVec.toNat_ofInt]
    unfold wrapInt
    omega
  simp only [dotProduct, intOf_elem, placeInt_eq, Rounded.out, hbits]
  rfl

/-- What SHRR computes in a lane (R162). -/
def shrrOut (he s16 : Bool) (a b : Word) : FOut :=
  let r := roundShift he 32 a.toInt b.toNat
  let c := clampInt (intMin true 16) (intMax true 16) r
  if s16 then ⟨BitVec.ofInt 32 c.1, flagIf c.2 flagSAT⟩ else ⟨BitVec.ofInt 32 r, 0⟩

theorem exec_shrr (s : State) (g : Guard) (d : Nat) (he s16 : Bool) (a b : Src) :
    exec (.shrr g d he s16 a b) s = s.float2 g d a b (shrrOut he s16) := rfl

theorem shrrOut_eq (he s16 : Bool) (a b : Word) :
    let r := roundedShift he 32 a.toInt b.toNat
    let w := max (-2 ^ 15) (min (2 ^ 15 - 1) r)
    shrrOut he s16 a b =
      if s16 then ⟨BitVec.ofInt 32 w, if w = r then 0 else flagSAT⟩ else plain (BitVec.ofInt 32 r) := by
  intro r w
  have hclamp : clampInt (intMin true 16) (intMax true 16) r = (w, w != r) := clampInt_eq (intMin_le_intMax true 16) r
  simp only [shrrOut, roundShift_eq, ← show r = roundedShift he 32 a.toInt b.toNat from rfl, hclamp, flagIf, bne_iff_ne,
    ite_not, plain]

/-- Settles O13: elements are read as integers, computed apart, placed by wrap or clamp, and packed. -/
theorem packedIntegerResults : Obligations.PackedIntegerResults := by
  refine ⟨fun _ _ => gives2_of_packed2 fun _ _ _ _ _ => rfl, fun _ _ => gives2_of_packed2 fun _ _ _ _ _ => rfl,
    fun _ _ => gives2_of_packed2 fun _ _ _ _ _ => rfl, fun _ => gives2_of_packed2 fun _ _ _ _ _ => rfl,
    fun _ => gives2_of_packed2 fun _ _ _ _ _ => rfl, fun sat => ?_, fun u => ?_, fun ua ub => ?_, fun he s16 => ?_,
    fun he u => ?_⟩
  · simp only [← packOut_placeInt, ← intOf_elem]
    exact gives1_of_float1 fun _ _ _ _ => rfl
  · simp only [← packOut_placeInt]
    exact gives2_of_float2 fun _ _ _ _ _ => rfl
  · simp only [← dotProduct_eq]
    exact gives3_of_float3 fun _ _ _ _ _ _ => rfl
  · simp only [← shrrOut_eq]
    exact gives2_of_float2 fun s g d a b => exec_shrr s g d he s16 a b
  · simp only [← wrapped_packOut, ← intOf_elem, ← roundShift_eq]
    exact gives2_of_float2 fun _ _ _ _ _ => rfl

end Sys2Proof.Machine

/-! PROOFS. Values moved between lanes, votes and matches, slides, and intersections of lists; and O15, which follows (R164 to
R167, R171 to R173). -/

namespace Sys2Proof.Machine

/-! ### SHFL, BCAST, VOTE and MATCH (R165 to R167, R171) -/

theorem shflLane_eq (mode : ShflMode) (k l : Nat) (x : Word) : shflLane mode k l x = shuffleSource mode (2 ^ k) l x := by
  have hle := Nat.mod_le l (2 ^ k)
  have hbase : l - l % 2 ^ k = l / 2 ^ k * 2 ^ k := by
    have := Nat.mod_add_div' l (2 ^ k)
    omega
  have hin : l % 2 ^ k = l - l / 2 ^ k * 2 ^ k := by omega
  cases mode <;> simp only [shflLane, shuffleSource, hbase]
  case rot =>
    have hint : ((l % 2 ^ k : Nat) : Int) = l - ((l / 2 ^ k * 2 ^ k : Nat) : Int) := by omega
    have hpos := Int.emod_nonneg (l - ((l / 2 ^ k * 2 ^ k : Nat) : Int) + x.toInt) (b := ((2 ^ k : Nat) : Int)) (by simp)
    rw [hint]
    exact Int.toNat_add (Int.natCast_nonneg _) hpos
  case xor => rw [hin]
  case rev => rw [hin]

section
variable {i : Instr} {s : State} {g : Guard} {scalar : Bool} {us : List Use} {d k : Nat} {a b : Src}

/-- An instruction that computes a value without flags in each lane. -/
theorem vecResult_of_words {f : Fin 32 → Word} (hi : exec i s = s.compute g scalar us (Effect.vec d (.g (Lanes.of f)))) :
    VecResult i s g scalar us d fun l => plain (f l) :=
  vecResult_plain hi fun l => by rw [Storage.lane_g, Lanes.of_get]

theorem shfl_result {mode : ShflMode} :
    VecResult (.shfl g d mode k a b) s g (a.scalar || (mode != .rev && b.scalar))
      (if mode == .rev then a.uses 1 else a.uses 1 ++ b.uses 1) d fun l =>
        plain (s.me.liveLane a (Fin.ofNat 32 (shuffleSource mode (2 ^ k) l.val (s.me.liveLane b l)))) := by
  simp only [← shflLane_eq]
  exact vecResult_of_words rfl

theorem shfl_operand_result {mode : ShflMode} (hmode : mode ≠ .rev) :
    VecResult (.shfl g d mode k a b) s g (a.scalar || b.scalar) (a.uses 1 ++ b.uses 1) d fun l =>
      plain (s.me.liveLane a (Fin.ofNat 32 (shuffleSource mode (2 ^ k) l.val (s.me.liveLane b l)))) := by
  have := shfl_result (s := s) (g := g) (d := d) (k := k) (a := a) (b := b) (mode := mode)
  rwa [bne_iff_ne.mpr hmode, beq_eq_false_iff_ne.mpr hmode] at this

theorem shfl_rev_result :
    VecResult (.shfl g d .rev k a b) s g a.scalar (a.uses 1) d fun l =>
      plain (s.me.liveLane a (Fin.ofNat 32 (shuffleSource .rev (2 ^ k) l.val 0))) := by
  have := shfl_result (s := s) (g := g) (d := d) (k := k) (a := a) (b := b) (mode := .rev)
  rwa [bne_self_eq_false, Bool.false_and, Bool.or_false] at this

theorem bcast_result : VecResult (.bcast g d false a b) s g (a.scalar || b.scalar) (a.uses 1 ++ b.uses 1) d fun _ =>
    plain (s.me.liveLane a (Fin.ofNat 32 ((s.me.liveLane b (s.wset g).lowest).toNat % 32))) :=
  vecResult_plain rfl fun _ => congrArg (s.me.liveLane a) (Fin.ext (Nat.mod_mod _ 32).symm)

theorem bcast_low_result : VecResult (.bcast g d true a b) s g a.scalar (a.uses 1) d fun _ =>
    plain (s.me.liveLane a (s.wset g).lowest) := by
  refine vecResult_plain ?_ (st := .u (s.me.liveLane a (s.wset g).lowest)) fun _ => rfl
  conv_rhs => rw [← Bool.or_false a.scalar]
  rfl

theorem vote_result (mode : VoteMode) (qa : Nat) : VecResult (.vote g d mode false qa) s g false [] d fun _ =>
    plain (voteValue mode (s.wset g) (s.me.pred qa)) :=
  vecResult_plain rfl fun _ => rfl

theorem vote_pred_result (mode : VoteMode) (qa : Nat) : PredResult (.vote g d mode true qa) s g false [] d fun _ =>
    (voteValue mode (s.wset g) (s.me.pred qa) != 0, 0) := by
  refine predResult_of_compute _ s g _ _ d _ _ LaneFlags.zero rfl (fun l => ?_) LaneFlags.zero_get
  dsimp only
  split
  next h => simp [h]
  next h =>
    rw [bne_iff_ne.mpr h]
    exact (BitVec.getLsbD_allOnes (v := 32)).trans (decide_eq_true l.isLt)

theorem voteValue_eq (mode : VoteMode) (W p : LaneMask) : voteValue mode W p =
    let n := LaneMask.count (W &&& p)
    match mode with
    | .cnt => BitVec.ofNat 32 n
    | .mask => W &&& p
    | .some => if 1 ≤ n then 1 else 0
    | .each => if n = LaneMask.count W then 1 else 0
    | .same => if n = 0 ∨ n = LaneMask.count W then 1 else 0
    | .odd => if n % 2 = 1 then 1 else 0 := by
  cases mode <;> simp [voteValue]

theorem match_result : VecResult (.match g d a) s g a.scalar (a.uses 1) d fun l =>
    let same := (LaneMask.lanes (s.wset g)).filter fun k => s.me.liveLane a k == s.me.liveLane a l
    plain (BitVec.ofNat 32
      (same.length * 2 ^ 16 + (same.countP fun k => decide (k < l)) * 2 ^ 8 + (same.headD 0).val)) := by
  simp only [List.countP_eq_length_filter, List.headD_eq_head?_getD]
  exact vecResult_of_words rfl

end

/-! ### SLIDE (R172) -/

/-- What SLIDE delivers at position `p`, which is in lane `l`, by the position that it comes from. -/
def slideFrom (up half : Bool) (fill : Fill) (n : Nat) (a b c : Fin 32 → Word) (l : Fin 32) (p : Nat) : Nat :=
  let P : Int := if half then 64 else 32
  let q : Int := if up then (p : Int) - n else p + n
  if 0 ≤ q ∧ q < P then slideAt half a q.toNat
  else match fill with
    | .fb => slideAt half b (if up then q + P else q - P).toNat
    | .fc => if half then (c l).toNat % 2 ^ 16 else (c l).toNat
    | .fz => 0
    | .fe => slideAt half a (if up then 0 else P - 1 : Int).toNat

theorem slideValue_eq {up half : Bool} (fill : Fill) {n p : Nat} (a b c : Fin 32 → Word) {l : Fin 32}
    (hn : n ≤ if half then 64 else 32) (hp : (if half then p / 2 else p) = l.val) :
    slideValue up half fill n a b c p = slideFrom up half fill n a b c l p := by
  have hlane : Fin.ofNat 32 (if half then p / 2 else p) = l := by rw [hp]; exact Fin.ofNat_val_eq_self l
  have hlt : p < if half then 64 else 32 := by
    cases half with
    | true => exact Nat.lt_mul_of_div_lt ((show p / 2 = l.val from hp).trans_lt l.isLt) (by decide)
    | false => exact (show p = l.val from hp).trans_lt l.isLt
  have hP : (if half then 64 else 32 : Int) = (if half then 64 else 32 : Nat) := by split <;> rfl
  simp only [slideValue, slideFrom, hlane, hP]
  generalize (if half then 64 else 32) = P at hn hlt
  cases up with
  | true =>
    simp only [if_true, decide_eq_true_eq]
    by_cases h : n ≤ p
    · have hq : 0 ≤ (p : Int) - n ∧ (p : Int) - n < P := by omega
      rw [if_pos h, if_pos hq, Int.toNat_sub]
    · have hq : ¬(0 ≤ (p : Int) - n ∧ (p : Int) - n < P) := by omega
      have hb : ((p : Int) - n + P).toNat = p + P - n := by omega
      rw [if_neg h, if_neg hq]
      cases fill with
      | fb => exact congrArg (slideAt half b) hb.symm
      | fc => rfl
      | fz => rfl
      | fe => rfl
  | false =>
    simp only [Bool.false_eq_true, if_false, decide_eq_true_eq]
    by_cases h : p + n < P
    · have hq : 0 ≤ (p : Int) + n ∧ (p : Int) + n < P := by omega
      rw [if_pos h, if_pos hq]
      rfl
    · have hq : ¬(0 ≤ (p : Int) + n ∧ (p : Int) + n < P) := by omega
      have hb : ((p : Int) + n - P).toNat = p + n - P := by omega
      have he : ((P : Int) - 1).toNat = P - 1 := by omega
      rw [if_neg h, if_neg hq]
      cases fill with
      | fb => exact congrArg (slideAt half b) hb.symm
      | fc => rfl
      | fz => rfl
      | fe => exact congrArg (slideAt half a) he.symm

theorem slide_result {s : State} {g : Guard} {d n : Nat} {a b c : Src} {up half : Bool} {fill : Fill}
    (hn : n ≤ if half then 64 else 32) :
    VecResult (.slide g d up half fill n a b c) s g (a.scalar || (fill == .fb && b.scalar) || (fill == .fc && c.scalar))
      (a.uses 1 ++ (if fill == .fb then b.uses 1 else []) ++ (if fill == .fc then c.uses 1 else [])) d fun l =>
        let v := slideFrom up half fill n (s.me.liveLane a) (s.me.liveLane b) (s.me.liveLane c) l
        plain (if half then BitVec.ofNat 32 (v (2 * l.val) + 2 ^ 16 * v (2 * l.val + 1)) else BitVec.ofNat 32 (v l.val)) := by
  refine vecResult_plain (st := .g (Lanes.of _)) rfl fun l => ?_
  rw [Storage.lane_g, Lanes.of_get]
  cases half with
  | true =>
    simp only [if_true]
    rw [slideValue_eq (l := l) fill _ _ _ hn (by simp), slideValue_eq (l := l) fill _ _ _ hn (by simp; omega)]
  | false =>
    simp only [Bool.false_eq_true, if_false]
    rw [slideValue_eq (l := l) fill _ _ _ hn rfl]

/-! ### INTERSECT (R173) -/

/-- What a change writes is told by the values of its results in the threads of W. -/
theorem Writes.of_eq_on {s t : State} {c : Change} {regs : List (Nat × (Fin 32 → Word))} (hw : Writes s t c)
    (hfst : regs.map Prod.fst = c.regs.map Prod.fst)
    (heq : ∀ r ∈ regs, ∃ r' ∈ c.regs, r'.1 = r.1 ∧ ∀ l : Fin 32, c.W.getLsbD l.val = true → r'.2 l = r.2 l) :
    Writes s t { c with regs := regs } := by
  refine { hw with
    vregs := hfst ▸ hw.vregs
    freed := hfst ▸ hw.freed
    results := fun r hr l hl => ?_
    full := fun r hr => ?_ }
  · obtain ⟨r', hr', hnum, hval⟩ := heq r hr
    rw [← hnum, hw.results r' hr' l hl]
    split
    next hW => exact hval l hW
    next => rfl
  · obtain ⟨r', hr', hnum, -⟩ := heq r hr
    rw [← hnum, hw.full r' hr']

theorem PairResult.of_eq_on {i : Instr} {s : State} {g : Guard} {scalar : Bool} {us : List Use} {d : Nat}
    {f f' : Fin 32 → Dword} (h : PairResult i s g scalar us d fun l => plain64 (f l))
    (heq : ∀ l : Fin 32, (s.wset g).getLsbD l.val = true → f l = f' l) :
    PairResult i s g scalar us d fun l => plain64 (f' l) := by
  intro hr ht
  obtain ⟨t, hnext, hw, hmoves, honly⟩ := h hr ht
  refine ⟨t, hnext, hw.of_eq_on rfl ?_, hmoves, honly⟩
  simp only [List.forall_mem_cons, List.not_mem_nil, false_implies, implies_true, and_true]
  exact ⟨⟨_, List.mem_cons_self, rfl, fun l hl => congrArg (fun x : Dword => x.truncate 32) (heq l hl)⟩,
    ⟨_, List.mem_cons_of_mem _ List.mem_cons_self, rfl, fun l hl =>
      congrArg (fun x : Dword => (x >>> 32).truncate 32) (heq l hl)⟩⟩

/-- The lanes of W that hold an entry of a list. -/
def listed (W : LaneMask) (x : Fin 32 → Word) : List (Fin 32) :=
  (LaneMask.lanes W).filter fun k => x k != 0xFFFFFFFF

theorem entriesOf_eq (W : LaneMask) (x : Fin 32 → Word) :
    entriesOf W x = (listed W x).map fun k => (k.val, (x k).toNat) := by
  rw [entriesOf, listed, List.filter_map]
  congr 1
  refine List.filter_congr fun k _ => ?_
  rw [Function.comp_apply, Bool.eq_iff_iff, bne_iff_ne, bne_iff_ne, Ne, Ne, ← BitVec.toNat_inj]
  rfl

/-- The place of a thread of W among them is how many come before it. -/
theorem idxOf_lanes {W : LaneMask} {l : Fin 32} (h : l ∈ LaneMask.lanes W) :
    (LaneMask.lanes W).idxOf l = (LaneMask.lanes W).countP fun m => decide (m < l) := by
  have hs := LaneMask.lanes_sorted W
  generalize LaneMask.lanes W = ls at h hs
  induction ls with
  | nil => cases h
  | cons m ms ih =>
    obtain ⟨hm, hs⟩ := List.pairwise_cons.mp hs
    rcases List.mem_cons.mp h with rfl | h
    · rw [List.idxOf_cons_self, eq_comm, List.countP_eq_zero]
      exact List.forall_mem_cons.mpr ⟨by simp, fun k hk => by simpa using (hm k hk).le⟩
    · have hlt := hm l h
      rw [List.idxOf_cons_ne _ hlt.ne, ih h hs, List.countP_cons_of_pos (p := fun m => decide (m < l)) (decide_eq_true hlt)]

section
variable (W : LaneMask) (a b : Fin 32 → Word)

/-- The lesser of the last entries of two lists. -/
def listLimit : Nat := min (a ((listed W a).getLastD 0)).toNat (b ((listed W b).getLastD 0)).toNat

/-- The entries of a list that a step of a merge consumes. -/
def advanced (x : Fin 32 → Word) : Nat :=
  if (listed W a).isEmpty || (listed W b).isEmpty then 0
  else (listed W x).countP fun k => decide ((x k).toNat ≤ listLimit W a b)

/-- The pairs of lanes with equal entries that fit the threads of W. -/
def matchedPairs : List (Fin 32 × Fin 32) :=
  ((List.product (listed W a) (listed W b)).filter fun p => a p.1 == b p.2).take (LaneMask.count W)

/-- The lanes of a matched pair as a number, all ones for none. -/
def pairLanes (p : Option (Fin 32 × Fin 32)) : Nat :=
  match p with
  | some p => p.1.val + p.2.val * 2 ^ 8
  | none => 0xFFFFFFFF

theorem pairLanes_lt (p : Option (Fin 32 × Fin 32)) : pairLanes p < 2 ^ 32 := by
  cases p with
  | none => decide
  | some p => simp only [pairLanes]; omega

/-- The counts of an intersection: pairs, and what it consumes of each list. -/
def intersectCounts : Nat :=
  (matchedPairs W a b).length * 2 ^ 16 + advanced W a b b * 2 ^ 8 + advanced W a b a

/-- What INTERSECT delivers to the thread of W before which come `k` others. -/
def intersectWord (k : Nat) : Dword :=
  BitVec.ofNat 64 (pairLanes (matchedPairs W a b)[k]? + 2 ^ 32 * intersectCounts W a b)

theorem entries_flatMap_eq :
    ((entriesOf W a).flatMap fun x => ((entriesOf W b).filter fun y => y.2 == x.2).map fun y => (x.1, y.1)) =
      ((List.product (listed W a) (listed W b)).filter fun p => a p.1 == b p.2).map fun p => (p.1.val, p.2.val) := by
  have heq (j k : Fin 32) : ((b k).toNat == (a j).toNat) = (a j == b k) := by
    rw [Bool.eq_iff_iff, beq_iff_eq, beq_iff_eq, BitVec.toNat_inj, eq_comm]
  simp only [entriesOf_eq, List.product, List.flatMap_map, List.filter_flatMap, List.map_flatMap, List.filter_map,
    List.map_map, Function.comp_def, heq]

theorem entriesOf_isEmpty : (entriesOf W a).isEmpty = (listed W a).isEmpty := by
  rw [entriesOf_eq, List.isEmpty_map]

theorem entriesOf_last (h : (listed W a).isEmpty = false) :
    ((entriesOf W a).getLast?.map Prod.snd).getD 0 = (a ((listed W a).getLastD 0)).toNat := by
  rw [entriesOf_eq, List.getLast?_map, List.getLastD_eq_getLast?]
  cases hl : (listed W a).getLast? with
  | none =>
    rw [List.getLast?_eq_none_iff.mp hl] at h
    cases h
  | some k => rfl

theorem entriesOf_advanced (x : Fin 32 → Word) :
    (if (entriesOf W a).isEmpty || (entriesOf W b).isEmpty then 0
      else ((entriesOf W x).filter fun p => decide (p.2 ≤ min (((entriesOf W a).getLast?.map Prod.snd).getD 0)
        (((entriesOf W b).getLast?.map Prod.snd).getD 0))).length) = advanced W a b x := by
  rw [advanced, entriesOf_isEmpty, entriesOf_isEmpty]
  split
  next => rfl
  next h =>
    rw [Bool.not_eq_true, Bool.or_eq_false_iff] at h
    rw [entriesOf_last W a h.1, entriesOf_last W b h.2, entriesOf_eq, List.filter_map, List.length_map,
      ← List.countP_eq_length_filter]
    rfl

end

section
variable {s : State} {g : Guard} {d : Nat} {a b : Src}

theorem exec_intersect : exec (.intersect g d a b) s = s.compute g (a.scalar || b.scalar) (a.uses 1 ++ b.uses 1)
    (Effect.pair d
      (.g (Lanes.of fun l => BitVec.ofNat 32
        (pairLanes (matchedPairs (s.wset g) (s.me.liveLane a) (s.me.liveLane b))[(LaneMask.lanes (s.wset g)).idxOf l]?)))
      (.u (BitVec.ofNat 32 (intersectCounts (s.wset g) (s.me.liveLane a) (s.me.liveLane b))))) := by
  change execIntersect g d a b s = _
  simp only [execIntersect, entries_flatMap_eq, entriesOf_advanced, ← List.map_take, List.length_map, List.getElem?_map]
  congr 4
  funext l
  rw [matchedPairs, LaneMask.count]
  generalize List.take (α := Fin 32 × Fin 32) _ _ = ps
  cases ps[(LaneMask.lanes (s.wset g)).idxOf l]? <;> rfl

theorem intersect_result : PairResult (.intersect g d a b) s g (a.scalar || b.scalar) (a.uses 1 ++ b.uses 1) d fun l =>
    plain64 (intersectWord (s.wset g) (s.me.liveLane a) (s.me.liveLane b)
      ((LaneMask.lanes (s.wset g)).countP fun m => decide (m < l))) := by
  have hplace : PairResult (.intersect g d a b) s g (a.scalar || b.scalar) (a.uses 1 ++ b.uses 1) d fun l =>
      plain64 (intersectWord (s.wset g) (s.me.liveLane a) (s.me.liveLane b) ((LaneMask.lanes (s.wset g)).idxOf l)) := by
    refine pairResult_plain exec_intersect (fun l => ?_) fun l => ?_
    · rw [Storage.lane_g, Lanes.of_get, intersectWord, ← ofNat_low_half, BitVec.ofNat_add, BitVec.ofNat_mul]
      simp
    · rw [Storage.lane_u, intersectWord, ← ofNat_high_half, Nat.add_mul_div_left _ _ (by decide),
        Nat.div_eq_of_lt (pairLanes_lt _), Nat.zero_add]
  exact hplace.of_eq_on fun l hl => by rw [idxOf_lanes (LaneMask.mem_lanes.mpr hl)]

end

/-- Settles O15: each instruction by the lane, the position or the entries that its threads read. -/
theorem crossLaneResults : Obligations.CrossLaneResults := by
  intro s g d a b c
  refine ⟨fun mode k hmode _ _ => shfl_operand_result hmode, fun k _ _ => shfl_rev_result, bcast_result, bcast_low_result,
    fun mode qa => ?_, match_result, fun up half fill n hn => slide_result hn, ?_⟩
  · intro p n v
    have hv : v = voteValue mode (s.wset g) p := (voteValue_eq mode (s.wset g) p).symm
    rw [hv]
    exact ⟨vote_result mode qa, fun _ _ => vote_pred_result mode qa⟩
  · exact intersect_result

end Sys2Proof.Machine

/-! PROOFS. Accesses of memory whose lanes all find their bytes on this device: what they read, what they write, and what
they leave (R176, R180, R184 to R186, R194). -/

namespace Sys2Proof.Machine

/-! ### What an access changes beside its warp -/

/-- Beside the executing warp and its launch an access changes at most what `Accesses` allows. -/
structure Touched (s t : State) : Prop where
  rest : t = { s with ext := t.ext, ctxs := t.ctxs, cores := t.cores, tags := t.tags, mem := t.mem, blocks := t.blocks,
                      oldCode := t.oldCode }
  ctxs : ∀ c, t.ctx c = { s.ctx c with faults := (t.ctx c).faults, tlb := (t.ctx c).tlb }
  cores : ∀ c, t.core c = { s.core c with lamport := (t.core c).lamport, collector := (t.core c).collector,
                                          collectorAge := (t.core c).collectorAge }
  blocks : ∀ b, t.block b = { s.block b with version := (t.block b).version, verLines := (t.block b).verLines,
                                             verTags := (t.block b).verTags }

/-- An access that leaves every byte as it was. -/
structure Consulted (s t : State) : Prop where
  touched : Touched s t
  mem : t.mem = s.mem
  blocks : t.blocks = s.blocks
  code : t.oldCode = s.oldCode

section
variable {s t u : State}

theorem Touched.refl (s : State) : Touched s s := ⟨rfl, fun _ => rfl, fun _ => rfl, fun _ => rfl⟩

theorem Touched.trans (h : Touched s t) (k : Touched t u) : Touched s u :=
  ⟨by rw [k.rest, h.rest], fun c => by rw [k.ctxs, h.ctxs], fun c => by rw [k.cores, h.cores],
    fun b => by rw [k.blocks, h.blocks]⟩

theorem Consulted.refl (s : State) : Consulted s s := ⟨Touched.refl s, rfl, rfl, rfl⟩

theorem Consulted.trans (h : Consulted s t) (k : Consulted t u) : Consulted s u :=
  ⟨h.touched.trans k.touched, k.mem.trans h.mem, k.blocks.trans h.blocks, k.code.trans h.code⟩

theorem Touched.me (h : Touched s t) : t.me = s.me := by
  rw [h.rest]
  rfl

theorem Touched.cur (h : Touched s t) : t.cur = s.cur := by rw [h.rest]

theorem Touched.launches (h : Touched s t) : t.launches = s.launches := by rw [h.rest]

theorem Touched.warps (h : Touched s t) : t.warps = s.warps := by rw [h.rest]

theorem Touched.launchOf (h : Touched s t) (b : Nat) : (t.block b).launch = (s.block b).launch := by rw [h.blocks]

end

/-! ### The parts of an access that touch no byte -/

section
variable (s : State)

/-- A machine of which clocks and tags have changed alone. -/
structure Clocked (s t : State) : Prop where
  rest : t = { s with cores := t.cores, tags := t.tags }
  cores : ∀ c, t.core c = { s.core c with lamport := (t.core c).lamport }

theorem Clocked.refl : Clocked s s := ⟨rfl, fun _ => rfl⟩

theorem Clocked.trans {s t u : State} (h : Clocked s t) (k : Clocked t u) : Clocked s u :=
  ⟨by rw [k.rest, h.rest], fun c => by rw [k.cores, h.cores]⟩

theorem Clocked.consulted {s t : State} (h : Clocked s t) : Consulted s t := by
  obtain ⟨co, tg, rfl⟩ : ∃ co tg, t = { s with cores := co, tags := tg } := ⟨_, _, h.rest⟩
  refine ⟨⟨rfl, fun _ => rfl, fun c => ?_, fun _ => rfl⟩, rfl, rfl, rfl⟩
  rw [h.cores]

theorem State.setCore_clocked (core n : Nat) : Clocked s (s.setCore core { s.core core with lamport := n }) := by
  refine ⟨rfl, fun c => ?_⟩
  by_cases hc : c = core
  · subst hc
    rw [State.core_setCore_same]
  · rw [State.core_setCore_other _ _ _ _ hc]

theorem State.setTag_clocked (loc n ts : Nat) : Clocked s (s.setTag loc n ts) := ⟨rfl, fun _ => rfl⟩

/-- Ordering flags move clocks and tags alone (R282). -/
theorem State.order_clocked (core : Nat) (acq rel lam : Bool) (sc : Scope) (key n : Nat) (writes : Bool) :
    Clocked s (s.order core acq rel lam sc key n writes) := by
  have hclock := s.setCore_clocked core
  unfold State.order
  dsimp only
  split
  · split
    · exact (hclock _).trans (State.setTag_clocked _ _ _ _)
    · exact hclock _
  · have hread : Clocked s (if (acq && wideScope sc) = true then
        s.setCore core { s.core core with lamport := max (s.core core).lamport (s.tag key n) } else s) := by
      split
      · exact hclock _
      · exact Clocked.refl s
    split
    · exact hread.trans (State.setTag_clocked _ _ _ _)
    · exact hread

theorem State.order_consulted (core : Nat) (acq rel lam : Bool) (sc : Scope) (key n : Nat) (writes : Bool) :
    Consulted s (s.order core acq rel lam sc key n writes) := (State.order_clocked s _ _ _ _ _ _ _ _).consulted

/-- Without ordering flags an access moves no clock. -/
theorem State.order_plain (core : Nat) (sc : Scope) (key n : Nat) (writes : Bool) :
    s.order core false false false sc key n writes = s := rfl

/-- A context whose cached entries or waiting faults have changed. -/
theorem State.setCtx_account (c : Nat) (x : Context) (hx : x = { s.ctx c with faults := x.faults, tlb := x.tlb }) :
    Consulted s (s.setCtx c x) := by
  refine ⟨⟨rfl, fun d => ?_, fun _ => rfl, fun _ => rfl⟩, rfl, rfl, rfl⟩
  by_cases hd : d = c
  · subst hd
    rw [State.ctx_setCtx_same]
    exact hx
  · rw [State.ctx_setCtx_other _ _ _ _ hd]

theorem State.cacheWalks_consulted (ctx : Nat) (need : Need) (vas : List Nat) : Consulted s (s.cacheWalks ctx need vas) := by
  unfold State.cacheWalks
  dsimp only
  split
  · exact Consulted.refl s
  · exact s.setCtx_account _ _ rfl

theorem State.settle_consulted (ctx : Nat) (who : FaultWho) : Consulted s (s.settle ctx who) := by
  unfold State.settle
  dsimp only
  split
  · exact s.setCtx_account _ _ rfl
  · exact Consulted.refl s

theorem State.dropKept_consulted (who : FaultWho) : Consulted s (s.dropKept who) :=
  ⟨⟨rfl, fun _ => rfl, fun _ => rfl, fun _ => rfl⟩, rfl, rfl, rfl⟩

end

/-! ### Bytes read and written -/

section
variable {s t : State}

theorem State.version_congr (hb : t.blocks = s.blocks) (hl : t.launches = s.launches) (bk : Nat) :
    t.version bk = s.version bk := by
  unfold State.version State.versioned State.block State.launch
  rw [hb, hl]

theorem State.versioned_congr (hb : t.blocks = s.blocks) (hl : t.launches = s.launches) (bk : Nat) :
    t.versioned bk = s.versioned bk := by
  unfold State.versioned State.launch
  rw [hb, hl]

theorem State.readAt_congr (hm : t.mem = s.mem) (ver : List (Nat × Byte)) (x : Xlat) (n : Nat) :
    t.readAt ver x n = s.readAt ver x n := by
  unfold State.readAt State.discarded State.locByte
  rw [hm]

theorem Mem.read_eq_leNat (m : Mem) (a n : Nat) : m.read a n = leNat (m.bytes a n) := by
  induction n generalizing a with
  | zero => rfl
  | succ n ih => rw [Mem.read, Mem.bytes, leNat, ih]

/-- Outside every version a page that is not discarded reads as memory. -/
theorem State.readAt_mem (hv : s.versioned bk = false) {x : Xlat} (hd : x.disc = false) (n : Nat) :
    s.readAt (s.version bk) x n = s.mem.read x.loc n := by
  have hver : s.version bk = [] := by rw [State.version, hv]; rfl
  rw [hver, Mem.read_eq_leNat, Mem.bytes_eq_map]
  simp [State.readAt, State.locByte, Map.find, State.discarded, hd]

end

section
variable {s t : State} {ctx bk : Nat} {who : FaultWho} {x : Xlat} {bs : List Byte}

theorem State.ownWrite_rest (s : State) (bk loc n : Nat) :
    s.ownWrite bk loc n = { s with oldCode := (s.ownWrite bk loc n).oldCode } := by
  unfold State.ownWrite
  split <;> rfl

theorem State.putAt_here (hl : x.loc < deviceEnd) (hd : x.disc = false) (bs : List Byte) :
    s.putAt ctx bk who x bs = (s.putMem x.loc bs).ownWrite bk x.loc bs.length := by
  have hr : s.reinstate ctx who x = s := by simp [State.reinstate, hd]
  rw [State.putAt, hr, State.putLoc, if_pos hl]
  rfl

/-- Outside every version a write to a page of this device that is not discarded changes memory, and what is noted of code. -/
theorem State.writeAt_mem (hv : s.versioned bk = false) (hl : x.loc < deviceEnd) (hd : x.disc = false) (bs : List Byte) :
    s.writeAt ctx bk who x bs = (s.putMem x.loc bs).ownWrite bk x.loc bs.length := by
  rw [State.writeAt, hv, ← State.putAt_here hl hd]
  rfl

/-- In a version a write changes the block's version and the lines that it notes. -/
theorem State.writeAt_version (hv : s.versioned bk = true) (bs : List Byte) :
    ∃ lines, s.writeAt ctx bk who x bs = s.setBlock bk { s.block bk with
      version := putVersion (s.block bk).version x.loc bs, verLines := lines } := by
  rw [State.writeAt, hv]
  exact ⟨_, rfl⟩

theorem State.setBlock_touched (s : State) (b : Nat) (x : Block)
    (hx : x = { s.block b with version := x.version, verLines := x.verLines, verTags := x.verTags }) :
    Touched s (s.setBlock b x) := by
  refine ⟨rfl, fun _ => rfl, fun _ => rfl, fun c => ?_⟩
  by_cases hc : c = b
  · subst hc
    rw [State.block_setBlock_same]
    exact hx
  · rw [State.block_setBlock_other _ _ _ _ hc]

theorem State.putMem_touched (s : State) (loc : Nat) (bs : List Byte) : Touched s (s.putMem loc bs) :=
  ⟨rfl, fun _ => rfl, fun _ => rfl, fun _ => rfl⟩

theorem State.ownWrite_touched (s : State) (bk loc n : Nat) : Touched s (s.ownWrite bk loc n) := by
  rw [State.ownWrite_rest]
  exact ⟨rfl, fun _ => rfl, fun _ => rfl, fun _ => rfl⟩

theorem State.noteTags_touched (s : State) (bk loc n : Nat) : Touched s (s.noteTags bk loc n) := s.setBlock_touched _ _ rfl

theorem State.writeAt_touched (hl : x.loc < deviceEnd) (hd : x.disc = false) (bs : List Byte) :
    Touched s (s.writeAt ctx bk who x bs) := by
  cases hv : s.versioned bk with
  | true =>
    obtain ⟨lines, hw⟩ := State.writeAt_version (ctx := ctx) (who := who) (x := x) hv bs
    rw [hw]
    exact s.setBlock_touched _ _ rfl
  | false =>
    rw [State.writeAt_mem hv hl hd]
    exact (s.putMem_touched _ _).trans (State.ownWrite_touched _ _ _ _)

end

/-! ### Lanes whose bytes are here (R176, R180) -/

/-- The translation of an address for the executing thread. -/
def State.xlatOf (s : State) (need : Need) (va : Nat) : Xlat := (s.xlat need va).getD ⟨0, 0, 0, 0, 0, 0⟩

theorem State.phys_eq (s : State) (need : Need) (va : Nat) : s.phys need va = (s.xlatOf need va).loc := by
  unfold State.phys State.xlatOf
  cases s.xlat need va <;> rfl

section
variable {s : State} {need : Need} {n : Nat} {ls : List (Nat × Nat)} {p : Nat × Nat}

theorem Mapped.walk (h : Mapped s need n ls) (hp : p ∈ ls) : s.walk s.myCtx need p.2 = .ok (s.xlatOf need p.2) := by
  obtain ⟨x, hw, -⟩ := h p hp
  simp only [State.xlatOf, State.xlat, hw, Option.getD_some]

theorem Mapped.here (h : Mapped s need n ls) (hp : p ∈ ls) : (s.xlatOf need p.2).loc < deviceEnd := by
  obtain ⟨x, hw, hl, -⟩ := h p hp
  have hx : s.xlatOf need p.2 = x := by simp only [State.xlatOf, State.xlat, hw, Option.getD_some]
  rw [hx]
  exact hl

theorem Mapped.kept (h : Mapped s need n ls) (hp : p ∈ ls) : (s.xlatOf need p.2).disc = false := by
  obtain ⟨x, hw, -, hd, -⟩ := h p hp
  simpa only [State.xlatOf, State.xlat, hw, Option.getD_some] using hd

theorem Mapped.answered (h : Mapped s need n ls) (hp : p ∈ ls) : s.waitsOn s.myCtx (.warp s.cur.slot) p.2 n = false := by
  obtain ⟨x, -, -, -, ha, -⟩ := h p hp
  exact ha

theorem Mapped.unguarded (h : Mapped s need n ls) (hp : p ∈ ls) : s.guardMeets p.1 p.2 n = false := by
  obtain ⟨x, -, -, -, -, hg⟩ := h p hp
  exact hg

theorem Mapped.byteGate (h : Mapped s need n ls) : s.byteGate ls n = .go := by
  have hany : (ls.any fun p => s.guardMeets p.1 p.2 n) = false :=
    List.any_eq_false.mpr fun p hp => by simp [h.unguarded hp]
  rw [State.byteGate, hany]
  rfl

theorem Mapped.mono {ks : List (Nat × Nat)} (h : Mapped s need n ls) (hk : ∀ p ∈ ks, p ∈ ls) : Mapped s need n ks :=
  fun p hp => h p (hk p hp)

end

/-- Lanes whose accesses are performed on this device. -/
def State.hereWays (s : State) (need : Need) (ls : List (Nat × Nat)) : List (Nat × Nat × Way) :=
  ls.map fun p => (p.1, p.2, .here (s.xlatOf need p.2))

section
variable {s : State} {a : Acc}

theorem State.ways_here (hb : ∀ grad, a.op ≠ .brick grad) (h : Mapped s a.need a.bytes a.lanes) :
    s.ways (s.issuer s.cur.slot) a = s.hereWays a.need a.lanes := by
  refine List.map_congr_left fun p hp => ?_
  have hway : s.way (s.issuer s.cur.slot) a p.1 p.2 = .here (s.xlatOf a.need p.2) := by
    have hw : s.walk (s.issuer s.cur.slot).party.ctx a.need p.2 = .ok (s.xlatOf a.need p.2) := h.walk hp
    have ha : s.waitsOn (s.issuer s.cur.slot).party.ctx (s.issuer s.cur.slot).party.who p.2 a.bytes = false := h.answered hp
    have hl : isExternal (s.xlatOf a.need p.2).loc = false := by
      have := h.here hp
      simpa [isExternal] using this
    unfold State.way
    split
    next grad hop => exact absurd hop (hb grad)
    next => simp only [hw, ha, hl, Bool.false_eq_true, if_false, Bool.not_false, Bool.true_or, if_true]
  rw [hway]

variable (s) (need : Need) (ls : List (Nat × Nat))

/-- A property that no lane performed here has. -/
theorem State.any_here {f : Nat × Nat × Way → Bool} (hf : ∀ i va x, f (i, va, .here x) = false) :
    (s.hereWays need ls).any f = false := by
  rw [State.hereWays, List.any_map]
  exact List.any_eq_false.mpr fun p _ => ne_true_of_eq_false (hf _ _ _)

theorem State.wayGate_here : wayGate (s.hereWays need ls) = .go := by
  unfold wayGate
  rw [State.any_here _ _ _ fun _ _ _ => rfl, State.any_here _ _ _ fun _ _ _ => rfl]
  rfl

theorem State.newLines_here (a : Acc) : a.newLines (s.hereWays need ls) =
    if a.writes then ls.map fun p => s.phys need p.2 / 128 else [] := by
  unfold Acc.newLines State.hereWays
  split
  · rw [List.filterMap_map]
    simp only [Function.comp_def, Way.xlat, Option.map_some, ← State.phys_eq]
    exact congrFun (List.filterMap_eq_map (f := fun p : Nat × Nat => s.phys need p.2 / 128)) ls
  · rfl

end

/-! ### The lanes of an access in turn (R180, R194) -/

section
variable (s : State) (a : Acc)

/-- What a lane finds at its bytes when the machine has come to `t`. -/
def State.laneOld (t : State) (p : Nat × Nat) : Nat := t.readAt (t.version s.me.blk) (s.xlatOf a.need p.2) a.bytes

/-- The machine after a lane's turn. -/
def State.laneStep (t : State) (p : Nat × Nat) : State :=
  t.actLane (s.issuer s.cur.slot) a p.1 (s.xlatOf a.need p.2) (s.laneOld a t p)

/-- What each lane of a list delivers, the lanes before it having had their turns. -/
def State.laneVals : List (Nat × Nat) → State → List (Nat × List Word)
  | [], _ => []
  | p :: ps, t => (p.1, a.split (s.laneOld a t p)) :: State.laneVals ps (s.laneStep a t p)

theorem State.laneVals_fst (ls : List (Nat × Nat)) (t : State) : (s.laneVals a ls t).map Prod.fst = ls.map Prod.fst := by
  induction ls generalizing t with
  | nil => rfl
  | cons p ps ih => rw [State.laneVals, List.map_cons, List.map_cons, ih]

/-- The lanes of an access that are all here take their turns, and none waits. -/
theorem State.allLanes_here (ls : List (Nat × Nat)) (t : State) :
    t.allLanes (s.issuer s.cur.slot) a (s.hereWays a.need ls) =
      ⟨ls.foldl (s.laneStep a) t, s.laneVals a ls t, [], []⟩ := by
  suffices h : ∀ (t : State) (vs : List (Nat × List Word)),
      (s.hereWays a.need ls).foldl (fun d w =>
        match w.2.2 with
        | .fault va _ => { d with faults := d.faults ++ [(w.1, va)] }
        | _ =>
          let r := d.state.oneLane (s.issuer s.cur.slot) a w.1 w.2.2
          { d with
            state := r.1
            vals := d.vals ++ (match r.2.1 with
              | some x => [(w.1, x)]
              | none => [])
            held := d.held ++ listIf r.2.2 w.1 }) (⟨t, vs, [], []⟩ : Done) =
      ⟨ls.foldl (s.laneStep a) t, vs ++ s.laneVals a ls t, [], []⟩ from h t []
  induction ls with
  | nil => intro t vs; rw [State.laneVals, List.append_nil]; rfl
  | cons p ps ih =>
    intro t vs
    have hstep := ih (s.laneStep a t p) (vs ++ [(p.1, a.split (s.laneOld a t p))])
    rw [List.append_assoc] at hstep
    exact hstep

/-- In an ascending list each lane delivers what it finds when the lanes below it have had their turns. -/
theorem State.find_laneVals {ls : List (Nat × Nat)} (hasc : ls.Pairwise fun p q => p.1 < q.1) {p : Nat × Nat} (hp : p ∈ ls)
    (t : State) : (s.laneVals a ls t).find? (fun v => v.1 == p.1) =
      some (p.1, a.split (s.laneOld a ((ls.filter fun q => decide (q.1 < p.1)).foldl (s.laneStep a) t) p)) := by
  induction ls generalizing t with
  | nil => cases hp
  | cons q qs ih =>
    obtain ⟨hq, hqs⟩ := List.pairwise_cons.mp hasc
    rcases List.mem_cons.mp hp with rfl | hp'
    · have hnone : (p :: qs).filter (fun q => decide (q.1 < p.1)) = [] := by
        refine List.filter_eq_nil_iff.mpr fun r hr => ?_
        rcases List.mem_cons.mp hr with rfl | hr
        · simp
        · have := hq r hr
          simp only [decide_eq_true_eq]
          omega
      rw [hnone, State.laneVals, List.find?_cons_of_pos (by simp)]
      rfl
    · have hlt := hq p hp'
      rw [State.laneVals, List.find?_cons_of_neg (by simp only [beq_iff_eq]; omega), ih hqs hp',
        List.filter_cons_of_pos (by simpa using hlt), List.foldl_cons]

end

/-! ### The turns of lanes leave everything else -/

section
variable {s t : State} {a : Acc} {p : Nat × Nat}

/-- A lane that writes nothing moves clocks and tags alone. -/
theorem State.laneStep_reads (hn : ∀ l old, a.new l old = none) (t : State) (p : Nat × Nat) :
    s.laneStep a t p = t.order s.myCore a.acq a.rel a.lam a.sc (s.xlatOf a.need p.2).loc a.bytes false := by
  rw [State.laneStep, State.actLane, hn]
  rfl

theorem State.writeLane_touched {x : Xlat} (hl : x.loc < deviceEnd) (hd : x.disc = false) (v : Nat) :
    Touched t (t.writeLane (s.issuer s.cur.slot) a x v) := by
  have hw := State.writeAt_touched (s := t) (ctx := (s.issuer s.cur.slot).party.ctx) (bk := (s.issuer s.cur.slot).party.bk)
    (who := (s.issuer s.cur.slot).party.who) hl hd (leBytes a.bytes v)
  unfold State.writeLane
  dsimp only
  split
  · have ho := hw.trans (State.order_consulted _ (s.issuer s.cur.slot).core a.acq false false a.sc x.loc a.bytes true).touched
    split
    · exact ho.trans (State.noteTags_touched _ _ _ _)
    · exact ho
  · exact hw.trans (State.order_consulted _ _ _ _ _ _ _ _ _).touched

theorem State.laneStep_touched (hl : (s.xlatOf a.need p.2).loc < deviceEnd) (hd : (s.xlatOf a.need p.2).disc = false) :
    Touched t (s.laneStep a t p) := by
  unfold State.laneStep State.actLane
  split
  · exact (State.order_consulted _ _ _ _ _ _ _ _ _).touched
  · exact State.writeLane_touched hl hd _

theorem State.laneSteps_touched {ls : List (Nat × Nat)} (h : Mapped s a.need a.bytes ls) (t : State) :
    Touched t (ls.foldl (s.laneStep a) t) := by
  induction ls generalizing t with
  | nil => exact Touched.refl t
  | cons p ps ih =>
    exact (State.laneStep_touched (h.here (List.mem_cons_self ..)) (h.kept (List.mem_cons_self ..))).trans
      (ih (h.mono fun q hq => List.mem_cons_of_mem _ hq) _)

theorem State.laneSteps_consulted (hn : ∀ l old, a.new l old = none) (ls : List (Nat × Nat)) (t : State) :
    Consulted t (ls.foldl (s.laneStep a) t) := by
  induction ls generalizing t with
  | nil => exact Consulted.refl t
  | cons p ps ih =>
    refine Consulted.trans ?_ (ih _)
    rw [State.laneStep_reads hn]
    exact State.order_consulted _ _ _ _ _ _ _ _ _

/-- A plain load moves no clock. -/
theorem State.laneSteps_plain (hn : ∀ l old, a.new l old = none) (ha : a.acq = false) (hr : a.rel = false)
    (hs : a.lam = false) (ls : List (Nat × Nat)) (t : State) : ls.foldl (s.laneStep a) t = t := by
  induction ls with
  | nil => rfl
  | cons p ps ih => rw [List.foldl_cons, State.laneStep_reads hn, ha, hr, hs, State.order_plain, ih]

/-- What a lane finds is what memory and the block's version hold. -/
theorem State.laneOld_congr (h : Consulted s t) (p : Nat × Nat) :
    s.laneOld a t p = s.readAt (s.version s.me.blk) (s.xlatOf a.need p.2) a.bytes := by
  rw [State.laneOld, State.version_congr h.blocks h.touched.launches, State.readAt_congr h.mem]

end

/-! ### An access that issues (R176, R212) -/

/-- What lets an access take effect at once: it passes every gate, and its lanes are all here. -/
structure Issues (s : State) (W : LaneMask) (scalar : Bool) (us : List Use) (check : Gate) (guard : Nat) (a : Acc) : Prop where
  read : s.readGate scalar us = .go
  mem : s.memGate W guard false = .go
  check : check = .go
  mapped : Mapped s a.need a.bytes a.lanes
  plain : ∀ grad, a.op ≠ .brick grad
  release : s.releaseGate W a.rel = .go
  dest : s.destGate W us a.dests = .go
  room : a.writes = true → s.versionFull s.me.blk (a.lanes.map fun p => s.phys a.need p.2 / 128) = false
  now : a.dests = [] ∨ s.myLaunch.proof = false

/-- The machine once the lanes of an access have had their turns and what waited for it is forgotten. -/
def State.accessed (s : State) (a : Acc) : State :=
  ((a.lanes.foldl (s.laneStep a) (s.cacheWalks s.myCtx a.need (a.lanes.map Prod.snd))).dropKept (.warp s.cur.slot)).settle
    s.myCtx (.warp s.cur.slot)

/-- What the lanes of an access deliver. -/
def State.accessVals (s : State) (a : Acc) : List (Nat × List Word) :=
  s.laneVals a a.lanes (s.cacheWalks s.myCtx a.need (a.lanes.map Prod.snd))

/-- One element for all lanes is fetched once (R185). -/
def Acc.trimmed (a : Acc) : Acc := if a.unif then { a with lanes := a.lanes.take 1 } else a

section
variable {s : State} {W : LaneMask} {scalar : Bool} {us : List Use} {check : Gate} {guard : Nat} {a : Acc}

theorem maskOf_nil : maskOf [] = 0 := by decide

theorem State.doAccess_here (W : LaneMask) (us : List Use) :
    s.doAccess W us a (s.hereWays a.need a.lanes) =
      s.endAccess (s.accessed a) W 0 us a (a.storages (s.accessVals a)) := by
  unfold State.doAccess
  simp only [State.allLanes_here, List.isEmpty_nil, if_true, List.map_nil, List.append_nil, maskOf_nil, bne_self_eq_false,
    Bool.and_false, Bool.false_eq_true, if_false]
  rfl

theorem State.versionGate_here
    (h : a.writes = true → s.versionFull s.me.blk (a.lanes.map fun p => s.phys a.need p.2 / 128) = false) :
    s.versionGate (s.issuer s.cur.slot) a (s.hereWays a.need a.lanes) = .go := by
  have hfull : (a.writes && s.versionFull s.me.blk (a.newLines (s.hereWays a.need a.lanes))) = false := by
    cases hw : a.writes with
    | false => rfl
    | true => rw [State.newLines_here, hw, if_pos rfl, h hw]; rfl
  exact (congrArg (fun b => Gate.trapIf b 0x0F (s.launch (s.block s.me.blk).launch).vbud) hfull).trans (Gate.trapIf_false _ _)

/-- An access with one element for all is the access of that element. -/
theorem State.access_trimmed : s.access W scalar us check guard a = s.access W scalar us check guard a.trimmed := by
  unfold Acc.trimmed
  split
  next hu =>
    unfold State.access
    simp only [hu, if_true, List.take_take, min_self]
  next => rfl

theorem State.access_here (h : Issues s W scalar us check guard a) (hu : a.unif = true → a.lanes.take 1 = a.lanes) :
    s.access W scalar us check guard a = s.endAccess (s.accessed a) W 0 us a (a.storages (s.accessVals a)) := by
  have htrim : (if a.unif = true then { a with lanes := a.lanes.take 1 } else a) = a := by
    split
    next hu' => rw [hu hu']
    next => rfl
  have hrec : (s.myLaunch.proof && s.myLaunch.replay && a.delivers && W != 0) = false := by
    rcases h.now with hd | hp
    · simp [Acc.delivers, hd]
    · simp [hp]
  have hrec' : (s.myLaunch.proof && s.myLaunch.recording && a.delivers && W != 0) = false := by
    rcases h.now with hd | hp
    · simp [Acc.delivers, hd]
    · simp [hp]
  unfold State.access
  simp only [htrim, hrec, hrec', Bool.false_and, Bool.false_eq_true, if_false, State.ways_here h.plain h.mapped, h.read, h.mem,
    h.check, h.mapped.byteGate, State.wayGate_here, State.versionGate_here h.room, h.release, h.dest, Gate.and_go]
  refine (if_neg ?_).trans ((if_neg ?_).trans (State.doAccess_here W us))
  · exact ne_true_of_eq_false (State.any_here _ _ _ fun _ _ _ => rfl)
  · rw [State.any_here _ _ _ fun _ _ _ => rfl]
    exact Bool.false_ne_true

end
end Sys2Proof.Machine

/-! PROOFS. How an access of memory ends, what a load gives its threads, and O23 (R23, R176, R177, R184, R185). -/

namespace Sys2Proof.Machine

/-! ### The end of an access (R98, R343) -/

theorem State.advance_launches {s : State} (hp : s.myLaunch.proof = false) : s.advance.launches = s.launches := by
  unfold State.advance State.moveRun State.retire
  have hl : (s.setMe (s.me.issued s.cur.run fun _ => s.cur.next)).launch s.myBlock.launch = s.myLaunch := rfl
  dsimp only
  rw [hl, hp]
  rfl

theorem State.advance_blocks (s : State) : s.advance.blocks = s.blocks := by
  rw [State.advance, State.moveRun, State.retire_rest]
  rfl

theorem State.advance_cores (s : State) : s.advance.cores = s.cores := by
  rw [State.advance, State.moveRun, State.retire_rest]
  rfl

section
variable {s t : State} {v : Warp}

theorem Touched.accesses (h : Touched s t) (hb : v.blk = s.me.blk) : Accesses s (t.setMe v).advance := by
  have hproof : (t.setMe v).myLaunch = s.myLaunch := by
    unfold State.myLaunch State.myBlock
    rw [State.me_setMe, hb]
    change t.launch (t.block s.me.blk).launch = _
    rw [h.launchOf, State.launch, h.launches]
    rfl
  obtain ⟨y, ls, hadv⟩ := State.advance_setMe_eq t v
  refine ⟨?_, fun k hk => ?_, fun c => ?_, fun c => ?_, fun b => ?_, fun hp => ?_⟩
  · rw [hadv, h.rest]
    rfl
  · rw [hadv]
    have hw := State.find_warps_setMe t y k (h.cur ▸ hk)
    rw [h.warps] at hw
    exact hw
  · rw [hadv]
    exact h.ctxs c
  · rw [hadv]
    exact h.cores c
  · rw [hadv]
    exact h.blocks b
  · rw [State.advance_launches (by rw [hproof, hp])]
    exact h.launches

theorem Consulted.onlyReads (h : Consulted s t) (hb : v.blk = s.me.blk) : OnlyReads s (t.setMe v).advance := by
  refine ⟨h.touched.accesses hb, fun a => ?_, ?_, ?_⟩
  · rw [State.advance_mem]
    exact congrArg (fun m => Mem.byte m a) h.mem
  · rw [State.advance_blocks]
    exact h.blocks
  · obtain ⟨y, ls, hadv⟩ := State.advance_setMe_eq t v
    rw [hadv]
    exact h.code

/-- The executing warp once it has moved on. -/
theorem Touched.advance_me (h : Touched s t) (v : Warp) :
    (t.setMe v).advance.me = v.issued s.cur.run fun _ => s.cur.next := by
  rw [State.advance_me, h.cur]

end

/-! ### What the turns of an access come to -/

section
variable {s : State} {a : Acc}

theorem State.accessed_touched (h : Mapped s a.need a.bytes a.lanes) : Touched s (s.accessed a) :=
  (s.cacheWalks_consulted _ _ _).touched.trans ((State.laneSteps_touched h _).trans
    ((State.dropKept_consulted _ _).trans (State.settle_consulted _ _ _)).touched)

theorem State.accessed_consulted (hn : ∀ l old, a.new l old = none) : Consulted s (s.accessed a) :=
  (s.cacheWalks_consulted _ _ _).trans ((State.laneSteps_consulted hn _ _).trans
    ((State.dropKept_consulted _ _).trans (State.settle_consulted _ _ _)))

theorem State.settle_cores (s : State) (ctx : Nat) (who : FaultWho) : (s.settle ctx who).cores = s.cores := by
  unfold State.settle
  dsimp only
  split <;> rfl

theorem State.cacheWalks_cores (s : State) (ctx : Nat) (need : Need) (vas : List Nat) :
    (s.cacheWalks ctx need vas).cores = s.cores := by
  unfold State.cacheWalks
  dsimp only
  split <;> rfl

theorem State.accessed_cores (hn : ∀ l old, a.new l old = none) (ha : a.acq = false) (hr : a.rel = false)
    (hs : a.lam = false) : (s.accessed a).cores = s.cores := by
  unfold State.accessed
  rw [State.settle_cores, State.laneSteps_plain hn ha hr hs]
  exact State.cacheWalks_cores s _ _ _

/-- What an access delivers is words for its destinations. -/
theorem State.endAccess_launched {t : State} {W held : LaneMask} {us : List Use} (rs : List (Nat × Storage))
    (hd : a.dests ≠ []) (hp : s.myLaunch.proof = false) (ht : t.me = s.me) :
    s.endAccess t W held us a rs = .next (t.setMe (s.launched W held us rs 0)).advance := by
  have hempty : a.dests.isEmpty = false := by simpa using hd
  rw [State.endAccess, hempty, if_neg Bool.false_ne_true, State.deliverRegs_launched hp ht, LaneFlags.of_zero]

theorem State.endAccess_moves {t : State} {W held : LaneMask} {us : List Use} (rs : List (Nat × Storage))
    (hd : a.dests = []) (ht : t.me = s.me) :
    s.endAccess t W held us a rs = .next (t.setMe (s.me.free (s.frees us []))).advance := by
  rw [State.endAccess, hd, ht]
  rfl

theorem Acc.storages_fst (a : Acc) (vals : List (Nat × List Word)) : (a.storages vals).map Prod.fst = a.dests := by
  refine List.ext_getElem (by simp [Acc.storages]) fun k h h' => ?_
  simp only [Acc.storages, List.getElem_map, List.getElem_mapIdx]
  split <;> rfl

/-- Word `k` of what a lane delivers, 0 where it delivers nothing. -/
def laneWord (vals : List (Nat × List Word)) (k l : Nat) : Word :=
  ((vals.find? fun p => p.1 == l).bind fun p => p.2[k]?).getD 0

theorem Acc.storages_lane (hu : a.unif = false) (vals : List (Nat × List Word)) {k : Nat}
    (hk : k < (a.storages vals).length) (l : Fin 32) : (a.storages vals)[k].2.lane l = laneWord vals k l.val := by
  simp only [Acc.storages, List.getElem_mapIdx, hu, Bool.false_eq_true, if_false, Storage.lane_g, Lanes.of_get]
  rfl

theorem Acc.storages_lane_uniform (hu : a.unif = true) (vals : List (Nat × List Word)) {k : Nat}
    (hk : k < (a.storages vals).length) (l : Fin 32) :
    (a.storages vals)[k].2.lane l = ((vals.head?).bind fun p => p.2[k]?).getD 0 := by
  simp only [Acc.storages, List.getElem_mapIdx, hu, if_true, Storage.lane_u]

/-- A register's word of a value that is delivered whole. -/
theorem Acc.split_word (a : Acc) (hs : ∀ sgn, a.op = .load sgn → sgn = false) (v : Nat) {k : Nat} (hk : k < a.dests.length) :
    (a.split v)[k]? = some (BitVec.ofNat 32 (v / 2 ^ (32 * k))) := by
  unfold Acc.split
  rw [List.getElem?_mapIdx, List.getElem?_eq_getElem hk]
  cases hop : a.op with
  | load sgn => simp [hs sgn hop]
  | _ => simp

/-- A register's word of a loaded value (R184, R185). -/
theorem Acc.split_load {sgn : Bool} (hop : a.op = .load sgn) (hone : sgn = true → a.bytes < 4 → a.dests.length = 1)
    (v : Nat) {k : Nat} (hk : k < a.dests.length) : (a.split v)[k]? = some (loadedWord sgn a.bytes v k) := by
  unfold Acc.split
  rw [List.getElem?_mapIdx, List.getElem?_eq_getElem hk, hop]
  by_cases hx : (sgn && decide (a.bytes < 4)) = true
  · have hx' := hx
    rw [Bool.and_eq_true, decide_eq_true_eq] at hx'
    have hk0 : k = 0 := by
      have := hone hx'.1 hx'.2
      omega
    simp [loadedWord, hx, hk0]
  · simp [loadedWord, hx]

end

section
variable {i : Instr} {s : State} {W : LaneMask} {scalar : Bool} {us : List Use} {check : Gate} {guard : Nat} {a : Acc}
  {rs : List (Nat × (Fin 32 → Word))} {frame : State → Prop}

/-- An access with destinations is a long-latency producer (R23, R185). -/
theorem inFlight_of_access (h : Issues s W scalar us check guard a) (hu : a.unif = true → a.lanes.take 1 = a.lanes)
    (hi : exec i s = s.access W scalar us check guard a) {ds : List Nat} (hds : a.dests = ds) (hd : ds ≠ [])
    (hfst : rs.map Prod.fst = ds)
    (hlane : ∀ k (h : k < rs.length) (h' : k < (a.storages (s.accessVals a)).length) (l : Fin 32), W.getLsbD l.val = true →
      (a.storages (s.accessVals a))[k].2.lane l = rs[k].2 l)
    (hframe : ∀ v : Warp, v.blk = s.me.blk → frame ((s.accessed a).setMe v).advance) :
    InFlight i s W 0 (s.frees us ds) rs 0 frame := by
  subst hds
  have hp : s.myLaunch.proof = false := h.now.resolve_left hd
  have ht := State.accessed_touched h.mapped
  rw [← hfst]
  refine inFlight_of_launched (u := s.accessed a) (regs := a.storages (s.accessVals a)) ?_ ht.cur
    (hfst.trans (Acc.storages_fst _ _).symm) (fun k h h' l hl _ => hlane k h h' l hl) (hframe _ ?_)
  · rw [hi, State.access_here h hu, State.endAccess_launched _ hd hp ht.me]
  · rw [State.launched_rest]

/-- The machine after an access without destinations. -/
def State.accessDone (s : State) (us : List Use) (a : Acc) : State :=
  ((s.accessed a).setMe (s.me.free (s.frees us []))).advance

/-- An access without destinations moves its run on. -/
theorem moves_of_access (h : Issues s W scalar us check guard a) (hu : a.unif = true → a.lanes.take 1 = a.lanes)
    (hi : exec i s = s.access W scalar us check guard a) (hd : a.dests = []) :
    exec i s = .next (s.accessDone us a) ∧ Accesses s (s.accessDone us a) ∧
      Moves s (s.accessDone us a) (fun _ => s.cur.next) ∧
      (s.accessDone us a).me = { s.me.free (s.frees us []) with lanes := (s.accessDone us a).me.lanes, waitCount := 0 } := by
  have ht := State.accessed_touched h.mapped
  have hme : (s.accessDone us a).me = _ := ht.advance_me (s.me.free (s.frees us []))
  refine ⟨?_, ht.accesses (Warp.free_blk _ _), moves_of_me hme (Warp.free_lanes _ _), ?_⟩
  · rw [hi, State.access_here h hu, State.endAccess_moves _ hd ht.me]
    rfl
  · rw [hme, Warp.issued_rest]

end

/-! ### The lanes of a record access (R176, R177) -/

section
variable {r : Record} {W : LaneMask} {idx : Fin 32 → Int} {p : Nat × Nat}

theorem mem_recLanes : p ∈ recLanes r W idx ↔
    ∃ l : Fin 32, W.getLsbD l.val = true ∧ recInside r (idx l) = true ∧ p = (l.val, recAddr r (idx l)) := by
  simp only [recLanes, List.mem_map, List.mem_filter, LaneMask.mem_lanes]
  constructor
  · rintro ⟨l, ⟨hW, hin⟩, rfl⟩
    exact ⟨l, hW, hin, rfl⟩
  · rintro ⟨l, hW, hin, rfl⟩
    exact ⟨l, ⟨hW, hin⟩, rfl⟩

theorem recLanes_ascending (r : Record) (W : LaneMask) (idx : Fin 32 → Int) :
    (recLanes r W idx).Pairwise fun p q => p.1 < q.1 := by
  rw [recLanes, List.pairwise_map]
  exact (LaneMask.lanes_sorted W).filter _

theorem recLanes_empty (r : Record) (idx : Fin 32 → Int) : recLanes r 0 idx = [] := by
  simp [recLanes, LaneMask.lanes]

theorem inside_iff {x off : Word} : Inside r x off ↔ recInside r (recIndex x off) = true := by
  rw [Inside, extract_extent_eq, recInside, recIndex, Bool.and_eq_true, decide_eq_true_eq, decide_eq_true_eq]

/-- The checks of R176 before translation let an access through. -/
theorem recGate_go {n : Nat} {own : Bool} (hfields : W ≠ 0 → recBad r = false ∧ own = false)
    (hbounds : ∀ l : Fin 32, W.getLsbD l.val = true → recOobt r = true → recInside r (idx l) = true)
    (haligned : ∀ l : Fin 32, W.getLsbD l.val = true → recInside r (idx l) = true → recAddr r (idx l) % n = 0) :
    recGate r W idx n own = .go := by
  unfold recGate
  split
  next => rfl
  next hW =>
    obtain ⟨hbad, hown⟩ := hfields hW
    have hout : ((LaneMask.lanes W).find? fun l => recOobt r && !recInside r (idx l)) = none := by
      refine List.find?_eq_none.mpr fun l hl => ?_
      cases ht : recOobt r with
      | false => simp
      | true => simp [hbounds l (LaneMask.mem_lanes.mp hl) ht]
    have halign : ((recLanes r W idx).find? fun p => p.2 % n != 0) = none := by
      refine List.find?_eq_none.mpr fun p hp => ?_
      obtain ⟨l, hl, hin, rfl⟩ := mem_recLanes.mp hp
      simp [haligned l hl hin]
    rw [hbad, hown, Bool.or_self, if_neg Bool.false_ne_true, hout]
    dsimp only
    rw [halign]

theorem RecordOk.recGate {s : State} {a : Src} {off : Word} {n : Nat} (h : RecordOk s W r a off n) :
    recGate r W (s.me.index' a off) n (decide (2 ^ recEsize r < n)) = .go := by
  refine recGate_go (fun hW => ?_) (fun l hl ht => inside_iff.mp (h.bounds l hl ht))
    fun l hl hin => h.aligned l hl (inside_iff.mpr hin)
  obtain ⟨hbad, hsize⟩ := h.fields hW
  exact ⟨hbad, decide_eq_false (by omega)⟩

theorem Mapped.xlat {s : State} {need : Need} {n : Nat} {ls : List (Nat × Nat)} (h : Mapped s need n ls) (hp : p ∈ ls) :
    s.xlat need p.2 = some (s.xlatOf need p.2) := by
  rw [State.xlat, h.walk hp]

end

section
variable {s : State} {a : Acc} {r : Record} {W : LaneMask} {idx : Fin 32 → Int}

/-- What a lane of W delivers: nothing out of bounds, else what it finds when the lanes below it have had their turns. -/
theorem State.laneWord_recLanes (hls : a.lanes = recLanes r W idx) {l : Fin 32} (hW : W.getLsbD l.val = true) (k : Nat) :
    laneWord (s.accessVals a) k l.val = if recInside r (idx l) = true then
      ((a.split (s.laneOld a ((a.lanes.filter fun q => decide (q.1 < l.val)).foldl (s.laneStep a)
        (s.cacheWalks s.myCtx a.need (a.lanes.map Prod.snd))) (l.val, recAddr r (idx l))))[k]?).getD 0 else 0 := by
  have hasc : a.lanes.Pairwise fun p q => p.1 < q.1 := hls ▸ recLanes_ascending r W idx
  unfold laneWord State.accessVals
  split
  next hin =>
    have hp : (l.val, recAddr r (idx l)) ∈ a.lanes := hls ▸ mem_recLanes.mpr ⟨l, hW, hin, rfl⟩
    rw [State.find_laneVals s a hasc hp]
    rfl
  next hin =>
    have hnone : ((s.laneVals a a.lanes (s.cacheWalks s.myCtx a.need (a.lanes.map Prod.snd))).find? fun p => p.1 == l.val) =
        none := by
      refine List.find?_eq_none.mpr fun v hv => ?_
      have hmem := List.mem_map_of_mem (f := Prod.fst) hv
      rw [State.laneVals_fst, hls] at hmem
      obtain ⟨p, hp, hpv⟩ := List.mem_map.mp hmem
      obtain ⟨j, -, hj, rfl⟩ := mem_recLanes.mp hp
      rw [beq_iff_eq, ← hpv]
      exact fun e => hin (Fin.ext e ▸ hj)
    rw [hnone]
    rfl

end

/-! ### LD (R184, R185) -/

section
variable {s : State} {g : Guard} {d : Nat} {wid : Width} {hint : Hint} {acq : Bool} {sc : Scope} {br : Nat} {a : Src} {off : Word}

/-- The access that a load makes. -/
def State.loadAcc (s : State) (W : LaneMask) (d : Nat) (wid : Width) (acq : Bool) (sc : Scope) (br : Nat) (a : Src) (off : Word) :
    Acc :=
  ⟨.load (widthSigned wid), widthBytes wid, acq, false, false, sc, regGroup d wid.regs,
    recLanes (s.me.breg br) W (s.me.index' a off), [], (s.me.src a).isU⟩

theorem exec_ld (g : Guard) (d : Nat) (wid : Width) (hint : Hint) (acq : Bool) (sc : Scope) (br : Nat) (a : Src) (off : Word)
    (s : State) : exec (.ld g d wid hint acq sc br a off) s =
      s.access (s.wset g) a.scalar (a.uses 1) (recGate (s.me.breg br) (s.wset g) (s.me.index' a off) (widthBytes wid)
        (decide (2 ^ recEsize (s.me.breg br) < widthBytes wid))) (recGuard (s.me.breg br))
        (s.loadAcc (s.wset g) d wid acq sc br a off) := rfl

theorem Acc.new_load {x : Acc} {sgn : Bool} (h : x.op = .load sgn) (l old : Nat) : x.new l old = none := by
  unfold Acc.new
  rw [h]

theorem width_regs_pos (wid : Width) : 0 < wid.regs := by cases wid <;> decide

theorem regGroup_ne_nil {d k : Nat} (h : 0 < k) : regGroup d k ≠ [] := by
  simp [regGroup, Nat.ne_of_gt h]

theorem width_signed_regs (wid : Width) (h : widthSigned wid = true) : wid.regs = 1 := by
  revert h
  cases wid <;> decide

theorem Acc.trimmed_rest (x : Acc) : x.trimmed = { x with lanes := x.trimmed.lanes } := by
  unfold Acc.trimmed
  split <;> rfl

@[simp] theorem Acc.trimmed_op (x : Acc) : x.trimmed.op = x.op := by rw [Acc.trimmed_rest]
@[simp] theorem Acc.trimmed_bytes (x : Acc) : x.trimmed.bytes = x.bytes := by rw [Acc.trimmed_rest]
@[simp] theorem Acc.trimmed_acq (x : Acc) : x.trimmed.acq = x.acq := by rw [Acc.trimmed_rest]
@[simp] theorem Acc.trimmed_rel (x : Acc) : x.trimmed.rel = x.rel := by rw [Acc.trimmed_rest]
@[simp] theorem Acc.trimmed_lam (x : Acc) : x.trimmed.lam = x.lam := by rw [Acc.trimmed_rest]
@[simp] theorem Acc.trimmed_dests (x : Acc) : x.trimmed.dests = x.dests := by rw [Acc.trimmed_rest]
@[simp] theorem Acc.trimmed_unif (x : Acc) : x.trimmed.unif = x.unif := by rw [Acc.trimmed_rest]
@[simp] theorem Acc.trimmed_need (x : Acc) : x.trimmed.need = x.need := by simp only [Acc.need, Acc.trimmed_op]

theorem Acc.trimmed_lanes_sub (x : Acc) : ∀ p ∈ x.trimmed.lanes, p ∈ x.lanes := by
  unfold Acc.trimmed
  split
  next => exact fun p hp => List.mem_of_mem_take hp
  next => exact fun p hp => hp

theorem Acc.trimmed_of_own {x : Acc} (hu : x.unif = false) : x.trimmed = x := if_neg (ne_true_of_eq_false hu)

theorem Acc.trimmed_once (x : Acc) (hu : x.trimmed.unif = true) : x.trimmed.lanes.take 1 = x.trimmed.lanes := by
  revert hu
  unfold Acc.trimmed
  split
  next h => exact fun _ => by simp only [List.take_take, min_self]
  next h => exact fun hu => absurd hu h

section
variable {W : LaneMask} {k : Nat} {l : Fin 32}

/-- What an access that reads finds is what memory and the block's version hold, the lanes before it having moved clocks
alone. -/
theorem State.laneOld_reads {x : Acc} (hn : ∀ l old, x.new l old = none) (ls : List (Nat × Nat)) (vas : List Nat)
    (p : Nat × Nat) : s.laneOld x (ls.foldl (s.laneStep x) (s.cacheWalks s.myCtx x.need vas)) p =
      s.readAt (s.version s.me.blk) (s.xlatOf x.need p.2) x.bytes :=
  State.laneOld_congr ((s.cacheWalks_consulted _ _ _).trans (State.laneSteps_consulted hn _ _)) p

theorem State.laneOld_load {x : Acc} {sgn : Bool} (hop : x.op = .load sgn) (ls : List (Nat × Nat)) (vas : List Nat)
    (p : Nat × Nat) : s.laneOld x (ls.foldl (s.laneStep x) (s.cacheWalks s.myCtx x.need vas)) p =
      s.readAt (s.version s.me.blk) (s.xlatOf .read p.2) x.bytes := by
  have hneed : x.need = .read := by rw [Acc.need, hop]
  rw [State.laneOld_reads (Acc.new_load hop), hneed]

/-- The word of a thread of W that loads: of its element, 0 where that is out of bounds. -/
def State.loadedLane (s : State) (wid : Width) (r : Record) (i : Int) (k : Nat) : Word :=
  if recInside r i then loadedWord (widthSigned wid) (widthBytes wid)
    (s.readAt (s.version s.me.blk) (s.xlatOf .read (recAddr r i)) (widthBytes wid)) k else 0

theorem Acc.split_width {x : Acc} (wid : Width) (hop : x.op = .load (widthSigned wid)) (hb : x.bytes = widthBytes wid)
    (hd : x.dests.length = wid.regs) (v : Nat) (hk : k < wid.regs) :
    (x.split v)[k]? = some (loadedWord (widthSigned wid) (widthBytes wid) v k) := by
  rw [Acc.split_load hop (fun hs _ => hd.trans (width_signed_regs wid hs)) v (hd ▸ hk), hb]

theorem regGroup_length (d k : Nat) : (regGroup d k).length = k := by simp [regGroup]

/-- Lanes that each load their own element. -/
theorem State.loadAcc_lane_own (hW : W.getLsbD l.val = true) (hk : k < wid.regs) :
    laneWord (s.accessVals (s.loadAcc W d wid acq sc br a off)) k l.val =
      s.loadedLane wid (s.me.breg br) (s.me.index' a off l) k := by
  rw [State.laneWord_recLanes rfl hW, State.laneOld_load rfl, Acc.split_width wid rfl rfl (regGroup_length _ _) _ hk]
  rfl

/-- One element for all: it is that of every thread of W. -/
theorem State.loadAcc_lane_uniform (hu : (s.me.src a).isU = true) (hW : W.getLsbD l.val = true) (hk : k < wid.regs) :
    (((s.accessVals (s.loadAcc W d wid acq sc br a off).trimmed).head?).bind fun p => p.2[k]?).getD 0 =
      s.loadedLane wid (s.me.breg br) (s.me.index' a off l) k := by
  have hsame (j : Fin 32) : s.me.index' a off j = s.me.index' a off l := by
    simp only [Warp.index', Storage.lane_of_isU _ hu j, Storage.lane_of_isU _ hu l]
  have htrim : (s.loadAcc W d wid acq sc br a off).trimmed =
      { s.loadAcc W d wid acq sc br a off with lanes := (recLanes (s.me.breg br) W (s.me.index' a off)).take 1 } := if_pos hu
  rw [htrim]
  unfold State.accessVals State.loadedLane
  cases hls : recLanes (s.me.breg br) W (s.me.index' a off) with
  | nil =>
    have hout : ¬recInside (s.me.breg br) (s.me.index' a off l) = true := fun hin => by
      have hp := mem_recLanes.mpr ⟨l, hW, hin, rfl⟩
      rw [hls] at hp
      cases hp
    rw [if_neg hout]
    rfl
  | cons p ps =>
    have hp : p ∈ recLanes (s.me.breg br) W (s.me.index' a off) := hls ▸ List.mem_cons_self ..
    obtain ⟨j, -, hin, rfl⟩ := mem_recLanes.mp hp
    rw [hsame j] at hin ⊢
    rw [if_pos hin, List.take_succ_cons, List.take_zero, State.laneVals, List.head?_cons, Option.bind_some,
      Acc.split_width wid rfl rfl (regGroup_length _ _) _ hk]
    exact congrArg (fun v => loadedWord _ _ v k) (State.laneOld_load (ls := []) rfl _ _)

/-- A thread of W gets the word of its element. -/
theorem State.loadAcc_lane
    (h : k < ((s.loadAcc W d wid acq sc br a off).trimmed.storages
      (s.accessVals (s.loadAcc W d wid acq sc br a off).trimmed)).length)
    (hW : W.getLsbD l.val = true) (hk : k < wid.regs) :
    ((s.loadAcc W d wid acq sc br a off).trimmed.storages
      (s.accessVals (s.loadAcc W d wid acq sc br a off).trimmed))[k].2.lane l =
      s.loadedLane wid (s.me.breg br) (s.me.index' a off l) k := by
  cases hu : (s.me.src a).isU with
  | true =>
    rw [Acc.storages_lane_uniform ((Acc.trimmed_unif _).trans hu)]
    exact State.loadAcc_lane_uniform hu hW hk
  | false =>
    rw [Acc.storages_lane ((Acc.trimmed_unif _).trans hu), Acc.trimmed_of_own hu]
    exact State.loadAcc_lane_own hW hk

end

/-- Settles O23: a load, of one element for all or of each thread's own, is an access that reads. -/
theorem recordLoads : Obligations.RecordLoads := by
  intro s g d wid hint acq sc br a off W r n i ds hread hmem hok hmap hdest hproof
  let x := s.loadAcc W d wid acq sc br a off
  have hop : x.trimmed.op = .load (widthSigned wid) := x.trimmed_op
  have hneed : x.trimmed.need = .read := x.trimmed_need
  have hissues : Issues s W a.scalar (a.uses 1) _ (recGuard r) x.trimmed :=
    { read := hread.readGate
      mem := hmem
      check := hok.recGate
      mapped := by
        rw [hneed, x.trimmed_bytes]
        exact hmap.mono (Acc.trimmed_lanes_sub x)
      plain := fun grad h => by rw [hop] at h; cases h
      release := by rw [x.trimmed_rel]; rfl
      dest := by rw [x.trimmed_dests]; exact hdest
      room := fun h => by rw [Acc.writes, hneed] at h; cases h
      now := .inr hproof }
  have hcons := State.accessed_consulted (s := s) (Acc.new_load hop)
  refine inFlight_of_access hissues (Acc.trimmed_once x) ((exec_ld g d wid hint acq sc br a off s).trans State.access_trimmed)
    x.trimmed_dests (regGroup_ne_nil (width_regs_pos wid)) (regGroup_eq d wid _)
    (fun k h h' l hl => ?_) (fun v hv => ⟨hcons.onlyReads hv, fun ha => ?_⟩)
  · have hk : k < wid.regs := by simpa using h
    rw [List.getElem_map, List.getElem_range, State.loadAcc_lane h' hl hk]
    refine ite_congr rfl (fun hin => ?_) fun _ => rfl
    have hx : s.xlat .read (recAddr r (i l)) = some (s.xlatOf .read (recAddr r (i l))) :=
      hmap.xlat (p := (l.val, recAddr r (i l))) (mem_recLanes.mpr ⟨l, hl, hin, rfl⟩)
    rw [hx]
    rfl
  · rw [State.advance_cores]
    exact State.accessed_cores (Acc.new_load hop) (x.trimmed_acq.trans ha) x.trimmed_rel x.trimmed_lam

end
end Sys2Proof.Machine

/-! PROOFS. Lanes that write in turn, in memory or in the version of their block, and O24 (R180, R186, R196, R303). -/

namespace Sys2Proof.Machine

/-! ### Lanes that write memory in turn (R180, R186, R194) -/

theorem leBytes_mod (n v : Nat) : leBytes n (v % 256 ^ n) = leBytes n v := by
  induction n generalizing v with
  | zero => rfl
  | succ n ih =>
    have hlow : BitVec.ofNat 8 (v % 256 ^ (n + 1)) = BitVec.ofNat 8 v := by
      apply BitVec.eq_of_toNat_eq
      rw [BitVec.toNat_ofNat, BitVec.toNat_ofNat, Nat.pow_succ']
      exact Nat.mod_mod_of_dvd _ (Nat.dvd_mul_right 256 _)
    have hhigh : v % 256 ^ (n + 1) / 256 = v / 256 % 256 ^ n := by
      rw [Nat.pow_succ', Nat.mod_mul_right_div_self]
    rw [leBytes, leBytes, hlow, hhigh, ih]

/-- One lane's turn in memory. -/
def State.memStep (s : State) (need : Need) (n : Nat) (f : Nat → Nat → Nat) (m : Mem) (p : Nat × Nat) : Mem :=
  m.putBytes (s.phys need p.2) (leBytes n (f p.1 (m.read (s.phys need p.2) n)))

theorem State.memAfter_eq (s : State) (need : Need) (n : Nat) (f : Nat → Nat → Nat) (ls : List (Nat × Nat)) :
    s.memAfter need n f ls = ls.foldl (s.memStep need n f) s.mem := rfl

/-- Bytes outside the elements of the lanes are as before. -/
theorem State.byte_memAfter (s : State) (need : Need) (n : Nat) (f : Nat → Nat → Nat) {ls : List (Nat × Nat)} {x : Nat}
    (h : ∀ p ∈ ls, x < s.phys need p.2 ∨ s.phys need p.2 + n ≤ x) : (s.memAfter need n f ls).byte x = s.mem.byte x := by
  rw [State.memAfter_eq]
  generalize s.mem = m
  induction ls generalizing m with
  | nil => rfl
  | cons p ps ih =>
    rw [List.foldl_cons, ih (fun q hq => h q (List.mem_cons_of_mem _ hq))]
    exact Mem.byte_putBytes_other _ _ _ _ (by rw [leBytes_length]; exact h p (List.mem_cons_self ..))

/-- An access that writes at each lane the low bytes of `f`. -/
def Acc.Puts (a : Acc) (f : Nat → Nat → Nat) : Prop :=
  ∀ l old, ∃ v, a.new l old = some v ∧ leBytes a.bytes v = leBytes a.bytes (f l old)

section
variable {s t : State} {a : Acc} {f : Nat → Nat → Nat} {p : Nat × Nat} {ls : List (Nat × Nat)}

theorem Acc.Puts.step (hf : a.Puts f) (t : State) (p : Nat × Nat) :
    ∃ v, s.laneStep a t p = t.writeLane (s.issuer s.cur.slot) a (s.xlatOf a.need p.2) v ∧
      leBytes a.bytes v = leBytes a.bytes (f p.1 (s.laneOld a t p)) := by
  obtain ⟨v, hnew, hv⟩ := hf p.1 (s.laneOld a t p)
  refine ⟨v, ?_, hv⟩
  rw [State.laneStep, State.actLane, hnew]

/-- Outside every version a lane's turn is one in memory. -/
theorem State.laneStep_mem (hf : a.Puts f) (hv : t.versioned s.me.blk = false)
    (hl : (s.xlatOf a.need p.2).loc < deviceEnd) (hd : (s.xlatOf a.need p.2).disc = false) :
    (s.laneStep a t p).mem = s.memStep a.need a.bytes f t.mem p ∧ (s.laneStep a t p).blocks = t.blocks := by
  obtain ⟨v, hstep, hbytes⟩ := hf.step (s := s) t p
  have hold : s.laneOld a t p = t.mem.read (s.phys a.need p.2) a.bytes := by
    rw [State.laneOld, State.readAt_mem hv hd, State.phys_eq]
  rw [hold] at hbytes
  have hv' : t.versioned (s.issuer s.cur.slot).party.bk = false := hv
  have hw : s.laneStep a t p = ((t.putMem (s.xlatOf a.need p.2).loc (leBytes a.bytes v)).ownWrite s.me.blk
      (s.xlatOf a.need p.2).loc (leBytes a.bytes v).length).order s.myCore a.acq a.rel a.lam a.sc
      (s.xlatOf a.need p.2).loc a.bytes true := by
    rw [hstep, State.writeLane, hv', State.writeAt_mem hv' hl hd]
    rfl
  have horder := State.order_consulted ((t.putMem (s.xlatOf a.need p.2).loc (leBytes a.bytes v)).ownWrite s.me.blk
    (s.xlatOf a.need p.2).loc (leBytes a.bytes v).length) s.myCore a.acq a.rel a.lam a.sc (s.xlatOf a.need p.2).loc a.bytes true
  rw [hw]
  refine ⟨horder.mem.trans ?_, horder.blocks.trans ?_⟩
  · rw [State.ownWrite_rest, State.memStep, ← hbytes, State.phys_eq]
    rfl
  · rw [State.ownWrite_rest]
    rfl

theorem State.laneSteps_mem (hf : a.Puts f) (h : Mapped s a.need a.bytes ls) (hv : t.versioned s.me.blk = false) :
    (ls.foldl (s.laneStep a) t).mem = ls.foldl (s.memStep a.need a.bytes f) t.mem ∧
      (ls.foldl (s.laneStep a) t).blocks = t.blocks := by
  induction ls generalizing t with
  | nil => exact ⟨rfl, rfl⟩
  | cons p ps ih =>
    have hl := h.here (List.mem_cons_self ..)
    have hd := h.kept (List.mem_cons_self ..)
    obtain ⟨hm, hb⟩ := State.laneStep_mem hf hv hl hd
    have hv' : (s.laneStep a t p).versioned s.me.blk = false :=
      (State.versioned_congr hb (State.laneStep_touched hl hd).launches _).trans hv
    obtain ⟨hms, hbs⟩ := ih (h.mono fun q hq => List.mem_cons_of_mem _ hq) hv'
    rw [List.foldl_cons, List.foldl_cons, hms, hm]
    exact ⟨rfl, hbs.trans hb⟩

/-- Memory after an access outside every version. -/
theorem State.accessed_mem (hf : a.Puts f) (h : Mapped s a.need a.bytes a.lanes) (hv : s.versioned s.me.blk = false) :
    (s.accessed a).mem = s.memAfter a.need a.bytes f a.lanes ∧ (s.accessed a).blocks = s.blocks := by
  have hc := s.cacheWalks_consulted s.myCtx a.need (a.lanes.map Prod.snd)
  have hend (t : State) := (t.dropKept_consulted (.warp s.cur.slot)).trans (State.settle_consulted _ s.myCtx (.warp s.cur.slot))
  obtain ⟨hm, hb⟩ := State.laneSteps_mem hf h ((State.versioned_congr hc.blocks hc.touched.launches _).trans hv)
  exact ⟨(hend _).mem.trans (hm.trans (by rw [hc.mem]; rfl)), (hend _).blocks.trans (hb.trans hc.blocks)⟩

/-! ### Lanes that write a version in turn (R196, R303) -/

@[simp] theorem State.setBlock_setBlock (s : State) (k : Nat) (x y : Block) : (s.setBlock k x).setBlock k y = s.setBlock k y := by
  change { s with blocks := Map.set (Map.set s.blocks k x) k y } = s.setBlock k y
  rw [Map.set_set_same]
  rfl

theorem State.noteTags_setBlock (s : State) (bk : Nat) (x : Block) (loc n : Nat) : (s.setBlock bk x).noteTags bk loc n =
    s.setBlock bk { x with verTags := (x.verTags ++ wordsOf loc n).dedup } := by
  rw [State.noteTags, State.block_setBlock_same, State.setBlock_setBlock]

theorem State.versioned_setBlock {bk : Nat} {x : Block} (hl : x.launch = (t.block bk).launch)
    (hp : x.phase = (t.block bk).phase) (hv : t.versioned bk = true) : (t.setBlock bk x).versioned bk = true := by
  obtain ⟨b, hb⟩ : ∃ b, Map.find t.blocks bk = some b := by
    cases hb : Map.find t.blocks bk with
    | none => simp [State.versioned, hb] at hv
    | some b => exact ⟨b, rfl⟩
  have hblock : t.block bk = b := by simp [State.block, Map.getD, hb]
  rw [hblock] at hl hp
  have hfind : Map.find (t.setBlock bk x).blocks bk = some x := Map.find_set_same _ _ _
  have hlaunch : (t.setBlock bk x).launch x.launch = t.launch b.launch := by rw [hl]; rfl
  rw [State.versioned, hb, Option.any_some] at hv
  rw [State.versioned, hfind, Option.any_some, hlaunch, hp]
  exact hv

/-- In a version a lane's turn changes the block's version. -/
theorem State.laneStep_version (hf : a.Puts f) (hacq : a.acq = false) (hv : t.versioned s.me.blk = true) :
    ∃ x, s.laneStep a t p = t.setBlock s.me.blk x ∧ x.launch = (t.block s.me.blk).launch ∧
      x.phase = (t.block s.me.blk).phase ∧ x.version = putVersion (t.block s.me.blk).version (s.phys a.need p.2)
        (leBytes a.bytes (f p.1 (s.laneOld a t p))) := by
  obtain ⟨v, hstep, hbytes⟩ := hf.step (s := s) t p
  have hv' : t.versioned (s.issuer s.cur.slot).party.bk = true := hv
  obtain ⟨lines, hw⟩ := State.writeAt_version (ctx := (s.issuer s.cur.slot).party.ctx)
    (who := (s.issuer s.cur.slot).party.who) (x := s.xlatOf a.need p.2) hv' (leBytes a.bytes v)
  rw [hstep, State.writeLane, hv', if_pos rfl, hw, hacq, State.order_plain, ← hbytes, State.phys_eq]
  dsimp only
  split
  · exact ⟨_, State.noteTags_setBlock _ _ _ _ _, rfl, rfl, rfl⟩
  · exact ⟨_, rfl, rfl, rfl, rfl⟩

theorem State.laneSteps_version (hf : a.Puts f) (hacq : a.acq = false) (hv : t.versioned s.me.blk = true)
    (ls : List (Nat × Nat)) (hconst : ∀ l x y, f l x = f l y) :
    (ls.foldl (s.laneStep a) t).mem = t.mem ∧
      (∀ b, b ≠ s.me.blk → (ls.foldl (s.laneStep a) t).block b = t.block b) ∧
      ((ls.foldl (s.laneStep a) t).block s.me.blk).version = ls.foldl (fun ver p =>
        putVersion ver (s.phys a.need p.2) (leBytes a.bytes (f p.1 0))) (t.block s.me.blk).version := by
  induction ls generalizing t with
  | nil => exact ⟨rfl, fun _ _ => rfl, rfl⟩
  | cons p ps ih =>
    obtain ⟨x, hstep, hlaunch, hphase, hver⟩ := State.laneStep_version (p := p) hf hacq hv
    obtain ⟨hm, hother, hv'⟩ := ih (t := s.laneStep a t p) (hstep ▸ State.versioned_setBlock hlaunch hphase hv)
    rw [hstep] at hm hother hv'
    rw [List.foldl_cons, List.foldl_cons, hstep]
    refine ⟨hm, fun b hb => (hother b hb).trans (State.block_setBlock_other _ _ _ _ hb), ?_⟩
    rw [hv', State.block_setBlock_same, hver, hconst p.1 _ 0]

/-- The block's version after an access that writes values of its own. -/
theorem State.accessed_version (hf : a.Puts f) (hacq : a.acq = false) (hv : s.versioned s.me.blk = true)
    (hconst : ∀ l x y, f l x = f l y) :
    (s.accessed a).mem = s.mem ∧ (∀ b, b ≠ s.me.blk → (s.accessed a).block b = s.block b) ∧
      ((s.accessed a).block s.me.blk).version = a.lanes.foldl (fun ver p =>
        putVersion ver (s.phys a.need p.2) (leBytes a.bytes (f p.1 0))) s.myBlock.version := by
  have hc := s.cacheWalks_consulted s.myCtx a.need (a.lanes.map Prod.snd)
  have hend (t : State) := (t.dropKept_consulted (.warp s.cur.slot)).trans (State.settle_consulted _ s.myCtx (.warp s.cur.slot))
  have hblock {x y : State} (h : Consulted x y) (b : Nat) : y.block b = x.block b := by rw [State.block, h.blocks]; rfl
  obtain ⟨hm, hb, hver⟩ := State.laneSteps_version hf hacq
    ((State.versioned_congr hc.blocks hc.touched.launches _).trans hv) a.lanes hconst
  refine ⟨(hend _).mem.trans (hm.trans hc.mem), fun b hne => ?_, ?_⟩
  · exact (hblock (hend _) b).trans ((hb b hne).trans (hblock hc b))
  · rw [show (s.accessed a).block s.me.blk = _ from hblock (hend _) _, hver, hblock hc]
    rfl

end

/-! ### ST (R186, R196) -/

section
variable {s : State} {a : Acc}

/-- The access that a store makes. -/
def State.storeAcc (s : State) (W : LaneMask) (wid : Width) (rel : Bool) (sc : Scope) (br : Nat) (a : Src) (off : Word)
    (v : Src) : Acc :=
  ⟨.store, widthBytes wid, false, rel, false, sc, [], recLanes (s.me.breg br) W (s.me.index' a off),
    s.me.words v wid.regs, false⟩

theorem exec_st (g : Guard) (wid : Width) (hint : Hint) (rel : Bool) (sc : Scope) (br : Nat) (a : Src) (off : Word) (v : Src)
    (s : State) : exec (.st g wid hint rel sc br a off v) s =
      s.access (s.wset g) (a.scalar || v.scalar) (a.uses 1 ++ v.uses wid.regs)
        (recGate (s.me.breg br) (s.wset g) (s.me.index' a off) (widthBytes wid)
          (decide (2 ^ recEsize (s.me.breg br) < widthBytes wid))) (recGuard (s.me.breg br))
        (s.storeAcc (s.wset g) wid rel sc br a off v) := rfl

theorem Acc.puts_store (hop : a.op = .store) : a.Puts fun l _ => wordsAt a.data l := by
  intro l old
  refine ⟨wordsAt a.data l % 2 ^ (8 * a.bytes), ?_, ?_⟩
  · rw [Acc.new, hop]
  · rw [Nat.pow_mul]
    exact leBytes_mod _ _

theorem State.destGate_nothing (s : State) (W : LaneMask) (us : List Use) : s.destGate W us [] = .go := by
  unfold State.destGate Warp.peakGate
  simp

theorem State.accessDone_mem (us : List Use) : (s.accessDone us a).mem = (s.accessed a).mem := State.advance_mem _

theorem State.accessDone_blocks (us : List Use) : (s.accessDone us a).blocks = (s.accessed a).blocks := State.advance_blocks _

theorem State.accessDone_block (us : List Use) (b : Nat) : (s.accessDone us a).block b = (s.accessed a).block b := by
  rw [State.block, State.accessDone_blocks]
  rfl

theorem onlyThere_of_memAfter {t : State} {need : Need} {n : Nat} {f : Nat → Nat → Nat} {ls : List (Nat × Nat)}
    (h : t.mem = s.memAfter need n f ls) : OnlyThere s t need n ls :=
  fun _ hx => (congrArg (fun m => Mem.byte m _) h).trans (State.byte_memAfter s need n f hx)

end

/-- Settles O24: a store is an access that writes, lane by lane, where its block's bytes are kept. -/
theorem recordStores : Obligations.RecordStores := by
  intro s g wid hint rel sc br a off v W r n us ls value hread hmem hok hmap hrel hroom
  let x := s.storeAcc W wid rel sc br a off v
  have hissues : Issues s W (a.scalar || v.scalar) us _ (recGuard r) x :=
    { read := hread.readGate
      mem := hmem
      check := hok.recGate
      mapped := hmap
      plain := fun grad h => by cases h
      release := hrel
      dest := State.destGate_nothing _ _ _
      room := fun _ => hroom
      now := .inl rfl }
  have hputs : x.Puts fun l _ => value l := Acc.puts_store rfl
  obtain ⟨hexec, haccess, hmoves, hme⟩ := moves_of_access hissues (fun h => by cases h)
    (exec_st g wid hint rel sc br a off v s) rfl
  refine ⟨_, hexec, haccess, hmoves, hme, fun hv => ?_, fun hv => ?_⟩
  · obtain ⟨hm, hb⟩ := State.accessed_mem hputs hmap hv
    have hm' := (State.accessDone_mem us).trans hm
    exact ⟨(State.accessDone_blocks us).trans hb, hm', onlyThere_of_memAfter hm'⟩
  · obtain ⟨hm, hb, hver⟩ := State.accessed_version hputs rfl hv fun _ _ _ => rfl
    refine ⟨fun y => ?_, fun b hne => ?_, ?_⟩
    · rw [State.accessDone_mem, hm]
    · rw [State.accessDone_block, hb b hne]
    · rw [State.accessDone_block, hver]
      rfl

end Sys2Proof.Machine

/-! PROOFS. Atomic operations on memory: what each thread finds and leaves, and O26 (R193 to R195). -/

namespace Sys2Proof.Machine

/-! ### ATOM and RED (R193 to R195) -/

section
variable {s : State} {a : Acc} {f : Nat → Nat → Nat} {r : Record} {W : LaneMask} {idx : Fin 32 → Int}

/-- What a lane of an access that writes delivers: what it finds once the lanes below it have written. -/
theorem State.laneWord_written (hf : a.Puts f) (hop : ∀ sgn, a.op = .load sgn → sgn = false)
    (hmap : Mapped s a.need a.bytes a.lanes) (hv : s.versioned s.me.blk = false) (hls : a.lanes = recLanes r W idx)
    {l : Fin 32} (hW : W.getLsbD l.val = true) {k : Nat} (hk : k < a.dests.length) :
    laneWord (s.accessVals a) k l.val = if recInside r (idx l) = true then
      BitVec.ofNat 32 ((s.memAfter a.need a.bytes f (a.lanes.filter fun p => decide (p.1 < l.val))).read
        (s.phys a.need (recAddr r (idx l))) a.bytes / 2 ^ (32 * k)) else 0 := by
  rw [State.laneWord_recLanes hls hW]
  refine ite_congr rfl (fun hin => ?_) fun _ => rfl
  have hp : (l.val, recAddr r (idx l)) ∈ a.lanes := hls ▸ mem_recLanes.mpr ⟨l, hW, hin, rfl⟩
  have hc := s.cacheWalks_consulted s.myCtx a.need (a.lanes.map Prod.snd)
  have hvc := (State.versioned_congr hc.blocks hc.touched.launches s.me.blk).trans hv
  have hbelow : Mapped s a.need a.bytes (a.lanes.filter fun p => decide (p.1 < l.val)) :=
    hmap.mono fun p hp => List.mem_of_mem_filter hp
  obtain ⟨hm, hb⟩ := State.laneSteps_mem hf hbelow hvc
  have hvt := (State.versioned_congr hb (State.laneSteps_touched hbelow _).launches s.me.blk).trans hvc
  rw [Acc.split_word a hop _ hk, State.laneOld, State.readAt_mem hvt (hmap.kept hp), hm, hc.mem, ← State.phys_eq]
  rfl

/-- The access that an atomic operation makes. -/
def State.atomAcc (s : State) (W : LaneMask) (dests : List Nat) (op : AtomOp) (w64 lam acq rel : Bool) (sc : Scope) (br : Nat)
    (a : Src) (off : Word) (v : Src) : Acc :=
  ⟨.atom op, if w64 then 8 else 4, acq || lam, rel || lam, lam, sc, dests, recLanes (s.me.breg br) W (s.me.index' a off),
    s.me.words v (atomWords op w64), false⟩

/-- The checks of an atomic operation. -/
def State.atomGate (s : State) (W : LaneMask) (w64 lam : Bool) (br : Nat) (a : Src) (off : Word) : Gate :=
  (Gate.trapIf (lam && s.myLaunch.vers) 0x08 1).and
    (recGate (s.me.breg br) W (s.me.index' a off) (if w64 then 8 else 4)
      (decide (2 ^ recEsize (s.me.breg br) < if w64 then 8 else 4)))

theorem State.atomic_eq (s : State) (g : Guard) (dests : List Nat) (op : AtomOp) (w64 lam acq rel : Bool) (sc : Scope)
    (br : Nat) (a : Src) (off : Word) (v : Src) : s.atomic g dests op w64 lam acq rel sc br a off v =
      s.access (s.wset g) (a.scalar || v.scalar) (a.uses 1 ++ v.uses (atomWords op w64)) (s.atomGate (s.wset g) w64 lam br a off)
        (recGuard (s.me.breg br)) (s.atomAcc (s.wset g) dests op w64 lam acq rel sc br a off v) := rfl

theorem exec_atom (g : Guard) (d : Nat) (op : AtomOp) (w64 lam acq rel : Bool) (sc : Scope) (br : Nat) (a : Src) (off : Word)
    (v : Src) (s : State) : exec (.atom g d op w64 lam acq rel sc br a off v) s =
      s.atomic g (regGroup d (if w64 then 2 else 1)) op w64 lam acq rel sc br a off v := rfl

theorem exec_red (g : Guard) (op : AtomOp) (w64 lam acq rel : Bool) (sc : Scope) (br : Nat) (a : Src) (off : Word)
    (v : Src) (s : State) : exec (.red g op w64 lam acq rel sc br a off v) s =
      s.atomic g [] op w64 lam acq rel sc br a off v := rfl

theorem Acc.puts_atom {op : AtomOp} (hop : a.op = .atom op) : a.Puts fun l old =>
    atomNew op (8 * a.bytes) old (wordsAt (a.data.take (a.bytes / 4)) l) (wordsAt (a.data.drop (a.bytes / 4)) l) := by
  intro l old
  refine ⟨_, ?_, rfl⟩
  rw [Acc.new, hop]

end

section
variable {s : State} {g : Guard} {op : AtomOp} {w64 lam acq rel : Bool} {sc : Scope} {br : Nat} {a : Src} {off : Word} {v : Src}

theorem State.atomGate_go {W : LaneMask} (hok : RecordOk s W (s.me.breg br) a off (if w64 then 8 else 4))
    (hlam : lam = true → s.myLaunch.vers = false) : s.atomGate W w64 lam br a off = .go := by
  have hvers : (lam && s.myLaunch.vers) = false := by
    cases hl : lam with
    | false => rfl
    | true => rw [hlam hl]; rfl
  rw [State.atomGate, hvers, Gate.trapIf_false, Gate.and_go]
  exact hok.recGate

/-- An atomic operation outside every version that passes its checks issues. -/
theorem atomic_issues (dests : List Nat) (hread : Readable s (a.scalar || v.scalar) (a.uses 1 ++ v.uses (atomWords op w64)))
    (hmem : s.memGate (s.wset g) (recGuard (s.me.breg br)) false = .go)
    (hok : RecordOk s (s.wset g) (s.me.breg br) a off (if w64 then 8 else 4))
    (hmap : Mapped s .both (if w64 then 8 else 4) (recLanes (s.me.breg br) (s.wset g) (s.me.index' a off)))
    (hrel : s.releaseGate (s.wset g) (rel || lam) = .go) (hv : s.versioned s.me.blk = false)
    (hlam : lam = true → s.myLaunch.vers = false)
    (hdest : s.destGate (s.wset g) (a.uses 1 ++ v.uses (atomWords op w64)) dests = .go)
    (hnow : dests = [] ∨ s.myLaunch.proof = false) :
    Issues s (s.wset g) (a.scalar || v.scalar) (a.uses 1 ++ v.uses (atomWords op w64)) (s.atomGate (s.wset g) w64 lam br a off)
      (recGuard (s.me.breg br)) (s.atomAcc (s.wset g) dests op w64 lam acq rel sc br a off v) where
  read := hread.readGate
  mem := hmem
  check := State.atomGate_go hok hlam
  mapped := hmap
  plain := fun grad h => by cases h
  release := hrel
  dest := hdest
  room := fun _ => by rw [State.versionFull, hv]; rfl
  now := hnow

end

/-- Settles O26: an atomic operation is an access that writes, with the old value where it has a destination. -/
theorem globalAtomics : Obligations.GlobalAtomics := by
  intro s g d op w64 lam acq rel sc br a off v W r n i ls k us ds x y f before hread hmem hok hmap hrel hv hlam
  refine ⟨fun hdest hproof => ?_, ?_⟩
  · let q := s.atomAcc W ds op w64 lam acq rel sc br a off v
    have hissues : Issues s W _ us _ _ q :=
      atomic_issues ds hread hmem hok hmap hrel hv hlam hdest (.inr hproof)
    have hputs : q.Puts f := Acc.puts_atom rfl
    obtain ⟨hm, hb⟩ := State.accessed_mem hputs hmap hv
    have hcount : 0 < if w64 then 2 else 1 := by cases w64 <;> decide
    refine inFlight_of_access hissues (fun h => by cases h) (exec_atom g d op w64 lam acq rel sc br a off v s) rfl
      (regGroup_ne_nil hcount) ?_ (fun j h h' l hl => ?_) (fun w hw => ?_)
    · rw [List.map_map]
      rfl
    · have hj : j < q.dests.length := by simpa [Acc.storages] using h'
      rw [Acc.storages_lane rfl, State.laneWord_written hputs (fun _ h => by cases h) hmap hv rfl hl hj, List.getElem_map,
        List.getElem_range]
      rfl
    · have hm' : ((s.accessed q).setMe w).advance.mem = s.memAfter .both n f ls := (State.advance_mem _).trans hm
      exact ⟨(State.accessed_touched (a := q) hmap).accesses hw, (State.advance_blocks _).trans hb, hm',
        onlyThere_of_memAfter hm'⟩
  · let q := s.atomAcc W [] op w64 lam acq rel sc br a off v
    have hissues : Issues s W _ us _ _ q :=
      atomic_issues [] hread hmem hok hmap hrel hv hlam (State.destGate_nothing _ _ _) (.inl rfl)
    obtain ⟨hm, hb⟩ := State.accessed_mem (a := q) (f := f) (Acc.puts_atom rfl) hmap hv
    obtain ⟨hexec, haccess, hmoves, hme⟩ := moves_of_access hissues (fun h => by cases h)
      (exec_red g op w64 lam acq rel sc br a off v s) rfl
    have hm' : (s.accessDone us q).mem = s.memAfter .both n f ls := (State.accessDone_mem us).trans hm
    exact ⟨_, hexec, haccess, hmoves, hme, (State.accessDone_blocks us).trans hb, hm', onlyThere_of_memAfter hm'⟩

end Sys2Proof.Machine

/-! PROOFS. Turns of lanes in core SRAM, waits that are armed, and O27 (R193 to R195, R202 to R204). -/

namespace Sys2Proof.Machine

/-! ### What turns in core SRAM may change -/

/-- A machine of which core SRAM, clocks and tags have changed alone. -/
structure SramTouched (s t : State) : Prop where
  rest : t = { s with cores := t.cores, tags := t.tags, blocks := t.blocks, segs := t.segs }
  cores : ∀ c, t.core c = { s.core c with lamport := (t.core c).lamport, galleys := (t.core c).galleys }
  blocks : ∀ b, t.block b = { s.block b with area := (t.block b).area }

section
variable {s t u : State}

theorem SramTouched.refl (s : State) : SramTouched s s := ⟨rfl, fun _ => rfl, fun _ => rfl⟩

theorem SramTouched.trans (h : SramTouched s t) (k : SramTouched t u) : SramTouched s u :=
  ⟨by rw [k.rest, h.rest], fun c => by rw [k.cores, h.cores], fun b => by rw [k.blocks, h.blocks]⟩

theorem SramWritten.touched (h : SramWritten s t) : SramTouched s t := by
  obtain ⟨co, bl, sg, rfl⟩ : ∃ co bl sg, t = { s with cores := co, blocks := bl, segs := sg } := ⟨_, _, _, h.rest⟩
  exact ⟨rfl, fun c => Core.clock_of_galleys (h.cores c), h.blocks⟩

theorem Clocked.touched (h : Clocked s t) : SramTouched s t := by
  obtain ⟨co, tg, rfl⟩ : ∃ co tg, t = { s with cores := co, tags := tg } := ⟨_, _, h.rest⟩
  refine ⟨rfl, fun c => ?_, fun _ => rfl⟩
  rw [h.cores]

theorem SramTouched.me (h : SramTouched s t) : t.me = s.me := by
  rw [h.rest]
  rfl

theorem SramTouched.cur (h : SramTouched s t) : t.cur = s.cur := by rw [h.rest]

/-- A machine that differs from `s` in core SRAM, clocks and tags, and has moved its run. -/
theorem SramTouched.access (h : SramTouched s t) (v : Warp) : SramAccess s (t.setMe v).advance := by
  obtain ⟨co, tg, bl, sg, rfl⟩ : ∃ co tg bl sg, t = { s with cores := co, tags := tg, blocks := bl, segs := sg } :=
    ⟨_, _, _, _, h.rest⟩
  obtain ⟨y, ls, hadv⟩ := State.advance_setMe_eq { s with cores := co, tags := tg, blocks := bl, segs := sg } v
  rw [hadv]
  exact ⟨rfl, fun k hk => Map.find_set_other _ _ _ _ hk, h.cores, h.blocks, fun _ => rfl⟩

theorem SramTouched.advance_me (h : SramTouched s t) (v : Warp) :
    ((t.setMe v).advance).me = v.issued s.cur.run fun _ => s.cur.next := by
  rw [State.advance_me, h.cur]

theorem State.bank_advance_setMe (s : State) (v : Warp) : ((s.setMe v).advance).bank = s.bank :=
  (State.bank_advance _).trans (State.bank_setMe s v)

/-- Core SRAM lies in `t` as it does in `s`: at the same addresses, in the same stores. -/
structure SramView (s t : State) : Prop where
  sorted : Map.sorted t.blocks = true
  place : ∀ bk a n, t.sram bk a n = s.sram bk a n
  banks : ∀ b, s.hasBank b → t.hasBank b

theorem SramView.refl (hs : Map.sorted s.blocks = true) : SramView s s := ⟨hs, fun _ _ _ => rfl, fun _ h => h⟩

theorem SramView.clocked (h : SramView s t) (k : Clocked t u) : SramView s u := by
  obtain ⟨co, tg, rfl⟩ : ∃ co tg, u = { t with cores := co, tags := tg } := ⟨_, _, k.rest⟩
  refine ⟨h.sorted, h.place, fun b hb => ?_⟩
  cases b <;> exact h.banks _ hb

theorem SramView.setBank (h : SramView s t) (b : Bank) (m : Mem) : SramView s (t.setBank b m) :=
  ⟨State.sorted_setBank h.sorted b m, fun bk a n => (State.sram_setBank h.sorted b m bk a n).trans (h.place bk a n),
    fun c hc => State.hasBank_setBank m (h.banks c hc)⟩

theorem SramView.sramPut (h : SramView s t) (bk a n v : Nat) : SramView s (t.sramPut bk a n v) := by
  unfold State.sramPut
  split
  next => exact h.setBank _ _
  next => exact h

theorem Clocked.bank (h : Clocked s t) : t.bank = s.bank := by
  obtain ⟨co, tg, rfl⟩ : ∃ co tg, t = { s with cores := co, tags := tg } := ⟨_, _, h.rest⟩
  funext b
  cases b with
  | area => rfl
  | seg => rfl
  | galley c lk =>
    have hg : Core.galleys (State.core { s with cores := co, tags := tg } c) = (s.core c).galleys := by rw [h.cores]
    exact congrArg (fun g => Map.getD g lk []) hg

end

/-! ### Lanes that read, combine and write in turn (R180, R194, R203) -/

section
variable (s : State) (addr : Fin 32 → Nat) (n : Nat) (acq rel : Bool) (sc : Scope) (f : Fin 32 → Nat → Nat)

/-- What lane `l` finds when the stores of core SRAM hold `m`. -/
def State.bankFound (m : Bank → Mem) (l : Fin 32) : Nat :=
  match s.sram s.me.blk (addr l) n with
  | .ok b off => (m b).read off n
  | _ => 0

/-- The machine after a lane's turn. -/
def State.sramTurn (t : State) (l : Fin 32) : State :=
  let u := t.sramPut s.me.blk (addr l) n (f l (t.sramNat s.me.blk (addr l) n))
  u.order s.myCore acq rel false sc (t.sramKey s.me.blk (addr l) n) n true

/-- What each lane of a list finds, the lanes before it having had their turns. -/
def State.sramOlds : List (Fin 32) → State → List (Nat × Nat)
  | [], _ => []
  | l :: ls, t => (l.val, t.sramNat s.me.blk (addr l) n) :: State.sramOlds ls (s.sramTurn addr n acq rel sc f t l)

theorem State.sramModify_eq (W : LaneMask) : s.sramModify W addr n acq rel sc f =
    ((LaneMask.lanes W).foldl (s.sramTurn addr n acq rel sc f) s,
      s.sramOlds addr n acq rel sc f (LaneMask.lanes W) s) := by
  suffices h : ∀ (ls : List (Fin 32)) (t : State) (vs : List (Nat × Nat)),
      ls.foldl (fun (p : State × List (Nat × Nat)) l =>
        (s.sramTurn addr n acq rel sc f p.1 l, p.2 ++ [(l.val, p.1.sramNat s.me.blk (addr l) n)])) (t, vs) =
      (ls.foldl (s.sramTurn addr n acq rel sc f) t, vs ++ s.sramOlds addr n acq rel sc f ls t) from h _ s []
  intro ls
  induction ls with
  | nil => intro t vs; rw [State.sramOlds, List.append_nil]; rfl
  | cons l ls ih =>
    intro t vs
    rw [List.foldl_cons, ih, List.foldl_cons, State.sramOlds, List.append_assoc]
    rfl

theorem State.sramTurn_touched (t : State) (l : Fin 32) : SramTouched t (s.sramTurn addr n acq rel sc f t l) := by
  unfold State.sramTurn
  exact (State.sramPut_written t _ _ _ _).touched.trans (State.order_clocked _ _ _ _ _ _ _ _ _).touched

theorem State.sramTurns_touched (ls : List (Fin 32)) (t : State) :
    SramTouched t (ls.foldl (s.sramTurn addr n acq rel sc f) t) := by
  induction ls generalizing t with
  | nil => exact SramTouched.refl t
  | cons l ls ih => exact (s.sramTurn_touched addr n acq rel sc f t l).trans (ih _)

section
variable {s addr n acq rel sc f} {t : State}

theorem SramView.turn (h : SramView s t) (l : Fin 32) : SramView s (s.sramTurn addr n acq rel sc f t l) := by
  unfold State.sramTurn
  exact (h.sramPut _ _ _ _).clocked (State.order_clocked _ _ _ _ _ _ _ _ _)

theorem SramView.sramNat (h : SramView s t) (l : Fin 32) : t.sramNat s.me.blk (addr l) n = s.bankFound addr n t.bank l := by
  unfold State.sramNat State.bankFound
  rw [h.place]
  rfl

variable (hn : 1 ≤ n) (hbk : (Map.find s.blocks s.me.blk).isSome = true)
include hn hbk

/-- A turn replaces the number at the lane's address. -/
theorem SramView.bank_turn (h : SramView s t) (l : Fin 32) :
    (s.sramTurn addr n acq rel sc f t l).bank = s.bankStep s.me.blk n addr f t.bank l := by
  unfold State.sramTurn
  refine (State.order_clocked _ _ _ _ _ _ _ _ _).bank.trans ?_
  rw [h.sramNat]
  unfold State.sramPut State.bankStep State.bankFound
  rw [h.place]
  cases hx : s.sram s.me.blk (addr l) n with
  | ok b off => exact funext fun c => State.bank_setBank (h.banks b (State.hasBank_of_sram hn hbk hx)) _ c
  | prot => rfl
  | out => rfl

theorem SramView.bank_turns (h : SramView s t) (ls : List (Fin 32)) :
    (ls.foldl (s.sramTurn addr n acq rel sc f) t).bank = ls.foldl (s.bankStep s.me.blk n addr f) t.bank := by
  induction ls generalizing t with
  | nil => rfl
  | cons l ls ih => rw [List.foldl_cons, List.foldl_cons, ih (h.turn l), h.bank_turn hn hbk]

/-- In an ascending list each lane finds what the lanes below it have left. -/
theorem SramView.find_olds (h : SramView s t) {ls : List (Fin 32)} (hasc : ls.Pairwise (· < ·)) {l : Fin 32} (hl : l ∈ ls) :
    (s.sramOlds addr n acq rel sc f ls t).find? (fun v => v.1 == l.val) = some (l.val,
      s.bankFound addr n ((ls.filter fun k => decide (k < l)).foldl (s.bankStep s.me.blk n addr f) t.bank) l) := by
  induction ls generalizing t with
  | nil => cases hl
  | cons k ks ih =>
    obtain ⟨hk, hks⟩ := List.pairwise_cons.mp hasc
    rcases List.mem_cons.mp hl with rfl | hl'
    · have hnone : (l :: ks).filter (fun k => decide (k < l)) = [] := by
        refine List.filter_eq_nil_iff.mpr (List.forall_mem_cons.mpr ⟨by simp, fun k hk' => ?_⟩)
        simpa using (hk k hk').le
      rw [hnone, State.sramOlds, List.find?_cons_of_pos (by simp), h.sramNat]
      rfl
    · have hlt := hk l hl'
      have hne : ((k.val, t.sramNat s.me.blk (addr k) n).1 == l.val) = false := by
        simpa using Nat.ne_of_lt hlt
      rw [State.sramOlds, List.find?_cons_of_neg (by simp [hne]), ih (h.turn k) hks hl', h.bank_turn hn hbk,
        List.filter_cons_of_pos (by simpa using hlt), List.foldl_cons]

end

section
variable {s addr n acq rel sc f} {W : LaneMask} (hn : 1 ≤ n) (hbk : (Map.find s.blocks s.me.blk).isSome = true)
  (hs : Map.sorted s.blocks = true)
include hn hbk hs

theorem State.sramModify_bank (b : Bank) : (s.sramModify W addr n acq rel sc f).1.bank b =
    s.banksAfter s.me.blk n addr f (LaneMask.lanes W) b := by
  rw [State.sramModify_eq, State.banksAfter_eq]
  exact congrFun ((SramView.refl hs).bank_turns hn hbk _) b

/-- A thread of W gets the words of what it found. -/
theorem State.oldLanes_lane {l : Fin 32} (hl : W.getLsbD l.val = true) (k : Nat) :
    (oldLanes (s.sramModify W addr n acq rel sc f).2 k).lane l =
      BitVec.ofNat 32 (s.bankBefore s.me.blk n addr f W l / 2 ^ (32 * k)) := by
  have hfind := (SramView.refl hs).find_olds (acq := acq) (rel := rel) (sc := sc) (addr := addr) (f := f) hn hbk
    (LaneMask.lanes_sorted W) (LaneMask.mem_lanes.mpr hl)
  rw [State.sramModify_eq, oldLanes, Storage.lane_g, Lanes.of_get, hfind]
  rfl

end

theorem State.sramModify_touched (W : LaneMask) : SramTouched s (s.sramModify W addr n acq rel sc f).1 := by
  rw [State.sramModify_eq]
  exact s.sramTurns_touched addr n acq rel sc f _ s

theorem State.acquireSram_clocked (W : LaneMask) : Clocked s (s.acquireSram W addr acq sc) := by
  unfold State.acquireSram
  split
  next =>
    suffices h : ∀ (ls : List (Fin 32)) (t : State), Clocked t (ls.foldl (fun t l =>
        t.order s.myCore true false false sc (s.sramKey s.me.blk (addr l) 4) 4 false) t) from h _ s
    intro ls
    induction ls with
    | nil => exact fun t => Clocked.refl t
    | cons l ls ih => exact fun t => (State.order_clocked _ _ _ _ _ _ _ _ _).trans (ih _)
  next => exact Clocked.refl s

end

/-! ### A wait that is armed (R197, R204) -/

section
variable {w : Warp} {x : Wait}

theorem Warp.arm_rest (w : Warp) (x : Wait) :
    w.arm x = { w with vregs := (w.arm x).vregs, waits := w.waits ++ [x] } := rfl

theorem Warp.arm_vreg (w : Warp) (x : Wait) (j : Nat) :
    (w.arm x).vreg j = if j = x.reg then ⟨(w.vreg j).st, (w.vreg j).pend ||| x.due⟩ else w.vreg j := by
  change (w.setVreg x.reg { w.vreg x.reg with pend := (w.vreg x.reg).pend ||| x.due }).vreg j = _
  by_cases h : j = x.reg
  · subst h
    rw [Warp.vreg_setVreg_same, if_pos rfl]
  · rw [Warp.vreg_setVreg_other _ _ _ _ h, if_neg h]

/-- An instruction that arms a wait has emptied its destination in W, freed its sources and moved its run, and has done
nothing else. -/
structure Arms (s t : State) (W : LaneMask) (us : List Use) (d : Nat) (x : Wait) : Prop where
  only : OnlyMe s t
  moves : Moves s t fun _ => s.cur.next
  me : t.me = { s.me with lanes := t.me.lanes, vregs := t.me.vregs, waits := t.me.waits, waitCount := 0 }
  dest : t.me.vreg d = ⟨(s.me.vreg d).st, W⟩
  others : ∀ j, j ≠ d → t.me.vreg j = if j ∈ s.frees us [d] then ⟨.n, 0⟩ else s.me.vreg j
  waits : t.me.waits = s.me.waits ++ [x]

theorem State.arms {s : State} {us : List Use} {W : LaneMask} {d : Nat} {x : Wait} (hx : x.reg = d) (hW : x.due = W)
    (hd : s.me.full d = true) : Arms s (s.setMe ((s.me.free (s.frees us [d])).arm x)).advance W us d x := by
  subst hx hW
  have hfree : x.reg ∉ s.frees us [x.reg] := State.frees_not_dest s us _ _ (List.mem_singleton_self _)
  have hfull : (s.me.vreg x.reg).pend = 0 := by simpa [Warp.full] using hd
  have hme := State.advance_me s ((s.me.free (s.frees us [x.reg])).arm x)
  have hvreg (j : Nat) : (s.setMe ((s.me.free (s.frees us [x.reg])).arm x)).advance.me.vreg j =
      ((s.me.free (s.frees us [x.reg])).arm x).vreg j := by rw [hme, Warp.issued_vreg]
  refine ⟨State.moveRun_only s _ _ (Warp.free_blk _ _), moves_of_me hme (Warp.free_lanes _ _), ?_, ?_, fun j hj => ?_, ?_⟩
  · rw [hme, Warp.issued_rest, Warp.arm_rest, Warp.free_rest]
  · rw [hvreg, Warp.arm_vreg, if_pos rfl, Warp.vreg_free, if_neg hfree, hfull]
    simp
  · rw [hvreg, Warp.arm_vreg, if_neg hj, Warp.vreg_free]
  · rw [hme, Warp.issued_rest, Warp.arm_rest, Warp.free_rest]

end

/-! ### ATOMS, ARRIVE and WAITPH -/

section
variable {s : State} {g : Guard} {d : Nat} {op : AtomOp} {w64 acq rel p : Bool} {sc : Scope} {a : Src} {off : Word} {v : Src}
  {n : Nat}

/-- The turns of the lanes of ATOMS. -/
def State.atomsTurns (s : State) (W : LaneMask) (op : AtomOp) (w64 acq rel : Bool) (sc : Scope) (a : Src) (off : Word)
    (v : Src) : State × List (Nat × Nat) :=
  let n := if w64 then 8 else 4
  let vs := s.me.words v (atomWords op w64)
  s.sramModify W (s.me.sramAt a off) n acq rel sc fun l old =>
    atomNew op (8 * n) old (wordsAt (vs.take (n / 4)) l.val) (wordsAt (vs.drop (n / 4)) l.val)

/-- What the lanes of ATOMS deliver. -/
def atomsFound (d : Nat) (w64 : Bool) (olds : List (Nat × Nat)) : List (Nat × Storage) :=
  (List.range ((if w64 then 8 else 4) / 4)).map fun i => (d + i, oldLanes olds i)

theorem exec_atoms (g : Guard) (d : Nat) (op : AtomOp) (w64 acq rel : Bool) (sc : Scope) (a : Src) (off : Word) (v : Src)
    (s : State) : exec (.atoms g d op w64 acq rel sc a off v) s =
      s.produceThen (s.wset g) (a.scalar || v.scalar) (a.uses 1 ++ v.uses (atomWords op w64))
        (((s.memGate (s.wset g) 0 false).and (s.sramGate s.me.blk (s.wset g) (s.me.sramAt a off) (if w64 then 8 else 4)
          (if w64 then 8 else 4))).and (s.releaseGate (s.wset g) rel))
        (atomsFound d w64 (s.atomsTurns (s.wset g) op w64 acq rel sc a off v).2)
        fun _ => (s.atomsTurns (s.wset g) op w64 acq rel sc a off v).1 := rfl

theorem atomsFound_fst (d : Nat) (w64 : Bool) (olds : List (Nat × Nat)) :
    (atomsFound d w64 olds).map Prod.fst = regGroup d (if w64 then 2 else 1) := by
  cases w64 <;> rfl

/-- The turns of the lanes of ARRIVE. -/
def State.arriveTurns (s : State) (W : LaneMask) (rel : Bool) (sc : Scope) (a : Src) (off : Word) (n : Nat) :
    State × List (Nat × Nat) := s.sramModify W (s.me.sramAt a off) 4 false rel sc fun _ old => arriveWord old n

theorem exec_arrive (g : Guard) (d : Nat) (nr rel : Bool) (sc : Scope) (a : Src) (off : Word) (n : Nat) (s : State) :
    exec (.arrive g d nr rel sc a off n) s = s.operateThen (s.wset g) a.scalar (a.uses 1)
      (((s.memGate (s.wset g) 0 false).and (s.sramGate s.me.blk (s.wset g) (s.me.sramAt a off) 4 4)).and
        (s.releaseGate (s.wset g) true))
      ((if nr then Effect.nothing else Effect.vec d (oldLanes (s.arriveTurns (s.wset g) rel sc a off n).2 0)).regs.map Prod.fst)
      (if nr then Effect.nothing else Effect.vec d (oldLanes (s.arriveTurns (s.wset g) rel sc a off n).2 0))
      fun _ => (s.arriveTurns (s.wset g) rel sc a off n).1 := rfl

theorem arriveWord_eq (old : Nat) : arriveWord old n =
    if n < old % 2 ^ 14 then old - n else (old ^^^ 2 ^ 31) / 2 ^ 14 * 2 ^ 14 + max (old / 2 ^ 14 % 2 ^ 14) 1 := by
  unfold arriveWord
  dsimp only
  by_cases h : old % 2 ^ 14 ≤ n
  · rw [if_pos h, if_neg (by omega)]
    rfl
  · rw [if_neg h, if_pos (by omega)]

/-- An instruction without a result that passes its checks needs no room. -/
theorem State.operateThen_nothing {W : LaneMask} {scalar : Bool} {us : List Use} (f : State → State)
    (h : Readable s scalar us) : s.operateThen W scalar us .go [] Effect.nothing f =
      .next ((f s).setMe (s.me.free (s.frees us []))).advance := by
  unfold State.operateThen
  have hzero : Effect.nothing.flags = LaneFlags.zero := rfl
  rw [h.readGate, State.destGate_nothing, hzero]
  simp only [Gate.and_go_right, LaneFlags.zero_trapping, ne_eq, not_true_eq_false, false_and, if_false,
    State.result_nothing, State.roomFor, Nat.sub_self]
  rfl

/-- The word that a thread's WAITPH sees. -/
def State.phaseWord (s : State) (W : LaneMask) (a : Src) (off : Word) (l : Fin 32) : Nat :=
  if W.getLsbD l.val then s.sramNat s.me.blk (s.me.sramAt a off l) 4 else 0

theorem exec_waitph_poll (g : Guard) (d : Nat) (acq : Bool) (sc : Scope) (a : Src) (off : Word) (p : Bool) (s : State) :
    exec (.waitph g d true acq sc a off p) s = s.operateThen (s.wset g) a.scalar (a.uses 1)
      (((s.memGate (s.wset g) 0 false).and (s.sramGate s.me.blk (s.wset g) (s.me.sramAt a off) 4 4)).and .go) [d]
      (Effect.vec d (.g (Lanes.of fun l => BitVec.ofNat 32 (s.phaseWord (s.wset g) a off l))))
      fun t => t.acquireSram (s.wset g) (s.me.sramAt a off) acq sc := rfl

/-- The wait that WAITPH arms. -/
def State.phaseWaiting (s : State) (W : LaneMask) (d : Nat) (p acq : Bool) (sc : Scope) (a : Src) (off : Word) : Wait :=
  phaseWait d p acq sc ((LaneMask.lanes W).map fun l => (l.val, s.me.sramAt a off l)) W (W == s.me.live) s.cur.pc s.cur.run

section
variable (hmem : s.memGate (s.wset g) 0 false = .go)
  (hsram : s.sramGate s.me.blk (s.wset g) (s.me.sramAt a off) 4 4 = .go)
include hmem hsram

theorem waitph_next (hr : Ready s (s.wset g) a.scalar (a.uses 1) [d]) (hW : s.wset g ≠ 0) (hp : s.myLaunch.proof = false) :
    exec (.waitph g d false acq sc a off p) s = .next (s.setMe ((s.me.free (s.frees (a.uses 1) [d])).arm
      (s.phaseWaiting (s.wset g) d p acq sc a off))).advance := by
  change execWaitph g d false acq sc a off p s = _
  unfold execWaitph
  simp only [hp, hmem, hsram, hr.readGate, hr.destGate, Bool.or_false, Bool.false_eq_true, if_false, Gate.and_go, hW]
  rfl

end

/-- One vector result beside turns in core SRAM. -/
theorem writes_of_turns {i : Instr} {t : State} {st : Storage} {W : LaneMask} {us : List Use} {x : Fin 32 → Word}
    (hi : exec i s = .next (t.setMe (s.result W (s.frees us [d]) (Effect.vec d st))).advance) (ht : SramTouched s t)
    (hx : ∀ l : Fin 32, W.getLsbD l.val = true → st.lane l = x l) :
    ∃ u, exec i s = .next u ∧ SramAccess s u ∧ Moves s u (fun _ => s.cur.next) ∧
      Writes s u { W := W, frees := s.frees us [d], regs := [(d, x)] } ∧ u.bank = t.bank := by
  have hme := ht.advance_me (s.result W (s.frees us [d]) (Effect.vec d st))
  have hwrites := State.result_writes s W (s.frees us [d]) (Effect.vec d st) (fun _ => s.cur.next) _ (by simp [Effect.vec])
    (fun r hr => by
      rw [List.mem_singleton.mp hr]
      exact State.frees_not_dest s us _ d (List.mem_singleton_self d)) hme
  have hchange : (Effect.vec d st).change W (s.frees us [d]) =
      { W := W, frees := s.frees us [d], regs := [(d, st.lane)] } := by
    simp only [Effect.change, Effect.vec, Effect.nothing, LaneFlags.of_zero, List.map_cons, List.map_nil, Option.map_none]
  rw [hchange] at hwrites
  refine ⟨_, hi, ht.access _, moves_of_me hme ?_, hwrites.of_eq_on (regs := [(d, x)]) rfl ?_, State.bank_advance_setMe _ _⟩
  · unfold State.result
    dsimp only
    rw [Warp.writeOthers_eq, State.storeRegs_rest, Warp.free_rest]
  · simpa using hx

end

/-- Settles O27: lanes take their turns in core SRAM; what a lane finds is what those below it have left. -/
theorem coreSramSynchronisation : Obligations.CoreSramSynchronisation := by
  intro s g d op w64 acq rel p sc a off v n W addr m k us ds f arrive kept hmem hbk hs
  have haddr : s.me.sramAt a off = addr := Warp.sramAt_eq _ _ _
  have harrive : (fun (_ : Fin 32) old => arriveWord old n) = arrive := funext fun _ => funext arriveWord_eq
  rw [← haddr, ← harrive]
  refine ⟨fun hsram hread hrel hdest hproof => ?_, fun hsram hrel _ _ => ⟨fun hready => ?_, fun hread => ?_⟩,
    fun hsram hready => ⟨?_, fun hW hproof => ?_⟩⟩
  · have hm : 1 ≤ m := by cases w64 <;> decide
    have htouched : SramTouched s (s.atomsTurns W op w64 acq rel sc a off v).1 := State.sramModify_touched _ _ _ _ _ _ _ _
    have hdest' : s.destGate W us ((atomsFound d w64 (s.atomsTurns W op w64 acq rel sc a off v).2).map Prod.fst) = .go := by
      rw [atomsFound_fst, hdest]
    have hnext : exec (.atoms g d op w64 acq rel sc a off v) s = .next ((s.atomsTurns W op w64 acq rel sc a off v).1.setMe
        (s.launched W 0 us (atomsFound d w64 (s.atomsTurns W op w64 acq rel sc a off v).2) 0)).advance := by
      rw [exec_atoms, State.produceThen, hread.readGate, hmem, hsram, hrel, hdest', ← LaneFlags.of_zero W]
      exact State.deliverRegs_launched hproof htouched.me
    have hfst {β : Type} (h : Nat → β) :
        ((List.range (if w64 then 2 else 1)).map fun j => (d + j, h j)).map Prod.fst = ds := by
      rw [List.map_map]
      rfl
    have := inFlight_of_launched (frame := fun t => SramAccess s t ∧
        ∀ b, t.bank b = s.banksAfter s.me.blk m (s.me.sramAt a off) f (LaneMask.lanes W) b)
      (rs := (List.range (if w64 then 2 else 1)).map fun j => (d + j, fun l =>
        BitVec.ofNat 32 (s.bankBefore s.me.blk m (s.me.sramAt a off) f W l / 2 ^ (32 * j))))
      hnext htouched.cur (by rw [hfst, atomsFound_fst]) (fun j h h' l hl _ => ?_) ⟨htouched.access _, fun b => ?_⟩
    · rwa [hfst] at this
    · simp only [atomsFound, List.getElem_map, List.getElem_range]
      exact State.oldLanes_lane hm hbk hs hl j
    · rw [State.bank_advance_setMe]
      exact State.sramModify_bank hm hbk hs b
  · have htouched : SramTouched s (s.arriveTurns W rel sc a off n).1 := State.sramModify_touched _ _ _ _ _ _ _ _
    have hnext := exec_arrive g d false rel sc a off n s
    rw [hmem, hsram, hrel] at hnext
    obtain ⟨t, ht, haccess, hmoves, hwrites, hbank⟩ := writes_of_turns
      (hnext.trans (State.operateThen_next _ hready rfl rfl)) htouched
      (fun l hl => (State.oldLanes_lane (by decide) hbk hs hl 0).trans (by rw [Nat.mul_zero, Nat.pow_zero, Nat.div_one]))
    exact ⟨t, ht, haccess, hmoves, hwrites, fun b => by
      rw [hbank]
      exact State.sramModify_bank (by decide) hbk hs b⟩
  · have htouched : SramTouched s (s.arriveTurns W rel sc a off n).1 := State.sramModify_touched _ _ _ _ _ _ _ _
    have hnext := exec_arrive g d true rel sc a off n s
    rw [hmem, hsram, hrel] at hnext
    have hme := htouched.advance_me (s.me.free (s.frees (a.uses 1) []))
    refine ⟨_, hnext.trans (State.operateThen_nothing _ hread), htouched.access _, moves_of_me hme (Warp.free_lanes _ _), ?_,
      fun b => ?_⟩
    · rw [hme, Warp.issued_rest]
    · rw [State.bank_advance_setMe]
      exact State.sramModify_bank (by decide) hbk hs b
  · have hclocked := State.acquireSram_clocked s (s.me.sramAt a off) acq sc W
    have hnext := exec_waitph_poll g d acq sc a off p s
    rw [hmem, hsram] at hnext
    obtain ⟨t, ht, haccess, hmoves, hwrites, hbank⟩ := writes_of_turns
      (hnext.trans (State.operateThen_next _ hready rfl rfl)) hclocked.touched (fun l hl => by
        rw [Storage.lane_g, Lanes.of_get, State.phaseWord, if_pos hl])
    exact ⟨t, ht, haccess, hmoves, hwrites, fun b => by rw [hbank, hclocked.bank]⟩
  · have harms := State.arms (s := s) (us := a.uses 1) (x := s.phaseWaiting W d p acq sc a off) rfl rfl
      (hready.targets d (List.mem_singleton_self d))
    exact ⟨_, waitph_next hmem hsram hready hW hproof, harms.only, harms.moves, harms.me, harms.dest, harms.others,
      harms.waits⟩

end Sys2Proof.Machine

/-! PROOFS. Guard words and fences, and O29 (R197 to R199, R282). -/

namespace Sys2Proof.Machine

/-! ### The guard of a record -/

theorem extract_guard_eq (r : Record) : (r.extractLsb' 192 64).toNat = recGuard r := by
  simp [recGuard, bitsOf, Nat.shiftRight_eq_div_pow]

theorem guardGate_go {r : Record} {W : LaneMask} (h : W ≠ 0 → recBad r = false ∧ recGuard r ≠ 0 ∧ recGuard r % 4 = 0) :
    guardGate r W = .go := by
  unfold guardGate
  split
  next => rfl
  next hW =>
    obtain ⟨hbad, hzero, halign⟩ := h hW
    simp [hbad, hzero, halign]

theorem guardLanes_ascending (r : Record) (W : LaneMask) : (guardLanes r W).Pairwise fun p q => p.1 < q.1 :=
  List.pairwise_map.mpr (LaneMask.lanes_sorted W)

section
variable {s : State} {g : Guard} {d : Nat} {add equal : Bool} {k : FenceKind} {sc : Scope} {br : Nat} {v : Src} {W : LaneMask}

/-- The access of an ACQ to its guard word. -/
def State.acqAcc (s : State) (W : LaneMask) (d : Nat) (mode : AcqMode) (sc : Scope) (br : Nat) (v : Src) : Acc :=
  ⟨.guardLoad mode, 4, true, false, false, sc, [d], guardLanes (s.me.breg br) W, [(s.me.src v).lanes], false⟩

/-- The access of a REL to its guard word. -/
def State.relAcc (s : State) (W : LaneMask) (add : Bool) (sc : Scope) (br : Nat) (v : Src) : Acc :=
  ⟨.guardStore add, 4, false, true, false, sc, [], guardLanes (s.me.breg br) W, [(s.me.src v).lanes], false⟩

/-! ### ACQ (R197) -/

theorem exec_acq_plain (g : Guard) (d : Nat) (sc : Scope) (br : Nat) (v : Src) (s : State) :
    exec (.acq g d .plain sc br v) s = s.access (s.wset g) false [] ((guardGate (s.me.breg br) (s.wset g)).and .go)
      (recGuard (s.me.breg br)) (s.acqAcc (s.wset g) d .plain sc br v) := rfl

theorem exec_acq_waiting (hp : s.myLaunch.proof = false) : exec (.acq g d (if equal then .eq else .ge) sc br v) s =
    s.acqArm (s.wset g) (v.uses 1) v.scalar (s.me.breg br) d equal
      (s.acqAcc (s.wset g) d (if equal then .eq else .ge) sc br v) (s.me.src v).lanes := by
  cases equal <;> exact if_neg (by simp [hp])

theorem State.acqAcc_new (mode : AcqMode) (l old : Nat) : (s.acqAcc W d mode sc br v).new l old = none := rfl

/-- What a plain ACQ gives a thread of W: the guard word. -/
theorem State.acqAcc_lane {l : Fin 32} (hl : W.getLsbD l.val = true) :
    laneWord (s.accessVals (s.acqAcc W d .plain sc br v)) 0 l.val = BitVec.ofNat 32 (s.readAt (s.version s.me.blk)
      (s.xlatOf .read (recGuard (s.me.breg br) % 2 ^ 57)) 4) := by
  have hp : (l.val, recGuard (s.me.breg br) % 2 ^ 57) ∈ guardLanes (s.me.breg br) W :=
    List.mem_map.mpr ⟨l, LaneMask.mem_lanes.mpr hl, rfl⟩
  let q := s.acqAcc W d .plain sc br v
  have hfind := State.find_laneVals s q (guardLanes_ascending _ _) hp (s.cacheWalks s.myCtx q.need (q.lanes.map Prod.snd))
  refine (congrArg (fun x : Option (Nat × List Word) => (x.bind fun p => p.2[0]?).getD 0) hfind).trans ?_
  rw [Option.bind_some, Acc.split_word q (fun _ h => by cases h) _ (by exact Nat.one_pos),
    State.laneOld_reads (State.acqAcc_new .plain), Nat.mul_zero, Nat.pow_zero, Nat.div_one, Option.getD_some]
  rfl

/-- A plain ACQ that passes its checks issues. -/
theorem acq_issues (hguard : guardGate (s.me.breg br) (s.wset g) = .go)
    (hmem : s.memGate (s.wset g) (recGuard (s.me.breg br)) false = .go)
    (hmap : Mapped s .read 4 (guardLanes (s.me.breg br) (s.wset g))) (hdest : s.destGate (s.wset g) [] [d] = .go)
    (hproof : s.myLaunch.proof = false) :
    Issues s (s.wset g) false [] ((guardGate (s.me.breg br) (s.wset g)).and .go) (recGuard (s.me.breg br))
      (s.acqAcc (s.wset g) d .plain sc br v) where
  read := (readable_nothing s).readGate
  mem := hmem
  check := by rw [hguard]; rfl
  mapped := hmap
  plain := fun grad h => by cases h
  release := rfl
  dest := hdest
  room := fun h => by cases h
  now := .inr hproof

/-- The wait that an ACQ arms. -/
def State.acqWaiting (s : State) (W : LaneMask) (d : Nat) (equal : Bool) (sc : Scope) (br : Nat) (v : Src) : Wait :=
  acqWait (recGuard (s.me.breg br)) d equal sc (guardLanes (s.me.breg br) W) (s.me.src v).lanes W (W == s.me.live) s.cur.pc
    s.cur.run

theorem acq_next (hguard : guardGate (s.me.breg br) (s.wset g) = .go)
    (hmem : s.memGate (s.wset g) (recGuard (s.me.breg br)) false = .go)
    (hmap : Mapped s .read 4 (guardLanes (s.me.breg br) (s.wset g))) (hread : Readable s v.scalar (v.uses 1))
    (hdest : s.destGate (s.wset g) (v.uses 1) [d] = .go) (hW : s.wset g ≠ 0) (hproof : s.myLaunch.proof = false) :
    exec (.acq g d (if equal then .eq else .ge) sc br v) s = .next (s.setMe ((s.me.free (s.frees (v.uses 1) [d])).arm
      (s.acqWaiting (s.wset g) d equal sc br v))).advance := by
  let q := s.acqAcc (s.wset g) d (if equal then .eq else .ge) sc br v
  have hways : s.ways (s.issuer s.cur.slot) q = s.hereWays .read (guardLanes (s.me.breg br) (s.wset g)) :=
    State.ways_here (a := q) (fun grad h => by cases h) hmap
  have hbyte : s.byteGate q.lanes q.bytes = .go := hmap.byteGate
  rw [exec_acq_waiting hproof]
  unfold State.acqArm
  simp only [show s.acqAcc (s.wset g) d (if equal then .eq else .ge) sc br v = q from rfl, hways, hread.readGate, hmem, hguard,
    hbyte, State.wayGate_here, hdest, Gate.and_go, hW, if_false]
  exact if_neg (ne_true_of_eq_false (State.any_here _ _ _ fun _ _ _ => rfl))

/-! ### REL (R198) -/

theorem exec_rel (g : Guard) (add : Bool) (sc : Scope) (br : Nat) (v : Src) (s : State) :
    exec (.rel g (if add then .add else .st) sc br v) s = s.access (s.wset g) v.scalar (v.uses 1)
      (guardGate (s.me.breg br) (s.wset g)) 0 (s.relAcc (s.wset g) add sc br v) := by
  cases add <;> rfl

theorem State.relAcc_puts : (s.relAcc W add sc br v).Puts fun l old =>
    (wordsAt [(s.me.src v).lanes] l + if add then old else 0) % 2 ^ 32 := fun _ _ => ⟨_, rfl, rfl⟩

/-- A REL outside every version that passes its checks issues. -/
theorem rel_issues (hguard : guardGate (s.me.breg br) (s.wset g) = .go) (hread : Readable s v.scalar (v.uses 1))
    (hmem : s.memGate (s.wset g) 0 false = .go) (hmap : Mapped s .both 4 (guardLanes (s.me.breg br) (s.wset g)))
    (hrel : s.releaseGate (s.wset g) true = .go) (hv : s.versioned s.me.blk = false) :
    Issues s (s.wset g) v.scalar (v.uses 1) (guardGate (s.me.breg br) (s.wset g)) 0 (s.relAcc (s.wset g) add sc br v) where
  read := hread.readGate
  mem := hmem
  check := hguard
  mapped := hmap
  plain := fun grad h => by cases h
  release := hrel
  dest := State.destGate_nothing _ _ _
  room := fun _ => by rw [State.versionFull, hv]; rfl
  now := .inl rfl

/-! ### FENCE (R199, R282) -/

theorem exec_fence (g : Guard) (k : FenceKind) (sc : Scope) (s : State) : exec (.fence g k sc) s = s.perform false []
    (((Gate.trapIf (k == .rw && wideScope sc && s.myLaunch.vers) 0x08 1).and (s.memGate (s.wset g) 0 false)).and
      (s.fenceGate (s.wset g) k))
    fun t => .next (if k == .rw then t.fenceClock s.myCore (LaneMask.count (s.wset g)) else t).advance := rfl

theorem State.fenceGate_go (h : W = 0 ∨ (s.outstanding = false ∧ (k = .w ∨ s.me.waitsDue W = false))) :
    s.fenceGate W k = .go := by
  refine if_neg ?_
  rcases h with rfl | ⟨hout, rfl | hdue⟩
  · simp
  · simp [hout]
  · simp [hout, hdue]

/-- The machine whose core has counted a full fence of the threads of W. -/
def State.fenced (s : State) (k : FenceKind) (W : LaneMask) : State :=
  if k == .rw then s.fenceClock s.myCore (LaneMask.count W) else s

theorem State.fenced_clocked : Clocked s (s.fenced k W) := by
  unfold State.fenced
  split
  · exact State.setCore_clocked s _ _
  · exact Clocked.refl s

theorem State.fenced_core (c : Nat) : (s.fenced k W).core c = if c = s.myCore ∧ k = .rw then
    { s.core c with lamport := (s.core c).lamport + LaneMask.count W } else s.core c := by
  unfold State.fenced
  by_cases hk : k = .rw
  · rw [hk, beq_self_eq_true, if_pos rfl, State.fenceClock]
    by_cases hc : c = s.myCore
    · rw [if_pos ⟨hc, rfl⟩, hc, State.core_setCore_same]
    · rw [if_neg fun h => hc h.1, State.core_setCore_other _ _ _ _ hc]
  · rw [if_neg (by simpa using hk), if_neg fun h => hk h.2]

theorem State.fenced_rest : s.fenced k W = { s with cores := (s.fenced k W).cores } := by
  unfold State.fenced
  split <;> rfl

theorem State.advance_fenced (w : Warp) : ((s.fenced k W).setMe w).advance = { s with
    warps := ((s.fenced k W).setMe w).advance.warps
    launches := ((s.fenced k W).setMe w).advance.launches
    cores := ((s.fenced k W).setMe w).advance.cores } := by
  obtain ⟨y, ls, hadv⟩ := State.advance_setMe_eq (s.fenced k W) w
  rw [hadv, State.fenced_rest]
  rfl

theorem fence_next (hmem : s.memGate (s.wset g) 0 false = .go) (hgate : s.fenceGate (s.wset g) k = .go)
    (hvers : k = .rw → wideScope sc = true → s.myLaunch.vers = false) :
    exec (.fence g k sc) s = .next ((s.fenced k (s.wset g)).setMe s.me).advance := by
  have hvers' : (k == .rw && wideScope sc && s.myLaunch.vers) = false := by
    by_cases hk : k = .rw
    · cases hw : wideScope sc with
      | false => simp
      | true => simp [hvers hk hw]
    · simp [hk]
  rw [exec_fence, hvers', hmem, hgate]
  refine (State.perform_go (readable_nothing s)).trans ?_
  rw [State.freed, State.frees_nothing, Warp.free_nothing]
  unfold State.fenced
  split <;> rfl

end

/-- Settles O29: ACQ and REL are accesses to one word, a waiting ACQ arms a wait, a fence moves a clock. -/
theorem guardsAndFences : Obligations.GuardsAndFences := by
  intro s g d add equal k sc br v W r G ls word guardOk acq
  have hG : G = recGuard r := extract_guard_eq r
  simp only [guardOk, ls, acq, hG]
  refine ⟨fun hok hproof hmem hmap => ⟨fun hdest => ?_, fun hread hdest hW => ?_⟩, fun hok hread hmem hmap hrel hv => ?_,
    fun hmem hgate hvers => ?_⟩
  · let q := s.acqAcc W d .plain sc br v
    have hflight := inFlight_of_access (a := q) (rs := [(d, fun _ => BitVec.ofNat 32
        (((s.xlat .read (recGuard r % 2 ^ 57)).map fun x => s.readAt (s.version s.me.blk) x 4).getD 0))])
      (acq_issues (guardGate_go hok) hmem hmap hdest hproof) (fun h => by cases h) (exec_acq_plain g d sc br v s) rfl
      (List.cons_ne_nil d []) rfl (fun j h h' l hl => ?_)
      (fun w hw => (State.accessed_consulted (a := q) (State.acqAcc_new .plain)).onlyReads hw)
    · rwa [State.frees_nothing] at hflight
    · obtain rfl : j = 0 := Nat.lt_one_iff.mp h
      have hx : s.xlat .read (recGuard r % 2 ^ 57) = some (s.xlatOf .read (recGuard r % 2 ^ 57)) :=
        hmap.xlat (p := (l.val, recGuard r % 2 ^ 57)) (List.mem_map.mpr ⟨l, LaneMask.mem_lanes.mpr hl, rfl⟩)
      rw [Acc.storages_lane rfl, State.acqAcc_lane hl, List.getElem_cons_zero, hx]
      rfl
  · have hfull : s.me.full d = true := by
      unfold State.destGate at hdest
      split at hdest
      next h => simpa using h
      next => cases hdest
    have harms := State.arms (s := s) (us := v.uses 1) (x := s.acqWaiting W d equal sc br v) rfl rfl hfull
    exact ⟨_, acq_next (guardGate_go hok) hmem hmap hread hdest hW hproof, harms.only, harms.moves, harms.me, harms.others,
      harms.dest, harms.waits⟩
  · let q := s.relAcc W add sc br v
    have hissues : Issues s W v.scalar (v.uses 1) _ 0 q := rel_issues (guardGate_go hok) hread hmem hmap hrel hv
    obtain ⟨hm, -⟩ := State.accessed_mem (a := q) State.relAcc_puts hmap hv
    obtain ⟨hexec, haccess, hmoves, hme⟩ := moves_of_access hissues (fun h => by cases h) (exec_rel g add sc br v s) rfl
    have hm' : (s.accessDone (v.uses 1) q).mem = s.memAfter .both 4
        (fun l old => (word l + if add then old else 0) % 2 ^ 32) (guardLanes r W) := (State.accessDone_mem _).trans hm
    exact ⟨_, hexec, haccess, hmoves, hme, hm', onlyThere_of_memAfter hm'⟩
  · have hclocked : Clocked s (s.fenced k W) := State.fenced_clocked
    have hme := hclocked.touched.advance_me s.me
    refine ⟨_, fence_next hmem (State.fenceGate_go hgate) hvers, moves_of_me hme rfl, ?_, ?_, fun c => ?_⟩
    · exact State.advance_fenced _
    · rw [hme, Warp.issued_rest]
    · exact (congrArg (fun x => Map.getD x c Core.reset) (State.advance_cores _)).trans (State.fenced_core c)

end Sys2Proof.Machine

/-! PROOFS. The request collector: what a GATHER or SCATTER on this device leaves there (R187, R188). -/

namespace Sys2Proof.Machine

/-! ### Lanes that the collector takes (R187) -/

section
variable {s : State} {need : Need} {n : Nat} {ls : List (Nat × Nat)}

/-- The lanes of an access with the places that the collector keeps. -/
def State.lanesHere (s : State) (need : Need) (ls : List (Nat × Nat)) : List (Nat × Xlat) :=
  ls.map fun p => (p.1, s.xlatOf need p.2)

theorem Mapped.lanesHere (h : Mapped s need n ls) :
    (ls.filterMap fun q => (s.xlat need q.2).map fun x => (q.1, x)) = s.lanesHere need ls := by
  have hsome (q : Nat × Nat) (hq : q ∈ ls) : ((s.xlat need q.2).map fun x => (q.1, x)) = some (q.1, s.xlatOf need q.2) := by
    rw [h.xlat hq]
    rfl
  rw [List.filterMap_congr hsome]
  exact congrFun List.filterMap_eq_map ls

/-- The collector takes every lane whose page is here and not discarded. -/
theorem Mapped.collected (h : Mapped s need n ls) (w : Bool) {p : Nat × Nat × Way} (hp : p ∈ s.hereWays need ls) :
    wayCollected w p.2.2 = p.2.2.xlat ∧ p.2.2.xlat.isSome = true := by
  obtain ⟨q, hq, rfl⟩ := List.mem_map.mp hp
  have hkept := h.kept hq
  exact ⟨by simp [wayCollected, Way.xlat, hkept], rfl⟩

theorem Mapped.taken (h : Mapped s need n ls) (w : Bool) :
    ((s.hereWays need ls).filterMap fun p => (wayCollected w p.2.2).map fun x => (p.1, x)) = s.lanesHere need ls := by
  rw [List.filterMap_congr fun p hp => by rw [(h.collected w hp).1], State.hereWays, List.filterMap_map]
  exact congrFun List.filterMap_eq_map ls

theorem Mapped.untaken (h : Mapped s need n ls) (w : Bool) :
    ((s.hereWays need ls).filter fun p => (wayCollected w p.2.2).isNone) = [] := by
  refine List.filter_eq_nil_iff.mpr fun p hp => ?_
  obtain ⟨heq, hsome⟩ := h.collected w hp
  rw [heq, Option.isNone_iff_eq_none]
  exact fun hnone => by rw [hnone] at hsome; cases hsome

theorem Mapped.waysJoin (h : Mapped s need n ls) (w : Bool) : waysJoin w (s.hereWays need ls) = true := by
  refine List.all_eq_true.mpr fun p hp => ?_
  obtain ⟨heq, hsome⟩ := h.collected w hp
  rw [heq, hsome, Bool.true_or]

theorem State.faultedAt_here : faultedAt (s.hereWays need ls) = [] := by
  rw [faultedAt, State.hereWays, List.filterMap_map]
  exact List.filterMap_eq_nil_iff.mpr fun _ _ => rfl

end

/-! ### A request put into the window -/

section
variable {s : State} {r : CollectReq}

theorem State.collectOne_core (h : (s.core s.myCore).requests + r.addrs.length ≤ 256) :
    (s.collectOne r).core s.myCore = { s.core s.myCore with
      collector := (s.core s.myCore).collector ++ [r]
      collectorAge := if (s.core s.myCore).collector.isEmpty then 0 else (s.core s.myCore).collectorAge } := by
  have hroom : r.addrs.length ≤ 256 - (s.core s.myCore).requests := by omega
  have hone : r.addrs.take (256 - (s.core s.myCore).requests) = r.addrs := List.take_of_length_le hroom
  unfold State.collectOne
  rw [State.core_setCore_same, hone]
  simp only [Nat.not_lt.mpr hroom, decide_false]
  rfl

theorem State.collectOne_consulted (s : State) (r : CollectReq) : Consulted s (s.collectOne r) := by
  refine ⟨⟨rfl, fun _ => rfl, fun c => ?_, fun _ => rfl⟩, rfl, rfl, rfl⟩
  unfold State.collectOne
  by_cases hc : c = s.myCore
  · subst hc
    rw [State.core_setCore_same]
  · rw [State.core_setCore_other _ _ _ _ hc]

/-- A window that is not full stays open. -/
theorem State.closeFullWindow_open {core : Nat} (h : (s.core core).requests < 256) : s.closeFullWindow core = s :=
  if_neg (by omega)

end

/-! ### GATHER and SCATTER -/

/-- What lets the lanes of a GATHER or SCATTER go to the collector at once, the window keeping room. -/
structure Collects (s : State) (W : LaneMask) (scalar : Bool) (us : List Use) (check : Gate) (guard : Nat) (a : Acc) :
    Prop where
  read : s.readGate scalar us = .go
  mem : s.memGate W guard true = .go
  check : check = .go
  mapped : Mapped s a.need a.bytes a.lanes
  plain : ∀ grad, a.op ≠ .brick grad
  dest : s.destGate W us a.dests = .go
  versioned : a.writes = true → s.versioned s.me.blk = false
  fits : (s.core s.myCore).requests + a.lanes.length < 256
  proof : s.myLaunch.proof = false

section
variable {s : State} {W : LaneMask} {scalar : Bool} {us : List Use} {check : Gate} {guard : Nat} {a : Acc}

/-- The machine once what waited for the executing warp's access is forgotten. -/
def State.settled (s : State) : State := (s.dropKept (.warp s.cur.slot)).settle s.myCtx (.warp s.cur.slot)

theorem State.settled_consulted (s : State) : Consulted s s.settled :=
  (State.dropKept_consulted s _).trans (State.settle_consulted _ _ _)

theorem State.settled_cores (s : State) : s.settled.cores = s.cores := State.settle_cores _ _ _

/-- The request of an access. -/
def State.collectReq (s : State) (W : LaneMask) (a : Acc) : CollectReq :=
  ⟨s.cur.slot, a.dests.head?, a.bytes, a.op == .load true, s.lanesHere a.need a.lanes,
    (s.lanesHere a.need a.lanes).map fun w => (w.1, wordsAt a.data w.1), W, W == s.me.live, a.unif⟩

/-- The machine with the lanes of an access in the collector. -/
def State.pooled (s : State) (W : LaneMask) (a : Acc) : State :=
  if a.lanes.isEmpty then s.settled else s.settled.collectOne (s.collectReq W a)

/-- The lanes that wait for the collector: all of W where one element serves them. -/
def Acc.collectHeld (a : Acc) (W : LaneMask) : LaneMask :=
  if a.unif && maskOf (a.lanes.map Prod.fst) != 0 then W else maskOf (a.lanes.map Prod.fst)

theorem State.pooled_consulted (s : State) (W : LaneMask) (a : Acc) : Consulted s (s.pooled W a) := by
  unfold State.pooled
  split
  · exact s.settled_consulted
  · exact s.settled_consulted.trans (State.collectOne_consulted _ _)

theorem State.settled_core (s : State) (c : Nat) : s.settled.core c = s.core c := by
  rw [State.core, s.settled_cores, State.core]

theorem State.pooled_collector (h : (s.core s.myCore).requests + a.lanes.length < 256) :
    ((s.pooled W a).core s.myCore).collector = (s.core s.myCore).collector ++
      (if a.lanes.isEmpty then [] else [s.collectReq W a]) := by
  have hcore : s.settled.myCore = s.myCore := by
    unfold State.myCore
    rw [s.settled_consulted.touched.cur]
  have hlen : (s.collectReq W a).addrs.length = a.lanes.length := by simp [State.collectReq, State.lanesHere]
  unfold State.pooled
  split
  · rw [s.settled_core, List.append_nil]
  · have hone := State.collectOne_core (s := s.settled) (r := s.collectReq W a) (by rw [hcore, s.settled_core, hlen]; omega)
    rw [hcore, s.settled_core] at hone
    rw [hone]

theorem State.pooled_requests (h : (s.core s.myCore).requests + a.lanes.length < 256) :
    ((s.pooled W a).core s.myCore).requests < 256 := by
  rw [Core.requests_eq] at h ⊢
  rw [State.pooled_collector (by rwa [Core.requests_eq])]
  split
  · simpa using Nat.lt_of_le_of_lt (Nat.le_add_right _ _) h
  · simpa [State.collectReq, State.lanesHere] using h

theorem State.collect_trimmed : s.collect W scalar us check guard a = s.collect W scalar us check guard a.trimmed := by
  unfold Acc.trimmed
  split
  next hu =>
    unfold State.collect
    rw [State.access_trimmed, Acc.trimmed, if_pos hu]
    simp only [hu, if_true, List.take_take, min_self]
  next => rfl

theorem State.collect_here (h : Collects s W scalar us check guard a) (hu : a.unif = true → a.lanes.take 1 = a.lanes) :
    s.collect W scalar us check guard a = andThen (s.endAccess (s.pooled W a) W (a.collectHeld W) us a (a.storages []))
      fun t => t.closeFullWindow s.myCore := by
  have htrim : (if a.unif = true then { a with lanes := a.lanes.take 1 } else a) = a := by
    split
    next hu' => rw [hu hu']
    next => rfl
  have hroom : s.versionGate (s.issuer s.cur.slot) a (s.hereWays a.need a.lanes) = .go :=
    State.versionGate_here fun hw => by rw [State.versionFull, h.versioned hw]; rfl
  have hnone : s.allLanes (s.issuer s.cur.slot) a [] = ⟨s, [], [], []⟩ := rfl
  have hempty : (s.lanesHere a.need a.lanes).isEmpty = a.lanes.isEmpty := List.isEmpty_map
  have hfst : (s.lanesHere a.need a.lanes).map Prod.fst = a.lanes.map Prod.fst := by
    rw [State.lanesHere, List.map_map]
    rfl
  unfold State.collect
  simp only [h.proof, Bool.false_eq_true, if_false, htrim, State.ways_here h.plain h.mapped, h.read, h.mapped.waysJoin, h.mem,
    h.check, h.mapped.byteGate, State.wayGate_here, hroom, h.dest, Gate.and_go, State.faultedAt_here, List.isEmpty_nil,
    Bool.not_true, Bool.false_and, h.mapped.taken, h.mapped.untaken, hnone, hempty, hfst, if_true, List.map_nil, List.nil_append]
  exact if_neg (ne_true_of_eq_false (State.any_here _ _ _ fun _ _ _ => rfl))

/-- The window stays open once the warp has moved on. -/
theorem State.pooled_open (h : (s.core s.myCore).requests + a.lanes.length < 256) (v : Warp) :
    (((s.pooled W a).setMe v).advance).closeFullWindow s.myCore = ((s.pooled W a).setMe v).advance := by
  refine State.closeFullWindow_open ?_
  rw [State.core, State.advance_cores]
  exact State.pooled_requests h

/-- A collected access with destinations leaves them in flight. -/
theorem State.collect_launched (h : Collects s W scalar us check guard a) (hu : a.unif = true → a.lanes.take 1 = a.lanes)
    (hd : a.dests ≠ []) : s.collect W scalar us check guard a =
      .next ((s.pooled W a).setMe (s.launched W (a.collectHeld W) us (a.storages []) 0)).advance := by
  have hme := (s.pooled_consulted W a).touched.me
  rw [State.collect_here h hu, State.endAccess_launched _ hd h.proof hme]
  exact congrArg Host.Outcome.next (State.pooled_open h.fits _)

/-- A collected access without destinations moves its run on. -/
theorem State.collect_moves (h : Collects s W scalar us check guard a) (hu : a.unif = true → a.lanes.take 1 = a.lanes)
    (hd : a.dests = []) : s.collect W scalar us check guard a =
      .next ((s.pooled W a).setMe (s.me.free (s.frees us []))).advance := by
  have hme := (s.pooled_consulted W a).touched.me
  rw [State.collect_here h hu, State.endAccess_moves _ hd hme]
  exact congrArg Host.Outcome.next (State.pooled_open h.fits _)

/-- What the collector holds once the warp has moved on. -/
theorem State.pooled_collector_advance (h : (s.core s.myCore).requests + a.lanes.length < 256) (v : Warp) :
    ((((s.pooled W a).setMe v).advance).core s.myCore).collector = (s.core s.myCore).collector ++
      (if a.lanes.isEmpty then [] else [s.collectReq W a]) := by
  rw [State.core, State.advance_cores]
  exact State.pooled_collector h

end

section
variable {s : State} {g : Guard} {d : Nat} {wid : Width} {br : Nat} {a v : Src} {off : Word} {W : LaneMask}

/-- The checks of GATHER and SCATTER, `op` being the instruction's code in a trap. -/
def State.collectGate (s : State) (W : LaneMask) (op : Nat) (wid : Width) (br : Nat) (a : Src) (off : Word) : Gate :=
  (s.roleGate W op gatherRole).and (recGate (s.me.breg br) W (s.me.index' a off) (widthBytes wid)
    (decide (2 ^ recEsize (s.me.breg br) < widthBytes wid)))

theorem State.collectGate_go {op : Nat} (hrole : W ≠ 0 → s.me.role = .any ∨ s.me.role = .feed)
    (hok : RecordOk s W (s.me.breg br) a off (widthBytes wid)) : s.collectGate W op wid br a off = .go := by
  have hallowed : (W != 0 && !gatherRole s.me.role) = false := by
    by_cases hW : W = 0
    · simp [hW]
    · rcases hrole hW with h | h <;> simp [h, gatherRole]
  rw [State.collectGate, State.roleGate, hallowed, Gate.trapIf_false, Gate.and_go]
  exact hok.recGate

/-- The access of a GATHER. -/
def State.gatherAcc (s : State) (W : LaneMask) (d : Nat) (wid : Width) (br : Nat) (a : Src) (off : Word) : Acc :=
  ⟨.load (widthSigned wid), widthBytes wid, false, false, false, .blk, regGroup d wid.regs,
    recLanes (s.me.breg br) W (s.me.index' a off), [], (s.me.src a).isU⟩

/-- The access of a SCATTER. -/
def State.scatterAcc (s : State) (W : LaneMask) (wid : Width) (br : Nat) (a : Src) (off : Word) (v : Src) : Acc :=
  ⟨.store, widthBytes wid, false, false, false, .blk, [], recLanes (s.me.breg br) W (s.me.index' a off),
    s.me.words v wid.regs, false⟩

theorem exec_gather (g : Guard) (d : Nat) (wid : Width) (hint : Hint) (br : Nat) (a : Src) (off : Word) (s : State) :
    exec (.gather g d wid hint br a off) s = s.collect (s.wset g) a.scalar (a.uses 1)
      (s.collectGate (s.wset g) 0x185 wid br a off) (recGuard (s.me.breg br)) (s.gatherAcc (s.wset g) d wid br a off) := rfl

theorem exec_scatter (g : Guard) (wid : Width) (hint : Hint) (br : Nat) (a : Src) (off : Word) (v : Src) (s : State) :
    exec (.scatter g wid hint br a off v) s = s.collect (s.wset g) (a.scalar || v.scalar) (a.uses 1 ++ v.uses wid.regs)
      (s.collectGate (s.wset g) 0x186 wid br a off) (recGuard (s.me.breg br)) (s.scatterAcc (s.wset g) wid br a off v) := rfl

theorem maskOf_one_ne_zero (l : Fin 32) : maskOf [l.val] ≠ 0 := fun h => by
  have hbit : (maskOf [l.val]).getLsbD l.val = true := by simp [maskOf, LaneMask.getLsbD_of]
  rw [h] at hbit
  simp at hbit

/-- One request for all lanes of W holds them all, whichever lane it is made for. -/
theorem State.gatherAcc_held : (s.gatherAcc W d wid br a off).trimmed.collectHeld W =
    if (s.me.src a).isU = true ∧ recLanes (s.me.breg br) W (s.me.index' a off) ≠ [] then W
    else maskOf ((recLanes (s.me.breg br) W (s.me.index' a off)).map Prod.fst) := by
  cases hu : (s.me.src a).isU with
  | false =>
    rw [Acc.trimmed_of_own hu, Acc.collectHeld, show (s.gatherAcc W d wid br a off).unif = false from hu]
    simp [State.gatherAcc]
  | true =>
    have htrim : (s.gatherAcc W d wid br a off).trimmed =
        { s.gatherAcc W d wid br a off with lanes := (recLanes (s.me.breg br) W (s.me.index' a off)).take 1 } := if_pos hu
    rw [htrim, Acc.collectHeld, show ({ s.gatherAcc W d wid br a off with
      lanes := (recLanes (s.me.breg br) W (s.me.index' a off)).take 1 } : Acc).unif = true from hu]
    cases hls : recLanes (s.me.breg br) W (s.me.index' a off) with
    | nil => simp [maskOf_nil]
    | cons p ps =>
      obtain ⟨l, -, -, rfl⟩ := mem_recLanes.mp (hls ▸ List.mem_cons_self (a := p) (l := ps))
      have hne := maskOf_one_ne_zero l
      have hbne : (maskOf [l.val] != 0) = true := by simpa using hne
      simp only [List.take_succ_cons, List.take_zero, List.map_cons, List.map_nil, hbne, Bool.and_self, if_true, ne_eq,
        List.cons_ne_nil, not_false_eq_true, and_self]

/-- What an access that has not delivered holds in every destination: zeros. -/
theorem Acc.storages_nothing (x : Acc) {k : Nat} (h : k < (x.storages []).length) (l : Fin 32) :
    (x.storages [])[k].2.lane l = 0 := by
  cases hu : x.unif with
  | false => exact Acc.storages_lane hu [] h l
  | true => exact Acc.storages_lane_uniform hu [] h l

section
variable (hmem : s.memGate (s.wset g) (recGuard (s.me.breg br)) true = .go)
  (hok : RecordOk s (s.wset g) (s.me.breg br) a off (widthBytes wid)) (hproof : s.myLaunch.proof = false)
  (hrole : s.wset g ≠ 0 → s.me.role = .any ∨ s.me.role = .feed)
  (hfits : (s.core s.myCore).requests + (recLanes (s.me.breg br) (s.wset g) (s.me.index' a off)).length < 256)
include hmem hok hproof hrole hfits

theorem gather_collects (hread : Readable s a.scalar (a.uses 1))
    (hmap : Mapped s .read (widthBytes wid) (recLanes (s.me.breg br) (s.wset g) (s.me.index' a off)))
    (hdest : s.destGate (s.wset g) (a.uses 1) (regGroup d wid.regs) = .go) :
    Collects s (s.wset g) a.scalar (a.uses 1) (s.collectGate (s.wset g) 0x185 wid br a off) (recGuard (s.me.breg br))
      (s.gatherAcc (s.wset g) d wid br a off).trimmed where
  read := hread.readGate
  mem := hmem
  check := State.collectGate_go hrole hok
  mapped := by
    rw [Acc.trimmed_need, Acc.trimmed_bytes]
    exact hmap.mono (Acc.trimmed_lanes_sub _)
  plain := fun grad h => by
    rw [Acc.trimmed_op] at h
    cases h
  dest := by
    rw [Acc.trimmed_dests]
    exact hdest
  versioned := fun h => by
    rw [Acc.writes, Acc.trimmed_need] at h
    cases h
  fits := by
    refine Nat.lt_of_le_of_lt (Nat.add_le_add_left ?_ _) hfits
    unfold Acc.trimmed
    split
    · exact List.length_take_le' 1 _
    · exact Nat.le_refl _
  proof := hproof

theorem scatter_collects (hread : Readable s (a.scalar || v.scalar) (a.uses 1 ++ v.uses wid.regs))
    (hmap : Mapped s .write (widthBytes wid) (recLanes (s.me.breg br) (s.wset g) (s.me.index' a off)))
    (hv : s.versioned s.me.blk = false) :
    Collects s (s.wset g) (a.scalar || v.scalar) (a.uses 1 ++ v.uses wid.regs) (s.collectGate (s.wset g) 0x186 wid br a off)
      (recGuard (s.me.breg br)) (s.scatterAcc (s.wset g) wid br a off v) where
  read := hread.readGate
  mem := hmem
  check := State.collectGate_go hrole hok
  mapped := hmap
  plain := fun grad h => by cases h
  dest := State.destGate_nothing _ _ _
  versioned := fun _ => hv
  fits := hfits
  proof := hproof

end

/-- The request that a GATHER leaves. -/
theorem State.gatherAcc_req (hmap : Mapped s .read (widthBytes wid) (recLanes (s.me.breg br) W (s.me.index' a off))) :
    let ls := recLanes (s.me.breg br) W (s.me.index' a off)
    let asked := if (s.me.src a).isU = true then ls.take 1 else ls
    s.collectReq W (s.gatherAcc W d wid br a off).trimmed = ⟨s.cur.slot, some d, widthBytes wid, wid == .s8 || wid == .s16,
      asked.filterMap fun q => (s.xlat .read q.2).map fun x => (q.1, x), asked.map fun q => (q.1, 0), W, W == s.me.live,
      (s.me.src a).isU⟩ := by
  intro ls asked
  have hlanes : (s.gatherAcc W d wid br a off).trimmed.lanes = asked := by
    unfold Acc.trimmed
    split
    next h => exact (if_pos h).symm
    next h => exact (if_neg h).symm
  have hsub : ∀ q ∈ asked, q ∈ ls := by
    rw [← hlanes]
    exact Acc.trimmed_lanes_sub _
  have hhead : (regGroup d wid.regs).head? = some d := by cases wid <;> rfl
  have hsigned : (AccOp.load (widthSigned wid) == AccOp.load true) = (wid == .s8 || wid == .s16) := by cases wid <;> rfl
  have htrim : (s.gatherAcc W d wid br a off).trimmed = { s.gatherAcc W d wid br a off with lanes := asked } :=
    hlanes ▸ Acc.trimmed_rest _
  rw [(hmap.mono hsub).lanesHere, State.collectReq, htrim]
  simp only [State.gatherAcc, Acc.need, hhead, hsigned, State.lanesHere, List.map_map]
  rfl

/-- The request that a SCATTER leaves. -/
theorem State.scatterAcc_req (hmap : Mapped s .write (widthBytes wid) (recLanes (s.me.breg br) W (s.me.index' a off))) :
    let ls := recLanes (s.me.breg br) W (s.me.index' a off)
    s.collectReq W (s.scatterAcc W wid br a off v) = ⟨s.cur.slot, none, widthBytes wid, false,
      ls.filterMap fun q => (s.xlat .write q.2).map fun x => (q.1, x),
      ls.map fun q => (q.1, wordsAt (s.me.words v wid.regs) q.1), W, W == s.me.live, false⟩ := by
  intro ls
  rw [hmap.lanesHere, State.collectReq]
  simp only [State.scatterAcc, State.lanesHere, List.map_map]
  rfl

theorem Acc.trimmed_isEmpty (x : Acc) : x.trimmed.lanes.isEmpty = x.lanes.isEmpty := by
  unfold Acc.trimmed
  split
  · cases h : x.lanes <;> rfl
  · rfl

/-- A GATHER leaves its request in the collector and its destinations in flight. -/
theorem gather_inFlight (hint : Hint) (h : Collects s (s.wset g) a.scalar (a.uses 1) (s.collectGate (s.wset g) 0x185 wid br a off)
    (recGuard (s.me.breg br)) (s.gatherAcc (s.wset g) d wid br a off).trimmed) :
    InFlight (.gather g d wid hint br a off) s (s.wset g) ((s.gatherAcc (s.wset g) d wid br a off).trimmed.collectHeld (s.wset g))
      (s.frees (a.uses 1) (regGroup d wid.regs)) ((regGroup d wid.regs).map fun k => (k, fun _ => 0)) 0
      fun t => OnlyReads s t ∧ (t.core s.myCore).collector = (s.core s.myCore).collector ++
        (if (recLanes (s.me.breg br) (s.wset g) (s.me.index' a off)).isEmpty then []
          else [s.collectReq (s.wset g) (s.gatherAcc (s.wset g) d wid br a off).trimmed]) := by
  have hdests : (s.gatherAcc (s.wset g) d wid br a off).trimmed.dests = regGroup d wid.regs := Acc.trimmed_dests _
  have hlanes := Acc.trimmed_isEmpty (s.gatherAcc (s.wset g) d wid br a off)
  have hnext := (exec_gather g d wid hint br a off s).trans (State.collect_trimmed.trans
    (State.collect_launched h (Acc.trimmed_once _) (hdests ▸ regGroup_ne_nil (width_regs_pos wid))))
  have hcons := State.pooled_consulted s (s.wset g) (s.gatherAcc (s.wset g) d wid br a off).trimmed
  have hfst : ((regGroup d wid.regs).map fun k => (k, fun _ : Fin 32 => (0 : Word))).map Prod.fst = regGroup d wid.regs := by
    rw [List.map_map]
    exact List.map_id _
  have hpool := State.pooled_collector_advance (W := s.wset g) h.fits
  rw [hlanes] at hpool
  have hflight := inFlight_of_launched (frame := fun t => OnlyReads s t ∧ (t.core s.myCore).collector =
      (s.core s.myCore).collector ++ (if (recLanes (s.me.breg br) (s.wset g) (s.me.index' a off)).isEmpty then []
        else [s.collectReq (s.wset g) (s.gatherAcc (s.wset g) d wid br a off).trimmed]))
    (rs := (regGroup d wid.regs).map fun k => (k, fun _ => 0)) hnext hcons.touched.cur
    (by rw [hfst, Acc.storages_fst, hdests]) (fun k _ _ l _ _ => by rw [Acc.storages_nothing, List.getElem_map])
    ⟨hcons.onlyReads (by rw [State.launched_rest]), hpool _⟩
  rwa [hfst] at hflight

/-- A SCATTER leaves its request in the collector and moves its run on. -/
theorem scatter_pools (hint : Hint) (h : Collects s (s.wset g) (a.scalar || v.scalar) (a.uses 1 ++ v.uses wid.regs)
    (s.collectGate (s.wset g) 0x186 wid br a off) (recGuard (s.me.breg br)) (s.scatterAcc (s.wset g) wid br a off v)) :
    ∃ t, exec (.scatter g wid hint br a off v) s = .next t ∧ OnlyReads s t ∧ Moves s t (fun _ => s.cur.next) ∧
      t.me = { s.me.free (s.frees (a.uses 1 ++ v.uses wid.regs) []) with lanes := t.me.lanes, waitCount := 0 } ∧
      (t.core s.myCore).collector = (s.core s.myCore).collector ++
        (if (recLanes (s.me.breg br) (s.wset g) (s.me.index' a off)).isEmpty then []
          else [s.collectReq (s.wset g) (s.scatterAcc (s.wset g) wid br a off v)]) := by
  have hcons := State.pooled_consulted s (s.wset g) (s.scatterAcc (s.wset g) wid br a off v)
  have hme := hcons.touched.advance_me (s.me.free (s.frees (a.uses 1 ++ v.uses wid.regs) []))
  refine ⟨_, (exec_scatter g wid hint br a off v s).trans (State.collect_moves h (fun h => by cases h) rfl),
    hcons.onlyReads (Warp.free_blk _ _), moves_of_me hme (Warp.free_lanes _ _), ?_, State.pooled_collector_advance h.fits _⟩
  rw [hme, Warp.issued_rest]

end

end Sys2Proof.Machine

/-! PROOFS. Prefetch and discard (R189, R190, R420). -/

namespace Sys2Proof.Machine

/-! ### PREF (R189) -/

section
variable {s : State} {g : Guard} {keep : Bool} {br : Nat} {a : Src} {off : Word} {W : LaneMask}

theorem exec_pref (g : Guard) (keep : Bool) (br : Nat) (a : Src) (off : Word) (s : State) :
    exec (.pref g keep br a off) s = s.perform a.scalar (a.uses 1) ((s.memGate (s.wset g) (recGuard (s.me.breg br)) false).and
      (Gate.trapIf (s.wset g != 0 && recBad (s.me.breg br)) 0x08 2)) fun t => .next t.advance := rfl

theorem recBad_passes {r : Record} (h : W ≠ 0 → recBad r = false) : Gate.trapIf (W != 0 && recBad r) 0x08 2 = .go := by
  have hbad : (W != 0 && recBad r) = false := by
    by_cases hW : W = 0
    · simp [hW]
    · simp [h hW]
  rw [hbad, Gate.trapIf_false]

theorem pref_steps (hread : Readable s a.scalar (a.uses 1)) (hmem : s.memGate (s.wset g) (recGuard (s.me.breg br)) false = .go)
    (hbad : s.wset g ≠ 0 → recBad (s.me.breg br) = false) :
    Steps (.pref g keep br a off) s (s.me.free (s.frees (a.uses 1) [])) (s.laneAt fun _ => s.cur.next) := by
  refine steps_of_advance ?_ (Warp.free_blk _ _) (Warp.free_lanes _ _)
  rw [exec_pref, hmem, recBad_passes hbad]
  exact State.perform_go hread

end

/-! ### Pages marked discarded (R190, R420) -/

/-- A machine of which page tables, frames, cached entries and overwritten code have changed alone. -/
structure Discards (s t : State) : Prop where
  rest : t = { s with mem := t.mem, frames := t.frames, ctxs := t.ctxs, oldCode := t.oldCode }
  ctxs : ∀ c, t.ctx c = { s.ctx c with tlb := (t.ctx c).tlb }

/-- DISC set in the leaf entry of a page that is mapped, writable and not discarded. -/
def discardEntry (m : Mem) (x : Xlat) : Mem :=
  let e := m.read x.leaf 8
  if bitOf e 0 = true ∧ bitOf e 2 = true ∧ bitOf e 8 = false then Mem.write m x.leaf 8 (e + 2 ^ 8) else m

section
variable {s t u : State} {bk : Nat} {x : Xlat}

theorem Discards.refl (s : State) : Discards s s := ⟨rfl, fun _ => rfl⟩

theorem Discards.trans (h : Discards s t) (k : Discards t u) : Discards s u :=
  ⟨by rw [k.rest, h.rest], fun c => by rw [k.ctxs, h.ctxs]⟩

theorem Map.find_map_snd {α β : Type} (f : α → β) (m : List (Nat × α)) (k : Nat) :
    Map.find (m.map fun p => (p.1, f p.2)) k = (Map.find m k).map f := by
  induction m with
  | nil => rfl
  | cons p m ih =>
    rw [List.map_cons, Map.find_cons, Map.find_cons, ih]
    split <;> rfl

/-- A context without its cached copies of an entry. -/
def Context.forget (a : Nat) (c : Context) : Context := { c with tlb := c.tlb.filter fun e => e.addr != a }

theorem State.dropEntry_discards (s : State) (a : Nat) : Discards s (s.dropEntry a) := by
  unfold State.dropEntry
  split
  next =>
    refine ⟨rfl, fun c => ?_⟩
    have hctx : State.ctx { s with ctxs := s.ctxs.map fun (p : Nat × Context) => (p.1, p.2.forget a) } c =
        ((Map.find s.ctxs c).map (Context.forget a)).getD Context.reset :=
      congrArg (fun x => Option.getD x Context.reset) (Map.find_map_snd (Context.forget a) s.ctxs c)
    refine hctx.trans ?_
    change _ = { s.ctx c with
      tlb := (State.ctx { s with ctxs := s.ctxs.map fun (p : Nat × Context) => (p.1, p.2.forget a) } c).tlb }
    rw [hctx, State.ctx, Map.getD]
    cases Map.find s.ctxs c <;> rfl
  next => exact Discards.refl s

theorem State.dropEntry_mem (s : State) (a : Nat) : (s.dropEntry a).mem = s.mem := by
  unfold State.dropEntry
  split <;> rfl

theorem State.ownWrite_discards (s : State) (bk loc n : Nat) : Discards s (s.ownWrite bk loc n) := by
  rw [State.ownWrite_rest]
  exact ⟨rfl, fun _ => rfl⟩

theorem State.discardPage_discards (s : State) (bk : Nat) (x : Xlat) :
    Discards s (s.discardPage bk x) ∧ (s.discardPage bk x).mem = discardEntry s.mem x := by
  unfold State.discardPage discardEntry
  dsimp only
  by_cases h : bitOf (s.mem.read x.leaf 8) 0 = true ∧ bitOf (s.mem.read x.leaf 8) 2 = true ∧
      bitOf (s.mem.read x.leaf 8) 8 = false
  · rw [if_pos h, if_neg (by simp [h])]
    have hmark (m : Mem) (f : List (Nat × FrameInfo)) : Discards s { s with mem := m, frames := f } := ⟨rfl, fun _ => rfl⟩
    exact ⟨((hmark _ _).trans (State.dropEntry_discards _ _)).trans (State.ownWrite_discards _ _ _ _),
      by rw [State.ownWrite_rest]; exact State.dropEntry_mem _ _⟩
  · rw [if_neg h, if_pos ?_]
    · exact ⟨Discards.refl s, rfl⟩
    · cases h0 : bitOf (s.mem.read x.leaf 8) 0 <;> cases h2 : bitOf (s.mem.read x.leaf 8) 2 <;>
        cases h8 : bitOf (s.mem.read x.leaf 8) 8 <;> simp_all

theorem Discards.versioned (h : Discards s t) (bk : Nat) : t.versioned bk = s.versioned bk :=
  State.versioned_congr (by rw [h.rest]) (by rw [h.rest]) bk

end

section
variable {s t : State} {g : Guard} {br : Nat} {a : Src} {off : Word} {ps : List Xlat}

/-- One page of a DISCARD. -/
def State.discardStep (s t : State) (x : Xlat) : State :=
  if t.versioned s.me.blk then t.writeAt s.myCtx s.me.blk (.warp s.cur.slot) x (List.replicate x.size 0)
  else t.discardPage s.me.blk x

/-- The pages of a DISCARD outside every version are marked one after another. -/
theorem State.discardSteps (hv : t.versioned s.me.blk = false) :
    Discards t (ps.foldl s.discardStep t) ∧ (ps.foldl s.discardStep t).mem = ps.foldl discardEntry t.mem := by
  induction ps generalizing t with
  | nil => exact ⟨Discards.refl t, rfl⟩
  | cons x ps ih =>
    obtain ⟨hpage, hmem⟩ := State.discardPage_discards t s.me.blk x
    have hstep : s.discardStep t x = t.discardPage s.me.blk x := if_neg (ne_true_of_eq_false hv)
    obtain ⟨hrest, hmems⟩ := ih ((hpage.versioned _).trans hv)
    rw [List.foldl_cons, List.foldl_cons, hstep, ← hmem]
    exact ⟨hpage.trans hrest, hmems⟩

/-- Must a DISCARD wait for a page that moves, or for an acquire of its threads on one of its pages? -/
def State.discardGate (s : State) (W : LaneMask) (ls : List (Nat × Nat)) (ps : List Xlat) : Gate :=
  if s.discardMoving ls || ps.any (fun x => s.me.pendings.any fun w => w.guard && w.addrs.any fun p =>
      w.due.getLsbD p.1 && W.getLsbD p.1 && s.sameByte s.myCtx x.va x.size p.2 4)
  then .wait else .go

theorem State.discardGate_go {W : LaneMask} {ls : List (Nat × Nat)} (hmove : s.discardMoving ls = false)
    (hpend : s.me.pendings = []) : s.discardGate W ls ps = .go := by
  have hany : (ps.any fun x => s.me.pendings.any fun w => w.guard && w.addrs.any fun p =>
      w.due.getLsbD p.1 && W.getLsbD p.1 && s.sameByte s.myCtx x.va x.size p.2 4) = false := by
    rw [hpend]
    simp
  rw [State.discardGate, hmove, hany]
  rfl

/-- The pages of a DISCARD. -/
def State.discarding (s : State) (W : LaneMask) (br : Nat) (a : Src) (off : Word) : List Xlat :=
  s.discardPages (s.me.breg br) (recLanes (s.me.breg br) W (s.me.index' a off))

theorem exec_discard (g : Guard) (br : Nat) (a : Src) (off : Word) (s : State) :
    exec (.discard g br a off) s = s.perform a.scalar (a.uses 1)
      ((((s.memGate (s.wset g) (recGuard (s.me.breg br)) false).and
        (Gate.trapIf (s.wset g != 0 && recBad (s.me.breg br)) 0x08 2)).and
        (s.discardGate (s.wset g) (recLanes (s.me.breg br) (s.wset g) (s.me.index' a off))
          (s.discarding (s.wset g) br a off))).and
        (Gate.trapIf (s.versionFull s.me.blk ((s.discarding (s.wset g) br a off).flatMap pageLinesOf)) 0x0F s.myLaunch.vbud))
      fun t => .next ((s.discarding (s.wset g) br a off).foldl s.discardStep t).advance := rfl

/-- The machine once a DISCARD has marked its pages. -/
def State.discardDone (s : State) (W : LaneMask) (br : Nat) (a : Src) (off : Word) : State :=
  ((s.discarding W br a off).foldl s.discardStep (s.freed (a.uses 1))).advance

theorem discard_next (hread : Readable s a.scalar (a.uses 1)) (hmem : s.memGate (s.wset g) (recGuard (s.me.breg br)) false = .go)
    (hbad : s.wset g ≠ 0 → recBad (s.me.breg br) = false) (hv : s.versioned s.me.blk = false)
    (hmove : s.discardMoving (recLanes (s.me.breg br) (s.wset g) (s.me.index' a off)) = false)
    (hpend : s.me.pendings = []) :
    exec (.discard g br a off) s = .next (s.discardDone (s.wset g) br a off) := by
  have hfull (lines : List Nat) : s.versionFull s.me.blk lines = false := by rw [State.versionFull, hv]; rfl
  rw [exec_discard, hmem, recBad_passes hbad, State.discardGate_go hmove hpend, hfull, Gate.trapIf_false]
  exact State.perform_go hread

/-- What a DISCARD changes. -/
theorem State.discardDone_eq {W : LaneMask} (hv : s.versioned s.me.blk = false) :
    let t := s.discardDone W br a off
    t.me = (s.me.free (s.frees (a.uses 1) [])).issued s.cur.run (fun _ => s.cur.next) ∧
      t = { s with warps := t.warps, launches := t.launches, mem := t.mem, frames := t.frames, ctxs := t.ctxs,
                   oldCode := t.oldCode } ∧
      (∀ c, t.ctx c = { s.ctx c with tlb := (t.ctx c).tlb }) ∧
      t.mem = (s.discarding W br a off).foldl discardEntry s.mem := by
  intro t
  obtain ⟨hdisc, hmem⟩ := State.discardSteps (s := s) (ps := s.discarding W br a off) (t := s.freed (a.uses 1)) hv
  generalize hu : (s.discarding W br a off).foldl s.discardStep (s.freed (a.uses 1)) = u at hdisc hmem
  have ht : t = (u.setMe u.me).advance := by rw [State.advance_setMe_me, ← hu]; rfl
  have hume : u.me = s.me.free (s.frees (a.uses 1) []) := by
    rw [hdisc.rest]
    exact State.freed_me s _
  have hucur : u.cur = s.cur := by rw [hdisc.rest]; rfl
  obtain ⟨y, ls, hadv⟩ := State.advance_setMe_eq u u.me
  refine ⟨?_, ?_, fun c => ?_, ?_⟩
  · rw [ht, State.advance_me, hume, hucur]
  · rw [ht, hadv, hdisc.rest]
    rfl
  · rw [ht, hadv]
    exact hdisc.ctxs c
  · rw [ht, State.advance_mem]
    exact hmem

end

end Sys2Proof.Machine

/-! PROOFS. Bricks held in the brick cache or loaded, and O28 (R187, R189, R190, R192, R306). -/

namespace Sys2Proof.Machine

/-! ### Bricks kept by a core (R306) -/

section
variable {s t : State}

theorem State.keepBrick_rest (s : State) (core ctx va : Nat) (bs : List Byte) :
    s.keepBrick core ctx va bs = { s with cores := (s.keepBrick core ctx va bs).cores } := by
  unfold State.keepBrick
  dsimp only
  split <;> rfl

theorem State.keepBrick_cores (h : t.cores = s.cores) (core ctx va : Nat) (bs : List Byte) :
    (t.keepBrick core ctx va bs).cores = (s.keepBrick core ctx va bs).cores := by
  have hc : t.core core = s.core core := by rw [State.core, h, State.core]
  unfold State.keepBrick
  rw [hc]
  dsimp only
  split
  · exact h
  · rw [State.setCore, State.setCore, h]

/-- The bricks of a list of lanes kept one after another. -/
def State.keepBricks (s : State) (core ctx : Nat) (bricks : Nat → List Byte) (ls : List (Nat × Nat)) : State :=
  ls.foldl (fun u q => u.keepBrick core ctx q.2 (bricks q.2)) s

variable (core ctx : Nat) (bricks : Nat → List Byte) (ls : List (Nat × Nat))

theorem State.keepBricks_rest (s : State) :
    s.keepBricks core ctx bricks ls = { s with cores := (s.keepBricks core ctx bricks ls).cores } := by
  unfold State.keepBricks
  induction ls generalizing s with
  | nil => rfl
  | cons q qs ih =>
    rw [List.foldl_cons, ih, State.keepBrick_rest]

theorem State.keepBricks_cores (h : t.cores = s.cores) :
    (t.keepBricks core ctx bricks ls).cores = (s.keepBricks core ctx bricks ls).cores := by
  unfold State.keepBricks
  induction ls generalizing s t with
  | nil => exact h
  | cons q qs ih => exact ih (State.keepBrick_cores h _ _ _ _)

theorem Consulted.withCores (h : Consulted s t) (co : List (Nat × Core)) :
    Consulted { s with cores := co } { t with cores := co } := by
  refine ⟨⟨?_, h.touched.ctxs, fun _ => rfl, h.touched.blocks⟩, h.mem, h.blocks, h.code⟩
  conv_lhs => rw [h.touched.rest]

theorem State.advance_withCores (s : State) (co : List (Nat × Core)) :
    State.advance { s with cores := co } = { s.advance with cores := co } := by
  have hretire (u : State) (k : Nat) : State.retire { u with cores := co } k = { u.retire k with cores := co } := by
    exact (apply_ite (fun x : State => { x with cores := co }) ((u.launch k).proof = true)
      (u.setLaunch k { u.launch k with retired := (u.launch k).retired + 1 }) u).symm
  exact hretire (s.setMe (s.me.issued s.cur.run fun _ => s.cur.next)) s.myBlock.launch

end

/-! ### The lanes of a brick access -/

section
variable {s : State} {a : Acc} {grad : Bool} {bricks : Nat → List Byte} {ps : Nat → List (Xlat × Nat)}

/-- The brick that the core of the executing warp holds at an address. -/
def State.brickHeld (s : State) (va : Nat) : Option (Nat × Nat × List Byte) :=
  (s.core s.myCore).bricks.find? fun b => b.1 == s.myCtx && b.2.1 == va

/-- The bytes of a brick are at hand: the core holds them, or they are read at once. -/
def State.brickReady (s : State) (bricks : Nat → List Byte) (ps : Nat → List (Xlat × Nat)) (va : Nat) : Prop :=
  s.brickHeld va = some (s.myCtx, va, bricks va) ∨ (s.brickHeld va = none ∧ s.rangeWalk s.myCtx .read va 1024 = .ok (ps va) ∧
    s.waitsOn s.myCtx (.warp s.cur.slot) va 1024 = false ∧ s.fetch s.me' va 1024 = .ok (bricks va))

/-- Is a brick kept when it has been read? One of which bytes lie on another device is not. -/
def State.brickKept (s : State) (ps : Nat → List (Xlat × Nat)) (va : Nat) : Bool :=
  (s.brickHeld va).isNone && !remoteRange (ps va)

theorem State.brickWay_ready {va : Nat} (h : s.brickReady bricks ps va) :
    s.brickWay (s.issuer s.cur.slot) va = .brick (bricks va) (s.brickKept ps va) := by
  have hfind : ((s.core (s.issuer s.cur.slot).core).bricks.find? fun b =>
      b.1 == (s.issuer s.cur.slot).party.ctx && b.2.1 == va) = s.brickHeld va := rfl
  unfold State.brickWay State.brickKept
  rw [hfind]
  rcases h with hheld | ⟨hnone, hwalk, hwaits, hfetch⟩
  · rw [hheld]
    rfl
  · have hwalk' : s.rangeWalk (s.issuer s.cur.slot).party.ctx .read va 1024 = .ok (ps va) := hwalk
    have hwaits' : s.waitsOn (s.issuer s.cur.slot).party.ctx (s.issuer s.cur.slot).party.who va 1024 = false := hwaits
    have hfetch' : s.fetch (s.issuer s.cur.slot).party va 1024 = .ok (bricks va) := hfetch
    simp only [hnone, hwalk', hwaits', hfetch', Bool.false_eq_true, if_false, Option.isNone_none, Bool.true_and]

/-- The ways of lanes whose bricks are at hand. -/
def State.brickWays (s : State) (bricks : Nat → List Byte) (ps : Nat → List (Xlat × Nat)) (ls : List (Nat × Nat)) :
    List (Nat × Nat × Way) :=
  ls.map fun q => (q.1, q.2, .brick (bricks q.2) (s.brickKept ps q.2))

theorem State.ways_brick (hop : a.op = .brick grad) (h : ∀ q ∈ a.lanes, s.brickReady bricks ps q.2) :
    s.ways (s.issuer s.cur.slot) a = s.brickWays bricks ps a.lanes := by
  refine List.map_congr_left fun q hq => ?_
  have hway : s.way (s.issuer s.cur.slot) a q.1 q.2 = s.brickWay (s.issuer s.cur.slot) q.2 := by
    unfold State.way
    rw [hop]
  rw [hway, State.brickWay_ready (h q hq)]

/-- A property that no lane with its brick at hand has. -/
theorem State.any_brick {f : Nat × Nat × Way → Bool} (hf : ∀ i va bs m, f (i, va, .brick bs m) = false)
    (ls : List (Nat × Nat)) : (s.brickWays bricks ps ls).any f = false := by
  rw [State.brickWays, List.any_map]
  exact List.any_eq_false.mpr fun p _ => ne_true_of_eq_false (hf _ _ _ _)

theorem State.wayGate_brick (ls : List (Nat × Nat)) : wayGate (s.brickWays bricks ps ls) = .go := by
  unfold wayGate
  rw [State.any_brick fun _ _ _ _ => rfl, State.any_brick fun _ _ _ _ => rfl]
  rfl

/-- The value and gradient that a lane samples. -/
def Acc.sample (a : Acc) (grad : Bool) (bricks : Nat → List Byte) (q : Nat × Nat) : List Word :=
  let p (k : Nat) : Word := ((a.data[k]?).map fun v => v[Fin.ofNat 32 q.1]).getD 0
  brickWords (bricks q.2) grad (p 0) (p 1) (p 2)

theorem find_of_ascending {ls : List (Nat × Nat)} (hasc : ls.Pairwise fun p q => p.1 < q.1) {p : Nat × Nat} (hp : p ∈ ls) :
    ls.find? (fun q => q.1 == p.1) = some p := by
  induction ls with
  | nil => cases hp
  | cons q qs ih =>
    obtain ⟨hq, hqs⟩ := List.pairwise_cons.mp hasc
    rcases List.mem_cons.mp hp with rfl | hp'
    · exact List.find?_cons_of_pos (by simp)
    · have hlt := hq p hp'
      rw [List.find?_cons_of_neg (by simp only [beq_iff_eq]; omega), ih hqs hp']

/-- Lanes with their bricks at hand sample them, and those read are kept. -/
theorem State.allLanes_brick (hop : a.op = .brick grad) (hasc : a.lanes.Pairwise fun p q => p.1 < q.1) (t : State) :
    t.allLanes (s.issuer s.cur.slot) a (s.brickWays bricks ps a.lanes) =
      ⟨t.keepBricks s.myCore s.myCtx bricks (a.lanes.filter fun q => s.brickKept ps q.2),
        a.lanes.map fun q => (q.1, a.sample grad bricks q), [], []⟩ := by
  suffices h : ∀ (ls : List (Nat × Nat)), (∀ q ∈ ls, q ∈ a.lanes) → ∀ (t : State) (vs : List (Nat × List Word)),
      (s.brickWays bricks ps ls).foldl (fun d w =>
        match w.2.2 with
        | .fault va _ => { d with faults := d.faults ++ [(w.1, va)] }
        | _ =>
          let r := d.state.oneLane (s.issuer s.cur.slot) a w.1 w.2.2
          { d with
            state := r.1
            vals := d.vals ++ (match r.2.1 with
              | some x => [(w.1, x)]
              | none => [])
            held := d.held ++ listIf r.2.2 w.1 }) (⟨t, vs, [], []⟩ : Done) =
      ⟨t.keepBricks s.myCore s.myCtx bricks (ls.filter fun q => s.brickKept ps q.2),
        vs ++ ls.map fun q => (q.1, a.sample grad bricks q), [], []⟩ from h a.lanes (fun _ h => h) t []
  intro ls
  induction ls with
  | nil => intro _ t vs; rw [List.map_nil, List.append_nil]; rfl
  | cons q qs ih =>
    intro hsub t vs
    have hva : State.oneLane.leftVa a q.1 = q.2 := by
      rw [State.oneLane.leftVa, find_of_ascending hasc (hsub q (List.mem_cons_self ..))]
      rfl
    have hlane : t.oneLane (s.issuer s.cur.slot) a q.1 (.brick (bricks q.2) (s.brickKept ps q.2)) =
        (if s.brickKept ps q.2 = true then t.keepBrick s.myCore s.myCtx q.2 (bricks q.2) else t,
          some (a.sample grad bricks q), false) := by
      unfold State.oneLane
      simp only [hop, hva]
      rfl
    rw [State.brickWays, List.map_cons, List.foldl_cons]
    simp only [hlane]
    refine (ih (fun r hr => hsub r (List.mem_cons_of_mem _ hr)) _ _).trans ?_
    rw [List.append_assoc, List.filter_cons]
    split <;> rfl

end

/-! ### BRKS and BRKG (R192) -/

/-- What lets a brick access take effect at once: it passes every gate, and its lanes' bricks are at hand. -/
structure Samples (s : State) (W : LaneMask) (scalar : Bool) (us : List Use) (check : Gate) (guard : Nat) (a : Acc)
    (grad : Bool) (bricks : Nat → List Byte) (ps : Nat → List (Xlat × Nat)) : Prop where
  read : s.readGate scalar us = .go
  mem : s.memGate W guard false = .go
  check : check = .go
  bytes : s.byteGate a.lanes a.bytes = .go
  op : a.op = .brick grad
  ready : ∀ q ∈ a.lanes, s.brickReady bricks ps q.2
  ascending : a.lanes.Pairwise fun p q => p.1 < q.1
  own : a.unif = false
  free : a.rel = false
  dest : s.destGate W us a.dests = .go
  dests : a.dests ≠ []
  proof : s.myLaunch.proof = false

section
variable {s : State} {W : LaneMask} {scalar : Bool} {us : List Use} {check : Gate} {guard : Nat} {a : Acc} {grad : Bool}
  {bricks : Nat → List Byte} {ps : Nat → List (Xlat × Nat)}

/-- The machine once the bricks of an access have been sampled. -/
def State.bricked (s : State) (bricks : Nat → List Byte) (ps : Nat → List (Xlat × Nat)) (a : Acc) : State :=
  (((s.cacheWalks s.myCtx a.need (a.lanes.map Prod.snd)).keepBricks s.myCore s.myCtx bricks
    (a.lanes.filter fun q => s.brickKept ps q.2)).dropKept (.warp s.cur.slot)).settle s.myCtx (.warp s.cur.slot)

theorem State.bricked_cores : (s.bricked bricks ps a).cores =
    (s.keepBricks s.myCore s.myCtx bricks (a.lanes.filter fun q => s.brickKept ps q.2)).cores :=
  (State.settle_cores _ _ _).trans (State.keepBricks_cores _ _ _ _ (s.cacheWalks_cores _ _ _))

/-- The bricks apart, a brick access keeps account of accesses alone. -/
theorem State.bricked_consulted : Consulted s { s.bricked bricks ps a with cores := s.cores } := by
  have hwalks := s.cacheWalks_consulted s.myCtx a.need (a.lanes.map Prod.snd)
  have hkeep := State.keepBricks_rest s.myCore s.myCtx bricks (a.lanes.filter fun q => s.brickKept ps q.2)
    (s.cacheWalks s.myCtx a.need (a.lanes.map Prod.snd))
  have hsettle (t : State) : Consulted t ((t.dropKept (.warp s.cur.slot)).settle s.myCtx (.warp s.cur.slot)) :=
    (t.dropKept_consulted _).trans (State.settle_consulted _ _ _)
  have hback := (hsettle ((s.cacheWalks s.myCtx a.need (a.lanes.map Prod.snd)).keepBricks s.myCore s.myCtx bricks
    (a.lanes.filter fun q => s.brickKept ps q.2))).withCores s.cores
  refine hwalks.trans ?_
  rw [hkeep] at hback
  have hsame : { s.cacheWalks s.myCtx a.need (a.lanes.map Prod.snd) with cores := s.cores } =
      s.cacheWalks s.myCtx a.need (a.lanes.map Prod.snd) := by
    rw [← s.cacheWalks_cores s.myCtx a.need (a.lanes.map Prod.snd)]
  rw [hsame, ← hkeep] at hback
  exact hback

theorem State.bricked_me : (s.bricked bricks ps a).me = s.me :=
  (State.bricked_consulted (s := s) (bricks := bricks) (ps := ps) (a := a)).touched.me

theorem State.bricked_cur : (s.bricked bricks ps a).cur = s.cur :=
  (State.bricked_consulted (s := s) (bricks := bricks) (ps := ps) (a := a)).touched.cur

/-- What the lanes of a brick access deliver. -/
def Acc.samples (a : Acc) (grad : Bool) (bricks : Nat → List Byte) : List (Nat × List Word) :=
  a.lanes.map fun q => (q.1, a.sample grad bricks q)

theorem State.doAccess_brick (h : Samples s W scalar us check guard a grad bricks ps) :
    s.doAccess W us a (s.brickWays bricks ps a.lanes) =
      s.endAccess (s.bricked bricks ps a) W 0 us a (a.storages (a.samples grad bricks)) := by
  unfold State.doAccess
  simp only [State.allLanes_brick h.op h.ascending, List.isEmpty_nil, if_true, List.map_nil, List.append_nil, maskOf_nil,
    bne_self_eq_false, Bool.and_false, Bool.false_eq_true, if_false]
  rfl

theorem State.access_brick (h : Samples s W scalar us check guard a grad bricks ps) :
    s.access W scalar us check guard a =
      .next ((s.bricked bricks ps a).setMe (s.launched W 0 us (a.storages (a.samples grad bricks)) 0)).advance := by
  have hreads : a.writes = false := by
    rw [Acc.writes, Acc.need, h.op]
    rfl
  have hroom : s.versionGate (s.issuer s.cur.slot) a (s.brickWays bricks ps a.lanes) = .go := by
    rw [State.versionGate, hreads]
    rfl
  have hrel : s.releaseGate W a.rel = .go := by rw [h.free]; rfl
  rw [← State.endAccess_launched _ h.dests h.proof State.bricked_me, ← State.doAccess_brick h]
  unfold State.access
  simp only [h.own, h.proof, Bool.false_and, Bool.false_eq_true, if_false, State.ways_brick h.op h.ready, h.read, h.mem,
    h.check, h.bytes, State.wayGate_brick, hroom, hrel, h.dest, Gate.and_go]
  refine (if_neg ?_).trans (if_neg ?_)
  · exact ne_true_of_eq_false (State.any_brick (fun _ _ _ _ => rfl) _)
  · rw [State.any_brick fun _ _ _ _ => rfl, Bool.false_and]
    exact Bool.false_ne_true

/-- A thread of W samples the brick that its index names. -/
theorem Acc.samples_lane {r : Record} {idx : Fin 32 → Int} (hls : a.lanes = recLanes r W idx) {l : Fin 32}
    (hW : W.getLsbD l.val = true) (k : Nat) : laneWord (a.samples grad bricks) k l.val =
      if recInside r (idx l) = true then (a.sample grad bricks (l.val, recAddr r (idx l))).getD k 0 else 0 := by
  have hasc : a.lanes.Pairwise fun p q => p.1 < q.1 := hls ▸ recLanes_ascending r W idx
  unfold laneWord Acc.samples
  rw [List.find?_map]
  split
  next hin =>
    have hp : (l.val, recAddr r (idx l)) ∈ a.lanes := hls ▸ mem_recLanes.mpr ⟨l, hW, hin, rfl⟩
    have hfind := find_of_ascending hasc hp
    refine (congrArg (fun x : Option (Nat × Nat) => ((x.map fun q => (q.1, a.sample grad bricks q)).bind
      fun p => p.2[k]?).getD 0) hfind).trans ?_
    exact (List.getD_eq_getElem?_getD ..).symm
  next hin =>
    have hnone : (a.lanes.find? fun q => q.1 == l.val) = none := by
      refine List.find?_eq_none.mpr fun q hq => ?_
      obtain ⟨j, -, hj, rfl⟩ := mem_recLanes.mp (hls ▸ hq)
      rw [beq_iff_eq]
      exact fun e => hin (Fin.ext e ▸ hj)
    exact congrArg (fun x : Option (Nat × Nat) => ((x.map fun q => (q.1, a.sample grad bricks q)).bind
      fun p => p.2[k]?).getD 0) hnone

end

section
variable {s : State} {g : Guard} {d n : Nat} {br : Nat} {a : Src} {off : Word} {p : VSrc} {W : LaneMask}

/-- The access of BRKS, with `n` 1, and of BRKG, with `n` 4. -/
def State.brickAcc (s : State) (W : LaneMask) (d n : Nat) (br : Nat) (a : Src) (off : Word) (p : VSrc) : Acc :=
  ⟨.brick (n == 4), 1024, false, false, false, .blk, regGroup d n, recLanes (s.me.breg br) W (s.me.index' a off),
    s.me.words (.v p.n p.lr p.te) 3, false⟩

/-- The checks of a brick access. -/
def State.brickGate (s : State) (W : LaneMask) (br : Nat) (a : Src) (off : Word) : Gate :=
  let r := s.me.breg br
  recGate r W (s.me.index' a off) 1 (recStride r == 0 || recStride r % 1024 != 0 || recSwz r != 0)

/-- The access of BRKS and BRKG. -/
def State.brickAccess (s : State) (g : Guard) (d n br : Nat) (a : Src) (off : Word) (p : VSrc) : Res :=
  s.access (s.wset g) a.scalar (a.uses 1 ++ p.uses 3) (s.brickGate (s.wset g) br a off) (recGuard (s.me.breg br))
    (s.brickAcc (s.wset g) d n br a off p)

theorem exec_brks (g : Guard) (d br : Nat) (a : Src) (off : Word) (p : VSrc) (s : State) :
    exec (.brks g d br a off p) s = s.brickAccess g d 1 br a off p := rfl

theorem exec_brkg (g : Guard) (d br : Nat) (a : Src) (off : Word) (p : VSrc) (s : State) :
    exec (.brkg g d br a off p) s = s.brickAccess g d 4 br a off p := rfl

theorem State.brickGate_go
    (hfields : W ≠ 0 → recBad (s.me.breg br) = false ∧ recStride (s.me.breg br) ≠ 0 ∧
      recStride (s.me.breg br) % 1024 = 0 ∧ recSwz (s.me.breg br) = 0)
    (hbounds : ∀ l : Fin 32, W.getLsbD l.val = true → recOobt (s.me.breg br) = true →
      recInside (s.me.breg br) (s.me.index' a off l) = true) : s.brickGate W br a off = .go := by
  refine recGate_go (fun hW => ?_) hbounds fun l _ _ => Nat.mod_one _
  obtain ⟨hbad, hstride, halign, hswz⟩ := hfields hW
  exact ⟨hbad, by simp [hstride, halign, hswz]⟩

/-- The point that a lane samples. -/
theorem State.brickAcc_sample (s : State) (W : LaneMask) (d n br : Nat) (a : Src) (off : Word) (p : VSrc) (grad : Bool)
    (bricks : Nat → List Byte) (l : Fin 32) (va : Nat) :
    (s.brickAcc W d n br a off p).sample grad bricks (l.val, va) = brickWords (bricks va) grad
      ((s.me.vreg p.n).st.lane l) ((s.me.vreg (p.n + 1)).st.lane l) ((s.me.vreg (p.n + 2)).st.lane l) := by
  have hword (k : Nat) (hk : k < 3) : (((s.brickAcc W d n br a off p).data[k]?).map fun v => v[Fin.ofNat 32 l.val]).getD 0 =
      (s.me.vreg (p.n + k)).st.lane l := by
    simp [State.brickAcc, Warp.words, Warp.srcAt, hk]
  unfold Acc.sample
  dsimp only
  rw [hword 0 (by decide), hword 1 (by decide), hword 2 (by decide), Nat.add_zero]

/-- A brick access that passes its checks delivers the samples, and keeps what it has read. -/
theorem inFlight_of_bricks {i : Instr} {bricks : Nat → List Byte} {ps : Nat → List (Xlat × Nat)} {frame : State → Prop}
    {rs : List (Nat × (Fin 32 → Word))} (hi : exec i s = s.brickAccess g d n br a off p)
    (h : Samples s (s.wset g) a.scalar (a.uses 1 ++ p.uses 3) (s.brickGate (s.wset g) br a off) (recGuard (s.me.breg br))
      (s.brickAcc (s.wset g) d n br a off p) (n == 4) bricks ps)
    (hfst : rs.map Prod.fst = regGroup d n)
    (hlane : ∀ k (hk : k < rs.length) (l : Fin 32), (s.wset g).getLsbD l.val = true →
      rs[k].2 l = if recInside (s.me.breg br) (s.me.index' a off l) = true then
        (brickWords (bricks (recAddr (s.me.breg br) (s.me.index' a off l))) (n == 4) ((s.me.vreg p.n).st.lane l)
          ((s.me.vreg (p.n + 1)).st.lane l) ((s.me.vreg (p.n + 2)).st.lane l)).getD k 0 else 0)
    (hframe : ∀ t : State, t.cores = (s.bricked bricks ps (s.brickAcc (s.wset g) d n br a off p)).cores →
      OnlyReads s { t with cores := s.cores } → frame t) :
    InFlight i s (s.wset g) 0 (s.frees (a.uses 1 ++ p.uses 3) (regGroup d n)) rs 0 frame := by
  have hdests : (s.brickAcc (s.wset g) d n br a off p).dests = regGroup d n := rfl
  rw [← hfst]
  refine inFlight_of_launched (hi.trans (State.access_brick h)) State.bricked_cur
    (hfst.trans (hdests.symm.trans (Acc.storages_fst _ _).symm)) (fun k hk hk' l hl _ => ?_) (hframe _ ?_ ?_)
  · rw [Acc.storages_lane rfl, Acc.samples_lane rfl hl, State.brickAcc_sample, hlane k hk l hl]
  · exact State.advance_cores _
  · rw [← State.advance_withCores]
    exact (State.bricked_consulted (s := s) (bricks := bricks) (ps := ps)).onlyReads (by rw [State.launched_rest])

end

/-- Settles O28: what goes to the collector, what DISCARD marks and what a brick access samples, each by its own rule. -/
theorem collectorDiscardAndBricks : Obligations.CollectorDiscardAndBricks := by
  intro s g d wid hint keep br a off v p W r n i ls ds collector
  refine ⟨fun _ hmem hok hproof hrole hfits => ⟨fun hread hmap hdest => ?_, fun hread hmap hv => ?_⟩,
    fun hread hmem hbad => ⟨pref_steps hread hmem hbad, fun hv hmove hpend => ?_⟩,
    fun hread hmem hproof hfields hbounds hbytes bricks ps => ?_⟩
  · have hflight := gather_inFlight hint (gather_collects hmem hok hproof hrole hfits hread hmap hdest)
    rw [State.gatherAcc_held, State.gatherAcc_req hmap] at hflight
    exact hflight
  · have hpools := scatter_pools hint (scatter_collects hmem hok hproof hrole hfits hread hmap hv)
    rw [State.scatterAcc_req hmap] at hpools
    exact hpools
  · obtain ⟨hme, hrest, hctx, hm⟩ := State.discardDone_eq (W := W) (br := br) (a := a) (off := off) hv
    refine ⟨_, discard_next hread hmem hbad hv hmove hpend, moves_of_me hme (Warp.free_lanes _ _), ?_, hrest, hctx, fun y => ?_⟩
    · rw [hme, Warp.issued_rest]
    · exact congrArg (fun m => Mem.byte m y) hm
  · intro held party hready loaded kept frame at' out
    have hsamples (n : Nat) (hn : 0 < n) (hdest : s.destGate W (a.uses 1 ++ p.uses 3) (regGroup d n) = .go) :
        Samples s W a.scalar (a.uses 1 ++ p.uses 3) (s.brickGate W br a off) (recGuard r) (s.brickAcc W d n br a off p)
          (n == 4) bricks ps :=
      { read := hread.readGate
        mem := hmem
        check := State.brickGate_go hfields hbounds
        bytes := by
          refine if_neg ?_
          rw [List.any_eq_true]
          rintro ⟨q, hq, hmeet⟩
          exact absurd hmeet (ne_true_of_eq_false (hbytes q hq))
        op := rfl
        ready := hready
        ascending := recLanes_ascending _ _ _
        own := rfl
        free := rfl
        dest := hdest
        dests := regGroup_ne_nil hn
        proof := hproof }
    have hframe (n : Nat) (t : State) (hc : t.cores = (s.bricked bricks ps (s.brickAcc W d n br a off p)).cores)
        (ho : OnlyReads s { t with cores := s.cores }) : frame t := ⟨hc.trans State.bricked_cores, ho⟩
    refine ⟨fun hdest => ?_, fun hdest => ?_⟩
    · refine inFlight_of_bricks (exec_brks g d br a off p s) (hsamples 1 (by decide) hdest) rfl (fun k hk l _ => ?_) (hframe 1)
      obtain rfl : k = 0 := Nat.lt_one_iff.mp hk
      rfl
    · refine inFlight_of_bricks (exec_brkg g d br a off p s) (hsamples 4 (by decide) hdest) rfl (fun k hk l _ => ?_) (hframe 4)
      rw [List.getElem_map, List.getElem_range]
      rfl

end Sys2Proof.Machine

/-! PROOFS. The barrier of a block, the end of threads, and O30 (R14, R133, R200, R201, R277). -/

namespace Sys2Proof.Machine

/-! ### Warps of a block -/

theorem Map.mem_set {α : Type} {m : List (Nat × α)} {k : Nat} {v : α} {p : Nat × α} :
    p ∈ Map.set m k v ↔ p = (k, v) ∨ (p ∈ m ∧ p.1 ≠ k) := by
  rw [Map.set, Map.mem_ins, Map.erase, List.mem_filter, bne_iff_ne]

section
variable {s t : State} {bk : Nat} {w : Warp} {p : Nat × Warp}

theorem State.mem_blockWarps : p ∈ s.blockWarps bk ↔ p ∈ s.warps ∧ p.2.blk = bk := by
  rw [State.blockWarps, List.mem_filter, beq_iff_eq]

/-- The warps of a block once its warp in a slot has been written. -/
theorem State.mem_blockWarps_set {slot : Nat} (ht : t.warps = Map.set s.warps slot w) (hw : w.blk = bk) :
    p ∈ t.blockWarps bk ↔ p = (slot, w) ∨ p ∈ (s.blockWarps bk).filter fun q => q.1 != slot := by
  rw [State.mem_blockWarps, ht, Map.mem_set, List.mem_filter, State.mem_blockWarps, bne_iff_ne]
  constructor
  · rintro ⟨rfl | ⟨hp, hne⟩, hblk⟩
    · exact .inl rfl
    · exact .inr ⟨⟨hp, hblk⟩, hne⟩
  · rintro (rfl | ⟨⟨hp, hblk⟩, hne⟩)
    · exact ⟨.inl rfl, hw⟩
    · exact ⟨.inr ⟨hp, hne⟩, hblk⟩

/-! ### When a barrier completes (R200) -/

/-- A thread that is HELD, or LIVE and has not arrived, keeps the barrier waiting. -/
theorem State.barrierDone_missing (hp : p ∈ s.blockWarps bk) (l : Fin 32)
    (h : ¬(p.2.lanes[l].st ≠ .held ∧ (p.2.lanes[l].st = .live → p.2.lanes[l].atBar = true))) : s.barrierDone bk = false := by
  have hmem : p.2.lanes[l] ∈ (s.blockWarps bk).flatMap fun p => p.2.lanes.toList :=
    List.mem_flatMap.mpr ⟨p, hp, by simp⟩
  have hall : (((s.blockWarps bk).flatMap fun p => p.2.lanes.toList).all fun l =>
      (l.st != .live || l.atBar) && l.st != .held) = false := by
    refine List.all_eq_false.mpr ⟨_, hmem, fun hl => h ?_⟩
    rw [Bool.and_eq_true, Bool.or_eq_true, bne_iff_ne, bne_iff_ne] at hl
    exact ⟨hl.2, fun hlive => hl.1.resolve_left fun hne => hne hlive⟩
  unfold State.barrierDone
  dsimp only
  rw [hall, Bool.and_false, Bool.false_and]

/-- So does an access outside the device of a warp with a thread at the barrier. -/
theorem State.barrierDone_unanswered (hp : p ∈ s.blockWarps bk) {l : Fin 32} (hl : p.2.lanes[l].atBar = true)
    (h : s.unanswered p.1 = true) : s.barrierDone bk = false := by
  have hbar : p.2.atBarrier ≠ 0 := fun h0 => by
    have hbit : p.2.atBarrier.getLsbD l.val = true := by rw [Warp.atBarrier, LaneMask.getLsbD_of, hl]
    rw [h0] at hbit
    simp at hbit
  have hdone : s.arrivalsDone bk = false := by
    refine List.all_eq_false.mpr ⟨p, hp, ?_⟩
    rw [beq_eq_false_iff_ne.mpr hbar, h]
    simp
  unfold State.barrierDone
  dsimp only
  rw [hdone, Bool.and_false]

/-- It completes when every thread has arrived, one at least, and nothing of its warps is under way. -/
theorem State.barrierDone_true (hp : p ∈ s.blockWarps bk) {l : Fin 32} (hl : p.2.lanes[l].st = .live ∧ p.2.lanes[l].atBar = true)
    (hall : ∀ q ∈ s.blockWarps bk, ∀ l : Fin 32,
      q.2.lanes[l].st ≠ .held ∧ (q.2.lanes[l].st = .live → q.2.lanes[l].atBar = true))
    (hquiet : ∀ q ∈ s.blockWarps bk, q.2.pendings = [] ∧ s.unanswered q.1 = false ∧
      ∀ r ∈ (s.core (blockCore bk)).collector, r.slot ≠ q.1) : s.barrierDone bk = true := by
  unfold State.barrierDone
  dsimp only
  rw [Bool.and_eq_true, Bool.and_eq_true]
  refine ⟨⟨List.any_eq_true.mpr ⟨p.2.lanes[l], List.mem_flatMap.mpr ⟨p, hp, by simp⟩, by rw [hl.1, hl.2]; rfl⟩,
    List.all_eq_true.mpr fun x hx => ?_⟩, List.all_eq_true.mpr fun q hq => ?_⟩
  · obtain ⟨q, hq, hx⟩ := List.mem_flatMap.mp hx
    obtain ⟨i, hi, rfl⟩ := Vector.mem_iff_getElem.mp (Vector.mem_toList_iff.mp hx)
    obtain ⟨hheld, hbar⟩ := hall q hq ⟨i, hi⟩
    have hheld' : q.2.lanes[i].st ≠ .held := hheld
    have hbar' : q.2.lanes[i].st = .live → q.2.lanes[i].atBar = true := hbar
    rw [Bool.and_eq_true, Bool.or_eq_true, bne_iff_ne, bne_iff_ne]
    exact ⟨(em (q.2.lanes[i].st = .live)).elim (fun h => .inr (hbar' h)) .inl, hheld'⟩
  · obtain ⟨hpend, hout, hcol⟩ := hquiet q hq
    have hnone : ((s.core (blockCore bk)).collector.any fun r => r.slot == q.1) = false :=
      List.any_eq_false.mpr fun r hr => by simpa using hcol r hr
    have hdue : q.2.waitsDue q.2.atBarrier = false := by rw [Warp.waitsDue, hpend]; rfl
    rw [hdue, hout, hnone]
    simp

/-! ### What a completed barrier leaves -/

/-- A warp of the block resumes, another warp is as it was. -/
def Warp.released (bk : Nat) (w : Warp) : Warp := if w.blk == bk then w.leaveBarrier else w

theorem Warp.leaveBarrier_lane (w : Warp) (l : Fin 32) : w.leaveBarrier.lanes[l] =
    { w.lanes[l] with atBar := false, age := w.leaveBarrier.lanes[l].age } := by
  have hmerge := Warp.mergeAges_lane
    { w with lanes := w.lanes.map fun l => if l.atBar then { l with atBar := false, age := 0 } else l } l
  refine hmerge.trans ?_
  simp only [Vector.getElem_map]
  split
  next => rfl
  next h =>
    rw [Bool.eq_false_iff.mpr h]
    rfl

theorem State.checkBarrier_open (h : s.barrierDone bk = false) : s.checkBarrier bk = s := if_neg (ne_true_of_eq_false h)

theorem State.checkBarrier_warps (h : s.barrierDone bk = true) :
    (s.checkBarrier bk).warps = s.warps.map fun p => (p.1, p.2.released bk) := by
  unfold State.checkBarrier
  rw [if_pos h]
  refine List.map_congr_left fun p _ => ?_
  unfold Warp.released
  split <;> rfl

theorem State.checkBarrier_rest (s : State) (bk : Nat) : s.checkBarrier bk = { s with
    warps := (s.checkBarrier bk).warps, blocks := (s.checkBarrier bk).blocks } := by
  unfold State.checkBarrier
  split <;> rfl

theorem Warp.released_blk (w : Warp) : (w.released bk).blk = w.blk := by
  unfold Warp.released
  split
  next => rw [Warp.leaveBarrier, Warp.mergeAges_rest]
  next => rfl

/-- After a barrier has completed no thread of the block waits, and its counter is 0. -/
theorem State.checkBarrier_done (h : s.barrierDone bk = true) : ((s.checkBarrier bk).block bk).arrivals = 0 ∧
    ∀ p ∈ (s.checkBarrier bk).blockWarps bk, ∀ l : Fin 32, p.2.lanes[l].atBar = false := by
  refine ⟨?_, fun p hp l => ?_⟩
  · unfold State.checkBarrier
    rw [if_pos h]
    exact congrArg Block.arrivals (State.block_setBlock_same s bk _)
  · obtain ⟨hmem, hblk⟩ := State.mem_blockWarps.mp hp
    rw [State.checkBarrier_warps h] at hmem
    obtain ⟨q, -, rfl⟩ := List.mem_map.mp hmem
    have hq : q.2.blk = bk := (Warp.released_blk q.2).symm.trans hblk
    have hrel : q.2.released bk = q.2.leaveBarrier := if_pos (by rw [hq, beq_self_eq_true])
    rw [hrel, Warp.leaveBarrier_lane]

/-- The barrier leaves every thread its state and its return stack. -/
theorem State.find_checkBarrier {k : Nat} (h : Map.find s.warps k = some w) :
    ∃ x, Map.find (s.checkBarrier bk).warps k = some x ∧
    ∀ l : Fin 32, x.lanes[l].st = w.lanes[l].st ∧ x.lanes[l].stack = w.lanes[l].stack := by
  cases hd : s.barrierDone bk with
  | false => exact ⟨w, by rw [State.checkBarrier_open hd, h], fun l => ⟨rfl, rfl⟩⟩
  | true =>
    refine ⟨w.released bk, ?_, fun l => ?_⟩
    · rw [State.checkBarrier_warps hd, Map.find_map_snd (Warp.released bk), h]
      rfl
    · unfold Warp.released
      split
      next => exact ⟨by rw [Warp.leaveBarrier_lane], by rw [Warp.leaveBarrier_lane]⟩
      next => exact ⟨rfl, rfl⟩

end

/-! ### BAR (R200, R201) -/

section
variable {s : State} {g : Guard} {W : LaneMask}

/-- The checks of BAR. -/
def State.barGate (s : State) (W : LaneMask) : Gate :=
  (Gate.trapIf (s.me.hndl || (s.myLaunch.regrp && s.me.markedCall W)) 0x08 7).and s.logGate

/-- The machine once the threads of W have arrived. -/
def State.arrived (s : State) (W : LaneMask) : State :=
  let t := s.advance.setMe (s.advance.me.arriveBar W)
  t.setBlock s.me.blk { t.block s.me.blk with arrivals := (t.block s.me.blk).arrivals + LaneMask.count W }

theorem exec_bar (g : Guard) (s : State) : exec (.bar g) s = s.perform false [] (s.barGate (s.wset g)) fun t =>
    .next (((t.advance.setMe (t.advance.me.arriveBar (s.wset g))).setBlock s.me.blk
      { (t.advance.setMe (t.advance.me.arriveBar (s.wset g))).block s.me.blk with
        arrivals := ((t.advance.setMe (t.advance.me.arriveBar (s.wset g))).block s.me.blk).arrivals +
          LaneMask.count (s.wset g) }).checkBarrier s.me.blk) := rfl

theorem bar_next (h : s.barGate (s.wset g) = .go) :
    exec (.bar g) s = .next ((s.arrived (s.wset g)).checkBarrier s.me.blk) := by
  rw [exec_bar, h]
  refine (State.perform_go (readable_nothing s)).trans ?_
  rw [State.freed, State.frees_nothing, Warp.free_nothing, State.advance_setMe_me]
  rfl

theorem bar_raises (h : s.barGate (s.wset g) = .trap 0x08 7) : Raises (.bar g) s 0x08 7 := by
  refine raises_of_trap ?_ (by decide) (by decide)
  rw [exec_bar, h]
  exact State.perform_trap (readable_nothing s)

theorem Warp.markedCall_iff (w : Warp) (W : LaneMask) :
    w.markedCall W = true ↔ ∃ l : Fin 32, W.getLsbD l.val = true ∧ ∃ k ∈ w.lanes[l].stack, k.mark = true := by
  unfold Warp.markedCall
  simp only [List.any_eq_true, LaneMask.mem_lanes]

theorem State.barGate_go (hh : s.me.hndl = false) (hm : s.myLaunch.regrp = true → s.me.markedCall W ≠ true)
    (hl : s.me.log = none) : s.barGate W = .go := by
  have hmark : (s.myLaunch.regrp && s.me.markedCall W) = false := by
    cases hr : s.myLaunch.regrp with
    | false => rfl
    | true => rw [Bool.eq_false_iff.mpr (hm hr)]; rfl
  rw [State.barGate, hh, hmark, State.logGate, hl]
  rfl

theorem State.barGate_trap (h : s.me.hndl = true ∨ (s.myLaunch.regrp = true ∧ s.me.markedCall W = true)) :
    s.barGate W = .trap 0x08 7 := by
  have hbad : (s.me.hndl || (s.myLaunch.regrp && s.me.markedCall W)) = true := by
    rcases h with h | ⟨hr, hm⟩
    · rw [h, Bool.true_or]
    · rw [hr, hm, Bool.and_self, Bool.or_true]
  rw [State.barGate, hbad]
  rfl

/-- The executing warp once its threads of W have arrived and its run has moved. -/
def State.arriver (s : State) (W : LaneMask) : Warp := (s.me.issued s.cur.run fun _ => s.cur.next).arriveBar W

theorem State.arriver_lane (l : Fin 32) :
    (s.arriver W).lanes[l].st = s.me.lanes[l].st ∧ (s.arriver W).lanes[l].atBar = (W.getLsbD l.val || s.me.lanes[l].atBar) ∧
      (s.arriver W).lanes[l].pc = if s.cur.run.getLsbD l.val then s.cur.next else s.me.lanes[l].pc := by
  have hlane := Warp.issued_lane s.me s.cur.run (fun _ => s.cur.next) l
  have harrive : (s.arriver W).lanes[l.val] = if W.getLsbD l.val then
      { (s.me.issued s.cur.run fun _ => s.cur.next).lanes[l.val] with atBar := true }
      else (s.me.issued s.cur.run fun _ => s.cur.next).lanes[l.val] := by
    simp [State.arriver, Warp.arriveBar]
  change (s.arriver W).lanes[l.val].st = _ ∧ (s.arriver W).lanes[l.val].atBar = _ ∧ (s.arriver W).lanes[l.val].pc = _
  rw [harrive, hlane]
  cases W.getLsbD l.val with
  | false => exact ⟨rfl, (Bool.false_or _).symm, rfl⟩
  | true => exact ⟨rfl, (Bool.true_or _).symm, rfl⟩

theorem State.advance_eq (s : State) : ∃ ls, s.advance =
    { s.setMe (s.me.issued s.cur.run fun _ => s.cur.next) with launches := ls } := by
  rw [State.advance, State.moveRun, State.retire_rest]
  exact ⟨_, rfl⟩

/-- The machine once the threads of W have arrived differs in its warp, the counter and the count of retired steps. -/
theorem State.arrived_eq (s : State) (W : LaneMask) : ∃ ls, s.arrived W =
    ({ s.setMe (s.arriver W) with launches := ls }).setBlock s.me.blk
      { s.block s.me.blk with arrivals := (s.block s.me.blk).arrivals + LaneMask.count W } := by
  obtain ⟨ls, hls⟩ := State.advance_eq s
  refine ⟨ls, ?_⟩
  have hme : s.advance.me = s.me.issued s.cur.run fun _ => s.cur.next := by
    rw [hls]
    exact State.me_setMe s _
  unfold State.arrived
  rw [hme, hls]
  have hset : State.setMe { s.setMe (s.me.issued s.cur.run fun _ => s.cur.next) with launches := ls } (s.arriver W) =
      { s.setMe (s.arriver W) with launches := ls } := by
    rw [← State.setMe_setMe s (s.me.issued s.cur.run fun _ => s.cur.next) (s.arriver W)]
    rfl
  dsimp only
  exact congrArg (fun u : State => u.setBlock s.me.blk { u.block s.me.blk with
    arrivals := (u.block s.me.blk).arrivals + LaneMask.count W }) hset

theorem State.arriver_rest : s.arriver W = { s.me with lanes := (s.arriver W).lanes, waitCount := 0 } := by
  unfold State.arriver
  rw [Warp.issued_rest]
  rfl

theorem State.arriver_blk : (s.arriver W).blk = s.me.blk := by rw [State.arriver_rest]

theorem State.arriver_pendings : (s.arriver W).pendings = s.me.pendings := by
  unfold Warp.pendings
  rw [State.arriver_rest]

theorem State.arrived_warps : (s.arrived W).warps = Map.set s.warps s.cur.slot (s.arriver W) := by
  obtain ⟨ls, h⟩ := s.arrived_eq W
  rw [h]
  rfl

theorem State.arrived_rest : s.arrived W = { s with
    warps := (s.arrived W).warps, launches := (s.arrived W).launches, blocks := (s.arrived W).blocks } := by
  obtain ⟨ls, h⟩ := s.arrived_eq W
  rw [h]
  rfl

theorem State.arrived_arrivals :
    ((s.arrived W).block s.me.blk).arrivals = (s.block s.me.blk).arrivals + LaneMask.count W := by
  obtain ⟨ls, h⟩ := s.arrived_eq W
  rw [h, State.block_setBlock_same]

theorem State.arrived_me : (s.arrived W).me = s.arriver W := by
  obtain ⟨ls, h⟩ := s.arrived_eq W
  rw [h]
  exact State.me_setMe s _

/-- The warps of the block that are not the executing one. -/
def State.otherWarps (s : State) : List (Nat × Warp) := (s.blockWarps s.me.blk).filter fun p => p.1 != s.cur.slot

theorem State.mem_arrived {p : Nat × Warp} :
    p ∈ (s.arrived W).blockWarps s.me.blk ↔ p = (s.cur.slot, s.arriver W) ∨ p ∈ s.otherWarps :=
  State.mem_blockWarps_set State.arrived_warps State.arriver_blk

theorem State.arrived_unanswered (k : Nat) : (s.arrived W).unanswered k = s.unanswered k := by
  rw [State.arrived_rest]
  rfl

/-- Has every thread of the block arrived, those of W with it? -/
def State.allArrive (s : State) (W : LaneMask) : Prop :=
  (∀ l : Fin 32, s.me.lanes[l].st ≠ .held ∧
    (s.me.lanes[l].st = .live → W.getLsbD l.val = true ∨ s.me.lanes[l].atBar = true)) ∧
  ∀ p ∈ s.otherWarps, ∀ l : Fin 32, p.2.lanes[l].st ≠ .held ∧ (p.2.lanes[l].st = .live → p.2.lanes[l].atBar = true)

theorem State.allArrive_iff : s.allArrive W ↔ ∀ p ∈ (s.arrived W).blockWarps s.me.blk, ∀ l : Fin 32,
    p.2.lanes[l].st ≠ .held ∧ (p.2.lanes[l].st = .live → p.2.lanes[l].atBar = true) := by
  have hmine (l : Fin 32) : ((s.arriver W).lanes[l].st ≠ .held ∧
      ((s.arriver W).lanes[l].st = .live → (s.arriver W).lanes[l].atBar = true)) ↔ s.me.lanes[l].st ≠ .held ∧
      (s.me.lanes[l].st = .live → W.getLsbD l.val = true ∨ s.me.lanes[l].atBar = true) := by
    obtain ⟨hst, hbar, -⟩ := State.arriver_lane (s := s) (W := W) l
    rw [hst, hbar, Bool.or_eq_true]
  simp only [State.mem_arrived, forall_eq_or_imp, hmine]
  exact Iff.rfl

/-- Threads that arrive wait while a thread of the block is still to come, or an access of their warp is under way. -/
theorem State.arrived_waits (hW : W ≠ 0) (h : ¬s.allArrive W ∨ s.unanswered s.cur.slot = true) :
    (s.arrived W).barrierDone s.me.blk = false := by
  rcases h with h | h
  · rw [State.allArrive_iff] at h
    push Not at h
    obtain ⟨p, hp, l, hl⟩ := h
    refine State.barrierDone_missing hp l fun hc => ?_
    obtain ⟨hlive, hbar⟩ := hl hc.1
    exact hbar (hc.2 hlive)
  · refine State.barrierDone_unanswered (State.mem_arrived.mpr (.inl rfl)) (l := W.lowest) ?_
      (by rw [State.arrived_unanswered, h])
    rw [(State.arriver_lane (s := s) (W := W) W.lowest).2.1, LaneMask.lowest_mem hW, Bool.true_or]

/-- The executing warp of a LIVE thread is listed among the warps of its block. -/
theorem State.me_listed {l : Fin 32} (hl : s.me.lanes[l].st = .live) : (s.cur.slot, s.me) ∈ s.blockWarps s.me.blk := by
  refine State.mem_blockWarps.mpr ⟨Map.mem_of_find (k := s.cur.slot) ?_, rfl⟩
  have hme : s.me = (Map.find s.warps s.cur.slot).getD Warp.blank := rfl
  cases hf : Map.find s.warps s.cur.slot with
  | some w => rw [hme, hf]; rfl
  | none =>
    rw [hme, hf] at hl
    simp [Warp.blank, Lane.none] at hl

/-- The barrier completes with the last thread to arrive. -/
theorem State.arrived_completes (hW : W ≠ 0) (hlive : ∀ l : Fin 32, W.getLsbD l.val = true → s.me.lanes[l].st = .live)
    (hall : s.allArrive W) (hquiet : ∀ p ∈ s.blockWarps s.me.blk, p.2.pendings = [] ∧ s.unanswered p.1 = false ∧
      ∀ r ∈ (s.core (blockCore s.me.blk)).collector, r.slot ≠ p.1) : (s.arrived W).barrierDone s.me.blk = true := by
  have hlow := hlive W.lowest (LaneMask.lowest_mem hW)
  have hcore (c : Nat) : (s.arrived W).core c = s.core c := by
    rw [State.arrived_rest]
    rfl
  refine State.barrierDone_true (State.mem_arrived.mpr (.inl rfl)) (l := W.lowest) ?_ (State.allArrive_iff.mp hall)
    fun q hq => ?_
  · obtain ⟨hst, hbar, -⟩ := State.arriver_lane (s := s) (W := W) W.lowest
    exact ⟨hst.trans hlow, by rw [hbar, LaneMask.lowest_mem hW, Bool.true_or]⟩
  · rw [State.arrived_unanswered, hcore]
    rcases State.mem_arrived.mp hq with rfl | hq
    · rw [State.arriver_pendings]
      exact hquiet _ (State.me_listed hlow)
    · exact hquiet q (List.mem_of_mem_filter hq)

end

end Sys2Proof.Machine

/-! PROOFS. EXIT and what follows the end of threads, and O30 (R14, R133, R200, R277). -/

namespace Sys2Proof.Machine

/-! ### Rays that return (R370) -/

theorem State.returnRay_rest (s : State) (bk r : Nat) (p : Bounds) :
    s.returnRay bk r p = { s with blocks := (s.returnRay bk r p).blocks } := by
  unfold State.returnRay
  dsimp only
  split
  · split <;> rfl
  · rfl

theorem State.returnRays_rest (s : State) (W : LaneMask) : s.returnRays W = { s with blocks := (s.returnRays W).blocks } := by
  unfold State.returnRays
  split
  next => rfl
  next c _ =>
    suffices h : ∀ (qs : List (Nat × Nat)) (t : State), t = { s with blocks := t.blocks } →
        qs.foldl (fun t q => if W.getLsbD q.1 then t.returnRay s.me.blk q.2
          ⟨(s.me.vreg 0).st.lane (Fin.ofNat 32 q.1), (s.me.vreg 1).st.lane (Fin.ofNat 32 q.1)⟩ else t) t =
        { s with blocks := (qs.foldl (fun t q => if W.getLsbD q.1 then t.returnRay s.me.blk q.2
          ⟨(s.me.vreg 0).st.lane (Fin.ofNat 32 q.1), (s.me.vreg 1).st.lane (Fin.ofNat 32 q.1)⟩ else t) t).blocks } from
      h c.rays s rfl
    intro qs
    induction qs with
    | nil => exact fun t ht => ht
    | cons q qs ih =>
      intro t ht
      rw [List.foldl_cons]
      refine ih _ ?_
      split
      · rw [State.returnRay_rest, ht]
      · exact ht

/-! ### Threads that have exited (R133) -/

section
variable {s : State} {g : Guard} {W : LaneMask}

/-- The executing warp, its threads of W answering for no ray any more. -/
def State.exiting (s : State) (W : LaneMask) : Warp :=
  let drop (c : RayWarp) : RayWarp := ⟨c.rays.filter fun (q : Nat × Nat) => !W.getLsbD q.1⟩
  { s.me with callable := s.me.callable.map drop }

/-- The executing warp once its threads of W have exited and its run has moved. -/
def State.exiter (s : State) (W : LaneMask) : Warp := ((s.exiting W).issued s.cur.run fun _ => s.cur.next).exit W

/-- A thread's state after an EXIT of the threads of W. -/
def State.exitState (s : State) (W : LaneMask) (l : Fin 32) : LaneState :=
  if W.getLsbD l.val then .exited else s.me.lanes[l].st

theorem State.exiter_lane (l : Fin 32) : (s.exiter W).lanes[l].st = s.exitState W l ∧
    (W.getLsbD l.val = true → (s.exiter W).lanes[l].stack = []) := by
  have hlane := Warp.issued_lane (s.exiting W) s.cur.run (fun _ => s.cur.next) l
  have hexit : (s.exiter W).lanes[l.val] = if W.getLsbD l.val then
      { ((s.exiting W).issued s.cur.run fun _ => s.cur.next).lanes[l.val] with st := .exited, stack := [] }
      else ((s.exiting W).issued s.cur.run fun _ => s.cur.next).lanes[l.val] := by
    simp [State.exiter, Warp.exit]
  change (s.exiter W).lanes[l.val].st = _ ∧ (_ → (s.exiter W).lanes[l.val].stack = _)
  rw [hexit, hlane, State.exitState]
  cases W.getLsbD l.val with
  | false => exact ⟨rfl, fun h => by cases h⟩
  | true => exact ⟨rfl, fun _ => rfl⟩

theorem State.exiter_rest : s.exiter W =
    { s.me with lanes := (s.exiter W).lanes, waitCount := 0, callable := (s.exiter W).callable } := by
  unfold State.exiter
  rw [Warp.issued_rest]
  rfl

theorem State.exiter_blk : (s.exiter W).blk = s.me.blk := by rw [State.exiter_rest]

theorem State.exiter_pendings : (s.exiter W).pendings = s.me.pendings := by
  unfold Warp.pendings
  rw [State.exiter_rest]

/-- Every thread of the warp has ended. -/
def State.allExit (s : State) (W : LaneMask) : Prop := ∀ l : Fin 32, s.exitState W l = .none ∨ s.exitState W l = .exited

theorem State.exiter_ended : (s.exiter W).ended = true ↔ s.allExit W := by
  unfold Warp.ended State.allExit
  rw [List.all_eq_true]
  refine ⟨fun h l => ?_, fun h l _ => ?_⟩
  · have hl := h l (List.mem_finRange l)
    rw [(State.exiter_lane l).1, Bool.or_eq_true, beq_iff_eq, beq_iff_eq] at hl
    exact hl
  · rw [(State.exiter_lane l).1, Bool.or_eq_true, beq_iff_eq, beq_iff_eq]
    exact h l

theorem State.exiter_over : (s.exiter W).over = true ↔ s.allExit W ∧ s.me.pendings = [] := by
  rw [Warp.over, Bool.and_eq_true, State.exiter_ended, State.exiter_pendings, List.isEmpty_iff]

/-- The machine once the threads of W have exited, before what follows. -/
def State.exited (s : State) (W : LaneMask) : State :=
  let t := s.returnRays W
  let u := (t.setMe (t.exiting W)).moveRun fun _ => s.cur.next
  u.setMe (u.me.exit W)

theorem exec_exit_none (hW : s.wset g = 0) : exec (.exit g) s = .next s.advance := if_pos hW

theorem exec_exit (hW : s.wset g ≠ 0) (hgate : s.exitGate = .go) (hready : s.me.returnReady (s.wset g) = true) :
    exec (.exit g) s = .next ((s.exited (s.wset g)).afterExit s.cur.slot) := by
  have hcur : (s.returnRays (s.wset g)).cur = s.cur := by rw [State.returnRays_rest]
  change execExit g s = _
  unfold execExit
  simp only [hW, if_false, hgate, hready, bne_self_eq_false, Bool.not_true, Bool.or_self, Bool.false_eq_true]
  unfold State.exitThreads State.exited
  rw [← hcur]
  rfl

/-- The machine once the threads of W have exited differs in its warp, the rays and the count of retired steps. -/
theorem State.exited_eq (s : State) (W : LaneMask) : ∃ ls bl, s.exited W =
    { s.setMe (s.exiter W) with launches := ls, blocks := bl } := by
  obtain ⟨bl, hrays⟩ : ∃ bl, s.returnRays W = { s with blocks := bl } := ⟨_, s.returnRays_rest W⟩
  have hmove : ∃ ls, ((s.returnRays W).setMe ((s.returnRays W).exiting W)).moveRun (fun _ => s.cur.next) =
      { s.setMe ((s.exiting W).issued s.cur.run fun _ => s.cur.next) with launches := ls, blocks := bl } := by
    rw [hrays, State.moveRun, State.retire_rest, State.setMe_setMe, State.me_setMe]
    exact ⟨_, rfl⟩
  obtain ⟨ls, hls⟩ := hmove
  refine ⟨ls, bl, ?_⟩
  have hme : State.me { s.setMe ((s.exiting W).issued s.cur.run fun _ => s.cur.next) with launches := ls, blocks := bl } =
      (s.exiting W).issued s.cur.run fun _ => s.cur.next := State.me_setMe s _
  unfold State.exited
  dsimp only
  rw [hls, hme, ← State.setMe_setMe s ((s.exiting W).issued s.cur.run fun _ => s.cur.next) (s.exiter W)]
  rfl

theorem State.exited_warps : (s.exited W).warps = Map.set s.warps s.cur.slot (s.exiter W) := by
  obtain ⟨ls, bl, h⟩ := s.exited_eq W
  rw [h]
  rfl

theorem State.exited_warp : (s.exited W).warp s.cur.slot = s.exiter W := by
  rw [State.warp, State.exited_warps, Map.getD_set_same]

theorem State.exited_rest : s.exited W = { s with
    warps := (s.exited W).warps, launches := (s.exited W).launches, blocks := (s.exited W).blocks } := by
  obtain ⟨ls, bl, h⟩ := s.exited_eq W
  rw [h]
  rfl

end

/-! ### What follows an exit (R14, R200) -/

section
variable {s : State} {slot bk : Nat} {w : Warp}

/-- The machine once a warp of which threads have exited has left its slot or stays. -/
def State.reslotted (s : State) (slot : Nat) (w : Warp) : State := if w.over then s.endWarp slot else s.setWarp slot w

/-- The collator windows of a block closed when no thread of it is LIVE (R338). -/
def State.windowsShut (s : State) (bk : Nat) : State :=
  if s.anyLive bk then s else
    let b := s.block bk
    s.setBlock bk { b with collator := b.collator.map fun c => { c with closed := true } }

theorem State.afterExit_eq (s : State) (slot : Nat) : s.afterExit slot =
    let w := (s.warp slot).checkHandler
    let t := (s.reslotted slot w).windowsShut w.blk
    if (t.blockWarps w.blk).isEmpty then t.closeBlock w.blk else t.checkBarrier w.blk := rfl

theorem State.windowsShut_rest (s : State) (bk : Nat) : s.windowsShut bk = { s with blocks := (s.windowsShut bk).blocks } := by
  unfold State.windowsShut
  split <;> rfl

theorem State.reslotted_rest (s : State) (slot : Nat) (w : Warp) : s.reslotted slot w = { s with
    warps := (s.reslotted slot w).warps
    blocks := (s.reslotted slot w).blocks
    ext := (s.reslotted slot w).ext
    ctxs := (s.reslotted slot w).ctxs
    collectives := (s.reslotted slot w).collectives } := by
  unfold State.reslotted
  split <;> rfl

theorem Warp.checkHandler_rest (w : Warp) : w.checkHandler.blk = w.blk ∧ w.checkHandler.lanes = w.lanes := by
  unfold Warp.checkHandler
  split <;> exact ⟨rfl, rfl⟩

/-- While a warp of the block is left, what follows an exit is the check of the barrier. -/
theorem State.afterExit_barrier (hb : (s.warp slot).blk = bk)
    (hleft : (s.reslotted slot (s.warp slot).checkHandler).blockWarps bk ≠ []) :
    s.afterExit slot = ((s.reslotted slot (s.warp slot).checkHandler).windowsShut bk).checkBarrier bk := by
  have hblk : (s.warp slot).checkHandler.blk = bk := (Warp.checkHandler_rest _).1.trans hb
  have hwarps : ((s.reslotted slot (s.warp slot).checkHandler).windowsShut bk).blockWarps bk ≠ [] := by
    rw [State.windowsShut_rest]
    exact hleft
  rw [State.afterExit_eq]
  dsimp only
  rw [hblk, if_neg (by rwa [List.isEmpty_iff])]

/-- Then only the warps, their block and what was kept for the warp have changed. -/
theorem State.afterExit_rest (hb : (s.warp slot).blk = bk)
    (hleft : (s.reslotted slot (s.warp slot).checkHandler).blockWarps bk ≠ []) : s.afterExit slot = { s with
      warps := (s.afterExit slot).warps
      blocks := (s.afterExit slot).blocks
      ext := (s.afterExit slot).ext
      ctxs := (s.afterExit slot).ctxs
      collectives := (s.afterExit slot).collectives } := by
  rw [State.afterExit_barrier hb hleft, State.checkBarrier_rest, State.windowsShut_rest, State.reslotted_rest]

/-- A warp that is not over keeps its slot. -/
theorem State.reslotted_stays (h : w.over = false) : (s.reslotted slot w).warps = Map.set s.warps slot w := by
  rw [State.reslotted, if_neg (ne_true_of_eq_false h)]
  rfl

theorem State.reslotted_leaves (h : w.over = true) : (s.reslotted slot w).warps = Map.erase s.warps slot := by
  rw [State.reslotted, if_pos h]
  rfl

/-- The warp in its slot after an exit that leaves it there. -/
theorem State.find_afterExit_stays (hb : (s.warp slot).blk = bk) (h : (s.warp slot).over = false) :
    ∃ x, Map.find (s.afterExit slot).warps slot = some x ∧ ∀ l : Fin 32,
      x.lanes[l].st = (s.warp slot).lanes[l].st ∧ x.lanes[l].stack = (s.warp slot).lanes[l].stack := by
  obtain ⟨hblk, hlanes⟩ := Warp.checkHandler_rest (s.warp slot)
  have hwarps := State.reslotted_stays (s := s) (slot := slot) ((Warp.checkHandler_over (s.warp slot)).trans h)
  have hleft : (s.reslotted slot (s.warp slot).checkHandler).blockWarps bk ≠ [] :=
    List.ne_nil_of_mem ((State.mem_blockWarps_set hwarps (hblk.trans hb)).mpr (.inl rfl))
  have hfind : Map.find ((s.reslotted slot (s.warp slot).checkHandler).windowsShut bk).warps slot =
      some (s.warp slot).checkHandler := by
    rw [State.windowsShut_rest]
    exact (congrArg (fun m => Map.find m slot) hwarps).trans (Map.find_set_same _ _ _)
  obtain ⟨x, hx, hsame⟩ := State.find_checkBarrier (bk := bk) hfind
  refine ⟨x, by rw [State.afterExit_barrier hb hleft, hx], fun l => ?_⟩
  rw [← hlanes]
  exact hsame l

/-- A warp of the block is left when the executing one stays or there is another. -/
theorem State.reslotted_left (hb : w.blk = bk) (h : w.over = false ∨ ∃ p ∈ s.blockWarps bk, p.1 ≠ slot) :
    (s.reslotted slot w).blockWarps bk ≠ [] := by
  cases hover : w.over with
  | false => exact List.ne_nil_of_mem ((State.mem_blockWarps_set (State.reslotted_stays hover) hb).mpr (.inl rfl))
  | true =>
    rw [hover] at h
    obtain ⟨p, hp, hne⟩ := h.resolve_left (by simp)
    obtain ⟨hmem, hblk⟩ := State.mem_blockWarps.mp hp
    refine List.ne_nil_of_mem (State.mem_blockWarps.mpr ⟨?_, hblk⟩)
    rw [State.reslotted_leaves hover]
    exact List.mem_filter.mpr ⟨hmem, bne_iff_ne.mpr hne⟩

end

/-! ### EXIT and the barrier together -/

section
variable {s : State} {W : LaneMask}

theorem State.exited_blk : ((s.exited W).warp s.cur.slot).blk = s.me.blk := by rw [State.exited_warp, State.exiter_blk]

/-- A warp with threads or pending reads keeps its slot after an EXIT. -/
theorem State.exit_stays (h : ¬(s.allExit W ∧ s.me.pendings = [])) :
    ∃ x, Map.find ((s.exited W).afterExit s.cur.slot).warps s.cur.slot = some x ∧ ∀ l : Fin 32,
      x.lanes[l].st = s.exitState W l ∧ (W.getLsbD l.val = true → x.lanes[l].stack = []) := by
  have hover : ((s.exited W).warp s.cur.slot).over = false := by
    rw [State.exited_warp]
    exact Bool.eq_false_iff.mpr fun ho => h (State.exiter_over.mp ho)
  obtain ⟨x, hx, hsame⟩ := State.find_afterExit_stays State.exited_blk hover
  refine ⟨x, hx, fun l => ?_⟩
  obtain ⟨hst, hstack⟩ := hsame l
  rw [State.exited_warp] at hst hstack
  obtain ⟨hlane, hnil⟩ := State.exiter_lane (s := s) (W := W) l
  exact ⟨hst.trans hlane, fun hl => hstack.trans (hnil hl)⟩

/-- While a warp of the block is left an EXIT changes nothing that the block's end would. -/
theorem State.exit_rest (h : ¬(s.allExit W ∧ s.me.pendings = []) ∨ s.otherWarps ≠ []) :
    let t := (s.exited W).afterExit s.cur.slot
    t = { s with warps := t.warps, launches := t.launches, blocks := t.blocks, ext := t.ext, ctxs := t.ctxs,
                 collectives := t.collectives } := by
  intro t
  have hleft : ((s.exited W).reslotted s.cur.slot ((s.exited W).warp s.cur.slot).checkHandler).blockWarps s.me.blk ≠ [] := by
    refine State.reslotted_left ((Warp.checkHandler_rest _).1.trans State.exited_blk) ?_
    rw [Warp.checkHandler_over, State.exited_warp]
    rcases h with h | h
    · exact .inl (Bool.eq_false_iff.mpr fun ho => h (State.exiter_over.mp ho))
    · obtain ⟨p, hp⟩ := List.exists_mem_of_ne_nil _ h
      exact .inr ⟨p, (State.mem_blockWarps_set State.exited_warps State.exiter_blk).mpr (.inr hp),
        bne_iff_ne.mp (List.mem_filter.mp hp).2⟩
  have ht : t = { s.exited W with
      warps := t.warps, blocks := t.blocks, ext := t.ext, ctxs := t.ctxs, collectives := t.collectives } :=
    State.afterExit_rest State.exited_blk hleft
  have hlaunches : t.launches = (s.exited W).launches := by rw [ht]
  rw [hlaunches]
  refine ht.trans ?_
  obtain ⟨ls, bl, h⟩ := s.exited_eq W
  rw [h]
  rfl

end

/-- Settles O30: what completes a barrier is told of the warps of the block, and what an EXIT leaves by what follows it. -/
theorem barrierAndExit : Obligations.BarrierAndExit := by
  intro s g W bk others mine all marked after allOut quiet
  have hmarked : marked ↔ s.me.markedCall W = true := (Warp.markedCall_iff s.me W).symm
  refine ⟨fun hh hm hl hW hlive => ?_,
    fun h => bar_raises (State.barGate_trap (h.imp_right fun hm => ⟨hm.1, hmarked.mp hm.2⟩)), fun hW => ?_,
    fun hW hgate hready => ⟨_, exec_exit hW hgate hready, fun hout hpend => ?_, fun _ hpend => ?_, fun hout l => ?_,
      fun h => ?_⟩⟩
  · have hrest : (s.arrived W).checkBarrier bk = { s with
        warps := ((s.arrived W).checkBarrier bk).warps
        launches := ((s.arrived W).checkBarrier bk).launches
        blocks := ((s.arrived W).checkBarrier bk).blocks } := by
      rw [State.checkBarrier_rest, State.arrived_rest]
    refine ⟨_, bar_next (State.barGate_go hh (fun hr => mt hmarked.mpr (hm hr)) hl), by rw [hrest], hrest, fun h => ?_,
      fun hall hquiet => State.checkBarrier_done (State.arrived_completes hW hlive hall hquiet)⟩
    rw [State.checkBarrier_open (State.arrived_waits hW h)]
    refine ⟨State.arrived_arrivals, fun l => ?_⟩
    rw [State.arrived_me]
    exact (State.arriver_lane l).2
  · exact steps_of_advance ((exec_exit_none hW).trans (by rw [State.advance_setMe_me])) rfl rfl
  · have hover : ((s.exited W).warp s.cur.slot).over = true := by
      rw [State.exited_warp, State.exiter_over]
      exact ⟨hout, hpend⟩
    exact State.find_afterExit _ hover
  · obtain ⟨x, hx, hlanes⟩ := State.exit_stays (s := s) (W := W) fun hc => hpend hc.2
    exact ⟨x, hx, fun l => (hlanes l).1⟩
  · obtain ⟨x, hx, hlanes⟩ := State.exit_stays (s := s) (W := W) fun hc => hout hc.1
    have hrest := State.exit_rest (s := s) (W := W) (.inl fun hc => hout hc.1)
    have hme : ((s.exited W).afterExit s.cur.slot).me = x := by
      have hcur : ((s.exited W).afterExit s.cur.slot).cur = s.cur := by rw [hrest]
      rw [State.me, hcur, State.warp, Map.getD, hx]
      rfl
    rw [hme]
    exact hlanes l
  · have hrest := State.exit_rest (s := s) (W := W) (by
      rcases h with h | h | h
      · exact .inl fun hc => h hc.1
      · exact .inl fun hc => h hc.2
      · exact .inr h)
    exact ⟨by rw [hrest], hrest⟩

end Sys2Proof.Machine

/-! PROOFS. The marcher, collectives, moves of segments and the rasteriser, event by event, and O50. -/

namespace Sys2Proof.Machine

/-! ### The marcher (R217, R232, R247, R369) -/

section
variable {s t : State} {b0 b i ray va new : Nat} {c : Cmd} {x : Ray}

theorem exec_marchCommandStart (b : Nat) (s : State) : exec (.marchCommandStart b) s = execMarchCommandStart b s := rfl

theorem marchCommandStart_starts
    (hnext : (s.slotOrder (blockCore b0) (s.core (blockCore b0)).lastMarch).findSome? (fun j =>
      (s.block j).nextMarch.map fun q => (j, q)) = some (b, i, c))
    (hroom : s.raysInFlight (blockCore b0) + mrCount c.desc ≤ 512) :
    exec (.marchCommandStart b0) s = .next ((s.startMarch b i c).setCore (blockCore b0)
      { (s.startMarch b i c).core (blockCore b0) with lastMarch := b % 32 }) := by
  rw [exec_marchCommandStart]
  unfold execMarchCommandStart
  dsimp only
  rw [hnext]
  exact if_neg (Nat.not_lt.mpr hroom)

theorem exec_marchRayDone (b ray : Nat) (s : State) : exec (.marchRayDone b ray) s = execMarchRayDone b ray s := rfl

/-- The hit record of a ray written, and the ray at its end. -/
def State.rayEnded (s : State) (b : Nat) (c : Cmd) (ray : Nat) (x : Ray) : State :=
  let u := s.writeHit b c ray x
  u.setBlock b ((u.block b).setRay ray { x with written := true })

/-- A ray that is done and not yet written, of a command that goes on, is due. -/
theorem rayOpen (hst : x.st = .done) (hw : x.written = false) (hf : c.frozen = false) (hr : c.refused = none) :
    (x.st != .done || x.written || c.frozen || c.refused.isSome) = false := by
  rw [hst, hw, hf, hr]
  rfl

section
variable (hc : (s.block b).marchCmd ray = some c) (hx : (s.block b).ray ray = some x) (hst : x.st = .done)
  (hw : x.written = false) (hf : c.frozen = false) (hr : c.refused = none)
include hc hx hst hw hf hr

/-- A ray without a visibility update ends with its hit record. -/
theorem marchRayDone_plain (hu : s.hitUpdate b c ray x = none) :
    exec (.marchRayDone b ray) s = .next (s.rayEnded b c ray x) := by
  rw [exec_marchRayDone]
  unfold execMarchRayDone
  simp only [hc, hx, rayOpen hst hw hf hr, hu, Bool.false_eq_true, if_false]
  rfl

/-- One with an update ends once the update is made. -/
theorem marchRayDone_updates (hu : s.hitUpdate b c ray x = some (va, new)) (hfull : ∀ ls, s.versionFull b ls = false)
    (ht : s.visUpdate (s.engine b 2) (msgVis c.depthTest) (visReplaces c.depthTest) va new = .ok t) :
    exec (.marchRayDone b ray) s = .next (t.rayEnded b c ray x) := by
  rw [exec_marchRayDone]
  unfold execMarchRayDone
  simp only [hc, hx, rayOpen hst hw hf hr, hu, hfull, ht, Bool.false_eq_true, if_false]
  rfl

end

theorem exec_marchCompletion (b : Nat) (s : State) : exec (.marchCompletion b) s = execMarchCompletion b s := rfl

theorem marchCompletion_completes
    (h : doneCmd (s.engineAcked b 2) (s.block b).marchQ marchDone = some (i, c)) : exec (.marchCompletion b) s = .next
      ((((s.popMarch b i).complete b (mrCompl c.desc) (c.refused.getD 0) c.rel c.scope).runDetaches b).closeBlock b) := by
  rw [exec_marchCompletion, execMarchCompletion, h]

end

/-! ### Collectives (R234, R429) -/

section
variable {s t : State} {i : Nat} {c : Collective}

theorem exec_collCompletion (i : Nat) (s : State) : exec (.collCompletion i) s = execCollCompletion i s := rfl

section
variable (hi : s.collectives[i]? = some c) (hissued : c.issued = true) (hfrozen : c.frozen = false) (hblk : c.blk < savedBlock)
include hi hissued hfrozen hblk

/-- What becomes of a collective that is issued and not held. -/
theorem collCompletion_open : exec (.collCompletion i) s =
    if c.refused.isSome then .next (s.endColl i c)
    else if (Map.find c.parts c.rank).isNone then .next (if c.dest = .none then s.dropColl i else s.collSource c)
    else if !c.covered || !(c.mismatch || c.gatheredAll) then .next s
    else .next (s.endColl i c) := by
  have hopen : (!c.issued || c.frozen || decide (savedBlock ≤ c.blk)) = false := by
    rw [hissued, hfrozen, decide_eq_false (Nat.not_le.mpr hblk)]
    rfl
  rw [exec_collCompletion, execCollCompletion, hi]
  dsimp only
  rw [hopen, if_neg Bool.false_ne_true]

/-- A collective whose contribution had to wait contributes, or goes when its block is gone. -/
theorem collCompletion_contributes (hr : c.refused = none) (hp : Map.find c.parts c.rank = none) :
    exec (.collCompletion i) s = .next (if c.dest = .none then s.dropColl i else s.collSource c) := by
  rw [collCompletion_open hi hissued hfrozen hblk, hr, hp]
  rfl

omit hi hissued hfrozen hblk in
theorem collFinished_iff : (!c.covered || !(c.mismatch || c.gatheredAll)) = false ↔
    c.covered = true ∧ (c.mismatch = true ∨ c.gatheredAll = true) := by
  rw [Bool.or_eq_false_iff, Bool.not_eq_false', Bool.not_eq_false', Bool.or_eq_true]

/-- It waits for the other members. -/
theorem collCompletion_waits (hr : c.refused = none) (hp : Map.find c.parts c.rank ≠ none)
    (hopen : ¬(c.covered = true ∧ (c.mismatch = true ∨ c.gatheredAll = true))) : exec (.collCompletion i) s = .next s := by
  have hpart : (Map.find c.parts c.rank).isNone = false := Option.isNone_eq_false_iff.mpr (Option.isSome_iff_ne_none.mpr hp)
  have hwait := Bool.eq_true_of_not_eq_false (mt collFinished_iff.mp hopen)
  rw [collCompletion_open hi hissued hfrozen hblk, hr, hpart, hwait]
  rfl

/-- It ends when it was refused, or when every member's part is there. -/
theorem collCompletion_ends (h : c.refused ≠ none ∨
    Map.find c.parts c.rank ≠ none ∧ c.covered = true ∧ (c.mismatch = true ∨ c.gatheredAll = true)) :
    exec (.collCompletion i) s = .next (s.endColl i c) := by
  rw [collCompletion_open hi hissued hfrozen hblk]
  cases hr : c.refused with
  | some status => rfl
  | none =>
    obtain ⟨hp, hdone⟩ := h.resolve_left fun hne => hne hr
    have hpart : (Map.find c.parts c.rank).isNone = false :=
      Option.isNone_eq_false_iff.mpr (Option.isSome_iff_ne_none.mpr hp)
    rw [hpart, collFinished_iff.mpr hdone]
    rfl

end

theorem endColl_none (hd : c.dest = .none) : s.endColl i c = s.dropColl i := by
  unfold State.endColl
  rw [hd]

theorem endColl_regs {slot d : Nat} {W : LaneMask} {b64 : Bool} (hd : c.dest = .regs slot d W b64) :
    s.endColl i c = ((s.dropColl i).deliverColl c slot d W b64).closeBlock c.blk := by
  unfold State.endColl
  rw [hd]

theorem endColl_written {r : Record} (hd : c.dest = .mem r) (hw : c.wrote = true) : s.endColl i c = s.finishColl i c := by
  unfold State.endColl
  rw [hd]
  exact if_pos hw

/-- The writes that a collective of the memory form makes at its end. -/
def Collective.resultWrites (c : Collective) (r : Record) : List (Nat × List Byte) :=
  if c.status = 0 then collWrites r (clDst c.desc) c.result else []

theorem endColl_writes {r : Record} (hd : c.dest = .mem r) (hw : c.wrote = false)
    (hfull : s.versionFull c.blk (s.writeLines (s.collParty c.blk).ctx (c.resultWrites r)) = false)
    (ht : s.deliverAll (s.collParty c.blk) (c.resultWrites r) = .ok t) :
    s.endColl i c = (((t.dropKept (s.collParty c.blk).who).settle (s.collParty c.blk).ctx (s.collParty c.blk).who).setColl
      c.launch c.grp c.n fun x => { x with wrote := true }).finishColl i c := by
  unfold Collective.resultWrites at hfull ht
  unfold State.endColl
  rw [hd]
  dsimp only
  rw [hw, hfull, ht]
  rfl

end

section
variable {s : State} {dev launch grp n rank d : Nat} {data : List Byte} {m : List Nat}

/-- A collective as this device has it: its record, or a fresh one. -/
def State.collHere (s : State) (launch grp n : Nat) : Collective :=
  ((s.collIndex launch grp n).bind fun i => s.collectives[i]?).getD (s.collFresh launch grp n)

/-- Does a piece come from the member before, and of another member? -/
def State.collPasses (s : State) (dev d : Nat) (m : List Nat) : Bool := dev == prevOf m s.mss.domid && d != s.mss.domid

theorem State.collPasses_iff :
    s.collPasses dev d m = true ↔
      dev = (m[(m.idxOf s.mss.domid + m.length - 1) % m.length]?).getD s.mss.domid ∧ d ≠ s.mss.domid := by
  unfold State.collPasses prevOf
  rw [Bool.and_eq_true, beq_iff_eq, bne_iff_ne]

theorem exec_collectiveContribution (dev launch grp n rank : Nat) (data : List Byte) (s : State) :
    exec (.collectiveContribution dev launch grp n rank data) s = execCollectiveContribution dev launch grp n rank data s := rfl

theorem State.collMembers_eq {l : Launch} (hl : Map.find s.launches launch = some l) (hg : l.group grp = some m) :
    s.collMembers launch grp = m := by
  rw [State.collMembers, State.launch, Map.getD, hl]
  exact congrArg (fun o => Option.getD o []) hg

/-- What is new of another member's own contribution: it came from that member, and no part covers it yet. -/
theorem collNew_single {c : Collective} (hdev : dev = d) (hd : d ≠ s.mss.domid) (hrank : rank ≠ c.rank)
    (hpart : partFor c.parts rank = none) : s.collNew c dev d rank 0 = true := by
  have hnone : c.parts.any (fun q => decide (q.1 ≤ rank) && decide (rank + 2 ^ 0 ≤ q.1 + 2 ^ q.2.level)) = false := by
    unfold partFor at hpart
    rw [List.find?_eq_none] at hpart
    rw [List.any_eq_false]
    exact hpart
  have hother : (decide (rank ≤ c.rank) && decide (c.rank < rank + 2 ^ 0)) = false := by
    rw [Bool.and_eq_false_iff, decide_eq_false_iff_not, decide_eq_false_iff_not]
    omega
  unfold State.collNew
  rw [hnone, hother, hdev]
  simp [Nat.mod_one, hd]

/-- A message sent on along the ring. -/
theorem State.sendNext_eq (hm : s.collMembers launch grp = m) (q : CollMsg) : s.sendNext launch grp n q =
    if nextOf m s.mss.domid = s.mss.domid then s
    else s.send (nextOf m s.mss.domid) msgColl grp (leBytes 4 n ++ q.bytes) := by
  rw [State.sendNext, hm, State.sendColl]

/-- A collective changed leaves the rest of the state. -/
theorem State.setColl_rest (f : Collective → Collective) :
    s.setColl launch grp n f = { s with collectives := (s.setColl launch grp n f).collectives } := by
  unfold State.setColl
  split <;> rfl

theorem State.setColl_mss (f : Collective → Collective) : (s.setColl launch grp n f).mss = s.mss := by
  rw [State.setColl_rest]

theorem State.setColl_collMembers (f : Collective → Collective) :
    (s.setColl launch grp n f).collMembers launch grp = s.collMembers launch grp := by
  rw [State.setColl_rest]
  rfl

section
variable (hm : s.collMembers launch grp = m) (hd : m[rank]? = some d)
include hm hd

/-- A contribution: kept when it is new, in place of those it holds. -/
theorem collectiveContribution_part (hp : (collMsg data).phase = 0) :
    exec (.collectiveContribution dev launch grp n rank data) s =
      if s.collNew (s.collHere launch grp n) dev d rank (collMsg data).level then
        .next (s.setColl launch grp n fun c => { c with
          parts := Map.set (c.parts.filter fun q => !(decide (rank ≤ q.1) && decide (q.1 < rank + 2 ^ (collMsg data).level)))
            rank ⟨(collMsg data).sig, (collMsg data).data, (collMsg data).level⟩ })
      else .next s := by
  rw [exec_collectiveContribution]
  unfold execCollectiveContribution
  dsimp only
  rw [hm, hd]
  dsimp only
  rw [hp]
  rfl

/-- A piece of the reduce-scatter pass. -/
theorem collectiveContribution_piece (hp : (collMsg data).phase = 1) :
    exec (.collectiveContribution dev launch grp n rank data) s =
      if !s.collPasses dev d m || decide (m.length ≤ (collMsg data).chunk) ||
          ((collMsg data).chunk == (s.collHere launch grp n).rank && (Map.find (s.collHere launch grp n).pieces rank).isSome) then
        .next s
      else if (collMsg data).chunk = (s.collHere launch grp n).rank then
        .next ((s.setColl launch grp n fun c => { c with
          pieces := Map.set c.pieces rank ⟨(collMsg data).sig, (collMsg data).data, 0⟩ }).collAdvance launch grp n)
      else .next (s.sendNext launch grp n (collMsg data)) := by
  rw [exec_collectiveContribution]
  unfold execCollectiveContribution
  dsimp only
  rw [hm, hd]
  dsimp only
  rw [hp]
  rfl

/-- A piece of the all-gather pass. -/
theorem collectiveContribution_gathered (hp : 2 ≤ (collMsg data).phase) :
    exec (.collectiveContribution dev launch grp n rank data) s =
      if !s.collPasses dev d m || (Map.find (s.collHere launch grp n).gathered rank).isSome then .next s
      else
        let t := s.setColl launch grp n fun c => { c with gathered := Map.set c.gathered rank (collMsg data).data }
        .next (if nextOf m s.mss.domid = d then t else t.sendNext launch grp n (collMsg data)) := by
  obtain ⟨k, hk⟩ := Nat.exists_eq_add_of_le' hp
  rw [exec_collectiveContribution]
  unfold execCollectiveContribution
  dsimp only
  rw [hm, hd]
  dsimp only
  rw [hk]
  rfl

/-- A piece that does not come along the ring, names no member, or is here already changes nothing. -/
theorem collectiveContribution_dropsPiece (hp : (collMsg data).phase = 1)
    (h : ¬s.collPasses dev d m = true ∨ m.length ≤ (collMsg data).chunk ∨
      (collMsg data).chunk = (s.collHere launch grp n).rank ∧ Map.find (s.collHere launch grp n).pieces rank ≠ none) :
    exec (.collectiveContribution dev launch grp n rank data) s = .next s := by
  rw [collectiveContribution_piece hm hd hp, if_pos]
  rw [Bool.or_eq_true, Bool.or_eq_true, Bool.and_eq_true, Bool.not_eq_true', decide_eq_true_iff, beq_iff_eq,
    Option.isSome_iff_ne_none, or_assoc, ← Bool.not_eq_true]
  exact h

section
variable (hp : (collMsg data).phase = 1) (hpass : s.collPasses dev d m = true) (hlt : (collMsg data).chunk < m.length)
include hp hpass hlt

/-- The member for whom a piece is keeps it. -/
theorem collectiveContribution_keepsPiece (hc : (collMsg data).chunk = (s.collHere launch grp n).rank)
    (hnone : Map.find (s.collHere launch grp n).pieces rank = none) :
    exec (.collectiveContribution dev launch grp n rank data) s = .next ((s.setColl launch grp n fun c => { c with
      pieces := Map.set c.pieces rank ⟨(collMsg data).sig, (collMsg data).data, 0⟩ }).collAdvance launch grp n) := by
  rw [collectiveContribution_piece hm hd hp, hpass, decide_eq_false (Nat.not_le.mpr hlt), hnone, if_pos hc, if_neg]
  simp

/-- Every other member passes it on. -/
theorem collectiveContribution_passesPiece (hc : (collMsg data).chunk ≠ (s.collHere launch grp n).rank) :
    exec (.collectiveContribution dev launch grp n rank data) s = .next (s.sendNext launch grp n (collMsg data)) := by
  rw [collectiveContribution_piece hm hd hp, hpass, decide_eq_false (Nat.not_le.mpr hlt), beq_false_of_ne hc, if_neg hc]
  rfl

end

theorem collectiveContribution_dropsGathered (hp : 2 ≤ (collMsg data).phase)
    (h : ¬s.collPasses dev d m = true ∨ Map.find (s.collHere launch grp n).gathered rank ≠ none) :
    exec (.collectiveContribution dev launch grp n rank data) s = .next s := by
  rw [collectiveContribution_gathered hm hd hp, if_pos]
  rw [Bool.or_eq_true, Bool.not_eq_true', Option.isSome_iff_ne_none, ← Bool.not_eq_true]
  exact h

section
variable (hp : 2 ≤ (collMsg data).phase) (hpass : s.collPasses dev d m = true)
  (hnone : Map.find (s.collHere launch grp n).gathered rank = none)
include hp hpass hnone

/-- The last member keeps a piece of the all-gather pass. -/
theorem collectiveContribution_closesRing (hlast : nextOf m s.mss.domid = d) :
    exec (.collectiveContribution dev launch grp n rank data) s = .next (s.setColl launch grp n fun c => { c with
      gathered := Map.set c.gathered rank (collMsg data).data }) := by
  rw [collectiveContribution_gathered hm hd hp, hpass, hnone]
  exact congrArg Host.Outcome.next (if_pos hlast)

/-- Every other member passes it on too. -/
theorem collectiveContribution_passesGathered (hlast : nextOf m s.mss.domid ≠ d)
    (hother : nextOf m s.mss.domid ≠ s.mss.domid) :
    exec (.collectiveContribution dev launch grp n rank data) s = .next ((s.setColl launch grp n fun c => { c with
      gathered := Map.set c.gathered rank (collMsg data).data }).send (nextOf m s.mss.domid) msgColl grp
        (leBytes 4 n ++ (collMsg data).bytes)) := by
  rw [collectiveContribution_gathered hm hd hp, hpass, hnone]
  refine congrArg Host.Outcome.next ((if_neg hlast).trans ?_)
  rw [State.sendNext_eq ((State.setColl_collMembers _).trans hm), State.setColl_mss, if_neg hother]

end

end

end

/-! ### Moves of segments (R209, R289, R310) -/

section
variable {s t u : State} {k core : Nat} {g : Segment}

theorem exec_segmentWritebackEnd (k : Nat) (s : State) : exec (.segmentWritebackEnd k) s = .next (s.segWriteback k) := rfl

theorem exec_segmentReloadEnd (k : Nat) (s : State) : exec (.segmentReloadEnd k) s = .next (s.segReload k) := rfl

theorem segWriteback_writes (hk : Map.find s.segs k = some g) (hst : g.st = .moving) (hload : g.loading = false)
    (ht : s.deliver (segParty k g) .write g.backing (g.bytes.bytes 0 (4096 * g.size)) = .ok t) :
    s.segWriteback k = (t.segSettled k g.ctx).segWritten k g := by
  unfold State.segWriteback State.segStore
  rw [hk]
  dsimp only
  rw [hst, hload, ht]
  rfl

/-- A segment that is evicted is COLD after its write-back. -/
theorem segWritten_evicted (hgoal : g.goal = some .evict ∨ ∃ j, g.goal = some (.evictFor j)) : s.segWritten k g =
    (s.order g.loc false true false .chip (segKey k) 4 true).setSeg k
      { g with st := .cold, bytes := [], goal := none, loading := false } := by
  unfold State.segWritten
  obtain hgoal | ⟨j, hgoal⟩ := hgoal <;> rw [hgoal]

theorem segWritten_reloaded (hgoal : g.goal = some (.reload core)) : s.segWritten k g =
    (s.order g.loc false true false .chip (segKey k) 4 true).setSeg k { g with st := .cold, bytes := [], loading := true } := by
  unfold State.segWritten
  rw [hgoal]

theorem segWritten_freed (hgoal : g.goal = some .free) (hwait : g.waiter = none) : s.segWritten k g =
    { s.order g.loc false true false .chip (segKey k) 4 true with
      segs := Map.erase (s.order g.loc false true false .chip (segKey k) 4 true).segs k } := by
  unfold State.segWritten
  rw [hgoal, hwait]

theorem segLoaded_unawaited {bs : List Byte} (hwait : g.waiter = none) : s.segLoaded k g bs =
    (s.order g.loc true false false .chip (segKey k) 4 false).setSeg k { g with
      st := .resident, bytes := Mem.putBytes [] 0 bs, goal := none, loading := false, waiter := none
      idleSince := (s.order g.loc true false false .chip (segKey k) 4 false).clk } := by
  unfold State.segLoaded
  rw [hwait]

/-- A segment that enters MOVING on a core, to be loaded there. -/
def Segment.entering (g : Segment) (core : Nat) : Segment := { g with st := .moving, loc := core, loading := true }

/-- The other segments that have room on a core. -/
def State.otherClaims (s : State) (k core : Nat) : List (Nat × Segment) := s.segs.filter fun p => p.1 != k && p.2.claims core

/-- A segment enters MOVING once its core has room for it. -/
theorem segEnter_room (hk : Map.find s.segs k = some g) (hst : g.st = .cold) (hgoal : g.goal = some (.reload core))
    (hroom : s.granulesOf core (fun _ => false) + (s.otherClaims k core).foldl (fun n p => n + p.2.size) 0 + g.size ≤
      s.capacity core)
    (hfew : (s.otherClaims k core).length < 16) :
    s.segEnter k = s.setSeg k (g.entering core) := by
  have hdest : g.dest = core := by rw [Segment.dest, hgoal]
  unfold State.otherClaims at hroom hfew
  unfold State.segEnter Segment.entering
  rw [hk]
  dsimp only
  rw [hdest, hst, hgoal, decide_eq_true hroom, decide_eq_true hfew]
  rfl

theorem segEnter_moving (hk : Map.find s.segs k = some g) (hst : g.st = .moving) : s.segEnter k = s := by
  unfold State.segEnter
  rw [hk]
  dsimp only
  rw [hst]
  rfl

theorem segMakeRoom_moving (hk : Map.find s.segs k = some g) (hst : g.st = .moving) : s.segMakeRoom k = s := by
  unfold State.segMakeRoom
  rw [hk]
  dsimp only
  rw [hst]
  rfl

/-- A move that no instruction waits for, of the segment itself, logs none. -/
theorem segLogged_unawaited (hgoal : g.goal = some (.reload core)) (hwait : g.waiter = none) : s.segLogged k g = s := by
  unfold State.segLogged State.moveFor
  rw [hgoal]
  dsimp only
  rw [hwait]

/-- A reload of a segment that has its room. -/
theorem segReload_entered (he : (s.segEnter k).segMakeRoom k = t) (hk : Map.find t.segs k = some g) (hst : g.st = .moving)
    (hload : g.loading = true) : s.segReload k =
      match t.segLoad k g with
      | .ok bs => (t.segSettled k g.ctx).segLoaded k g bs
      | .wait u => if (t.ctx g.ctx).faults == (u.ctx g.ctx).faults then u else u.segLogged k g
      | .denied => t.segAbandon k g true := by
  unfold State.segReload
  dsimp only
  rw [he, hk]
  dsimp only
  rw [hst, hload]
  rfl

/-- A COLD segment whose core has room goes there, and its reload waits for BACKING. -/
theorem segReload_waits (hk : Map.find s.segs k = some g) (hst : g.st = .cold) (hgoal : g.goal = some (.reload core))
    (hwait : g.waiter = none)
    (hroom : s.granulesOf core (fun _ => false) + (s.otherClaims k core).foldl (fun n p => n + p.2.size) 0 + g.size ≤
      s.capacity core)
    (hfew : (s.otherClaims k core).length < 16)
    (hu : (s.setSeg k (g.entering core)).segLoad k (g.entering core) = .wait u) : s.segReload k = u := by
  have hfind : Map.find (s.setSeg k (g.entering core)).segs k = some (g.entering core) := Map.find_set_same s.segs k _
  have hmade : (s.segEnter k).segMakeRoom k = s.setSeg k (g.entering core) := by
    rw [segEnter_room hk hst hgoal hroom hfew]
    exact segMakeRoom_moving hfind rfl
  have hlog : u.segLogged k (g.entering core) = u := segLogged_unawaited hgoal hwait
  rw [segReload_entered hmade hfind rfl rfl, hu]
  dsimp only
  rw [hlog, ite_self]

/-- One whose bytes have come is RESIDENT. -/
theorem segReload_loads {bs : List Byte} (hk : Map.find s.segs k = some g) (hst : g.st = .moving) (hload : g.loading = true)
    (hbs : s.fetch (segParty k g) g.backing (4096 * g.size) = .ok bs) :
    s.segReload k = (s.segSettled k g.ctx).segLoaded k g bs := by
  have hmade : (s.segEnter k).segMakeRoom k = s := by rw [segEnter_moving hk hst, segMakeRoom_moving hk hst]
  rw [segReload_entered hmade hk hst hload, State.segLoad, hbs]

end

/-! ### The rasteriser (R374, R379, R380) -/

theorem exec_rasterisePrimitive (q : Nat) (s : State) : exec (.rasterisePrimitive q) s = execRasterisePrimitive q s := rfl

theorem rasterisePrimitive_takes {s t : State} {q : Nat} {l : Launch} {x : Prim}
    (hnext : ((s.queueLaunches q).findSome? fun p => (s.nextPrim p.1).map fun x => (p.2, x)) = some (l, x))
    (hrun : s.isFrozen (.queue q) = false) (ht : s.maxUpdates (s.gscParty l) (s.primUpdates l x) = .ok t) :
    exec (.rasterisePrimitive q) s = .next { t with prims := t.prims.erase x } := by
  rw [exec_rasterisePrimitive, execRasterisePrimitive, hnext]
  dsimp only
  rw [hrun, ht]
  rfl

section
variable {s : State} {dev : Nat}

theorem exec_primitiveForward (dev : Nat) (prim : List Byte) (s : State) :
    exec (.primitiveForward dev prim) s = .next (s.takeGeo (.prim dev prim)) := rfl

theorem exec_blockEndMark (dev blk n : Nat) (s : State) :
    exec (.blockEndMark dev blk n) s = .next (s.takeGeo (.mark dev blk n)) := rfl

/-- A message of geometry that no launch takes is held. -/
theorem takeGeo_held {x : Geo} (h : s.geometryLaunch x.dev = none) : s.takeGeo x = { s with early := s.early ++ [x] } := by
  unfold State.takeGeo
  rw [h]

theorem takeGeo_prim {p : Nat × Launch} (h : s.geometryLaunch dev = some p) (prim : List Byte) :
    s.takeGeo (.prim dev prim) = if p.2.devlost then s else { s with prims := s.prims ++ [bytesPrim p.1 dev prim] } := by
  unfold State.takeGeo
  rw [Geo.dev, h]

theorem takeGeo_mark {p : Nat × Launch} (h : s.geometryLaunch dev = some p) (blk n : Nat) :
    s.takeGeo (.mark dev blk n) = { s with marks := s.marks ++ [(p.1, dev, blk, n)] } := by
  unfold State.takeGeo
  rw [Geo.dev, h]

end

/-! ### O50 -/

/-- Settles O50: each event cites the rule of its stage; what a collective does with a part turns on whether the part is new
and from the member before. -/
theorem marchRenderAndMoveEvents : Obligations.MarchRenderAndMoveEvents := by
  unfold Obligations.MarchRenderAndMoveEvents
  refine ⟨?_, ?_, ?_, ?_, ?_, ?_, ?_, ?_, ?_⟩
  · intro s b0 b i c k core hnext hroom
    exact marchCommandStart_starts hnext hroom
  · intro s b ray c x hc hx hst hw hf hr a finish
    exact ⟨marchRayDone_plain hc hx hst hw hf hr, fun va new t hu hfull ht =>
      marchRayDone_updates hc hx hst hw hf hr hu hfull ht⟩
  · intro s b i c h
    exact marchCompletion_completes h
  · intro s i c hi hissued hfrozen hblk gone finished
    refine ⟨collCompletion_contributes hi hissued hfrozen hblk, collCompletion_waits hi hissued hfrozen hblk, fun hend => ?_⟩
    have hexec := collCompletion_ends hi hissued hfrozen hblk hend
    refine ⟨fun hd => ?_, fun slot d W b64 hd => ?_, fun r hd => ⟨fun hw => ?_, fun t hw hfull ht => ?_⟩⟩
    · exact hexec.trans (congrArg Host.Outcome.next (endColl_none hd))
    · exact hexec.trans (congrArg Host.Outcome.next (endColl_regs hd))
    · exact hexec.trans (congrArg Host.Outcome.next (endColl_written hd hw))
    · exact hexec.trans (congrArg Host.Outcome.next (endColl_writes hd hw hfull ht))
  · intro s dev launch grp n rank d data l m hl hg hd p me c came next sent passes
    have hm := s.collMembers_eq hl hg
    have hpass : passes ↔ s.collPasses dev d m = true := State.collPasses_iff.symm
    refine ⟨fun hp hnew => ?_, fun hp hnew => ?_, collNew_single, fun hp h => ?_, fun hp h hlt hc hnone => ?_,
      fun hp h hlt hc => ?_, fun hp h => ?_, fun hp h hnone => ⟨fun hlast => ?_, fun hlast hother => ?_⟩⟩
    · exact (collectiveContribution_part hm hd hp).trans (if_neg (Bool.eq_false_iff.mp hnew))
    · exact (collectiveContribution_part hm hd hp).trans (if_pos hnew)
    · exact collectiveContribution_dropsPiece hm hd hp (h.imp_left (mt hpass.mpr))
    · exact collectiveContribution_keepsPiece hm hd hp (hpass.mp h) hlt hc hnone
    · exact (collectiveContribution_passesPiece hm hd hp (hpass.mp h) hlt hc).trans
        (congrArg Host.Outcome.next (State.sendNext_eq hm _))
    · exact collectiveContribution_dropsGathered hm hd hp (h.imp_left (mt hpass.mpr))
    · exact collectiveContribution_closesRing hm hd hp (hpass.mp h) hnone hlast
    · exact collectiveContribution_passesGathered hm hd hp (hpass.mp h) hnone hlast hother
  · intro s k g hk
    refine ⟨?_, fun hst => ⟨fun t hload ht => ?_, ?_⟩⟩
    · intro core hst hgoal hwait others hroom hfew h t u hu
      exact congrArg Host.Outcome.next (segReload_waits hk hst hgoal hwait hroom hfew hu)
    · have hexec : exec (.segmentWritebackEnd k) s = .next ((t.segSettled k g.ctx).segWritten k g) :=
        congrArg Host.Outcome.next (segWriteback_writes hk hst hload ht)
      refine ⟨fun hgoal => ?_, fun core hgoal => ?_, fun hgoal hwait => ?_⟩
      · rw [hexec, segWritten_evicted hgoal]
        rfl
      · rw [hexec, segWritten_reloaded hgoal]
        rfl
      · rw [hexec, segWritten_freed hgoal hwait]
        rfl
    · intro bs hload hbs hwait u
      rw [exec_segmentReloadEnd, segReload_loads hk hst hload hbs, segLoaded_unawaited hwait]
      rfl
  · intro s q l x t hnext hrun ht
    exact rasterisePrimitive_takes hnext hrun ht
  · intro s dev blk n prim p hp
    rw [exec_primitiveForward, exec_blockEndMark, takeGeo_prim hp, takeGeo_mark hp]
    refine ⟨fun hlost => ?_, fun hlost => ?_, rfl⟩
    · rw [hlost]
      rfl
    · rw [hlost]
      rfl
  · intro s dev blk n prim hnone
    exact ⟨congrArg Host.Outcome.next (takeGeo_held hnone), congrArg Host.Outcome.next (takeGeo_held hnone)⟩

end Sys2Proof.Machine

/-! PROOFS. How an instruction that writes no register ends, the issue of engine commands, and O33 (R214 to R218, R221). -/

namespace Sys2Proof.Machine

/-! ### The end of an instruction that writes no register (R98) -/

section
variable {i : Instr} {s u v : State} {us : List Use}

/-- The machine as an instruction leaves it before its run moves: LR has freed its sources. -/
structure FreedIn (s u : State) (us : List Use) : Prop where
  me : u.me = s.me.free (s.frees us [])
  cur : u.cur = s.cur
  others : ∀ k, k ≠ s.cur.slot → Map.find u.warps k = Map.find s.warps k

theorem State.freed_freedIn (s : State) (us : List Use) : FreedIn s (s.freed us) us :=
  ⟨s.freed_me us, rfl, State.find_warps_setMe s _⟩

/-- Beside the executing warp a freed machine may change. -/
theorem FreedIn.of_warps (hw : u.warps = (s.freed us).warps) (hcur : u.cur = s.cur) : FreedIn s u us := by
  refine ⟨?_, hcur, fun k hk => ?_⟩
  · rw [State.me, State.warp, hw, hcur]
    exact s.freed_me us
  · rw [hw]
    exact State.find_warps_setMe s _ k hk

theorem FreedIn.moves (h : FreedIn s u us) : Moves s u.advance fun _ => s.cur.next :=
  moves_of_me (v := s.me.free (s.frees us [])) (by rw [State.advance_warp, h.me, h.cur]) (Warp.free_lanes _ _)

theorem FreedIn.leaves (h : FreedIn s u us) :
    u.advance.me = { s.me.free (s.frees us []) with lanes := u.advance.me.lanes, waitCount := 0 } := by
  rw [State.advance_rest, h.me]

theorem State.find_warps_advance (u : State) (k : Nat) (hk : k ≠ u.cur.slot) :
    Map.find u.advance.warps k = Map.find u.warps k := by
  obtain ⟨y, ls, hadv⟩ := State.advance_setMe_eq u u.me
  rw [← State.advance_setMe_me, hadv]
  exact State.find_warps_setMe u y k hk

theorem FreedIn.find_advance (h : FreedIn s u us) (k : Nat) (hk : k ≠ s.cur.slot) :
    Map.find u.advance.warps k = Map.find s.warps k :=
  (State.find_warps_advance u k (h.cur ▸ hk)).trans (h.others k hk)

theorem completes_of_advance (h : FreedIn s u us) (hi : exec i s = .next u.advance)
    (hv : u.advance = { v with warps := u.advance.warps }) : Completes i s v us :=
  ⟨_, hi, h.moves, h.leaves, hv, h.find_advance⟩

/-- Outside proof mode a run that moves changes its warp alone. -/
theorem State.advance_unproved (hp : u.myLaunch.proof = false) : u.advance = { u with warps := u.advance.warps } := by
  have hadv := State.advance_of_unproved (u := u) (w := u.me) hp rfl
  rw [State.advance_setMe_me] at hadv
  rw [hadv]
  rfl

end

/-! ### Engine commands (R214 to R218) -/

theorem State.acquireAll_rest (s : State) (core : Nat) (acq : Bool) (sc : Scope) :
    s.acquireAll core acq sc = { s with cores := (s.acquireAll core acq sc).cores } := by
  unfold State.acquireAll
  split <;> rfl

theorem State.acquireAll_setMe (s : State) (w : Warp) (core : Nat) (acq : Bool) (sc : Scope) :
    ((s.setMe w).acquireAll core acq sc).cores = (s.acquireAll core acq sc).cores := by
  unfold State.acquireAll
  split <;> rfl

theorem LaneMask.bne_zero {W : LaneMask} (h : W ≠ 0) : (W != 0) = true := bne_iff_ne.mpr h

section
variable {s : State} {g : Guard} {op n : Nat} {allowed : Role → Bool} {a : Src} {off : Word} {room : Bool}
  {f : State → List Byte → Res}

/-- The checks of an engine command that come before its role let the lowest thread of W through (R219, R223). -/
structure Commands (s : State) (g : Guard) (a : Src) : Prop where
  readable : Readable s a.scalar (a.uses 1)
  nonempty : s.wset g ≠ 0
  memory : s.memGate (s.wset g &&& LaneMask.one (s.wset g).lowest) 0 false = .go
  release : s.releaseGate (s.wset g &&& LaneMask.one (s.wset g).lowest) true = .go

/-- The descriptor that the lowest thread of W names. -/
def State.commandDesc (s : State) (g : Guard) (a : Src) (off : Word) (n : Nat) : List Byte :=
  leBytes n (s.sramNat s.me.blk (s.me.sramAt a off (s.wset g).lowest) n)

/-- A command that passes its checks is made with its descriptor. -/
theorem Commands.issues (h : Commands s g a) (hrole : allowed s.me.role = true)
    (hsram : s.sramGate s.me.blk (s.wset g &&& LaneMask.one (s.wset g).lowest) (fun _ => s.me.sramAt a off (s.wset g).lowest) n n = .go)
    (hroom : room = true) :
    s.command g op allowed a off n room f = f (s.freed (a.uses 1)) (s.commandDesc g a off n) := by
  have hrgate : s.roleGate (s.wset g) op allowed = .go := by
    rw [State.roleGate, hrole, Bool.not_true, Bool.and_false]
    rfl
  unfold State.command
  dsimp only
  rw [h.memory, LaneMask.bne_zero h.nonempty, h.release, hrgate, hsram, hroom]
  exact (State.perform_go h.readable).trans (if_neg h.nonempty)

/-- A role that may not queue the command raises ROLE (R214). -/
theorem Commands.forbidden (h : Commands s g a) (hrole : allowed s.me.role = false) :
    s.command g op allowed a off n room f = s.trap 0x0C (op + 2 ^ 10 * s.me.role.code) := by
  have hrgate : s.roleGate (s.wset g) op allowed = .trap 0x0C (op + 2 ^ 10 * s.me.role.code) := by
    rw [State.roleGate, hrole, LaneMask.bne_zero h.nonempty]
    rfl
  unfold State.command
  dsimp only
  rw [h.memory, LaneMask.bne_zero h.nonempty, h.release, hrgate]
  exact State.perform_trap h.readable

theorem State.queueRoom_open {cs : List Cmd} (hlen : cs.length < 8) (hfrozen : s.channelFrozen = false) :
    s.queueRoom cs = true := by
  rw [State.queueRoom, decide_eq_true hlen, hfrozen]
  rfl

theorem Role.code_lt (r : Role) : r.code < 4 := by cases r <;> decide

/-- A command that raises ROLE. -/
theorem Commands.raises {i : Instr} (h : Commands s g a) (hrole : allowed s.me.role = false)
    (hi : exec i s = s.command g op allowed a off n room f) (hop : op < 2 ^ 10) :
    Raises i s 0x0C (op + 2 ^ 10 * s.me.role.code) := by
  have hcode := s.me.role.code_lt
  exact raises_of_trap (hi.trans (h.forbidden hrole)) (by decide) (by omega)

end

/-! ### Commands that are queued (R216 to R219) -/

section
variable {i : Instr} {s u : State} {us : List Use} {b : Block} {order : List Nat} {acq : Bool} {sc : Scope} {c : Cmd}

/-- The machine with a command queued, before the run of its warp moves. -/
theorem queued_of_advance (hi : exec i s = .next u.advance) (hp : s.myLaunch.proof = false)
    (hu : u = { (s.freed us).acquireAll s.myCore acq sc with blocks := u.blocks, clusters := u.clusters })
    (hblocks : ∀ k, u.block k = if k = s.me.blk then b else s.block k) (hb : b.launch = (s.block s.me.blk).launch)
    (hclusters : ∀ k, u.cluster k = { s.cluster k with
      order := if k = clusterOf (blockCore s.me.blk) then order else (s.cluster k).order }) :
    Queued i s us b order acq sc := by
  have hrest : u = { s.freed us with
      blocks := u.blocks, clusters := u.clusters, cores := (s.acquireAll s.myCore acq sc).cores } := by
    rw [State.acquireAll_rest, State.freed, State.acquireAll_setMe] at hu
    exact hu
  have hfreed : FreedIn s u us := .of_warps (by rw [hrest]) (by rw [hrest]; rfl)
  have hlaunch : u.myLaunch = s.myLaunch := by
    unfold State.myLaunch State.myBlock
    rw [hfreed.me, Warp.free_blk, hblocks, if_pos rfl, hb, hrest]
    rfl
  have hadv := State.advance_unproved (u := u) (by rw [hlaunch, hp])
  refine ⟨_, hi, hfreed.moves, hfreed.leaves, ?_, hfreed.find_advance, fun k => ?_, fun k => ?_, fun k => ?_⟩
  · rw [hadv, hrest]
    rfl
  · rw [hadv]
    change u.core k = _
    rw [State.core, hrest]
    rfl
  · rw [hadv]
    exact hblocks k
  · rw [hadv]
    exact hclusters k

/-- The machine in which a command takes the clock of its core (R282). -/
theorem State.acquired_block (us : List Use) :
    ((s.freed us).acquireAll s.myCore acq sc).block = s.block ∧
      ((s.freed us).acquireAll s.myCore acq sc).cluster = s.cluster := by
  rw [State.acquireAll_rest]
  exact ⟨rfl, rfl⟩

theorem State.setBlock_acquired (us : List Use) (bk k : Nat) (x : Block) :
    (((s.freed us).acquireAll s.myCore acq sc).setBlock bk x).block k = if k = bk then x else s.block k := by
  by_cases hk : k = bk
  · rw [hk, State.block_setBlock_same, if_pos rfl]
  · rw [State.block_setBlock_other _ _ _ _ hk, if_neg hk, (State.acquired_block us).1]

/-- A cluster whose order of acceptance alone changes. -/
theorem State.cluster_setOrder (u : State) (j k : Nat) (order : List Nat) :
    (u.setCluster j { u.cluster j with order := order }).cluster k =
      { u.cluster k with order := if k = j then order else (u.cluster k).order } := by
  by_cases hk : k = j
  · rw [hk, State.cluster_setCluster_same, if_pos rfl]
  · rw [State.cluster_setCluster_other _ _ _ _ hk, if_neg hk]

/-- A command queued at the matrix unit: an accepted one takes its place in the order (R351). -/
theorem queued_of_queueMatrix {status : Nat} (hp : s.myLaunch.proof = false) (hacc : c.accepted = (status == 0))
    (hi : exec i s = .next (((s.freed us).acquireAll s.myCore acq sc).queueMatrix s.me.blk c).advance) :
    Queued i s us { s.block s.me.blk with matrixQ := (s.block s.me.blk).matrixQ ++ [c] }
      ((s.cluster (clusterOf (blockCore s.me.blk))).order ++ if status = 0 then [s.me.blk] else []) acq sc := by
  obtain ⟨hblock, hcluster⟩ := State.acquired_block (s := s) (acq := acq) (sc := sc) us
  unfold State.queueMatrix at hi
  by_cases hst : status = 0
  · have hc : c.accepted = true := by rw [hacc, hst]; rfl
    rw [hc, hblock] at hi
    refine queued_of_advance hi hp rfl (State.setBlock_acquired us s.me.blk · _) rfl fun k => ?_
    refine (State.cluster_setOrder _ _ k _).trans ?_
    rw [State.setBlock_clusterAt, State.setBlock_clusterAt, hcluster, if_pos hst]
  · have hc : c.accepted = false := by rw [hacc, beq_eq_false_iff_ne]; exact hst
    rw [hc, hblock] at hi
    refine queued_of_advance hi hp rfl (State.setBlock_acquired us s.me.blk · _) rfl fun k => ?_
    rw [if_neg hst, List.append_nil]
    refine (congrFun hcluster k).trans ?_
    split
    · next hk => rw [← hk]
    · rfl

/-- A command queued beside the matrix unit: the order of acceptance stays. -/
theorem queued_of_setBlock (hp : s.myLaunch.proof = false) (hb : b.launch = (s.block s.me.blk).launch)
    (hi : exec i s = .next (((s.freed us).acquireAll s.myCore acq sc).setBlock s.me.blk b).advance) :
    Queued i s us b (s.cluster (clusterOf (blockCore s.me.blk))).order acq sc := by
  refine queued_of_advance hi hp rfl (State.setBlock_acquired us s.me.blk · b) hb fun k => ?_
  refine (congrFun (State.acquired_block us).2 k).trans ?_
  split
  · next hk => rw [← hk]
  · rfl

/-- A fresh command is new, whatever record of a convolution goes with it. -/
theorem newCommand_fresh {kind : CmdKind} {desc shape : List Byte} {r : Record} {lane status : Nat} {rel : Bool}
    {refused : Option Nat} (h : refused = if status = 0 then none else some status) :
    NewCommand s { Cmd.fresh kind desc r s.cur.slot lane acq rel sc refused with shape := shape }
      kind desc r lane acq rel sc status where
  what := ⟨rfl, rfl, rfl⟩
  issuer := ⟨rfl, rfl⟩
  orders := ⟨rfl, rfl, rfl⟩
  refused := h
  accepted := by
    change refused.isNone = _
    rw [h]
    cases status <;> rfl
  fresh := ⟨rfl, rfl, rfl, rfl, rfl, rfl, rfl, rfl⟩

/-- A refusal code beside the status it is written as. -/
theorem refusal_code {p q : Bool} (m n : Nat) (hm : m ≠ 0) (hn : n ≠ 0) :
    (if p = true then some m else if q = true then some n else none) =
      if (if p = true then m else if q = true then n else 0) = 0 then none
      else some (if p = true then m else if q = true then n else 0) := by
  cases p <;> cases q <;> simp [hm, hn]

/-- A command whose completion word cannot be written is discarded (R217). -/
theorem steps_of_drop (hi : exec i s = .next (s.freed us).advance) :
    Steps i s (s.me.free (s.frees us [])) (s.laneAt fun _ => s.cur.next) :=
  steps_of_advance hi (Warp.free_blk _ _) (Warp.free_lanes _ _)

end

/-! ### The four commands (R214 to R218, R221) -/

theorem exec_mmaq (g : Guard) (a : Src) (off : Word) (s : State) : exec (.mmaq g a off) s = execMmaq g a off s := rfl
theorem exec_wbload (g : Guard) (acq rel : Bool) (sc : Scope) (a : Src) (off : Word) (br : Nat) (s : State) :
    exec (.wbload g acq rel sc a off br) s = execWbload g acq rel sc a off br s := rfl
theorem exec_cpq (g : Guard) (acq rel : Bool) (sc : Scope) (a : Src) (off : Word) (br : Nat) (s : State) :
    exec (.cpq g acq rel sc a off br) s = execCpq g acq rel sc a off br s := rfl
theorem exec_march (g : Guard) (dt : DepthTest) (acq rel : Bool) (sc : Scope) (a : Src) (off : Word) (s : State) :
    exec (.march g dt acq rel sc a off) s = execMarch g dt acq rel sc a off s := rfl

theorem matrixRole_iff (r : Role) : matrixRole r = true ↔ r = .any ∨ r = .matrix := by cases r <;> decide
theorem feedRole_iff (r : Role) : feedRole r = true ↔ r = .any ∨ r = .feed := by cases r <;> decide

section
variable {s : State} {g : Guard} {a : Src} {off : Word}

/-- What a command of `n` bytes finds when its queue takes it. -/
structure Room (s : State) (g : Guard) (a : Src) (off : Word) (n : Nat) (q : List Cmd) : Prop where
  commands : Commands s g a
  inside : s.sramGate s.me.blk (s.wset g &&& LaneMask.one (s.wset g).lowest) (fun _ => s.me.sramAt a off (s.wset g).lowest) n n = .go
  room : s.queueRoom q = true

theorem Room.issues {n op : Nat} {q : List Cmd} {allowed : Role → Bool} {f : State → List Byte → Res} (h : Room s g a off n q)
    (hrole : allowed s.me.role = true) :
    s.command g op allowed a off n (s.queueRoom q) f = f (s.freed (a.uses 1)) (s.commandDesc g a off n) :=
  h.commands.issues hrole h.inside h.room

/-- The statuses of a WBLOAD at its issue (R229): BADDESC, BOUNDS, WBFULL. -/
def State.wbStatus (s : State) (d : List Byte) (r : Record) : Option Nat :=
  if wbBad d r then some 1
  else if wbForm d != 2 && (List.range (wbN d)).any fun n => recOut r (wbSrc d + n * wbColstr d) (wbShape d).fixedBytes then
    some 2
  else if (s.cluster (clusterOf s.myCore)).wbEnd < wbOff d + wbFixedSize d then some 4 else none

theorem wbColumns_out {d : List Byte} {r : Record} :
    (wbForm d != 2 && (List.range (wbN d)).any fun n => recOut r (wbSrc d + n * wbColstr d) (wbShape d).fixedBytes) = true ↔
      wbForm d ≠ 2 ∧ ∃ n, n < wbN d ∧ recOut r (wbSrc d + n * wbColstr d) (wbShape d).fixedBytes = true := by
  rw [Bool.and_eq_true, bne_iff_ne, List.any_eq_true]
  simp only [List.mem_range]

theorem State.wbStatus_eq {d : List Byte} {r : Record} {status : Nat} (hbad : wbBad d r = true → status = 1)
    (hout : wbBad d r = false → (wbForm d ≠ 2 ∧ ∃ n, n < wbN d ∧
      recOut r (wbSrc d + n * wbColstr d) (wbShape d).fixedBytes = true) → status = 2)
    (hin : wbBad d r = false → ¬(wbForm d ≠ 2 ∧ ∃ n, n < wbN d ∧
      recOut r (wbSrc d + n * wbColstr d) (wbShape d).fixedBytes = true) →
      status = if (s.cluster (clusterOf s.myCore)).wbEnd < wbOff d + wbFixedSize d then 4 else 0) :
    s.wbStatus d r = if status = 0 then none else some status := by
  rw [← wbColumns_out] at hout hin
  unfold State.wbStatus
  cases hb : wbBad d r with
  | true => rw [hbad hb]; rfl
  | false =>
    split
    · contradiction
    split
    · next ho => rw [hout hb ho]; rfl
    · next ho =>
      rw [hin hb ho]
      split <;> rfl

/-- R217, R225: an MMAQ is discarded or queued. -/
theorem mmaq_issued (h : Room s g a off 64 s.myBlock.matrixQ) (hrole : matrixRole s.me.role = true)
    (hp : s.myLaunch.proof = false) {d shape : List Byte} {ar : Record} {status : Nat} (hd : s.commandDesc g a off 64 = d)
    (har : (if mqAkind d then s.me.breg (mqA d % 16) else 0) = ar)
    (hshape : (if mqConv d then leBytes 32 (s.sramNat s.me.blk (mqConvrec d) 32) else []) = shape)
    (hstatus : (if s.mqBad s.me.blk d shape ar then 1 else if s.mqOut s.me.blk d shape ar then 2 else 0) = status) :
    (s.complOk s.me.blk (mqCompl d) = false →
      Steps (.mmaq g a off) s (s.me.free (s.frees (a.uses 1) [])) (s.laneAt fun _ => s.cur.next)) ∧
    (s.complOk s.me.blk (mqCompl d) = true → ∃ c, c.shape = shape ∧ NewCommand s c .mmaq d ar (s.wset g).lowest.val
      ((mqOrd d).testBit 0) ((mqOrd d).testBit 1) (scopeOf (mqOrd d / 4 % 8)) status ∧
      Queued (.mmaq g a off) s (a.uses 1) { s.block s.me.blk with matrixQ := (s.block s.me.blk).matrixQ ++ [c] }
        ((s.cluster (clusterOf (blockCore s.me.blk))).order ++ if status = 0 then [s.me.blk] else []) c.acq c.scope) := by
  have hi := exec_mmaq g a off s
  dsimp only [execMmaq] at hi
  rw [h.issues hrole, hd, har, hshape] at hi
  constructor
  · intro hok
    rw [hok] at hi
    exact steps_of_drop hi
  · intro hok
    rw [hok, refusal_code 1 2 (by decide) (by decide), hstatus, bitOf_eq_testBit, bitOf_eq_testBit] at hi
    have hnew := newCommand_fresh (s := s) (kind := .mmaq) (desc := d) (shape := shape) (r := ar)
      (lane := (s.wset g).lowest.val) (acq := (mqOrd d).testBit 0) (rel := (mqOrd d).testBit 1)
      (sc := scopeOf (mqOrd d / 4 % 8)) (status := status) rfl
    exact ⟨_, rfl, hnew, queued_of_queueMatrix hp hnew.accepted hi⟩

/-- R217, R229: a WBLOAD is discarded or queued. -/
theorem wbload_issued (h : Room s g a off 32 s.myBlock.matrixQ) (hrole : matrixRole s.me.role = true)
    (hp : s.myLaunch.proof = false) {d : List Byte} {acq rel : Bool} {sc : Scope} {br status : Nat}
    (hd : s.commandDesc g a off 32 = d)
    (hstatus : s.wbStatus d (s.me.breg br) = if status = 0 then none else some status) :
    (s.complOk s.me.blk (wbCompl d) = false →
      Steps (.wbload g acq rel sc a off br) s (s.me.free (s.frees (a.uses 1) [])) (s.laneAt fun _ => s.cur.next)) ∧
    (s.complOk s.me.blk (wbCompl d) = true → ∃ c,
      NewCommand s c .wbload d (s.me.breg br) (s.wset g).lowest.val acq rel sc status ∧
      Queued (.wbload g acq rel sc a off br) s (a.uses 1)
        { s.block s.me.blk with matrixQ := (s.block s.me.blk).matrixQ ++ [c] }
        ((s.cluster (clusterOf (blockCore s.me.blk))).order ++ if status = 0 then [s.me.blk] else []) acq sc) := by
  have hi := exec_wbload g acq rel sc a off br s
  dsimp only [execWbload] at hi
  rw [h.issues hrole, hd] at hi
  constructor
  · intro hok
    rw [hok] at hi
    exact steps_of_drop hi
  · intro hok
    rw [hok] at hi
    have hnew := newCommand_fresh (s := s) (kind := .wbload) (desc := d) (shape := []) (r := s.me.breg br)
      (lane := (s.wset g).lowest.val) (acq := acq) (rel := rel) (sc := sc) hstatus
    exact ⟨_, hnew, queued_of_queueMatrix hp hnew.accepted hi⟩

/-- R217, R231: a CPQ is discarded or queued. -/
theorem cpq_issued (h : Room s g a off 32 s.myBlock.copyQ) (hrole : feedRole s.me.role = true)
    (hp : s.myLaunch.proof = false) {d : List Byte} {acq rel : Bool} {sc : Scope} {br status : Nat}
    (hd : s.commandDesc g a off 32 = d)
    (hstatus : (if s.cpBad s.me.blk d (s.me.breg br) then 1 else if s.cpOut s.me.blk d (s.me.breg br) then 2 else 0) = status) :
    (s.complOk s.me.blk (cpCompl d) = false →
      Steps (.cpq g acq rel sc a off br) s (s.me.free (s.frees (a.uses 1) [])) (s.laneAt fun _ => s.cur.next)) ∧
    (s.complOk s.me.blk (cpCompl d) = true → ∃ c,
      NewCommand s c .cpq d (s.me.breg br) (s.wset g).lowest.val acq rel sc status ∧
      Queued (.cpq g acq rel sc a off br) s (a.uses 1)
        { s.block s.me.blk with copyQ := (s.block s.me.blk).copyQ ++ [c] }
        (s.cluster (clusterOf (blockCore s.me.blk))).order acq sc) := by
  have hi := exec_cpq g acq rel sc a off br s
  dsimp only [execCpq] at hi
  rw [h.issues hrole, hd] at hi
  constructor
  · intro hok
    rw [hok] at hi
    exact steps_of_drop hi
  · intro hok
    rw [hok, refusal_code 1 2 (by decide) (by decide), hstatus] at hi
    have hnew := newCommand_fresh (s := s) (kind := .cpq) (desc := d) (shape := []) (r := s.me.breg br)
      (lane := (s.wset g).lowest.val) (acq := acq) (rel := rel) (sc := sc) (status := status) rfl
    exact ⟨_, hnew, queued_of_setBlock hp rfl hi⟩

/-- R217, R232: a MARCH is discarded or queued. -/
theorem march_issued (h : Room s g a off 64 s.myBlock.marchQ) (hp : s.myLaunch.proof = false) {d : List Byte}
    {dt : DepthTest} {acq rel : Bool} {sc : Scope} {status : Nat} (hd : s.commandDesc g a off 64 = d)
    (hstatus : (if mrBad d then 1 else if s.mrOut s.me.blk d then 2 else 0) = status) :
    (s.complOk s.me.blk (mrCompl d) = false →
      Steps (.march g dt acq rel sc a off) s (s.me.free (s.frees (a.uses 1) [])) (s.laneAt fun _ => s.cur.next)) ∧
    (s.complOk s.me.blk (mrCompl d) = true → ∃ c,
      NewCommand s c (.march dt) d 0 (s.wset g).lowest.val acq rel sc status ∧
      Queued (.march g dt acq rel sc a off) s (a.uses 1)
        { s.block s.me.blk with marchQ := (s.block s.me.blk).marchQ ++ [c] }
        (s.cluster (clusterOf (blockCore s.me.blk))).order acq sc) := by
  have hi := exec_march g dt acq rel sc a off s
  dsimp only [execMarch] at hi
  rw [hp, h.issues rfl, hd] at hi
  replace hi := hi.trans (State.stageOne_go h.commands.readable.converged)
  constructor
  · intro hok
    rw [hok] at hi
    exact steps_of_drop hi
  · intro hok
    rw [hok, refusal_code 1 2 (by decide) (by decide), hstatus] at hi
    have hnew := newCommand_fresh (s := s) (kind := .march dt) (desc := d) (shape := []) (r := 0)
      (lane := (s.wset g).lowest.val) (acq := acq) (rel := rel) (sc := sc) (status := status) rfl
    exact ⟨_, hnew, queued_of_setBlock hp rfl hi⟩

/-! A role that may not queue the command (R214). -/

theorem mmaq_raises (h : Commands s g a) (hrole : matrixRole s.me.role = false) :
    Raises (.mmaq g a off) s 0x0C (0x1E0 + 2 ^ 10 * s.me.role.code) := by
  have hi := exec_mmaq g a off s
  dsimp only [execMmaq] at hi
  exact h.raises hrole hi (by decide)

theorem wbload_raises {acq rel : Bool} {sc : Scope} {br : Nat} (h : Commands s g a) (hrole : matrixRole s.me.role = false) :
    Raises (.wbload g acq rel sc a off br) s 0x0C (0x1E1 + 2 ^ 10 * s.me.role.code) := by
  have hi := exec_wbload g acq rel sc a off br s
  dsimp only [execWbload] at hi
  exact h.raises hrole hi (by decide)

theorem cpq_raises {acq rel : Bool} {sc : Scope} {br : Nat} (h : Commands s g a) (hrole : feedRole s.me.role = false) :
    Raises (.cpq g acq rel sc a off br) s 0x0C (0x1E2 + 2 ^ 10 * s.me.role.code) := by
  have hi := exec_cpq g acq rel sc a off br s
  dsimp only [execCpq] at hi
  exact h.raises hrole hi (by decide)

end

/-- Settles O33: each command that passes its checks is made with its descriptor, and either discarded or queued. -/
theorem engineCommands : Obligations.EngineCommands := by
  intro s g a off br acq rel sc dt W bk b order lane addr desc us r free ready dropped role hr hp
  have hcommands (hW : W ≠ 0) (hfree : free) : Commands s g a := ⟨hr, hW, hfree.1, hfree.2⟩
  have haddr : s.me.sramAt a off W.lowest = addr := congrFun (Warp.sramAt_eq s.me a off) _
  have hdesc (n : Nat) : s.commandDesc g a off n = desc n := by
    rw [State.commandDesc, haddr]
  have hroom {n : Nat} {q : List Cmd} (h : ready n q) : Room s g a off n q := by
    obtain ⟨hW, hfree, hsram, hlen, hfrozen⟩ := h
    exact ⟨hcommands hW hfree, haddr ▸ hsram, State.queueRoom_open hlen hfrozen⟩
  refine ⟨fun hready hrole => ?_, fun status hbad hout hin hready hrole => ?_, fun hready hrole => ?_, fun hready => ?_,
    fun hW hfree hrole => ?_, fun hW hfree hrole => ?_⟩
  · exact mmaq_issued (hroom hready) ((matrixRole_iff _).mpr hrole) hp (hdesc 64) rfl rfl rfl
  · exact wbload_issued (hroom hready) ((matrixRole_iff _).mpr hrole) hp (hdesc 32) (State.wbStatus_eq hbad hout hin)
  · exact cpq_issued (hroom hready) ((feedRole_iff _).mpr hrole) hp (hdesc 32) rfl
  · exact march_issued (hroom hready) hp (hdesc 64) rfl
  · have hno : matrixRole s.me.role = false := Bool.eq_false_iff.mpr (mt (matrixRole_iff _).mp hrole)
    exact ⟨mmaq_raises (hcommands hW hfree) hno, wbload_raises (hcommands hW hfree) hno⟩
  · exact cpq_raises (hcommands hW hfree) (Bool.eq_false_iff.mpr (mt (feedRole_iff _).mp hrole))

end Sys2Proof.Machine

/-! PROOFS. The matrix unit and the copy engine, event by event, and O49 (R217, R219, R225 to R231, R351 to R358, R462). -/

namespace Sys2Proof.Machine

/-! ### Matrix commands that start (R230, R351) -/

section
variable {s : State} {bk i : Nat} {c : Cmd}

theorem exec_matrixCommandStart (bk : Nat) (s : State) : exec (.matrixCommandStart bk) s = .next (s.startMatrix bk) := rfl

theorem Block.saving_guard {b : Block} {c : Cmd} (hf : c.frozen = false) (hsv : b.saving = false) :
    (c.frozen || (b.saving && !c.started)) = false := by
  rw [hf, hsv]
  rfl

theorem State.startMatrix_mmaq (hq : servedCmd (s.block bk).matrixQ = some (i, c)) (hf : c.frozen = false)
    (hsv : (s.block bk).saving = false) (hk : c.kind = .mmaq) (hst : c.started = false)
    (hfree : s.mqBlocked bk c.desc = false) :
    s.startMatrix bk = s.setMatrixCmd bk i { c with
      started := true
      refused := mqSlotStatus c.desc ((s.cluster (clusterOf (blockCore bk))).slot (mqSlot c.desc)) } := by
  unfold State.startMatrix
  rw [hq]
  dsimp only
  rw [Block.saving_guard hf hsv, hk, hst, hfree]
  rfl

theorem State.startMatrix_wbload (hq : servedCmd (s.block bk).matrixQ = some (i, c)) (hf : c.frozen = false)
    (hsv : (s.block bk).saving = false) (hk : c.kind = .wbload) (hre : c.reload = false) (hpr : c.progress = 0)
    (hfree : s.wbBlocked bk c.desc = false) : s.startMatrix bk = s.startWbload bk i c := by
  unfold State.startMatrix
  rw [hq]
  dsimp only
  rw [Block.saving_guard hf hsv, hk, hre, hpr, hfree, Bool.and_false]
  rfl

/-- The status of a WBLOAD whose bytes are there (R229). -/
def State.wbLate (s : State) (bk : Nat) (c : Cmd) (cols : List (List Byte)) : Option Nat :=
  if wbForm c.desc == 2 && cols.zipIdx.any fun q =>
      bitmapOut c.brec (mmBits (wbFmt c.desc)) (wbK c.desc / 32) (wbSrc c.desc + q.2 * wbColstr c.desc) q.1 then some 2
  else if (s.cluster (clusterOf (blockCore bk))).wbEnd < wbOff c.desc + (cols.flatMap padColumn).length then some 4 else none

theorem State.wbLate_inside {cols : List (List Byte)} (hform : wbForm c.desc ≠ 2)
    (hroom : wbOff c.desc + (cols.flatMap padColumn).length ≤ (s.cluster (clusterOf (blockCore bk))).wbEnd) :
    s.wbLate bk c cols = none := by
  rw [State.wbLate, beq_eq_false_iff_ne.mpr hform, if_neg (Nat.not_lt.mpr hroom)]
  rfl

/-- A WBLOAD whose bytes can all be read has read them. -/
theorem State.startWbload_read {cols : List (List Byte)} (hre : c.reload = false)
    (hread : s.fetchAll (fun t n => t.fetchColumn (s.engine bk 0) c.desc c.brec n) (List.range (wbN c.desc)) =
      (none, cols, false)) :
    s.startWbload bk i c = ((((s.dropKept (s.engine bk 0).who).settle (s.engine bk 0).ctx (s.engine bk 0).who).dropSlot
      (clusterOf (blockCore bk)) (wbSlot c.desc)).setMatrixCmd bk i { c with
        started := true, refused := s.wbLate bk c cols, shape := cols.flatMap padColumn, progress := 1 }) := by
  unfold State.startWbload
  dsimp only
  rw [hre, hread]
  rfl

/-- What keeps account of accesses leaves blocks and clusters. -/
theorem Consulted.cluster {s t : State} (h : Consulted s t) : t.cluster = s.cluster := by
  unfold State.cluster
  rw [h.touched.rest]

theorem Consulted.block {s t : State} (h : Consulted s t) : t.block = s.block := by
  unfold State.block
  rw [h.blocks]

theorem State.dropKept_settle_consulted (s : State) (ctx : Nat) (who : FaultWho) : Consulted s ((s.dropKept who).settle ctx who) :=
  (State.dropKept_consulted s who).trans (State.settle_consulted _ ctx who)

/-- A matrix command that starts after its slot falls. -/
theorem State.dropSlot_setMatrixCmd {u : State} (h : Consulted s u) (k slot : Nat) (x : Cmd) :
    (((u.dropSlot k slot).setMatrixCmd bk i x).block bk = { s.block bk with matrixQ := (s.block bk).matrixQ.set i x }) ∧
    ((u.dropSlot k slot).setMatrixCmd bk i x).cluster k =
      (s.cluster k).setSlot slot { (s.cluster k).slot slot with valid := false } := by
  rw [← h.block, ← h.cluster]
  exact ⟨State.block_setBlock_same .., State.cluster_setCluster_same ..⟩

end

/-! ### Tiles, and drained sets (R352 to R354, R358) -/

section
variable {s : State} {bk i cl : Nat} {c : Cmd}

theorem exec_matrixTile (cl : Nat) (s : State) :
    exec (.matrixTile cl) s = .next ((s.firstTile cl (s.tileOrder cl)).moveSets cl) := rfl

theorem State.reloadSets_none (hq : servedCmd (s.block bk).matrixQ = some (i, c)) (hparked : c.parked = []) :
    s.reloadSets bk = s := by
  unfold State.reloadSets
  rw [hq]
  dsimp only
  rw [hparked]
  rfl

/-- The set that the next tile of a command works on, where it has one. -/
def Cmd.openSet (c : Cmd) : Option AccSet :=
  c.sets.find? fun x => x.block == c.progress / mqGroups c.desc && !x.draining

/-- Room for a fresh set (R353). -/
theorem State.setRoom (h : c.openSet.isSome = true ∨ c.sets.length < 2 ∧
      (s.setsUsed (clusterOf (blockCore bk))).1 < 16 ∧ (c.sets ≠ [] ∨ (s.setsUsed (clusterOf (blockCore bk))).2 < 8)) :
    (c.openSet.isNone && !(decide (c.sets.length < 2) && decide ((s.setsUsed (clusterOf (blockCore bk))).1 < 16) &&
      (!c.sets.isEmpty || decide ((s.setsUsed (clusterOf (blockCore bk))).2 < 8)))) = false := by
  rcases h with hsome | ⟨hlen, hused, hactive⟩
  · rw [← Option.not_isSome, hsome]
    rfl
  · have hact : (!c.sets.isEmpty || decide ((s.setsUsed (clusterOf (blockCore bk))).2 < 8)) = true := by
      simpa [List.isEmpty_iff] using hactive
    rw [decide_eq_true hlen, decide_eq_true hused, hact]
    exact Bool.and_false _

/-- The machine after a tile of `kn` terms from `k0` on, on the output block `ob` (R352). -/
def State.tileRun (s : State) (bk i : Nat) (c : Cmd) (ob k0 kn : Nat) (a : Nat → Nat → Nat) : State :=
  let u := (s.dropKept (.engine bk 0)).settle (s.engine bk 0).ctx (.engine bk 0)
  let r := u.tileOn bk c k0 kn a (c.openSet.getD (u.freshSet bk c ob))
  u.setMatrixCmd bk i { c with
    progress := c.progress + 1
    flags := c.flags ||| r.2
    sets := (c.sets.filter fun x => x.block != ob) ++
      [{ r.1 with draining := decide ((c.progress + 1) % mqGroups c.desc = 0) }] }

/-- A tile that is ready is run. -/
theorem State.tryTile_ready {a : Nat → Nat → Nat} (hq : servedCmd (s.block bk).matrixQ = some (i, c))
    (hf : c.frozen = false) (hsv : (s.block bk).saving = false) (hk : c.kind = .mmaq) (hst : c.started = true)
    (hparked : c.parked = []) (hpr : c.progress < mqTiles c.desc)
    (hroom : c.openSet.isSome = true ∨ c.sets.length < 2 ∧
      (s.setsUsed (clusterOf (blockCore bk))).1 < 16 ∧ (c.sets ≠ [] ∨ (s.setsUsed (clusterOf (blockCore bk))).2 < 8))
    (hread : s.fetchA bk c ((blockCells c.desc (c.progress / mqGroups c.desc)).map fun q =>
        (cellAt c.desc (c.progress / mqGroups c.desc) q).1).dedup
      (c.progress % mqGroups c.desc * mmGroup (mqFa c.desc))
      (min (mmGroup (mqFa c.desc)) (mqK c.desc - c.progress % mqGroups c.desc * mmGroup (mqFa c.desc))) = .ok a) :
    s.tryTile bk = .ran (s.tileRun bk i c (c.progress / mqGroups c.desc)
      (c.progress % mqGroups c.desc * mmGroup (mqFa c.desc))
      (min (mmGroup (mqFa c.desc)) (mqK c.desc - c.progress % mqGroups c.desc * mmGroup (mqFa c.desc))) a) := by
  have hdue : (c.kind != .mmaq || !c.started || c.frozen || !c.parked.isEmpty || (s.block bk).saving ||
      decide (mqTiles c.desc ≤ c.progress)) = false := by
    rw [hk, hst, hf, hparked, hsv, decide_eq_false (Nat.not_le.mpr hpr)]
    rfl
  have hset := State.setRoom hroom
  unfold Cmd.openSet at hset
  unfold State.tryTile
  dsimp only
  rw [State.reloadSets_none hq hparked, hq]
  dsimp only
  rw [hdue, hset, hread]
  rfl

theorem State.moveSet_of_served (hq : servedCmd (s.block bk).matrixQ = some (0, c)) :
    let ds := (c.sets.filter fun x => x.draining).take (8 - s.buffersUsed (clusterOf (blockCore bk)))
    (ds = [] → s.moveSet bk = s) ∧
    (ds ≠ [] → s.moveSet bk = s.setMatrixCmd bk 0 { c with
      sets := c.sets.filter fun x => !ds.contains x, buffers := c.buffers ++ ds }) := by
  intro ds
  unfold State.moveSet
  rw [hq]
  exact ⟨fun h => if_pos (List.isEmpty_iff.mpr h), fun h => if_neg (mt List.isEmpty_iff.mp h)⟩

theorem exec_outputBlockWriteback (bk : Nat) (s : State) :
    exec (.outputBlockWriteback bk) s = .next ((s.writeback bk).moveSets (clusterOf (blockCore bk))) := rfl

/-- An output block written back (R358). -/
theorem State.writeback_oldest {set : AccSet} {b : Bank} {off : Nat}
    (hq : servedCmd (s.block bk).matrixQ = some (i, c)) (hset : c.buffers.head? = some set)
    (hd : s.sram bk (mqD c.desc) (mqDBytes c.desc) = .ok b off) :
    s.writeback bk = ((s.setBank b (set.vals.foldl (fun m (q : Nat × Word) => m.write
      (off + 4 * ((cellAt c.desc set.block q.1).1 * mqDld c.desc + (cellAt c.desc set.block q.1).2)) 4 q.2.toNat)
      (s.bank b))).setMatrixCmd bk i { c with buffers := c.buffers.tail }) := by
  obtain ⟨rest, hrest⟩ := List.head?_eq_some_iff.mp hset
  unfold State.writeback
  rw [hq]
  dsimp only
  rw [hrest, hd]
  rfl

end

/-! ### Completions (R217, R230, R355) -/

section
variable {s : State} {bk i : Nat} {c : Cmd}

theorem exec_mmaqCompletion (bk : Nat) (s : State) : exec (.mmaqCompletion bk) s = .next (s.finishMmaq bk) := rfl
theorem exec_wbloadCompletion (bk : Nat) (s : State) : exec (.wbloadCompletion bk) s = .next (s.finishWbload bk) := rfl
theorem exec_cpqCompletion (bk : Nat) (s : State) : exec (.cpqCompletion bk) s = .next (s.finishCopy bk) := rfl

theorem State.finishMmaq_done (hdone : doneCmd true (s.block bk).matrixQ mqFinished = some (i, c)) (hk : c.kind = .mmaq) :
    s.finishMmaq bk = (((s.popMatrix bk i c).complete bk (mqCompl c.desc) (c.refused.getD 0) c.rel c.scope).giveFlags
      c.warp (if c.refused = none then c.flags else 0)).closeBlock bk := by
  unfold State.finishMmaq
  rw [hdone]
  dsimp only
  rw [hk]
  cases c.refused <;> rfl

theorem State.finishWbload_refused {st : Nat} (hdone : doneCmd true (s.block bk).matrixQ wbFinished = some (i, c))
    (hk : c.kind = .wbload) (hre : c.refused = some st) :
    let u := s.cluster (clusterOf (blockCore bk))
    s.finishWbload bk = (((s.setCluster (clusterOf (blockCore bk)) (u.setSlot (wbSlot c.desc)
      { u.slot (wbSlot c.desc) with valid := false })).popMatrix bk i c).complete bk (wbCompl c.desc) st c.rel
        c.scope).closeBlock bk := by
  unfold State.finishWbload
  rw [hdone]
  dsimp only
  rw [hk, hre]
  rfl

theorem State.finishWbload_loaded (hdone : doneCmd true (s.block bk).matrixQ wbFinished = some (i, c))
    (hk : c.kind = .wbload) (hre : c.refused = none) :
    let d := c.desc
    let v := (s.cluster (clusterOf (blockCore bk))).overlapped (wbSlot d) (wbOff d) c.shape.length
    let x : WSlot :=
      { valid := true, wboff := wbOff d, n := wbN d, k := wbK d, bfmt := wbFmt d, form := wbForm d, sc := wbSc d,
        bytes := c.shape.length, ctx := (s.launch (s.block bk).launch).ctx }
    s.finishWbload bk = (((s.setCluster (clusterOf (blockCore bk)) ({ v with wb := v.wb.putBytes (wbOff d) c.shape }.setSlot
      (wbSlot d) x)).popMatrix bk i c).complete bk (wbCompl d) 0 c.rel c.scope).closeBlock bk := by
  unfold State.finishWbload
  rw [hdone]
  dsimp only
  rw [hk, hre]
  rfl

theorem State.finishCopy_done (hdone : doneCmd (s.engineAcked bk 1) (s.block bk).copyQ cpFinished = some (i, c)) :
    s.finishCopy bk = ((s.setBlock bk { s.block bk with copyQ := (s.block bk).copyQ.eraseIdx i }).complete bk
      (cpCompl c.desc) (c.refused.getD 0) c.rel c.scope).closeBlock bk := by
  unfold State.finishCopy
  rw [hdone]

/-- The status word stands after the flip of the phase word (R217). -/
theorem State.complete_words {a status off : Nat} {rel : Bool} {sc : Scope} {b : Bank} (ha : s.sram bk a 8 = .ok b off)
    (hbk : Map.find s.blocks bk ≠ none) :
    (s.complete bk a status rel sc).sramRead b (off + 4) 4 = status % 2 ^ 32 ∧
    (s.complete bk a status rel sc).sramRead b off 4 = arriveWord (s.sramRead b off 4) 1 % 2 ^ 32 := by
  have hbank : s.hasBank b := State.hasBank_of_sram (by decide) (Option.isSome_iff_ne_none.mpr hbk) ha
  have hone : (s.sramWrite b (off + 4) 4 status).bank b = (s.bank b).write (off + 4) 4 status :=
    (State.bank_setBank hbank _ b).trans (if_pos rfl)
  have hphase : (s.sramWrite b (off + 4) 4 status).sramRead b off 4 = s.sramRead b off 4 := by
    rw [State.sramRead, hone]
    exact Mem.read_write_other _ _ _ _ _ _ (.inl (Nat.le_refl _))
  have htwo (v : Nat) : ((s.sramWrite b (off + 4) 4 status).sramWrite b off 4 v).bank b =
      ((s.bank b).write (off + 4) 4 status).write off 4 v := by
    refine ((State.bank_setBank (State.hasBank_setBank _ hbank) _ b).trans (if_pos rfl)).trans ?_
    rw [hone]
  unfold State.complete
  rw [ha]
  dsimp only
  unfold State.sramRead
  rw [(State.order_clocked _ _ _ _ _ _ _ _ _).bank, htwo, ← State.sramRead, hphase]
  constructor
  · rw [Mem.read_write_other _ _ _ _ _ _ (.inr (Nat.le_refl _)), Mem.read_write_same]
    rfl
  · rw [Mem.read_write_same]
    rfl

end

/-! ### Rows of copies (R231, R462) -/

section
variable {s : State} {bk b0 i : Nat} {bks : List Nat} {c : Cmd}

theorem exec_copyCommandStart (b : Nat) (s : State) : exec (.copyCommandStart b) s = execCopyCommandStart b s := rfl

/-- The machine once a row of a copy has moved. -/
def State.rowMoved (s : State) (bk i : Nat) (c : Cmd) (t : State) : State :=
  ((t.dropKept (s.engine bk 1).who).settle (s.engine bk 1).ctx (s.engine bk 1).who).setCopyCmd bk i
    { c with started := true, progress := c.progress + 1 }

theorem State.runningCopy_served (hq : servedCmd (s.block bk).copyQ = some (i, c)) (hpr : c.progress < cpRows c.desc)
    (hf : c.frozen = false) (hsv : (s.block bk).saving = false) : s.runningCopy bk = some (i, c) := by
  rw [State.runningCopy, hq, Option.filter_some, hf, hsv, decide_eq_false (Nat.not_le.mpr hpr)]
  rfl

/-- The copy engine moves a row of the first copy that can move one. -/
theorem copyCommandStart_moves {t : State} (htiles : s.tilesFirst (blockCore b0) = false)
    (horder : s.slotOrder (blockCore b0) (s.core (blockCore b0)).lastCopy = bk :: bks)
    (hrun : s.runningCopy bk = some (i, c)) (hrow : s.copyRow bk i c = .ran t) :
    exec (.copyCommandStart b0) s =
      .next (t.setCore (blockCore b0) { t.core (blockCore b0) with lastCopy := bk % 32 }) := by
  rw [exec_copyCommandStart]
  unfold execCopyCommandStart
  dsimp only
  rw [htiles, horder, State.firstRow, hrun]
  dsimp only
  rw [hrow]
  rfl

theorem State.copyRow_in {bs : List Byte} (hdir : cpDir c.desc = 0)
    (hread : s.recFetch (s.engine bk 1) c.brec (cpMem c.desc + c.progress * cpMemPitch c.desc) (cpLen c.desc) = .ok bs) :
    s.copyRow bk i c = .ran (s.rowMoved bk i c (s.cpPut bk c.desc c.progress bs)) := by
  unfold State.copyRow
  dsimp only
  rw [hdir, hread]
  rfl

theorem State.copyRow_out {t : State} (hdir : cpDir c.desc = 1) {w : Nat × List Byte}
    (hw : cpWrite c.desc c.brec c.progress
      (s.cpRow (s.cpNear bk c.desc) (c.progress * cpSramPitch c.desc) (cpLen c.desc)) = w)
    (hroom : s.versionFull bk (s.writeLines (s.engine bk 1).ctx [w]) = false)
    (hput : s.deliver (s.engine bk 1) .write w.1 w.2 = .ok t) :
    s.copyRow bk i c = .ran (s.rowMoved bk i c t) := by
  unfold State.copyRow
  dsimp only
  rw [hdir, hw, hroom, hput]
  rfl

theorem State.copyRow_within (hdir : cpDir c.desc = 2) :
    s.copyRow bk i c = .ran (s.rowMoved bk i c (s.cpPut bk c.desc c.progress
      (s.cpRow (s.cpSource bk c.desc) (c.progress * cpMemPitch c.desc) (cpLen c.desc)))) := by
  unfold State.copyRow
  dsimp only
  rw [hdir]
  rfl

end

/-- Settles O49: each event that is due does what its clause says. -/
theorem matrixAndCopyEvents : Obligations.MatrixAndCopyEvents := by
  refine ⟨?_, ?_, fun _ _ => rfl, ?_, ?_, ?_⟩
  · intro s bk i c b hq hf hsv
    refine ⟨fun hk hst hfree => ?_, ?_, ?_⟩
    · rw [exec_matrixCommandStart, State.startMatrix_mmaq hq hf hsv hk hst hfree]
      rfl
    · intro cols hk hst hre hpr hread bytes cl hfree
      have hset := State.dropSlot_setMatrixCmd (bk := bk) (i := i)
        (s.dropKept_settle_consulted (s.engine bk 0).ctx (s.engine bk 0).who) cl (wbSlot c.desc)
      have hexec := exec_matrixCommandStart bk s
      rw [State.startMatrix_wbload hq hf hsv hk hre hpr hfree, State.startWbload_read hre hread] at hexec
      exact ⟨_, _, hexec, (hset _).1, rfl, (hset _).2, fun hform hroom => State.wbLate_inside hform hroom⟩
    · intro cl bks a hk hst hparked hpr horder d ob g k0 kn mine hroom hread u r t
      rw [exec_matrixTile, horder, State.firstTile, State.tryTile_ready hq hf hsv hk hst hparked hpr hroom hread]
      rfl
  · intro s bk i c set b off hq hset hd
    rw [exec_outputBlockWriteback, State.writeback_oldest hq hset hd]
  · intro s bk c b hq
    exact State.moveSet_of_served hq
  · intro s bk i c
    refine ⟨fun hdone hk => ?_, fun hdone hk => ?_, fun hdone => ?_, ?_⟩
    · rw [exec_mmaqCompletion, State.finishMmaq_done hdone hk]
    · intro d k u
      refine ⟨fun st hre => ?_, fun hre => ?_⟩
      · rw [exec_wbloadCompletion, State.finishWbload_refused hdone hk hre]
      · rw [exec_wbloadCompletion, State.finishWbload_loaded hdone hk hre]
    · rw [exec_cpqCompletion, State.finishCopy_done hdone]
    · intro b0 bks htiles horder hq hpr hf hsv d n p moved
      have hmoved {t : State} (hrow : s.copyRow bk i c = .ran (s.rowMoved bk i c t)) : moved t :=
        copyCommandStart_moves htiles horder (State.runningCopy_served hq hpr hf hsv) hrow
      exact ⟨fun bs hdir hread => hmoved (State.copyRow_in hdir hread),
        fun t hdir hroom hput => hmoved (State.copyRow_out hdir rfl hroom hput),
        fun hdir => hmoved (State.copyRow_within hdir)⟩
  · intro s bk a status rel sc b off ha hbk
    exact State.complete_words ha hbk

end Sys2Proof.Machine

/-! PROOFS. The pattern of a number rounded to FP32 (R80). -/

namespace Sys2Proof.Machine

/-! ### Powers of two and the exponent of a rational -/

theorem pow2_eq_zpow (e : Int) : pow2 e = (2 : ℚ) ^ e := by
  unfold pow2
  split
  · next h =>
    obtain ⟨n, rfl⟩ := Int.eq_ofNat_of_zero_le h
    simp
  · next h =>
    obtain ⟨n, hn⟩ := Int.eq_ofNat_of_zero_le (show 0 ≤ -e by omega)
    obtain rfl : e = -(n : Int) := by omega
    rw [neg_neg, Int.toNat_natCast, zpow_neg, zpow_natCast, Rat.mkRat_eq_div]
    push_cast
    exact one_div _

theorem pow2_pos (e : Int) : 0 < pow2 e := by
  rw [pow2_eq_zpow]
  positivity

theorem pow2_add (a b : Int) : pow2 (a + b) = pow2 a * pow2 b := by
  simp only [pow2_eq_zpow]
  exact zpow_add₀ (by norm_num) a b

theorem pow2_natCast (n : Nat) : pow2 (n : Int) = (2 : ℚ) ^ n := by
  rw [pow2_eq_zpow, zpow_natCast]

/-- Powers of two order as their exponents do. -/
theorem pow2_lt_iff {a b : Int} : pow2 a < pow2 b ↔ a < b := by
  rw [pow2_eq_zpow, pow2_eq_zpow]
  exact zpow_lt_zpow_iff_right₀ (by norm_num)

theorem natLog2_bounds {n : Nat} (h : n ≠ 0) : (2 : ℚ) ^ Nat.log2 n ≤ n ∧ (n : ℚ) < 2 ^ (Nat.log2 n + 1) :=
  ⟨by exact_mod_cast Nat.log2_self_le h, by exact_mod_cast Nat.lt_log2_self⟩

/-- ⌊log₂ q⌋ bounds q. -/
theorem ilog2_bounds {q : ℚ} (h : 0 < q) : pow2 (ilog2 q) ≤ q ∧ q < pow2 (ilog2 q + 1) := by
  have hnum : 0 < q.num := Rat.num_pos.mpr h
  obtain ⟨m, hm⟩ := Int.eq_ofNat_of_zero_le hnum.le
  obtain ⟨hm1, hm2⟩ := natLog2_bounds (n := m) (by omega)
  obtain ⟨hd1, hd2⟩ := natLog2_bounds q.den_ne_zero
  have hden : (0 : ℚ) < q.den := by exact_mod_cast q.den_pos
  have hq : q = m / q.den := by
    have hdiv := Rat.num_div_den q
    rw [hm, Int.cast_natCast] at hdiv
    exact hdiv.symm
  have hlow : pow2 ((Nat.log2 m : Int) - Nat.log2 q.den - 1) < q := by
    rw [hq, lt_div_iff₀ hden, ← hq]
    calc pow2 ((Nat.log2 m : Int) - Nat.log2 q.den - 1) * q.den
        < pow2 ((Nat.log2 m : Int) - Nat.log2 q.den - 1) * 2 ^ (Nat.log2 q.den + 1) :=
          mul_lt_mul_of_pos_left hd2 (pow2_pos _)
      _ = pow2 (Nat.log2 m : Int) := by
          rw [← pow2_natCast, ← pow2_add]
          congr 1
          push_cast
          omega
      _ ≤ m := by rwa [pow2_natCast]
  have hhigh : q < pow2 ((Nat.log2 m : Int) - Nat.log2 q.den + 1) := by
    rw [hq, div_lt_iff₀ hden, ← hq]
    calc (m : ℚ) < pow2 ((Nat.log2 m + 1 : Nat) : Int) := by rwa [pow2_natCast]
      _ = pow2 ((Nat.log2 m : Int) - Nat.log2 q.den + 1) * 2 ^ Nat.log2 q.den := by
          rw [← pow2_natCast, ← pow2_add]
          congr 1
          push_cast
          omega
      _ ≤ _ := mul_le_mul_of_nonneg_left hd1 (pow2_pos _).le
  unfold ilog2
  dsimp only
  rw [hm, Int.toNat_natCast]
  split
  · next hle => exact ⟨hle, hhigh⟩
  · next hle =>
    rw [sub_add_cancel]
    exact ⟨hlow.le, not_le.mp hle⟩

/-! ### Patterns below 2 to the 32 -/

theorem toNat_floor_lt {q : ℚ} {n : Nat} (h : q < n) (hn : 0 < n) : q.floor.toNat < n := by
  have hf : (q.floor : ℚ) ≤ q := Rat.floor_le q
  have hlt : q.floor < (n : Int) := by exact_mod_cast lt_of_le_of_lt hf h
  omega

/-- The pattern of a magnitude below 2 to the 128 lies below that of the infinity. -/
theorem fp32_encodeMag_lt {r : ℚ} (h0 : 0 ≤ r) (h : r < pow2 128) : fp32.encodeMag r < 2 ^ 31 := by
  unfold FloatFormat.encodeMag
  split
  · decide
  next hne =>
  split
  next hsub =>
    have hq : r / pow2 (fp32.emin - fp32.mbits) < (2 ^ 23 : Nat) := by
      rw [div_lt_iff₀ (pow2_pos _)]
      refine lt_of_lt_of_eq hsub ?_
      rw [Nat.cast_pow, Nat.cast_ofNat, ← pow2_natCast, ← pow2_add]
      rfl
    exact lt_trans (toNat_floor_lt hq (by decide)) (by decide)
  next hnorm =>
    obtain ⟨hlow, hhigh⟩ := ilog2_bounds (lt_of_le_of_ne h0 (Ne.symm hne))
    have he : ilog2 r < 128 := pow2_lt_iff.mp (lt_of_le_of_lt hlow h)
    have hq : r / pow2 (ilog2 r - fp32.mbits) < (2 ^ 24 : Nat) := by
      rw [div_lt_iff₀ (pow2_pos _)]
      refine lt_of_lt_of_eq hhigh ?_
      rw [Nat.cast_pow, Nat.cast_ofNat, ← pow2_natCast, ← pow2_add]
      congr 1
      change _ = (24 : Int) + (ilog2 r - 23)
      omega
    have hfrac := toNat_floor_lt hq (by decide)
    have hexp : (ilog2 r + fp32.bias).toNat ≤ 254 := by
      change (ilog2 r + 127).toNat ≤ 254
      omega
    change ((ilog2 r + fp32.bias).toNat - 1) * 2 ^ 23 + _ < _
    omega

theorem fp32_signBit_le (neg : Bool) : fp32.signBit neg ≤ 2 ^ 31 := by cases neg <;> decide

theorem roundGrid_nonneg (rm : Rm) (neg : Bool) (e : Int) (q : ℚ) : 0 ≤ roundGrid rm neg e q :=
  mul_nonneg (Nat.cast_nonneg _) (pow2_pos e).le

theorem roundInt_le (rm : Rm) (neg : Bool) {q : ℚ} (h : 0 ≤ q) : (roundInt rm neg q : ℚ) ≤ q + 1 := by
  have hfloor : (q.floor.toNat : ℚ) ≤ q := by
    have hnn : 0 ≤ q.floor := Rat.le_floor_iff.mpr (by simpa using h)
    have hcast : ((q.floor.toNat : Int) : ℚ) = q.floor := by rw [Int.toNat_of_nonneg hnn]
    exact_mod_cast hcast ▸ Rat.floor_le q
  have hstep : roundInt rm neg q ≤ q.floor.toNat + 1 := by
    unfold roundInt
    cases rm with
    | rn =>
      dsimp only
      split
      · omega
      · split <;> omega
    | rz => exact Nat.le_succ _
    | rd =>
      dsimp only
      split <;> omega
    | ru =>
      dsimp only
      split <;> omega
  calc (roundInt rm neg q : ℚ) ≤ (q.floor.toNat + 1 : Nat) := by exact_mod_cast hstep
    _ = q.floor.toNat + 1 := by push_cast; rfl
    _ ≤ q + 1 := by linarith

/-- A magnitude on a grid moves by less than one step. -/
theorem roundGrid_le (rm : Rm) (neg : Bool) (e : Int) {q : ℚ} (h : 0 ≤ q) : roundGrid rm neg e q ≤ q + pow2 e := by
  have hp := pow2_pos e
  calc roundGrid rm neg e q ≤ (q / pow2 e + 1) * pow2 e :=
        mul_le_mul_of_nonneg_right (roundInt_le rm neg (div_nonneg h hp.le)) hp.le
    _ = q + pow2 e := by field_simp

theorem fp32_maxFinite_lt : fp32.maxFinite < pow2 128 := by decide +kernel

theorem fp32_signed_lt (neg : Bool) {m : Nat} (h : m < 2 ^ 31) : fp32.signBit neg + m < 2 ^ 32 := by
  have hsign := fp32_signBit_le neg
  omega

theorem fp32_overflow_lt (rm : Rm) (sat neg : Bool) : (fp32.overflow rm sat neg).bits < 2 ^ 32 := by
  have hmag (b : Bool) : (if b = true then fp32.maxBits else fp32.infBits) < 2 ^ 31 := by cases b <;> decide
  exact fp32_signed_lt neg (hmag _)

theorem fp32_place_lt {rm : Rm} {sat flush neg : Bool} {q : ℚ} (h : 0 ≤ q) : (fp32.place rm sat flush neg q).bits < 2 ^ 32 := by
  unfold FloatFormat.place
  dsimp only
  split
  · exact fp32_overflow_lt rm sat neg
  next hfin =>
  split
  next hsub =>
    split
    · exact fp32_signed_lt neg (by decide : 0 < 2 ^ 31)
    · have hs : roundGrid rm neg (fp32.emin - fp32.mbits) q < pow2 128 := by
        refine lt_of_le_of_lt (roundGrid_le rm neg _ h) (lt_trans (add_lt_add_left hsub _) ?_)
        decide +kernel
      exact fp32_signed_lt neg (fp32_encodeMag_lt (roundGrid_nonneg rm neg _ q) hs)
  next =>
    exact fp32_signed_lt neg
      (fp32_encodeMag_lt (roundGrid_nonneg rm neg _ q) (lt_of_le_of_lt (not_lt.mp hfin) fp32_maxFinite_lt))

/-- A value rounded to FP32 has a pattern of 32 bits. -/
theorem fp32_round_lt (rm : Rm) (sat flush : Bool) (v : Val) : (fp32.round rm sat flush v).bits < 2 ^ 32 := by
  cases v with
  | nan s => exact show fp32.nan < 2 ^ 32 by decide
  | inf neg => exact fp32_signed_lt neg (by decide : fp32.infBits < 2 ^ 31)
  | zero neg => exact lt_of_le_of_lt (fp32_signBit_le neg) (by decide)
  | num q =>
    unfold FloatFormat.round
    dsimp only
    split
    · next h => exact fp32_place_lt (by linarith)
    · next h => exact fp32_place_lt (not_lt.mp h)

end Sys2Proof.Machine

/-! PROOFS. What writes that go out of a block change, the rendering instructions, and O36 (R238 to R240, R373, R377, R378). -/

namespace Sys2Proof.Machine

/-! ### Writes that go out (R180, R334, R425) -/

/-- A machine whose writes have gone out, to memory of this device, to a version or away. -/
structure WrittenOut (s t : State) : Prop where
  rest : t = { s with mem := t.mem, hostMem := t.hostMem, frames := t.frames, ext := t.ext, extNext := t.extNext
                      sent := t.sent, ports := t.ports, outbox := t.outbox, paths := t.paths, oldCode := t.oldCode
                      ctxs := t.ctxs, blocks := t.blocks }
  launch : ∀ k, (t.block k).launch = (s.block k).launch

section
variable {s t u : State}

theorem WrittenOut.refl (s : State) : WrittenOut s s := ⟨rfl, fun _ => rfl⟩

theorem WrittenOut.trans (h : WrittenOut s t) (k : WrittenOut t u) : WrittenOut s u :=
  ⟨by rw [k.rest, h.rest], fun b => (k.launch b).trans (h.launch b)⟩

theorem WrittenOut.cur (h : WrittenOut s t) : t.cur = s.cur := by rw [h.rest]
theorem WrittenOut.warps (h : WrittenOut s t) : t.warps = s.warps := by rw [h.rest]
theorem WrittenOut.launches (h : WrittenOut s t) : t.launches = s.launches := by rw [h.rest]

theorem WrittenOut.me (h : WrittenOut s t) : t.me = s.me := by
  unfold State.me State.warp
  rw [h.warps, h.cur]

theorem WrittenOut.myBlock_launch (h : WrittenOut s t) : t.myBlock.launch = s.myBlock.launch := by
  unfold State.myBlock
  rw [h.me, h.launch]

theorem WrittenOut.myLaunch (h : WrittenOut s t) : t.myLaunch = s.myLaunch := by
  unfold State.myLaunch State.launch
  rw [h.myBlock_launch, h.launches]

theorem State.post_written (m : Nat × Nat × Nat × List Byte) : WrittenOut s (s.post m) := by
  unfold State.post
  split
  · exact ⟨rfl, fun _ => rfl⟩
  · exact ⟨rfl, fun _ => rfl⟩

theorem State.send_written (d kind a : Nat) (bs : List Byte) : WrittenOut s (s.send d kind a bs) :=
  WrittenOut.trans (t := { s with sent := s.sent ++ [(d, kind, a, bs)] }) ⟨rfl, fun _ => rfl⟩ (State.post_written _)

theorem State.request_written (r : ExtReq) : WrittenOut s (s.request r) := by
  unfold State.request
  dsimp only
  split
  · refine WrittenOut.trans ?_ (State.send_written _ _ _ _)
    exact ⟨rfl, fun _ => rfl⟩
  · exact ⟨rfl, fun _ => rfl⟩

theorem State.putLoc_written (ctx : Nat) (who : FaultWho) (loc : Nat) (bs : List Byte) :
    WrittenOut s (s.putLoc ctx who loc bs) := by
  unfold State.putLoc
  split
  · exact ⟨rfl, fun _ => rfl⟩
  · split
    · split
      · exact .refl s
      · exact ⟨rfl, fun _ => rfl⟩
    · exact State.request_written _

theorem State.zeroAway_written (ctx : Nat) (who : FaultWho) (x : Xlat) : WrittenOut s (s.zeroAway ctx who x) := by
  unfold State.zeroAway
  split
  · exact ⟨rfl, fun _ => rfl⟩
  · exact State.putLoc_written _ _ _ _

theorem State.dropEntry_written (a : Nat) : WrittenOut s (s.dropEntry a) := by
  unfold State.dropEntry
  split
  · exact ⟨rfl, fun _ => rfl⟩
  · exact .refl s

theorem State.reinstate_written (ctx : Nat) (who : FaultWho) (x : Xlat) : WrittenOut s (s.reinstate ctx who x) := by
  unfold State.reinstate
  split
  · have hzero : WrittenOut s (if isExternal x.page then s.zeroAway ctx who x else { s with mem := Mem.zero s.mem x.page x.size }) := by
      split
      · exact State.zeroAway_written _ _ _
      · exact ⟨rfl, fun _ => rfl⟩
    dsimp only
    refine WrittenOut.trans (hzero.trans ?_) (State.dropEntry_written _)
    exact ⟨rfl, fun _ => rfl⟩
  · exact .refl s

theorem State.writeAt_written (ctx bk : Nat) (who : FaultWho) (x : Xlat) (bs : List Byte) :
    WrittenOut s (s.writeAt ctx bk who x bs) := by
  unfold State.writeAt
  split
  · refine ⟨rfl, fun k => ?_⟩
    by_cases hk : k = bk
    · rw [hk, State.block_setBlock_same]
    · rw [State.block_setBlock_other _ _ _ _ hk]
  · refine ((State.reinstate_written ctx who x).trans (State.putLoc_written ctx who x.loc bs)).trans ?_
    rw [State.putAt, State.ownWrite_rest]
    exact ⟨rfl, fun _ => rfl⟩

theorem State.putPieces_written (p : Party) (ps : List (Xlat × Nat)) (bs : List Byte) : WrittenOut s (s.putPieces p ps bs) := by
  induction ps generalizing s bs with
  | nil => exact .refl s
  | cons q ps ih => exact (State.writeAt_written _ _ _ _ _).trans (ih _)

end

/-! ### Runs that move after their instruction has changed the machine -/

section
variable {i : Instr} {s t u v : State} {us : List Use}

theorem State.retire_setMe (t : State) (w : Warp) (lk : Nat) :
    (t.setMe w).retire lk = { t.retire lk with warps := (t.setMe w).warps } := by
  unfold State.retire
  dsimp only
  change (if (t.launch lk).proof = true then _ else _) = _
  split <;> rfl

/-- A run that moves retires its instruction, and changes its warp. -/
theorem State.advance_retired (u : State) :
    u.advance = { u.retire u.myBlock.launch with warps := u.advance.warps } := by
  have hadv : u.advance = (u.setMe (u.me.issued u.cur.run fun _ => u.cur.next)).retire u.myBlock.launch := rfl
  rw [hadv, State.retire_setMe]

/-- An instruction that changes the machine around its warp to `t`, and then moves its run. -/
theorem completes_of_setMe (hw : t.warps = s.warps) (hcur : t.cur = s.cur)
    (hb : (t.block s.me.blk).launch = s.myBlock.launch)
    (hi : exec i s = .next (t.setMe (s.me.free (s.frees us []))).advance) :
    Completes i s (t.retire s.myBlock.launch) us := by
  have hfreed : FreedIn s (t.setMe (s.me.free (s.frees us []))) us := .of_warps (by
    change Map.set t.warps t.cur.slot _ = Map.set s.warps s.cur.slot _
    rw [hw, hcur]) hcur
  have hlk : (t.setMe (s.me.free (s.frees us []))).myBlock.launch = s.myBlock.launch := by
    rw [State.myBlock, State.me_setMe, Warp.free_blk]
    exact hb
  refine completes_of_advance hfreed hi ?_
  rw [State.advance_retired, hlk, State.retire_setMe]

end

/-! ### Pieces of a list (R238, R240) -/

/-- The piece of a list that is made of pieces of one length. -/
theorem flatMap_piece {α β : Type} {f : α → List β} {n : Nat} {ls : List α} (hf : ∀ x ∈ ls, (f x).length = n) {k : Nat}
    (hk : k < ls.length) : ((ls.flatMap f).drop (n * k)).take n = f ls[k] := by
  induction ls generalizing k with
  | nil => exact absurd hk (Nat.not_lt_zero k)
  | cons x ls ih =>
    have hx : (f x).length = n := hf x (List.mem_cons_self ..)
    rw [List.flatMap_cons]
    cases k with
    | zero => rw [Nat.mul_zero, List.drop_zero, List.take_left' hx, List.getElem_cons_zero]
    | succ k =>
      rw [Nat.mul_succ, Nat.add_comm, ← List.drop_drop, List.drop_left' hx, List.getElem_cons_succ]
      exact ih (fun y hy => hf y (List.mem_cons_of_mem x hy)) _

/-! ### EMITP (R238, R373) -/

section
variable {s : State} {g : Guard} {a : Src} {off : Word} {bk : Nat}

/-- The machine with these primitives, a block having emitted `e` of them. -/
def State.emittedTo (s : State) (bk e : Nat) (ps : List Prim) : State :=
  { s with prims := ps }.setBlock bk { s.block bk with emitted := e }

/-- The primitives that records make, counted from `e` on. -/
def State.classified (s : State) (bk e : Nat) (rs : List (List Byte)) : List Prim :=
  (rs.mapIdx fun k r => classify (s.launch (s.block bk).launch) (s.block bk).launch s.mss.domid (s.block bk).n (e + k) r).filterMap id

theorem State.classified_cons (s : State) (bk e : Nat) (r : List Byte) (rs : List (List Byte)) :
    s.classified bk e (r :: rs) =
      (classify (s.launch (s.block bk).launch) (s.block bk).launch s.mss.domid (s.block bk).n e r).toList ++
        s.classified bk (e + 1) rs := by
  have hindex : (fun k r => classify (s.launch (s.block bk).launch) (s.block bk).launch s.mss.domid (s.block bk).n
      (e + (k + 1)) r) = fun k r => classify (s.launch (s.block bk).launch) (s.block bk).launch s.mss.domid (s.block bk).n
        (e + 1 + k) r := by
    funext k r
    rw [Nat.add_right_comm, Nat.add_assoc]
  unfold State.classified
  rw [List.mapIdx_cons, hindex, List.filterMap_cons, Nat.add_zero]
  cases classify (s.launch (s.block bk).launch) (s.block bk).launch s.mss.domid (s.block bk).n e r <;> rfl

theorem State.emittedTo_block (e : Nat) (ps : List Prim) :
    (s.emittedTo bk e ps).block bk = { s.block bk with emitted := e } := State.block_setBlock_same ..

theorem State.classified_emittedTo (e : Nat) (ps : List Prim) : (s.emittedTo bk e ps).classified bk = s.classified bk := by
  funext f qs
  unfold State.classified
  rw [State.emittedTo_block]
  rfl

theorem State.emittedTo_emittedTo (e f : Nat) (ps qs : List Prim) :
    (s.emittedTo bk e ps).emittedTo bk f qs = s.emittedTo bk f qs := by
  unfold State.emittedTo
  rw [State.block_setBlock_same]
  exact State.setBlock_setBlock { s with prims := qs } bk _ _

section
variable (howners : (s.launch (s.block bk).launch).owners = 0) (hlost : (s.launch (s.block bk).launch).devlost = false)
include howners hlost

/-- A record emitted where this device draws every primitive. -/
theorem State.emitRecord_drawn (r : List Byte) :
    s.emitRecord bk r = s.emittedTo bk ((s.block bk).emitted + 1) (s.prims ++ s.classified bk (s.block bk).emitted [r]) := by
  rw [State.classified_cons]
  unfold State.emitRecord State.sendPrim
  dsimp only
  rw [howners, hlost]
  change (match classify (s.launch (s.block bk).launch) (s.block bk).launch s.mss.domid (s.block bk).n (s.block bk).emitted r
    with | some p => _ | none => _) = _
  cases classify (s.launch (s.block bk).launch) (s.block bk).launch s.mss.domid (s.block bk).n (s.block bk).emitted r with
  | none =>
    change s.setBlock bk _ = { s with prims := s.prims ++ [] }.setBlock bk _
    rw [List.append_nil]
  | some p => rfl

/-- Records emitted one after another. -/
theorem State.emitRecords_drawn (rs : List (List Byte)) (hrs : rs ≠ []) :
    rs.foldl (fun t r => t.emitRecord bk r) s =
      s.emittedTo bk ((s.block bk).emitted + rs.length) (s.prims ++ s.classified bk (s.block bk).emitted rs) := by
  induction rs generalizing s with
  | nil => exact absurd rfl hrs
  | cons r rs ih =>
    rw [List.foldl_cons, State.emitRecord_drawn howners hlost]
    by_cases hnil : rs = []
    · subst hnil
      rfl
    · have hblock := State.emittedTo_block (s := s) (bk := bk) ((s.block bk).emitted + 1)
        (s.prims ++ s.classified bk (s.block bk).emitted [r])
      rw [ih (by rw [hblock]; exact howners) (by rw [hblock]; exact hlost) hnil, State.emittedTo_emittedTo, State.classified_emittedTo, hblock]
      change s.emittedTo bk ((s.block bk).emitted + 1 + rs.length)
        ((s.prims ++ s.classified bk (s.block bk).emitted [r]) ++ s.classified bk ((s.block bk).emitted + 1) rs) = _
      rw [State.classified_cons s bk (s.block bk).emitted r rs, State.classified_cons s bk (s.block bk).emitted r [],
        List.length_cons, Nat.add_right_comm, Nat.add_assoc, List.append_assoc, List.append_assoc]
      rfl

end

theorem exec_emitp (g : Guard) (a : Src) (off : Word) (s : State) : exec (.emitp g a off) s = execEmitp g a off s := rfl

theorem LaneMask.lanes_ne_nil {W : LaneMask} (h : W ≠ 0) : LaneMask.lanes W ≠ [] :=
  List.ne_nil_of_mem (LaneMask.mem_lanes.mpr (LaneMask.lowest_mem h))

theorem primReserved_iff (bs : List Byte) : primReserved bs = true ↔ 4 ≤ field bs 0x38 4 ∨ field bs 0x3C 4 ≠ 0 := by
  rw [primReserved, Bool.or_eq_true, decide_eq_true_iff, bne_iff_ne]

theorem State.retire_of_launches {t : State} (h : t.launches = s.launches) (lk : Nat) :
    t.retire lk = { t with launches := (s.retire lk).launches } := by
  have hl : t.launch lk = s.launch lk := by rw [State.launch, h, State.launch]
  unfold State.retire
  dsimp only
  rw [hl]
  split
  · change State.setLaunch t lk _ = { t with launches := (State.setLaunch s lk _).launches }
    rw [State.setLaunch, State.setLaunch, h]
  · rw [← h]

/-- The record that a lane of an EMITP names. -/
def State.primRecord (s : State) (a : Src) (off : Word) (l : Fin 32) : List Byte :=
  leBytes 64 (s.sramNat s.me.blk (s.me.sramAt a off l) 64)

section
variable (hmem : s.memGate (s.wset g) 0 false = .go) (hr : Readable s a.scalar (a.uses 1))
  (hsram : s.sramGate s.me.blk (s.wset g) (s.me.sramAt a off) 64 64 = .go) (htype : s.myLaunch.ltype = 1)
include hmem hr hsram htype

/-- The records of an EMITP, emitted in lane order. -/
theorem emitp_completes (hW : s.wset g ≠ 0)
    (hfree : ∀ l : Fin 32, (s.wset g).getLsbD l.val = true → primReserved (s.primRecord a off l) = false)
    (howners : s.myLaunch.owners = 0) (hlost : s.myLaunch.devlost = false)
    (hroom : s.outputFull s.me.blk (LaneMask.count (s.wset g)) = false) :
    Completes (.emitp g a off) s ((s.emittedTo s.me.blk ((s.block s.me.blk).emitted + LaneMask.count (s.wset g))
      (s.prims ++ s.classified s.me.blk (s.block s.me.blk).emitted ((LaneMask.lanes (s.wset g)).map (s.primRecord a off)))).retire
        s.myBlock.launch) (a.uses 1) := by
  have hany : ((LaneMask.lanes (s.wset g)).any fun l => primReserved (s.primRecord a off l)) = false := by
    rw [List.any_eq_false]
    exact fun l hl => Bool.eq_false_iff.mp (hfree l (LaneMask.mem_lanes.mp hl))
  have hi := exec_emitp g a off s
  unfold execEmitp at hi
  dsimp only at hi
  unfold State.primRecord at hany
  rw [hmem, hsram, htype, hany, hroom] at hi
  replace hi := (hi.trans (State.stageOne_go hr.converged)).trans (State.perform_go hr)
  have hfold := State.emitRecords_drawn (s := s.freed (a.uses 1)) (bk := s.me.blk) howners hlost
    ((LaneMask.lanes (s.wset g)).map (s.primRecord a off)) (by simpa using LaneMask.lanes_ne_nil hW)
  rw [List.foldl_map, List.length_map] at hfold
  refine completes_of_setMe rfl rfl ?_ (hi.trans (congrArg (fun u => Host.Outcome.next (State.advance u)) hfold))
  rw [State.emittedTo_block]
  rfl

/-- A record with a reserved bit set raises PROT with reason 10. -/
theorem emitp_reserved {l : Fin 32} (hl : (s.wset g).getLsbD l.val = true) (hres : primReserved (s.primRecord a off l) = true) :
    Raises (.emitp g a off) s 0x08 10 := by
  have hany : ((LaneMask.lanes (s.wset g)).any fun l => primReserved (s.primRecord a off l)) = true :=
    List.any_eq_true.mpr ⟨l, LaneMask.mem_lanes.mpr hl, hres⟩
  have hi := exec_emitp g a off s
  unfold execEmitp at hi
  dsimp only at hi
  unfold State.primRecord at hany
  rw [hmem, hsram, htype, hany] at hi
  exact raises_of_trap ((hi.trans (State.stageOne_go hr.converged)).trans (State.perform_trap hr)) (by decide) (by decide)

end

/-- Outside a geometry launch EMITP raises PROT with reason 8. -/
theorem emitp_elsewhere (hr : Readable s a.scalar (a.uses 1)) (htype : s.myLaunch.ltype ≠ 1) :
    Raises (.emitp g a off) s 0x08 8 := by
  have hi := exec_emitp g a off s
  unfold execEmitp at hi
  dsimp only at hi
  rw [bne_iff_ne.mpr htype] at hi
  exact raises_of_trap (hi.trans (State.stageOne_trap hr.converged)) (by decide) (by decide)

end

/-! ### TBLEND (R239, R377) -/

section
variable {s : State} {g : Guard} {op : BlendOp} {a : Src} {v : VSrc}

theorem exec_tblend (g : Guard) (op : BlendOp) (a : Src) (v : VSrc) (s : State) :
    exec (.tblend g op a v) s = execTblend g op a v s := rfl

/-- The tile of the executing block after a lane's blend. -/
def State.blendLane (s : State) (op : BlendOp) (a : Src) (v : VSrc) (m : Mem) (i : Fin 32) : Mem :=
  (s.covered s.myLaunch s.myBlock s.me.lanes[i] ((s.me.src a).lane i)).foldl
    (fun m p => blendPixel op m p (s.me.pair v i).toNat) m

/-- The machine with another tile in the executing block. -/
def State.tiled (s t : State) (m : Mem) : State := t.setBlock s.me.blk { s.block s.me.blk with tile := m }

theorem State.tiled_tiled (t : State) (m n : Mem) : s.tiled (s.tiled t m) n = s.tiled t n := State.setBlock_setBlock ..

/-- The blends of lanes one after another. -/
theorem State.blends_eq (t : State) (m : Mem) (ls : List (Fin 32)) :
    ls.foldl (fun t l =>
      let b := t.block s.me.blk
      let ps := t.covered s.myLaunch b s.me.lanes[l] ((s.me.src a).lane l)
      t.setBlock s.me.blk { b with tile := ps.foldl (fun m p => blendPixel op m p (s.me.pair v l).toNat) b.tile })
      (s.tiled t m) = s.tiled t (ls.foldl (s.blendLane op a v) m) := by
  induction ls generalizing m with
  | nil => rfl
  | cons l ls ih =>
    rw [List.foldl_cons, List.foldl_cons, ← ih (s.blendLane op a v m l)]
    dsimp only
    unfold State.tiled
    rw [State.block_setBlock_same, State.setBlock_setBlock]
    rfl

/-- The blends of a TBLEND, lane by lane. -/
theorem tblend_completes (hmem : s.memGate (s.wset g) 0 false = .go) (hr : Readable s a.scalar (a.uses 1 ++ v.uses 2))
    (htype : s.myLaunch.ltype = 2) (hW : s.wset g ≠ 0) :
    Completes (.tblend g op a v) s ((s.tiled s ((LaneMask.lanes (s.wset g)).foldl (s.blendLane op a v)
      (s.block s.me.blk).tile)).retire s.myBlock.launch) (a.uses 1 ++ v.uses 2) := by
  have hi := exec_tblend g op a v s
  unfold execTblend at hi
  dsimp only at hi
  rw [hmem, htype] at hi
  replace hi := (hi.trans (State.stageOne_go hr.converged)).trans (State.perform_go hr)
  obtain ⟨l, ls, hlanes⟩ := List.exists_cons_of_ne_nil (LaneMask.lanes_ne_nil hW)
  rw [hlanes, List.foldl_cons] at hi
  have hrest := State.blends_eq (s := s) (op := op) (a := a) (v := v) (s.freed (a.uses 1 ++ v.uses 2))
    (s.blendLane op a v (s.block s.me.blk).tile l) ls
  rw [hlanes, List.foldl_cons]
  refine completes_of_setMe rfl rfl ?_ (hi.trans (congrArg (fun u => Host.Outcome.next (State.advance u)) hrest))
  exact (congrArg Block.launch (State.block_setBlock_same s s.me.blk _)).trans rfl

theorem tblend_elsewhere (hr : Readable s a.scalar (a.uses 1 ++ v.uses 2)) (htype : s.myLaunch.ltype ≠ 2) :
    Raises (.tblend g op a v) s 0x08 8 := by
  have hi := exec_tblend g op a v s
  unfold execTblend at hi
  dsimp only at hi
  rw [bne_iff_ne.mpr htype] at hi
  exact raises_of_trap (hi.trans (State.stageOne_trap hr.converged)) (by decide) (by decide)

/-- Two-byte channels written one after another: each reads its own old value, and stands as it was written. -/
theorem channels_read (f : Nat → Nat → Nat) (m : Mem) (o n k : Nat) :
    ((List.range n).foldl (fun m k => m.write (o + 2 * k) 2 (f k (m.read (o + 2 * k) 2))) m).read (o + 2 * k) 2 =
      if k < n then f k (m.read (o + 2 * k) 2) % 2 ^ 16 else m.read (o + 2 * k) 2 := by
  induction n with
  | zero => rfl
  | succ n ih =>
    rw [List.range_succ, List.foldl_append, List.foldl_cons, List.foldl_nil]
    by_cases hk : k = n
    · subst hk
      rw [if_neg (Nat.lt_irrefl k)] at ih
      rw [Mem.read_write_same, ih, if_pos (Nat.lt_succ_self k)]
      rfl
    · rw [Mem.read_write_other _ _ _ _ _ _ (by omega), ih]
      simp only [show k < n + 1 ↔ k < n by omega]

end

end Sys2Proof.Machine

/-! PROOFS. MOMACC, the transmittance, and O36 (R240, R378). -/

namespace Sys2Proof.Machine

/-! ### The transmittance (R378) -/

section
variable {sums : List Byte} {z : Word}

/-- The transmittance of no optical depth is 1.0. -/
theorem transmittance_of_zero : BitVec.ofNat 32 (rneBits (((expEnc (-0)).lo + (expEnc (-0)).hi) / 2)) = 0x3F800000#32 := by
  decide +kernel

theorem transmittance_one (h : ([fp32.decode (field sums (4 * 0) 4), fp32.decode (field sums (4 * 1) 4),
    fp32.decode (field sums (4 * 2) 4), fp32.decode (field sums (4 * 3) 4), valF z].any Val.isNan ||
      leV (fp32.decode (field sums (4 * 0) 4)) (.zero false)) = true) : transmittance sums z = 0x3F800000 := if_pos h

/-- Sums that are all zero. -/
theorem transmittance_zeros (z : Word) : transmittance (List.replicate 20 0) z = 0x3F800000 := by
  refine transmittance_one ?_
  have hzero : leV (fp32.decode (field (List.replicate 20 0) (4 * 0) 4)) (.zero false) = true := by decide +kernel
  rw [hzero, Bool.or_true]

theorem Val.isNan_of_isFinite {v : Val} (h : v.isFinite = true) : v.isNan = false := by
  cases v with
  | nan s => cases h
  | inf n => rfl
  | zero n => rfl
  | num q => rfl

/-- Finite values order as their numbers do. -/
theorem Val.compare_finite {v w : Val} (hv : v.isFinite = true) (hw : w.isFinite = true) :
    v.compare w = if v.toRat < w.toRat then -1 else if w.toRat < v.toRat then 1 else 0 := by
  cases v with
  | nan s => cases hv
  | inf n => cases hv
  | zero m =>
    cases w with
    | nan s => cases hw
    | inf n => cases hw
    | zero n => rfl
    | num q => rfl
  | num p =>
    cases w with
    | nan s => cases hw
    | inf n => cases hw
    | zero n => rfl
    | num q => rfl

theorem leV_eq_false_of_ltV {v w : Val} (hv : v.isFinite = true) (hw : w.isFinite = true) (h : ltV v w = true) :
    leV w v = false := by
  rw [ltV, decide_eq_true_iff, Val.compare_finite hv hw] at h
  rw [leV, decide_eq_false_iff_not, Val.compare_finite hw hv]
  split at h
  · next hlt =>
    rw [if_neg hlt.asymm, if_pos hlt]
    decide
  · split at h <;> contradiction

theorem Val.ofRat_isFinite (n : Bool) (q : Rat) : (Val.ofRat n q).isFinite = true := by
  unfold Val.ofRat
  split <;> rfl

theorem Val.ofRat_toRat (n : Bool) (q : Rat) : (Val.ofRat n q).toRat = q := by
  unfold Val.ofRat
  split
  · next h => exact h.symm
  · rfl

theorem stepAt_finite {v w : Val} (hv : v.isFinite = true) (hw : w.isFinite = true) :
    stepAt v w = some (step01 (v.toRat - w.toRat)) := by
  cases v with
  | nan s => cases hv
  | inf n => cases hv
  | zero n =>
    cases w with
    | nan s => cases hw
    | inf n => cases hw
    | zero n => rfl
    | num q => rfl
  | num p =>
    cases w with
    | nan s => cases hw
    | inf n => cases hw
    | zero n => rfl
    | num q => rfl

/-- In front of the one node of a small variance lies no optical depth. -/
theorem depthAt_front {m0 m1 m2 m3 z : Val} (h0 : m0.isFinite = true) (h1 : m1.isFinite = true) (h2 : m2.isFinite = true)
    (hz : z.isFinite = true)
    (hvar : m2.toRat / m0.toRat - m1.toRat / m0.toRat * (m1.toRat / m0.toRat) ≤ 1 / 2 ^ 40)
    (hfront : z.toRat < m1.toRat / m0.toRat) : depthAt m0 m1 m2 m3 z = some 0 := by
  have hpow : pow2 (-40) = 1 / 2 ^ 40 := by decide +kernel
  have hsingle : (stepAt z (.ofRat false (m1.toRat / m0.toRat))).map (fun x => m0.toRat * x) = some 0 := by
    rw [stepAt_finite hz (Val.ofRat_isFinite _ _), Val.ofRat_toRat, step01, if_pos (sub_neg.mpr hfront)]
    exact congrArg some (mul_zero _)
  unfold depthAt
  simp only [h0, h1, Bool.not_true, Bool.false_eq_true, if_false]
  cases m2 with
  | nan s => cases h2
  | inf n => cases h2
  | zero n => exact (if_pos (.inl (hpow ▸ hvar))).trans hsingle
  | num q => exact (if_pos (.inl (hpow ▸ hvar))).trans hsingle

theorem transmittance_front
    (hfin : [fp32.decode (field sums (4 * 0) 4), fp32.decode (field sums (4 * 1) 4), fp32.decode (field sums (4 * 2) 4),
      fp32.decode (field sums (4 * 3) 4), valF z].all Val.isFinite = true)
    (hpos : ltV (.zero false) (fp32.decode (field sums (4 * 0) 4)) = true)
    (hvar : (fp32.decode (field sums (4 * 2) 4)).toRat / (fp32.decode (field sums (4 * 0) 4)).toRat -
      (fp32.decode (field sums (4 * 1) 4)).toRat / (fp32.decode (field sums (4 * 0) 4)).toRat *
        ((fp32.decode (field sums (4 * 1) 4)).toRat / (fp32.decode (field sums (4 * 0) 4)).toRat) ≤ 1 / 2 ^ 40)
    (hfront : (valF z).toRat < (fp32.decode (field sums (4 * 1) 4)).toRat / (fp32.decode (field sums (4 * 0) 4)).toRat) :
    transmittance sums z = 0x3F800000 := by
  have hnan : [fp32.decode (field sums (4 * 0) 4), fp32.decode (field sums (4 * 1) 4), fp32.decode (field sums (4 * 2) 4),
      fp32.decode (field sums (4 * 3) 4), valF z].any Val.isNan = false := by
    rw [List.any_eq_false]
    intro v hv
    rw [Val.isNan_of_isFinite (List.all_eq_true.mp hfin v hv)]
    exact Bool.false_ne_true
  have hdepth := depthAt_front (m3 := fp32.decode (field sums (4 * 3) 4)) (List.all_eq_true.mp hfin _ (by simp)) (List.all_eq_true.mp hfin _ (by simp))
    (List.all_eq_true.mp hfin _ (by simp)) (List.all_eq_true.mp hfin _ (by simp)) hvar hfront
  unfold transmittance
  dsimp only
  rw [hnan, leV_eq_false_of_ltV rfl (List.all_eq_true.mp hfin _ (by simp)) hpos, hdepth]
  exact (if_neg (by decide)).trans transmittance_of_zero

end

/-! ### The sums of a pixel (R240, R378) -/

theorem addMoments_field (old : List Byte) (q : Rat) (z : Val) {k : Nat} (hk : k < 5) :
    field (addMoments old q z) (4 * k) 4 =
      ((Val.add .rn (fp32.decode (field old (4 * k) 4)) (momentTerm q z k)).round fp32 .rn false).bits := by
  unfold field addMoments
  rw [flatMap_piece (fun _ _ => leBytes_length 4 _) (by simpa using hk), List.getElem_range, leNat_leBytes]
  exact Nat.mod_eq_of_lt (fp32_round_lt ..)

section
variable {s : State} {p : Party} {u : MomAdd} {x : Xlat} {bs : List Byte}

/-- A contribution made here (R378). -/
theorem State.momPut_here (hwalk : s.rangeWalk p.ctx .both u.addr 20 = .ok [(x, 20)]) (hx : isExternal x.loc = false)
    (hbs : s.fetch p u.addr 20 = .ok bs) : s.momPut p u = s.putPieces p [(x, 20)] (u.sums bs) := by
  have hhome : s.momHome p [(x, 20)] = none := by
    unfold State.momHome
    dsimp only
    rw [hx]
    rfl
  unfold State.momPut
  rw [hwalk]
  dsimp only
  rw [hhome, hbs]

theorem State.momPut_written (s : State) (p : Party) (u : MomAdd) : WrittenOut s (s.momPut p u) := by
  unfold State.momPut
  split
  · split
    · exact State.request_written _
    · split
      · exact State.putPieces_written _ _ _
      · exact .refl s
  · exact .refl s

theorem State.momPuts_written (p : Party) (us : List MomAdd) : WrittenOut s (us.foldl (fun t u => t.momPut p u) s) := by
  induction us generalizing s with
  | nil => exact .refl s
  | cons u us ih => exact (State.momPut_written s p u).trans ih

theorem State.fetchLane_of_fetch {va n lane : Nat} (h : s.fetch p va n = .ok bs) : s.fetchLane p va n lane = .ok bs := by
  unfold State.fetchLane
  split
  · next hwalk =>
    rw [State.fetch, hwalk] at h
    cases h
  · exact h

/-- Reads of sums that are all made. -/
theorem State.momSums_ok {l : Launch} {pixel : Fin 32 → Option (Nat × Nat)} {sums : Fin 32 → List Byte} {ls : List (Fin 32)}
    (hnone : ∀ i ∈ ls, pixel i = none → sums i = List.replicate 20 0)
    (hsome : ∀ i ∈ ls, ∀ q, pixel i = some q → s.fetch p (momAddr l q.1 q.2) 20 = .ok (sums i)) :
    s.momSums p l (ls.map fun i => (i.val, pixel i)) = .ok (ls.flatMap sums) := by
  induction ls with
  | nil => rfl
  | cons i ls ih =>
    have hrest := ih (fun j hj => hnone j (List.mem_cons_of_mem i hj)) fun j hj => hsome j (List.mem_cons_of_mem i hj)
    rw [List.map_cons, List.flatMap_cons]
    cases hp : pixel i with
    | none => rw [State.momSums, hrest, hnone i (List.mem_cons_self ..) hp]
    | some q =>
      rw [State.momSums, State.fetchLane_of_fetch (hsome i (List.mem_cons_self ..) q hp)]
      dsimp only
      rw [hrest]

end

/-! ### MOMACC (R240, R378) -/

section
variable {s : State} {g : Guard} {d : Nat} {a b : Src}

theorem exec_momacc (g : Guard) (d : Nat) (rec' : Bool) (a b : Src) (s : State) :
    exec (.momacc g d rec' a b) s = execMomacc g d rec' a b s := rfl

theorem momacc_elsewhere {rec' : Bool} (hr : Readable s (a.scalar || b.scalar) (a.uses 1 ++ b.uses 2))
    (htype : s.myLaunch.ltype ≠ 2) : Raises (.momacc g d rec' a b) s 0x08 8 := by
  have hi := exec_momacc g d rec' a b s
  unfold execMomacc at hi
  rw [bne_iff_ne.mpr htype] at hi
  exact raises_of_trap (hi.trans (State.stageOne_trap hr.converged)) (by decide) (by decide)

/-- The pixel that a lane reads, where it is not dropped. -/
def State.momPixel (s : State) (a : Src) (i : Fin 32) : Option (Nat × Nat) :=
  if s.myLaunch.mom = 0 ∨ s.covered s.myLaunch s.myBlock s.me.lanes[i] ((s.me.src a).lane i) = [] then none
  else some (((s.me.src a).lane i).toNat % 2 ^ 16, ((s.me.src a).lane i).toNat / 2 ^ 16)

/-- A reconstruction whose sums can all be read delivers each lane's transmittance. -/
theorem momacc_reads {sums : Fin 32 → List Byte} (hmem : s.memGate (s.wset g) 0 false = .go) (htype : s.myLaunch.ltype = 2)
    (hr : Readable s (a.scalar || b.scalar) (a.uses 1 ++ b.uses 1)) (hp : s.myLaunch.proof = false)
    (hd : s.destGate (s.wset g) (a.uses 1 ++ b.uses 1) [d] = .go)
    (hlen : ∀ i : Fin 32, (s.wset g).getLsbD i.val = true → (sums i).length = 20)
    (hnone : ∀ i : Fin 32, (s.wset g).getLsbD i.val = true → s.momPixel a i = none → sums i = List.replicate 20 0)
    (hsome : ∀ i : Fin 32, (s.wset g).getLsbD i.val = true → ∀ q, s.momPixel a i = some q →
      s.fetch s.me' (momAddr s.myLaunch q.1 q.2) 20 = .ok (sums i)) :
    InFlight (.momacc g d true a b) s (s.wset g) 0 (s.frees (a.uses 1 ++ b.uses 1) [d])
      [(d, fun i => transmittance (sums i) ((s.me.src b).lane i))] 0 fun t => t.mem = s.mem ∧ t.blocks = s.blocks := by
  have hsums := State.momSums_ok (s := s) (p := s.me') (l := s.myLaunch) (pixel := s.momPixel a) (sums := sums)
    (ls := LaneMask.lanes (s.wset g)) (fun i hi => hnone i (LaneMask.mem_lanes.mp hi))
    fun i hi => hsome i (LaneMask.mem_lanes.mp hi)
  have hsettled := s.dropKept_settle_consulted s.me'.ctx s.me'.who
  have hi := exec_momacc g d true a b s
  unfold execMomacc at hi
  rw [htype] at hi
  replace hi := hi.trans (State.stageOne_go hr.converged)
  rw [if_pos rfl] at hi
  unfold State.momRead at hi
  dsimp only at hi
  unfold State.momPixel at hsums
  rw [hsums] at hi
  dsimp only at hi
  unfold State.produceThen at hi
  rw [hmem, hr.readGate] at hi
  rw [List.map_cons, List.map_nil, hd] at hi
  replace hi := hi.trans (State.deliverRegs_launched hp hsettled.touched.me)
  rw [LaneFlags.of_zero] at hi
  refine inFlight_of_launched hi hsettled.touched.cur rfl (fun k hk _ i hi _ => ?_) ⟨?_, ?_⟩
  · obtain rfl : k = 0 := by simpa using hk
    have hmem : i ∈ LaneMask.lanes (s.wset g) := LaneMask.mem_lanes.mpr hi
    have hidx := List.idxOf_lt_length_of_mem hmem
    have hpiece := flatMap_piece (f := sums) (fun j hj => hlen j (LaneMask.mem_lanes.mp hj)) hidx
    rw [List.getElem_idxOf] at hpiece
    simp only [List.getElem_cons_zero, Storage.lane_g, Lanes.of_get, hpiece]
  · rw [State.advance_mem]
    exact hsettled.mem
  · rw [State.advance_blocks]
    exact hsettled.blocks

/-- A reconstruction in a launch without moments delivers 1.0. -/
theorem momacc_reads_none (hmem : s.memGate (s.wset g) 0 false = .go) (htype : s.myLaunch.ltype = 2)
    (hmom : s.myLaunch.mom = 0) (hr : Readable s (a.scalar || b.scalar) (a.uses 1 ++ b.uses 1))
    (hp : s.myLaunch.proof = false) (hd : s.destGate (s.wset g) (a.uses 1 ++ b.uses 1) [d] = .go) :
    InFlight (.momacc g d true a b) s (s.wset g) 0 (s.frees (a.uses 1 ++ b.uses 1) [d]) [(d, fun _ => 0x3F800000)] 0
      fun t => t.mem = s.mem ∧ t.blocks = s.blocks := by
  have hnone (i : Fin 32) : s.momPixel a i = none := if_pos (.inl hmom)
  have hread := momacc_reads (sums := fun _ => List.replicate 20 0) hmem htype hr hp hd (fun _ _ => rfl) (fun _ _ _ => rfl)
    fun i _ q hq => nomatch (hnone i).symm.trans hq
  simpa only [transmittance_zeros] using hread

/-- The contributions of an accumulation, in lane order. -/
def State.momAdds (s : State) (W : LaneMask) (a b : Src) : List MomAdd :=
  if s.myLaunch.mom = 0 then []
  else (LaneMask.lanes W).flatMap fun i =>
    (s.covered s.myLaunch s.myBlock s.me.lanes[i] ((s.me.src a).lane i)).map fun q =>
      ⟨momAddr s.myLaunch q.1 q.2, (s.me.srcAt b 1).lane i, (s.me.srcAt b 0).lane i, i.val⟩

/-- The machine once contributions have been made. -/
def State.momMade (s : State) (us : List MomAdd) : State :=
  ((us.foldl (fun u x => u.momPut s.me' x) s).dropKept s.me'.who).settle s.me'.ctx s.me'.who

/-- An accumulation whose contributions may all be made makes them one after another. -/
theorem momacc_adds (hmem : s.memGate (s.wset g) 0 false = .go) (htype : s.myLaunch.ltype = 2)
    (hr : Readable s (a.scalar || b.scalar) (a.uses 1 ++ b.uses 2)) (hv : s.versioned s.me.blk = false)
    (hgate : s.momGate s.me' (s.momAdds (s.wset g) a b) = .ok s) :
    Completes (.momacc g d false a b) s ((s.momMade (s.momAdds (s.wset g) a b)).retire s.myBlock.launch)
      (a.uses 1 ++ b.uses 2) := by
  have hfull (lines : List Nat) : s.versionFull s.me.blk lines = false := by
    rw [State.versionFull, hv]
    rfl
  have hi := exec_momacc g d false a b s
  unfold execMomacc at hi
  rw [htype] at hi
  replace hi := hi.trans (State.stageOne_go hr.converged)
  rw [if_neg Bool.false_ne_true] at hi
  unfold State.momAdd at hi
  dsimp only at hi
  change s.momGate s.me' (if s.myLaunch.mom = 0 then [] else _) = _ at hgate
  rw [hgate, hmem, hr.readGate, hfull] at hi
  change _ = Host.Outcome.next (State.advance (State.setMe (s.momMade (s.momAdds (s.wset g) a b))
    ((s.momMade (s.momAdds (s.wset g) a b)).me.free _))) at hi
  have hput := State.momPuts_written (s := s) s.me' (s.momAdds (s.wset g) a b)
  have hset : Consulted _ (s.momMade (s.momAdds (s.wset g) a b)) := State.dropKept_settle_consulted _ s.me'.ctx s.me'.who
  rw [hset.touched.me, hput.me] at hi
  refine completes_of_setMe ?_ (hset.touched.cur.trans hput.cur) ?_ hi
  · rw [hset.touched.warps, hput.warps]
  · rw [hset.block, hput.launch]
    rfl

end

theorem mapIdx_map {α β γ : Type} (f : α → β) (h : Nat → β → γ) (ls : List α) :
    (ls.map f).mapIdx h = ls.mapIdx fun k x => h k (f x) :=
  List.ext_getElem (by simp) fun k _ _ => by simp

/-- Settles O36: each rendering instruction by its own lemmas. -/
theorem renderInstructions : Obligations.RenderInstructions := by
  intro s g d op rec' a b v off W bk l lk lanes addr bytes covered us reserved hmem hbk
  have haddr : s.me.sramAt a off = addr := Warp.sramAt_eq s.me a off
  have hbytes (i : Fin 32) : s.primRecord a off i = bytes i := by
    rw [State.primRecord, haddr]
  have hreserved (i : Fin 32) : primReserved (s.primRecord a off i) = true ↔ reserved i := by
    rw [hbytes]
    exact primReserved_iff _
  refine ⟨fun htype hr hsram => ⟨fun hW hfree howners hlost hroom => ?_, ?_⟩, fun htype hW hr => ?_, fun m p c k hk => ?_,
    fun htype hmom hr hp hd => momacc_reads_none hmem htype hmom hr hp hd, fun htype hmom hr hp hd sums hsums => ?_,
    fun sums z => ?_, ?_, fun u x bs hwalk hx hv hbs => State.momPut_here hwalk hx hbs,
    fun old q z k hk => addMoments_field old q z hk, fun htype hr => emitp_elsewhere hr htype,
    fun htype => ⟨fun hr => tblend_elsewhere hr htype, fun hr => momacc_elsewhere hr htype⟩⟩
  · have hdone := emitp_completes hmem hr (haddr ▸ hsram) htype hW
      (fun i hi => Bool.eq_false_iff.mpr (mt (hreserved i).mp (hfree i hi))) howners hlost hroom
    rw [State.retire_of_launches (s := s) (t := s.emittedTo _ _ _) rfl] at hdone
    rw [State.retire_rest]
    unfold State.emittedTo State.classified at hdone
    simp only [mapIdx_map, hbytes] at hdone
    exact hdone
  · rintro ⟨i, hi, hres⟩
    exact emitp_reserved hmem hr (haddr ▸ hsram) htype hi ((hreserved i).mpr hres)
  · have hdone := tblend_completes (op := op) hmem hr htype hW
    rw [State.retire_of_launches (s := s) (t := s.tiled s _) rfl] at hdone
    rw [State.retire_rest]
    exact hdone
  · have hread := channels_read (fun k old => blend op (c / 2 ^ (16 * k) % 2 ^ 16) old (c / 2 ^ 48 % 2 ^ 16)) m
      (8 * (32 * (p.2 % 32) + p.1 % 32)) 4 k
    rwa [if_pos hk] at hread
  · have hdropped {i : Fin 32} (hi : covered i = []) : s.momPixel a i = none := if_pos (.inr hi)
    have hkept {i : Fin 32} (hi : covered i ≠ []) :
        s.momPixel a i = some (((s.me.src a).lane i).toNat % 2 ^ 16, ((s.me.src a).lane i).toNat / 2 ^ 16) :=
      if_neg (not_or.mpr ⟨hmom, hi⟩)
    refine momacc_reads hmem htype hr hp hd (fun i hi => (hsums i hi).1) (fun i hi hnone => ?_) fun i hi q hsome => ?_
    · have hsum := (hsums i hi).2
      have hcov : covered i = [] := by
        by_contra hne
        rw [hkept hne] at hnone
        cases hnone
      dsimp only at hsum
      rwa [if_pos hcov] at hsum
    · have hsum := (hsums i hi).2
      have hcov : covered i ≠ [] := by
        intro hnil
        rw [hdropped hnil] at hsome
        cases hsome
      dsimp only at hsum
      rw [if_neg hcov] at hsum
      rw [hkept hcov] at hsome
      cases hsome
      exact hsum
  · intro m ins
    constructor
    · intro hbad
      exact transmittance_one (Bool.or_eq_true .. |>.mpr hbad)
    · intro hfin hpos b1 hvar hfront
      exact transmittance_front hfin hpos hvar hfront
  · intro htype hr hv adds hgate
    exact momacc_adds hmem htype hr hv hgate

end Sys2Proof.Machine

/-! PROOFS. Offers to device queues, CALLS, and O35 (R235, R236, R341). -/

namespace Sys2Proof.Machine

/-! ### Offers (R341) -/

theorem entryOk_iff (e : List Byte) : entryOk e = true ↔ 1 ≤ field e 0 4 ∧ 1 ≤ field e 4 2 ∧ 1 ≤ field e 6 2 ∧
    field e 0 4 * field e 4 2 * field e 6 2 < 2 ^ 32 ∧ field e 8 8 % 16 = 0 ∧ field e 0x10 4 < 2 ∧ field e 0x14 12 = 0 := by
  simp only [entryOk, Bool.and_eq_true, bne_iff_ne, beq_iff_eq, decide_eq_true_eq, Nat.one_le_iff_ne_zero, and_assoc]

section
variable {c : Context} {h : Nat} {e : List Byte} {x : DevQueue}

/-- A handle that names its device queue. -/
def DevQueue.named (x : DevQueue) (h : Nat) : Prop := x.inUse = true ∧ x.freed = false ∧ h = x.gen * 2 ^ 16 + h % 1024

theorem Context.devQueue_named (hx : Map.find c.devQueues (h % 1024) = some x) (hn : x.named h) : c.devQueue h = some x := by
  obtain ⟨huse, hfreed, hgen⟩ := hn
  rw [Context.devQueue, hx, Option.filter_some, huse, hfreed, beq_iff_eq.mpr hgen]
  rfl

theorem Context.devQueue_unnamed (hx : Map.find c.devQueues (h % 1024) = some x) (hn : ¬x.named h) : c.devQueue h = none := by
  have hoff : (x.inUse && !x.freed && h == x.gen * 2 ^ 16 + h % 1024) = false := by
    rw [Bool.eq_false_iff]
    intro hon
    rw [Bool.and_eq_true, Bool.and_eq_true, Bool.not_eq_true', beq_iff_eq] at hon
    exact hn ⟨hon.1.1, hon.1.2, hon.2⟩
  rw [Context.devQueue, hx, Option.filter_some, hoff]
  rfl

theorem Context.devQueue_none (hx : Map.find c.devQueues (h % 1024) = none) : c.devQueue h = none := by
  rw [Context.devQueue, hx]
  rfl

theorem Context.offer_unnamed (hx : c.devQueue h = none) : c.offer h e = (c, 2) := by
  rw [Context.offer, hx]

theorem Context.offer_malformed (hx : c.devQueue h = some x) (he : entryOk e = false) : c.offer h e = (c, 3) := by
  rw [Context.offer, hx]
  dsimp only
  rw [he]
  rfl

theorem Context.offer_full (hx : c.devQueue h = some x) (he : entryOk e = true) (hfull : 2 ^ x.logcap ≤ x.entries.length) :
    c.offer h e = (c, 1) := by
  rw [Context.offer, hx]
  dsimp only
  rw [he, if_pos hfull]
  rfl

/-- A device queue with an entry more. -/
def DevQueue.push (x : DevQueue) (e : List Byte) : DevQueue :=
  { x with entries := x.entries ++ [(x.accepted, e)], accepted := x.accepted + 1 }

/-- A context whose device queue has taken an entry. -/
def Context.taking (c : Context) (h : Nat) (x : DevQueue) (e : List Byte) : Context :=
  { c with devQueues := Map.set c.devQueues (h % 1024) (x.push e) }

theorem Context.offer_taken (hx : c.devQueue h = some x) (he : entryOk e = true) (hroom : x.entries.length < 2 ^ x.logcap) :
    c.offer h e = (c.taking h x e, 0) := by
  rw [Context.offer, hx]
  dsimp only
  rw [he, if_neg (Nat.not_le.mpr hroom)]
  rfl

theorem Context.taking_devQueue (hn : x.named h) : (c.taking h x e).devQueue h = some (x.push e) :=
  Context.devQueue_named (Map.find_set_same _ _ _) hn

end

/-! ### The entry in its queue's store (R341) -/

theorem Mem.byte_putBytes (m : Mem) (a : Nat) (bs : List Byte) (x : Nat) :
    (m.putBytes a bs).byte x = if a ≤ x ∧ x < a + bs.length then (bs[x - a]?).getD 0 else m.byte x := by
  split
  · next hx =>
    obtain ⟨ha, hb⟩ := hx
    induction bs generalizing m a with
    | nil => simp at hb; omega
    | cons b bs ih =>
      rw [List.length_cons] at hb
      rw [Mem.putBytes]
      by_cases hxa : x = a
      · rw [hxa, Mem.byte_putBytes_other _ _ _ _ (by omega), Mem.byte_setByte_same, Nat.sub_self]
        rfl
      · rw [ih _ (a + 1) (by omega) (by omega), show x - a = x - (a + 1) + 1 by omega, List.getElem?_cons_succ]
  · next hx => exact Mem.byte_putBytes_other m a bs x (by omega)

/-- A range of 64 bytes at a multiple of 64 lies in one page. -/
theorem pagesOf_aligned {va : Nat} (ha : va % 64 = 0) (hv : va < 2 ^ 57) : pagesOf va 64 = [(va, 64)] := by
  have hlast : (va + 64 - 1) / 2 ^ 16 = va / 2 ^ 16 := by omega
  have hmax : max va (va / 2 ^ 16 * 2 ^ 16) = va := by omega
  have hmin : min (va + 64) ((va / 2 ^ 16 + 1) * 2 ^ 16) = va + 64 := by omega
  unfold pagesOf
  rw [if_neg (by decide), hlast, Nat.sub_self]
  simp only [Nat.zero_add, List.range_one, List.map_cons, List.map_nil, Nat.add_zero, hmax, hmin, Nat.mod_eq_of_lt hv,
    Nat.add_sub_cancel_left]

section
variable {s : State} {ctx h : Nat} {e : List Byte} {x : DevQueue} {p : Xlat}

/-- A context's queues play no part in its translations. -/
theorem State.walk_devQueues (s : State) (ctx : Nat) (qs : List (Nat × DevQueue)) (need : Need) (va : Nat) :
    (s.setCtx ctx { s.ctx ctx with devQueues := qs }).walk ctx need va = s.walk ctx need va := by
  unfold State.walk State.entryAt
  rw [State.ctx_setCtx_same]
  rfl

theorem State.waitsOn_devQueues (s : State) (ctx : Nat) (qs : List (Nat × DevQueue)) (who : FaultWho) (va n : Nat) :
    (s.setCtx ctx { s.ctx ctx with devQueues := qs }).waitsOn ctx who va n = s.waitsOn ctx who va n := by
  unfold State.waitsOn
  rw [State.ctx_setCtx_same]

theorem State.storeEntry_written (s : State) (ctx h : Nat) (e : List Byte) : WrittenOut s (s.storeEntry ctx h e) := by
  unfold State.storeEntry
  split
  · exact .refl s
  · split
    · next hput =>
      unfold State.deliver at hput
      split at hput
      · cases hput
      · cases hput
      · cases hput
      · split at hput
        · cases hput
        · cases hput
          exact State.putPieces_written _ _ _
    · exact .refl s

/-- A taken entry stands in its place when that is memory of this device. -/
theorem State.storeEntry_byte (hq : (s.ctx ctx).devQueue h = some x) (hlen : e.length = 64) (hal : x.store % 64 = 0)
    (hnone : Map.find s.blocks (2 ^ 40) = none)
    (hans : s.waitsOn ctx (.queue x.queue) (x.store + 64 * ((x.accepted - 1) % 2 ^ x.logcap)) 64 = false)
    (hend : x.store + 64 * 2 ^ x.logcap ≤ 2 ^ 57)
    (hwalk : s.walk ctx .write (x.store + 64 * ((x.accepted - 1) % 2 ^ x.logcap)) = .ok p) (hloc : p.loc < 2 ^ 38)
    (hdisc : p.disc = false) (a : Nat) :
    (s.storeEntry ctx h e).mem.byte a = if p.loc ≤ a ∧ a < p.loc + 64 then (e[a - p.loc]?).getD 0 else s.mem.byte a := by
  have hslot : (x.accepted - 1) % 2 ^ x.logcap < 2 ^ x.logcap := Nat.mod_lt _ (Nat.two_pow_pos _)
  have hva : x.store + 64 * ((x.accepted - 1) % 2 ^ x.logcap) < 2 ^ 57 := by omega
  have hrange : s.rangeWalk ctx .write (x.store + 64 * ((x.accepted - 1) % 2 ^ x.logcap)) 64 = .ok [(p, 64)] := by
    rw [State.rangeWalk, pagesOf_aligned (by omega) hva, List.foldr_cons, List.foldr_nil, hwalk]
    rfl
  have hhere : isExternal p.loc = false := decide_eq_false (Nat.not_le.mpr hloc)
  have hstore : s.storeEntry ctx h e = s.putMem p.loc e := by
    unfold State.storeEntry State.deliver
    rw [hq]
    dsimp only
    rw [Nat.mod_eq_of_lt hva, hlen, hrange]
    dsimp only
    rw [hans, if_neg Bool.false_ne_true]
    dsimp only
    rw [State.putPieces, State.putPieces, State.writeAt_here hhere hdisc hnone, List.take_of_length_le (Nat.le_of_eq hlen)]
  rw [hstore, State.putMem_mem, Mem.byte_putBytes, hlen]

end

/-! ### ENQ (R341) -/

section
variable {s : State} {g : Guard} {d : Nat} {rel : Bool} {sc : Scope} {a : Src} {off h : Word}

theorem exec_enq (g : Guard) (d : Nat) (rel : Bool) (sc : Scope) (a : Src) (off h : Word) (s : State) :
    exec (.enq g d rel sc a off h) s = execEnq g d rel sc a off h s := rfl

/-- The entry that an ENQ offers. -/
def State.offered (s : State) (g : Guard) (a : Src) (off : Word) : List Byte :=
  leBytes 64 (s.sramNat s.me.blk (s.me.sramAt a off (s.wset g).lowest) 64)

/-- The checks of an ENQ let it through. -/
structure Offers (s : State) (g : Guard) (d : Nat) (a : Src) (off : Word) : Prop where
  nonempty : s.wset g ≠ 0
  unproved : s.myLaunch.proof = false
  readable : Readable s a.scalar (a.uses 1)
  memory : s.memGate (s.wset g &&& LaneMask.one (s.wset g).lowest) 0 false = .go
  inside : s.sramGate s.me.blk (s.wset g &&& LaneMask.one (s.wset g).lowest)
    (fun _ => s.me.sramAt a off (s.wset g).lowest) 64 64 = .go
  release : s.releaseGate (s.wset g &&& LaneMask.one (s.wset g).lowest) true = .go
  dest : s.destGate (s.wset g) (a.uses 1) [d] = .go

theorem Offers.enq (ho : Offers s g d a off) {r : Context × Nat}
    (hr : (s.ctx s.myCtx).offer h.toNat (s.offered g a off) = r) :
    exec (.enq g d rel sc a off h) s = s.deliverRegs
      (if s.wset g = 0 ∨ r.2 ≠ 0 then s else (s.setCtx s.myCtx r.1).storeEntry s.myCtx h.toNat (s.offered g a off))
      (s.wset g) 0 (a.uses 1) [(d, .u (BitVec.ofNat 32 r.2))] LaneFlags.zero := by
  subst hr
  have hi := exec_enq g d rel sc a off h s
  unfold execEnq at hi
  dsimp only at hi
  rw [ho.unproved] at hi
  replace hi := hi.trans (State.stageOne_go ho.readable.converged)
  unfold State.produceThen at hi
  rw [ho.memory, LaneMask.bne_zero ho.nonempty, ho.inside, ho.release, ho.readable.readGate, List.map_cons, List.map_nil,
    ho.dest] at hi
  exact hi

/-- A refused entry changes nothing, and its status is delivered. -/
theorem Offers.refused (ho : Offers s g d a off) {c : Context} {n : Nat}
    (hr : (s.ctx s.myCtx).offer h.toNat (s.offered g a off) = (c, n)) (hn : n ≠ 0) :
    InFlight (.enq g d rel sc a off h) s (s.wset g) 0 (s.frees (a.uses 1) [d]) [(d, fun _ => BitVec.ofNat 32 n)] 0
      (OnlyMe s) := by
  have hi := ho.enq (rel := rel) (sc := sc) hr
  rw [if_pos (.inr hn)] at hi
  replace hi := hi.trans (State.deliverRegs_launched ho.unproved rfl)
  rw [LaneFlags.of_zero] at hi
  refine inFlight_of_launched hi rfl rfl (fun k hk _ _ _ _ => ?_) (State.launched_only s _ _ _ _ _)
  obtain rfl : k = 0 := by simpa using hk
  rfl

/-- A taken entry goes to its queue, and to the queue's store. -/
theorem Offers.taken (ho : Offers s g d a off) {c : Context}
    (hr : (s.ctx s.myCtx).offer h.toNat (s.offered g a off) = (c, 0)) :
    InFlight (.enq g d rel sc a off h) s (s.wset g) 0 (s.frees (a.uses 1) [d]) [(d, fun _ => 0)] 0 fun t =>
      t = { (s.setCtx s.myCtx c).storeEntry s.myCtx h.toNat (s.offered g a off) with warps := t.warps } := by
  have hw := State.storeEntry_written (s.setCtx s.myCtx c) s.myCtx h.toNat (s.offered g a off)
  have hi := ho.enq (rel := rel) (sc := sc) hr
  rw [if_neg (not_or.mpr ⟨ho.nonempty, not_not.mpr rfl⟩)] at hi
  replace hi := hi.trans (State.deliverRegs_launched ho.unproved hw.me)
  rw [LaneFlags.of_zero] at hi
  refine inFlight_of_launched hi hw.cur rfl (fun k hk _ _ _ _ => ?_) ?_
  · obtain rfl : k = 0 := by simpa using hk
    rfl
  · refine State.advance_unproved ?_
    rw [State.myLaunch_setMe, hw.myLaunch]
    · exact ho.unproved
    · rw [State.launched_rest, hw.me]
      rfl

end

/-! ### Windows that threads join (R236, R338) -/

/-- A held thread waits in a window of a target. -/
def WaitsIn (x : HeldThread) (target : VAddr) (ws : List Window) : Prop := ∃ w ∈ ws, w.target = target ∧ x ∈ w.threads

section
variable {x : HeldThread} {target : VAddr} {ws : List Window}

theorem WaitsIn.cons (w : Window) (h : WaitsIn x target ws) : WaitsIn x target (w :: ws) := by
  obtain ⟨v, hv, hx⟩ := h
  exact ⟨v, List.mem_cons_of_mem w hv, hx⟩

/-- A thread that joins waits in a window of its target. -/
theorem waitsIn_joins (x : HeldThread) (target : VAddr) (ws : List Window) :
    WaitsIn x target (joinWindows target [] [x] ws) := by
  induction ws with
  | nil => exact ⟨_, List.mem_cons_self .., rfl, List.mem_singleton.mpr rfl⟩
  | cons w ws ih =>
    rw [joinWindows]
    split
    · next hjoin =>
      rw [Bool.and_eq_true, Bool.and_eq_true, beq_iff_eq, beq_iff_eq] at hjoin
      exact ⟨_, List.mem_cons_self .., hjoin.1.2, List.mem_append_right _ (List.mem_singleton.mpr rfl)⟩
    · exact ih.cons w

/-- A window that others join keeps its threads. -/
theorem WaitsIn.join (h : WaitsIn x target ws) (target' : VAddr) (rays : List HeldRay) (threads : List HeldThread) :
    WaitsIn x target (joinWindows target' rays threads ws) := by
  induction ws with
  | nil =>
    obtain ⟨w, hw, -⟩ := h
    cases hw
  | cons w ws ih =>
    obtain ⟨v, hv, htarget, hx⟩ := h
    rw [joinWindows]
    split
    · rcases List.mem_cons.mp hv with rfl | hv
      · exact ⟨_, List.mem_cons_self .., htarget, List.mem_append_left _ hx⟩
      · exact WaitsIn.cons _ ⟨v, hv, htarget, hx⟩
    · rcases List.mem_cons.mp hv with rfl | hv
      · exact ⟨_, List.mem_cons_self .., htarget, hx⟩
      · exact (ih ⟨v, hv, htarget, hx⟩).cons w

/-- Threads that join one after another wait in windows of their targets. -/
theorem waitsIn_joins_each {f : Fin 32 → HeldThread} {target : Fin 32 → VAddr} {ls : List (Fin 32)} {l : Fin 32}
    (ws : List Window) (hl : l ∈ ls ∨ WaitsIn (f l) (target l) ws) :
    WaitsIn (f l) (target l) (ls.foldl (fun ws i => joinWindows (target i) [] [f i] ws) ws) := by
  induction ls generalizing ws with
  | nil => exact hl.resolve_left (List.not_mem_nil)
  | cons i ls ih =>
    rw [List.foldl_cons]
    refine ih _ ?_
    rcases hl with hl | hl
    · rcases List.mem_cons.mp hl with rfl | hl
      · exact .inr (waitsIn_joins _ _ _)
      · exact .inl hl
    · exact .inr (hl.join _ _ _)

/-- Windows that close keep their threads. -/
theorem WaitsIn.map_closed (h : WaitsIn x target ws) (p : Window → Bool) :
    WaitsIn x target (ws.map fun w => { w with closed := p w }) := by
  obtain ⟨w, hw, hx⟩ := h
  exact ⟨_, List.mem_map_of_mem hw, hx⟩

end

/-! ### CALLS (R236) -/

section
variable {s : State} {g : Guard} {a b : Src} {off : Word}

theorem exec_calls (g : Guard) (a b : Src) (off : Word) (s : State) : exec (.calls g a b off) s = execCalls g a b off s := rfl

theorem State.fullStacks_none {W : LaneMask} (h : ∀ l : Fin 32, W.getLsbD l.val = true → s.me.lanes[l].stack.length < 16) :
    s.fullStacks W = 0 := by
  rw [State.fullStacks_eq, List.countP_eq_zero]
  intro l hl
  rw [decide_eq_true_iff, Nat.not_le]
  exact h l (LaneMask.mem_lanes.mp hl)

/-- CALLS where the launch does not regroup is a call with its link 16 bytes on. -/
theorem calls_plain (hreg : s.myLaunch.regrp = false) (hr : Readable s a.scalar (a.uses 1)) (hj : s.jumpGate g false a = .go)
    (hc : s.callGate (s.wset g) = .go) :
    Steps (.calls g a b off) s (s.me.free (s.frees (a.uses 1) [])) fun l =>
      { s.laneAt (fun l => if (s.wset g).getLsbD l.val then (s.regTarget a l).extractLsb' 2 55 else s.cur.next) l with
        stack := if (s.wset g).getLsbD l.val then ⟨(s.cur.pc + 16).extractLsb' 2 55, false⟩ :: s.me.lanes[l].stack
          else s.me.lanes[l].stack } := by
  have hi := exec_calls g a b off s
  unfold execCalls at hi
  dsimp only at hi
  rw [hreg, hj, hc] at hi
  simp only [Bool.false_and, Bool.or_false, Bool.false_eq_true, if_false, List.append_nil] at hi
  replace hi := hi.trans (State.perform_go hr)
  rw [State.freed_me, State.setMe_freed] at hi
  refine steps_of_moveRun hi rfl (Warp.free_blk _ _) fun l => ?_
  rw [Warp.push_lane, Warp.free_lanes, addrPc_eq]
  unfold State.laneAt Cur.link
  rw [addrPc_eq]
  dsimp only
  cases (s.wset g).getLsbD l.val <;> rfl

/-- The executing warp as CALLS leaves it in a launch that regroups. -/
def State.heldWarp (s : State) (W : LaneMask) (a : Src) (us : List Use) (rec' : VAddr) : Warp :=
  (((s.me.free (s.frees us [])).push W ⟨s.cur.link 16, true⟩).issued s.cur.run
    fun l => if W.getLsbD l.val then addrPc (s.regTarget a l) else s.cur.next).hold W rec'

theorem Warp.hold_lane (w : Warp) (W : LaneMask) (rec' : VAddr) (l : Fin 32) :
    (w.hold W rec').lanes[l] = if W.getLsbD l.val then { w.lanes[l] with st := .held, lrec := rec' } else w.lanes[l] := by
  simp [Warp.hold]

variable {W : LaneMask} {us : List Use} {rec' : VAddr}

theorem Warp.hold_rest {v w : Warp} (h : v = { w with lanes := v.lanes, waitCount := 0 }) (W : LaneMask) (rec' : VAddr) :
    v.hold W rec' = { w with lanes := (v.hold W rec').lanes, waitCount := 0 } := by
  obtain ⟨ls, rfl⟩ : ∃ ls, v = { w with lanes := ls, waitCount := 0 } := ⟨_, h⟩
  rfl

theorem Warp.push_rest (w : Warp) (W : LaneMask) (k : Link) : w.push W k = { w with lanes := (w.push W k).lanes } := rfl

theorem Warp.issued_push_rest (w : Warp) (W run : LaneMask) (k : Link) (pc : Fin 32 → BitVec 55) :
    (w.push W k).issued run pc = { w with lanes := ((w.push W k).issued run pc).lanes, waitCount := 0 } := by
  obtain ⟨ls, hls⟩ : ∃ ls, w.push W k = { w with lanes := ls } := ⟨_, Warp.push_rest w W k⟩
  rw [hls]
  exact Warp.issued_rest _ run pc

theorem Warp.held_rest (w : Warp) (W run : LaneMask) (k : Link) (pc : Fin 32 → BitVec 55) (rec' : VAddr) :
    ((w.push W k).issued run pc).hold W rec' =
      { w with lanes := (((w.push W k).issued run pc).hold W rec').lanes, waitCount := 0 } :=
  Warp.hold_rest (Warp.issued_push_rest w W run k pc) W rec'

theorem Warp.issued_lane_age (w : Warp) (run : LaneMask) (pc : Fin 32 → BitVec 55) (l : Fin 32) :
    ∃ n, (w.issued run pc).lanes[l] =
      { w.lanes[l] with pc := if run.getLsbD l.val then pc l else w.lanes[l].pc, age := n } :=
  ⟨_, Warp.issued_lane w run pc l⟩

/-- A thread of W is HELD with its link; another goes on with its run. -/
theorem Warp.held_lane (w : Warp) (W run : LaneMask) (k : Link) (pc : Fin 32 → BitVec 55) (rec' : VAddr) (l : Fin 32) :
    ∃ n, (((w.push W k).issued run pc).hold W rec').lanes[l] =
      if W.getLsbD l.val then { w.lanes[l] with
        pc := if run.getLsbD l.val then pc l else w.lanes[l].pc
        st := .held, stack := k :: w.lanes[l].stack, lrec := rec', age := n }
      else { w.lanes[l] with pc := if run.getLsbD l.val then pc l else w.lanes[l].pc, age := n } := by
  obtain ⟨n, hn⟩ := Warp.issued_lane_age (w.push W k) run pc l
  refine ⟨n, ?_⟩
  rw [Warp.hold_lane, hn, Warp.push_lane]
  cases W.getLsbD l.val <;> rfl

theorem Warp.held_fields (w : Warp) (W run : LaneMask) (k : Link) (pc : Fin 32 → BitVec 55) (rec' : VAddr) :
    (((w.push W k).issued run pc).hold W rec').blk = w.blk ∧ (((w.push W k).issued run pc).hold W rec').vregs = w.vregs := by
  rw [Warp.held_rest]
  exact ⟨rfl, rfl⟩

theorem State.heldWarp_fields (s : State) (W : LaneMask) (a : Src) (us : List Use) (rec' : VAddr) :
    (s.heldWarp W a us rec').blk = s.me.blk ∧
      (s.heldWarp W a us rec').vregs = (s.me.free (s.frees us [])).vregs := by
  unfold State.heldWarp
  obtain ⟨hblk, hvregs⟩ := Warp.held_fields (s.me.free (s.frees us [])) W s.cur.run ⟨s.cur.link 16, true⟩
    (fun l => if W.getLsbD l.val then addrPc (s.regTarget a l) else s.cur.next) rec'
  exact ⟨hblk.trans (Warp.free_blk _ _), hvregs⟩

/-- A thread of W is HELD at its target with its link; another goes on with its run. -/
theorem State.heldWarp_lane (s : State) (W : LaneMask) (a : Src) (us : List Use) (rec' : VAddr) (l : Fin 32) :
    let k := s.laneAt (fun l => if W.getLsbD l.val then (s.regTarget a l).extractLsb' 2 55 else s.cur.next) l
    ∃ n, (s.heldWarp W a us rec').lanes[l] = if W.getLsbD l.val then { k with
        st := .held, lrec := rec', stack := ⟨(s.cur.pc + 16).extractLsb' 2 55, true⟩ :: s.me.lanes[l].stack, age := n }
      else { k with age := n } := by
  obtain ⟨n, hn⟩ := Warp.held_lane (s.me.free (s.frees us [])) W s.cur.run ⟨s.cur.link 16, true⟩
    (fun l => if W.getLsbD l.val then addrPc (s.regTarget a l) else s.cur.next) rec' l
  rw [Warp.free_lanes, addrPc_eq, Cur.link, addrPc_eq] at hn
  exact ⟨n, hn⟩

/-- A warp with a HELD thread keeps its slot. -/
theorem Warp.over_of_held {w : Warp} {l : Fin 32} (h : w.lanes[l].st = .held) : w.over = false := by
  have hended : w.ended = false := by
    unfold Warp.ended
    refine List.all_eq_false.mpr ⟨l, List.mem_finRange l, ?_⟩
    rw [h]
    decide
  rw [Warp.over, hended]
  rfl

/-- The collator windows of the block once the threads of W have joined theirs. -/
def State.joined (s : State) (W : LaneMask) (a b : Src) (rec' : VAddr) : List Window :=
  (LaneMask.lanes W).foldl (fun ws i =>
    joinWindows (s.regTarget a i) [] [⟨s.cur.slot, i.val, s.regTarget a i, (s.me.src b).lane i, rec'⟩] ws)
    (s.block s.me.blk).collator

/-- The machine as CALLS leaves it before what follows the end of threads. -/
def State.callsHeld (s : State) (W : LaneMask) (a b : Src) (us : List Use) (rec' : VAddr) : State :=
  let t := (s.setMe ((s.me.free (s.frees us [])).push W ⟨s.cur.link 16, true⟩)).jump W (s.regTarget a)
  (t.setMe (t.me.hold W rec')).joinThreads W (s.regTarget a) (fun l => (s.me.src b).lane l) rec' s.cur.slot

theorem State.callsHeld_eq (s : State) (W : LaneMask) (a b : Src) (us : List Use) (rec' : VAddr) : ∃ ls l,
    s.callsHeld W a b us rec' = State.setBlock { s.setMe (s.heldWarp W a us rec') with launches := ls } s.me.blk
      { s.block s.me.blk with collator := closeFull l (s.joined W a b rec') } := by
  have hmove : ∃ ls, (s.setMe ((s.me.free (s.frees us [])).push W ⟨s.cur.link 16, true⟩)).jump W (s.regTarget a) =
      { s.setMe (((s.me.free (s.frees us [])).push W ⟨s.cur.link 16, true⟩).issued s.cur.run
        fun l => if W.getLsbD l.val then addrPc (s.regTarget a l) else s.cur.next) with launches := ls } := by
    rw [State.jump, State.moveRun, State.retire_rest, State.setMe_setMe, State.me_setMe]
    exact ⟨_, rfl⟩
  obtain ⟨ls, hls⟩ := hmove
  have hme : State.me { s.setMe (((s.me.free (s.frees us [])).push W ⟨s.cur.link 16, true⟩).issued s.cur.run
      fun l => if W.getLsbD l.val then addrPc (s.regTarget a l) else s.cur.next) with launches := ls } = _ :=
    State.me_setMe s _
  have hset (v w : Warp) : State.setMe { s.setMe v with launches := ls } w = { s.setMe w with launches := ls } := by
    rw [← State.setMe_setMe s v w]
    rfl
  have hblk : (State.warp { s.setMe (s.heldWarp W a us rec') with launches := ls } s.cur.slot).blk = s.me.blk :=
    (congrArg Warp.blk (State.me_setMe s _)).trans (s.heldWarp_fields W a us rec').1
  refine ⟨ls, Map.getD ls (s.block s.me.blk).launch Launch.blank, ?_⟩
  unfold State.callsHeld
  dsimp only
  rw [hls, hme, hset]
  change State.joinThreads { s.setMe (s.heldWarp W a us rec') with launches := ls } _ _ _ _ _ = _
  unfold State.joinThreads
  dsimp only
  rw [hblk]
  rfl

theorem State.callsHeld_warps : (s.callsHeld W a b us rec').warps = Map.set s.warps s.cur.slot (s.heldWarp W a us rec') := by
  obtain ⟨ls, l, h⟩ := s.callsHeld_eq W a b us rec'
  rw [h]
  rfl

theorem State.callsHeld_warp : (s.callsHeld W a b us rec').warp s.cur.slot = s.heldWarp W a us rec' := by
  rw [State.warp, State.callsHeld_warps, Map.getD_set_same]

theorem State.callsHeld_collator :
    ∃ l, ((s.callsHeld W a b us rec').block s.me.blk).collator = closeFull l (s.joined W a b rec') := by
  obtain ⟨ls, l, h⟩ := s.callsHeld_eq W a b us rec'
  exact ⟨l, by rw [h, State.block_setBlock_same]⟩

theorem State.callsHeld_mem : (s.callsHeld W a b us rec').mem = s.mem := by
  obtain ⟨ls, l, h⟩ := s.callsHeld_eq W a b us rec'
  rw [h]
  rfl

theorem State.callsHeld_cur : (s.callsHeld W a b us rec').cur = s.cur := by
  obtain ⟨ls, l, h⟩ := s.callsHeld_eq W a b us rec'
  rw [h]
  rfl

/-- While a thread is HELD what follows the end of threads only shuts windows. -/
theorem State.callsHeld_afterExit {l : Fin 32} (hl : W.getLsbD l.val = true) :
    (s.callsHeld W a b us rec').afterExit s.cur.slot = ((s.callsHeld W a b us rec').setWarp s.cur.slot
      (s.heldWarp W a us rec').checkHandler).windowsShut s.me.blk := by
  obtain ⟨n, hn⟩ := s.heldWarp_lane W a us rec' l
  rw [hl, if_pos rfl] at hn
  have hheld : (s.heldWarp W a us rec').lanes[l].st = .held := by rw [hn]
  obtain ⟨hblk, hlanes⟩ := Warp.checkHandler_rest (s.heldWarp W a us rec')
  replace hblk := hblk.trans (s.heldWarp_fields W a us rec').1
  have hover : (s.heldWarp W a us rec').checkHandler.over = false :=
    (Warp.checkHandler_over _).trans (Warp.over_of_held hheld)
  have hslot : (s.callsHeld W a b us rec').reslotted s.cur.slot (s.heldWarp W a us rec').checkHandler =
      (s.callsHeld W a b us rec').setWarp s.cur.slot (s.heldWarp W a us rec').checkHandler :=
    if_neg (ne_true_of_eq_false hover)
  have hlisted : (s.cur.slot, (s.heldWarp W a us rec').checkHandler) ∈ (((s.callsHeld W a b us rec').setWarp s.cur.slot
      (s.heldWarp W a us rec').checkHandler).windowsShut s.me.blk).blockWarps s.me.blk := by
    rw [State.windowsShut_rest]
    exact State.mem_blockWarps.mpr ⟨Map.mem_set.mpr (.inl rfl), hblk⟩
  have hleft : ((s.callsHeld W a b us rec').setWarp s.cur.slot
      (s.heldWarp W a us rec').checkHandler).blockWarps s.me.blk ≠ [] := by
    rw [State.windowsShut_rest] at hlisted
    exact List.ne_nil_of_mem hlisted
  have hopen := State.barrierDone_missing hlisted l fun hgo => hgo.1 (by rw [hlanes]; exact hheld)
  rw [State.afterExit_barrier (bk := s.me.blk)]
  · rw [State.callsHeld_warp, hslot, State.checkBarrier_open hopen]
  · rw [State.callsHeld_warp]
    exact (s.heldWarp_fields W a us rec').1
  · rw [State.callsHeld_warp, hslot]
    exact hleft

theorem State.windowsShut_collator {u : State} {x : HeldThread} {target : VAddr} {bk : Nat}
    (h : WaitsIn x target (u.block bk).collator) : WaitsIn x target ((u.windowsShut bk).block bk).collator := by
  unfold State.windowsShut
  split
  · exact h
  · rw [State.block_setBlock_same]
    exact h.map_closed fun _ => true

theorem Warp.checkHandler_vregs (w : Warp) : w.checkHandler.vregs = w.vregs := by
  unfold Warp.checkHandler
  split <;> rfl

/-- What a regrouping CALLS leaves: its threads HELD, each in a window of its target, the others gone on. -/
theorem State.callsHeld_ends (hW : W ≠ 0) : let t := (s.callsHeld W a b us rec').afterExit s.cur.slot
    t.me.lanes = (s.heldWarp W a us rec').lanes ∧ t.me.vregs = (s.me.free (s.frees us [])).vregs ∧ t.mem = s.mem ∧
    ∀ l : Fin 32, W.getLsbD l.val = true → WaitsIn ⟨s.cur.slot, l.val, s.regTarget a l, (s.me.src b).lane l, rec'⟩
      (s.regTarget a l) (t.block s.me.blk).collator := by
  intro t
  have ht : t = _ := State.callsHeld_afterExit (LaneMask.lowest_mem hW)
  have hme : t.me = (s.heldWarp W a us rec').checkHandler := by
    have hcur := State.callsHeld_cur (s := s) (W := W) (a := a) (b := b) (us := us) (rec' := rec')
    rw [ht, State.windowsShut_rest]
    change Map.getD (Map.set _ s.cur.slot _) (s.callsHeld W a b us rec').cur.slot _ = _
    rw [hcur, Map.getD_set_same]
  refine ⟨?_, ?_, ?_, fun l hl => ?_⟩
  · rw [hme]
    exact (Warp.checkHandler_rest _).2
  · rw [hme, Warp.checkHandler_vregs]
    exact (s.heldWarp_fields W a us rec').2
  · rw [ht, State.windowsShut_rest]
    exact State.callsHeld_mem (b := b) (rec' := rec')
  · obtain ⟨k, hk⟩ := State.callsHeld_collator (s := s) (W := W) (a := a) (b := b) (us := us) (rec' := rec')
    rw [ht]
    refine State.windowsShut_collator ?_
    change WaitsIn _ _ ((s.callsHeld W a b us rec').block s.me.blk).collator
    rw [hk]
    exact (waitsIn_joins_each (f := fun i => ⟨s.cur.slot, i.val, s.regTarget a i, (s.me.src b).lane i, rec'⟩) _
      (.inl (LaneMask.mem_lanes.mpr hl))).map_closed _

/-- CALLS in a launch that regroups. -/
theorem calls_regroups (hreg : s.myLaunch.regrp = true) (hr : Readable s (a.scalar || b.scalar) (a.uses 1 ++ b.uses 1))
    (hj : s.jumpGate g false a = .go) (hc : s.callGate (s.wset g) = .go) (hW : s.wset g ≠ 0) (hexit : s.exitGate = .go) :
    exec (.calls g a b off) s = .next
      ((s.callsHeld (s.wset g) a b (a.uses 1 ++ b.uses 1) (recordAddr s.cur.pc off)).afterExit s.cur.slot) := by
  have hi := exec_calls g a b off s
  unfold execCalls at hi
  dsimp only at hi
  rw [hreg, hj, hc, LaneMask.bne_zero hW, hexit] at hi
  simp only [Bool.true_and, if_true, Bool.not_true, Bool.false_eq_true, if_false] at hi
  replace hi := hi.trans (State.perform_go hr)
  rw [State.freed_me, State.setMe_freed, if_neg hW] at hi
  exact hi

end

/-- Settles O35: offers by what a context does with them, CALLS as a call or by the windows that its threads join. -/
theorem offersAndRegroupedCalls : Obligations.OffersAndRegroupedCalls := by
  intro s g d rel sc a b off h W W1 bk addr e gx gy gz ok i enq target pc link record callable
  have haddr : s.me.sramAt a off W.lowest = addr := congrFun (Warp.sramAt_eq s.me a off) _
  have he : s.offered g a off = e := by
    rw [State.offered, haddr]
  have hok : entryOk e = true ↔ ok := entryOk_iff e
  have hjump {us : List Use} {scalar : Bool} (hc : callable us scalar) :
      s.jumpGate g false a = .go ∧ s.callGate W = .go :=
    ⟨State.jumpGate_go (fun l hl => (hc.2 l hl).1) (by simp),
      State.callGate_go (State.fullStacks_none fun l hl => (hc.2 l hl).2)⟩
  refine ⟨fun hW hp hr hmem hsram hrel hd => ?_, fun hreg hc => ?_, fun hreg hc hW hexit _ _ => ?_⟩
  · have ho : Offers s g d a off := ⟨hW, hp, hr, hmem, haddr ▸ hsram, hrel, hd⟩
    refine ⟨fun x hx => ?_, fun hx => ?_⟩
    · intro named
      refine ⟨fun hn => ?_, fun hn hbad => ?_, fun hn hgood hfull => ?_, fun hn hgood hroom => ?_⟩
      · exact ho.refused (Context.offer_unnamed (Context.devQueue_unnamed hx hn)) (by decide)
      · exact ho.refused (Context.offer_malformed (Context.devQueue_named hx hn)
          (Bool.eq_false_iff.mpr (mt (he ▸ hok).mp hbad))) (by decide)
      · exact ho.refused (Context.offer_full (Context.devQueue_named hx hn) (he ▸ hok.mpr hgood) hfull) (by decide)
      · intro held stored
        have htaken := ho.taken (rel := rel) (sc := sc)
          (Context.offer_taken (Context.devQueue_named hx hn) (he ▸ hok.mpr hgood) hroom)
        rw [he] at htaken
        refine ⟨htaken, (State.storeEntry_written held _ _ _).rest, fun p hal hnone hans hend hwalk hloc hdisc => ?_⟩
        have hq : (held.ctx s.myCtx).devQueue h.toNat = some (x.push e) :=
          (congrArg (Context.devQueue · _) (State.ctx_setCtx_same ..)).trans (Context.taking_devQueue hn)
        exact State.storeEntry_byte hq (leBytes_length 64 _) hal hnone ((State.waitsOn_devQueues ..).trans hans) hend
          ((State.walk_devQueues ..).trans hwalk) hloc hdisc
    · exact ho.refused (Context.offer_unnamed (Context.devQueue_none hx)) (by decide)
  · obtain ⟨hj, hg⟩ := hjump hc
    exact calls_plain hreg hc.1 hj hg
  · obtain ⟨hj, hg⟩ := hjump hc
    obtain ⟨hlanes, hvregs, hmem, hwaits⟩ := State.callsHeld_ends (s := s) (a := a) (b := b)
      (us := a.uses 1 ++ b.uses 1) (rec' := recordAddr s.cur.pc off) hW
    refine ⟨_, calls_regroups hreg hc.1 hj hg hW hexit, fun l hl => ⟨?_, hwaits l hl⟩, fun l hl => ?_, hvregs, fun x => ?_⟩
    · obtain ⟨n, hn⟩ := s.heldWarp_lane W a (a.uses 1 ++ b.uses 1) (recordAddr s.cur.pc off) l
      have hrun : s.cur.run.getLsbD l.val = true := by
        have hwset : (s.cur.run &&& s.me.guard g).getLsbD l.val = true := hl
        rw [BitVec.getLsbD_and, Bool.and_eq_true] at hwset
        exact hwset.1
      rw [State.laneAt, hl, hrun, if_pos rfl] at hn
      rw [hlanes, hn]
      change _ = { s.me.lanes[l] with
        pc := if W.getLsbD l.val then (target l).extractLsb' 2 55 else s.cur.next
        st := .held, stack := link true :: s.me.lanes[l].stack, lrec := record, age := n }
      rw [hl]
      rfl
    · obtain ⟨n, hn⟩ := s.heldWarp_lane W a (a.uses 1 ++ b.uses 1) (recordAddr s.cur.pc off) l
      rw [hl] at hn
      rw [hlanes, hn]
      rfl
    · rw [hmem]

end Sys2Proof.Machine

/-! PROOFS. The refutation of O34: an engine channel that a collective freezes logs that in device memory (R403, R433). -/

namespace Sys2Proof.Machine

/-- A byte of device memory after an instruction. -/
def State.byteAfter (s : State) (i : Instr) (x : Nat) : Option Byte :=
  match exec i s with
  | .next t => some (t.mem.byte x)
  | _ => none

theorem State.byteAfter_of_next {i : Instr} {s t : State} (h : exec i s = .next t) (x : Nat) :
    s.byteAfter i x = some (t.mem.byte x) := by
  rw [State.byteAfter, h]

/-- A thread that may issue a COLL of one element on a group of this device alone, of a context whose root table holds a
malformed entry, so that it may read no page (R409); the event log is on and lies at 0x1000 (R433). -/
def forbiddenSourceState : State :=
  { State.reset with
    warps := [(0, { Warp.blank with
      lanes := (Vector.replicate 32 Lane.none).set 0 { Lane.none with st := .live }
      bregs := (Vector.replicate 16 0).set 1 (BitVec.ofNat 256 (2 ^ 64)) })]
    blocks := [(0, { Block.blank with area := [(0x10, 1)] })]
    launches := [(0, { Launch.blank with lpb := List.replicate 0x30 0 ++ [32], groups := [⟨some [0]⟩] })]
    mem := [(0, 5)]
    mss := { Mss.reset with lbase := 0x1000 }
    cur := ⟨0, 1, 0, 8⟩ }

/-- The COLL that it issues: it sums the words of the record in b1, by the descriptor at 0. -/
def forbiddenSourceColl : Instr := .coll ⟨7, false⟩ 0 false .allred .add false false false .blk .zs 0 1 0

theorem forbiddenSource_readable : Readable forbiddenSourceState false [] := ⟨by decide, by decide⟩

/-- The freeze of the channel writes its event: the last byte of the entry carries the mark of a first pass of the ring. -/
theorem forbiddenSource_logs : forbiddenSourceState.byteAfter forbiddenSourceColl 0x101F = some 0x5A := by decide

/-- Refutes O34: the statement keeps every byte of device memory where the memory form is issued, but a COLL whose source its
context may not read freezes its engine channel at once (R403), and the event of that is written to the log in device memory
(R433). -/
theorem not_collectiveCommands : ¬ Obligations.CollectiveCommands := by
  intro h
  obtain ⟨-, hmem⟩ := h forbiddenSourceState ⟨7, false⟩ 0 .allred .add false false false .blk .zs 0 1 0
    (by decide) (by decide) (by decide) (by decide) (by decide)
  obtain ⟨-, hgood⟩ := hmem forbiddenSource_readable (by decide) (by decide)
  obtain ⟨-, hgroup⟩ := hgood (by decide)
  obtain ⟨-, -, hissued⟩ := hgroup [0] (by decide)
  obtain ⟨t, hexec, -, -, -, hkept⟩ := hissued (by decide) (by decide)
  have hbyte := State.byteAfter_of_next hexec 0x101F
  rw [hkept] at hbyte
  exact absurd (hbyte.symm.trans forbiddenSource_logs) (by decide)

end Sys2Proof.Machine
